-- ==== Sys2Proof/Word.lean ====
section
/-!
DEFINITION. The words of the model: bytes, 64-bit registers (R5), and the plain record types that commands carry.
Widths are the manual's; everything that needs mending lives in Machine/Bits.lean.
-/

namespace Sys2Proof

/-- One byte. -/
abbrev Byte := BitVec 8

/-- A register: 64 bits, little-endian (R5). -/
abbrev Word := BitVec 64

end Sys2Proof
end

