-- ==== Sys2Proof/Syntax.lean ====
section
/-!
DEFINITION. The commands of the block: one constructor per row of spec/opcode_table.json, with the row's operands.
What the environment supplies (bytes a fetch returned, a status, a measured power) is an operand.
-/

namespace Sys2Proof

/-- The commands. -/
inductive Instr where
  /-- REGISTER_WRITE, R9: A write to any register that has no row of its own, applied under its field access codes, range check and job-state limits. -/
  | registerWrite (master : BitVec 8) (addr : BitVec 46) (size : Nat) (value : Word)
  /-- CMD_MEMORY_ACCESS, R384: A read or write of hub command memory of any size, refused with MISALIGN when it leaves one ring's 8 KiB. -/
  | cmdMemoryAccess (master : BitVec 8) (dev : BitVec 18) (write : Bool) (addr : BitVec 46) (size : Nat) (data : List Byte)
  /-- NOP, R393: Command-ring NOP completes with OK. -/
  | nop (ring : BitVec 4)
  /-- WRITE_INLINE, R393: Command-ring entry writes up to 224 inline bytes to a local address and completes after acknowledgement. -/
  | writeInline (ring : BitVec 4)
  /-- READ8, R393: Command-ring entry reads 8 bytes and returns them in the completion VALUE. -/
  | read8 (ring : BitVec 4)
  /-- COPY, R395: Command-ring entry requests a DMA copy between two global addresses on one of three channels. -/
  | copy (ring : BitVec 4)
  /-- DMA_CHANNEL_START, R395: A queued COPY starts on a DMA channel as soon as a channel frees, in acceptance order. -/
  | dmaChannelStart
  /-- COPY_COMPLETE, R395: A COPY ends when every write is acknowledged, or at its first nonzero status. -/
  | copyComplete (channel : BitVec 2)
  /-- LOAD, R44: Command-ring LOAD is accepted, the job state and manifest length are checked, and the manifest fetch begins. -/
  | load (ring : BitVec 4)
  /-- MANIFEST_FETCH_DONE, R44: The manifest fetch completes and the loader runs header, digest, directory, section and placement checks, and on a retained load compares digests. -/
  | manifestFetchDone
  /-- INITFETCH, R43: A FETCH_INIT fetch fails, the load stops, written memory is zeroised and LOAD completes with reason INITFETCH. -/
  | initfetch
  /-- LOAD_COMPLETE, R54: All load writes and the placement report are done, the LOAD completes and the job enters READY. -/
  | loadComplete
  /-- START, R55: Command-ring START moves READY to RUNNING, sets forward bases to 0 and starts every stage's cadence. -/
  | start (ring : BitVec 4)
  /-- UNLOAD, R57: Command-ring UNLOAD stops every stage and operation of the job and begins zeroisation. -/
  | unload (ring : BitVec 4)
  /-- ZEROISATION_COMPLETE, R60: Unload zeroisation finishes and the job state becomes EMPTY. -/
  | zeroisationComplete
  /-- RESET_REQ, R440: Command-ring signed reset request is verified against the authorised controller and nonce, then acts as RESET_N asserted. -/
  | resetReq (ring : BitVec 4)
  /-- QUOTE, R438: Command-ring QUOTE writes a signed attestation quote, and optionally the certificate, to the buffer. -/
  | quote (ring : BitVec 4)
  /-- CMD_DB_PI, R390: A doorbell or write of the producer index advances PI unless stale or beyond the ring. -/
  | cmdDbPi (master : BitVec 8) (src : BitVec 18) (ring : BitVec 4) (value : Word)
  /-- CMD_DB_CQH, R398: A write of the consumed completion count advances the completion head and frees waiting completions. -/
  | cmdDbCqh (master : BitVec 8) (src : BitVec 18) (ring : BitVec 4) (value : Word)
  /-- RING_ENABLE, R386: Setting CMD_RING_CFG.EN resets the ring's indices, stamps every slot and puts the ring in STOPPED. -/
  | ringEnable (master : BitVec 8) (ring : BitVec 4) (value : Word)
  /-- RING_DISABLE, R386: Clearing CMD_RING_CFG.EN stops fetching from the ring. -/
  | ringDisable (master : BitVec 8) (ring : BitVec 4) (value : Word)
  /-- RING_DISABLED, R386: The disabled ring's operations in flight have finished and written completions, and the ring enters DISABLED. -/
  | ringDisabled (ring : BitVec 4)
  /-- RESUME, R405: CMD_RING_CTL.RESUME moves a STOPPED ring to RUNNING when the completion queue size is valid. -/
  | resume (master : BitVec 8) (src : BitVec 18) (ring : BitVec 4)
  /-- STOP, R405: CMD_RING_CTL.STOP moves a RUNNING ring to STOPPED while its operations in flight continue. -/
  | stop (master : BitVec 8) (src : BitVec 18) (ring : BitVec 4)
  /-- ENTRY_FETCH, R391: The device fetches the slot at CI of an eligible RUNNING ring and checks its stamp. -/
  | entryFetch (ring : BitVec 4)
  /-- STAMP_REREAD, R391: After a stamp mismatch, the back-off interval expires and the slot is read again. -/
  | stampReread (ring : BitVec 4)
  /-- STAMP_TIMEOUT, R391: STAMP_TMO passes without a match; a STAMP completion is written and the ring is STOPPED. -/
  | stampTimeout (ring : BitVec 4)
  /-- COMPLETION_WRITE, R397: After an operation's writes are acknowledged, its completion entry is written to the completion queue. -/
  | completionWrite (ring : BitVec 4) (index : BitVec 32)
  /-- CQFAIL_RETRY, R399: A failed completion write is retried every 100 ticks until it succeeds or the ring is disabled. -/
  | cqfailRetry (ring : BitVec 4) (index : BitVec 32)
  /-- MBX_SEND, R402: The sender's MBX_SEND moves the channel to PENDING, latches WORDS, sets MBX_PEND and raises the receiver's wake event. -/
  | mbxSend (master : BitVec 8) (src : BitVec 18) (channel : BitVec 6) (value : Word)
  /-- MBX_ACK, R402: The receiver's MBX_ACK moves the channel to ACKED, latches RC, clears MBX_PEND and wakes the sender. -/
  | mbxAck (master : BitVec 8) (src : BitVec 18) (channel : BitVec 6) (value : Word)
  /-- MBX_DATA_WRITE, R402: A write of a channel's message word, refused with QFULL while the channel is PENDING. -/
  | mbxDataWrite (master : BitVec 8) (src : BitVec 18) (channel : BitVec 6) (word : BitVec 3) (value : Word)
  /-- MBX_BIND_WRITE, R400: Firmware binds a channel to a sender and receiver, refused once MBX_LOCK is set. -/
  | mbxBindWrite (master : BitVec 8) (channel : BitVec 6) (value : Word)
  /-- MBX_LOCK_WRITE, R400: Setting MBX_LOCK.LOCKED freezes the mailbox bindings until the next reset. -/
  | mbxLockWrite (master : BitVec 8)
  /-- SLOT_START, R80: When the previous slot completes, the stage controller starts the next slot, applying void decisions and catch-up shortening or compression. -/
  | slotStart (die : BitVec 2) (ctx : BitVec 5)
  /-- SLOT_BUDGET_EXPIRE, R73: A slot's budget elapses, ending a HOLD or the padding of a slot whose work is done. -/
  | slotBudgetExpire (die : BitVec 2) (ctx : BitVec 5)
  /-- SLOT_COMPLETE, R78: A slot completes; the lag, catch-up level, period and releases are updated. -/
  | slotComplete (die : BitVec 2) (ctx : BitVec 5)
  /-- BACKHAUL_SWITCH, R84: At the start of an undropped BACKHAUL slot, the host's units are switched to the backhaul context's pointers. -/
  | backhaulSwitch (die : BitVec 2) (ctx : BitVec 5)
  /-- BACKHAUL_RETURN, R84: When no further backhaul slot can start, the host's units switch back to the host context. -/
  | backhaulReturn (die : BitVec 2) (ctx : BitVec 5)
  /-- ADMISSION, R100: At an admission point, a FWD slot's micro-batch passes the ordered checks and is admitted, passed through or left waiting. -/
  | admission (die : BitVec 2) (ctx : BitVec 5)
  /-- MBQ_ABORT, R109: A write of MBQ_ABORT requests the abort of a STASHED micro-batch or sets ABORTFAIL. -/
  | mbqAbort (master : BitVec 8) (die : BitVec 2) (ctx : BitVec 5) (value : Word)
  /-- ABORT_RELEASE, R109: After the micro-batch's offload or prefetch transfers finish, the abort releases its pages and sets the context ABORTED. -/
  | abortRelease (die : BitVec 2) (ctx : BitVec 5) (mb : BitVec 8)
  /-- MBQ_GATE_WRITE, R114: A write of the convoy gate, applied at once and itself an admission point. -/
  | mbqGateWrite (master : BitVec 8) (die : BitVec 2) (ctx : BitVec 5) (value : Word)
  /-- MBQ_CTX_SEL_WRITE, R115: A write of MBQ_CTX_SEL latches a snapshot of the selected micro-batch context. -/
  | mbqCtxSelWrite (master : BitVec 8) (die : BitVec 2) (value : Word)
  /-- LEDGER_READ_FAULT, R488: A stage controller's read of ledger data completes with PARITY or POISON and the ledger is treated as damaged. -/
  | ledgerReadFault (ledger : BitVec 16) (status : BitVec 8)
  /-- STEP_VOTE_READY, R132: Every owned shard has ended step s, and the device contributes its finite or non-finite vote. -/
  | stepVoteReady
  /-- STEP_COMMIT, R132: A finite outcome advances every owned commit word under the step journal and sends commit notices. -/
  | stepCommit
  /-- STEP_DISCARD, R132: A non-finite outcome frees every WRITTEN slot of the step and leaves commit words unchanged. -/
  | stepDiscard
  /-- LED_RESOLVE_COMMIT, R142: A write of LED_RESOLVE with DISCARD 0 commits the held step. -/
  | ledResolveCommit (master : BitVec 8) (value : Word)
  /-- LED_RESOLVE_DISCARD, R142: A write of LED_RESOLVE with DISCARD 1 frees the held step's versions. -/
  | ledResolveDiscard (master : BitVec 8) (value : Word)
  /-- LED_SEL_WRITE, R143: A write of LED_SEL latches the selected ledger and slot into LED_DATA0 to LED_DATA5. -/
  | ledSelWrite (master : BitVec 8) (value : Word)
  /-- REPLICA_REGISTER, R136: An owner receives a replica's registration and records it or refuses it. -/
  | replicaRegister (src : BitVec 18) (shard : BitVec 32)
  /-- REGISTER_RETRY, R136: A replica refused with DENIED retries its registration after 1 ms. -/
  | registerRetry (ledger : BitVec 16)
  /-- REGISTER_REPLY, R136: A replica receives the owner's reply with the header address and commit word, or a refusal. -/
  | registerReply (ledger : BitVec 16) (result : BitVec 2) (header : Word)
  /-- COMMIT_NOTICE, R138: A replica receives a commit notice and either releases it or starts a fetch into a FREE slot. -/
  | commitNotice (notice : List Byte)
  /-- REPLICA_FETCH_DONE, R138: A replica fetch completes; on a fingerprint match it commits, otherwise it refetches or gives up. -/
  | replicaFetchDone (ledger : BitVec 16)
  /-- NOTICE_RELEASE, R137: The owner receives a replica's release and drops that replica's reference. -/
  | noticeRelease (src : BitVec 18) (shard : BitVec 32)
  /-- NOP_ME, R150: Sequencer NOP. -/
  | nopMe (engine : BitVec 6)
  /-- CFG, R150: Sequencer CFG loads a value into profile A, B or O. -/
  | cfg (engine : BitVec 6) (sel : BitVec 2) (value : BitVec 48)
  /-- SETX, R150: Sequencer SETX sets an index register to an immediate with tag 0. -/
  | setx (engine : BitVec 6) (d : BitVec 4) (imm : BitVec 48)
  /-- ADDX, R150: Sequencer ADDX adds a signed immediate to an index register. -/
  | addx (engine : BitVec 6) (d src : BitVec 4) (imm : BitVec 32)
  /-- LEA, R151: Sequencer LEA sets an index register to an offset in a tensor, version, activation or input space. -/
  | lea (engine : BitVec 6) (d : BitVec 4) (space : BitVec 2) (handle : BitVec 16) (imm : BitVec 32)
  /-- ADDXX, R150: Sequencer ADDXX adds two index registers. -/
  | addxx (engine : BitVec 6) (d src tx : BitVec 4)
  /-- LDA, R159: Sequencer loads a tile under profile A into a half of operand buffer A, optionally transposed. -/
  | lda (engine : BitVec 6) (t half : Bool) (x : BitVec 4) (offset : BitVec 32)
  /-- LDB, R159: Sequencer loads a tile under profile B into a half of operand buffer B. -/
  | ldb (engine : BitVec 6) (t half : Bool) (x : BitVec 4) (offset : BitVec 32)
  /-- LDS, R204: Sequencer loads N:16 indices, a zero-block bitmap or a row mask into the sidecar buffer. -/
  | lds (engine : BitVec 6) (half : Bool) (kind : BitVec 2) (x : BitVec 4) (offset : BitVec 32)
  /-- MMA, R189: Sequencer multiplies operand halves into an accumulator tile in chunks of 32 k. -/
  | mma (engine : BitVec 6) (clr ah bh mask : Bool) (tile : BitVec 5)
  /-- DRN_PLAIN, R164: Drain mode PLAIN converts and writes a tile, with row-block scales when BSIZE is set. -/
  | drnPlain (engine : BitVec 6) (tile : BitVec 5) (keep : Bool) (x xs : BitVec 4) (offset : BitVec 32)
  /-- DRN_AMAX, R184: Drain mode AMAX chooses and writes block scales and keeps the tile. -/
  | drnAmax (engine : BitVec 6) (tile : BitVec 5) (keep : Bool) (x xs : BitVec 4) (offset : BitVec 32)
  /-- DRN_QUANT, R165: Drain mode QUANT writes values quantised with the scales of the preceding AMAX. -/
  | drnQuant (engine : BitVec 6) (tile : BitVec 5) (keep : Bool) (x xs : BitVec 4) (offset : BitVec 32)
  /-- DRN_TOPK, R168: Drain mode TOPK merges each row into the top-k candidate store. -/
  | drnTopk (engine : BitVec 6) (tile : BitVec 5) (keep : Bool) (x xs : BitVec 4) (offset : BitVec 32)
  /-- DRN_TOPK_EMIT, R169: Drain mode TOPK_EMIT merges, writes the candidate lists and empties the store. -/
  | drnTopkEmit (engine : BitVec 6) (tile : BitVec 5) (keep : Bool) (x xs : BitVec 4) (offset : BitVec 32)
  /-- WAITM, R150: Sequencer waits until a milestone counter reaches an index register's value. -/
  | waitm (engine : BitVec 6) (counter : BitVec 14) (x : BitVec 4)
  /-- ADVM, R282: Sequencer advances a milestone counter after its earlier drains and loads complete. -/
  | advm (engine : BitVec 6) (counter : BitVec 14) (imm : BitVec 32)
  /-- BAR, R284: Sequencer arrives at a barrier and waits for its release. -/
  | bar (engine : BitVec 6) (barrier : BitVec 10)
  /-- LOOP, R150: Sequencer loop counter step and conditional branch. -/
  | loop (engine : BitVec 6) (l : BitVec 2) (count : BitVec 16) (target : BitVec 32)
  /-- JMP, R150: Sequencer branches to a target. -/
  | jmp (engine : BitVec 6) (target : BitVec 32)
  /-- BNZ, R150: Sequencer branches if an index register is nonzero. -/
  | bnz (engine : BitVec 6) (x : BitVec 4) (target : BitVec 32)
  /-- END, R149: Sequencer ends its part of the slot, clearing accumulators and flagging undrained tiles. -/
  | endOp (engine : BitVec 6)
  /-- MX_IX_SEL_WRITE, R172: A write of MX_IX_SEL latches the selected index register's value and tag. -/
  | mxIxSelWrite (master : BitVec 8) (engine : BitVec 6) (value : Word)
  /-- DSP_SUBMIT, R215: A write of DSP_SUBMIT queues a dispatch request or sets SUBFULL. -/
  | dspSubmit (master : BitVec 8) (die : BitVec 2) (value : Word)
  /-- DISPATCH_RUN, R216: The dispatch unit starts the next request, assigns choices and writes the routing record. -/
  | dispatchRun (die : BitVec 2)
  /-- DISPATCH_NOTICES, R218: After the record writes are acknowledged, the dispatch unit sends one notice per expert. -/
  | dispatchNotices (die : BitVec 2)
  /-- DISPATCH_COMPLETE, R218: Every notice is accepted; the unit writes STATUS, DROPPED and SPILLED and advances DONE. -/
  | dispatchComplete (die : BitVec 2)
  /-- INBOX_NOTICE, R222: An inbox takes a notice off its queue head and writes it into its slot, or discards it. -/
  | inboxNotice (die : BitVec 2) (inbox : BitVec 6)
  /-- INBOX_EMIT, R223: A position holding all sources' notices is gathered into the slot and one descriptor is emitted;
  `position` names it. -/
  | inboxEmit (die : BitVec 2) (inbox : BitVec 6) (position : BitVec 32)
  /-- READFAIL, R224: An inbox list or token read fails and the position, which `position` names, is emitted with REFUSED. -/
  | readfail (die : BitVec 2) (inbox : BitVec 6) (position : BitVec 32)
  /-- UPD_TRIGGER, R233: A write of UPD_TRIGGER queues an update of a ledger for step s, or ignores it. -/
  | updTrigger (master : BitVec 8) (die : BitVec 2) (value : Word)
  /-- UPD_SKIP, R235: A trigger with SKIP ends the shard's step s as finite without a new version. -/
  | updSkip (master : BitVec 8) (die : BitVec 2) (value : Word)
  /-- UPD_SKIP_FAIL, R235: A trigger with SKIP and FAIL ends the shard's step s as non-finite. -/
  | updSkipFail (master : BitVec 8) (die : BitVec 2) (value : Word)
  /-- UPDATE_START, R234: The oldest runnable trigger starts on the lowest idle update engine, reading and checking its hyperparameter block. -/
  | updateStart (die : BitVec 2)
  /-- UPDATE_SLOT_CLAIM, R126: A waiting update claims the lowest FREE ledger slot when one frees. -/
  | updateSlotClaim (engine : BitVec 4)
  /-- UPDATE_WRITTEN, R128: Every write of the update is acknowledged; STEP and FPRINT are written and the slot becomes WRITTEN. -/
  | updateWritten (engine : BitVec 4)
  /-- UPDATE_NONFINITE, R242: An update meets a NaN or infinity, stops and frees its slot. -/
  | updateNonfinite (engine : BitVec 4)
  /-- UPDATE_ACCESS_FAIL, R243: An update read or write completes with a nonzero status and the update writes no version. -/
  | updateAccessFail (engine : BitVec 4)
  /-- RISCV_INSTRUCTION, R249: A general core executes one RV64GCV instruction. -/
  | riscvInstruction (core : BitVec 7)
  /-- QSEND, R261: General core sends a message to a queue, waiting for room up to the send-wait limit. -/
  | qsend (core : BitVec 7)
  /-- QTRY, R261: General core sends without waiting and receives the status. -/
  | qtry (core : BitVec 7)
  /-- QFULL, R261: A stalled send reaches the queue's send-wait limit and the core raises exception QFULL. -/
  | qfull (core : BitVec 7)
  /-- QRECV, R275: General core waits for, copies and removes the head message of a queue. -/
  | qrecv (core : BitVec 7)
  /-- QTRYRECV, R275: General core receives the head message or returns 0 at once. -/
  | qtryrecv (core : BitVec 7)
  /-- QSEL, R278: General core waits on a select set and returns the position of a ready queue. -/
  | qsel (core : BitVec 7)
  /-- QSCFG, R278: General core loads a select set and resets its rotation. -/
  | qscfg (core : BitVec 7)
  /-- MADV, R282: General core advances a milestone counter. -/
  | madv (core : BitVec 7)
  /-- MWAIT, R282: General core waits until a milestone counter reaches a target. -/
  | mwait (core : BitVec 7)
  /-- MREAD, R259: General core reads a milestone counter. -/
  | mread (core : BitVec 7)
  /-- BARR, R284: General core arrives at a barrier and waits for its release. -/
  | barr (core : BitVec 7)
  /-- DGET, R262: General core reads a field of the incoming or outgoing descriptor. -/
  | dget (core : BitVec 7)
  /-- DSET, R263: General core writes a field of the outgoing descriptor. -/
  | dset (core : BitVec 7)
  /-- DMASK, R259: General core atomically updates the outgoing ROUTE_MASK. -/
  | dmask (core : BitVec 7)
  /-- HRES, R260: General core resolves a handle to a base address, size or package index. -/
  | hres (core : BitVec 7)
  /-- SLOTEND, R258: General core ends its part of the slot after its stores are acknowledged. -/
  | slotend (core : BitVec 7)
  /-- REMOTE_SEND_RETRY, R274: A remote message refused for lack of room is retried 100 ticks later. -/
  | remoteSendRetry (send : Nat)
  /-- SYN_MADV, R282: A write of SYN_MADV advances a package milestone counter. -/
  | synMadv (master : BitVec 8) (die : BitVec 2) (value : Word)
  /-- QU_PEEK_SEL, R289: A write of QU_PEEK_SEL latches the state and head entry of a package queue. -/
  | quPeekSel (master : BitVec 8) (die : BitVec 2) (value : Word)
  /-- REPLAYRATE_WINDOW, R306: A replay-rate window of a stack ends and a new one starts. -/
  | replayrateWindow (stack : BitVec 3)
  /-- MEM_PAR_THRESH_WRITE, R306: A write of MEM_PAR_THRESH sets the threshold and starts a new window. -/
  | memParThreshWrite (master : BitVec 8) (stack : BitVec 3) (value : Word)
  /-- HOLDCUT, R298: A grant exceeds the hold limit without data and is ended. -/
  | holdcut (sram : Bool) (index : BitVec 3) (master : BitVec 8)
  /-- PORT_MASK, R299: A master's reset or power-down sideband asserts or releases and its arbiter ports are masked or unmasked. -/
  | portMask (master : BitVec 8) (masked : Bool)
  /-- OFFLOAD_START, R309: The offload engine takes a request, checks the context and frames and starts copying pages out. -/
  | offloadStart
  /-- OFFLOAD_DONE, R309: Every offload write is acknowledged; the pages are released and the context is marked offloaded. -/
  | offloadDone (die : BitVec 2) (ctx : BitVec 5) (mb : BitVec 8)
  /-- PREFETCH_START, R310: A prefetch starts for an offloaded micro-batch and reserves its pages again. -/
  | prefetchStart (die : BitVec 2) (ctx : BitVec 5) (mb : BitVec 8)
  /-- PREFETCH_DONE, R310: The copy back is acknowledged and the frames are freed. -/
  | prefetchDone (die : BitVec 2) (ctx : BitVec 5) (mb : BitVec 8)
  /-- OFLFAIL, R311: An offload write fails and the offload is abandoned. -/
  | oflfail (die : BitVec 2) (ctx : BitVec 5) (mb : BitVec 8)
  /-- FETCHFAIL, R311: A prefetch read fails, its pages are released and the context set ABORTED. -/
  | fetchfail (die : BitVec 2) (ctx : BitVec 5) (mb : BitVec 8)
  /-- DATA_FLIT, R319: A received DATA flit is checked, accepted, discarded as ahead or duplicate, and its acknowledgement, NAK and credit are read. -/
  | dataFlit (port : BitVec 4) (flit : List Byte)
  /-- IDLE_FLIT, R319: A received IDLE flit's sequence, acknowledgement, NAK and credit are read. -/
  | idleFlit (port : BitVec 4) (flit : List Byte)
  /-- TRAIN_FLIT, R334: A received TRAIN flit advances training or takes an ACTIVE link down. -/
  | trainFlit (port : BitVec 4) (lane : BitVec 1) (skew : BitVec 8) (flit : List Byte)
  /-- DOWN_FLIT, R328: A received DOWN flit takes the link down with cause PEER. -/
  | downFlit (port : BitVec 4) (flit : List Byte)
  /-- REPLAY_TIMEOUT, R322: The replay timer on the oldest unacknowledged flit expires and a replay pass starts. -/
  | replayTimeout (port : BitVec 4)
  /-- REPLAY_WINDOW_END, R327: A window of 2^20 flit slots ends and the replay count restarts. -/
  | replayWindowEnd (port : BitVec 4)
  /-- RXTIMEOUT, R328: No good flit arrives for LNK_TMO.RX ticks and the link goes down. -/
  | rxtimeout (port : BitVec 4)
  /-- LANE_SIGNAL_LOSS, R328: A lane loses light, lock or alignment and the link goes down with cause SIGNAL. -/
  | laneSignalLoss (port : BitVec 4) (lane : BitVec 1) (lost : BitVec 3)
  /-- LANE_LOCK, R333: Light and lock on every selected lane moves a port from DETECT to TRAIN. -/
  | laneLock (port : BitVec 4) (lane : BitVec 1) (power : BitVec 8)
  /-- TRAIN_TIMEOUT, R333: Training lasts 5 ms without success and the port goes DOWN with TRAINFAIL. -/
  | trainTimeout (port : BitVec 4)
  /-- HOLDOFF_EXPIRE, R333: HOLDOFF elapses in DOWN and the port enters DETECT when AUTO is 1. -/
  | holdoffExpire (port : BitVec 4)
  /-- DOWN_FLIT_END, R329: After 10 µs of DOWN flits the port stops sending and its lasers turn off. -/
  | downFlitEnd (port : BitVec 4)
  /-- LNK_RESET, R328: LNK_CTL.RESET takes the link down with cause RESET and retrains it. -/
  | lnkReset (master : BitVec 8) (port : BitVec 4)
  /-- LNK_DISABLE, R328: LNK_CTL.DISABLE takes the link down and enters DISABLED. -/
  | lnkDisable (master : BitVec 8) (port : BitVec 4)
  /-- LNK_ENABLE, R333: LNK_CTL.ENABLE moves a DISABLED or DOWN port to DETECT. -/
  | lnkEnable (master : BitVec 8) (port : BitVec 4)
  /-- LINKDOWN_RESEND, R332: A descriptor or notice send that completed with LINKDOWN is sent again after 100 ticks. -/
  | linkdownResend (send : Nat)
  /-- READ, R342: A received READ request is checked and served, and answered with data. -/
  | read (port : BitVec 4)
  /-- READ_SNOOP, R359: A received READ_SNOOP is served exactly as a READ. -/
  | readSnoop (port : BitVec 4)
  /-- WRITE, R343: A received WRITE is checked, performed and answered after acknowledgement. -/
  | write (port : BitVec 4)
  /-- SWAP, R341: ATOMIC SWAP replaces the value and returns the old one. -/
  | swap (port : BitVec 4)
  /-- CAS, R341: ATOMIC CAS swaps when the old value equals the compare value. -/
  | cas (port : BitVec 4)
  /-- ADD, R341: ATOMIC ADD adds the operand modulo the width. -/
  | add (port : BitVec 4)
  /-- AND, R341: ATOMIC AND. -/
  | andOp (port : BitVec 4)
  /-- OR, R341: ATOMIC OR. -/
  | orOp (port : BitVec 4)
  /-- XOR, R341: ATOMIC XOR. -/
  | xorOp (port : BitVec 4)
  /-- MIN, R341: ATOMIC signed minimum. -/
  | minOp (port : BitVec 4)
  /-- MAX, R341: ATOMIC signed maximum. -/
  | maxOp (port : BitVec 4)
  /-- MINU, R341: ATOMIC unsigned minimum. -/
  | minu (port : BitVec 4)
  /-- MAXU, R341: ATOMIC unsigned maximum. -/
  | maxu (port : BitVec 4)
  /-- MESSAGE, R343: A received MESSAGE is accepted into its queue, added to a tally round or refused. -/
  | message (port : BitVec 4)
  /-- DOORBELL, R344: A received DOORBELL is applied to a command-ring doorbell register or discarded. -/
  | doorbell (port : BitVec 4)
  /-- RESPONSE, R355: A received response completes its request or is dropped as STALEGEN. -/
  | response (port : BitVec 4)
  /-- PACKET_FORWARD, R347: A packet for another device is routed through the group or member entry, or dropped. -/
  | packetForward (port : BitVec 4)
  /-- RESPONSE_TIMEOUT, R357: A request holds its tag for FAB_TMO.RESP ticks and completes with LINKDOWN. -/
  | responseTimeout (tag : BitVec 14)
  /-- QUARANTINE_END, R356: A retired tag's quarantine ends and the tag can be allocated again. -/
  | quarantineEnd (tag : BitVec 14)
  /-- COL_SUBMIT, R365: A write of COL_SUBMIT holds a collective descriptor, refuses it or sets SUBFULL. -/
  | colSubmit (master : BitVec 8) (value : Word)
  /-- COLLECTIVE_START, R365: A held descriptor starts when a running position frees. -/
  | collectiveStart
  /-- SEGMENT_WRITTEN, R371: COL_RX KIND 0: a segment has arrived in a slot and is consumed. -/
  | segmentWritten (source : BitVec 18) (value : Word)
  /-- SLOT_FREED, R371: COL_RX KIND 1: the successor freed a slot and the next segment may be sent. -/
  | slotFreed (source : BitVec 18) (value : Word)
  /-- PERMUTE_SENT, R379: COL_RX KIND 2: a sender finished its permute phase 1. -/
  | permuteSent (source : BitVec 18) (value : Word)
  /-- COL_RX_RETRY, R372: A COL_RX write refused with QFULL is written again after 100 ticks. -/
  | colRxRetry (send : Nat)
  /-- COLLECTIVE_COMPLETE, R374: A collective finishes, writes STATUS and TIME, advances DONE and sends any update trigger. -/
  | collectiveComplete (coll : BitVec 32)
  /-- RING_TMO, R382: A segment does not arrive within RING_TMO and the collective ends with LINKDOWN. -/
  | ringTmo (coll : BitVec 32)
  /-- PERMUTE_SEND_DONE, R379: Every permute copy is answered and KIND 2 notices go to each receiving rank. -/
  | permuteSendDone (coll : BitVec 32)
  /-- PERMUTE_TIMEOUT, R380: Phase 2 passes PERM_TMO and the permute ends INCOMPLETE. -/
  | permuteTimeout (coll : BitVec 32)
  /-- PERMUTE_LAND_DONE, R379: The landing copies finish and the permute journal is cleared. -/
  | permuteLandDone (coll : BitVec 32)
  /-- UP_VOTE, R376: COL_VOTE_RX with DOWN 0: a child's up-vote arrives. -/
  | upVote (source : BitVec 18) (value : Word)
  /-- VOTE_OUTCOME, R376: COL_VOTE_RX with DOWN 1: the parent's outcome arrives and is forwarded and applied. -/
  | voteOutcome (source : BitVec 18) (value : Word)
  /-- VOTE_TIMEOUT, R377: A vote wait passes COL_VOTE_CFG.TMO and the vote ends with LINKDOWN. -/
  | voteTimeout
  /-- COL_VOTE_CFG_WRITE, R375: Setting COL_VOTE_CFG.EN reads the parent and child entries of the vote table. -/
  | colVoteCfgWrite (master : BitVec 8) (value : Word)
  /-- PERIOD_START, R413: Every 100,000 ticks the package manager computes the pool and the die grants. -/
  | periodStart
  /-- TARIFF_ROUND, R414: Every 10,000 ticks each governor estimates demand and sends its bid. -/
  | tariffRound (die : BitVec 2)
  /-- BID_RECEIVE, R414: A governor or the package manager receives a tariff bid: the round's first tick, the offer and the
  request. -/
  | bidReceive (receiver : BitVec 3) (src : BitVec 2) (round : Word) (bid : BitVec 16 × BitVec 16)
  /-- GRANT_COMPUTE, R415: At t0 + 50 µs an offering governor computes, deducts and sends its grants. -/
  | grantCompute (die : BitVec 2)
  /-- GRANT_RECEIVE, R415: A requesting governor adds an arriving grant up to its ceiling: the round's first tick and the
  amount. -/
  | grantReceive (die : BitVec 2) (grant : Word × BitVec 16)
  /-- ROUND_END, R416: At t0 + 100 µs each governor chooses its operating point for the next round. -/
  | roundEnd (die : BitVec 2)
  /-- AVS_SETTLE, R412: The regulator reaches the commanded voltage and the arithmetic PLL switches frequency. -/
  | avsSettle (die : BitVec 2)
  /-- AVSFAIL, R412: The regulator misses its 50 µs bound and the governor stays at the lower point. -/
  | avsfail (die : BitVec 2)
  /-- POR_N_ASSERT, R422: POR_N asserted starts a power-on reset of the whole device. -/
  | porNAssert
  /-- POR_N_DEASSERT, R425: POR_N deasserted starts the local count and the boot sequence. -/
  | porNDeassert (straps : BitVec 2) (a1 a2 b1 b2 : List Byte)
  /-- RESET_N_ASSERT, R424: RESET_N held low for 10 µs starts a full reset, retained when RETAIN is set in READY or RUNNING. -/
  | resetNAssert
  /-- RESET_N_DEASSERT, R425: RESET_N deasserted starts the boot sequence after a full reset. -/
  | resetNDeassert (a1 a2 b1 b2 : List Byte) (stacksOk : Bool)
  /-- BOOT_COMPLETE, R425: Boot finishes, firmware sets RST_STATUS.READY and the job state is EMPTY or RETAINED. `flash` holds the
  certificate and the enrolment entries, `cfg` firmware's register writes. -/
  | bootComplete (flash : List Byte × List (List Byte)) (cfg : List (BitVec 46 × Word))
  /-- THERMAL_TRIP, R484: A die, hub or stack reaches its trip temperature; THERMTRIP_N drives low and clocks stop. -/
  | thermalTrip (cause : BitVec 2)
  /-- REFCLK_LOSS, R407: A link reference clock is lost and the affected ports go down with cause SIGNAL. -/
  | refclkLoss (ref : BitVec 1)
  /-- FLASH_OWN_N, R475: FLASH_OWN_N goes low and the device releases the xSPI lands to the board. -/
  | flashOwnN
  /-- SEC_LOCK_WRITE, R439: Setting SEC_LOCK.LOCKED freezes the authorised-controller list. -/
  | secLockWrite (master : BitVec 8)
  /-- BYPASS, R476: TAP instruction BYPASS selects the 1-bit register. -/
  | bypass
  /-- IDCODE, R476: TAP instruction IDCODE returns the part and stepping code. -/
  | idcode
  /-- SAMPLE_PRELOAD, R476: TAP instruction SAMPLE/PRELOAD captures the signal lands. -/
  | samplePreload (pins preload : BitVec 42)
  /-- EXTEST, R476: TAP instruction EXTEST drives the lands when PERMS.EXTEST is held. -/
  | extest (pins drive : BitVec 42)
  /-- DBG_TOKEN, R441: A debug token presented through the TAP is verified by firmware and grants its permissions or is refused. -/
  | dbgToken (token : List Byte)
  /-- DBG_ACCESS, R477: TAP DBG_ACCESS performs an 8-byte access under master ID 0xE4 within the granted permissions. -/
  | dbgAccess (addr : BitVec 46) (write : Bool) (data : Word)
  /-- CGT_OPEN, R444: A management-core write of CGT_CTL.OPEN opens the customs gate when its conditions hold. -/
  | cgtOpen (master : BitVec 8)
  /-- GUEST_READ, R445: A guest READ request is checked by the customs gate and issued under 0xF0 or denied. -/
  | guestRead (packet : List Byte)
  /-- GUEST_WRITE, R445: A guest WRITE request is checked by the customs gate and issued or denied. -/
  | guestWrite (packet : List Byte)
  /-- GUEST_ATOMIC, R445: A guest ATOMIC request is checked by the customs gate and issued or denied. -/
  | guestAtomic (packet : List Byte)
  /-- GUEST_RESPONSE, R445: A guest RESPONSE completes a package request or is a STRAYRESP violation. -/
  | guestResponse (packet : List Byte)
  /-- GUEST_TIMEOUT, R447: A package access to the guest has no response within CGT_CFG.TMO and isolates the guest. -/
  | guestTimeout
  /-- GUEST_LINK_DOWN, R447: The guest UCIe link goes down and the gate isolates the guest. -/
  | guestLinkDown
  /-- ERR_CONS_WRITE, R463: A write of ERR_CONS consumes log entries within the allowed range. -/
  | errConsWrite (master : BitVec 8) (log : BitVec 3) (value : Word)
  /-- ERR_FIRST_CLR, R454: A write of ERR_FIRST_CLR clears ERR_FIRST_INFO.VALID. -/
  | errFirstClr (master : BitVec 8) (log : BitVec 3)
  /-- DEM_CLEAR, R461: DEM_CTL.CLEAR zeroes every demurrage counter, remainder and overflow bit of a context. -/
  | demClear (master : BitVec 8) (die : BitVec 2) (ctx : BitVec 5)
  /-- SIDEBAND_PART, R478: Sideband command PART returns ID_PART. -/
  | sidebandPart
  /-- SIDEBAND_RESET, R478: Sideband command RESET returns RST_STATUS. -/
  | sidebandReset
  /-- TEMPS, R478: Sideband command TEMPS returns the hottest sensors. -/
  | temps
  /-- POWER, R478: Sideband command POWER returns PKM_POWER. -/
  | power
  /-- BUDGET_READ, R478: Sideband command BUDGET read returns PKM_BUDGET. -/
  | budgetRead
  /-- BUDGET_WRITE, R478: Sideband command BUDGET write requests a new package budget: the value, with the packet error code of a
  write on the SMBus, or none for one on I3C. -/
  | budgetWrite (value : BitVec 16 × Option (BitVec 8))
  /-- ERRORS, R479: Sideband command ERRORS returns the hub ERR_PROD and releases SMBALERT_N. -/
  | errors
  /-- TRIP, R478: Sideband command TRIP returns the cause of the last thermal trip. -/
  | trip
  /-- GUEST_LINK_TRAINED, R443: The UCIe guest link trains at 32 GT/s and CGT_STATUS.LINK becomes 1, which CGT_OPEN requires. -/
  | guestLinkTrained
  /-- REFCLK_RETURN, R407: A lost link reference clock returns and CLK_STATUS shows it present again, so the affected ports can relock. -/
  | refclkReturn (ref : BitVec 1)
  /-- FLASH_OWN_N_RELEASE, R475: FLASH_OWN_N goes high again, the board hands the xSPI lands back, and device flash reads no longer fail. -/
  | flashOwnNRelease
  /-- DEMURRAGE_OVERFLOW, R461: A demurrage or elapsed counter reaches 2^48 - 1, saturates, sets its DEM_OVF bit and logs when enabled. -/
  | demurrageOverflow (die : BitVec 2) (ctx : BitVec 5) (counter : BitVec 4)
  /-- TRST_N, R476: TRST_N asserted holds the TAP in reset, with the instruction register capturing its reset value. -/
  | trstN (low : Bool)
  /-- DYNAMIC_ADDRESS, R478: The I3C controller assigns the device a dynamic address with SETDASA or ENTDAA, after which it can raise in-band interrupts. -/
  | dynamicAddress (addr : BitVec 7)
  deriving DecidableEq, Repr

end Sys2Proof
end

