-- ==== Sys2Proof/Decode.lean ====
section
/-!
DEFINITION. The commands that a word of the opcode table spells. spec/opcode_table.json gives its rows no bits, so no word spells
a command. The encodings that the spec does give (sequencer streams, general-core instructions, ring entries, packets, flits)
are data of the block, decoded where its units read them.
-/

namespace Sys2Proof

/-- The command that a word of `nbits` bits spells: none, since no row of the table has bits. -/
def decodeTableWord (_nbits _w : Nat) : Option Instr := none

end Sys2Proof
end

