-- ==== Sys2Proof/Machine/Bits.lean ====
section
/-!
DEFINITION. Bit fields, byte order and small list helpers. Bit ranges are the manual's [hi:lo], inclusive (R4's
notation table); all multi-byte data is little-endian (R5).
-/

namespace Sys2Proof.Machine

/-- The field [hi:lo] of a natural number. -/
def nbits (v hi lo : Nat) : Nat := v / 2 ^ lo % 2 ^ (hi + 1 - lo)

/-- The field [hi:lo] of a register. -/
def bits (v : Word) (hi lo : Nat) : Nat := nbits v.toNat hi lo

/-- Bit i of a register. -/
def bit (v : Word) (i : Nat) : Bool := v.toNat / 2 ^ i % 2 == 1

/-- A register with the field [hi:lo] replaced by n. -/
def putBits (v : Word) (hi lo n : Nat) : Word :=
  BitVec.ofNat 64 (v.toNat - nbits v.toNat hi lo * 2 ^ lo + n % 2 ^ (hi + 1 - lo) * 2 ^ lo)

/-- A register with bit i set. -/
def setBit (v : Word) (i : Nat) : Word := v ||| BitVec.ofNat 64 (2 ^ i)

/-- A register with bit i cleared. -/
def clrBit (v : Word) (i : Nat) : Word := v &&& ~~~ BitVec.ofNat 64 (2 ^ i)

/-- A natural number as a register. -/
def w (n : Nat) : Word := BitVec.ofNat 64 n

/-- A field value n placed at bit lo. -/
def at_ (lo n : Nat) : Nat := n * 2 ^ lo

/-- The low `n` bytes of `v`, least significant first. -/
def toBytes : Nat → Nat → List Byte
  | 0, _ => []
  | n + 1, v => BitVec.ofNat 8 v :: toBytes n (v / 256)

/-- The number that little-endian bytes spell. -/
def ofBytes : List Byte → Nat
  | [] => 0
  | b :: bs => b.toNat + 256 * ofBytes bs

/-- The little-endian number in `n` bytes at offset `o` of a byte list. -/
def leAt (bs : List Byte) (o n : Nat) : Nat := ofBytes ((bs.drop o).take n)

/-- The byte list with `n` bytes at offset `o` replaced by `v`. -/
def putLe (bs : List Byte) (o n v : Nat) : List Byte :=
  bs.take o ++ toBytes n v ++ bs.drop (o + n)

/-- n zero bytes. -/
def zeroBytes (n : Nat) : List Byte := List.replicate n 0

/-- The byte list cut or filled with zeros to n bytes. -/
def fitBytes (n : Nat) (bs : List Byte) : List Byte := (bs ++ zeroBytes (n - bs.length)).take n

/-- A natural number read as a signed number of `n` bits. -/
def sgn (n v : Nat) : Int :=
  let v := v % 2 ^ n
  if 2 ^ (n - 1) ≤ v then (v : Int) - 2 ^ n else v

/-- A signed number as `n` bits. -/
def unsgn (n : Nat) (i : Int) : Nat := (i % (2 ^ n : Int)).toNat

/-- Saturating addition under a limit. -/
def satAdd (lim a b : Nat) : Nat := min lim (a + b)

/-- Rounding up division. -/
def ceilDiv (a b : Nat) : Nat := (a + b - 1) / b

/-- Rounding up to a multiple. -/
def roundUp (a b : Nat) : Nat := ceilDiv a b * b

/-- Element i of a list, or a default. -/
def nth {α : Type} (l : List α) (i : Nat) (d : α) : α := (l[i]?).getD d

/-- The list with element i replaced (unchanged when there is no element i). -/
def setNth {α : Type} : List α → Nat → α → List α
  | [], _, _ => []
  | _ :: xs, 0, v => v :: xs
  | x :: xs, i + 1, v => x :: setNth xs i v

/-- The number of bits set among the low `n` bits of v. -/
def popcount (n v : Nat) : Nat := ((List.range n).filter fun i => v.testBit i).length

/-- The positions of the bits set among the low `n` bits of v, rising. -/
def bitsSet (n v : Nat) : List Nat := (List.range n).filter fun i => v.testBit i

/-- Stable insertion by a Nat key. -/
def insertBy {α : Type} (f : α → Nat) (x : α) : List α → List α
  | [] => [x]
  | y :: ys => if f y ≤ f x then y :: insertBy f x ys else x :: y :: ys

/-- Stable insertion sort by a Nat key. -/
def sortBy {α : Type} (f : α → Nat) (l : List α) : List α :=
  l.foldl (fun acc x => insertBy f x acc) []

/-- Split a byte list in pieces of n (n positive; fuel by length). -/
def piecesAux {α : Type} (n : Nat) : Nat → List α → List (List α)
  | 0, _ => []
  | k + 1, l => if l.isEmpty then [] else l.take n :: piecesAux n k (l.drop n)

/-- Split a list in pieces of n. -/
def pieces {α : Type} (n : Nat) (l : List α) : List (List α) := piecesAux n (l.length + 1) l

end Sys2Proof.Machine
end

