-- ==== Sys2Proof/Machine/Num.lean ====
section
/-!
DEFINITION. Number formats (R174, R175), exact values, and the one rounding of an exact value to a format (R176, R177,
R199, R200). Arithmetic is exact on rationals; every rounding is explicit.
-/

namespace Sys2Proof.Machine

/-- A floating format: exponent and mantissa widths, bias, and which special values it has (R174, R175). -/
structure Fmt where
  eb : Nat
  mb : Nat
  bias : Nat
  inf : Bool
  nan : Bool
  deriving DecidableEq, Repr

def Fmt.fp4 : Fmt := ⟨2, 1, 1, false, false⟩
def Fmt.fp6e3m2 : Fmt := ⟨3, 2, 3, false, false⟩
def Fmt.fp6e2m3 : Fmt := ⟨2, 3, 1, false, false⟩
def Fmt.e4m3 : Fmt := ⟨4, 3, 7, false, true⟩
def Fmt.e5m2 : Fmt := ⟨5, 2, 15, true, true⟩
def Fmt.bf16 : Fmt := ⟨8, 7, 127, true, true⟩
def Fmt.fp16 : Fmt := ⟨5, 10, 15, true, true⟩
def Fmt.fp32 : Fmt := ⟨8, 23, 127, true, true⟩
def Fmt.fp64 : Fmt := ⟨11, 52, 1023, true, true⟩

/-- The floating format of an element format code (R174). -/
def fmtOf (code : Nat) : Option Fmt :=
  match code with
  | 0x01 => some .fp4 | 0x02 => some .fp6e3m2 | 0x03 => some .fp6e2m3 | 0x04 => some .e4m3 | 0x05 => some .e5m2
  | 0x06 => some .bf16 | 0x07 => some .fp16 | 0x08 => some .fp32 | 0x09 => some .fp64
  | _ => none

/-- The width in bits of an element format code (R174); 0 for a reserved code. -/
def fmtWidth (code : Nat) : Nat :=
  match code with
  | 0x01 => 4 | 0x02 => 6 | 0x03 => 6 | 0x04 => 8 | 0x05 => 8 | 0x06 => 16 | 0x07 => 16 | 0x08 => 32 | 0x09 => 64
  | 0x10 => 4 | 0x11 => 8 | 0x12 => 32 | 0x20 => 8
  | _ => 0

/-- An integer format code (R174). -/
def isIntFmt (code : Nat) : Bool := code == 0x10 || code == 0x11 || code == 0x12

/-- Width of a floating format. -/
def Fmt.width (f : Fmt) : Nat := 1 + f.eb + f.mb

/-- The code of the largest finite magnitude (R175). -/
def Fmt.maxCode (f : Fmt) : Nat :=
  if f.inf then (2 ^ f.eb - 1) * 2 ^ f.mb - 1
  else if f.nan then 2 ^ (f.eb + f.mb) - 2
  else 2 ^ (f.eb + f.mb) - 1

/-- The canonical NaN of a format (R176); a format without NaN gives its largest finite value (R177). -/
def Fmt.canonNan (f : Fmt) : Nat :=
  if f.inf then (2 ^ f.eb - 1) * 2 ^ f.mb + 2 ^ (f.mb - 1)
  else if f.nan then 2 ^ (f.eb + f.mb) - 1
  else f.maxCode

/-- The code of +∞ of a format that has it. -/
def Fmt.infCode (f : Fmt) : Nat := (2 ^ f.eb - 1) * 2 ^ f.mb

/-- The sign bit's place value. -/
def Fmt.signBit (f : Fmt) : Nat := 2 ^ (f.eb + f.mb)

/-- An exact value: NaN, an infinity, or a rational with its sign (zero keeps a sign). `den` is never 0. -/
inductive XVal where
  | nan
  | inf (neg : Bool)
  | fin (neg : Bool) (num den : Nat)
  deriving DecidableEq, Repr

/-- The exact value m × 2^e. -/
def XVal.dy (neg : Bool) (m : Nat) (e : Int) : XVal :=
  if 0 ≤ e then .fin neg (m * 2 ^ e.toNat) 1 else .fin neg m (2 ^ (-e).toNat)

def XVal.zero : XVal := .fin false 0 1

/-- An integer as an exact value. -/
def XVal.ofInt (i : Int) : XVal := .fin (decide (i < 0)) i.natAbs 1

def XVal.isNan : XVal → Bool
  | .nan => true
  | _ => false

/-- NaN or an infinity. -/
def XVal.nonFinite : XVal → Bool
  | .fin _ _ _ => false
  | _ => true

def XVal.isZero : XVal → Bool
  | .fin _ n _ => n == 0
  | _ => false

/-- The value that a code of a format holds (R175). -/
def Fmt.decode (f : Fmt) (c : Nat) : XVal :=
  let c := c % 2 ^ f.width
  let neg := decide (f.signBit ≤ c)
  let m := c % 2 ^ f.mb
  let e := c / 2 ^ f.mb % 2 ^ f.eb
  if f.inf && e == 2 ^ f.eb - 1 then (if m = 0 then .inf neg else .nan)
  else if f.nan && !f.inf && c % f.signBit == 2 ^ (f.eb + f.mb) - 1 then .nan
  else if e = 0 then .dy neg m (1 - (f.bias : Int) - f.mb)
  else .dy neg (2 ^ f.mb + m) ((e : Int) - f.bias - f.mb)

/-- Negation. -/
def XVal.neg : XVal → XVal
  | .nan => .nan
  | .inf b => .inf (!b)
  | .fin b n d => .fin (!b) n d

/-- Magnitude. -/
def XVal.abs : XVal → XVal
  | .nan => .nan
  | .inf _ => .inf false
  | .fin _ n d => .fin false n d

/-- The signed numerator. -/
def XVal.sgnNum : XVal → Int
  | .fin b n _ => if b then -(n : Int) else n
  | _ => 0

/-- Exact sum; ∞ − ∞ is NaN; an exact zero sum is +0 unless both addends are −0 (R191, R281). -/
def XVal.add : XVal → XVal → XVal
  | .nan, _ => .nan
  | _, .nan => .nan
  | .inf a, .inf b => if a = b then .inf a else .nan
  | .inf a, .fin _ _ _ => .inf a
  | .fin _ _ _, .inf b => .inf b
  | .fin a n d, .fin b n' d' =>
    let g := Nat.gcd d d'
    let s : Int := (if a then -(n : Int) else n) * (d' / g : Nat) + (if b then -(n' : Int) else n') * (d / g : Nat)
    if s = 0 then .fin (a && b && n == 0 && n' == 0) 0 1 else .fin (decide (s < 0)) s.natAbs (d / g * d')

def XVal.sub (a b : XVal) : XVal := a.add b.neg

/-- Exact product; a NaN factor, or ∞ × 0, gives NaN (R190). -/
def XVal.mul : XVal → XVal → XVal
  | .nan, _ => .nan
  | _, .nan => .nan
  | .inf a, .inf b => .inf (a.xor b)
  | .inf a, .fin b n _ => if n = 0 then .nan else .inf (a.xor b)
  | .fin a n _, .inf b => if n = 0 then .nan else .inf (a.xor b)
  | .fin a n d, .fin b n' d' => .fin (a.xor b) (n * n') (d * d')

/-- Exact quotient; 0/0 and ∞/∞ are NaN, a nonzero number over 0 an infinity. -/
def XVal.div : XVal → XVal → XVal
  | .nan, _ => .nan
  | _, .nan => .nan
  | .inf _, .inf _ => .nan
  | .inf a, .fin b _ _ => .inf (a.xor b)
  | .fin a _ _, .inf b => .fin (a.xor b) 0 1
  | .fin a n d, .fin b n' d' =>
    if n' = 0 then (if n = 0 then .nan else .inf (a.xor b)) else .fin (a.xor b) (n * d') (d * n')

/-- Exact comparison of finite values and infinities: a < b. False when either is NaN. -/
def XVal.lt : XVal → XVal → Bool
  | .nan, _ => false
  | _, .nan => false
  | .inf a, .inf b => a && !b
  | .inf a, .fin _ _ _ => a
  | .fin _ _ _, .inf b => !b
  | .fin a n d, .fin b n' d' =>
    decide ((if a then -(n : Int) else n) * d' < (if b then -(n' : Int) else n') * d)

/-- Equality as numbers (−0 equals +0); false when either is NaN. -/
def XVal.eqv : XVal → XVal → Bool
  | .nan, _ => false
  | _, .nan => false
  | a, b => !a.lt b && !b.lt a

/-- A ≤ B as numbers. -/
def XVal.le (a b : XVal) : Bool := a.lt b || a.eqv b

/-- Rounding modes: the four of R199 and R200, and RISC-V's others. -/
inductive Rnd where
  | rne
  | rtz
  | stoch (r : Nat)
  | rdn
  | rup
  | rmm
  deriving DecidableEq, Repr

/-- ⌊log2 (n/d)⌋ for positive n and d. -/
def floorLog2 (n d : Nat) : Int :=
  let e : Int := (Nat.log2 n : Int) - Nat.log2 d
  let ge : Bool := if 0 ≤ e then decide (d * 2 ^ e.toNat ≤ n) else decide (d ≤ n * 2 ^ (-e).toNat)
  if ge then e else e - 1

/-- A result of rounding: the code, and whether it was inexact, overflowed or (tiny after rounding and inexact)
underflowed. -/
structure Rounded where
  code : Nat
  nx : Bool
  ovf : Bool
  unf : Bool
  deriving DecidableEq, Repr

/-- The integer significand: n/d rounded under a mode; with whether it was inexact. -/
def roundQuot (m : Rnd) (neg : Bool) (n d : Nat) : Nat × Bool :=
  let q := n / d
  let r := n % d
  let up : Bool := match m with
    | .rne => decide (d < 2 * r) || (2 * r == d && q % 2 == 1)
    | .rtz => false
    | .stoch x => decide (d * 65536 ≤ r * 65536 + x % 65536 * d)
    | .rdn => neg && decide (0 < r)
    | .rup => !neg && decide (0 < r)
    | .rmm => decide (d ≤ 2 * r)
  (if up then q + 1 else q, decide (0 < r))

/-- Where a finite magnitude overflows: ±∞ or ±largest finite (R177's table; RISC-V's directed modes likewise). -/
def Fmt.overflow (f : Fmt) (m : Rnd) (neg : Bool) : Nat :=
  let s := if neg then f.signBit else 0
  let toInf : Bool := match m with
    | .rne => f.inf
    | .rmm => f.inf
    | .rtz => false
    | .stoch _ => false
    | .rdn => f.inf && neg
    | .rup => f.inf && !neg
  s + (if toInf then f.infCode else f.maxCode)

/-- The smallest exponent of a unit in the last place: that of the subnormals. -/
def Fmt.qMin (f : Fmt) : Int := 1 - (f.bias : Int) - f.mb

/-- Round an exact value to a format (R177): finite values with gradual underflow, then the special cases. -/
def Fmt.roundFull (f : Fmt) (m : Rnd) : XVal → Rounded
  | .nan => ⟨f.canonNan, false, false, false⟩
  | .inf neg =>
    ⟨if f.inf then (if neg then f.signBit else 0) + f.infCode
     else if f.nan then f.canonNan
     else (if neg then f.signBit else 0) + f.maxCode, false, false, false⟩
  | .fin neg n d =>
    let s := if neg then f.signBit else 0
    if n = 0 then ⟨s, false, false, false⟩ else
    let ex := floorLog2 n d
    let q : Int := max (ex - f.mb) f.qMin
    let (k, nx) :=
      if 0 ≤ q then roundQuot m neg n (d * 2 ^ q.toNat) else roundQuot m neg (n * 2 ^ (-q).toNat) d
    let q' : Int := if k = 2 ^ (f.mb + 1) then q + 1 else q
    let k' := if k = 2 ^ (f.mb + 1) then 2 ^ f.mb else k
    let code := if k' < 2 ^ f.mb then k' else
      ((q' - f.qMin + 1).toNat) * 2 ^ f.mb + (k' - 2 ^ f.mb)
    if f.maxCode < code then ⟨f.overflow m neg, true, true, false⟩
    else
      let tiny := decide (ex < 1 - (f.bias : Int)) && !(code == 2 ^ f.mb && (
        let (k2, _) := roundQuot m neg (n * 2 ^ (f.mb + f.bias)) d
        decide (2 ^ (f.mb + 1) ≤ k2)))
      ⟨s + code, nx, false, nx && tiny⟩

/-- Round an exact value to a format: the code. -/
def Fmt.round (f : Fmt) (m : Rnd) (x : XVal) : Nat := (f.roundFull m x).code

/-- Round to a format and read the value back. -/
def Fmt.rounded (f : Fmt) (m : Rnd) (x : XVal) : XVal := f.decode (f.round m x)

/-- The rounding mode of a ROUND bit: 0 nearest even, 1 toward zero (R163). -/
def rndBit (b : Bool) : Rnd := if b then .rtz else .rne

/-- FP32 sum, round to nearest even. -/
def fp32Add (a b : Nat) : Nat := Fmt.fp32.round .rne ((Fmt.fp32.decode a).add (Fmt.fp32.decode b))

/-- FP32 product, round to nearest even. -/
def fp32Mul (a b : Nat) : Nat := Fmt.fp32.round .rne ((Fmt.fp32.decode a).mul (Fmt.fp32.decode b))

/-- FP32 quotient, round to nearest even. -/
def fp32Div (a b : Nat) : Nat := Fmt.fp32.round .rne ((Fmt.fp32.decode a).div (Fmt.fp32.decode b))

/-- The square root as an exact-enough value: the integer root scaled by 2^k with a sticky low bit, so that one
rounding to a format of at most 60 bits of mantissa gives the correctly rounded root. -/
def XVal.sqrtSticky : XVal → XVal
  | .nan => .nan
  | .inf neg => if neg then .nan else .inf false
  | .fin neg n d =>
    if n = 0 then .fin neg 0 1
    else if neg then .nan
    else
      -- n/d = (n*d)/d²; scale by 4^k so that the root has at least 130 bits
      let k := 130 + Nat.log2 d
      let v := n * d * 4 ^ k
      let r := Nat.sqrt v
      let r2 := 2 * r + (if r * r = v then 0 else 1)
      .fin false r2 (d * 2 ^ (k + 1))

/-- FP32 square root, round to nearest even. -/
def fp32Sqrt (a : Nat) : Nat := Fmt.fp32.round .rne (Fmt.fp32.decode a).sqrtSticky

/-- Saturation of an integer to n bits signed. -/
def satInt (n : Nat) (i : Int) : Int := max (-(2 ^ (n - 1) : Int)) (min (2 ^ (n - 1) - 1) i)

/-- Element i of packed elements of a width (R178): 4-bit low nibble first, 6-bit in groups of 24 bits, bytes and
words little-endian. -/
def elemAt (bs : List Byte) (width i : Nat) : Nat :=
  if width = 6 then leAt bs (i / 4 * 3) 3 / 2 ^ (6 * (i % 4)) % 64
  else if width = 4 then leAt bs (i / 2) 1 / 2 ^ (4 * (i % 2)) % 16
  else leAt bs (i * (width / 8)) (width / 8)

/-- Bits of a list of elements, least significant first, as bytes (R178). -/
def packElems (width : Nat) (es : List Nat) : List Byte :=
  if width = 6 then
    ((pieces 4 es).map fun g => toBytes 3 (((List.range g.length).map fun i => nth g i 0 % 64 * 2 ^ (6 * i)).sum)).flatten
  else if width = 4 then
    ((pieces 2 es).map fun g => toBytes 1 (nth g 0 0 % 16 + nth g 1 0 % 16 * 16)).flatten
  else (es.map fun e => toBytes (width / 8) e).flatten

/-- An element of a format code as an exact value. -/
def elemVal (code c : Nat) : XVal :=
  match fmtOf code with
  | some f => f.decode c
  | none => .ofInt (sgn (fmtWidth code) c)

/-- Decode a block scale (R181): E8M0, or E4M3 where a sign or a NaN counts as NaN. -/
def scaleVal (e4m3 : Bool) (c : Nat) : XVal :=
  if e4m3 then (if 128 ≤ c % 256 then .nan else Fmt.e4m3.decode c)
  else if c % 256 = 255 then .nan else .dy false 1 ((c % 256 : Nat) - 127)

end Sys2Proof.Machine
end

