-- ==== Sys2Proof/Machine/CoreFp.lean ====
section
/-!
DEFINITION. Floating-point arithmetic of the general cores (R249, R251): the operations of RISC-V's F and D extensions, for
scalar and vector instructions. Each gives a code and the flags it raises: NX 1, UF 2, OF 4, DZ 8, NV 16.
-/

namespace Sys2Proof.Machine

def flagNX : Nat := 1
def flagUF : Nat := 2
def flagOF : Nat := 4
def flagDZ : Nat := 8
def flagNV : Nat := 16

/-- A rounding mode of frm or of an instruction's rm field: 0 to 4. -/
def rmOf (r : Nat) : Rnd :=
  match r with
  | 0 => .rne
  | 1 => .rtz
  | 2 => .rdn
  | 3 => .rup
  | _ => .rmm

/-- A code of a format with infinities is a signaling NaN. -/
def Fmt.isSnan (f : Fmt) (c : Nat) : Bool := (f.decode c).isNan && !(c.testBit (f.mb - 1))

/-- Sign of a code. -/
def Fmt.neg (f : Fmt) (c : Nat) : Bool := c.testBit (f.eb + f.mb)

/-- A flag when a test holds. -/
def flagIf (b : Bool) (f : Nat) : Nat := if b then f else 0

/-- Round an exact result and give its flags; `nv` says that the operation is invalid. -/
def Fmt.result (f : Fmt) (m : Rnd) (x : XVal) (nv : Bool) : Nat × Nat :=
  let r := f.roundFull m x
  (r.code, flagIf nv flagNV + flagIf r.ovf flagOF + flagIf r.unf flagUF + flagIf r.nx flagNX)

/-- An exact zero sum of addends of opposite signs is −0 under round-down and +0 otherwise. -/
def zeroSum (m : Rnd) (a b s : XVal) : XVal :=
  match a, b, s with
  | .fin x _ _, .fin y _ _, .fin _ n d => if n = 0 then .fin (if x = y then x else decide (m = .rdn)) 0 1 else .fin (decide (s.sgnNum < 0)) n d
  | _, _, s => s

/-- The sum of two exact values is an invalid ∞ − ∞. -/
def badSum (a b : XVal) : Bool :=
  match a, b with
  | .inf x, .inf y => x != y
  | _, _ => false

def badMul (a b : XVal) : Bool :=
  match a, b with
  | .inf _, .fin _ n _ => n == 0
  | .fin _ n _, .inf _ => n == 0
  | _, _ => false

def Fmt.fpAdd (f : Fmt) (m : Rnd) (a b : Nat) : Nat × Nat :=
  let x := f.decode a
  let y := f.decode b
  f.result m (zeroSum m x y (x.add y)) (f.isSnan a || f.isSnan b || badSum x y)

/-- Every sum of some of the numbers, each with its sign. -/
def subsetSums : List XVal → List XVal
  | [] => [.zero]
  | x :: xs => let r := subsetSums xs; r ++ r.map x.add

/-- Finite numbers add up without rounding in every order: they are multiples of one unit and their magnitudes add up to a number of
the format, or, where they are few, each sum of some of them is a number of the format. -/
def Fmt.exactSums (f : Fmt) (xs : List XVal) : Bool :=
  let ns := xs.filterMap fun x => match x with | .fin _ n d => if n = 0 then none else some (n, d) | _ => none
  let den := ns.foldl (fun m e => max m e.2) 1
  let ks := ns.map fun e => e.1 * (den / e.2)
  let unit := Nat.gcd (ks.foldl Nat.gcd 0) (2 ^ 2200)
  let exact (x : XVal) : Bool := (f.result .rne x false).2 == 0
  decide (ks.sum ≤ 2 ^ (f.mb + 1) * unit) && exact (.fin false ks.sum den)
    || decide (ns.length ≤ 8) && (subsetSums (xs.filter fun x => !x.isZero && !x.nonFinite)).all exact

/-- Whether the value, and whether the flags, of a sum of numbers depend on the order of its additions. -/
def Fmt.sumOpen (f : Fmt) (cs : List Nat) : Bool × Bool :=
  let xs := cs.map f.decode
  let pos := xs.contains (.inf false)
  let neg := xs.contains (.inf true)
  let nan := xs.any XVal.isNan
  let ok := f.exactSums xs
  let big := (f.result .rne ((xs.filter fun x => !x.nonFinite).foldl (fun t x => (t.add x.abs).add x.abs) .zero) false).2.land flagOF
  if nan || (pos && neg) then (false, !ok || (nan && pos && neg && !cs.any f.isSnan))
  else if pos || neg then (!ok && big != 0, !ok)
  else (!ok, !ok)

def Fmt.flip (f : Fmt) (c : Nat) : Nat := (c % 2 ^ f.width).xor f.signBit

def Fmt.fpSub (f : Fmt) (m : Rnd) (a b : Nat) : Nat × Nat := f.fpAdd m a (f.flip b)

def Fmt.fpMul (f : Fmt) (m : Rnd) (a b : Nat) : Nat × Nat :=
  let x := f.decode a
  let y := f.decode b
  f.result m (x.mul y) (f.isSnan a || f.isSnan b || badMul x y)

def Fmt.fpDiv (f : Fmt) (m : Rnd) (a b : Nat) : Nat × Nat :=
  let x := f.decode a
  let y := f.decode b
  let q := x.div y
  let (c, fl) := f.result m q (f.isSnan a || f.isSnan b || (q.isNan && !x.isNan && !y.isNan))
  (c, fl + flagIf (!x.nonFinite && !x.isZero && y.isZero) flagDZ)

def Fmt.fpSqrt (f : Fmt) (m : Rnd) (a : Nat) : Nat × Nat :=
  let x := f.decode a
  let r := x.sqrtSticky
  f.result m r (f.isSnan a || (r.isNan && !x.isNan))

/-- The fused a × b + c. -/
def Fmt.fpFma (f : Fmt) (m : Rnd) (a b c : Nat) : Nat × Nat :=
  let x := f.decode a
  let y := f.decode b
  let z := f.decode c
  let p := x.mul y
  f.result m (zeroSum m p z (p.add z)) (f.isSnan a || f.isSnan b || f.isSnan c || badMul x y || badSum p z)

/-- Sign injection: 0 the sign of b, 1 its opposite, 2 the exclusive or. -/
def Fmt.fpSgnj (f : Fmt) (k a b : Nat) : Nat :=
  let s := if k = 0 then f.neg b else if k = 1 then !f.neg b else f.neg a != f.neg b
  a % f.signBit + (if s then f.signBit else 0)

/-- Minimum or maximum of numbers: a NaN gives way to a number, −0 is below +0. -/
def Fmt.fpMinMax (f : Fmt) (mx : Bool) (a b : Nat) : Nat × Nat :=
  let x := f.decode a
  let y := f.decode b
  let less := x.lt y || (x.eqv y && f.neg a && !f.neg b)
  let c := if x.isNan && y.isNan then f.canonNan
    else if x.isNan then b else if y.isNan then a
    else if less then (if mx then b else a) else (if mx then a else b)
  (c, flagIf (f.isSnan a || f.isSnan b) flagNV)

/-- Comparisons: equal is quiet, the others are signaling. -/
def Fmt.fpEq (f : Fmt) (a b : Nat) : Bool × Nat :=
  ((f.decode a).eqv (f.decode b), flagIf (f.isSnan a || f.isSnan b) flagNV)
def Fmt.fpLt (f : Fmt) (a b : Nat) : Bool × Nat :=
  ((f.decode a).lt (f.decode b), flagIf ((f.decode a).isNan || (f.decode b).isNan) flagNV)
def Fmt.fpLe (f : Fmt) (a b : Nat) : Bool × Nat :=
  ((f.decode a).le (f.decode b), flagIf ((f.decode a).isNan || (f.decode b).isNan) flagNV)

/-- The class of a code, as a bit. -/
def Fmt.fpClass (f : Fmt) (c : Nat) : Nat :=
  let n := f.neg c
  let sub := c / 2 ^ f.mb % 2 ^ f.eb == 0
  match f.decode c with
  | .nan => if f.isSnan c then 256 else 512
  | .inf _ => if n then 1 else 128
  | .fin _ 0 _ => if n then 8 else 16
  | .fin _ _ _ => if sub then (if n then 4 else 32) else if n then 2 else 64

/-- Conversion to an integer of n bits, signed or not: the integer's bits, saturated. -/
def Fmt.fpToInt (f : Fmt) (m : Rnd) (signed : Bool) (n c : Nat) : Nat × Nat :=
  let top : Int := if signed then 2 ^ (n - 1) - 1 else 2 ^ n - 1
  let low : Int := if signed then -(2 ^ (n - 1)) else 0
  match f.decode c with
  | .nan => (unsgn n top, flagNV)
  | .inf neg => (unsgn n (if neg then low else top), flagNV)
  | .fin neg k d =>
    let (q, nx) := roundQuot m neg k d
    let v : Int := if neg then -(q : Int) else q
    if top < v then (unsgn n top, flagNV)
    else if v < low then (unsgn n low, flagNV)
    else (unsgn n v, flagIf nx flagNX)

/-- Conversion from an integer of n bits. -/
def Fmt.fpOfInt (f : Fmt) (m : Rnd) (signed : Bool) (n v : Nat) : Nat × Nat :=
  f.result m (.ofInt (if signed then sgn n v else ((v % 2 ^ n : Nat) : Int))) false

/-- Conversion from another format. -/
def Fmt.fpOfFmt (f g : Fmt) (m : Rnd) (c : Nat) : Nat × Nat := f.result m (g.decode c) (g.isSnan c)

/-- Conversion with rounding to odd. -/
def Fmt.fpRod (f g : Fmt) (c : Nat) : Nat × Nat :=
  let (r, fl) := f.fpOfFmt g .rtz c
  (if fl % 2 = 1 ∧ r % 2 = 0 then r + 1 else r, fl)

/-- Normalise a subnormal significand: the exponent it would have, and the significand below its leading one. -/
def normSub (mb sig : Nat) : Int × Nat :=
  let z := mb - 1 - Nat.log2 sig
  (-(z : Int), sig * 2 ^ (z + 1) % 2 ^ mb)

/-- The 7-bit estimate of the reciprocal of a significand: the reciprocal of the middle of its interval. -/
def recTable (i : Nat) : Nat := (2 * 65536 + (257 + 2 * i)) / (2 * (257 + 2 * i)) - 128

/-- The 7-bit estimate of the reciprocal square root; the high bit of the index is the exponent's parity. -/
def rsqrtTable (i : Nat) : Nat :=
  let d := 129 + 2 * (i % 64)
  (Nat.sqrt (4 * 65536 * 128 / (if 64 ≤ i then d else 2 * d)) + 1) / 2 - 128

/-- vfrec7 of RISC-V's V extension. -/
def Fmt.fpRec7 (f : Fmt) (m : Rnd) (c : Nat) : Nat × Nat :=
  let sgnV := if f.neg c then f.signBit else 0
  let e := c / 2 ^ f.mb % 2 ^ f.eb
  let sig := c % 2 ^ f.mb
  match f.decode c with
  | .nan => (f.canonNan, flagIf (f.isSnan c) flagNV)
  | .inf _ => (sgnV, 0)
  | .fin _ 0 _ => (sgnV + f.infCode, flagDZ)
  | .fin _ _ _ =>
    let (ex, sg) : Int × Nat := if e = 0 then normSub f.mb sig else ((e : Int), sig)
    if ex < -1 then
      (f.overflow m (f.neg c), flagOF + flagNX)
    else
      let os := recTable (sg / 2 ^ (f.mb - 7)) * 2 ^ (f.mb - 7)
      let oe : Int := 2 * (f.bias : Int) - 1 - ex
      if oe = 0 then (sgnV + (os / 2 + 2 ^ (f.mb - 1)), 0)
      else if oe < 0 then (sgnV + (os / 2 + 2 ^ (f.mb - 1)) / 2, 0)
      else (sgnV + oe.toNat * 2 ^ f.mb + os, 0)

/-- vfrsqrt7 of RISC-V's V extension. -/
def Fmt.fpRsqrt7 (f : Fmt) (c : Nat) : Nat × Nat :=
  let e := c / 2 ^ f.mb % 2 ^ f.eb
  let sig := c % 2 ^ f.mb
  match f.decode c with
  | .nan => (f.canonNan, flagIf (f.isSnan c) flagNV)
  | .inf true => (f.canonNan, flagNV)
  | .inf false => (0, 0)
  | .fin neg 0 _ => ((if neg then f.signBit else 0) + f.infCode, flagDZ)
  | .fin true _ _ => (f.canonNan, flagNV)
  | .fin false _ _ =>
    let (ex, sg) : Int × Nat := if e = 0 then normSub f.mb sig else ((e : Int), sig)
    let os := rsqrtTable ((ex % 2).toNat * 64 + sg / 2 ^ (f.mb - 6)) * 2 ^ (f.mb - 7)
    (((3 * (f.bias : Int) - 1 - ex) / 2).toNat * 2 ^ f.mb + os, 0)

end Sys2Proof.Machine
end

