-- ==== Sys2Proof/Machine/Crc.lean ====
section
/-!
DEFINITION. The two cyclic checks of the device: CRC-64 of shard fingerprints (R139) and CRC-32 of link flits (R316).
-/

namespace Sys2Proof.Machine

/-- One byte of a CRC with the most significant bit first: `n` bits wide, polynomial `p`. -/
def crcByteMsb (n p crc b : Nat) : Nat :=
  (List.range 8).foldl (fun c i =>
    let c := c.xor (if b.testBit (7 - i) then 2 ^ (n - 1) else 0)
    if c.testBit (n - 1) then (2 * c % 2 ^ n).xor p else 2 * c % 2 ^ n) crc

/-- The fingerprint of bytes: CRC-64 with the ECMA-182 polynomial, initial value zero, no reflection, no final inversion
(R139). -/
def crc64 (bs : List Byte) : Nat := bs.foldl (fun c b => crcByteMsb 64 0x42F0E1EBA9EA3693 c b.toNat) 0

/-- One byte of the reflected CRC-32 register. -/
def crc32Byte (crc b : Nat) : Nat :=
  (List.range 8).foldl (fun c _ => if c % 2 = 1 then (c / 2).xor 0xEDB88320 else c / 2) (crc.xor b)

/-- CRC-32 of IEEE 802.3 (R316). -/
def crc32 (bs : List Byte) : Nat :=
  (bs.foldl (fun c b => crc32Byte c b.toNat) 0xFFFFFFFF).xor 0xFFFFFFFF

/-- The packet error code of the SMBus: CRC-8 with polynomial x^8 + x^2 + x + 1, most significant bit first. PRESUMED (log entry 100). -/
def crc8 (bs : List Byte) : Nat :=
  bs.foldl (fun c b =>
    (List.range 8).foldl (fun c _ => if c < 128 then 2 * c else (2 * c % 256).xor 7) (c.xor b.toNat)) 0

end Sys2Proof.Machine
end

