-- ==== Sys2Proof/Config.lean ====
section
/-!
DEFINITION. What the spec leaves open. A free value is an opaque constant applied to a plain counter of State
(`freeIx`), so that nothing in Lean can evaluate it or prove a value of it: a claim that mentions one holds for
every value it may take.
-/

namespace Sys2Proof

/-- The free 64-bit values of a run, one for each value of State's counter `freeIx` (log entry 5): entropy (R437,
R438), the generator bits of stochastic rounding (R244), measured powers, temperatures and voltages (R411 to R417,
R478), and every result the spec calls unspecified. -/
opaque Config.freeBits : Nat → BitVec 64

/-- What RISC-V leaves open of a vector instruction: agnostic elements, a vl within its bounds, the order of an unordered sum. A
function of the instruction and its core's data alone, the same on every core (R248, log entry 38). -/
opaque Config.vectorFree : List Nat → Nat → BitVec 64

/-- What the spec leaves open of a core's other instructions: whether an SC fails, the code of a failing one, a status of which only
nonzero is stated, an HRES value that it does not state. A function of the instruction and the core's data alone, the same on
every core (R248, log entries 37 to 39). -/
opaque Config.coreFree : List Nat → BitVec 64

/-- The MASTER byte of the packets of a die's stage controller, which carries no master ID (R22): the spec states no value
(log entry 22). -/
opaque Config.stageMaster : Nat → BitVec 8

/-- The address at its destination that a ledger's message of a kind is written to (R136 to R138): the spec states none (log
entry 80). -/
opaque Config.ledgerPort : Nat → BitVec 46

/-- The granule at which space 0 of a ledgered shard's tensor begins: such a shard has no placed address of its own (R35, R151;
log entry 40). -/
opaque Config.shardBase : Nat → BitVec 35

/-- The identity seed that is fused into the package (R430), as 256 bits; nothing reads it (log entry 3). -/
opaque Config.identitySeed : BitVec 256

/-- The digest of the boot ROM, measurement 0 (R433), by 8-byte word (log entry 3). -/
opaque Config.romDigest : Nat → BitVec 64

end Sys2Proof
end

