-- ==== Sys2Proof/Machine/RegMap.lean ====
section
/-!
DEFINITION. The register index (R464): every register's name, its local address, its access, its reset value, who may
write it, which bits a write stores or clears, and the ranges of its fields (R485). One function per register gives
its local address from its indices; regFind goes the other way.
-/

namespace Sys2Proof.Machine

/-- The registers of the index, by name. -/
inductive RegName where
  | ID_JOB_STATE | ID_JOB_ID | ID_MNF_DIGEST0 | ID_MNF_DIGEST1 | ID_MNF_DIGEST2 | ID_MNF_DIGEST3 | ID_PLC_DIGEST0
  | ID_PLC_DIGEST1 | ID_PLC_DIGEST2 | ID_PLC_DIGEST3 | ID_LOADER_VER | CAD_CTX_CFG | CAD_CTL | CAD_STATUS | CAD_LAG
  | CAD_LAG_MAX | CAD_LAG_BOUND | CAD_FBASE | CAD_END | CAD_PERIODS | CAD_SLOT_T0 | CAD_EVT | CAD_EVT_EN | CAD_DROPS
  | CAD_RECOVERED | CAD_PTR_QUEUE | CAD_PTR_TABLE | CAD_PTR_LEDGER | CAD_SWITCHES | CAD_DIE_CTX | CAD_EVT_QUEUE
  | CAD_EVT_SUMMARY | CAD_SLOT | MBQ_CFG | MBQ_MAXLEN | MBQ_POOL | MBQ_POOL_PEAK | MBQ_CTX | MBQ_GATE | MBQ_HEAD
  | MBQ_STATUS | MBQ_ADMITTED | MBQ_PASSED | MBQ_REFUSED | MBQ_WAIT_POOL | MBQ_WAIT_CTX | MBQ_WAIT_GATE | MBQ_CONVOYS
  | MBQ_ABORT | MBQ_EVT | MBQ_EVT_EN | MBQ_CTX_SEL | MBQ_CTX_DATA0 | MBQ_CTX_DATA1 | MBQ_CTX_DATA2 | MBQ_CTX_DATA3
  | MBQ_EVT_SUMMARY | LED_CFG | LED_STEP | LED_OUTCOME | LED_PENDING | LED_RESOLVE | LED_SEL | LED_DATA0 | LED_DATA1
  | LED_DATA2 | LED_DATA3 | LED_DATA4 | LED_DATA5 | LED_EVT | LED_EVT_EN | LED_NONFINITE | LED_FETCH | LED_WAIT
  | LED_UPDWAIT | LED_CACHE | MX_ID | MX_STATUS | MX_PROF_A | MX_PROF_B | MX_PROF_O | MX_FAULT | MX_FAULT_WORD
  | MX_FAULT_ADDR | MX_DRAIN_STAT | MX_NF_FIRST | MX_NF_TIME | MX_EVT | MX_EVT_EN | MX_IX_SEL | MX_IX_DATA
  | MX_CNT_ARRAY | MX_CNT_LOAD | MX_CNT_DRAIN | MX_CNT_MAC | MX_CNT_SKIP | MX_CNT_INSTR | DSP_SUBMIT | DSP_STATUS
  | DSP_LAST | DSP_EVT | DSP_EVT_EN | DSP_REQS | DSP_CHOICES | DSP_DROPS | DSP_SPILLS | DSP_CTX_TABLE | DSP_IBX_CFG
  | DSP_IBX_BUF | DSP_IBX_GEOM | DSP_IBX_QUEUE | DSP_IBX_STATUS | DSP_IBX_EMITTED | DSP_IBX_OVERRUN | UPD_ID
  | UPD_STATUS | UPD_CUR | UPD_PROGRESS | UPD_LAST | UPD_NF_FIRST | UPD_NF_TIME | UPD_EVT | UPD_EVT_EN
  | UPD_CNT_UPDATES | UPD_CNT_ELEMS | UPD_CNT_BUSY | UPD_CNT_MEMWAIT | UPD_TRIGGER | UPD_TQ_STATUS | UPD_DONE
  | UPD_DIE_EVT | UPD_DIE_EVT_EN | UPD_TRIGGERS | UPD_IGNORED | GC_ID | GC_STATUS | GC_PC | GC_FAULT | GC_FAULT_PC
  | GC_FAULT_VAL | GC_EVT | GC_EVT_EN | GC_CNT_BUSY | GC_CNT_INSTR | GC_CNT_WAIT | GC_CNT_VEC | GC_CNT_IMISS
  | GC_CNT_DMISS | QU_CFG | QU_RING | QU_PROD | QU_CONS | QU_OCC | QU_HEAD | QU_TALLY | QU_CNT | QU_PEEK_SEL
  | QU_PEEK_INFO | QU_EVT | QU_EVT_EN | QU_PEEK_DATA | SYN_MS | SYN_BAR_CFG | SYN_BAR_STATE | SYN_MADV | SYN_EVT
  | SYN_EVT_EN | MEM_STK_ID | MEM_STK_STATUS | MEM_DIAG_SEL | MEM_PAR_CNT | MEM_PAR_LAST | MEM_PAR_THRESH | MEM_EVT
  | MEM_EVT_EN | MEM_ARB_CFG | MEM_ARB_CUT | MEM_CNT_RD | MEM_CNT_WR | MEM_CNT_BUSY | MEM_CNT_POISON | MEM_OS_CFG
  | MEM_OS_PAR | MEM_OS_LAST | MEM_OS_EVT | MEM_OS_EVT_EN | MEM_OS_CUT | MEM_CFG | MEM_EVT_SUMMARY | OFL_CFG
  | OFL_BASE | OFL_FRAMES | OFL_STATUS | OFL_CNT_OUT | OFL_CNT_IN | OFL_CNT_SKIP | OFL_QUEUE | OFL_EVT | OFL_EVT_EN
  | OFL_LAST | LNK_ID | LNK_CFG | LNK_CTL | LNK_STATUS | LNK_PEER | LNK_DOWN_THRESH | LNK_TMO | LNK_SEQ | LNK_CR_SIZE
  | LNK_CR_AVAIL | LNK_EVT | LNK_EVT_EN | LNK_DOWN_CAUSE | LNK_DOWN_TIME | LNK_CNT_REPLAY | LNK_CNT_CRC | LNK_CNT_DUP
  | LNK_CNT_TX | LNK_CNT_RX | LNK_CNT_DOWN | LNK_LANE0 | LNK_LANE1 | RTE_GROUP | RTE_MEMBER | RTE_SELF | RTE_CFG
  | RTE_PORT_EN | RTE_EVT | RTE_EVT_EN | RTE_CNT_FWD | RTE_CNT_DROP | RTE_ADMIT | FAB_TAG_CFG | FAB_TAG_STATUS
  | FAB_TMO | FAB_EVT | FAB_EVT_EN | FAB_CNT_REQ | FAB_CNT_IN | FAB_CNT_STALE | FAB_CNT_TIMEOUT | FAB_CNT_DENIED
  | FAB_CNT_DISCARD | FAB_LAST_STALE | COL_SUBMIT | COL_STATUS | COL_CFG | COL_RX | COL_VOTE_CFG | COL_VOTE_TABLE
  | COL_VOTE_RX | COL_VOTE_STATUS | COL_PERM_PENDING | COL_LAST | COL_EVT | COL_EVT_EN | COL_CNT_OPS | COL_CNT_BYTES
  | COL_CNT_NONFINITE | CMD_RING_CFG | CMD_CQ_BASE | CMD_CQ_CFG | CMD_DB_PI | CMD_DB_CQH | CMD_RING_STATUS
  | CMD_RING_IDX | CMD_CQ_PTR | CMD_RING_CTL | CMD_RING_EVT | CMD_RING_EVT_EN | CMD_RING_CNT | CMD_CFG | CMD_STATUS
  | CMD_EVT_SUMMARY | MBX_DATA | MBX_SEND | MBX_ACK | MBX_STATUS | MBX_BIND | MBX_NOTIFY | MBX_LOCK | MBX_PEND
  | MBX_EVT | MBX_EVT_EN | GOV_STATUS | GOV_BUDGET | GOV_DEMAND | GOV_CFG | GOV_TARIFF | GOV_EVT | GOV_EVT_EN
  | GOV_CNT_BELOW | GOV_CNT_THERMAL | GOV_ENERGY | GOV_VF | PKM_BUDGET | PKM_GUEST | PKM_CEIL | PKM_WEIGHT
  | PKM_GRANT | PKM_POOL | PKM_POWER | PKM_PERIODS | PKM_EVT | PKM_EVT_EN | CLK_TIME | CLK_STATUS | CLK_ARITH
  | CLK_PD_GC0 | CLK_PD_GC1 | CLK_PD_ME | CLK_PD_UE | RST_CFG | RST_STATUS | RST_TIME | SEC_STATUS | SEC_SERIAL0
  | SEC_SERIAL1 | SEC_NONCE | SEC_BOOT | SEC_DBG_STATUS | SEC_LOCK | SEC_EVT | SEC_EVT_EN | SEC_MEAS | SEC_ROOT_KEY
  | SEC_CTRL_ID | SEC_CTRL_KEY | SEC_OWNER_KEY | CGT_STATUS | CGT_CFG | CGT_CTL | CGT_VIOL | CGT_VIOL_ADDR
  | CGT_VIOL_TIME | CGT_EVT | CGT_EVT_EN | CGT_CNT_REQ | CGT_CNT_DENY | CGT_WIN_BASE | CGT_WIN_LIMIT | DEM_CAUSE
  | DEM_ELAPSED | DEM_OVF | DEM_CTL | DEM_OVF_SUMMARY | DEM_EVT_EN | ERR_STATUS | ERR_PROD | ERR_CONS | ERR_NOTIFY
  | ERR_EVT | ERR_FIRST | ERR_FIRST_INFO | ERR_FIRST_CLR | ERR_ENTRY | ID_PART | LNK_SUMMARY
  deriving DecidableEq, Repr

/-- Who may write a register.
ro: nobody. jobRR: job software in READY or RUNNING, management cores always (R486). jobReady: job software in READY
(R225). mgmt: management cores; others DENIED. ring: the ring's owner through fabric ingress, and management cores
(R385). rstCfg: R428. mailbox: the bound party (R401). colRx: fabric ingress and the engine itself (R372). anyone: any master, at
any time. -/
inductive Writer where
  | ro | jobRR | jobReady | mgmt | ring | rstCfg | mailbox | colRx | anyone
  deriving DecidableEq, Repr

/-- A row of the register index. `base` is the local address of the register at indices zero, `dims` the count and
stride of each index, outermost first; `hubIx` says that the row is the hub's copy of a register that compute dies
have too (its indices then begin with 4, R21). `rw` masks the bits a write stores, `w1c` those a written 1 clears. -/
structure RegRow where
  name : RegName
  base : Nat
  dims : List (Nat × Nat)
  hubIx : Bool
  reset : Nat
  writer : Writer
  rw : Nat
  w1c : Nat
  ranges : List (Nat × Nat × Nat × Nat)
  deriving DecidableEq, Repr

/-- Base of the control space of compute die n, or of the hub for 4 (R23, R464). -/
def ctlBase (n : Nat) : Nat := 0x300000000000 + n * 0x1000000

/-- Base of the register block of the queue with a package index (R21, R464). -/
def queueBase (q : Nat) : Nat :=
  if q < 4096 then ctlBase (q / 1024) + 0x300000 + q % 1024 * 0x40 else ctlBase 4 + 0x360000 + (q - 4096) * 0x40

/-- ID_JOB_STATE (02): Job state and result of the last load. -/
def Reg.ID_JOB_STATE : Nat := ctlBase 4 + 0x100
/-- ID_JOB_ID (02): JOB_ID of the loaded or retained job; 0 when EMPTY. -/
def Reg.ID_JOB_ID : Nat := ctlBase 4 + 0x108
/-- ID_MNF_DIGEST0 (02): Manifest digest bytes 0–7. -/
def Reg.ID_MNF_DIGEST0 : Nat := ctlBase 4 + 0x110
/-- ID_MNF_DIGEST1 (02): Manifest digest bytes 8–15. -/
def Reg.ID_MNF_DIGEST1 : Nat := ctlBase 4 + 0x118
/-- ID_MNF_DIGEST2 (02): Manifest digest bytes 16–23. -/
def Reg.ID_MNF_DIGEST2 : Nat := ctlBase 4 + 0x120
/-- ID_MNF_DIGEST3 (02): Manifest digest bytes 24–31. -/
def Reg.ID_MNF_DIGEST3 : Nat := ctlBase 4 + 0x128
/-- ID_PLC_DIGEST0 (02): Placement digest bytes 0–7. -/
def Reg.ID_PLC_DIGEST0 : Nat := ctlBase 4 + 0x130
/-- ID_PLC_DIGEST1 (02): Placement digest bytes 8–15. -/
def Reg.ID_PLC_DIGEST1 : Nat := ctlBase 4 + 0x138
/-- ID_PLC_DIGEST2 (02): Placement digest bytes 16–23. -/
def Reg.ID_PLC_DIGEST2 : Nat := ctlBase 4 + 0x140
/-- ID_PLC_DIGEST3 (02): Placement digest bytes 24–31. -/
def Reg.ID_PLC_DIGEST3 : Nat := ctlBase 4 + 0x148
/-- ID_LOADER_VER (02): Loader version, as in the report's LOADER_VER, encoded under R51. -/
def Reg.ID_LOADER_VER : Nat := ctlBase 4 + 0x150
/-- CAD_CTX_CFG (03): Context configuration, set by the loader. -/
def Reg.CAD_CTX_CFG (n x : Nat) : Nat := ctlBase n + 0x380000 + x * 0x100
/-- CAD_CTL (03): End limit enable. -/
def Reg.CAD_CTL (n x : Nat) : Nat := ctlBase n + 0x380008 + x * 0x100
/-- CAD_STATUS (03): Current slot, state and catch-up level. -/
def Reg.CAD_STATUS (n x : Nat) : Nat := ctlBase n + 0x380010 + x * 0x100
/-- CAD_LAG (03): Running lag L in ticks, bits [31:0]; [63:32] zero. -/
def Reg.CAD_LAG (n x : Nat) : Nat := ctlBase n + 0x380018 + x * 0x100
/-- CAD_LAG_MAX (03): Largest L since last written, bits [31:0]. -/
def Reg.CAD_LAG_MAX (n x : Nat) : Nat := ctlBase n + 0x380020 + x * 0x100
/-- CAD_LAG_BOUND (03): Lag bound in ticks, bits [31:0]. -/
def Reg.CAD_LAG_BOUND (n x : Nat) : Nat := ctlBase n + 0x380028 + x * 0x100
/-- CAD_FBASE (03): Forward base position, 64 bits. -/
def Reg.CAD_FBASE (n x : Nat) : Nat := ctlBase n + 0x380030 + x * 0x100
/-- CAD_END (03): End position, 64 bits. -/
def Reg.CAD_END (n x : Nat) : Nat := ctlBase n + 0x380038 + x * 0x100
/-- CAD_PERIODS (03): Periods completed since START, 64 bits. -/
def Reg.CAD_PERIODS (n x : Nat) : Nat := ctlBase n + 0x380040 + x * 0x100
/-- CAD_SLOT_T0 (03): Local cycle count at the current slot's start. -/
def Reg.CAD_SLOT_T0 (n x : Nat) : Nat := ctlBase n + 0x380048 + x * 0x100
/-- CAD_EVT (03): Event flags. -/
def Reg.CAD_EVT (n x : Nat) : Nat := ctlBase n + 0x380050 + x * 0x100
/-- CAD_EVT_EN (03): Error-log enables, same layout as CAD_EVT bits [1:0]. -/
def Reg.CAD_EVT_EN (n x : Nat) : Nat := ctlBase n + 0x380058 + x * 0x100
/-- CAD_DROPS (03): Slots shortened or dropped by catch-up. -/
def Reg.CAD_DROPS (n x : Nat) : Nat := ctlBase n + 0x380060 + x * 0x100
/-- CAD_RECOVERED (03): Ticks recovered by catch-up. -/
def Reg.CAD_RECOVERED (n x : Nat) : Nat := ctlBase n + 0x380068 + x * 0x100
/-- CAD_PTR_QUEUE (03): Queue base pointer the units follow. -/
def Reg.CAD_PTR_QUEUE (n x : Nat) : Nat := ctlBase n + 0x380070 + x * 0x100
/-- CAD_PTR_TABLE (03): Cadence table pointer the units follow. -/
def Reg.CAD_PTR_TABLE (n x : Nat) : Nat := ctlBase n + 0x380078 + x * 0x100
/-- CAD_PTR_LEDGER (03): Ledger base pointer the units follow. -/
def Reg.CAD_PTR_LEDGER (n x : Nat) : Nat := ctlBase n + 0x380080 + x * 0x100
/-- CAD_SWITCHES (03): Backhaul switch count and longest switch. -/
def Reg.CAD_SWITCHES (n x : Nat) : Nat := ctlBase n + 0x380088 + x * 0x100
/-- CAD_DIE_CTX (03): VALID of every context in [31:0]; BACKHAUL of every context in [63:32]. -/
def Reg.CAD_DIE_CTX (n : Nat) : Nat := ctlBase n + 0x382000
/-- CAD_EVT_QUEUE (03): Queue for event messages. -/
def Reg.CAD_EVT_QUEUE (n : Nat) : Nat := ctlBase n + 0x382008
/-- CAD_EVT_SUMMARY (03): Bit x set while CAD_EVT of context x is nonzero; [63:32] zero. -/
def Reg.CAD_EVT_SUMMARY (n : Nat) : Nat := ctlBase n + 0x382010
/-- CAD_SLOT (03): Slot s of context x, as in R67. -/
def Reg.CAD_SLOT (n x y : Nat) : Nat := ctlBase n + 0x390000 + x * 0x800 + y * 0x8
/-- MBQ_CFG (04): Stage limits, set by the loader. -/
def Reg.MBQ_CFG (n x : Nat) : Nat := ctlBase n + 0x3A0000 + x * 0x100
/-- MBQ_MAXLEN (04): MAX_LENGTH in [31:0]; [63:32] zero. -/
def Reg.MBQ_MAXLEN (n x : Nat) : Nat := ctlBase n + 0x3A0008 + x * 0x100
/-- MBQ_POOL (04): Pool size and reserved pages. -/
def Reg.MBQ_POOL (n x : Nat) : Nat := ctlBase n + 0x3A0010 + x * 0x100
/-- MBQ_POOL_PEAK (04): Largest reserved page count since last written, [31:0]. -/
def Reg.MBQ_POOL_PEAK (n x : Nat) : Nat := ctlBase n + 0x3A0018 + x * 0x100
/-- MBQ_CTX (04): Contexts in use and depth. -/
def Reg.MBQ_CTX (n x : Nat) : Nat := ctlBase n + 0x3A0020 + x * 0x100
/-- MBQ_GATE (04): Convoy gate. -/
def Reg.MBQ_GATE (n x : Nat) : Nat := ctlBase n + 0x3A0028 + x * 0x100
/-- MBQ_HEAD (04): SEQ of the forward head in [31:0] and of the backward head in [63:32]. -/
def Reg.MBQ_HEAD (n x : Nat) : Nat := ctlBase n + 0x3A0030 + x * 0x100
/-- MBQ_STATUS (04): Head validity and admission wait. -/
def Reg.MBQ_STATUS (n x : Nat) : Nat := ctlBase n + 0x3A0038 + x * 0x100
/-- MBQ_ADMITTED (04): Admissions for computing, 64 bits, saturating. -/
def Reg.MBQ_ADMITTED (n x : Nat) : Nat := ctlBase n + 0x3A0040 + x * 0x100
/-- MBQ_PASSED (04): Forward pass-throughs of every cause, 64 bits, saturating. -/
def Reg.MBQ_PASSED (n x : Nat) : Nat := ctlBase n + 0x3A0048 + x * 0x100
/-- MBQ_REFUSED (04): Refusals and stale discards. -/
def Reg.MBQ_REFUSED (n x : Nat) : Nat := ctlBase n + 0x3A0050 + x * 0x100
/-- MBQ_WAIT_POOL (04): Ticks waiting for pool space, 64 bits, saturating. -/
def Reg.MBQ_WAIT_POOL (n x : Nat) : Nat := ctlBase n + 0x3A0058 + x * 0x100
/-- MBQ_WAIT_CTX (04): Ticks waiting for a context, 64 bits, saturating. -/
def Reg.MBQ_WAIT_CTX (n x : Nat) : Nat := ctlBase n + 0x3A0060 + x * 0x100
/-- MBQ_WAIT_GATE (04): Ticks waiting at the convoy gate, 64 bits, saturating. -/
def Reg.MBQ_WAIT_GATE (n x : Nat) : Nat := ctlBase n + 0x3A0068 + x * 0x100
/-- MBQ_CONVOYS (04): Convoys completed in forward, 64 bits, saturating. -/
def Reg.MBQ_CONVOYS (n x : Nat) : Nat := ctlBase n + 0x3A0070 + x * 0x100
/-- MBQ_ABORT (04): Abort request. -/
def Reg.MBQ_ABORT (n x : Nat) : Nat := ctlBase n + 0x3A0078 + x * 0x100
/-- MBQ_EVT (04): Event flags. -/
def Reg.MBQ_EVT (n x : Nat) : Nat := ctlBase n + 0x3A0080 + x * 0x100
/-- MBQ_EVT_EN (04): Error-log enables, same layout as MBQ_EVT bits [6:0]. -/
def Reg.MBQ_EVT_EN (n x : Nat) : Nat := ctlBase n + 0x3A0088 + x * 0x100
/-- MBQ_CTX_SEL (04): Selects a micro-batch context and latches its snapshot. -/
def Reg.MBQ_CTX_SEL (n : Nat) : Nat := ctlBase n + 0x3A2000
/-- MBQ_CTX_DATA0 (04): State in [3:0], [31:4] zero, SEQ in [63:32]. -/
def Reg.MBQ_CTX_DATA0 (n : Nat) : Nat := ctlBase n + 0x3A2008
/-- MBQ_CTX_DATA1 (04): LENGTH in [31:0], reserved pages in [63:32]. -/
def Reg.MBQ_CTX_DATA1 (n : Nat) : Nat := ctlBase n + 0x3A2010
/-- MBQ_CTX_DATA2 (04): Version tag its forward used. -/
def Reg.MBQ_CTX_DATA2 (n : Nat) : Nat := ctlBase n + 0x3A2018
/-- MBQ_CTX_DATA3 (04): Local cycle count at admission. -/
def Reg.MBQ_CTX_DATA3 (n : Nat) : Nat := ctlBase n + 0x3A2020
/-- MBQ_EVT_SUMMARY (04): Bit x set while MBQ_EVT of context x is nonzero; [63:32] zero. -/
def Reg.MBQ_EVT_SUMMARY (n : Nat) : Nat := ctlBase n + 0x3A2028
/-- LED_CFG (05): Ledger counts and scope, set by the loader. -/
def Reg.LED_CFG (n : Nat) : Nat := ctlBase n + 0x3B0000
/-- LED_STEP (05): Last step outcome. -/
def Reg.LED_STEP (n : Nat) : Nat := ctlBase n + 0x3B0008
/-- LED_OUTCOME (05): Outcome milestone counter. -/
def Reg.LED_OUTCOME (n : Nat) : Nat := ctlBase n + 0x3B0010
/-- LED_PENDING (05): Owned STEP and held versions. -/
def Reg.LED_PENDING (n : Nat) : Nat := ctlBase n + 0x3B0018
/-- LED_RESOLVE (05): Resolve a held step under R142. -/
def Reg.LED_RESOLVE (n : Nat) : Nat := ctlBase n + 0x3B0020
/-- LED_SEL (05): Selects a ledger and slot. -/
def Reg.LED_SEL (n : Nat) : Nat := ctlBase n + 0x3B0028
/-- LED_DATA0 (05): Commit word of the selected ledger. -/
def Reg.LED_DATA0 (n : Nat) : Nat := ctlBase n + 0x3B0030
/-- LED_DATA1 (05): Occupancy of the selected ledger. -/
def Reg.LED_DATA1 (n : Nat) : Nat := ctlBase n + 0x3B0038
/-- LED_DATA2 (05): Identity of the selected ledger. -/
def Reg.LED_DATA2 (n : Nat) : Nat := ctlBase n + 0x3B0040
/-- LED_DATA3 (05): FPRINT of the committed slot. -/
def Reg.LED_DATA3 (n : Nat) : Nat := ctlBase n + 0x3B0048
/-- LED_DATA4 (05): State and REFS of the selected slot. -/
def Reg.LED_DATA4 (n : Nat) : Nat := ctlBase n + 0x3B0050
/-- LED_DATA5 (05): STEP of the selected slot in [55:0]. -/
def Reg.LED_DATA5 (n : Nat) : Nat := ctlBase n + 0x3B0058
/-- LED_EVT (05): Event flags. -/
def Reg.LED_EVT (n : Nat) : Nat := ctlBase n + 0x3B0060
/-- LED_EVT_EN (05): Error-log enables, same layout as LED_EVT bits [5:0]. -/
def Reg.LED_EVT_EN (n : Nat) : Nat := ctlBase n + 0x3B0068
/-- LED_NONFINITE (05): Discarded steps in [31:0], non-finite shard updates in [63:32], saturating. -/
def Reg.LED_NONFINITE (n : Nat) : Nat := ctlBase n + 0x3B0070
/-- LED_FETCH (05): Replica fetches. -/
def Reg.LED_FETCH (n : Nat) : Nat := ctlBase n + 0x3B0078
/-- LED_WAIT (05): Ticks forwards waited for a ledger slot, 64 bits, saturating. -/
def Reg.LED_WAIT (n : Nat) : Nat := ctlBase n + 0x3B0080
/-- LED_UPDWAIT (05): Ticks updates and fetches waited for a slot, 64 bits, saturating. -/
def Reg.LED_UPDWAIT (n : Nat) : Nat := ctlBase n + 0x3B0088
/-- LED_CACHE (05): This die's header cache: hits in [31:0], misses in [63:32], saturating. -/
def Reg.LED_CACHE (n : Nat) : Nat := ctlBase n + 0x3B1000
/-- MX_ID (06): Engine identity. -/
def Reg.MX_ID (n x : Nat) : Nat := ctlBase n + 0x100000 + x * 0x10000
/-- MX_STATUS (06): State, stage context and PC. -/
def Reg.MX_STATUS (n x : Nat) : Nat := ctlBase n + 0x100008 + x * 0x10000
/-- MX_PROF_A (06): Profile A in [47:0]. -/
def Reg.MX_PROF_A (n x : Nat) : Nat := ctlBase n + 0x100010 + x * 0x10000
/-- MX_PROF_B (06): Profile B in [47:0]. -/
def Reg.MX_PROF_B (n x : Nat) : Nat := ctlBase n + 0x100018 + x * 0x10000
/-- MX_PROF_O (06): Profile O in [47:0]. -/
def Reg.MX_PROF_O (n x : Nat) : Nat := ctlBase n + 0x100020 + x * 0x10000
/-- MX_FAULT (06): Fault code, status and PC. -/
def Reg.MX_FAULT (n x : Nat) : Nat := ctlBase n + 0x100028 + x * 0x10000
/-- MX_FAULT_WORD (06): Faulting instruction word. -/
def Reg.MX_FAULT_WORD (n x : Nat) : Nat := ctlBase n + 0x100030 + x * 0x10000
/-- MX_FAULT_ADDR (06): Global address of the faulting access. -/
def Reg.MX_FAULT_ADDR (n x : Nat) : Nat := ctlBase n + 0x100038 + x * 0x10000
/-- MX_DRAIN_STAT (06): Status of the last drain. -/
def Reg.MX_DRAIN_STAT (n x : Nat) : Nat := ctlBase n + 0x100040 + x * 0x10000
/-- MX_NF_FIRST (06): First flagged drain since NONFINITE was cleared. -/
def Reg.MX_NF_FIRST (n x : Nat) : Nat := ctlBase n + 0x100048 + x * 0x10000
/-- MX_NF_TIME (06): Local cycle count of that drain. -/
def Reg.MX_NF_TIME (n x : Nat) : Nat := ctlBase n + 0x100050 + x * 0x10000
/-- MX_EVT (06): Event flags. -/
def Reg.MX_EVT (n x : Nat) : Nat := ctlBase n + 0x100058 + x * 0x10000
/-- MX_EVT_EN (06): Error-log enables, same layout as MX_EVT bits [3:0]. -/
def Reg.MX_EVT_EN (n x : Nat) : Nat := ctlBase n + 0x100060 + x * 0x10000
/-- MX_IX_SEL (06): Selects an index register. -/
def Reg.MX_IX_SEL (n x : Nat) : Nat := ctlBase n + 0x100068 + x * 0x10000
/-- MX_IX_DATA (06): Latched value of the selected index register. -/
def Reg.MX_IX_DATA (n x : Nat) : Nat := ctlBase n + 0x100070 + x * 0x10000
/-- MX_CNT_ARRAY (06): Arithmetic cycles with the array busy, 64 bits, saturating. -/
def Reg.MX_CNT_ARRAY (n x : Nat) : Nat := ctlBase n + 0x100080 + x * 0x10000
/-- MX_CNT_LOAD (06): On-die network cycles with the loader busy, 64 bits, saturating. -/
def Reg.MX_CNT_LOAD (n x : Nat) : Nat := ctlBase n + 0x100088 + x * 0x10000
/-- MX_CNT_DRAIN (06): Arithmetic cycles with the drain path busy, 64 bits, saturating. -/
def Reg.MX_CNT_DRAIN (n x : Nat) : Nat := ctlBase n + 0x100090 + x * 0x10000
/-- MX_CNT_MAC (06): Dense-equivalent MACs in units of 65,536, 64 bits, saturating. -/
def Reg.MX_CNT_MAC (n x : Nat) : Nat := ctlBase n + 0x100098 + x * 0x10000
/-- MX_CNT_SKIP (06): Zero blocks skipped, 64 bits, saturating. -/
def Reg.MX_CNT_SKIP (n x : Nat) : Nat := ctlBase n + 0x1000A0 + x * 0x10000
/-- MX_CNT_INSTR (06): Instructions executed, 64 bits, saturating. -/
def Reg.MX_CNT_INSTR (n x : Nat) : Nat := ctlBase n + 0x1000A8 + x * 0x10000
/-- DSP_SUBMIT (08): Submit a request. -/
def Reg.DSP_SUBMIT (n : Nat) : Nat := ctlBase n + 0x400000
/-- DSP_STATUS (08): Request slots free and activity. -/
def Reg.DSP_STATUS (n : Nat) : Nat := ctlBase n + 0x400008
/-- DSP_LAST (08): Last request that completed with a nonzero status. -/
def Reg.DSP_LAST (n : Nat) : Nat := ctlBase n + 0x400010
/-- DSP_EVT (08): Event flags. -/
def Reg.DSP_EVT (n : Nat) : Nat := ctlBase n + 0x400018
/-- DSP_EVT_EN (08): Error-log enables, same layout as DSP_EVT bits [5:0]. -/
def Reg.DSP_EVT_EN (n : Nat) : Nat := ctlBase n + 0x400020
/-- DSP_REQS (08): Requests completed, 64 bits, saturating. -/
def Reg.DSP_REQS (n : Nat) : Nat := ctlBase n + 0x400028
/-- DSP_CHOICES (08): Choices placed, 64 bits, saturating. -/
def Reg.DSP_CHOICES (n : Nat) : Nat := ctlBase n + 0x400030
/-- DSP_DROPS (08): Choices dropped, 64 bits, saturating. -/
def Reg.DSP_DROPS (n : Nat) : Nat := ctlBase n + 0x400038
/-- DSP_SPILLS (08): Choices spilled, 64 bits, saturating. -/
def Reg.DSP_SPILLS (n : Nat) : Nat := ctlBase n + 0x400040
/-- DSP_CTX_TABLE (08): Expert table of stage context x, 0 to 31. -/
def Reg.DSP_CTX_TABLE (n x : Nat) : Nat := ctlBase n + 0x400800 + x * 0x8
/-- DSP_IBX_CFG (08): Sources, token size, enable. -/
def Reg.DSP_IBX_CFG (n x : Nat) : Nat := ctlBase n + 0x401000 + x * 0x40
/-- DSP_IBX_BUF (08): Local address of slot 0 in [45:0], 2 KiB aligned. -/
def Reg.DSP_IBX_BUF (n x : Nat) : Nat := ctlBase n + 0x401008 + x * 0x40
/-- DSP_IBX_GEOM (08): Slot count and slot tokens. -/
def Reg.DSP_IBX_GEOM (n x : Nat) : Nat := ctlBase n + 0x401010 + x * 0x40
/-- DSP_IBX_QUEUE (08): Notice queue and output queue. -/
def Reg.DSP_IBX_QUEUE (n x : Nat) : Nat := ctlBase n + 0x401018 + x * 0x40
/-- DSP_IBX_STATUS (08): Next position and held notices. -/
def Reg.DSP_IBX_STATUS (n x : Nat) : Nat := ctlBase n + 0x401020 + x * 0x40
/-- DSP_IBX_EMITTED (08): Descriptors emitted, 64 bits, saturating. -/
def Reg.DSP_IBX_EMITTED (n x : Nat) : Nat := ctlBase n + 0x401028 + x * 0x40
/-- DSP_IBX_OVERRUN (08): Token rows left out under R223, 64 bits, saturating. -/
def Reg.DSP_IBX_OVERRUN (n x : Nat) : Nat := ctlBase n + 0x401030 + x * 0x40
/-- UPD_ID (09): Engine identity. -/
def Reg.UPD_ID (n x : Nat) : Nat := ctlBase n + 0x3C0000 + x * 0x1000
/-- UPD_STATUS (09): State, pass and slot. -/
def Reg.UPD_STATUS (n x : Nat) : Nat := ctlBase n + 0x3C0008 + x * 0x1000
/-- UPD_CUR (09): Ledger and step of the running update. -/
def Reg.UPD_CUR (n x : Nat) : Nat := ctlBase n + 0x3C0010 + x * 0x1000
/-- UPD_PROGRESS (09): Elements completed in the current pass, [39:0]. -/
def Reg.UPD_PROGRESS (n x : Nat) : Nat := ctlBase n + 0x3C0018 + x * 0x1000
/-- UPD_LAST (09): Last update that ended. -/
def Reg.UPD_LAST (n x : Nat) : Nat := ctlBase n + 0x3C0020 + x * 0x1000
/-- UPD_NF_FIRST (09): First non-finite value since NONFINITE was cleared. -/
def Reg.UPD_NF_FIRST (n x : Nat) : Nat := ctlBase n + 0x3C0028 + x * 0x1000
/-- UPD_NF_TIME (09): Local cycle count of that value. -/
def Reg.UPD_NF_TIME (n x : Nat) : Nat := ctlBase n + 0x3C0030 + x * 0x1000
/-- UPD_EVT (09): Event flags. -/
def Reg.UPD_EVT (n x : Nat) : Nat := ctlBase n + 0x3C0038 + x * 0x1000
/-- UPD_EVT_EN (09): Error-log enables, same layout as UPD_EVT bits [2:0]. -/
def Reg.UPD_EVT_EN (n x : Nat) : Nat := ctlBase n + 0x3C0040 + x * 0x1000
/-- UPD_CNT_UPDATES (09): Updates ended, 64 bits, saturating. -/
def Reg.UPD_CNT_UPDATES (n x : Nat) : Nat := ctlBase n + 0x3C0048 + x * 0x1000
/-- UPD_CNT_ELEMS (09): Element passes completed, 64 bits, saturating. -/
def Reg.UPD_CNT_ELEMS (n x : Nat) : Nat := ctlBase n + 0x3C0050 + x * 0x1000
/-- UPD_CNT_BUSY (09): Arithmetic cycles running an update, 64 bits, saturating. -/
def Reg.UPD_CNT_BUSY (n x : Nat) : Nat := ctlBase n + 0x3C0058 + x * 0x1000
/-- UPD_CNT_MEMWAIT (09): Arithmetic cycles waiting for memory, 64 bits, saturating. -/
def Reg.UPD_CNT_MEMWAIT (n x : Nat) : Nat := ctlBase n + 0x3C0060 + x * 0x1000
/-- UPD_TRIGGER (09): Trigger an update. -/
def Reg.UPD_TRIGGER (n : Nat) : Nat := ctlBase n + 0x3C8000
/-- UPD_TQ_STATUS (09): Trigger queue state. -/
def Reg.UPD_TQ_STATUS (n : Nat) : Nat := ctlBase n + 0x3C8008
/-- UPD_DONE (09): Milestone counter advanced as triggers end. -/
def Reg.UPD_DONE (n : Nat) : Nat := ctlBase n + 0x3C8010
/-- UPD_DIE_EVT (09): Trigger event flags. -/
def Reg.UPD_DIE_EVT (n : Nat) : Nat := ctlBase n + 0x3C8018
/-- UPD_DIE_EVT_EN (09): Error-log enables, same layout as UPD_DIE_EVT bits [3:0]. -/
def Reg.UPD_DIE_EVT_EN (n : Nat) : Nat := ctlBase n + 0x3C8020
/-- UPD_TRIGGERS (09): Triggers queued, 64 bits, saturating. -/
def Reg.UPD_TRIGGERS (n : Nat) : Nat := ctlBase n + 0x3C8028
/-- UPD_IGNORED (09): Stale triggers in [31:0], duplicates in [63:32], saturating. -/
def Reg.UPD_IGNORED (n : Nat) : Nat := ctlBase n + 0x3C8030
/-- GC_ID (10): Core identity. -/
def Reg.GC_ID (n x : Nat) : Nat := ctlBase n + 0x200000 + x * 0x1000
/-- GC_STATUS (10): State, stage context and rank. -/
def Reg.GC_STATUS (n x : Nat) : Nat := ctlBase n + 0x200008 + x * 0x1000
/-- GC_PC (10): PC of the instruction executing or waiting, sampled on read. -/
def Reg.GC_PC (n x : Nat) : Nat := ctlBase n + 0x200010 + x * 0x1000
/-- GC_FAULT (10): Cause and status of the last fault. -/
def Reg.GC_FAULT (n x : Nat) : Nat := ctlBase n + 0x200018 + x * 0x1000
/-- GC_FAULT_PC (10): PC of the faulting instruction. -/
def Reg.GC_FAULT_PC (n x : Nat) : Nat := ctlBase n + 0x200020 + x * 0x1000
/-- GC_FAULT_VAL (10): mtval: faulting address or instruction, or a0 for ECALL. -/
def Reg.GC_FAULT_VAL (n x : Nat) : Nat := ctlBase n + 0x200028 + x * 0x1000
/-- GC_EVT (10): Event flags. -/
def Reg.GC_EVT (n x : Nat) : Nat := ctlBase n + 0x200030 + x * 0x1000
/-- GC_EVT_EN (10): Error-log enables, same layout as GC_EVT bits [1:0]. -/
def Reg.GC_EVT_EN (n x : Nat) : Nat := ctlBase n + 0x200038 + x * 0x1000
/-- GC_CNT_BUSY (10): General-core cycles running job code, 64 bits, saturating. -/
def Reg.GC_CNT_BUSY (n x : Nat) : Nat := ctlBase n + 0x200040 + x * 0x1000
/-- GC_CNT_INSTR (10): Instructions retired, 64 bits, saturating. -/
def Reg.GC_CNT_INSTR (n x : Nat) : Nat := ctlBase n + 0x200048 + x * 0x1000
/-- GC_CNT_WAIT (10): General-core cycles in QSEND, QRECV, QSEL, MWAIT or BARR waits, 64 bits, saturating. -/
def Reg.GC_CNT_WAIT (n x : Nat) : Nat := ctlBase n + 0x200050 + x * 0x1000
/-- GC_CNT_VEC (10): Vector instructions retired, 64 bits, saturating. -/
def Reg.GC_CNT_VEC (n x : Nat) : Nat := ctlBase n + 0x200058 + x * 0x1000
/-- GC_CNT_IMISS (10): Instruction-cache misses, 64 bits, saturating. -/
def Reg.GC_CNT_IMISS (n x : Nat) : Nat := ctlBase n + 0x200060 + x * 0x1000
/-- GC_CNT_DMISS (10): Data-cache misses, 64 bits, saturating. -/
def Reg.GC_CNT_DMISS (n x : Nat) : Nat := ctlBase n + 0x200068 + x * 0x1000
/-- QU_CFG (11): Kind, ring size and send-wait limit. -/
def Reg.QU_CFG (q : Nat) : Nat := queueBase q + 0x0
/-- QU_RING (11): Local address of the ring in [45:0]. -/
def Reg.QU_RING (q : Nat) : Nat := queueBase q + 0x8
/-- QU_PROD (11): PROD, 64 bits. -/
def Reg.QU_PROD (q : Nat) : Nat := queueBase q + 0x10
/-- QU_CONS (11): CONS, 64 bits. -/
def Reg.QU_CONS (q : Nat) : Nat := queueBase q + 0x18
/-- QU_OCC (11): Bytes and entries occupied. -/
def Reg.QU_OCC (q : Nat) : Nat := queueBase q + 0x20
/-- QU_HEAD (11): Head entry. -/
def Reg.QU_HEAD (q : Nat) : Nat := queueBase q + 0x28
/-- QU_TALLY (11): Tally count and open round. -/
def Reg.QU_TALLY (q : Nat) : Nat := queueBase q + 0x30
/-- QU_CNT (11): Messages accepted and sends that waited. -/
def Reg.QU_CNT (q : Nat) : Nat := queueBase q + 0x38
/-- QU_PEEK_SEL (11): Package queue index in [12:0]; [63:13] reserved. -/
def Reg.QU_PEEK_SEL (n : Nat) : Nat := ctlBase n + 0x310000
/-- QU_PEEK_INFO (11): Latched head state. -/
def Reg.QU_PEEK_INFO (n : Nat) : Nat := ctlBase n + 0x310008
/-- QU_EVT (11): Event flags of this die's queues. -/
def Reg.QU_EVT (n : Nat) : Nat := ctlBase n + (if n = 4 then 0x370010 else 0x310010)
/-- QU_EVT_EN (11): Error-log enables, same layout as QU_EVT bits [3:0]. -/
def Reg.QU_EVT_EN (n : Nat) : Nat := ctlBase n + (if n = 4 then 0x370018 else 0x310018)
/-- QU_PEEK_DATA (11): Bytes 8i to 8i + 7 of the latched head entry, i from 0 to 31. -/
def Reg.QU_PEEK_DATA (n x : Nat) : Nat := ctlBase n + 0x310100 + x * 0x8
/-- SYN_MS (11): Value of milestone counter m of this die, 64 bits. -/
def Reg.SYN_MS (n x : Nat) : Nat := ctlBase n + 0x340000 + x * 0x8
/-- SYN_BAR_CFG (11): Configuration of barrier b of this die. -/
def Reg.SYN_BAR_CFG (n x : Nat) : Nat := ctlBase n + 0x350000 + x * 0x10
/-- SYN_BAR_STATE (11): Arrivals, phase and waiters of barrier b. -/
def Reg.SYN_BAR_STATE (n x : Nat) : Nat := ctlBase n + 0x350008 + x * 0x10
/-- SYN_MADV (11): Advance a milestone counter. -/
def Reg.SYN_MADV (n : Nat) : Nat := ctlBase n + 0x360000
/-- SYN_EVT (11): Event flags. -/
def Reg.SYN_EVT (n : Nat) : Nat := ctlBase n + 0x360008
/-- SYN_EVT_EN (11): Error-log enables, same layout as SYN_EVT bit [0]. -/
def Reg.SYN_EVT_EN (n : Nat) : Nat := ctlBase n + 0x360010
/-- MEM_STK_ID (12): Stack identity. -/
def Reg.MEM_STK_ID (x : Nat) : Nat := ctlBase 4 + 0x400000 + x * 0x1000
/-- MEM_STK_STATUS (12): State and temperature. -/
def Reg.MEM_STK_STATUS (x : Nat) : Nat := ctlBase 4 + 0x400008 + x * 0x1000
/-- MEM_DIAG_SEL (12): Diagnostic window position. -/
def Reg.MEM_DIAG_SEL (x : Nat) : Nat := ctlBase 4 + 0x400010 + x * 0x1000
/-- MEM_PAR_CNT (12): Replayed and persistent parity errors. -/
def Reg.MEM_PAR_CNT (x : Nat) : Nat := ctlBase 4 + 0x400018 + x * 0x1000
/-- MEM_PAR_LAST (12): Last persistent error. -/
def Reg.MEM_PAR_LAST (x : Nat) : Nat := ctlBase 4 + 0x400020 + x * 0x1000
/-- MEM_PAR_THRESH (12): Replay-rate threshold. -/
def Reg.MEM_PAR_THRESH (x : Nat) : Nat := ctlBase 4 + 0x400028 + x * 0x1000
/-- MEM_EVT (12): Event flags. -/
def Reg.MEM_EVT (x : Nat) : Nat := ctlBase 4 + 0x400030 + x * 0x1000
/-- MEM_EVT_EN (12): Error-log enables, same layout as MEM_EVT bits [3:0]. -/
def Reg.MEM_EVT_EN (x : Nat) : Nat := ctlBase 4 + 0x400038 + x * 0x1000
/-- MEM_ARB_CFG (12): Channel hold limit. -/
def Reg.MEM_ARB_CFG (x : Nat) : Nat := ctlBase 4 + 0x400040 + x * 0x1000
/-- MEM_ARB_CUT (12): Last port cut off and count. -/
def Reg.MEM_ARB_CUT (x : Nat) : Nat := ctlBase 4 + 0x400048 + x * 0x1000
/-- MEM_CNT_RD (12): 64-byte bursts read, 64 bits, saturating. -/
def Reg.MEM_CNT_RD (x : Nat) : Nat := ctlBase 4 + 0x400050 + x * 0x1000
/-- MEM_CNT_WR (12): 64-byte bursts written, 64 bits, saturating. -/
def Reg.MEM_CNT_WR (x : Nat) : Nat := ctlBase 4 + 0x400058 + x * 0x1000
/-- MEM_CNT_BUSY (12): Memory-controller cycles with any channel's data bus busy, 64 bits, saturating. -/
def Reg.MEM_CNT_BUSY (x : Nat) : Nat := ctlBase 4 + 0x400060 + x * 0x1000
/-- MEM_CNT_POISON (12): Requests completed with POISON, 64 bits, saturating. -/
def Reg.MEM_CNT_POISON (x : Nat) : Nat := ctlBase 4 + 0x400068 + x * 0x1000
/-- MEM_OS_CFG (12): Granule hold limit in on-die network cycles in [5:0], 8 to 63; [63:6] reserved. -/
def Reg.MEM_OS_CFG (x : Nat) : Nat := ctlBase 4 + 0x408000 + x * 0x100
/-- MEM_OS_PAR (12): Replayed and persistent parity errors. -/
def Reg.MEM_OS_PAR (x : Nat) : Nat := ctlBase 4 + 0x408008 + x * 0x100
/-- MEM_OS_LAST (12): Offset of the last poisoned block in the die's operand store in [27:0]; VALID in [28]. -/
def Reg.MEM_OS_LAST (x : Nat) : Nat := ctlBase 4 + 0x408010 + x * 0x100
/-- MEM_OS_EVT (12): Event flags. -/
def Reg.MEM_OS_EVT (x : Nat) : Nat := ctlBase 4 + 0x408018 + x * 0x100
/-- MEM_OS_EVT_EN (12): Error-log enables, same layout as MEM_OS_EVT bits [3:0]. -/
def Reg.MEM_OS_EVT_EN (x : Nat) : Nat := ctlBase 4 + 0x408020 + x * 0x100
/-- MEM_OS_CUT (12): Last port cut off and count. -/
def Reg.MEM_OS_CUT (x : Nat) : Nat := ctlBase 4 + 0x408028 + x * 0x100
/-- MEM_CFG (12): Stacks in [7:0], granule size log2 in [15:8], first GiB of the firmware region in [47:32]. -/
def Reg.MEM_CFG : Nat := ctlBase 4 + 0x409000
/-- MEM_EVT_SUMMARY (12): Bit s set while MEM_EVT of stack s is nonzero; bit 8 + n while MEM_OS_EVT of die n is nonzero. -/
def Reg.MEM_EVT_SUMMARY : Nat := ctlBase 4 + 0x409008
/-- OFL_CFG (12): Entry configuration. -/
def Reg.OFL_CFG (x : Nat) : Nat := ctlBase 4 + 0x348000 + x * 0x40
/-- OFL_BASE (12): Global address of frame 0. -/
def Reg.OFL_BASE (x : Nat) : Nat := ctlBase 4 + 0x348008 + x * 0x40
/-- OFL_FRAMES (12): Frames in the window in [31:0]; frames in use in [63:32]. -/
def Reg.OFL_FRAMES (x : Nat) : Nat := ctlBase 4 + 0x348010 + x * 0x40
/-- OFL_STATUS (12): Micro-batches offloaded now in [8:0]; transfers in flight in [24:16]. -/
def Reg.OFL_STATUS (x : Nat) : Nat := ctlBase 4 + 0x348018 + x * 0x40
/-- OFL_CNT_OUT (12): Pages offloaded, 64 bits, saturating. -/
def Reg.OFL_CNT_OUT (x : Nat) : Nat := ctlBase 4 + 0x348020 + x * 0x40
/-- OFL_CNT_IN (12): Pages prefetched, 64 bits, saturating. -/
def Reg.OFL_CNT_IN (x : Nat) : Nat := ctlBase 4 + 0x348028 + x * 0x40
/-- OFL_CNT_SKIP (12): NOROOM in [31:0]; LATE in [63:32]; saturating. -/
def Reg.OFL_CNT_SKIP (x : Nat) : Nat := ctlBase 4 + 0x348030 + x * 0x40
/-- OFL_QUEUE (12): Free request-queue entries in [6:0]; [63:7] zero. -/
def Reg.OFL_QUEUE : Nat := ctlBase 4 + 0x34A000
/-- OFL_EVT (12): Event flags. -/
def Reg.OFL_EVT : Nat := ctlBase 4 + 0x34A008
/-- OFL_EVT_EN (12): Error-log enables, same layout as OFL_EVT bits [2:0]. -/
def Reg.OFL_EVT_EN : Nat := ctlBase 4 + 0x34A010
/-- OFL_LAST (12): Last failed transfer. -/
def Reg.OFL_LAST : Nat := ctlBase 4 + 0x34A018
/-- LNK_ID (13): Port identity. -/
def Reg.LNK_ID (x : Nat) : Nat := ctlBase 4 + 0x100000 + x * 0x1000
/-- LNK_CFG (13): Lanes, speed, retraining. -/
def Reg.LNK_CFG (x : Nat) : Nat := ctlBase 4 + 0x100008 + x * 0x1000
/-- LNK_CTL (13): Reset, disable, enable. -/
def Reg.LNK_CTL (x : Nat) : Nat := ctlBase 4 + 0x100010 + x * 0x1000
/-- LNK_STATUS (13): State, width, speed. -/
def Reg.LNK_STATUS (x : Nat) : Nat := ctlBase 4 + 0x100018 + x * 0x1000
/-- LNK_PEER (13): Peer identity from training. -/
def Reg.LNK_PEER (x : Nat) : Nat := ctlBase 4 + 0x100020 + x * 0x1000
/-- LNK_DOWN_THRESH (13): Replay events allowed per window, in [15:0], 1 to 65,535; [63:16] reserved. -/
def Reg.LNK_DOWN_THRESH (x : Nat) : Nat := ctlBase 4 + 0x100028 + x * 0x1000
/-- LNK_TMO (13): Replay and receive timeouts. -/
def Reg.LNK_TMO (x : Nat) : Nat := ctlBase 4 + 0x100030 + x * 0x1000
/-- LNK_SEQ (13): Sequence state. -/
def Reg.LNK_SEQ (x : Nat) : Nat := ctlBase 4 + 0x100038 + x * 0x1000
/-- LNK_CR_SIZE (13): Class sizes in units, class c in [16c + 12:16c]. -/
def Reg.LNK_CR_SIZE (x : Nat) : Nat := ctlBase 4 + 0x100040 + x * 0x1000
/-- LNK_CR_AVAIL (13): Units the sender may use now, class c in [16c + 15:16c], saturating at 65,535. -/
def Reg.LNK_CR_AVAIL (x : Nat) : Nat := ctlBase 4 + 0x100048 + x * 0x1000
/-- LNK_EVT (13): Event flags. -/
def Reg.LNK_EVT (x : Nat) : Nat := ctlBase 4 + 0x100050 + x * 0x1000
/-- LNK_EVT_EN (13): Error-log enables, same layout as LNK_EVT bits [3:0]. -/
def Reg.LNK_EVT_EN (x : Nat) : Nat := ctlBase 4 + 0x100058 + x * 0x1000
/-- LNK_DOWN_CAUSE (13): Cause code of the last link down in [3:0]; [63:4] zero. -/
def Reg.LNK_DOWN_CAUSE (x : Nat) : Nat := ctlBase 4 + 0x100060 + x * 0x1000
/-- LNK_DOWN_TIME (13): Local cycle count at the last link down. -/
def Reg.LNK_DOWN_TIME (x : Nat) : Nat := ctlBase 4 + 0x100068 + x * 0x1000
/-- LNK_CNT_REPLAY (13): Events in the current window in [15:0]; total in [63:32], saturating. -/
def Reg.LNK_CNT_REPLAY (x : Nat) : Nat := ctlBase 4 + 0x100070 + x * 0x1000
/-- LNK_CNT_CRC (13): Flits that failed their CRC, 64 bits, saturating. -/
def Reg.LNK_CNT_CRC (x : Nat) : Nat := ctlBase 4 + 0x100078 + x * 0x1000
/-- LNK_CNT_DUP (13): Duplicate flits discarded, 64 bits, saturating. -/
def Reg.LNK_CNT_DUP (x : Nat) : Nat := ctlBase 4 + 0x100080 + x * 0x1000
/-- LNK_CNT_TX (13): DATA flits first transmitted, 64 bits, saturating. -/
def Reg.LNK_CNT_TX (x : Nat) : Nat := ctlBase 4 + 0x100088 + x * 0x1000
/-- LNK_CNT_RX (13): DATA flits accepted, 64 bits, saturating. -/
def Reg.LNK_CNT_RX (x : Nat) : Nat := ctlBase 4 + 0x100090 + x * 0x1000
/-- LNK_CNT_DOWN (13): Link downs, synthetic completions and transit drops. -/
def Reg.LNK_CNT_DOWN (x : Nat) : Nat := ctlBase 4 + 0x100098 + x * 0x1000
/-- LNK_LANE0 (13): Port lane 0 status. -/
def Reg.LNK_LANE0 (x : Nat) : Nat := ctlBase 4 + 0x1000A0 + x * 0x1000
/-- LNK_LANE1 (13): Port lane 1 status. -/
def Reg.LNK_LANE1 (x : Nat) : Nat := ctlBase 4 + 0x1000A8 + x * 0x1000
/-- RTE_GROUP (14): Group entry G, 0 to 511. -/
def Reg.RTE_GROUP (x : Nat) : Nat := ctlBase 4 + 0x200000 + x * 0x8
/-- RTE_MEMBER (14): Member entry M, 0 to 511. -/
def Reg.RTE_MEMBER (x : Nat) : Nat := ctlBase 4 + 0x201000 + x * 0x8
/-- RTE_SELF (14): This device's ID. -/
def Reg.RTE_SELF : Nat := ctlBase 4 + 0x202000
/-- RTE_CFG (14): Hop limit and rejoin. -/
def Reg.RTE_CFG : Nat := ctlBase 4 + 0x202008
/-- RTE_PORT_EN (14): Ports allowed for selection in [15:0]; [63:16] reserved. -/
def Reg.RTE_PORT_EN : Nat := ctlBase 4 + 0x202010
/-- RTE_EVT (14): Routing event flags. -/
def Reg.RTE_EVT : Nat := ctlBase 4 + 0x202018
/-- RTE_EVT_EN (14): Error-log enables, same layout as RTE_EVT bits [2:0]. -/
def Reg.RTE_EVT_EN : Nat := ctlBase 4 + 0x202020
/-- RTE_CNT_FWD (14): Transit packets forwarded, 64 bits, saturating. -/
def Reg.RTE_CNT_FWD : Nat := ctlBase 4 + 0x202028
/-- RTE_CNT_DROP (14): NOROUTE drops in [31:0], HOPS drops in [63:32], saturating. -/
def Reg.RTE_CNT_DROP : Nat := ctlBase 4 + 0x202030
/-- RTE_ADMIT (14): Bit i admits device ID 64w + i; w from 0 to 4,095. -/
def Reg.RTE_ADMIT (x : Nat) : Nat := ctlBase 4 + 0x204000 + x * 0x8
/-- FAB_TAG_CFG (14): Tags reserved for rank 2 in [13:0], 0 to 4,096; [63:14] reserved. -/
def Reg.FAB_TAG_CFG : Nat := ctlBase 4 + 0x20C000
/-- FAB_TAG_STATUS (14): Tag use. -/
def Reg.FAB_TAG_STATUS : Nat := ctlBase 4 + 0x20C008
/-- FAB_TMO (14): Response timeout and quarantine. -/
def Reg.FAB_TMO : Nat := ctlBase 4 + 0x20C010
/-- FAB_EVT (14): Transaction event flags. -/
def Reg.FAB_EVT : Nat := ctlBase 4 + 0x20C018
/-- FAB_EVT_EN (14): Error-log enables, same layout as FAB_EVT bits [4:0]. -/
def Reg.FAB_EVT_EN : Nat := ctlBase 4 + 0x20C020
/-- FAB_CNT_REQ (14): Requests issued, 64 bits, saturating. -/
def Reg.FAB_CNT_REQ : Nat := ctlBase 4 + 0x20C028
/-- FAB_CNT_IN (14): Requests received for this device, 64 bits, saturating. -/
def Reg.FAB_CNT_IN : Nat := ctlBase 4 + 0x20C030
/-- FAB_CNT_STALE (14): Responses dropped under R355, 64 bits, saturating. -/
def Reg.FAB_CNT_STALE : Nat := ctlBase 4 + 0x20C038
/-- FAB_CNT_TIMEOUT (14): Requests timed out under R357, 64 bits, saturating. -/
def Reg.FAB_CNT_TIMEOUT : Nat := ctlBase 4 + 0x20C040
/-- FAB_CNT_DENIED (14): Requests refused with DENIED under R342, 64 bits, saturating. -/
def Reg.FAB_CNT_DENIED : Nat := ctlBase 4 + 0x20C048
/-- FAB_CNT_DISCARD (14): Malformed packets and discarded doorbells. -/
def Reg.FAB_CNT_DISCARD : Nat := ctlBase 4 + 0x20C050
/-- FAB_LAST_STALE (14): Last response dropped under R355. -/
def Reg.FAB_LAST_STALE : Nat := ctlBase 4 + 0x20C058
/-- COL_SUBMIT (15): Submit a descriptor. -/
def Reg.COL_SUBMIT : Nat := ctlBase 4 + 0x300000
/-- COL_STATUS (15): Descriptors free, running and notices held. -/
def Reg.COL_STATUS : Nat := ctlBase 4 + 0x300008
/-- COL_CFG (15): Ring and permute timeouts. -/
def Reg.COL_CFG : Nat := ctlBase 4 + 0x300010
/-- COL_RX (15): Segment, slot and permute notices, under R372. -/
def Reg.COL_RX : Nat := ctlBase 4 + 0x300018
/-- COL_VOTE_CFG (15): Vote enable and timeout. -/
def Reg.COL_VOTE_CFG : Nat := ctlBase 4 + 0x300020
/-- COL_VOTE_TABLE (15): Local address of the vote table in [45:0], a multiple of 4. -/
def Reg.COL_VOTE_TABLE : Nat := ctlBase 4 + 0x300028
/-- COL_VOTE_RX (15): Votes and outcomes, under R372. -/
def Reg.COL_VOTE_RX : Nat := ctlBase 4 + 0x300030
/-- COL_VOTE_STATUS (15): Vote state. -/
def Reg.COL_VOTE_STATUS : Nat := ctlBase 4 + 0x300038
/-- COL_PERM_PENDING (15): Permute found in the journal. -/
def Reg.COL_PERM_PENDING : Nat := ctlBase 4 + 0x300040
/-- COL_LAST (15): Last collective that ended with a nonzero status. -/
def Reg.COL_LAST : Nat := ctlBase 4 + 0x300048
/-- COL_EVT (15): Event flags. -/
def Reg.COL_EVT : Nat := ctlBase 4 + 0x300050
/-- COL_EVT_EN (15): Error-log enables, same layout as COL_EVT bits [6:0]. -/
def Reg.COL_EVT_EN : Nat := ctlBase 4 + 0x300058
/-- COL_CNT_OPS (15): Collectives completed, 64 bits, saturating. -/
def Reg.COL_CNT_OPS : Nat := ctlBase 4 + 0x300060
/-- COL_CNT_BYTES (15): Bytes sent to other devices, 64 bits, saturating. -/
def Reg.COL_CNT_BYTES : Nat := ctlBase 4 + 0x300068
/-- COL_CNT_NONFINITE (15): Output elements NaN or ±∞, 64 bits, saturating. -/
def Reg.COL_CNT_NONFINITE : Nat := ctlBase 4 + 0x300070
/-- CMD_RING_CFG (16): Owner, job-control permission, enable. -/
def Reg.CMD_RING_CFG (x : Nat) : Nat := ctlBase 4 + 0x380000 + x * 0x100
/-- CMD_CQ_BASE (16): Global address of the completion queue, a multiple of 4 KiB. -/
def Reg.CMD_CQ_BASE (x : Nat) : Nat := ctlBase 4 + 0x380008 + x * 0x100
/-- CMD_CQ_CFG (16): LOG2 in [3:0], 4 to 12; [63:4] reserved. -/
def Reg.CMD_CQ_CFG (x : Nat) : Nat := ctlBase 4 + 0x380010 + x * 0x100
/-- CMD_DB_PI (16): Producer index in [31:0], under R390; [63:32] reserved. -/
def Reg.CMD_DB_PI (x : Nat) : Nat := ctlBase 4 + 0x380018 + x * 0x100
/-- CMD_DB_CQH (16): Consumed completion count in [31:0], under R398; [63:32] reserved. -/
def Reg.CMD_DB_CQH (x : Nat) : Nat := ctlBase 4 + 0x380020 + x * 0x100
/-- CMD_RING_STATUS (16): State and operations in flight. -/
def Reg.CMD_RING_STATUS (x : Nat) : Nat := ctlBase 4 + 0x380028 + x * 0x100
/-- CMD_RING_IDX (16): PI in [31:0], CI in [63:32]. -/
def Reg.CMD_RING_IDX (x : Nat) : Nat := ctlBase 4 + 0x380030 + x * 0x100
/-- CMD_CQ_PTR (16): Completions written in [31:0], head in [63:32]. -/
def Reg.CMD_CQ_PTR (x : Nat) : Nat := ctlBase 4 + 0x380038 + x * 0x100
/-- CMD_RING_CTL (16): Resume and stop. -/
def Reg.CMD_RING_CTL (x : Nat) : Nat := ctlBase 4 + 0x380040 + x * 0x100
/-- CMD_RING_EVT (16): Event flags. -/
def Reg.CMD_RING_EVT (x : Nat) : Nat := ctlBase 4 + 0x380048 + x * 0x100
/-- CMD_RING_EVT_EN (16): Error-log enables, same layout as CMD_RING_EVT bits [4:0]. -/
def Reg.CMD_RING_EVT_EN (x : Nat) : Nat := ctlBase 4 + 0x380050 + x * 0x100
/-- CMD_RING_CNT (16): Entries fetched in [31:0], stamp re-reads in [63:32], saturating. -/
def Reg.CMD_RING_CNT (x : Nat) : Nat := ctlBase 4 + 0x380058 + x * 0x100
/-- CMD_CFG (16): STAMP_TMO in ticks in [31:0], 100 or more; [63:32] reserved. -/
def Reg.CMD_CFG : Nat := ctlBase 4 + 0x381000
/-- CMD_STATUS (16): Operations in flight in [10:0]; busy DMA channels in [18:16]; others zero. -/
def Reg.CMD_STATUS : Nat := ctlBase 4 + 0x381008
/-- CMD_EVT_SUMMARY (16): Bit r set while CMD_RING_EVT of ring r is nonzero; [63:16] zero. -/
def Reg.CMD_EVT_SUMMARY : Nat := ctlBase 4 + 0x381010
/-- MBX_DATA (16): Message word i, i from 0 to 7. -/
def Reg.MBX_DATA (x y : Nat) : Nat := ctlBase 4 + 0x3C0000 + x * 0x100 + y * 0x8
/-- MBX_SEND (16): WORDS in [3:0], 1 to 8; GO in [63]. -/
def Reg.MBX_SEND (x : Nat) : Nat := ctlBase 4 + 0x3C0040 + x * 0x100
/-- MBX_ACK (16): RC in [15:0]; GO in [63]. -/
def Reg.MBX_ACK (x : Nat) : Nat := ctlBase 4 + 0x3C0048 + x * 0x100
/-- MBX_STATUS (16): State, words, return code, count. -/
def Reg.MBX_STATUS (x : Nat) : Nat := ctlBase 4 + 0x3C0050 + x * 0x100
/-- MBX_BIND (16): Binding of channel k. -/
def Reg.MBX_BIND (x : Nat) : Nat := ctlBase 4 + 0x3C4000 + x * 0x8
/-- MBX_NOTIFY (16): Global address for 0xE8 notices of channel k, a multiple of 8. -/
def Reg.MBX_NOTIFY (x : Nat) : Nat := ctlBase 4 + 0x3C4200 + x * 0x8
/-- MBX_LOCK (16): LOCKED in [0]; [63:1] reserved. -/
def Reg.MBX_LOCK : Nat := ctlBase 4 + 0x3C4400
/-- MBX_PEND (16): Bit k set while channel k is PENDING. -/
def Reg.MBX_PEND : Nat := ctlBase 4 + 0x3C4408
/-- MBX_EVT (16): Event flags. -/
def Reg.MBX_EVT : Nat := ctlBase 4 + 0x3C4410
/-- MBX_EVT_EN (16): Error-log enables, same layout as MBX_EVT bits [2:0]. -/
def Reg.MBX_EVT_EN : Nat := ctlBase 4 + 0x3C4418
/-- GOV_STATUS (17): Operating point, frequency, voltage, temperature. -/
def Reg.GOV_STATUS (n : Nat) : Nat := ctlBase n + 0x440000
/-- GOV_BUDGET (17): B_n in [15:0], CEIL_n in [31:16], G_n in [47:32]; 0.125 W units. -/
def Reg.GOV_BUDGET (n : Nat) : Nat := ctlBase n + 0x440008
/-- GOV_DEMAND (17): D_n in [15:0], estimate at the present point in [31:16], measured rail power in [47:32]; 0.125 W units. -/
def Reg.GOV_DEMAND (n : Nat) : Nat := ctlBase n + 0x440010
/-- GOV_CFG (17): Margin, temperature limit, highest point. -/
def Reg.GOV_CFG (n : Nat) : Nat := ctlBase n + 0x440018
/-- GOV_TARIFF (17): Last round: granted out in [15:0], granted in in [31:16], round number in [63:32]. -/
def Reg.GOV_TARIFF (n : Nat) : Nat := ctlBase n + 0x440020
/-- GOV_EVT (17): Event flags. -/
def Reg.GOV_EVT (n : Nat) : Nat := ctlBase n + 0x440028
/-- GOV_EVT_EN (17): Error-log enables, same layout as GOV_EVT bits [4:0]. -/
def Reg.GOV_EVT_EN (n : Nat) : Nat := ctlBase n + 0x440030
/-- GOV_CNT_BELOW (17): Ticks below point 24, 64 bits, saturating. -/
def Reg.GOV_CNT_BELOW (n : Nat) : Nat := ctlBase n + 0x440038
/-- GOV_CNT_THERMAL (17): Ticks limited by temperature, 64 bits, saturating. -/
def Reg.GOV_CNT_THERMAL (n : Nat) : Nat := ctlBase n + 0x440040
/-- GOV_ENERGY (17): Estimated die energy in mJ, 64 bits, saturating. -/
def Reg.GOV_ENERGY (n : Nat) : Nat := ctlBase n + 0x440048
/-- GOV_VF (17): Voltage of point i in mV in [15:0], i from 0 to 24. -/
def Reg.GOV_VF (n x : Nat) : Nat := ctlBase n + 0x440100 + x * 0x8
/-- PKM_BUDGET (17): Package budget in W in [11:0], 600 to 2,400; [63:12] reserved. -/
def Reg.PKM_BUDGET : Nat := ctlBase 4 + 0x440000
/-- PKM_GUEST (17): Guest share in W in [11:0], 0 to 400; [63:12] reserved. -/
def Reg.PKM_GUEST : Nat := ctlBase 4 + 0x440008
/-- PKM_CEIL (17): Ceiling of die n in W in [16n + 11:16n]. -/
def Reg.PKM_CEIL : Nat := ctlBase 4 + 0x440010
/-- PKM_WEIGHT (17): Weight of die n in [8n + 7:8n], 1 to 255; [63:32] reserved. -/
def Reg.PKM_WEIGHT : Nat := ctlBase 4 + 0x440018
/-- PKM_GRANT (17): G_n in [16n + 15:16n], 0.125 W units. -/
def Reg.PKM_GRANT : Nat := ctlBase 4 + 0x440020
/-- PKM_POOL (17): A in [15:0]; hub in [31:16]; stacks in [47:32]; optics in [63:48]; 0.125 W units. -/
def Reg.PKM_POOL : Nat := ctlBase 4 + 0x440028
/-- PKM_POWER (17): Package power of the last period in [15:0], largest since load in [31:16]; 0.125 W units. -/
def Reg.PKM_POWER : Nat := ctlBase 4 + 0x440030
/-- PKM_PERIODS (17): Periods since power-on reset, 64 bits. -/
def Reg.PKM_PERIODS : Nat := ctlBase 4 + 0x440038
/-- PKM_EVT (17): OVERBUDGET in [0]; GOVSILENT in [1]; [63:2] reserved. -/
def Reg.PKM_EVT : Nat := ctlBase 4 + 0x440040
/-- PKM_EVT_EN (17): Error-log enables, same layout as PKM_EVT bits [1:0]. -/
def Reg.PKM_EVT_EN : Nat := ctlBase 4 + 0x440048
/-- CLK_TIME (17): Local cycle count, 64 bits. -/
def Reg.CLK_TIME : Nat := ctlBase 4 + 0x480000
/-- CLK_STATUS (17): PLL locks and reference inputs. -/
def Reg.CLK_STATUS : Nat := ctlBase 4 + 0x480008
/-- CLK_ARITH (17): Arithmetic frequency of die n in MHz in [16n + 11:16n]. -/
def Reg.CLK_ARITH : Nat := ctlBase 4 + 0x480010
/-- CLK_PD_GC0 (17): Bit i set while general core i is powered, i from 0 to 63. -/
def Reg.CLK_PD_GC0 : Nat := ctlBase 4 + 0x480018
/-- CLK_PD_GC1 (17): Bit i set while general core 64 + i is powered. -/
def Reg.CLK_PD_GC1 : Nat := ctlBase 4 + 0x480020
/-- CLK_PD_ME (17): Bit e set while matrix engine e is powered. -/
def Reg.CLK_PD_ME : Nat := ctlBase 4 + 0x480028
/-- CLK_PD_UE (17): Bit v set while update engine v is powered, in [15:0]. -/
def Reg.CLK_PD_UE : Nat := ctlBase 4 + 0x480030
/-- RST_CFG (17): RETAIN in [0]; [63:1] reserved. -/
def Reg.RST_CFG : Nat := ctlBase 4 + 0x480038
/-- RST_STATUS (17): Last reset and boot progress. -/
def Reg.RST_STATUS : Nat := ctlBase 4 + 0x480040
/-- RST_TIME (17): Local cycle count when the last full reset began. -/
def Reg.RST_TIME : Nat := ctlBase 4 + 0x480048
/-- SEC_STATUS (18): Boot key, counter, slots, lock. -/
def Reg.SEC_STATUS : Nat := ctlBase 4 + 0x4C0000
/-- SEC_SERIAL0 (18): Serial bytes 0–7. -/
def Reg.SEC_SERIAL0 : Nat := ctlBase 4 + 0x4C0008
/-- SEC_SERIAL1 (18): Serial bytes 8–15. -/
def Reg.SEC_SERIAL1 : Nat := ctlBase 4 + 0x4C0010
/-- SEC_NONCE (18): Current nonce under R437. -/
def Reg.SEC_NONCE : Nat := ctlBase 4 + 0x4C0018
/-- SEC_BOOT (18): Boot result. -/
def Reg.SEC_BOOT : Nat := ctlBase 4 + 0x4C0020
/-- SEC_DBG_STATUS (18): Debug permissions. -/
def Reg.SEC_DBG_STATUS : Nat := ctlBase 4 + 0x4C0028
/-- SEC_LOCK (18): LOCKED in [0]; [63:1] reserved. -/
def Reg.SEC_LOCK : Nat := ctlBase 4 + 0x4C0030
/-- SEC_EVT (18): Event flags. -/
def Reg.SEC_EVT : Nat := ctlBase 4 + 0x4C0038
/-- SEC_EVT_EN (18): Error-log enables, same layout as SEC_EVT bits [3:0]. -/
def Reg.SEC_EVT_EN : Nat := ctlBase 4 + 0x4C0040
/-- SEC_MEAS (18): Bytes 8 × (i mod 4) to 8 × (i mod 4) + 7 of measurement i ÷ 4, i from 0 to 15. -/
def Reg.SEC_MEAS (x : Nat) : Nat := ctlBase 4 + 0x4C0100 + x * 0x8
/-- SEC_ROOT_KEY (18): ROOT digest bytes 8i to 8i + 7, i from 0 to 3. -/
def Reg.SEC_ROOT_KEY (x : Nat) : Nat := ctlBase 4 + 0x4C0180 + x * 0x8
/-- SEC_CTRL_ID (18): Controller j, 0 to 7: DEVICE in [17:0], VALID in [63]. -/
def Reg.SEC_CTRL_ID (x : Nat) : Nat := ctlBase 4 + 0x4C0200 + x * 0x40
/-- SEC_CTRL_KEY (18): Controller j's key digest bytes 8i to 8i + 7, i from 0 to 3. -/
def Reg.SEC_CTRL_KEY (x y : Nat) : Nat := ctlBase 4 + 0x4C0208 + x * 0x40 + y * 0x8
/-- SEC_OWNER_KEY (18): Slot k ÷ 4 + 1 digest bytes 8 × (k mod 4) onwards, k from 0 to 15. -/
def Reg.SEC_OWNER_KEY (x : Nat) : Nat := ctlBase 4 + 0x4C0400 + x * 0x8
/-- CGT_STATUS (18): State, link, outstanding requests. -/
def Reg.CGT_STATUS : Nat := ctlBase 4 + 0x500000
/-- CGT_CFG (18): Outstanding limit, job access, timeout. -/
def Reg.CGT_CFG : Nat := ctlBase 4 + 0x500008
/-- CGT_CTL (18): OPEN in [0]; [63:1] reserved. -/
def Reg.CGT_CTL : Nat := ctlBase 4 + 0x500010
/-- CGT_VIOL (18): Last violation. -/
def Reg.CGT_VIOL : Nat := ctlBase 4 + 0x500018
/-- CGT_VIOL_ADDR (18): Its ADDR in [45:0]. -/
def Reg.CGT_VIOL_ADDR : Nat := ctlBase 4 + 0x500020
/-- CGT_VIOL_TIME (18): Its local cycle count. -/
def Reg.CGT_VIOL_TIME : Nat := ctlBase 4 + 0x500028
/-- CGT_EVT (18): Event flags. -/
def Reg.CGT_EVT : Nat := ctlBase 4 + 0x500030
/-- CGT_EVT_EN (18): Error-log enables, same layout as CGT_EVT bits [3:0]. -/
def Reg.CGT_EVT_EN : Nat := ctlBase 4 + 0x500038
/-- CGT_CNT_REQ (18): Guest requests issued, 64 bits, saturating. -/
def Reg.CGT_CNT_REQ : Nat := ctlBase 4 + 0x500040
/-- CGT_CNT_DENY (18): Requests refused with GATEDENY, 64 bits, saturating. -/
def Reg.CGT_CNT_DENY : Nat := ctlBase 4 + 0x500048
/-- CGT_WIN_BASE (18): Window w, 0 to 15: base and classes. -/
def Reg.CGT_WIN_BASE (x : Nat) : Nat := ctlBase 4 + 0x500100 + x * 0x10
/-- CGT_WIN_LIMIT (18): Window w: last 4 KiB page. -/
def Reg.CGT_WIN_LIMIT (x : Nat) : Nat := ctlBase 4 + 0x500108 + x * 0x10
/-- DEM_CAUSE (19): Counter of cause c, 0 to 7, in [47:0]; [63:48] zero. -/
def Reg.DEM_CAUSE (n x y : Nat) : Nat := ctlBase n + 0x480000 + x * 0x80 + y * 0x8
/-- DEM_ELAPSED (19): Elapsed counter in [47:0]; [63:48] zero. -/
def Reg.DEM_ELAPSED (n x : Nat) : Nat := ctlBase n + 0x480040 + x * 0x80
/-- DEM_OVF (19): Bit c: cause c saturated; bit 8: elapsed saturated. -/
def Reg.DEM_OVF (n x : Nat) : Nat := ctlBase n + 0x480048 + x * 0x80
/-- DEM_CTL (19): CLEAR in [0]; [63:1] reserved. -/
def Reg.DEM_CTL (n x : Nat) : Nat := ctlBase n + 0x480050 + x * 0x80
/-- DEM_OVF_SUMMARY (19): Bit x set while DEM_OVF of context x is nonzero; [63:32] zero. -/
def Reg.DEM_OVF_SUMMARY (n : Nat) : Nat := ctlBase n + 0x481000
/-- DEM_EVT_EN (19): OVF in [0]: log saturations; [63:1] reserved. -/
def Reg.DEM_EVT_EN (n : Nat) : Nat := ctlBase n + 0x481008
/-- ERR_STATUS (19): Entries held, PROD − CONS, in [8:0]; OVERWRITTEN in [63:32], saturating. -/
def Reg.ERR_STATUS (n : Nat) : Nat := ctlBase n + (if n = 4 then 0x540000 else 0x4C0000)
/-- ERR_PROD (19): Entries written since power-on reset, 64 bits. -/
def Reg.ERR_PROD (n : Nat) : Nat := ctlBase n + (if n = 4 then 0x540008 else 0x4C0008)
/-- ERR_CONS (19): Entries consumed, 64 bits. -/
def Reg.ERR_CONS (n : Nat) : Nat := ctlBase n + (if n = 4 then 0x540010 else 0x4C0010)
/-- ERR_NOTIFY (19): Notification queue. -/
def Reg.ERR_NOTIFY (n : Nat) : Nat := ctlBase n + (if n = 4 then 0x540018 else 0x4C0018)
/-- ERR_EVT (19): Event flags. -/
def Reg.ERR_EVT (n : Nat) : Nat := ctlBase n + (if n = 4 then 0x540020 else 0x4C0020)
/-- ERR_FIRST (19): Word w, 0 to 3, of the first entry since ERR_FIRST_CLR. -/
def Reg.ERR_FIRST (n x : Nat) : Nat := ctlBase n + (if n = 4 then 0x540100 else 0x4C0100) + x * 0x8
/-- ERR_FIRST_INFO (19): VALID in [0]; [63:1] zero. -/
def Reg.ERR_FIRST_INFO (n : Nat) : Nat := ctlBase n + (if n = 4 then 0x540120 else 0x4C0120)
/-- ERR_FIRST_CLR (19): GO in [0]: clears VALID. -/
def Reg.ERR_FIRST_CLR (n : Nat) : Nat := ctlBase n + (if n = 4 then 0x540128 else 0x4C0128)
/-- ERR_ENTRY (19): Word w of entry slot i, i from 0 to 255. -/
def Reg.ERR_ENTRY (n x y : Nat) : Nat := ctlBase n + (if n = 4 then 0x541000 else 0x4C1000) + x * 0x20 + y * 0x8
/-- ID_PART (20): Part and stepping. -/
def Reg.ID_PART : Nat := ctlBase 4 + 0x0
/-- LNK_SUMMARY (13): Port states. -/
def Reg.LNK_SUMMARY : Nat := ctlBase 4 + 0x110000

/-- Register rows, part 0. -/
def regRows0 : List RegRow := [
  ⟨.ID_JOB_STATE, 0x300004000100, [], false, 0x0, .ro, 0x0, 0x0, []⟩,
  ⟨.ID_JOB_ID, 0x300004000108, [], false, 0x0, .ro, 0x0, 0x0, []⟩,
  ⟨.ID_MNF_DIGEST0, 0x300004000110, [], false, 0x0, .ro, 0x0, 0x0, []⟩,
  ⟨.ID_MNF_DIGEST1, 0x300004000118, [], false, 0x0, .ro, 0x0, 0x0, []⟩,
  ⟨.ID_MNF_DIGEST2, 0x300004000120, [], false, 0x0, .ro, 0x0, 0x0, []⟩,
  ⟨.ID_MNF_DIGEST3, 0x300004000128, [], false, 0x0, .ro, 0x0, 0x0, []⟩,
  ⟨.ID_PLC_DIGEST0, 0x300004000130, [], false, 0x0, .ro, 0x0, 0x0, []⟩,
  ⟨.ID_PLC_DIGEST1, 0x300004000138, [], false, 0x0, .ro, 0x0, 0x0, []⟩,
  ⟨.ID_PLC_DIGEST2, 0x300004000140, [], false, 0x0, .ro, 0x0, 0x0, []⟩,
  ⟨.ID_PLC_DIGEST3, 0x300004000148, [], false, 0x0, .ro, 0x0, 0x0, []⟩,
  ⟨.ID_LOADER_VER, 0x300004000150, [], false, 0x0, .ro, 0x0, 0x0, []⟩,
  ⟨.CAD_CTX_CFG, 0x300000380000, [(4, 0x1000000), (32, 0x100)], false, 0x0, .ro, 0x0, 0x0, []⟩,
  ⟨.CAD_CTL, 0x300000380008, [(4, 0x1000000), (32, 0x100)], false, 0x0, .jobRR, 0x1, 0x0, []⟩,
  ⟨.CAD_STATUS, 0x300000380010, [(4, 0x1000000), (32, 0x100)], false, 0x0, .ro, 0x0, 0x0, []⟩,
  ⟨.CAD_LAG, 0x300000380018, [(4, 0x1000000), (32, 0x100)], false, 0x0, .ro, 0x0, 0x0, []⟩,
  ⟨.CAD_LAG_MAX, 0x300000380020, [(4, 0x1000000), (32, 0x100)], false, 0x0, .jobRR, 0xFFFFFFFF, 0x0, []⟩,
  ⟨.CAD_LAG_BOUND, 0x300000380028, [(4, 0x1000000), (32, 0x100)], false, 0x0, .jobRR, 0xFFFFFFFF, 0x0, []⟩,
  ⟨.CAD_FBASE, 0x300000380030, [(4, 0x1000000), (32, 0x100)], false, 0x0, .ro, 0x0, 0x0, []⟩,
  ⟨.CAD_END, 0x300000380038, [(4, 0x1000000), (32, 0x100)], false, 0x0, .jobRR, 0xFFFFFFFFFFFFFFFF, 0x0, []⟩,
  ⟨.CAD_PERIODS, 0x300000380040, [(4, 0x1000000), (32, 0x100)], false, 0x0, .ro, 0x0, 0x0, []⟩,
  ⟨.CAD_SLOT_T0, 0x300000380048, [(4, 0x1000000), (32, 0x100)], false, 0x0, .ro, 0x0, 0x0, []⟩,
  ⟨.CAD_EVT, 0x300000380050, [(4, 0x1000000), (32, 0x100)], false, 0x0, .jobRR, 0x0, 0x7, []⟩,
  ⟨.CAD_EVT_EN, 0x300000380058, [(4, 0x1000000), (32, 0x100)], false, 0x3, .jobRR, 0x3, 0x0, []⟩,
  ⟨.CAD_DROPS, 0x300000380060, [(4, 0x1000000), (32, 0x100)], false, 0x0, .ro, 0x0, 0x0, []⟩,
  ⟨.CAD_RECOVERED, 0x300000380068, [(4, 0x1000000), (32, 0x100)], false, 0x0, .ro, 0x0, 0x0, []⟩,
  ⟨.CAD_PTR_QUEUE, 0x300000380070, [(4, 0x1000000), (32, 0x100)], false, 0x0, .ro, 0x0, 0x0, []⟩,
  ⟨.CAD_PTR_TABLE, 0x300000380078, [(4, 0x1000000), (32, 0x100)], false, 0x0, .ro, 0x0, 0x0, []⟩,
  ⟨.CAD_PTR_LEDGER, 0x300000380080, [(4, 0x1000000), (32, 0x100)], false, 0x0, .ro, 0x0, 0x0, []⟩,
  ⟨.CAD_SWITCHES, 0x300000380088, [(4, 0x1000000), (32, 0x100)], false, 0x0, .ro, 0x0, 0x0, []⟩,
  ⟨.CAD_DIE_CTX, 0x300000382000, [(4, 0x1000000)], false, 0x0, .ro, 0x0, 0x0, []⟩,
  ⟨.CAD_EVT_QUEUE, 0x300000382008, [(4, 0x1000000)], false, 0x0, .anyone, 0x8000000000001FFF, 0x0, [(12, 0, 0, 4351)]⟩,
  ⟨.CAD_EVT_SUMMARY, 0x300000382010, [(4, 0x1000000)], false, 0x0, .ro, 0x0, 0x0, []⟩,
  ⟨.CAD_SLOT, 0x300000390000, [(4, 0x1000000), (32, 0x800), (256, 0x8)], false, 0x0, .ro, 0x0, 0x0, []⟩,
  ⟨.MBQ_CFG, 0x3000003A0000, [(4, 0x1000000), (32, 0x100)], false, 0x0, .ro, 0x0, 0x0, []⟩,
  ⟨.MBQ_MAXLEN, 0x3000003A0008, [(4, 0x1000000), (32, 0x100)], false, 0x0, .ro, 0x0, 0x0, []⟩,
  ⟨.MBQ_POOL, 0x3000003A0010, [(4, 0x1000000), (32, 0x100)], false, 0x0, .ro, 0x0, 0x0, []⟩,
  ⟨.MBQ_POOL_PEAK, 0x3000003A0018, [(4, 0x1000000), (32, 0x100)], false, 0x0, .jobRR, 0xFFFFFFFF, 0x0, []⟩,
  ⟨.MBQ_CTX, 0x3000003A0020, [(4, 0x1000000), (32, 0x100)], false, 0x0, .ro, 0x0, 0x0, []⟩,
  ⟨.MBQ_GATE, 0x3000003A0028, [(4, 0x1000000), (32, 0x100)], false, 0x0, .jobRR, 0x8000000000003FFF, 0x0, []⟩,
  ⟨.MBQ_HEAD, 0x3000003A0030, [(4, 0x1000000), (32, 0x100)], false, 0x0, .ro, 0x0, 0x0, []⟩]

/-- Register rows, part 1. -/
def regRows1 : List RegRow := [
  ⟨.MBQ_STATUS, 0x3000003A0038, [(4, 0x1000000), (32, 0x100)], false, 0x0, .ro, 0x0, 0x0, []⟩,
  ⟨.MBQ_ADMITTED, 0x3000003A0040, [(4, 0x1000000), (32, 0x100)], false, 0x0, .ro, 0x0, 0x0, []⟩,
  ⟨.MBQ_PASSED, 0x3000003A0048, [(4, 0x1000000), (32, 0x100)], false, 0x0, .ro, 0x0, 0x0, []⟩,
  ⟨.MBQ_REFUSED, 0x3000003A0050, [(4, 0x1000000), (32, 0x100)], false, 0x0, .ro, 0x0, 0x0, []⟩,
  ⟨.MBQ_WAIT_POOL, 0x3000003A0058, [(4, 0x1000000), (32, 0x100)], false, 0x0, .ro, 0x0, 0x0, []⟩,
  ⟨.MBQ_WAIT_CTX, 0x3000003A0060, [(4, 0x1000000), (32, 0x100)], false, 0x0, .ro, 0x0, 0x0, []⟩,
  ⟨.MBQ_WAIT_GATE, 0x3000003A0068, [(4, 0x1000000), (32, 0x100)], false, 0x0, .ro, 0x0, 0x0, []⟩,
  ⟨.MBQ_CONVOYS, 0x3000003A0070, [(4, 0x1000000), (32, 0x100)], false, 0x0, .ro, 0x0, 0x0, []⟩,
  ⟨.MBQ_ABORT, 0x3000003A0078, [(4, 0x1000000), (32, 0x100)], false, 0x0, .jobRR, 0x0, 0x0, []⟩,
  ⟨.MBQ_EVT, 0x3000003A0080, [(4, 0x1000000), (32, 0x100)], false, 0x0, .jobRR, 0x0, 0x7F, []⟩,
  ⟨.MBQ_EVT_EN, 0x3000003A0088, [(4, 0x1000000), (32, 0x100)], false, 0x7F, .jobRR, 0x7F, 0x0, []⟩,
  ⟨.MBQ_CTX_SEL, 0x3000003A2000, [(4, 0x1000000)], false, 0x0, .jobRR, 0xFF1F, 0x0, []⟩,
  ⟨.MBQ_CTX_DATA0, 0x3000003A2008, [(4, 0x1000000)], false, 0x0, .ro, 0x0, 0x0, []⟩,
  ⟨.MBQ_CTX_DATA1, 0x3000003A2010, [(4, 0x1000000)], false, 0x0, .ro, 0x0, 0x0, []⟩,
  ⟨.MBQ_CTX_DATA2, 0x3000003A2018, [(4, 0x1000000)], false, 0x0, .ro, 0x0, 0x0, []⟩,
  ⟨.MBQ_CTX_DATA3, 0x3000003A2020, [(4, 0x1000000)], false, 0x0, .ro, 0x0, 0x0, []⟩,
  ⟨.MBQ_EVT_SUMMARY, 0x3000003A2028, [(4, 0x1000000)], false, 0x0, .ro, 0x0, 0x0, []⟩,
  ⟨.LED_CFG, 0x3000003B0000, [(4, 0x1000000)], false, 0x0, .ro, 0x0, 0x0, []⟩,
  ⟨.LED_STEP, 0x3000003B0008, [(4, 0x1000000)], false, 0x0, .ro, 0x0, 0x0, []⟩,
  ⟨.LED_OUTCOME, 0x3000003B0010, [(4, 0x1000000)], false, 0x0, .jobRR, 0x8000000000003FFF, 0x0, []⟩,
  ⟨.LED_PENDING, 0x3000003B0018, [(4, 0x1000000)], false, 0x0, .ro, 0x0, 0x0, []⟩,
  ⟨.LED_RESOLVE, 0x3000003B0020, [(4, 0x1000000)], false, 0x0, .jobRR, 0x0, 0x0, []⟩,
  ⟨.LED_SEL, 0x3000003B0028, [(4, 0x1000000)], false, 0x0, .jobRR, 0x1FFFFF, 0x0, []⟩,
  ⟨.LED_DATA0, 0x3000003B0030, [(4, 0x1000000)], false, 0x0, .ro, 0x0, 0x0, []⟩,
  ⟨.LED_DATA1, 0x3000003B0038, [(4, 0x1000000)], false, 0x0, .ro, 0x0, 0x0, []⟩,
  ⟨.LED_DATA2, 0x3000003B0040, [(4, 0x1000000)], false, 0x0, .ro, 0x0, 0x0, []⟩,
  ⟨.LED_DATA3, 0x3000003B0048, [(4, 0x1000000)], false, 0x0, .ro, 0x0, 0x0, []⟩,
  ⟨.LED_DATA4, 0x3000003B0050, [(4, 0x1000000)], false, 0x0, .ro, 0x0, 0x0, []⟩,
  ⟨.LED_DATA5, 0x3000003B0058, [(4, 0x1000000)], false, 0x0, .ro, 0x0, 0x0, []⟩,
  ⟨.LED_EVT, 0x3000003B0060, [(4, 0x1000000)], false, 0x0, .jobRR, 0x0, 0x3F, []⟩,
  ⟨.LED_EVT_EN, 0x3000003B0068, [(4, 0x1000000)], false, 0x3F, .jobRR, 0x3F, 0x0, []⟩,
  ⟨.LED_NONFINITE, 0x3000003B0070, [(4, 0x1000000)], false, 0x0, .ro, 0x0, 0x0, []⟩,
  ⟨.LED_FETCH, 0x3000003B0078, [(4, 0x1000000)], false, 0x0, .ro, 0x0, 0x0, []⟩,
  ⟨.LED_WAIT, 0x3000003B0080, [(4, 0x1000000)], false, 0x0, .ro, 0x0, 0x0, []⟩,
  ⟨.LED_UPDWAIT, 0x3000003B0088, [(4, 0x1000000)], false, 0x0, .ro, 0x0, 0x0, []⟩,
  ⟨.LED_CACHE, 0x3000003B1000, [(4, 0x1000000)], false, 0x0, .ro, 0x0, 0x0, []⟩,
  ⟨.MX_ID, 0x300000100000, [(4, 0x1000000), (16, 0x10000)], false, 0x0, .ro, 0x0, 0x0, []⟩,
  ⟨.MX_STATUS, 0x300000100008, [(4, 0x1000000), (16, 0x10000)], false, 0x0, .ro, 0x0, 0x0, []⟩,
  ⟨.MX_PROF_A, 0x300000100010, [(4, 0x1000000), (16, 0x10000)], false, 0x0, .ro, 0x0, 0x0, []⟩,
  ⟨.MX_PROF_B, 0x300000100018, [(4, 0x1000000), (16, 0x10000)], false, 0x0, .ro, 0x0, 0x0, []⟩]

/-- Register rows, part 2. -/
def regRows2 : List RegRow := [
  ⟨.MX_PROF_O, 0x300000100020, [(4, 0x1000000), (16, 0x10000)], false, 0x0, .ro, 0x0, 0x0, []⟩,
  ⟨.MX_FAULT, 0x300000100028, [(4, 0x1000000), (16, 0x10000)], false, 0x0, .ro, 0x0, 0x0, []⟩,
  ⟨.MX_FAULT_WORD, 0x300000100030, [(4, 0x1000000), (16, 0x10000)], false, 0x0, .ro, 0x0, 0x0, []⟩,
  ⟨.MX_FAULT_ADDR, 0x300000100038, [(4, 0x1000000), (16, 0x10000)], false, 0x0, .ro, 0x0, 0x0, []⟩,
  ⟨.MX_DRAIN_STAT, 0x300000100040, [(4, 0x1000000), (16, 0x10000)], false, 0x0, .ro, 0x0, 0x0, []⟩,
  ⟨.MX_NF_FIRST, 0x300000100048, [(4, 0x1000000), (16, 0x10000)], false, 0x0, .ro, 0x0, 0x0, []⟩,
  ⟨.MX_NF_TIME, 0x300000100050, [(4, 0x1000000), (16, 0x10000)], false, 0x0, .ro, 0x0, 0x0, []⟩,
  ⟨.MX_EVT, 0x300000100058, [(4, 0x1000000), (16, 0x10000)], false, 0x0, .jobRR, 0x0, 0xF, []⟩,
  ⟨.MX_EVT_EN, 0x300000100060, [(4, 0x1000000), (16, 0x10000)], false, 0xF, .jobRR, 0xF, 0x0, []⟩,
  ⟨.MX_IX_SEL, 0x300000100068, [(4, 0x1000000), (16, 0x10000)], false, 0x0, .jobRR, 0xF, 0x0, []⟩,
  ⟨.MX_IX_DATA, 0x300000100070, [(4, 0x1000000), (16, 0x10000)], false, 0x0, .ro, 0x0, 0x0, []⟩,
  ⟨.MX_CNT_ARRAY, 0x300000100080, [(4, 0x1000000), (16, 0x10000)], false, 0x0, .ro, 0x0, 0x0, []⟩,
  ⟨.MX_CNT_LOAD, 0x300000100088, [(4, 0x1000000), (16, 0x10000)], false, 0x0, .ro, 0x0, 0x0, []⟩,
  ⟨.MX_CNT_DRAIN, 0x300000100090, [(4, 0x1000000), (16, 0x10000)], false, 0x0, .ro, 0x0, 0x0, []⟩,
  ⟨.MX_CNT_MAC, 0x300000100098, [(4, 0x1000000), (16, 0x10000)], false, 0x0, .ro, 0x0, 0x0, []⟩,
  ⟨.MX_CNT_SKIP, 0x3000001000A0, [(4, 0x1000000), (16, 0x10000)], false, 0x0, .ro, 0x0, 0x0, []⟩,
  ⟨.MX_CNT_INSTR, 0x3000001000A8, [(4, 0x1000000), (16, 0x10000)], false, 0x0, .ro, 0x0, 0x0, []⟩,
  ⟨.DSP_SUBMIT, 0x300000400000, [(4, 0x1000000)], false, 0x0, .jobRR, 0x0, 0x0, []⟩,
  ⟨.DSP_STATUS, 0x300000400008, [(4, 0x1000000)], false, 0x40, .ro, 0x0, 0x0, []⟩,
  ⟨.DSP_LAST, 0x300000400010, [(4, 0x1000000)], false, 0x0, .ro, 0x0, 0x0, []⟩,
  ⟨.DSP_EVT, 0x300000400018, [(4, 0x1000000)], false, 0x0, .jobRR, 0x0, 0x3F, []⟩,
  ⟨.DSP_EVT_EN, 0x300000400020, [(4, 0x1000000)], false, 0x3F, .jobRR, 0x3F, 0x0, []⟩,
  ⟨.DSP_REQS, 0x300000400028, [(4, 0x1000000)], false, 0x0, .ro, 0x0, 0x0, []⟩,
  ⟨.DSP_CHOICES, 0x300000400030, [(4, 0x1000000)], false, 0x0, .ro, 0x0, 0x0, []⟩,
  ⟨.DSP_DROPS, 0x300000400038, [(4, 0x1000000)], false, 0x0, .ro, 0x0, 0x0, []⟩,
  ⟨.DSP_SPILLS, 0x300000400040, [(4, 0x1000000)], false, 0x0, .ro, 0x0, 0x0, []⟩,
  ⟨.DSP_CTX_TABLE, 0x300000400800, [(4, 0x1000000), (32, 0x8)], false, 0x0, .jobReady, 0x80003FFFFFFFFFC0, 0x0, []⟩,
  ⟨.DSP_IBX_CFG, 0x300000401000, [(4, 0x1000000), (64, 0x40)], false, 0x0, .jobReady, 0x8000000007FF1FFF, 0x0, [(12, 0, 1, 4096), (26, 16, 1, 1024)]⟩,
  ⟨.DSP_IBX_BUF, 0x300000401008, [(4, 0x1000000), (64, 0x40)], false, 0x0, .jobReady, 0x3FFFFFFFF800, 0x0, []⟩,
  ⟨.DSP_IBX_GEOM, 0x300000401010, [(4, 0x1000000), (64, 0x40)], false, 0x0, .jobReady, 0xFFFFFFFFFFFF, 0x0, [(15, 0, 1, 65535), (47, 16, 1, 4294967295)]⟩,
  ⟨.DSP_IBX_QUEUE, 0x300000401018, [(4, 0x1000000), (64, 0x40)], false, 0x0, .jobReady, 0x1FFF1FFF, 0x0, []⟩,
  ⟨.DSP_IBX_STATUS, 0x300000401020, [(4, 0x1000000), (64, 0x40)], false, 0x0, .ro, 0x0, 0x0, []⟩,
  ⟨.DSP_IBX_EMITTED, 0x300000401028, [(4, 0x1000000), (64, 0x40)], false, 0x0, .ro, 0x0, 0x0, []⟩,
  ⟨.DSP_IBX_OVERRUN, 0x300000401030, [(4, 0x1000000), (64, 0x40)], false, 0x0, .ro, 0x0, 0x0, []⟩,
  ⟨.UPD_ID, 0x3000003C0000, [(4, 0x1000000), (4, 0x1000)], false, 0x0, .ro, 0x0, 0x0, []⟩,
  ⟨.UPD_STATUS, 0x3000003C0008, [(4, 0x1000000), (4, 0x1000)], false, 0x0, .ro, 0x0, 0x0, []⟩,
  ⟨.UPD_CUR, 0x3000003C0010, [(4, 0x1000000), (4, 0x1000)], false, 0x0, .ro, 0x0, 0x0, []⟩,
  ⟨.UPD_PROGRESS, 0x3000003C0018, [(4, 0x1000000), (4, 0x1000)], false, 0x0, .ro, 0x0, 0x0, []⟩,
  ⟨.UPD_LAST, 0x3000003C0020, [(4, 0x1000000), (4, 0x1000)], false, 0x0, .ro, 0x0, 0x0, []⟩,
  ⟨.UPD_NF_FIRST, 0x3000003C0028, [(4, 0x1000000), (4, 0x1000)], false, 0x0, .ro, 0x0, 0x0, []⟩]

/-- Register rows, part 3. -/
def regRows3 : List RegRow := [
  ⟨.UPD_NF_TIME, 0x3000003C0030, [(4, 0x1000000), (4, 0x1000)], false, 0x0, .ro, 0x0, 0x0, []⟩,
  ⟨.UPD_EVT, 0x3000003C0038, [(4, 0x1000000), (4, 0x1000)], false, 0x0, .jobRR, 0x0, 0x7, []⟩,
  ⟨.UPD_EVT_EN, 0x3000003C0040, [(4, 0x1000000), (4, 0x1000)], false, 0x7, .jobRR, 0x7, 0x0, []⟩,
  ⟨.UPD_CNT_UPDATES, 0x3000003C0048, [(4, 0x1000000), (4, 0x1000)], false, 0x0, .ro, 0x0, 0x0, []⟩,
  ⟨.UPD_CNT_ELEMS, 0x3000003C0050, [(4, 0x1000000), (4, 0x1000)], false, 0x0, .ro, 0x0, 0x0, []⟩,
  ⟨.UPD_CNT_BUSY, 0x3000003C0058, [(4, 0x1000000), (4, 0x1000)], false, 0x0, .ro, 0x0, 0x0, []⟩,
  ⟨.UPD_CNT_MEMWAIT, 0x3000003C0060, [(4, 0x1000000), (4, 0x1000)], false, 0x0, .ro, 0x0, 0x0, []⟩,
  ⟨.UPD_TRIGGER, 0x3000003C8000, [(4, 0x1000000)], false, 0x0, .jobRR, 0x0, 0x0, []⟩,
  ⟨.UPD_TQ_STATUS, 0x3000003C8008, [(4, 0x1000000)], false, 0x400, .ro, 0x0, 0x0, []⟩,
  ⟨.UPD_DONE, 0x3000003C8010, [(4, 0x1000000)], false, 0x0, .jobRR, 0x8000000000003FFF, 0x0, []⟩,
  ⟨.UPD_DIE_EVT, 0x3000003C8018, [(4, 0x1000000)], false, 0x0, .jobRR, 0x0, 0xF, []⟩,
  ⟨.UPD_DIE_EVT_EN, 0x3000003C8020, [(4, 0x1000000)], false, 0xF, .jobRR, 0xF, 0x0, []⟩,
  ⟨.UPD_TRIGGERS, 0x3000003C8028, [(4, 0x1000000)], false, 0x0, .ro, 0x0, 0x0, []⟩,
  ⟨.UPD_IGNORED, 0x3000003C8030, [(4, 0x1000000)], false, 0x0, .ro, 0x0, 0x0, []⟩,
  ⟨.GC_ID, 0x300000200000, [(4, 0x1000000), (32, 0x1000)], false, 0x0, .ro, 0x0, 0x0, []⟩,
  ⟨.GC_STATUS, 0x300000200008, [(4, 0x1000000), (32, 0x1000)], false, 0x0, .ro, 0x0, 0x0, []⟩,
  ⟨.GC_PC, 0x300000200010, [(4, 0x1000000), (32, 0x1000)], false, 0x0, .ro, 0x0, 0x0, []⟩,
  ⟨.GC_FAULT, 0x300000200018, [(4, 0x1000000), (32, 0x1000)], false, 0x0, .ro, 0x0, 0x0, []⟩,
  ⟨.GC_FAULT_PC, 0x300000200020, [(4, 0x1000000), (32, 0x1000)], false, 0x0, .ro, 0x0, 0x0, []⟩,
  ⟨.GC_FAULT_VAL, 0x300000200028, [(4, 0x1000000), (32, 0x1000)], false, 0x0, .ro, 0x0, 0x0, []⟩,
  ⟨.GC_EVT, 0x300000200030, [(4, 0x1000000), (32, 0x1000)], false, 0x0, .jobRR, 0x0, 0x3, []⟩,
  ⟨.GC_EVT_EN, 0x300000200038, [(4, 0x1000000), (32, 0x1000)], false, 0x3, .jobRR, 0x3, 0x0, []⟩,
  ⟨.GC_CNT_BUSY, 0x300000200040, [(4, 0x1000000), (32, 0x1000)], false, 0x0, .ro, 0x0, 0x0, []⟩,
  ⟨.GC_CNT_INSTR, 0x300000200048, [(4, 0x1000000), (32, 0x1000)], false, 0x0, .ro, 0x0, 0x0, []⟩,
  ⟨.GC_CNT_WAIT, 0x300000200050, [(4, 0x1000000), (32, 0x1000)], false, 0x0, .ro, 0x0, 0x0, []⟩,
  ⟨.GC_CNT_VEC, 0x300000200058, [(4, 0x1000000), (32, 0x1000)], false, 0x0, .ro, 0x0, 0x0, []⟩,
  ⟨.GC_CNT_IMISS, 0x300000200060, [(4, 0x1000000), (32, 0x1000)], false, 0x0, .ro, 0x0, 0x0, []⟩,
  ⟨.GC_CNT_DMISS, 0x300000200068, [(4, 0x1000000), (32, 0x1000)], false, 0x0, .ro, 0x0, 0x0, []⟩,
  ⟨.QU_CFG, 0x300000300000, [(4, 0x1000000), (1024, 0x40)], false, 0x0, .ro, 0x0, 0x0, []⟩,
  ⟨.QU_CFG, 0x300004360000, [(256, 0x40)], true, 0x0, .ro, 0x0, 0x0, []⟩,
  ⟨.QU_RING, 0x300000300008, [(4, 0x1000000), (1024, 0x40)], false, 0x0, .ro, 0x0, 0x0, []⟩,
  ⟨.QU_RING, 0x300004360008, [(256, 0x40)], true, 0x0, .ro, 0x0, 0x0, []⟩,
  ⟨.QU_PROD, 0x300000300010, [(4, 0x1000000), (1024, 0x40)], false, 0x0, .ro, 0x0, 0x0, []⟩,
  ⟨.QU_PROD, 0x300004360010, [(256, 0x40)], true, 0x0, .ro, 0x0, 0x0, []⟩,
  ⟨.QU_CONS, 0x300000300018, [(4, 0x1000000), (1024, 0x40)], false, 0x0, .ro, 0x0, 0x0, []⟩,
  ⟨.QU_CONS, 0x300004360018, [(256, 0x40)], true, 0x0, .ro, 0x0, 0x0, []⟩,
  ⟨.QU_OCC, 0x300000300020, [(4, 0x1000000), (1024, 0x40)], false, 0x0, .ro, 0x0, 0x0, []⟩,
  ⟨.QU_OCC, 0x300004360020, [(256, 0x40)], true, 0x0, .ro, 0x0, 0x0, []⟩,
  ⟨.QU_HEAD, 0x300000300028, [(4, 0x1000000), (1024, 0x40)], false, 0x0, .ro, 0x0, 0x0, []⟩,
  ⟨.QU_HEAD, 0x300004360028, [(256, 0x40)], true, 0x0, .ro, 0x0, 0x0, []⟩]

/-- Register rows, part 4. -/
def regRows4 : List RegRow := [
  ⟨.QU_TALLY, 0x300000300030, [(4, 0x1000000), (1024, 0x40)], false, 0x0, .ro, 0x0, 0x0, []⟩,
  ⟨.QU_TALLY, 0x300004360030, [(256, 0x40)], true, 0x0, .ro, 0x0, 0x0, []⟩,
  ⟨.QU_CNT, 0x300000300038, [(4, 0x1000000), (1024, 0x40)], false, 0x0, .ro, 0x0, 0x0, []⟩,
  ⟨.QU_CNT, 0x300004360038, [(256, 0x40)], true, 0x0, .ro, 0x0, 0x0, []⟩,
  ⟨.QU_PEEK_SEL, 0x300000310000, [(4, 0x1000000)], false, 0x0, .jobRR, 0x1FFF, 0x0, []⟩,
  ⟨.QU_PEEK_INFO, 0x300000310008, [(4, 0x1000000)], false, 0x0, .ro, 0x0, 0x0, []⟩,
  ⟨.QU_EVT, 0x300000310010, [(4, 0x1000000)], false, 0x0, .jobRR, 0x0, 0xF, []⟩,
  ⟨.QU_EVT, 0x300004370010, [], true, 0x0, .jobRR, 0x0, 0xF, []⟩,
  ⟨.QU_EVT_EN, 0x300000310018, [(4, 0x1000000)], false, 0xF, .jobRR, 0xF, 0x0, []⟩,
  ⟨.QU_EVT_EN, 0x300004370018, [], true, 0xF, .jobRR, 0xF, 0x0, []⟩,
  ⟨.QU_PEEK_DATA, 0x300000310100, [(4, 0x1000000), (32, 0x8)], false, 0x0, .ro, 0x0, 0x0, []⟩,
  ⟨.SYN_MS, 0x300000340000, [(4, 0x1000000), (4096, 0x8)], false, 0x0, .ro, 0x0, 0x0, []⟩,
  ⟨.SYN_BAR_CFG, 0x300000350000, [(4, 0x1000000), (256, 0x10)], false, 0x0, .ro, 0x0, 0x0, []⟩,
  ⟨.SYN_BAR_STATE, 0x300000350008, [(4, 0x1000000), (256, 0x10)], false, 0x0, .ro, 0x0, 0x0, []⟩,
  ⟨.SYN_MADV, 0x300000360000, [(4, 0x1000000)], false, 0x0, .jobRR, 0x0, 0x0, []⟩,
  ⟨.SYN_EVT, 0x300000360008, [(4, 0x1000000)], false, 0x0, .jobRR, 0x0, 0x1, []⟩,
  ⟨.SYN_EVT_EN, 0x300000360010, [(4, 0x1000000)], false, 0x1, .jobRR, 0x1, 0x0, []⟩,
  ⟨.MEM_STK_ID, 0x300004400000, [(8, 0x1000)], false, 0x0, .ro, 0x0, 0x0, []⟩,
  ⟨.MEM_STK_STATUS, 0x300004400008, [(8, 0x1000)], false, 0x0, .ro, 0x0, 0x0, []⟩,
  ⟨.MEM_DIAG_SEL, 0x300004400010, [(8, 0x1000)], false, 0x0, .mgmt, 0x1, 0x0, []⟩,
  ⟨.MEM_PAR_CNT, 0x300004400018, [(8, 0x1000)], false, 0x0, .ro, 0x0, 0x0, []⟩,
  ⟨.MEM_PAR_LAST, 0x300004400020, [(8, 0x1000)], false, 0x0, .ro, 0x0, 0x0, []⟩,
  ⟨.MEM_PAR_THRESH, 0x300004400028, [(8, 0x1000)], false, 0x1E0100, .mgmt, 0x1FFFFF, 0x0, [(20, 16, 10, 31)]⟩,
  ⟨.MEM_EVT, 0x300004400030, [(8, 0x1000)], false, 0x0, .jobRR, 0x0, 0xF, []⟩,
  ⟨.MEM_EVT_EN, 0x300004400038, [(8, 0x1000)], false, 0xF, .jobRR, 0xF, 0x0, []⟩,
  ⟨.MEM_ARB_CFG, 0x300004400040, [(8, 0x1000)], false, 0x40, .mgmt, 0xFF, 0x0, [(7, 0, 16, 255)]⟩,
  ⟨.MEM_ARB_CUT, 0x300004400048, [(8, 0x1000)], false, 0x0, .ro, 0x0, 0x0, []⟩,
  ⟨.MEM_CNT_RD, 0x300004400050, [(8, 0x1000)], false, 0x0, .ro, 0x0, 0x0, []⟩,
  ⟨.MEM_CNT_WR, 0x300004400058, [(8, 0x1000)], false, 0x0, .ro, 0x0, 0x0, []⟩,
  ⟨.MEM_CNT_BUSY, 0x300004400060, [(8, 0x1000)], false, 0x0, .ro, 0x0, 0x0, []⟩,
  ⟨.MEM_CNT_POISON, 0x300004400068, [(8, 0x1000)], false, 0x0, .ro, 0x0, 0x0, []⟩,
  ⟨.MEM_OS_CFG, 0x300004408000, [(4, 0x100)], false, 0x20, .mgmt, 0x3F, 0x0, [(5, 0, 8, 63)]⟩,
  ⟨.MEM_OS_PAR, 0x300004408008, [(4, 0x100)], false, 0x0, .ro, 0x0, 0x0, []⟩,
  ⟨.MEM_OS_LAST, 0x300004408010, [(4, 0x100)], false, 0x0, .ro, 0x0, 0x0, []⟩,
  ⟨.MEM_OS_EVT, 0x300004408018, [(4, 0x100)], false, 0x0, .jobRR, 0x0, 0xF, []⟩,
  ⟨.MEM_OS_EVT_EN, 0x300004408020, [(4, 0x100)], false, 0xF, .jobRR, 0xF, 0x0, []⟩,
  ⟨.MEM_OS_CUT, 0x300004408028, [(4, 0x100)], false, 0x0, .ro, 0x0, 0x0, []⟩,
  ⟨.MEM_CFG, 0x300004409000, [], false, 0x2FC00000B08, .ro, 0x0, 0x0, []⟩,
  ⟨.MEM_EVT_SUMMARY, 0x300004409008, [], false, 0x0, .ro, 0x0, 0x0, []⟩,
  ⟨.OFL_CFG, 0x300004348000, [(128, 0x40)], false, 0x0, .ro, 0x0, 0x0, []⟩]

/-- Register rows, part 5. -/
def regRows5 : List RegRow := [
  ⟨.OFL_BASE, 0x300004348008, [(128, 0x40)], false, 0x0, .ro, 0x0, 0x0, []⟩,
  ⟨.OFL_FRAMES, 0x300004348010, [(128, 0x40)], false, 0x0, .ro, 0x0, 0x0, []⟩,
  ⟨.OFL_STATUS, 0x300004348018, [(128, 0x40)], false, 0x0, .ro, 0x0, 0x0, []⟩,
  ⟨.OFL_CNT_OUT, 0x300004348020, [(128, 0x40)], false, 0x0, .ro, 0x0, 0x0, []⟩,
  ⟨.OFL_CNT_IN, 0x300004348028, [(128, 0x40)], false, 0x0, .ro, 0x0, 0x0, []⟩,
  ⟨.OFL_CNT_SKIP, 0x300004348030, [(128, 0x40)], false, 0x0, .ro, 0x0, 0x0, []⟩,
  ⟨.OFL_QUEUE, 0x30000434A000, [], false, 0x40, .ro, 0x0, 0x0, []⟩,
  ⟨.OFL_EVT, 0x30000434A008, [], false, 0x0, .jobRR, 0x0, 0x7, []⟩,
  ⟨.OFL_EVT_EN, 0x30000434A010, [], false, 0x3, .jobRR, 0x7, 0x0, []⟩,
  ⟨.OFL_LAST, 0x30000434A018, [], false, 0x0, .ro, 0x0, 0x0, []⟩,
  ⟨.LNK_ID, 0x300004100000, [(16, 0x1000)], false, 0x0, .ro, 0x0, 0x0, []⟩,
  ⟨.LNK_CFG, 0x300004100008, [(16, 0x1000)], false, 0x3E80000000B, .mgmt, 0xFFFF0000000F, 0x0, []⟩,
  ⟨.LNK_CTL, 0x300004100010, [(16, 0x1000)], false, 0x0, .mgmt, 0x0, 0x0, []⟩,
  ⟨.LNK_STATUS, 0x300004100018, [(16, 0x1000)], false, 0x0, .ro, 0x0, 0x0, []⟩,
  ⟨.LNK_PEER, 0x300004100020, [(16, 0x1000)], false, 0x0, .ro, 0x0, 0x0, []⟩,
  ⟨.LNK_DOWN_THRESH, 0x300004100028, [(16, 0x1000)], false, 0x40, .mgmt, 0xFFFF, 0x0, [(15, 0, 1, 65535)]⟩,
  ⟨.LNK_TMO, 0x300004100030, [(16, 0x1000)], false, 0x271000000190, .mgmt, 0xFFFF0000FFFF, 0x0, [(15, 0, 10, 65535), (47, 32, 100, 65535)]⟩,
  ⟨.LNK_SEQ, 0x300004100038, [(16, 0x1000)], false, 0x0, .ro, 0x0, 0x0, []⟩,
  ⟨.LNK_CR_SIZE, 0x300004100040, [(16, 0x1000)], false, 0x400040004000400, .mgmt, 0x1FFF1FFF1FFF1FFF, 0x0, []⟩,
  ⟨.LNK_CR_AVAIL, 0x300004100048, [(16, 0x1000)], false, 0x0, .ro, 0x0, 0x0, []⟩,
  ⟨.LNK_EVT, 0x300004100050, [(16, 0x1000)], false, 0x0, .jobRR, 0x0, 0xF, []⟩,
  ⟨.LNK_EVT_EN, 0x300004100058, [(16, 0x1000)], false, 0xD, .jobRR, 0xF, 0x0, []⟩,
  ⟨.LNK_DOWN_CAUSE, 0x300004100060, [(16, 0x1000)], false, 0x0, .ro, 0x0, 0x0, []⟩,
  ⟨.LNK_DOWN_TIME, 0x300004100068, [(16, 0x1000)], false, 0x0, .ro, 0x0, 0x0, []⟩,
  ⟨.LNK_CNT_REPLAY, 0x300004100070, [(16, 0x1000)], false, 0x0, .ro, 0x0, 0x0, []⟩,
  ⟨.LNK_CNT_CRC, 0x300004100078, [(16, 0x1000)], false, 0x0, .ro, 0x0, 0x0, []⟩,
  ⟨.LNK_CNT_DUP, 0x300004100080, [(16, 0x1000)], false, 0x0, .ro, 0x0, 0x0, []⟩,
  ⟨.LNK_CNT_TX, 0x300004100088, [(16, 0x1000)], false, 0x0, .ro, 0x0, 0x0, []⟩,
  ⟨.LNK_CNT_RX, 0x300004100090, [(16, 0x1000)], false, 0x0, .ro, 0x0, 0x0, []⟩,
  ⟨.LNK_CNT_DOWN, 0x300004100098, [(16, 0x1000)], false, 0x0, .ro, 0x0, 0x0, []⟩,
  ⟨.LNK_LANE0, 0x3000041000A0, [(16, 0x1000)], false, 0x0, .ro, 0x0, 0x0, []⟩,
  ⟨.LNK_LANE1, 0x3000041000A8, [(16, 0x1000)], false, 0x0, .ro, 0x0, 0x0, []⟩,
  ⟨.RTE_GROUP, 0x300004200000, [(512, 0x8)], false, 0x0, .mgmt, 0x3FFFF, 0x0, []⟩,
  ⟨.RTE_MEMBER, 0x300004201000, [(512, 0x8)], false, 0x0, .mgmt, 0x3FFFF, 0x0, []⟩,
  ⟨.RTE_SELF, 0x300004202000, [], false, 0x0, .mgmt, 0x800000000003FFFF, 0x0, []⟩,
  ⟨.RTE_CFG, 0x300004202008, [], false, 0x108, .mgmt, 0x13F, 0x0, [(5, 0, 1, 63)]⟩,
  ⟨.RTE_PORT_EN, 0x300004202010, [], false, 0xFFFF, .mgmt, 0xFFFF, 0x0, []⟩,
  ⟨.RTE_EVT, 0x300004202018, [], false, 0x0, .jobRR, 0x0, 0x7, []⟩,
  ⟨.RTE_EVT_EN, 0x300004202020, [], false, 0x7, .jobRR, 0x7, 0x0, []⟩,
  ⟨.RTE_CNT_FWD, 0x300004202028, [], false, 0x0, .ro, 0x0, 0x0, []⟩]

/-- Register rows, part 6. -/
def regRows6 : List RegRow := [
  ⟨.RTE_CNT_DROP, 0x300004202030, [], false, 0x0, .ro, 0x0, 0x0, []⟩,
  ⟨.RTE_ADMIT, 0x300004204000, [(4096, 0x8)], false, 0x0, .mgmt, 0xFFFFFFFFFFFFFFFF, 0x0, []⟩,
  ⟨.FAB_TAG_CFG, 0x30000420C000, [], false, 0x100, .mgmt, 0x3FFF, 0x0, [(13, 0, 0, 4096)]⟩,
  ⟨.FAB_TAG_STATUS, 0x30000420C008, [], false, 0x0, .ro, 0x0, 0x0, []⟩,
  ⟨.FAB_TMO, 0x30000420C010, [], false, 0x186A0000186A0, .mgmt, 0xFFFFFFFFFFFFFFFF, 0x0, [(31, 0, 1000, 4294967295)]⟩,
  ⟨.FAB_EVT, 0x30000420C018, [], false, 0x0, .jobRR, 0x0, 0x1F, []⟩,
  ⟨.FAB_EVT_EN, 0x30000420C020, [], false, 0xF, .jobRR, 0x1F, 0x0, []⟩,
  ⟨.FAB_CNT_REQ, 0x30000420C028, [], false, 0x0, .ro, 0x0, 0x0, []⟩,
  ⟨.FAB_CNT_IN, 0x30000420C030, [], false, 0x0, .ro, 0x0, 0x0, []⟩,
  ⟨.FAB_CNT_STALE, 0x30000420C038, [], false, 0x0, .ro, 0x0, 0x0, []⟩,
  ⟨.FAB_CNT_TIMEOUT, 0x30000420C040, [], false, 0x0, .ro, 0x0, 0x0, []⟩,
  ⟨.FAB_CNT_DENIED, 0x30000420C048, [], false, 0x0, .ro, 0x0, 0x0, []⟩,
  ⟨.FAB_CNT_DISCARD, 0x30000420C050, [], false, 0x0, .ro, 0x0, 0x0, []⟩,
  ⟨.FAB_LAST_STALE, 0x30000420C058, [], false, 0x0, .ro, 0x0, 0x0, []⟩,
  ⟨.COL_SUBMIT, 0x300004300000, [], false, 0x0, .jobRR, 0x0, 0x0, []⟩,
  ⟨.COL_STATUS, 0x300004300008, [], false, 0x100, .ro, 0x0, 0x0, []⟩,
  ⟨.COL_CFG, 0x300004300010, [], false, 0xF4240000186A0, .jobRR, 0xFFFFFFFFFFFFFFFF, 0x0, [(31, 0, 1000, 4294967295), (63, 32, 1000, 4294967295)]⟩,
  ⟨.COL_RX, 0x300004300018, [], false, 0x0, .colRx, 0x0, 0x0, []⟩,
  ⟨.COL_VOTE_CFG, 0x300004300020, [], false, 0x186A000000000, .jobRR, 0xFFFFFFFF00000001, 0x0, [(63, 32, 1000, 4294967295)]⟩,
  ⟨.COL_VOTE_TABLE, 0x300004300028, [], false, 0x0, .jobRR, 0x3FFFFFFFFFFC, 0x0, []⟩,
  ⟨.COL_VOTE_RX, 0x300004300030, [], false, 0x0, .colRx, 0x0, 0x0, []⟩,
  ⟨.COL_VOTE_STATUS, 0x300004300038, [], false, 0x0, .ro, 0x0, 0x0, []⟩,
  ⟨.COL_PERM_PENDING, 0x300004300040, [], false, 0x0, .ro, 0x0, 0x0, []⟩,
  ⟨.COL_LAST, 0x300004300048, [], false, 0x0, .ro, 0x0, 0x0, []⟩,
  ⟨.COL_EVT, 0x300004300050, [], false, 0x0, .jobRR, 0x0, 0x7F, []⟩,
  ⟨.COL_EVT_EN, 0x300004300058, [], false, 0x7F, .jobRR, 0x7F, 0x0, []⟩,
  ⟨.COL_CNT_OPS, 0x300004300060, [], false, 0x0, .ro, 0x0, 0x0, []⟩,
  ⟨.COL_CNT_BYTES, 0x300004300068, [], false, 0x0, .ro, 0x0, 0x0, []⟩,
  ⟨.COL_CNT_NONFINITE, 0x300004300070, [], false, 0x0, .ro, 0x0, 0x0, []⟩,
  ⟨.CMD_RING_CFG, 0x300004380000, [(16, 0x100)], false, 0x0, .mgmt, 0x800000000007FFFF, 0x0, []⟩,
  ⟨.CMD_CQ_BASE, 0x300004380008, [(16, 0x100)], false, 0x0, .ring, 0xFFFFFFFFFFFFF000, 0x0, []⟩,
  ⟨.CMD_CQ_CFG, 0x300004380010, [(16, 0x100)], false, 0x0, .ring, 0xF, 0x0, [(3, 0, 4, 12)]⟩,
  ⟨.CMD_DB_PI, 0x300004380018, [(16, 0x100)], false, 0x0, .ring, 0x0, 0x0, []⟩,
  ⟨.CMD_DB_CQH, 0x300004380020, [(16, 0x100)], false, 0x0, .ring, 0x0, 0x0, []⟩,
  ⟨.CMD_RING_STATUS, 0x300004380028, [(16, 0x100)], false, 0x0, .ro, 0x0, 0x0, []⟩,
  ⟨.CMD_RING_IDX, 0x300004380030, [(16, 0x100)], false, 0x0, .ro, 0x0, 0x0, []⟩,
  ⟨.CMD_CQ_PTR, 0x300004380038, [(16, 0x100)], false, 0x0, .ro, 0x0, 0x0, []⟩,
  ⟨.CMD_RING_CTL, 0x300004380040, [(16, 0x100)], false, 0x0, .ring, 0x0, 0x0, []⟩,
  ⟨.CMD_RING_EVT, 0x300004380048, [(16, 0x100)], false, 0x0, .ring, 0x0, 0x1F, []⟩,
  ⟨.CMD_RING_EVT_EN, 0x300004380050, [(16, 0x100)], false, 0x1F, .ring, 0x1F, 0x0, []⟩]

/-- Register rows, part 7. -/
def regRows7 : List RegRow := [
  ⟨.CMD_RING_CNT, 0x300004380058, [(16, 0x100)], false, 0x0, .ro, 0x0, 0x0, []⟩,
  ⟨.CMD_CFG, 0x300004381000, [], false, 0x2710, .mgmt, 0xFFFFFFFF, 0x0, [(31, 0, 100, 4294967295)]⟩,
  ⟨.CMD_STATUS, 0x300004381008, [], false, 0x0, .ro, 0x0, 0x0, []⟩,
  ⟨.CMD_EVT_SUMMARY, 0x300004381010, [], false, 0x0, .ro, 0x0, 0x0, []⟩,
  ⟨.MBX_DATA, 0x3000043C0000, [(64, 0x100), (8, 0x8)], false, 0x0, .mailbox, 0xFFFFFFFFFFFFFFFF, 0x0, []⟩,
  ⟨.MBX_SEND, 0x3000043C0040, [(64, 0x100)], false, 0x0, .mailbox, 0x0, 0x0, []⟩,
  ⟨.MBX_ACK, 0x3000043C0048, [(64, 0x100)], false, 0x0, .mailbox, 0x0, 0x0, []⟩,
  ⟨.MBX_STATUS, 0x3000043C0050, [(64, 0x100)], false, 0x0, .ro, 0x0, 0x0, []⟩,
  ⟨.MBX_BIND, 0x3000043C4000, [(64, 0x8)], false, 0x0, .mgmt, 0x3FFFF01FFFF, 0x0, []⟩,
  ⟨.MBX_NOTIFY, 0x3000043C4200, [(64, 0x8)], false, 0x0, .mgmt, 0xFFFFFFFFFFFFFFF8, 0x0, []⟩,
  ⟨.MBX_LOCK, 0x3000043C4400, [], false, 0x0, .mgmt, 0x1, 0x0, []⟩,
  ⟨.MBX_PEND, 0x3000043C4408, [], false, 0x0, .ro, 0x0, 0x0, []⟩,
  ⟨.MBX_EVT, 0x3000043C4410, [], false, 0x0, .jobRR, 0x0, 0x7, []⟩,
  ⟨.MBX_EVT_EN, 0x3000043C4418, [], false, 0x7, .jobRR, 0x7, 0x0, []⟩,
  ⟨.GOV_STATUS, 0x300000440000, [(4, 0x1000000)], false, 0x0, .ro, 0x0, 0x0, []⟩,
  ⟨.GOV_BUDGET, 0x300000440008, [(4, 0x1000000)], false, 0x0, .ro, 0x0, 0x0, []⟩,
  ⟨.GOV_DEMAND, 0x300000440010, [(4, 0x1000000)], false, 0x0, .ro, 0x0, 0x0, []⟩,
  ⟨.GOV_CFG, 0x300000440018, [(4, 0x1000000)], false, 0x185F0050, .mgmt, 0x1FFFFFFF, 0x0, [(23, 16, 60, 105)]⟩,
  ⟨.GOV_TARIFF, 0x300000440020, [(4, 0x1000000)], false, 0x0, .ro, 0x0, 0x0, []⟩,
  ⟨.GOV_EVT, 0x300000440028, [(4, 0x1000000)], false, 0x0, .jobRR, 0x0, 0x1F, []⟩,
  ⟨.GOV_EVT_EN, 0x300000440030, [(4, 0x1000000)], false, 0x1F, .jobRR, 0x1F, 0x0, []⟩,
  ⟨.GOV_CNT_BELOW, 0x300000440038, [(4, 0x1000000)], false, 0x0, .ro, 0x0, 0x0, []⟩,
  ⟨.GOV_CNT_THERMAL, 0x300000440040, [(4, 0x1000000)], false, 0x0, .ro, 0x0, 0x0, []⟩,
  ⟨.GOV_ENERGY, 0x300000440048, [(4, 0x1000000)], false, 0x0, .ro, 0x0, 0x0, []⟩,
  ⟨.GOV_VF, 0x300000440100, [(4, 0x1000000), (25, 0x8)], false, 0x0, .ro, 0x0, 0x0, []⟩,
  ⟨.PKM_BUDGET, 0x300004440000, [], false, 0x960, .mgmt, 0xFFF, 0x0, [(11, 0, 600, 2400)]⟩,
  ⟨.PKM_GUEST, 0x300004440008, [], false, 0x0, .mgmt, 0xFFF, 0x0, [(11, 0, 0, 400)]⟩,
  ⟨.PKM_CEIL, 0x300004440010, [], false, 0x280028002800280, .mgmt, 0xFFF0FFF0FFF0FFF, 0x0, []⟩,
  ⟨.PKM_WEIGHT, 0x300004440018, [], false, 0x1010101, .mgmt, 0xFFFFFFFF, 0x0, [(7, 0, 1, 255), (15, 8, 1, 255), (23, 16, 1, 255), (31, 24, 1, 255)]⟩,
  ⟨.PKM_GRANT, 0x300004440020, [], false, 0x0, .ro, 0x0, 0x0, []⟩,
  ⟨.PKM_POOL, 0x300004440028, [], false, 0x0, .ro, 0x0, 0x0, []⟩,
  ⟨.PKM_POWER, 0x300004440030, [], false, 0x0, .ro, 0x0, 0x0, []⟩,
  ⟨.PKM_PERIODS, 0x300004440038, [], false, 0x0, .ro, 0x0, 0x0, []⟩,
  ⟨.PKM_EVT, 0x300004440040, [], false, 0x0, .jobRR, 0x0, 0x3, []⟩,
  ⟨.PKM_EVT_EN, 0x300004440048, [], false, 0x3, .jobRR, 0x3, 0x0, []⟩,
  ⟨.CLK_TIME, 0x300004480000, [], false, 0x0, .ro, 0x0, 0x0, []⟩,
  ⟨.CLK_STATUS, 0x300004480008, [], false, 0x0, .ro, 0x0, 0x0, []⟩,
  ⟨.CLK_ARITH, 0x300004480010, [], false, 0x0, .ro, 0x0, 0x0, []⟩,
  ⟨.CLK_PD_GC0, 0x300004480018, [], false, 0x0, .ro, 0x0, 0x0, []⟩,
  ⟨.CLK_PD_GC1, 0x300004480020, [], false, 0x0, .ro, 0x0, 0x0, []⟩]

/-- Register rows, part 8. -/
def regRows8 : List RegRow := [
  ⟨.CLK_PD_ME, 0x300004480028, [], false, 0x0, .ro, 0x0, 0x0, []⟩,
  ⟨.CLK_PD_UE, 0x300004480030, [], false, 0x0, .ro, 0x0, 0x0, []⟩,
  ⟨.RST_CFG, 0x300004480038, [], false, 0x0, .rstCfg, 0x1, 0x0, []⟩,
  ⟨.RST_STATUS, 0x300004480040, [], false, 0x101, .ro, 0x0, 0x0, []⟩,
  ⟨.RST_TIME, 0x300004480048, [], false, 0x0, .ro, 0x0, 0x0, []⟩,
  ⟨.SEC_STATUS, 0x3000044C0000, [], false, 0x0, .ro, 0x0, 0x0, []⟩,
  ⟨.SEC_SERIAL0, 0x3000044C0008, [], false, 0x0, .ro, 0x0, 0x0, []⟩,
  ⟨.SEC_SERIAL1, 0x3000044C0010, [], false, 0x0, .ro, 0x0, 0x0, []⟩,
  ⟨.SEC_NONCE, 0x3000044C0018, [], false, 0x0, .ro, 0x0, 0x0, []⟩,
  ⟨.SEC_BOOT, 0x3000044C0020, [], false, 0x0, .ro, 0x0, 0x0, []⟩,
  ⟨.SEC_DBG_STATUS, 0x3000044C0028, [], false, 0x0, .ro, 0x0, 0x0, []⟩,
  ⟨.SEC_LOCK, 0x3000044C0030, [], false, 0x0, .mgmt, 0x1, 0x0, []⟩,
  ⟨.SEC_EVT, 0x3000044C0038, [], false, 0x0, .jobRR, 0x0, 0xF, []⟩,
  ⟨.SEC_EVT_EN, 0x3000044C0040, [], false, 0xF, .jobRR, 0xF, 0x0, []⟩,
  ⟨.SEC_MEAS, 0x3000044C0100, [(16, 0x8)], false, 0x0, .ro, 0x0, 0x0, []⟩,
  ⟨.SEC_ROOT_KEY, 0x3000044C0180, [(4, 0x8)], false, 0x0, .ro, 0x0, 0x0, []⟩,
  ⟨.SEC_CTRL_ID, 0x3000044C0200, [(8, 0x40)], false, 0x0, .mgmt, 0x800000000003FFFF, 0x0, []⟩,
  ⟨.SEC_CTRL_KEY, 0x3000044C0208, [(8, 0x40), (4, 0x8)], false, 0x0, .mgmt, 0xFFFFFFFFFFFFFFFF, 0x0, []⟩,
  ⟨.SEC_OWNER_KEY, 0x3000044C0400, [(16, 0x8)], false, 0x0, .ro, 0x0, 0x0, []⟩,
  ⟨.CGT_STATUS, 0x300004500000, [], false, 0x4, .ro, 0x0, 0x0, []⟩,
  ⟨.CGT_CFG, 0x300004500008, [], false, 0x271000000040, .mgmt, 0xFFFFFFFF000101FF, 0x0, [(8, 0, 1, 256), (63, 32, 100, 4294967295)]⟩,
  ⟨.CGT_CTL, 0x300004500010, [], false, 0x0, .mgmt, 0x0, 0x0, []⟩,
  ⟨.CGT_VIOL, 0x300004500018, [], false, 0x0, .ro, 0x0, 0x0, []⟩,
  ⟨.CGT_VIOL_ADDR, 0x300004500020, [], false, 0x0, .ro, 0x0, 0x0, []⟩,
  ⟨.CGT_VIOL_TIME, 0x300004500028, [], false, 0x0, .ro, 0x0, 0x0, []⟩,
  ⟨.CGT_EVT, 0x300004500030, [], false, 0x0, .jobRR, 0x0, 0xF, []⟩,
  ⟨.CGT_EVT_EN, 0x300004500038, [], false, 0xF, .jobRR, 0xF, 0x0, []⟩,
  ⟨.CGT_CNT_REQ, 0x300004500040, [], false, 0x0, .ro, 0x0, 0x0, []⟩,
  ⟨.CGT_CNT_DENY, 0x300004500048, [], false, 0x0, .ro, 0x0, 0x0, []⟩,
  ⟨.CGT_WIN_BASE, 0x300004500100, [(16, 0x10)], false, 0x0, .mgmt, 0x3FFFFFFFF00F, 0x0, []⟩,
  ⟨.CGT_WIN_LIMIT, 0x300004500108, [(16, 0x10)], false, 0x0, .mgmt, 0x3FFFFFFFF000, 0x0, []⟩,
  ⟨.DEM_CAUSE, 0x300000480000, [(4, 0x1000000), (32, 0x80), (8, 0x8)], false, 0x0, .ro, 0x0, 0x0, []⟩,
  ⟨.DEM_ELAPSED, 0x300000480040, [(4, 0x1000000), (32, 0x80)], false, 0x0, .ro, 0x0, 0x0, []⟩,
  ⟨.DEM_OVF, 0x300000480048, [(4, 0x1000000), (32, 0x80)], false, 0x0, .jobRR, 0x0, 0x1FF, []⟩,
  ⟨.DEM_CTL, 0x300000480050, [(4, 0x1000000), (32, 0x80)], false, 0x0, .jobRR, 0x0, 0x0, []⟩,
  ⟨.DEM_OVF_SUMMARY, 0x300000481000, [(4, 0x1000000)], false, 0x0, .ro, 0x0, 0x0, []⟩,
  ⟨.DEM_EVT_EN, 0x300000481008, [(4, 0x1000000)], false, 0x1, .jobRR, 0x1, 0x0, []⟩,
  ⟨.ERR_STATUS, 0x3000004C0000, [(4, 0x1000000)], false, 0x0, .ro, 0x0, 0x0, []⟩,
  ⟨.ERR_STATUS, 0x300004540000, [], true, 0x0, .ro, 0x0, 0x0, []⟩,
  ⟨.ERR_PROD, 0x3000004C0008, [(4, 0x1000000)], false, 0x0, .ro, 0x0, 0x0, []⟩]

/-- Register rows, part 9. -/
def regRows9 : List RegRow := [
  ⟨.ERR_PROD, 0x300004540008, [], true, 0x0, .ro, 0x0, 0x0, []⟩,
  ⟨.ERR_CONS, 0x3000004C0010, [(4, 0x1000000)], false, 0x0, .jobRR, 0xFFFFFFFFFFFFFFFF, 0x0, []⟩,
  ⟨.ERR_CONS, 0x300004540010, [], true, 0x0, .jobRR, 0xFFFFFFFFFFFFFFFF, 0x0, []⟩,
  ⟨.ERR_NOTIFY, 0x3000004C0018, [(4, 0x1000000)], false, 0x0, .jobRR, 0x8000000000001FFF, 0x0, [(12, 0, 0, 4351)]⟩,
  ⟨.ERR_NOTIFY, 0x300004540018, [], true, 0x0, .jobRR, 0x8000000000001FFF, 0x0, [(12, 0, 0, 4351)]⟩,
  ⟨.ERR_EVT, 0x3000004C0020, [(4, 0x1000000)], false, 0x0, .jobRR, 0x0, 0x3, []⟩,
  ⟨.ERR_EVT, 0x300004540020, [], true, 0x0, .jobRR, 0x0, 0x3, []⟩,
  ⟨.ERR_FIRST, 0x3000004C0100, [(4, 0x1000000), (4, 0x8)], false, 0x0, .ro, 0x0, 0x0, []⟩,
  ⟨.ERR_FIRST, 0x300004540100, [(4, 0x8)], true, 0x0, .ro, 0x0, 0x0, []⟩,
  ⟨.ERR_FIRST_INFO, 0x3000004C0120, [(4, 0x1000000)], false, 0x0, .ro, 0x0, 0x0, []⟩,
  ⟨.ERR_FIRST_INFO, 0x300004540120, [], true, 0x0, .ro, 0x0, 0x0, []⟩,
  ⟨.ERR_FIRST_CLR, 0x3000004C0128, [(4, 0x1000000)], false, 0x0, .jobRR, 0x0, 0x0, []⟩,
  ⟨.ERR_FIRST_CLR, 0x300004540128, [], true, 0x0, .jobRR, 0x0, 0x0, []⟩,
  ⟨.ERR_ENTRY, 0x3000004C1000, [(4, 0x1000000), (256, 0x20), (4, 0x8)], false, 0x0, .ro, 0x0, 0x0, []⟩,
  ⟨.ERR_ENTRY, 0x300004541000, [(256, 0x20), (4, 0x8)], true, 0x0, .ro, 0x0, 0x0, []⟩,
  ⟨.ID_PART, 0x300004000000, [], false, 0xB09412, .ro, 0x0, 0x0, []⟩,
  ⟨.LNK_SUMMARY, 0x300004110000, [], false, 0x0, .ro, 0x0, 0x0, []⟩]

/-- Every row of the register index (R464). -/
def regRows : List RegRow :=
  regRows0 ++ regRows1 ++ regRows2 ++ regRows3 ++ regRows4 ++ regRows5 ++ regRows6 ++ regRows7 ++ regRows8 ++ regRows9

/-- Counters and registers that the device clears at the start of each load (R61, and the register rules of the
chapters: R143, R172, R225, R247, R266, R312, R337, R362, R383, R428, R448). -/
def loadCleared : List RegName := [
  .CAD_DROPS, .CAD_RECOVERED, .CAD_SWITCHES, .CAD_PERIODS, .MBQ_ADMITTED, .MBQ_PASSED, .MBQ_REFUSED,
  .MBQ_WAIT_POOL, .MBQ_WAIT_CTX, .MBQ_WAIT_GATE, .MBQ_CONVOYS, .LED_NONFINITE, .LED_FETCH, .LED_WAIT, .LED_UPDWAIT,
  .LED_CACHE, .MX_CNT_ARRAY, .MX_CNT_LOAD, .MX_CNT_DRAIN, .MX_CNT_MAC, .MX_CNT_SKIP, .MX_CNT_INSTR, .DSP_REQS, .DSP_CHOICES,
  .DSP_DROPS, .DSP_SPILLS, .DSP_IBX_EMITTED, .DSP_IBX_OVERRUN, .UPD_CNT_UPDATES, .UPD_CNT_ELEMS, .UPD_CNT_BUSY,
  .UPD_CNT_MEMWAIT, .UPD_TRIGGERS, .UPD_IGNORED, .GC_FAULT, .GC_FAULT_PC, .GC_FAULT_VAL, .GC_CNT_BUSY,
  .GC_CNT_INSTR, .GC_CNT_WAIT, .GC_CNT_VEC, .GC_CNT_IMISS, .GC_CNT_DMISS, .QU_CNT, .MEM_ARB_CUT, .MEM_CNT_RD,
  .MEM_CNT_WR, .MEM_CNT_BUSY, .MEM_CNT_POISON, .MEM_OS_CUT, .OFL_CNT_OUT, .OFL_CNT_IN, .OFL_CNT_SKIP, .LNK_CNT_TX,
  .LNK_CNT_RX, .RTE_CNT_FWD, .RTE_CNT_DROP, .FAB_CNT_REQ, .FAB_CNT_IN, .FAB_CNT_STALE, .FAB_CNT_TIMEOUT,
  .FAB_CNT_DENIED, .FAB_CNT_DISCARD, .FAB_LAST_STALE, .COL_LAST, .COL_CNT_OPS, .COL_CNT_BYTES, .COL_CNT_NONFINITE,
  .GOV_CNT_BELOW, .GOV_CNT_THERMAL, .GOV_ENERGY, .CGT_CNT_REQ, .CGT_CNT_DENY, .DEM_CAUSE, .DEM_ELAPSED, .DEM_OVF]

/-- Registers that a full reset keeps (R423). -/
def fullResetKept : List RegName := [
  .ERR_PROD, .ERR_CONS, .ERR_STATUS, .ERR_EVT, .ERR_FIRST, .ERR_FIRST_INFO, .ERR_ENTRY, .MEM_PAR_CNT,
  .MEM_PAR_LAST, .MEM_OS_PAR, .MEM_OS_LAST, .LNK_CNT_REPLAY, .LNK_CNT_CRC, .LNK_CNT_DUP, .LNK_CNT_DOWN,
  .LNK_DOWN_CAUSE, .LNK_DOWN_TIME, .RST_CFG, .PKM_BUDGET, .PKM_GUEST]

/-- The indices of byte offset `off` in a register array, with the byte inside the register; none when the offset
names no register of it. -/
def regIndex : List (Nat × Nat) → Nat → Option (List Nat × Nat)
  | [], off => if off < 8 then some ([], off) else none
  | (c, st) :: ds, off =>
    if off / st < c then (regIndex ds (off % st)).map fun r => (off / st :: r.1, r.2) else none

/-- A register that an address falls into: its row, its indices (die or 4 for the hub first, where the row has
both), and the byte offset inside the register. -/
structure RegHit where
  row : RegRow
  ix : List Nat
  byte : Nat
  deriving DecidableEq, Repr

/-- Find an address in a list of rows. -/
def regFindIn : List RegRow → Nat → Option RegHit
  | [], _ => none
  | r :: rs, a =>
    if a < r.base then regFindIn rs a else
    match regIndex r.dims (a - r.base) with
    | some (ix, b) => some ⟨r, if r.hubIx then 4 :: ix else ix, b⟩
    | none => regFindIn rs a

/-- The register that holds the byte at a local address of a control space (R464). -/
def regFind (a : Nat) : Option RegHit := regFindIn regRows a

/-- The fused voltage of operating point i in mV: 650 at point 0, and no more than 900 at point 24 (R411). DESIGN CHOICE (log entry
3): steps of 10 mV between them. -/
def fusedVolt (i : Nat) : Nat := 650 + 10 * i

/-- The value of a register right after reset. -/
def regReset (a : Nat) : Word :=
  match regFind a with
  | some h => BitVec.ofNat 64 (if h.row.name = .GOV_VF then fusedVolt (h.ix.getD 1 0) else h.row.reset)
  | none => 0

/-- The ranges of R485: every ranged field inside its range or at its reset value. DESIGN CHOICE (log entry 79): an alignment that
a register's description states (COL_VOTE_TABLE a multiple of 4, DSP_IBX_BUF 2 KiB aligned) is no range; no write is refused
for it. -/
def RegRow.inRange (r : RegRow) (v : Word) : Bool :=
  r.ranges.all fun x =>
    let f := bits v x.1 x.2.1
    decide (x.2.2.1 ≤ f) && decide (f ≤ x.2.2.2) || f == nbits r.reset x.1 x.2.1

end Sys2Proof.Machine
end

