-- ==== Sys2Proof/Machine/Tbl.lean ====
section
/-!
DEFINITION. Sparse tables in one canonical form: keys strictly rising, and no entry equal to what an unlisted key
reads as. Registers (keyed by local address), memory (Host.Cell pairs) and the tables of contexts, queues, tags and
engines are all such lists, so equal contents are equal data.
-/

namespace Sys2Proof.Machine

/-- A sparse table. -/
abbrev Tbl (α : Type) := List (Nat × α)

/-- The entry at a key, or what an unlisted key reads as. -/
def Tbl.get {α : Type} (t : Tbl α) (k : Nat) (d : α) : α :=
  match t with
  | [] => d
  | (k', v) :: t => if k' = k then v else if k < k' then d else Tbl.get t k d

/-- The table without the entry at a key. -/
def Tbl.del {α : Type} (t : Tbl α) (k : Nat) : Tbl α :=
  match t with
  | [] => []
  | (k', v) :: t => if k' = k then t else if k < k' then (k', v) :: t else (k', v) :: Tbl.del t k

/-- The table with an entry at a key, in key order. -/
def Tbl.ins {α : Type} (t : Tbl α) (k : Nat) (x : α) : Tbl α :=
  match t with
  | [] => [(k, x)]
  | (k', v) :: t =>
    if k' = k then (k, x) :: t else if k < k' then (k, x) :: (k', v) :: t else (k', v) :: Tbl.ins t k x

/-- Write a key: writing what an unlisted key reads as removes the entry. -/
def Tbl.set {α : Type} [DecidableEq α] (t : Tbl α) (k : Nat) (x d : α) : Tbl α :=
  if x = d then Tbl.del t k else Tbl.ins t k x

/-- The canonical form: keys at least `lo`, strictly rising, no entry equal to its default. -/
def Tbl.wfFrom {α : Type} [DecidableEq α] (d : Nat → α) : Nat → Tbl α → Bool
  | _, [] => true
  | lo, (k, v) :: t => decide (lo ≤ k) && decide (v ≠ d k) && Tbl.wfFrom d (k + 1) t

/-- The canonical form of a table. -/
def Tbl.wf {α : Type} [DecidableEq α] (d : Nat → α) (t : Tbl α) : Bool := Tbl.wfFrom d 0 t

/-- The table without the keys in [lo, lo + n). -/
def Tbl.clear {α : Type} (t : Tbl α) (lo n : Nat) : Tbl α := t.filter fun e => decide (e.1 < lo) || decide (lo + n ≤ e.1)

end Sys2Proof.Machine
end

