-- ==== Sys2Proof/Machine/State.lean ====
section
/-!
DEFINITION. The state of the block as plain data, and the state right after reset. Software-visible registers live in
`regs`, keyed by local address (R464); the structures below hold the state behind them. Fields that are the model's
own (no state of the spec) say so.
-/

namespace Sys2Proof.Machine

/-- Reasons the block stops. -/
inductive Fault where
  /-- Raised by every command once THERMTRIP_N is driven low: the spec defines no behaviour for a device that stays
  powered after a thermal trip (R421, R484). Safe: the model stops where the hardware may go on. -/
  | afterTrip
  deriving DecidableEq, Repr

/-- Reasons a command has no meaning. -/
inductive Refusal where
  /-- Raised by an arm of exec whose command has no meaning yet. Safe: the model stops. -/
  | notModelled (mnemonic : String)
  deriving DecidableEq, Repr

/-- One write of the command in progress (the model's own): a register, a run of memory bytes, a run of zeroed memory, or
registers put back to their reset values: those of the names listed, or, with `but`, all others. Reads see these writes;
`commit` applies them when the command ends. -/
inductive Upd where
  | reg (a : Nat) (v : Word)
  | bytes (a : Nat) (bs : List Byte)
  | zero (a n : Nat)
  | revert (but : Bool) (ns : List RegName)
  deriving DecidableEq, Repr

/-- An error-log entry waiting for the end of the local cycle of its event (R455). `log` is the compute die, or 4 for
the hub (R449). `at0` and `at1` are the registers whose values INFO0 and INFO1 take when the entry is written (R453), where they
are registers' values. `sent` says that a notifying send raised it, so that it is not copied to the queue (R456). -/
structure LogEnt where
  log : Nat
  time : Word
  cls : Nat
  status : Nat
  block : Nat
  event : Nat
  master : Nat
  unit : Nat
  info0 : Word
  info1 : Word
  at0 : Option Nat
  at1 : Option Nat
  sent : Bool
  deriving DecidableEq, Repr

/-- A replay-rate window of a stack (R306): its start in half memory-controller cycles, 25 to a tick (R406), the replays
in it, and whether REPLAYRATE was raised. -/
structure ReplayWin where
  start : Nat := 0
  count : Nat := 0
  raised : Bool := false
  deriving DecidableEq, Repr

/-- The unit on whose behalf a send or a fabric request was made. -/
inductive Owner where
  | none
  | core (c : Nat)
  | engine (e : Nat)
  | stage (n x : Nat)
  | dispatch (n : Nat)
  | inbox (n i : Nat)
  | copy (ch : Nat)
  | offload (job : Nat)
  | col (id : Nat)
  | vote
  | led (l : Nat)
  | cmd (ring : Nat)
  | mbx (ch : Nat)
  | fire (n x : Nat)
  | load
  | quote (ring : Nat)
  deriving DecidableEq, Repr

/-- A send that waits for room in a queue of this device, in arrival order (R272, R273). -/
structure SendWait where
  q : Nat
  owner : Owner
  bytes : List Byte
  since : Nat
  deriving DecidableEq, Repr

/-- The queue of another device that a QUEUES entry with REMOTE names (R274). -/
structure RemoteQ where
  dev : Nat := 0
  q : Nat := 0
  sendWait : Nat := 0
  deriving DecidableEq, Repr

/-- A small packet of a unit on its way to another device: a MESSAGE to a queue (`typ` 5, R274) or a WRITE of a hub register
or of a completion entry (`typ` 3). `refused` holds the tick of the first refusal, `due` the tick of the next attempt while
none is in flight, `down` says that LINKDOWN ended the last attempt (R332); `ref` is the owner's own reference; `queued` says that
an earlier message of the same sender to the same queue has not ended, so that this one has not left (R271). -/
structure RemoteSend where
  owner : Owner
  ref : Nat
  typ : Nat
  dev : Nat
  addr : Nat
  bytes : List Byte
  limit : Nat
  refused : Option Nat
  due : Option Nat
  down : Bool
  queued : Bool
  deriving DecidableEq, Repr

/-- A request of this device in the fabric (R339, R340). `kind` says whose it is: 0 the send `ref`, 1 the transfer `ref`,
2 the general core `ref`, 3 an access of a dispatch unit or an inbox to the guest; 4 is no unit's any more. -/
structure FabReq where
  kind : Nat
  ref : Nat
  owner : Owner
  typ : Nat
  tc : Nat
  master : Nat
  dst : Nat
  addr : Nat
  len : Nat
  op : Nat
  data : List Byte
  deriving DecidableEq, Repr

/-- A tag (R354): its generation, the request that holds it, the port it left by (16 while none), the tick it was allocated
at, and the tick its quarantine ends at (R356). -/
structure Tag where
  gen : Nat := 0
  req : Option FabReq := none
  port : Nat := 16
  since : Nat := 0
  quar : Option Nat := none
  deriving DecidableEq, Repr

/-- A request that has completed and whose unit has not yet gone on: status, REFUSED, data. -/
structure FabDone where
  req : FabReq
  status : Nat
  refused : Bool
  data : List Byte
  deriving DecidableEq, Repr

/-- A transfer of a bulk unit (DMA copy, offload, collective segment, permute, replica fetch): the moves that remain, as
source and destination global addresses and lengths; for a transfer of computed bytes, `bytes` is what remains of them and
the source address is not used. `hold` are bytes read and not yet written; `ended` the status it ended with. -/
structure Xfer where
  owner : Owner
  ref : Nat
  master : Nat
  moves : List (Nat × Nat × Nat)
  fromBytes : Bool
  bytes : List Byte
  hold : Option (List Byte)
  ended : Option Nat
  sent : Nat
  deriving DecidableEq, Repr

/-- A packet queued to a port: its bytes, its credit class, the tag of a request of this device, and whether it is in
transit. -/
structure OutPkt where
  bytes : List Byte
  cls : Nat
  tag : Option Nat
  transit : Bool
  deriving DecidableEq, Repr

/-- A flit of the replay buffer: PAYLOAD, FIRST, and the tick of its last transmission. -/
structure BufFlit where
  payload : List Byte
  first : Nat
  sentAt : Nat
  deriving DecidableEq, Repr

/-- A port (R313 to R335). `u`, `n` and `nextRx` are the sequence state; `replay` the next sequence number of the pass in
progress and `passAck` the ACKSEQ that started it; `nak` asks for NAK in the next flit and `nakDone` says that it was sent;
`used`, `limit` and `rxLimit` the credits; `tx` the packet bytes not yet in a flit and `starts` the packet starts in them;
`flying` the transit packets of the replay buffer with their last flits; `rx` the bytes of a packet partly received and
`inq` the packets received for the router; `lastGood` and `since` ticks of the last good flit and of the state's entry;
`trained` the good TRAIN flits in a row on each lane, `final` says that the final speed is in use; `downTx` that DOWN flits
are sent since tick `downAt` on the lanes of `downCfg`, `retrain` that LNK_CTL.RESET took the link down. `cfg` holds LANES and SPEED_MAX, and `sizes`
LNK_CR_SIZE, as the last training took them (R335); `mark` counts the flits since the last alignment marker (R314) and `slots`
those of the replay window (R327). -/
structure Port where
  u : Nat := 0
  n : Nat := 0
  nextRx : Nat := 0
  buf : List BufFlit := []
  replay : Option Nat := none
  passAck : Option Nat := none
  nak : Bool := false
  nakDone : Bool := false
  used : List Nat := [0, 0, 0, 0]
  limit : List Nat := [0, 0, 0, 0]
  peerSize : List Nat := [0, 0, 0, 0]
  rxLimit : List Nat := [0, 0, 0, 0]
  rot : Nat := 0
  queue : List OutPkt := []
  tx : List Byte := []
  starts : List Nat := []
  flying : List (Nat × List Byte) := []
  rx : List Byte := []
  inq : List (List Byte) := []
  lastGood : Nat := 0
  since : Nat := 0
  hi : Bool := false
  trained : List Nat := [0, 0]
  final : Bool := false
  downTx : Bool := false
  downAt : Nat := 0
  downCfg : Nat := 0
  retrain : Bool := false
  cfg : Nat := 0
  sizes : Word := 0
  mark : Nat := 0
  slots : Nat := 0
  deriving DecidableEq, Repr

/-- A collective descriptor that the engine holds (R365): its address and 128 bytes, whether it runs, the predecessor and
the successor in the ring as device and WORK address, and this rank's WORK or staging address. `got` counts the segments
consumed, `sentN` those sent, `freed` those the successor freed, `arrived` holds the notices of segments that wait as number
and slot; `busy` says that a segment or its notice is on its way; `waitAt` is the tick that the current wait began at, `t0`
that of the start. `phase` is the permute's phase, `senders` the ranks whose KIND 2 notice has come, `work` the transfer of a
segment or phase; `status` is there once the collective has ended and its completion remains. -/
structure Col where
  addr : Nat
  desc : List Byte
  running : Bool := false
  pred : Nat × Nat := (0, 0)
  succ : Nat × Nat := (0, 0)
  self : Nat := 0
  got : Nat := 0
  sentN : Nat := 0
  freed : Nat := 0
  arrived : List (Nat × Nat) := []
  busy : Bool := false
  waitAt : Nat := 0
  t0 : Nat := 0
  phase : Nat := 0
  senders : List Nat := []
  work : Option Nat := none
  status : Option Nat := none
  mixed : Bool := false
  deriving DecidableEq, Repr

/-- The finite vote (R375 to R377): whether EN was read, the device of the parent, the roles and devices of the children;
the up-votes received for the running step and early ones for the next; the tick of step 1 of R376; the outcome once it is
decided or received and not yet applied; the step that follows the last outcome; the steps whose vote has ended nonzero. -/
structure Vote where
  known : Bool := false
  parent : Nat := 0
  kids : List (Nat × Nat) := []
  t0 : Nat := 0
  ups : List (Nat × Bool) := []
  early : List (Nat × Bool) := []
  outcome : Option Bool := none
  next : Nat := 0
  failed : List Nat := []
  deriving DecidableEq, Repr

/-- An operation of a command ring (R387, R399): its index, entry and place in the order of acceptance; whether it has
started; the result once it has finished (status, reason, value); the completion's position once one is taken, whether a write
of it is in flight, and the tick of its next attempt (R399). The completion of a failed stamp check (R391) is kept in the same form,
with an empty entry. -/
structure CmdOp where
  seq : Nat
  index : Nat
  entry : List Byte
  started : Bool := false
  done : Option (Nat × Nat × Word) := none
  slot : Option Nat := none
  writing : Bool := false
  due : Option Nat := none
  waited : Bool := false
  deriving DecidableEq, Repr

/-- A load in progress (R44, R53): the operation of its LOAD and its arguments; the job state it began in; its phase (0 the
manifest is fetched, 1 the job is written and initial contents are fetched, 2 the report is written); its current transfer; the
fetches of initial contents as transfer, section, TENSORS index, and the ledger whose slot 0 they fill; the result as status,
reason, section, entry; the manifest digest once it is known, JOB_ID, the report's records and flags. -/
structure LoadJob where
  ring : Nat
  seq : Nat
  buf : Nat
  bufSize : Nat
  options : Nat
  expect : List Byte
  from_ : Nat
  phase : Nat := 0
  xfer : Nat := 0
  len : Nat := 0
  inits : List (Nat × Nat × Nat × Option Nat) := []
  result : Nat × Nat × Nat × Nat := (0, 0, 0, 0)
  digest : List Byte := []
  jobId : Nat := 0
  recs : List (List Byte) := []
  flags : Nat := 0
  deriving DecidableEq, Repr

/-- A bid of a tariff round (R414): offer and request. -/
structure Bid where
  die : Nat
  offer : Nat
  request : Nat
  deriving DecidableEq, Repr

/-- A die governor in a tariff round: the round's start, the offer and request of this die, the bids received in time, the sum
granted out and in, whether its grants of the round are computed, the point that the regulator moves to and since when, and the
ticks of each round in which matrix-engine issue is paused, and the tick that the arithmetic clock stands until (R412). -/
structure Gov where
  t0 : Nat := 0
  offer : Nat := 0
  request : Nat := 0
  bids : List Bid := []
  out_ : Nat := 0
  in_ : Nat := 0
  computed : Bool := false
  change : Option (Nat × Nat) := none
  pause : Nat := 0
  halt : Nat := 0
  deriving DecidableEq, Repr

/-- A request of the guest die that the gate holds back, or one of the package to the guest: the packet, the master, the
tick, and the request of a transfer that it carries. -/
structure GuestReq where
  packet : List Byte
  master : Nat
  since : Nat
  req : Option FabReq := none
  deriving DecidableEq, Repr

/-- A command ring (R386, R391): its operations in flight, in index order; while a stamp check fails, the tick of the first
read, of the next read, and the interval after that. -/
structure Ring where
  ops : List CmdOp := []
  stamp : Option (Nat × Nat × Nat) := none
  closing : Bool := false
  deriving DecidableEq, Repr

/-- What a waiting unit waits for; `attempt` is the answer to a QTRY to another device (R274). -/
inductive Wait where
  | none
  | send (q : Nat)
  | remote
  | attempt
  | recv
  | sel
  | ms (m target : Nat)
  | bar (b : Nat)
  | fabric
  deriving DecidableEq, Repr

/-- Phase of the slot of a stage: `idle` between slots; `await` before the slot's work can start (admission, head
descriptor, prefetch, update or request queue); `work` while the stage's units run; `send` while the descriptor waits
to be accepted; `pad` while only the budget is waited for; `backhaul` while the host is switched. -/
inductive Phase where
  | idle | await | work | send | pad | backhaul
  deriving DecidableEq, Repr

/-- A stage-controller context (R63 to R90). Registers CAD_ and MBQ_ hold the rest. `fwdDone` counts the positions whose
FWD slot has completed; `noCtx` says that the descriptor being sent found no context (R492). Queue fields: a package index, or
0x10000 + the QUEUES index of a remote queue, or 0xFFFF for none. -/
structure StageCtx where
  inFwd : Nat := 0xFFFF
  inBwd : Nat := 0xFFFF
  outFwd : Nat := 0xFFFF
  outBwd : Nat := 0xFFFF
  poolBase : Nat := 0
  shards : List Nat := []
  engines : List Nat := []
  cores : List Nat := []
  updaters : List Nat := []
  ofl : Option Nat := none
  running : Bool := false
  phase : Phase := .idle
  budget : Nat := 0
  mb : Option Nat := none
  sending : Bool := false
  sent : Bool := false
  ptrs : List Word := []
  inDesc : List Byte := []
  outDesc : List Byte := []
  lagRaised : Bool := false
  fwdDone : Nat := 0
  routed : Bool := false
  dspPend : Bool := false
  poolFlag : Bool := false
  ledFlag : Bool := false
  lateFlag : Bool := false
  backhaulIdle : Bool := false
  noCtx : Bool := false
  regPend : List (Nat × Word) := []
  demRem : List Nat := []
  deriving DecidableEq, Repr

/-- A micro-batch context (R98). `pos` is its position; `tag` the version tag its forward used; `refs` the ledgers and
slots it references; `pages` its reserved pool pages in mapping order; `frames` its offload frames; `xfer` says that a transfer
of it runs, and `xid` is that transfer. -/
structure MbCtx where
  state : Nat := 0
  pos : Int := 0
  desc : List Byte := []
  tag : Word := 0
  refs : List (Nat × Nat) := []
  pages : List Nat := []
  admitted : Nat := 0
  offloaded : Bool := false
  npages : Nat := 0
  frames : List Nat := []
  xfer : Bool := false
  abortReq : Bool := false
  prefWait : Bool := false
  xid : Nat := 0
  deriving DecidableEq, Repr

/-- A commit notice held by an owned ledger for a replica: the device, the slot it references, and the STEP it tells (R137). -/
structure NoticeRef where
  dev : Nat
  slot : Nat
  step : Nat
  deriving DecidableEq, Repr

/-- A replica fetch (R138): its slot, the owner's commit word, source and fingerprint, the mismatches so far, whether it
waits for a FREE slot, and its transfer. -/
structure Fetch where
  slot : Nat
  commit : Word
  src : Word
  fprint : Word
  tries : Nat
  waiting : Bool
  xfer : Nat
  deriving DecidableEq, Repr

/-- What a RULES entry binds an owned shard to (R229, R230): codes of the rule, the formats and the rounding; the
hyperparameter block and the gradient buffer as addresses and sizes; block-scale descriptors; element count and shape. -/
structure Binding where
  rule : Nat := 0
  moment : Nat := 0
  copy : Nat := 0
  rounding : Nat := 0
  hyper : Nat := 0
  hyperBytes : Nat := 0
  grad : Nat := 0
  gradFmt : Nat := 0
  gradBs : Nat := 0
  shardBs : Nat := 0
  count : Nat := 0
  rows : Nat := 0
  cols : Nat := 0
  deriving DecidableEq, Repr

/-- A ledger (R116 to R143). COMMIT and the slot records live in memory at `hdr`, written through; REFS lives in the
controllers' header cache, here. `ends` holds the steps that the shard has ended and the vote has not decided, with
whether each ended as finite (R132). `updDie` and `updCtx` name the update stage (R227). -/
structure Ledger where
  hdr : Nat := 0
  shard : Nat := 0
  depth : Nat := 0
  owner : Bool := false
  readOnly : Bool := false
  bytes : Nat := 0
  stride : Nat := 0
  ownerDev : Nat := 0
  refs : List Nat := []
  damaged : Option Nat := none
  notices : List NoticeRef := []
  fetch : Option Fetch := none
  registered : Bool := false
  regDue : Option Nat := none
  ends : List (Nat × Bool) := []
  waiting : Bool := false
  updDie : Nat := 0
  updCtx : Option Nat := none
  bind : Option Binding := none
  deriving DecidableEq, Repr

/-- A request of the offload engine's queue (R309, R310): the OFFLOAD entry, the stage, the position, and the direction
(true for a prefetch). -/
structure OflReq where
  entry : Nat
  n : Nat
  x : Nat
  pos : Int
  fetch : Bool
  deriving DecidableEq, Repr

/-- A tensor of the loaded job: its placed local address, its size, and its ledger (index in LEDGERS order). -/
structure Tensor where
  addr : Nat := 0
  bytes : Nat := 0
  ledger : Option Nat := none
  deriving DecidableEq, Repr

/-- A sequencer stream placed for an engine (R146): its entry points and its handles, as indices of `tensors`. The
numeric profile sets of the stage that it runs for (R201, R202) are three profile words each. -/
structure Stream where
  entryFwd : Nat := 0
  entryBwd : Nat := 0xFFFFFFFF
  handles : List Nat := []
  fwdProf : List Word := []
  bwdProf : List Word := []
  words : List Word := []
  deriving DecidableEq, Repr

/-- One half of an operand buffer (R145): its bytes, laid out as the array sees the tile last loaded (elements, then
scales from the next multiple of 64), and whether that load had T set (R209). -/
structure Half where
  bytes : List Byte := []
  t : Bool := false
  deriving DecidableEq, Repr

/-- A matrix engine (R145). Registers MX_ hold its profiles, state and PC. `ixTag` and `ixHandle` are the space tags
(R151) and the handle an LEA named; `acc` holds the accumulator words by unit × 4096 + word; `live` has a bit for each
unit written by an MMA and not drained since (R149), `sat` one for each unit whose tile saturated (R157); `amax` is the
tile (unit, rows and columns in one number) and profile O of the AMAX whose scales the store holds (R165); `cand` the
candidate store, in rank order, for the rows and k of `candKey` (R168). -/
structure Engine where
  ix : List Word := []
  ixTag : List Nat := []
  ixHandle : List Nat := []
  loops : List Nat := []
  primary : Stream := {}
  backhaul : Stream := {}
  bufA : List Half := []
  bufB : List Half := []
  side : List (List Byte) := []
  acc : Tbl Nat := []
  live : Nat := 0
  sat : Nat := 0
  scales : List Nat := []
  amax : Option (Nat × Word) := none
  cand : List (List (Nat × Nat)) := []
  candKey : Nat × Nat := (0, 0)
  wait : Wait := .none
  deriving DecidableEq, Repr

/-- An access to the guest window that a dispatch unit or an inbox makes under a core's ID (R220, R447): the ID; 1 a READ, 3 a
WRITE; its address, its length and the bytes of a WRITE. -/
structure GuestAsk where
  master : Nat
  typ : Nat
  addr : Nat
  len : Nat
  data : List Byte
  deriving DecidableEq, Repr

/-- The guest's answer to such an access. -/
structure GuestReply where
  ask : GuestAsk
  status : Nat
  data : List Byte
  deriving DecidableEq, Repr

/-- An item of a dispatch unit's list: a request (R214), or a routed pass-through with its descriptor (R219). `master` is
the unit's master ID for it (R220). -/
structure DspReq where
  addr : Nat := 0
  ctx : Nat := 0
  master : Nat := 0
  pass : Option (List Byte) := none
  deriving DecidableEq, Repr

/-- The item that a dispatch unit runs: its notices as device, queue and bytes, whether they were sent, the counts, and the
milestone counter of its DONE field. -/
structure DspRun where
  req : DspReq
  notices : List (Nat × Nat × List Byte)
  issued : Bool
  dropped : Nat
  spilled : Nat
  placed : Nat
  done : Nat
  deriving DecidableEq, Repr

/-- A dispatch unit (R215): the items it holds, in order, the first of them running when `run` is there; the notices of
the running item accepted so far; the guest's answers for the running item, and whether one is awaited (log entry 98). -/
structure Dsp where
  queue : List DspReq := []
  run : Option DspRun := none
  accepted : Nat := 0
  replies : List GuestReply := []
  asked : Bool := false
  deriving DecidableEq, Repr

/-- A position that an inbox gathers (R223): the source in hand with its token rows' address and the number of them under way,
the rows placed and left out so far, the first nonzero status of a write, source 0's TEMPLATE and whether a TEMPLATE read so far has
REFUSED set. -/
structure IbxWork where
  src : Nat := 0
  tokens : Nat := 0
  take : Nat := 0
  rows : Nat := 0
  left : Nat := 0
  fail : Nat := 0
  tmpl : List Byte := []
  refused : Bool := false
  deriving DecidableEq, Repr

/-- An inbox (R221 to R224): the master ID of its reads (R220), the next position to emit, the notices held as position
and source, the positions whose notices could not be written, the gathering in progress, whether the last position's reads
failed, whether a descriptor waits to be accepted, and the guest's answers as in a dispatch unit. -/
structure Inbox where
  master : Nat := 0
  next : Nat := 0
  held : List (Nat × Nat) := []
  bad : List Nat := []
  work : Option IbxWork := none
  failed : Bool := false
  sending : Bool := false
  replies : List GuestReply := []
  asked : Bool := false
  deriving DecidableEq, Repr

/-- A trigger of a die's queue (R233): ledger and step, and the status of the collective that sent it (R374). -/
structure Trig where
  led : Nat
  step : Nat
  status : Nat := 0
  deriving DecidableEq, Repr

/-- An update engine (R226): the running update, its slot once claimed, the header of the hyperparameter block and the
learning rate as read at its start (R231); the element passes completed (log entry 90); whether it has run an update since the
last tick. -/
structure UpdEngine where
  trig : Option Trig := none
  slot : Option Nat := none
  hyper : List Byte := []
  lr : Nat := 0
  passes : Nat := 0
  ran : Bool := false
  deriving DecidableEq, Repr

/-- What a handle of a general-core image resolves to (R259, R260): a tensor, a queue (package index or 0x10000 + QUEUES
index of a remote one), a milestone counter or a barrier. -/
inductive HandleRef where
  | tensor (t : Nat)
  | queue (q : Nat)
  | ms (m : Nat)
  | bar (b : Nat)
  deriving DecidableEq, Repr

/-- A general-core image placed for a core (R255, R256): text address in LPDDR and size, entry points, the scratch
address just past its stack, its handles. -/
structure Image where
  text : Nat := 0
  textBytes : Nat := 0
  entryFwd : Nat := 0
  entryBwd : Nat := 0xFFFFFFFF
  stackTop : Nat := 0
  handles : List HandleRef := []
  deriving DecidableEq, Repr

/-- A select set of a core (R278): the queues, the policy and the position last returned. -/
structure SelSet where
  queues : List Nat := []
  policy : Nat := 0
  last : Nat := 0
  deriving DecidableEq, Repr

/-- A general core (R249 to R266). Registers GC_ hold its state, PC and faults. `v` holds the vector registers as
512-bit numbers; `resv` the reservation of LR; `dcache` the lines its data cache may hold, by line address; `rd` the
register that a waiting extension instruction will write, `waitVal` the address it names, `replies` what other devices and the
guest answered, in order, to the accesses of the instruction at the PC (log entry 34); `icache` the lines its instruction cache
may hold. `cycle` is the count of general-core cycles at the last tick, and `sub` what it has been seen to gain since; `ran` and
`waited` say that the core has run job code, or waited in an extension instruction, since the last tick. -/
structure Core where
  x : List Word := []
  f : List Word := []
  v : List Nat := []
  fcsr : Nat := 0
  vtype : Word := 0
  vl : Nat := 0
  vstart : Nat := 0
  vcsr : Nat := 0
  cycle : Word := 0
  sub : Nat := 0
  ran : Bool := false
  waited : Bool := false
  instret : Word := 0
  primary : Image := {}
  backhaul : Image := {}
  sel : List SelSet := []
  resv : Option (Nat × Nat) := none
  dcache : Tbl (List Byte) := []
  icache : Tbl (List Byte) := []
  wait : Wait := .none
  replies : List (Nat × List Byte) := []
  rd : Nat := 0
  waitVal : Word := 0
  since : Option Nat := none
  deriving DecidableEq, Repr

/-- What the block answers and sends outside, oldest first. -/
inductive Out where
  /-- The completion of an access: its status code (R12) and the value read. -/
  | access (status : Nat) (value : Word)
  /-- The completion of an access of any length: its status and the bytes read. -/
  | data (status : Nat) (bytes : List Byte)
  /-- A flit of a port (R315). -/
  | flit (port lane : Nat) (bytes : List Byte)
  /-- An alignment marker of a lane (R314). -/
  | marker (port lane : Nat)
  /-- The mailbox interrupt of a management core, by its master ID, for a channel (R403). -/
  | mbxIrq (core channel : Nat)
  /-- A replica's registration at its owner (R136): the owner and the shard. -/
  | register (dev shard : Nat)
  /-- The owner's reply to a registration (R136): 0 accepted, 1 DENIED because no job is loaded, 2 refused; the header's
  global address, the commit word, the fingerprint. -/
  | regReply (dev result header : Nat) (commit fprint : Word)
  /-- A replica's release of a notice (R138): the owner and the shard. -/
  | release (dev shard : Nat)
  /-- A commit notice to a replica (R137). -/
  | notice (dev : Nat) (bytes : List Byte)
  /-- A tariff bid of a die to the other governors and the package manager (R414). -/
  | bid (die offer request demand : Nat)
  /-- A grant of a governor to another (R415). -/
  | grant (src dst amount : Nat)
  /-- A voltage that a governor commands, in mV (R412). -/
  | avs (die volt : Nat)
  /-- A packet to the guest die (R443): a package request, or the response to a guest request. -/
  | guest (bytes : List Byte)
  /-- What the sideband returns at a 7-bit address, or none for a NACK, with the packet error code of the SMBus (R478). -/
  | sideband (addr : Nat) (bytes : Option (List Byte)) (pec : Nat)
  /-- An in-band interrupt with its mandatory byte (R479). -/
  | interrupt (byte : Nat)
  /-- What a register of the TAP shifts out: the instruction register (8 bits) or a data register (R476). -/
  | tap (width value : Nat)
  /-- The boundary cells drive the lands (R476). -/
  | lands (cells : Nat)
  /-- The READY pin: released, or driven low (R473). -/
  | ready (released : Bool)
  deriving DecidableEq, Repr

/-- The state of the block. `pending` is the queue of commands (the model's own), `out` what the block has answered and sent,
`now` the local cycle count (R409), `turn` the command ring that was served last (R391), `freeIx` the model's own counter of
free values (log entry 5), `jnl` the model's own list of the writes of the command in progress (empty between commands).
`faults` holds the words of a block that fail at every read (R307), `glitch` and `flits` the single reads and the network flits
that fail (R301, R305), `refLost` the optical reference clocks that are lost (R407), `stuck` that no boot image verified (R432),
`svnTarget` the count that boot blows (R434), `pkmPast` the package's powers of the last 99 periods with the budgets then in
force (R470), `sbBudget` the value of the last BUDGET write on the SMBus and its tick (R478), `tokenIn` the part of a debug token that a channel has brought (R441), `baseRoutes`
the base set of routes (R352). `busLate` holds register writes for the next tick (log entry 76). `guestRun` holds the guest's answers to a dispatch unit or inbox
that runs, and `guestAsk` the access whose answer is missing (log entry 98). `cntAt` holds the bursts that each stack had moved at
the last tick, `loadAt` and `bootAt` are the ticks of the last load and of the last reset, after which MEM_STK_STATUS.TEMP is measured (log entry
62). -/
structure State where
  pending : List Instr := []
  out : List Out := []
  now : Nat := 0
  freeIx : Nat := 0
  refLost : Nat := 0
  jnl : List Upd := []
  errBuf : List LogEnt := []
  regs : Tbl Word := []
  mem : List Host.Cell := []
  par : Tbl Nat := []
  glitch : Tbl (List Nat) := []
  faults : Tbl Nat := []
  flits : List (Nat × Nat) := []
  stackWin : Tbl ReplayWin := []
  held : Bool := false
  tripped : Bool := false
  stages : Tbl StageCtx := []
  mbs : Tbl MbCtx := []
  ledgers : Tbl Ledger := []
  qConsumer : Tbl Nat := []
  remoteQs : Tbl RemoteQ := []
  msPlaced : Tbl Bool := []
  sendWaits : List SendWait := []
  remoteSends : Tbl RemoteSend := []
  tags : Tbl Tag := []
  tagWaits : List FabReq := []
  tagPrio : Tbl Nat := []
  masked : List Nat := []
  fabDone : List FabDone := []
  xfers : Tbl Xfer := []
  ports : Tbl Port := []
  depots : List Nat := []
  devRole : Nat := 0
  devCount : Nat := 0
  permJournal : Option (Nat × Nat) := none
  cols : List Col := []
  colEarly : List Word := []
  colTrigs : List (Nat × Trig) := []
  vote : Vote := {}
  rings : Tbl Ring := []
  copies : List (Nat × Nat) := []
  turn : Nat := 15
  channels : Tbl (Nat × Nat × Nat) := []
  barWaits : List (Nat × Owner) := []
  journal : Option Nat := none
  oflQueue : List OflReq := []
  tensors : Tbl Tensor := []
  engines : Tbl Engine := []
  cores : Tbl Core := []
  scratch : Tbl Byte := []
  nextId : Nat := 0
  dsps : Tbl Dsp := []
  trigQueues : Tbl (List Trig) := []
  updEngines : Tbl UpdEngine := []
  inboxes : Tbl Inbox := []
  loadJob : Option LoadJob := none
  unloads : List (Nat × Nat) := []
  baseRoutes : Tbl Word := []
  govs : Tbl Gov := []
  pkmBids : List Nat := []
  pkmPast : List (Nat × Nat) := []
  resetReq : Option (Nat × Nat × Nat) := none
  guestOut : List GuestReq := []
  guestWait : List GuestReq := []
  guestResp : List (List Byte) := []
  guestRun : Option (List GuestReply) := none
  guestAsk : Option GuestAsk := none
  cert : List Byte := []
  flashOwn : Bool := false
  resetLow : Bool := false
  stuck : Bool := false
  svnTarget : Nat := 0
  tokenIn : Tbl (List Byte) := []
  smbAlert : Bool := false
  dynAddr : Option Nat := none
  sbBudget : Option (Nat × Nat) := none
  straps : Nat := 0
  trip : Nat := 0
  tapReset : Bool := true
  tapIr : Nat := 0xFF
  tapData : Nat := 0
  lands : Option Nat := none
  busLate : List (Nat × Nat × List Byte) := []
  cntAt : Tbl Nat := []
  loadAt : Nat := 0
  bootAt : Nat := 0
  deriving DecidableEq, Repr

/-- The state right after reset. -/
def State.reset : State := {}

end Sys2Proof.Machine
end

