-- ==== Sys2Proof/Machine/Ops.lean ====
section
/-!
DEFINITION. The named operations that every command shares: status codes (R12, R13), the register store, the writes of
a command, what a command that may run does, event flags and the error log (R449 to R453), and free values.
-/

namespace Sys2Proof.Machine

/-! ### Status codes (R12) -/

def St.ok : Nat := 0x00
def St.linkdown : Nat := 0x01
def St.gatedeny : Nat := 0x02
def St.unmapped : Nat := 0x03
def St.misalign : Nat := 0x04
def St.poison : Nat := 0x05
def St.parity : Nat := 0x06
def St.stalegen : Nat := 0x07
def St.stamp : Nat := 0x08
def St.qfull : Nat := 0x09
def St.nofit : Nat := 0x0A
def St.toolong : Nat := 0x0B
def St.nonfinite : Nat := 0x0C
def St.fprint : Nat := 0x0D
def St.incomplete : Nat := 0x0E
def St.denied : Nat := 0x0F

/-- The code reported when both conditions apply: the nonzero one with the lowest value (R13). -/
def St.join (a b : Nat) : Nat := if a = 0 then b else if b = 0 then a else min a b

/-! ### Registers and writes -/

/-- A register is among those that a revert puts back to their reset values. -/
def reverts (but : Bool) (ns : List RegName) (a : Nat) : Bool :=
  match regFind a with
  | some h => ns.contains h.row.name != but
  | none => but

/-- The newest write of a register in the journal. -/
def jnlReg : List Upd → Nat → Option Word
  | [], _ => none
  | .reg a v :: us, k => if a = k then some v else jnlReg us k
  | .revert b ns :: us, k => if reverts b ns k then some (regReset k) else jnlReg us k
  | _ :: us, k => jnlReg us k

/-- The newest write of a memory byte in the journal. -/
def jnlByte : List Upd → Nat → Option Byte
  | [], _ => none
  | .bytes a bs :: us, k => if a ≤ k ∧ k < a + bs.length then bs[k - a]? else jnlByte us k
  | .zero a n :: us, k => if a ≤ k ∧ k < a + n then some 0 else jnlByte us k
  | _ :: us, k => jnlByte us k

/-- A stored register (the store behind R9's access codes). -/
def State.rd (s : State) (a : Nat) : Word :=
  match jnlReg s.jnl a with
  | some v => v
  | none => s.regs.get a (regReset a)

/-- Store a register. -/
def State.wr (s : State) (a : Nat) (v : Word) : State := { s with jnl := .reg a v :: s.jnl }

/-- A field of a stored register. -/
def State.rdB (s : State) (a hi lo : Nat) : Nat := bits (s.rd a) hi lo

/-- Store a field of a register. -/
def State.wrB (s : State) (a hi lo n : Nat) : State := s.wr a (putBits (s.rd a) hi lo n)

/-- Add to a register field that saturates. -/
def State.addB (s : State) (a hi lo n : Nat) : State :=
  s.wrB a hi lo (satAdd (2 ^ (hi + 1 - lo) - 1) (s.rdB a hi lo) n)

/-- One byte of memory, parity aside. What nothing has written reads as zero (log entry 2). -/
def State.byte (s : State) (a : Nat) : Byte :=
  match jnlByte s.jnl a with
  | some v => v
  | none => Tbl.get s.mem a 0

/-- `n` bytes of memory, parity aside. -/
def State.rawRead (s : State) (a n : Nat) : List Byte := (List.range n).map fun i => s.byte (a + i)

/-- A little-endian number in memory, parity aside. -/
def State.rawNat (s : State) (a n : Nat) : Nat := ofBytes (s.rawRead a n)

/-- Write bytes of memory, parity aside. -/
def State.rawWrite (s : State) (a : Nat) (bs : List Byte) : State := { s with jnl := .bytes a bs :: s.jnl }

/-- Zero a run of memory, parity aside. -/
def State.rawZero (s : State) (a n : Nat) : State := { s with jnl := .zero a n :: s.jnl }

/-- Put registers back to their reset values. -/
def State.revert (s : State) (but : Bool) (ns : List RegName) : State := { s with jnl := .revert but ns :: s.jnl }

/-- Memory after a run of byte writes: a byte that becomes zero is no longer listed. -/
def memWrite (m : List Host.Cell) (a : Nat) : List Byte → List Host.Cell
  | [] => m
  | b :: bs => memWrite (Tbl.set m a b 0) (a + 1) bs

/-- Memory after one write of the journal. -/
def memApply (m : List Host.Cell) : Upd → List Host.Cell
  | .reg _ _ => m
  | .bytes a bs => memWrite m a bs
  | .zero a n => Tbl.clear m a n
  | .revert _ _ => m

/-- The register store after one write of the journal. -/
def regsApply (r : Tbl Word) : Upd → Tbl Word
  | .reg a v => Tbl.set r a v (regReset a)
  | .revert b ns => r.filter fun e => !reverts b ns e.1
  | _ => r

/-- Memory after the writes of a journal (newest first). -/
def memCommit (m : List Host.Cell) : List Upd → List Host.Cell
  | [] => m
  | u :: us => memApply (memCommit m us) u

/-- The register store after the writes of a journal (newest first). -/
def regsCommit (r : Tbl Word) : List Upd → Tbl Word
  | [] => r
  | u :: us => regsApply (regsCommit r us) u

/-- A write of the journal reaches one of `n` bytes at `a`. -/
def Upd.reaches (a n : Nat) : Upd → Bool
  | .bytes b bs => decide (b < a + n) && decide (a < b + bs.length)
  | .zero b k => decide (b < a + n) && decide (a < b + k)
  | _ => false

/-- A core after writes to memory: a reservation that one of them reaches is lost (RISC-V's LR and SC, R253). -/
def Core.afterWrites (g : Core) (jnl : List Upd) : Core :=
  match g.resv with
  | some (a, n) => if jnl.any (Upd.reaches a n) then { g with resv := none } else g
  | none => g

/-- The state after a command whose effect on `s0` was `s`: memory and registers change by the command's writes and by
nothing else, the queue of commands is as it was, and reservations that a write reached are lost. -/
def State.commit (s0 s : State) : State :=
  { s with
    pending := s0.pending
    cores := s.cores.map fun e => (e.1, e.2.afterWrites s.jnl)
    mem := memCommit s0.mem s.jnl
    regs := regsCommit s0.regs s.jnl
    jnl := [] }

/-- Memory is canonical: addresses strictly rising, no listed byte zero. -/
def Memory.wf (m : List Host.Cell) : Bool := Tbl.wf (fun _ => (0 : Byte)) m

/-- The register store is canonical. -/
def Regs.wf (r : Tbl Word) : Bool := Tbl.wf regReset r

/-! ### Running a command -/

/-- A command's effect `f`, applied when the block can run: after a thermal trip every command faults (R421, R484),
and while POR_N or RESET_N holds the device in reset a command has no effect (R422, R424). -/
def live (s : State) (f : State → State) : Host.Outcome State Fault Refusal :=
  if s.tripped then .fault .afterTrip
  else if s.held then .next s
  else .next (s.commit (f { s with jnl := [] }))

/-- A pin acts whatever the state of the block. -/
def pinAct (s : State) (f : State → State) : Host.Outcome State Fault Refusal := .next (s.commit (f { s with jnl := [] }))

/-- The block runs: not tripped and not held in reset. -/
abbrev State.Live (s : State) : Prop := s.tripped = false ∧ s.held = false

/-- A free value: the next of the run (log entry 5). -/
def State.free (s : State) : Word × State := (Config.freeBits s.freeIx, { s with freeIx := s.freeIx + 1 })

/-- Append to what the block answers and sends. -/
def State.emit (s : State) (o : Out) : State := { s with out := s.out ++ [o] }

/-- Answer an access. -/
def State.answer (s : State) (status : Nat) (value : Word) : State := s.emit (.access status value)

/-! ### Error logs (R449 to R453) -/

def Blk.mx : Nat := 1
def Blk.gc : Nat := 2
def Blk.qu : Nat := 3
def Blk.syn : Nat := 4
def Blk.cad : Nat := 5
def Blk.mbq : Nat := 6
def Blk.led : Nat := 7
def Blk.upd : Nat := 8
def Blk.dsp : Nat := 9
def Blk.gov : Nat := 10
def Blk.dem : Nat := 11
def Blk.err : Nat := 12
def Blk.lnk : Nat := 13
def Blk.rte : Nat := 14
def Blk.fab : Nat := 15
def Blk.col : Nat := 16
def Blk.dma : Nat := 17
def Blk.ofl : Nat := 18
def Blk.cmd : Nat := 19
def Blk.mbx : Nat := 20
def Blk.mem : Nat := 21
def Blk.pkm : Nat := 22
def Blk.clk : Nat := 23
def Blk.rst : Nat := 24
def Blk.sec : Nat := 25
def Blk.cgt : Nat := 26
def Blk.id : Nat := 27

/-- The class of an event: the first row of R451 that fits its block, event bit and status. `os` tells an event of
MEM_OS_EVT from one of MEM_EVT. -/
def errClass (blk ev status : Nat) (os : Bool) : Nat :=
  if blk = Blk.mx ∧ ev = 2 ∨ blk = Blk.gc ∧ ev = 0 then 4
  else if status = St.parity ∨ status = St.poison ∨ status = St.fprint ∨ status = St.nonfinite
      ∨ blk = Blk.mem ∧ os ∧ ev = 3 ∨ blk = Blk.mx ∧ (ev = 1 ∨ ev = 3) ∨ blk = Blk.col ∧ ev = 2
      ∨ blk = Blk.qu ∧ ev = 2 then 3
  else if blk = Blk.lnk ∨ blk = Blk.fab ∨ blk = Blk.col ∧ (ev = 0 ∨ ev = 4 ∨ ev = 5) ∨ blk = Blk.rte ∧ ev = 2 then 5
  else if blk = Blk.sec ∨ blk = Blk.cgt ∨ blk = Blk.mbx ∧ ev = 0 then 6
  else if blk = Blk.rst ∨ blk = Blk.gov ∨ blk = Blk.pkm ∨ blk = Blk.dem
      ∨ blk = Blk.mem ∧ (if os then ev = 2 else ev = 0 ∨ ev = 3) then 7
  else if status ≠ 0 then 2
  else 1

/-- What an event tells the error log beside its block and bit; `at0` and `at1` name registers that INFO0 and INFO1 are read from
when the entry is written (R453). -/
structure EvInfo where
  status : Nat := 0
  master : Nat := 0xFF
  unit : Nat := 0xFF
  info0 : Word := 0
  info1 : Word := 0
  at0 : Option Nat := none
  at1 : Option Nat := none
  os : Bool := false
  sent : Bool := false
  deriving DecidableEq, Repr

/-- Put an entry into the log of die n, or of the hub for 4, at the end of this local cycle (R455). -/
def State.logEnt (s : State) (lg blk ev : Nat) (e : EvInfo) : State :=
  { s with errBuf := s.errBuf ++
      [⟨lg, w s.now, errClass blk ev e.status e.os, e.status, blk, ev, e.master, e.unit, e.info0, e.info1, e.at0, e.at1, e.sent⟩] }

/-- An event: its flag is set, and an entry is written when its enable bit is set (R449). -/
def State.raise (s : State) (lg blk evt en ev : Nat) (e : EvInfo) : State :=
  let s := s.wr evt (setBit (s.rd evt) ev)
  if bit (s.rd en) ev then s.logEnt lg blk ev e else s

/-! ### The job -/

/-- The job states (R54): codes of ID_JOB_STATE.STATE. -/
def State.jobState (s : State) : Nat := s.rdB Reg.ID_JOB_STATE 2 0

/-- The job is READY or RUNNING. -/
def State.jobOn (s : State) : Bool := s.jobState == 2 || s.jobState == 3

/-- Master IDs of the management cores (R22). -/
def isMgmt (m : Nat) : Bool := decide (0xE0 ≤ m) && decide (m ≤ 0xE3)

end Sys2Proof.Machine
end

