-- ==== Sys2Proof/Machine/Mem.lean ====
section
/-!
DEFINITION. Memory: the local address map (R23), the interleave and the diagnostic windows (R291, R292), reads and
writes with parity, replay and poison (R300 to R306), and zeroisation.
-/

namespace Sys2Proof.Machine

/-- Bytes of LPDDR: 768 GiB (R23). -/
def lpddrBytes : Nat := 0xC000000000

/-- Bytes of one die's operand store: 192 MiB (R23). -/
def sramBytes : Nat := 0xC000000

/-- Local address of the operand store of a die (R23). -/
def sramBase (n : Nat) : Nat := 0x200000000000 + n * 0x40000000

/-- First byte of the firmware region: the last 4 GiB of LPDDR, from MEM_CFG's first GiB 764 (R50, R312). -/
def fwBase : Nat := 0x2FC * 0x40000000

/-- Where a local address lies (R23). `ctl` carries the control space (4 for the hub) and the offset, `diag` the stack
and the offset in its window, `cmdMem` an address of hub command memory (R384). -/
inductive Place where
  | lpddr (a : Nat)
  | diag (s off : Nat)
  | sram (n off : Nat)
  | ctl (n off : Nat)
  | cmdMem (off : Nat)
  | guest (a : Nat)
  | none
  deriving DecidableEq, Repr

/-- The local address map (R23). -/
def placeOf (a : Nat) : Place :=
  if a < lpddrBytes then .lpddr a
  else if 0x100000000000 ≤ a ∧ a < 0x108000000000 then .diag ((a - 0x100000000000) / 0x1000000000) (a % 0x1000000000)
  else if 0x200000000000 ≤ a ∧ a < 0x200100000000 then
    let o := a - 0x200000000000
    if o % 0x40000000 < sramBytes then .sram (o / 0x40000000) (o % 0x40000000) else .none
  else if 0x300000000000 ≤ a ∧ a < 0x300005000000 then
    let o := a - 0x300000000000
    if o / 0x1000000 = 4 ∧ 0x390000 ≤ o % 0x1000000 ∧ o % 0x1000000 < 0x3B0000 then .cmdMem (o % 0x1000000 - 0x390000)
    else .ctl (o / 0x1000000) (o % 0x1000000)
  else if 0x3F0000000000 ≤ a ∧ a < 0x400000000000 then .guest a
  else .none

/-- The stack of an interleaved address (R291). -/
def ilvStack (a : Nat) : Nat :=
  let g := a / 2048
  (nbits g 2 0).xor ((nbits g 5 3).xor (nbits g 8 6))

/-- The stack-local byte address of an interleaved address (R291). -/
def ilvLocal (a : Nat) : Nat := a / 2048 / 8 * 2048 + a % 2048

/-- The channel of an interleaved address (R291). -/
def ilvChannel (a : Nat) : Nat := a / 2048 / 8 % 16

/-- The interleaved address of a stack-local address: the inverse of R291. -/
def ilvInv (s loc : Nat) : Nat :=
  let h := loc / 2048
  (h * 8 + s.xor ((nbits h 2 0).xor (nbits h 5 3))) * 2048 + loc % 2048

/-- The address that memory is keyed by: an interleaved address, an operand-store address or a command-memory address;
a diagnostic window shows the interleaved byte (R292); none beyond the stack's 96 GiB. -/
def State.memKey (s : State) (a : Nat) : Option Nat :=
  match placeOf a with
  | .lpddr a => some a
  | .sram _ _ => some a
  | .cmdMem _ => some a
  | .diag st off =>
    let loc := off + 0x800000000 * s.rdB (Reg.MEM_DIAG_SEL st) 0 0
    if loc < 0x1800000000 then some (ilvInv st loc) else none
  | _ => none

/-- The 64-byte blocks that `n` bytes at `a` touch. -/
def blocksOf (a n : Nat) : List Nat :=
  if n = 0 then [] else (List.range ((a + n - 1) / 64 - a / 64 + 1)).map fun i => (a / 64 + i) * 64

/-- The registers that count a block's parity events (R301, R305). -/
def State.parEvent (s : State) (blk : Nat) (os : Bool) (ev status : Nat) : State :=
  if os then
    let n := (blk - 0x200000000000) / 0x40000000
    s.raise 4 Blk.mem (Reg.MEM_OS_EVT n) (Reg.MEM_OS_EVT_EN n) ev
      { status := status, unit := n, os := true, at0 := some (Reg.MEM_OS_LAST n) }
  else
    let st := ilvStack blk
    s.raise 4 Blk.mem (Reg.MEM_EVT st) (Reg.MEM_EVT_EN st) ev
      { status := status, unit := st, at0 := some (Reg.MEM_PAR_LAST st) }

/-- A block lies in an operand store. -/
def isSram (blk : Nat) : Bool := decide (0x200000000000 ≤ blk) && decide (blk < 0x200100000000)

/-- A block lies in LPDDR. -/
def isLpddr (blk : Nat) : Bool := decide (blk < lpddrBytes)

/-- The lowest word whose bit is set in a 16-bit mask. -/
def lowestWord (m : Nat) : Nat := ((List.range 16).find? fun i => m.testBit i).getD 0

/-- The length of a stack's replay-rate windows, 2^WIN memory-controller cycles, in half cycles: 25 pass in a tick (R306, R406). -/
def State.windowLen (s : State) (k : Nat) : Nat := 2 ^ (s.rdB (Reg.MEM_PAR_THRESH k) 20 16 + 1)

/-- The window of a stack that runs now: the windows run back to back (R306). -/
def State.window (s : State) (k : Nat) : ReplayWin :=
  let wn := s.stackWin.get k {}
  let past := (25 * s.now - wn.start) / s.windowLen k
  if past = 0 then wn else { start := wn.start + past * s.windowLen k }

/-- Count `k` replays of a stack in its window, and raise REPLAYRATE once when they exceed the threshold (R306). -/
def State.countReplays (s : State) (blk k : Nat) : State :=
  if isLpddr blk then
    let st := ilvStack blk
    let wn := s.window st
    let wn := { wn with count := wn.count + k }
    let exceeds := decide (s.rdB (Reg.MEM_PAR_THRESH st) 15 0 < wn.count) && !wn.raised
    let s := { s with stackWin := s.stackWin.set st { wn with raised := wn.raised || exceeds } {} }
    if exceeds then
      s.raise 4 Blk.mem (Reg.MEM_EVT st) (Reg.MEM_EVT_EN st) 0 { unit := st, at0 := some (Reg.MEM_PAR_LAST st) }
    else s
  else s

/-- Command memory is hub storage under R305; its parity events have no register of their own. -/
def State.blkRegs (s : State) (blk : Nat) (f : State → Nat → State) (g : State → Nat → State) : State :=
  if isLpddr blk then f s (ilvStack blk)
  else if isSram blk then g s ((blk - 0x200000000000) / 0x40000000)
  else s

/-- Poison a block after three failing reads (R301): all sixteen words get inverted parity, the error is counted,
recorded and raised. `first` is the mask of words that failed in the first read. -/
def State.poisonBlock (s : State) (blk first : Nat) : State :=
  let s := { s with par := s.par.set blk 0xFFFF 0 }
  let s := s.blkRegs blk
    (fun s st =>
      let s := (s.addB (Reg.MEM_PAR_CNT st) 63 32 1).addB (Reg.MEM_CNT_WR st) 63 0 1
      s.wr (Reg.MEM_PAR_LAST st) (w (ilvLocal blk + at_ 40 (ilvChannel blk) + at_ 44 (lowestWord first) + at_ 48 1)))
    (fun s n =>
      let s := s.addB (Reg.MEM_OS_PAR n) 63 32 1
      s.wr (Reg.MEM_OS_LAST n) (w (blk % 0x40000000 + at_ 28 1)))
  if isSram blk then s.parEvent blk true 0 St.parity
  else if isLpddr blk then s.parEvent blk false 1 St.parity else s

/-- One read of a block: the stored bad words, the words that a persisting fault makes fail every time (R307), and one transient
failure (the next of `glitch`). A poisoned block is known by its stored parity alone. -/
def State.readOnce (s : State) (blk : Nat) : Nat × State :=
  let g := s.glitch.get blk []
  let m := ((s.par.get blk 0).lor (s.faults.get blk 0)).lor (g.headD 0)
  let s := if g.isEmpty then s else { s with glitch := s.glitch.set blk g.tail [] }
  let s := if isLpddr blk then s.addB (Reg.MEM_CNT_RD (ilvStack blk)) 63 0 1 else s
  (m, s)

/-- Read and check one block (R300 to R302): OK, POISON at once, or up to two re-reads and then PARITY. -/
def State.readBlock (s : State) (blk : Nat) : Nat × State :=
  let poisoned := s.par.get blk 0 == 0xFFFF
  let (m1, s) := s.readOnce blk
  if m1 = 0 then (St.ok, s)
  else if poisoned ∨ m1 = 0xFFFF then
    if isSram blk then (St.poison, s.parEvent blk true 1 St.poison)
    else if isLpddr blk then (St.poison, s.parEvent blk false 2 St.poison) else (St.poison, s)
  else
    let replayed (s : State) : State := s.blkRegs blk
      (fun s st => s.addB (Reg.MEM_PAR_CNT st) 31 0 1) (fun s n => s.addB (Reg.MEM_OS_PAR n) 31 0 1)
    let (m2, s) := s.readOnce blk
    if m2 = 0 then (St.ok, replayed (s.countReplays blk 1))
    else
      let (m3, s) := s.readOnce blk
      let s := s.countReplays blk 2
      if m3 = 0 then (St.ok, replayed s) else (St.parity, s.poisonBlock blk m1)

/-- Read and check every block of a request (R303). -/
def State.readBlocks (s : State) : List Nat → Nat × State
  | [] => (St.ok, s)
  | b :: bs =>
    let (st, s) := s.readBlock b
    let (st', s) := State.readBlocks s bs
    (St.join st st', s)

/-- Count a request that completed with POISON at each stack concerned (R312's MEM_CNT_POISON). -/
def State.countPoison (s : State) (st : Nat) (bs : List Nat) : State :=
  if st = St.poison then
    ((bs.filter isLpddr).map ilvStack).dedup.foldl (fun s k => s.addB (Reg.MEM_CNT_POISON k) 63 0 1) s
  else s

/-- Read one part of a request at a key address: the status and the bytes; with PARITY or POISON none of its data (R303). -/
def State.partRead (s : State) (a n : Nat) : Nat × List Byte × State :=
  let (st, s) := s.readBlocks (blocksOf a n)
  if st = 0 then (st, s.rawRead a n, s) else (st, [], s)

/-! ### Flits of the on-die networks and die-to-die links (R305) -/

/-- The next access crosses the network: `flits` holds, for accesses to come, the 64-byte flit of the access that fails and the
number of its copies that fail. A flit is asked for again twice; when all three copies fail it is delivered poisoned. -/
def State.flitNext (s : State) : Option Nat × State :=
  match s.flits with
  | [] => (none, s)
  | (k, c) :: fs => (if 3 ≤ c then some k else none, { s with flits := fs })

/-- The die whose MEM_OS_EVT reports a flit of an access to a key address. -/
def flitDie (a : Nat) : Nat := if isSram a then (a - 0x200000000000) / 0x40000000 else ilvStack a / 2

/-- MEM_OS_EVT.FLIT: a flit was delivered poisoned. -/
def State.flitEvent (s : State) (a : Nat) : State :=
  let n := flitDie a
  s.raise 4 Blk.mem (Reg.MEM_OS_EVT n) (Reg.MEM_OS_EVT_EN n) 3 { unit := n, os := true, at0 := some (Reg.MEM_OS_LAST n) }

/-- A write that carries a poisoned flit poisons every destination block it covers (R305). -/
def State.memPoison (s : State) (a n : Nat) : State :=
  (blocksOf a n).foldl (fun s b => { s with par := s.par.set b 0xFFFF 0 }) s

/-- A write of `n` bytes at a key address carried its flit `k` poisoned: the destination blocks that the flit covers are poisoned. -/
def State.flitWrite (s : State) (a n k : Nat) : State :=
  if 64 * k < n then (s.memPoison (a + 64 * k) (min 64 (n - 64 * k))).flitEvent a else s

/-- A read response of `n` bytes from a key address carried its flit `k` poisoned: the read completes with PARITY. -/
def State.flitRead (s : State) (a n k : Nat) : Bool × State := if 64 * k < n then (true, s.flitEvent a) else (false, s)

/-- The response of a read of `n` bytes from a key address crosses the network. -/
def State.readFlit (s : State) (a n st : Nat) (bs : List Byte) : Nat × List Byte × State :=
  match s.flitNext with
  | (none, s) => (st, bs, s)
  | (some k, s) =>
    let (bad, s) := s.flitRead a n k
    if bad then (St.join st St.parity, [], s) else (st, bs, s)

/-- A write of `n` bytes at a key address that was made has crossed the network. -/
def State.writeFlit (s : State) (a n : Nat) : State :=
  match s.flitNext with
  | (none, s) => s
  | (some k, s) => s.flitWrite a n k

/-! ### Reads and writes -/

/-- Read memory at a key address: the status and the bytes; a request that completes with PARITY or POISON delivers
none of its data (R303). -/
def State.memRead (s : State) (a n : Nat) : Nat × List Byte × State :=
  let (st, bs, s) := s.partRead a n
  (s.countPoison st (blocksOf a n)).readFlit a n st bs

/-- The words of a block that a write of [a, a + n) covers whole (R300: one parity bit a 32-bit word). -/
def coveredWords (blk a n : Nat) : Nat :=
  ((List.range 16).map fun i => if a ≤ blk + 4 * i ∧ blk + 4 * i + 4 ≤ a + n then 2 ^ i else 0).sum

/-- A write of [a, a + n) covers no word of a block in part. -/
def wordAligned (blk a n : Nat) : Bool := max a blk % 4 == 0 && min (a + n) (blk + 64) % 4 == 0

/-- The bursts that a write of a part of a word must read first are read and checked (R300): their status. -/
def State.mergeRead (s : State) (a n : Nat) : Nat × State := s.readBlocks ((blocksOf a n).filter fun b => !wordAligned b a n)

/-- Write bytes at a key address: words that are covered whole get fresh parity. -/
def State.memPut (s : State) (a : Nat) (bytes : List Byte) : State :=
  let n := bytes.length
  let s := (blocksOf a n).foldl (fun s b =>
    let m := (s.par.get b 0).land (0xFFFF - coveredWords b a n)
    let s := { s with par := s.par.set b m 0 }
    if isLpddr b then s.addB (Reg.MEM_CNT_WR (ilvStack b)) 63 0 1 else s) s
  s.rawWrite a bytes

/-- Write memory at a key address (R304): a write that touches a poisoned block without covering it whole completes
with POISON and writes nothing, and so does one whose burst read fails. -/
def State.memWrite (s : State) (a : Nat) (bytes : List Byte) : Nat × State :=
  let n := bytes.length
  let bs := blocksOf a n
  let whole (b : Nat) : Bool := decide (a ≤ b) && decide (b + 64 ≤ a + n)
  if bs.any fun b => s.par.get b 0 == 0xFFFF && !whole b then (St.poison, s.countPoison St.poison bs)
  else
    let (st, s) := s.mergeRead a n
    if st ≠ 0 then (st, s.countPoison st bs) else (St.ok, (s.memPut a bytes).writeFlit a n)

/-- The bursts of stack `k` below an interleaved address: each aligned run of eight granules holds 32 of every stack (R291). -/
def stackBelow (k x : Nat) : Nat :=
  let base := x / 16384 * 16384
  x / 16384 * 32 + ((List.range (ceilDiv (x % 16384) 64)).filter fun i => ilvStack (base + 64 * i) == k).length

/-- The bursts of stack `k` that a run of `n` bytes at `a` touches. -/
def stackBursts (k a n : Nat) : Nat := stackBelow k (a + n) - stackBelow k (a / 64 * 64)

/-- Zeroise a run of memory, with its poison marks (R60, R304): every burst of it is written. A fault that persists stays (R307). -/
def State.zeroise (s : State) (a n : Nat) : State :=
  let s := if isLpddr a then
      (List.range 8).foldl (fun s k => s.addB (Reg.MEM_CNT_WR k) 63 0 (stackBursts k a n)) s
    else s
  { s.rawZero a n with par := s.par.clear a n, glitch := s.glitch.clear a n }

/-- A port is cut after holding a grant too long (R298). -/
def State.holdCut (s : State) (sram : Bool) (i master : Nat) : State :=
  if sram then
    let s := s.addB (Reg.MEM_OS_CUT i) 63 32 1
    let s := s.wrB (Reg.MEM_OS_CUT i) 7 0 master
    s.raise 4 Blk.mem (Reg.MEM_OS_EVT i) (Reg.MEM_OS_EVT_EN i) 2
      { master := master, unit := i, os := true, at0 := some (Reg.MEM_OS_LAST i), at1 := some (Reg.MEM_OS_CUT i) }
  else
    let s := s.addB (Reg.MEM_ARB_CUT i) 63 32 1
    let s := s.wrB (Reg.MEM_ARB_CUT i) 7 0 master
    s.raise 4 Blk.mem (Reg.MEM_EVT i) (Reg.MEM_EVT_EN i) 3
      { master := master, unit := i, at0 := some (Reg.MEM_PAR_LAST i), at1 := some (Reg.MEM_ARB_CUT i) }

end Sys2Proof.Machine
end

