-- ==== Sys2Proof/Machine/Queues.lean ====
section
/-!
DEFINITION. Message queues, tally queues (R267 to R281) and the objects of synchronisation (R282 to R289). A queue's
ring and tag array live in memory (R267, R269); PROD, CONS and the counters in its registers.
-/

namespace Sys2Proof.Machine

/-- The die whose QU_ registers a queue's events use: its own, or 4 for the hub. -/
def qDie (q : Nat) : Nat := if q < 4096 then q / 1024 else 4

/-- The queue is placed (QU_CFG.VALID). -/
def State.qValid (s : State) (q : Nat) : Bool := decide (q < 4352) && s.rdB (Reg.QU_CFG q) 0 0 == 1

def State.qKind (s : State) (q : Nat) : Nat := s.rdB (Reg.QU_CFG q) 2 1
def State.qRing (s : State) (q : Nat) : Nat := s.rdB (Reg.QU_RING q) 45 0
def State.qBytes (s : State) (q : Nat) : Nat := s.rdB (Reg.QU_CFG q) 29 8
def State.qProd (s : State) (q : Nat) : Nat := (s.rd (Reg.QU_PROD q)).toNat
def State.qCons (s : State) (q : Nat) : Nat := (s.rd (Reg.QU_CONS q)).toNat

/-- Bytes occupied: PROD − CONS. -/
def State.qOcc (s : State) (q : Nat) : Nat := s.qProd q - s.qCons q

/-- Address of the tag byte of a ring offset (R267). -/
def State.qTagAddr (s : State) (q off : Nat) : Nat := s.qRing q + s.qBytes q + off / 16

/-- The tag byte at a ring offset (R269). -/
def State.qTag (s : State) (q off : Nat) : Nat := (s.byte (s.qTagAddr q off)).toNat

/-- Write a tag byte: the burst that holds it is read and checked first (R300, R304). -/
def State.qSetTag (s : State) (q off t : Nat) : Nat × State := s.memWrite (s.qTagAddr q off) [BitVec.ofNat 8 t]

/-- Ring offset of the head entry. -/
def State.qHeadOff (s : State) (q : Nat) : Nat := if s.qBytes q = 0 then 0 else s.qCons q % s.qBytes q

/-- Tag of the head entry; 0 when the queue is empty. -/
def State.qHeadTag (s : State) (q : Nat) : Nat := if s.qOcc q = 0 then 0 else s.qTag q (s.qHeadOff q)

/-- Tag fields (R269). -/
def tagUnits (t : Nat) : Nat := t % 32
def tagSkip (t : Nat) : Bool := t / 32 % 2 == 1
def tagOpen (t : Nat) : Bool := t / 64 % 2 == 1

/-- The head is receivable: an entry that is no skip and no open round (R275, R276). -/
def State.qReady (s : State) (q : Nat) : Bool :=
  let t := s.qHeadTag q
  s.qValid q && decide (0 < tagUnits t) && !tagSkip t && !tagOpen t

/-- Length in bytes of the head entry. -/
def State.qHeadLen (s : State) (q : Nat) : Nat := 16 * tagUnits (s.qHeadTag q)

/-- The bytes of the head entry, parity aside. -/
def State.qHeadBytes (s : State) (q : Nat) : List Byte := s.rawRead (s.qRing q + s.qHeadOff q) (s.qHeadLen q)

/-- Read a queue's head entry for its receiver: the burst of its tag and those of its bytes are read and checked (R300, R305). -/
def State.qHeadRead (s : State) (q : Nat) : Nat × List Byte × State :=
  let (st, s) := s.readBlocks (blocksOf (s.qTagAddr q (s.qHeadOff q)) 1)
  let (st', bs, s) := s.memRead (s.qRing q + s.qHeadOff q) (s.qHeadLen q)
  let j := St.join st st'
  (j, if j = 0 then bs else [], s)

/-- Entries occupied, skips and an open round included: the nonzero tags from CONS to PROD. -/
def State.qEntries (s : State) (q : Nat) : Nat :=
  if s.qBytes q = 0 then 0 else
  ((List.range (s.qOcc q / 16)).filter fun i =>
    decide (0 < tagUnits (s.qTag q ((s.qCons q + 16 * i) % s.qBytes q)))).length

/-- What a send meets. -/
inductive SendRes where
  | ok
  | noRoom
  | refused (status : Nat)
  deriving DecidableEq, Repr

/-- A length event of a queue (R273). `sent` marks a send that notifies the log (R456). -/
def State.qLenEvent (s : State) (q ev : Nat) (sent : Bool) : State :=
  let d := qDie q
  s.raise d Blk.qu (Reg.QU_EVT d) (Reg.QU_EVT_EN d) ev { status := St.misalign, sent := sent }

/-- Room for `l` bytes, and the skip it needs (R270). -/
def State.qRoom (s : State) (q l : Nat) : Bool × Nat :=
  let r := s.qBytes q
  let e := r - s.qProd q % r
  if l ≤ e then (decide (l ≤ r - s.qOcc q), 0) else (decide (e + l ≤ r - s.qOcc q), e)

/-- Skip markers at the head are removed at once (R276). One entry can follow another only once, so two passes suffice;
the fuel is the number of entries. -/
def State.qDropSkips (s : State) (q : Nat) : Nat → State
  | 0 => s
  | k + 1 =>
    let t := s.qHeadTag q
    if tagSkip t then
      let s := (s.qSetTag q (s.qHeadOff q) 0).2
      State.qDropSkips (s.wr (Reg.QU_CONS q) (w (s.qCons q + 16 * tagUnits t))) q k
    else s

/-- Place an entry with room for it: the skip marker, the bytes, then the tag (R270, R271). In an empty queue the skip is the
head and goes at once (R276). A write that meets poisoned ring data or a poisoned tag queues nothing (R304, R305). -/
def State.qPlace (s : State) (q : Nat) (bs : List Byte) (isOpen : Bool) : SendRes × State :=
  let r := s.qBytes q
  let (_, e) := s.qRoom q bs.length
  let off := if e = 0 then s.qProd q % r else 0
  let (st, s') := s.memWrite (s.qRing q + off) bs
  if st ≠ 0 then (.refused st, s') else
  let (st, s') := if e = 0 then (st, s') else s'.qSetTag q (s.qProd q % r) (e / 16 + 32)
  if st ≠ 0 then (.refused st, s') else
  let (st, s') := s'.qSetTag q off (bs.length / 16 + (if isOpen then 64 else 0))
  if st ≠ 0 then (.refused st, s') else
  let s := s'
  let s := s.wr (Reg.QU_PROD q) (w (s.qProd q + e + bs.length))
  (.ok, (s.addB (Reg.QU_CNT q) 31 0 1).qDropSkips q 1)

/-- Element-wise sum of a contribution into an entry (R281): the sum bytes, and whether an INT32 element saturated. -/
def tallyAdd (int32 : Bool) (old new : List Byte) : List Byte × Bool :=
  let es := (List.range (old.length / 4)).map fun i =>
    let a := leAt old (4 * i) 4
    let b := leAt new (4 * i) 4
    if int32 then
      let t := sgn 32 a + sgn 32 b
      (unsgn 32 (satInt 32 t), decide (satInt 32 t ≠ t))
    else (fp32Add a b, false)
  ((es.map fun e => toBytes 4 e.1).flatten, es.any fun e => e.2)

/-- Ring offset of the open round: the last entry placed, which ends at PROD. -/
def State.qOpenOff (s : State) (q : Nat) : Nat :=
  let len := s.rdB (Reg.QU_TALLY q) 40 32
  (s.qProd q - len) % s.qBytes q

/-- Test and accept a message or contribution now (R270, R273, R279, R280): `noRoom` leaves the queue unchanged. -/
def State.qAccept (s : State) (q : Nat) (bs : List Byte) (sent : Bool) : SendRes × State :=
  if !s.qValid q then (.refused St.unmapped, s)
  else
    let l := bs.length
    let kind := s.qKind q
    if kind = 0 ∧ l ≠ 64 ∨ l = 0 ∨ 256 < l ∨ l % 16 ≠ 0 then (.refused St.misalign, s.qLenEvent q 0 sent)
    else if kind = 2 ∧ s.rdB (Reg.QU_TALLY q) 29 29 = 1 then
      if s.rdB (Reg.QU_TALLY q) 40 32 ≠ l then (.refused St.misalign, s.qLenEvent q 1 sent)
      else
        let off := s.qOpenOff q
        let (st, s) := s.readBlocks (blocksOf (s.qTagAddr q off) 1)
        if st ≠ 0 then (.refused st, s) else
        let (st, old, s) := s.memRead (s.qRing q + off) l
        if st ≠ 0 then (.refused st, s) else
        let int32 := s.rdB (Reg.QU_CFG q) 3 3 == 1
        let (sum, sat) := tallyAdd int32 old bs
        let (st, s) := s.memWrite (s.qRing q + off) sum
        if st ≠ 0 then (.refused st, s) else
        let d := qDie q
        let s := if sat then s.raise d Blk.qu (Reg.QU_EVT d) (Reg.QU_EVT_EN d) 2 { sent := sent } else s
        let s := s.addB (Reg.QU_CNT q) 31 0 1
        let k := s.rdB (Reg.QU_TALLY q) 28 16 + 1
        if k = s.rdB (Reg.QU_TALLY q) 12 0 then
          let s := s.wrB (Reg.QU_TALLY q) 63 16 0
          (.ok, (s.qSetTag q off (l / 16)).2)
        else (.ok, s.wrB (Reg.QU_TALLY q) 28 16 k)
    else
      if !(s.qRoom q l).1 then (.noRoom, s)
      else if kind = 2 ∧ 1 < s.rdB (Reg.QU_TALLY q) 12 0 then
        match s.qPlace q bs true with
        | (.ok, s) => (.ok, s.wrB (Reg.QU_TALLY q) 63 16 (1 + at_ (29 - 16) 1 + at_ (32 - 16) l))
        | r => r
      else s.qPlace q bs false

/-- Remove the head entry (R275, R276). -/
def State.qRemove (s : State) (q : Nat) : State :=
  let len := s.qHeadLen q
  let s := (s.qSetTag q (s.qHeadOff q) 0).2
  let s := s.wr (Reg.QU_CONS q) (w (s.qCons q + len))
  s.qDropSkips q 2

/-- Accept the waiting senders of a queue that now fit, in arrival order (R272); the owners accepted or refused, with
their statuses. A sender that does not fit keeps waiting and does not stop those after it. -/
def qServiceList (q : Nat) : List SendWait → State → List (Owner × Nat) × List SendWait × State
  | [], s => ([], [], s)
  | wt :: ws, s =>
    if wt.q = q then
      match s.qAccept q wt.bytes false with
      | (.ok, s) =>
        let (o, r, s) := qServiceList q ws s
        ((wt.owner, St.ok) :: o, r, s)
      | (.noRoom, s) =>
        let (o, r, s) := qServiceList q ws s
        (o, wt :: r, s)
      | (.refused st, s) =>
        let (o, r, s) := qServiceList q ws s
        ((wt.owner, st) :: o, r, s)
    else
      let (o, r, s) := qServiceList q ws s
      (o, wt :: r, s)

/-- Serve a queue's waiting senders after a removal (R272). -/
def State.qService (s : State) (q : Nat) : List (Owner × Nat) × State :=
  let (o, r, s) := qServiceList q s.sendWaits s
  (o, { s with sendWaits := r })

/-- A send that may wait: accepted, refused, or put behind the queue's waiting senders (R272, R273). -/
def State.qSendWait (s : State) (q : Nat) (owner : Owner) (bs : List Byte) : SendRes × State :=
  match s.qAccept q bs false with
  | (.noRoom, s) =>
    (.noRoom, { s.addB (Reg.QU_CNT q) 63 32 1 with
      sendWaits := s.sendWaits ++ [⟨q, owner, bs, s.now⟩] })
  | r => r

/-- QU_HEAD of a queue, or QU_PEEK_INFO with `ents` (R289). -/
def State.qHeadWord (s : State) (q : Nat) (ents : Bool) : Word :=
  let t := s.qHeadTag q
  w (s.qHeadOff q % 2 ^ 21 + at_ 24 (tagUnits t) + at_ 29 (if s.qReady q then 1 else 0)
    + at_ 30 (if tagOpen t then 1 else 0) + (if ents then at_ 32 (s.qEntries q) else 0))

/-! ### Milestone counters and barriers -/

/-- The counter of a package index is placed (R487). -/
def State.msOk (s : State) (m : Nat) : Bool := decide (m < 16384) && s.msPlaced.get m false

/-- The register of a package milestone counter (R21). -/
def msReg (m : Nat) : Nat := Reg.SYN_MS (m / 4096) (m % 4096)

/-- Value of a package milestone counter; an index that holds none reads as zero (R487). -/
def State.msVal (s : State) (m : Nat) : Nat := if s.msOk m then (s.rd (msReg m)).toNat else 0

/-- Advance a counter, saturating with MSAT (R282); an index that holds none ignores it (R487). -/
def State.msAdvance (s : State) (m amount : Nat) : State :=
  if s.msOk m then
    let v := s.msVal m + amount
    if 2 ^ 64 ≤ v then
      let s := s.wr (msReg m) (w (2 ^ 64 - 1))
      s.raise (m / 4096) Blk.syn (Reg.SYN_EVT (m / 4096)) (Reg.SYN_EVT_EN (m / 4096)) 0 {}
    else s.wr (msReg m) (w v)
  else s

/-- The barrier of a package index is placed. -/
def State.barOk (s : State) (b : Nat) : Bool :=
  decide (b < 1024) && s.rdB (Reg.SYN_BAR_CFG (b / 256) (b % 256)) 13 13 == 1

/-- An arrival at a barrier (R284): the owners released by a completing arrival (the arriving one included), and the
state. -/
def State.barArrive (s : State) (b : Nat) (o : Owner) : List Owner × State :=
  let r := Reg.SYN_BAR_STATE (b / 256) (b % 256)
  let k := s.rdB r 12 0 + 1
  if k = s.rdB (Reg.SYN_BAR_CFG (b / 256) (b % 256)) 12 0 then
    let rel := (s.barWaits.filter fun e => e.1 = b).map (·.2) ++ [o]
    let s := { s with barWaits := s.barWaits.filter fun e => e.1 ≠ b }
    let s := s.wrB r 15 0 0
    let s := s.wrB r 47 16 (s.rdB r 47 16 + 1)
    (rel, s.wrB r 63 48 0)
  else
    let s := { s with barWaits := s.barWaits ++ [(b, o)] }
    let s := s.wrB r 12 0 k
    ([], s.wrB r 60 48 (s.rdB r 60 48 + 1))

end Sys2Proof.Machine
end

