-- ==== Sys2Proof/Machine/Route.lean ====
section
/-!
DEFINITION. Route tables (R347 to R350): the port that a packet for another device leaves by.
-/

namespace Sys2Proof.Machine

/-- This device's ID (R352). -/
def State.devId (s : State) : Nat := s.rdB Reg.RTE_SELF 17 0

/-- Where a packet for another device goes. -/
inductive Route where
  | port (p : Nat)
  | noRoute
  | noPort (p : Nat)
  deriving DecidableEq, Repr

/-- A port is usable (R349). -/
def State.usable (s : State) (p : Nat) : Bool := s.rdB (Reg.LNK_STATUS p) 2 0 == 4 && bit (s.rd Reg.RTE_PORT_EN) p

/-- The fold of the flow hash (R349). -/
def flowHash (src dst tc : Nat) : Nat :=
  let h := (src.xor (dst.xor (tc * 2 ^ 16))) % 2 ^ 18
  (nbits h 3 0).xor ((nbits h 7 4).xor ((nbits h 11 8).xor ((nbits h 15 12).xor (nbits h 17 16))))

/-- The port that a route entry gives a flow (R347 to R350). -/
def State.routeOf (s : State) (src dst tc : Nat) : Route :=
  let e := if dst / 512 = s.devId / 512 then s.rd (Reg.RTE_MEMBER (dst % 512)) else s.rd (Reg.RTE_GROUP (dst / 512))
  if !bit e 16 then .noRoute
  else
    let ports := bitsSet 16 (bits e 15 0)
    match ports.filter s.usable with
    | [] => .noPort (ports.headD 0)
    | p :: ps => if bit e 17 then .port (nth (p :: ps) (flowHash src dst tc % (ps.length + 1)) p) else .port p

end Sys2Proof.Machine
end

