-- ==== Sys2Proof/Machine/Ledger.lean ====
section
/-!
DEFINITION. The version ledger (R116 to R143): headers and slot records in memory, references, slot states, claims and
commits. The commands of the ledger are in LedgerCmds.lean.
-/

namespace Sys2Proof.Machine

def State.led (s : State) (l : Nat) : Ledger := s.ledgers.get l {}
def State.setLed (s : State) (l : Nat) (x : Ledger) : State := { s with ledgers := s.ledgers.set l x {} }

/-- Ledgers declared by the manifest. -/
def State.ledCount (s : State) : Nat := s.rdB (Reg.LED_CFG 0) 16 0

/-- The device-wide ledger registers read the same through every die (R143): they are kept at die 0's address. -/
def State.ledIds (s : State) : List Nat := List.range s.ledCount

/-- A write of ledger data, with parity (R304). -/
def State.ledWrite (s : State) (a n v : Nat) : State := (s.memWrite a (toBytes n v)).2

def Ledger.recAddr (x : Ledger) (slot : Nat) : Nat := x.hdr + 0x100 + 32 * slot

/-- Local address of a slot's bytes (R116). -/
def Ledger.slotAddr (x : Ledger) (slot : Nat) : Nat := x.hdr + 4096 + slot * x.stride

/-- The commit word (R117). -/
def State.ledCommit (s : State) (l : Nat) : Word := w (s.rawNat (s.led l).hdr 8)

def State.ledSlot (s : State) (l : Nat) : Nat := bits (s.ledCommit l) 4 0
def State.ledStep (s : State) (l : Nat) : Nat := bits (s.ledCommit l) 63 8

/-- A slot's state (R121): 0 FREE, 1 WRITING, 2 WRITTEN, 3 COMMITTED, 4 RETIRED. -/
def State.slotState (s : State) (l slot : Nat) : Nat := s.rawNat ((s.led l).recAddr slot) 1

def State.slotStep (s : State) (l slot : Nat) : Nat := s.rawNat ((s.led l).recAddr slot + 8) 8 % 2 ^ 56
def State.slotFprint (s : State) (l slot : Nat) : Nat := s.rawNat ((s.led l).recAddr slot + 16) 8
def State.slotRefs (s : State) (l slot : Nat) : Nat := nth (s.led l).refs slot 0

def State.setSlotState (s : State) (l slot st : Nat) : State := s.ledWrite ((s.led l).recAddr slot) 1 st

/-- The slots of a ledger. -/
def State.slots (s : State) (l : Nat) : List Nat := List.range (s.led l).depth

/-- The lowest FREE slot. -/
def State.freeSlot (s : State) (l : Nat) : Option Nat := (s.slots l).find? fun k => s.slotState l k == 0

/-- The slot in WRITING or WRITTEN, of which there is at most one (R122). -/
def State.pendSlot (s : State) (l : Nat) : Option Nat :=
  (s.slots l).find? fun k => s.slotState l k == 1 || s.slotState l k == 2

/-- Add a reference to a slot (R123). DESIGN CHOICE (log entry 104): a header that holds references never leaves its controller's cache, so
REFS of the slot record in memory stays as it is (R488). -/
def State.addRef (s : State) (l slot : Nat) : State :=
  let x := s.led l
  s.setLed l { x with refs := setNth x.refs slot (nth x.refs slot 0 + 1) }

/-- Drop a reference; a RETIRED slot without references becomes FREE (R121, R124). -/
def State.dropRef (s : State) (l slot : Nat) : State :=
  let x := s.led l
  let k := nth x.refs slot 0 - 1
  let s := s.setLed l { x with refs := setNth x.refs slot k }
  if k = 0 ∧ s.slotState l slot = 4 then s.setSlotState l slot 0 else s

def State.dropRefs (s : State) (rs : List (Nat × Nat)) : State := rs.foldl (fun s r => s.dropRef r.1 r.2) s

/-- Claim the lowest FREE slot for writing (R122). -/
def State.claimSlot (s : State) (l : Nat) : Option (Nat × State) :=
  (s.freeSlot l).map fun k => (k, s.setSlotState l k 1)

/-- The version in a slot is complete: STEP, FPRINT and TIME, then WRITTEN (R128). -/
def State.slotWritten (s : State) (l slot step fprint : Nat) : State :=
  let a := (s.led l).recAddr slot
  let s := s.ledWrite (a + 8) 8 (step % 2 ^ 56)
  let s := s.ledWrite (a + 16) 8 fprint
  let s := s.ledWrite (a + 24) 8 s.now
  s.setSlotState l slot 2

/-- Replace the commit word: one 64-bit write; the previous version becomes RETIRED or FREE (R121, R128). -/
def State.commitSlot (s : State) (l slot : Nat) : State :=
  let old := s.ledSlot l
  let s := s.ledWrite (s.led l).hdr 8 (slot + 256 * s.slotStep l slot)
  let s := s.setSlotState l slot 3
  if old = slot then s
  else if s.slotRefs l old = 0 then s.setSlotState l old 0 else s.setSlotState l old 4

/-- An event of the LED_ block: its entry goes to the hub log (R449), with LED_STEP and the ledger index (R453). -/
def State.ledEvent (s : State) (ev status : Nat) (l : Option Nat) : State :=
  s.raise 4 Blk.led (Reg.LED_EVT 0) (Reg.LED_EVT_EN 0) ev
    { status := status, at0 := some (Reg.LED_STEP 0)
      info1 := match l with | some l => w l | none => w (2 ^ 64 - 1) }

/-- The ledgers of a shard set that the version tag counts: DEPTH 2 or more (R117). -/
def State.tagSet (s : State) (shards : List Nat) : List Nat :=
  (sortBy id shards).filter fun l => decide (2 ≤ (s.led l).depth)

/-- The version tag of the committed versions of a shard set (R117). -/
def State.versionTag (s : State) (shards : List Nat) : Word :=
  match s.tagSet shards with
  | [] => 0
  | l :: ls =>
    let lowest := ls.foldl (fun m k => min m (s.ledStep k)) (s.ledStep l)
    let mixed := (l :: ls).any fun k => decide (s.ledStep k ≠ lowest)
    let holder := ((l :: ls).find? fun k => s.ledStep k == lowest).getD l
    w (s.ledSlot holder + at_ 5 (if mixed then 1 else 0) + at_ 6 1 + at_ 8 lowest)

/-- Every ledger of DEPTH 2 or more of a shard set has a FREE slot (R125). -/
def State.ledRoom (s : State) (shards : List Nat) : Bool :=
  shards.all fun l => decide ((s.led l).depth < 2) || (s.freeSlot l).isSome

/-- A ledger of the shard set is damaged (R488). -/
def State.anyDamaged (s : State) (shards : List Nat) : Bool := shards.any fun l => (s.led l).damaged.isSome

/-- Take the references of a forward admitted for computing (R123). -/
def State.takeRefs (s : State) (shards : List Nat) : List (Nat × Nat) × State :=
  (shards.map fun l => (l, s.ledSlot l), shards.foldl (fun s l => s.addRef l (s.ledSlot l)) s)

/-- The owned ledgers. -/
def State.ownedIds (s : State) : List Nat := s.ledIds.filter fun l => (s.led l).owner

/-- The registered replicas of an owned ledger, from its REPLICA_LIST (R116). -/
def State.replicaList (s : State) (l : Nat) : List Nat :=
  let h := (s.led l).hdr
  (List.range (min 512 (s.rawNat (h + 0x28) 4))).map fun i => s.rawNat (h + 0x800 + 4 * i) 4 % 2 ^ 18

/-- The 32-byte commit notice (R137). -/
def State.noticeBytes (s : State) (l slot : Nat) : List Byte :=
  let self := s.devId
  toBytes 4 (s.led l).shard ++ toBytes 4 self ++ toBytes 8 (s.ledCommit l).toNat
    ++ toBytes 8 (self * 2 ^ 46 + (s.led l).slotAddr slot) ++ toBytes 8 (s.slotFprint l slot)

/-- Drop the reference of a replica's notice (R137). -/
def State.releaseNotice (s : State) (l dev : Nat) : State :=
  let x := s.led l
  let old := x.notices.filter fun r => r.dev = dev
  let s := s.setLed l { x with notices := x.notices.filter fun r => r.dev ≠ dev }
  old.foldl (fun s r => s.dropRef l r.slot) s

/-- Record a step outcome and advance the outcome counter to s + 1 (R132, R134); LED_PENDING.BASE shows the next step where a
ledger is owned. -/
def State.stepOutcome (s : State) (step : Nat) (finite : Bool) : State :=
  let s := s.wr (Reg.LED_STEP 0) (w (step % 2 ^ 32 + at_ 32 1 + at_ 33 (if finite then 1 else 0)))
  let s := s.wrB (Reg.LED_PENDING 0) 39 0 (if s.ownedIds.isEmpty then 0 else step + 1)
  let s := { s with vote := { s.vote with next := step + 1 } }
  let o := s.rd (Reg.LED_OUTCOME 0)
  if bit o 63 then
    let m := bits o 13 0
    s.msAdvance m (step + 1 - s.msVal m)
  else s

/-- Discard step `step`: every WRITTEN slot of it becomes FREE, commit words stay (R132). The log entry holds LED_STEP as it is
after the outcome's cycle (R453, R455). -/
def State.discardStep (s : State) (step : Nat) : State :=
  let s := s.ownedIds.foldl (fun s l =>
    match s.pendSlot l with
    | some k => if s.slotState l k = 2 ∧ s.slotStep l k = step + 1 then s.setSlotState l k 0 else s
    | none => s) s
  let s := s.addB (Reg.LED_NONFINITE 0) 31 0 1
  (s.stepOutcome step false).ledEvent 0 St.nonfinite none

end Sys2Proof.Machine
end

