-- ==== Sys2Proof/Machine/Observe.lean ====
section
/-!
DEFINITION. What a read of a register returns (R9, R464): the registers that the device computes from its state, and who may
read one (R385, R401). Every access to control space reads through here.
-/

namespace Sys2Proof.Machine

/-! ### Control space: the register that an access reaches -/

/-- Index i of a register. -/
def RegHit.i (h : RegHit) (i : Nat) : Nat := nth h.ix i 0

/-- The device-wide ledger registers are kept at die 0's address (R143). -/
def ledgerWide (r : RegName) : Bool :=
  [RegName.LED_CFG, .LED_STEP, .LED_OUTCOME, .LED_PENDING, .LED_RESOLVE, .LED_SEL, .LED_DATA0, .LED_DATA1, .LED_DATA2,
    .LED_DATA3, .LED_DATA4, .LED_DATA5, .LED_EVT, .LED_EVT_EN, .LED_NONFINITE, .LED_FETCH, .LED_WAIT, .LED_UPDWAIT].contains r

/-- Address of the register that an access at `a` reaches. -/
def RegHit.addr (h : RegHit) (a : Nat) : Nat :=
  let a := a - h.byte
  if ledgerWide h.row.name then a - 0x1000000 * h.i 0 else a

/-! ### Stages and micro-batches -/

/-- Key of a stage-controller context. -/
def sk (n x : Nat) : Nat := n * 32 + x

/-- Key of a micro-batch context. -/
def mbKey (n x c : Nat) : Nat := (n * 32 + x) * 256 + c

def State.stg (s : State) (n x : Nat) : StageCtx := s.stages.get (sk n x) {}

def State.mbc (s : State) (n x c : Nat) : MbCtx := s.mbs.get (mbKey n x c) {}

/-- The context holds a stage (CAD_CTX_CFG.VALID). -/
def State.ctxValid (s : State) (n x : Nat) : Bool := s.rdB (Reg.CAD_CTX_CFG n x) 0 0 == 1

def State.ctxBackhaul (s : State) (n x : Nat) : Bool := s.rdB (Reg.CAD_CTX_CFG n x) 1 1 == 1

/-- The contexts of a stage that are not FREE. -/
def State.busyCtxs (s : State) (n x : Nat) : List Nat := (List.range 256).filter fun c => (s.mbc n x c).state != 0

/-- Pool pages reserved now. -/
def State.usedPages (s : State) (n x : Nat) : List Nat := ((s.busyCtxs n x).map fun c => (s.mbc n x c).pages).flatten

/-- A mask with a bit for each k below n that satisfies a test. -/
def maskOf (n : Nat) (p : Nat → Bool) : Nat := ((List.range n).map fun k => if p k then 2 ^ k else 0).sum

/-- SEQ of a queue's head descriptor, 0 without one. -/
def State.headSeq (s : State) (q : Nat) : Nat :=
  if q < 4352 ∧ s.qHeadTag q ≠ 0 then s.rawNat (s.qRing q + s.qHeadOff q) 4 else 0

def State.hasHead (s : State) (q : Nat) : Bool := decide (q < 4352) && s.qHeadTag q != 0

/-! ### The offload engine -/

/-- Frames of an entry in use: those of the micro-batches of its stage. -/
def State.framesUsed (s : State) (n x : Nat) : List Nat := ((s.busyCtxs n x).map fun c => (s.mbc n x c).frames).flatten

/-- The stage of an entry. -/
def State.oflStage (s : State) (o : Nat) : Nat × Nat := (s.rdB (Reg.OFL_CFG o) 12 11, s.rdB (Reg.OFL_CFG o) 17 13)

/-- OFL_FRAMES with the frames in use. -/
def State.oflFrames (s : State) (o : Nat) : Word :=
  let nx := s.oflStage o
  w (s.rdB (Reg.OFL_FRAMES o) 31 0 + at_ 32 (if s.rdB (Reg.OFL_CFG o) 0 0 = 1 then (s.framesUsed nx.1 nx.2).length else 0))

/-- OFL_STATUS: micro-batches offloaded now, and transfers in flight. -/
def State.oflStatus (s : State) (o : Nat) : Word :=
  let nx := s.oflStage o
  let cs := if s.rdB (Reg.OFL_CFG o) 0 0 = 1 then (s.busyCtxs nx.1 nx.2).map (s.mbc nx.1 nx.2) else []
  w ((cs.filter (·.offloaded)).length + at_ 16 (cs.filter (·.xfer)).length)

/-- OFL_QUEUE: free entries. -/
def State.oflFree (s : State) : Word := w (64 - s.oflQueue.length)

/-! ### Ports and tags -/

def State.port (s : State) (p : Nat) : Port := s.ports.get p {}

def State.lnkState (s : State) (p : Nat) : Nat := s.rdB (Reg.LNK_STATUS p) 2 0

/-- Units of a class that the sender may use (R323). -/
def Port.credit (x : Port) (c : Nat) : Nat := unsgn 32 ((nth x.limit c 0 : Int) - nth x.used c 0)

/-- LNK_SEQ. -/
def State.lnkSeq (s : State) (p : Nat) : Word :=
  let x := s.port p
  w (x.n + at_ 16 x.u + at_ 32 x.nextRx + at_ 48 x.buf.length)

/-- LNK_CR_AVAIL. -/
def State.lnkAvail (s : State) (p : Nat) : Word :=
  w ((List.range 4).map fun c => at_ (16 * c) (min 65535 ((s.port p).credit c))).sum

/-- LNK_SUMMARY. -/
def State.lnkSummary (s : State) : Word :=
  w ((List.range 16).map fun p => (if s.lnkState p = 4 then 2 ^ p else 0)
    + (if s.rd (Reg.LNK_EVT p) = 0 then 0 else 2 ^ (16 + p))).sum

def State.tagsHeld (s : State) : Nat := (s.tags.filter fun e => e.2.req.isSome).length

def State.tagsQuar (s : State) : Nat := (s.tags.filter fun e => e.2.quar.isSome).length

/-! ### Updates -/

/-- Registers of update engine v by package index (R21). -/
def updReg (f : Nat → Nat → Nat) (v : Nat) : Nat := f (v / 4) (v % 4)

def State.updEng (s : State) (v : Nat) : UpdEngine := s.updEngines.get v {}

def State.trigQ (s : State) (n : Nat) : List Trig := s.trigQueues.get n []

/-- Per-shard scope (LED_CFG.NF_SCOPE). -/
def State.perShard (s : State) : Bool := s.rdB (Reg.LED_CFG 0) 17 17 == 1

/-- A queued trigger is runnable (R234). -/
def State.trigRunnable (s : State) (n : Nat) (t : Trig) : Bool :=
  (s.pendSlot t.led).isNone &&
    (s.perShard ||
      !((s.trigQ n).any fun u => u.led == t.led && decide (u.step < t.step))
        && !(s.updEngines.any fun e => match e.2.trig with
          | some u => u.led == t.led && decide (u.step < t.step)
          | none => false))
    && !(s.updEngines.any fun e => match e.2.trig with | some u => u.led == t.led | none => false)

/-- UPD_TQ_STATUS (R233, R234). -/
def State.updTqStatus (s : State) (n : Nat) : Word :=
  let q := s.trigQ n
  let running := ((List.range 4).filter fun i => (s.updEng (4 * n + i)).trig.isSome).map (2 ^ ·) |>.sum
  w (1024 - q.length + at_ 16 (q.filter fun t => !s.trigRunnable n t).length + at_ 32 running)

/-! ### The rest of the package -/

/-- COL_STATUS. -/
def State.colStatus (s : State) : Word :=
  w (256 - s.cols.length + at_ 16 (s.cols.filter (·.running)).length + at_ 32 s.colEarly.length)

/-- CLK_ARITH. -/
def State.clkArith (s : State) : Word :=
  w ((List.range 4).foldl (fun m n => m + at_ (16 * n) (s.rdB (Reg.GOV_STATUS n) 27 16)) 0)

/-- ERR_STATUS: entries held, entries overwritten. -/
def State.errHeld (s : State) (n : Nat) : Nat := (s.rd (Reg.ERR_PROD n)).toNat - (s.rd (Reg.ERR_CONS n)).toNat

def State.errStatus (s : State) (n : Nat) : Word :=
  w (s.errHeld n % 512 + at_ 32 (s.rdB (Reg.ERR_STATUS n) 63 32))

/-- DEM_OVF_SUMMARY. -/
def State.demSummary (s : State) (n : Nat) : Word :=
  w ((List.range 32).foldl (fun m x => if s.rd (Reg.DEM_OVF n x) = 0 then m else m + 2 ^ x) 0)

def State.ring (s : State) (r : Nat) : Ring := s.rings.get r {}

def State.ringState (s : State) (r : Nat) : Nat := s.rdB (Reg.CMD_RING_STATUS r) 1 0

def State.ringOwner (s : State) (r : Nat) : Nat := s.rdB (Reg.CMD_RING_CFG r) 17 0

/-- CMD_RING_STATUS with the operations in flight. -/
def State.ringStatus (s : State) (r : Nat) : Word :=
  w (s.ringState r + at_ 32 ((s.ring r).ops.filter fun o => !o.entry.isEmpty).length)

/-- CMD_STATUS. -/
def State.cmdStatus (s : State) : Word :=
  let n := ((List.range 16).map fun r => ((s.ring r).ops.filter fun o => !o.entry.isEmpty).length).sum
  w (n % 2048 + at_ 16 (s.channels.foldl (fun m (e : Nat × (Nat × Nat × Nat)) => m + 2 ^ e.1) 0))

/-- The ring of a CMD_ address, and an address in the ring's memory, are open to a master: the owner through fabric ingress
(`src` its device), or a management core (R385). -/
def State.ringParty (s : State) (r master src : Nat) : Bool :=
  isMgmt master || (master == 0xE8 && src == s.ringOwner r)

def State.mbxSender (s : State) (k : Nat) : Nat := s.rdB (Reg.MBX_BIND k) 7 0

def State.mbxReceiver (s : State) (k : Nat) : Nat := s.rdB (Reg.MBX_BIND k) 15 8

def State.mbxValid (s : State) (k : Nat) : Bool := s.rdB (Reg.MBX_BIND k) 16 16 == 1

/-- A master is a party of a channel: a fabric access counts only from the bound controller (R400). -/
def State.mbxIs (s : State) (k party master src : Nat) : Bool :=
  master == party && (master != 0xE8 || src == s.rdB (Reg.MBX_BIND k) 41 24)

def State.mbxEvent (s : State) (ev status master k : Nat) : State :=
  s.raise 4 Blk.mbx Reg.MBX_EVT Reg.MBX_EVT_EN ev { status := status, master := master, unit := k }

/-- A denied access (R401). -/
def State.mbxDeny (s : State) (master k : Nat) : Nat × State := (St.denied, s.mbxEvent 0 St.denied master k)

/-! ### A read -/

/-- The registers of the manifest digest. -/
def mnfRegs : List Nat := [Reg.ID_MNF_DIGEST0, Reg.ID_MNF_DIGEST1, Reg.ID_MNF_DIGEST2, Reg.ID_MNF_DIGEST3]

/-- A measured temperature in bits [hi:lo] of a register: free once a tick has passed since the last reset, and below the limit at
which the device trips (R484, log entry 5). -/
def State.freeField (s : State) (a hi lo limit : Nat) : Word × State :=
  if s.now ≤ s.bootAt then (s.rd a, s)
  else
    let (v, s) := s.free
    (putBits (s.rd a) hi lo (v.toNat % limit), s)

/-- The write-only registers: a read returns zero (R9). -/
def writeOnly (r : RegName) : Bool :=
  [RegName.MBQ_ABORT, .LED_RESOLVE, .DSP_SUBMIT, .UPD_TRIGGER, .SYN_MADV, .LNK_CTL, .COL_SUBMIT, .COL_RX, .COL_VOTE_RX, .CMD_DB_PI,
    .CMD_DB_CQH, .CMD_RING_CTL, .MBX_SEND, .MBX_ACK, .CGT_CTL, .DEM_CTL, .ERR_FIRST_CLR].contains r

/-- What a read of a register returns: the stored value, or what the device computes from its state. -/
def State.regValue (s : State) (h : RegHit) (a : Nat) : Word × State :=
  if writeOnly h.row.name then (0, s) else
  let n := h.i 0
  let x := h.i 1
  let q := if h.row.hubIx then 4096 + x else n * 1024 + x
  match h.row.name with
  | .CAD_DIE_CTX => (w (maskOf 32 (s.ctxValid n) + at_ 32 (maskOf 32 (s.ctxBackhaul n))), s)
  | .CAD_EVT_SUMMARY => (w (maskOf 32 fun k => s.rd (Reg.CAD_EVT n k) != 0), s)
  | .MBQ_POOL => (w (s.rdB a 31 0 + at_ 32 (s.usedPages n x).length), s)
  | .MBQ_CTX => (putBits (s.rd a) 8 0 (s.busyCtxs n x).length, s)
  | .MBQ_HEAD => (w (s.headSeq (s.stg n x).inFwd + at_ 32 (s.headSeq (s.stg n x).inBwd)), s)
  | .MBQ_STATUS => (putBits (s.rd a) 1 0
      ((if s.hasHead (s.stg n x).inFwd then 1 else 0) + (if s.hasHead (s.stg n x).inBwd then 2 else 0)), s)
  | .MBQ_EVT_SUMMARY => (w (maskOf 32 fun k => s.rd (Reg.MBQ_EVT n k) != 0), s)
  | .MX_ID => (w (16 * n + x + at_ 8 (0x80 + 16 * n + x)), s)
  | .UPD_ID => (w (4 * n + x + at_ 8 (0xC0 + 4 * n + x)), s)
  | .GC_ID => (w (32 * n + x + at_ 8 (32 * n + x)), s)
  | .UPD_TQ_STATUS => (s.updTqStatus n, s)
  | .QU_OCC => (w (s.qOcc q % 2 ^ 32 + at_ 32 (s.qEntries q)), s)
  | .QU_HEAD => (s.qHeadWord q false, s)
  | .SYN_MS => (w (s.msVal (4096 * n + x)), s)
  | .OFL_FRAMES => (s.oflFrames n, s)
  | .OFL_STATUS => (s.oflStatus n, s)
  | .OFL_QUEUE => (s.oflFree, s)
  | .MEM_STK_ID => (w (n + at_ 3 (n / 2) + at_ 8 96), s)
  | .MEM_STK_STATUS => s.freeField a 15 8 105
  | .MEM_EVT_SUMMARY => (w (maskOf 8 (fun k => s.rd (Reg.MEM_EVT k) != 0) + at_ 8 (maskOf 4 fun k => s.rd (Reg.MEM_OS_EVT k) != 0)), s)
  | .LNK_ID => (w (n + at_ 4 (n / 2) + at_ 8 (2 * n)), s)
  | .LNK_SEQ => (s.lnkSeq n, s)
  | .LNK_CR_AVAIL => (s.lnkAvail n, s)
  | .LNK_SUMMARY => (s.lnkSummary, s)
  | .FAB_TAG_STATUS => (w (s.tagsHeld + at_ 16 s.tagsQuar + at_ 32 (min 65535 s.tagWaits.length)), s)
  | .COL_STATUS => (s.colStatus, s)
  | .CMD_RING_STATUS => (s.ringStatus n, s)
  | .CMD_STATUS => (s.cmdStatus, s)
  | .CMD_EVT_SUMMARY => (w (maskOf 16 fun r => s.rd (Reg.CMD_RING_EVT r) != 0), s)
  | .CLK_TIME => (w s.now, s)
  | .CLK_ARITH => (s.clkArith, s)
  | .SEC_STATUS => (putBits (s.rd a) 20 20 (s.rdB Reg.SEC_LOCK 0 0), s)
  | .SEC_MEAS => (if 12 ≤ n then s.rd (nth mnfRegs (n - 12) 0) else s.rd a, s)
  | .CGT_STATUS => (putBits (s.rd a) 16 8 s.guestResp.length, s)
  | .DEM_OVF_SUMMARY => (s.demSummary n, s)
  | .ERR_STATUS => (s.errStatus n, s)
  | _ => (s.rd a, s)

/-- A read of a register by a master: the status before the value is read (R385, R401). -/
def State.readStatus (s : State) (master src : Nat) (h : RegHit) : Nat × State :=
  let n := h.i 0
  match h.row.name with
  | .CMD_CQ_BASE | .CMD_CQ_CFG | .CMD_DB_PI | .CMD_DB_CQH | .CMD_RING_STATUS | .CMD_RING_IDX | .CMD_CQ_PTR | .CMD_RING_CTL
  | .CMD_RING_EVT | .CMD_RING_EVT_EN | .CMD_RING_CNT =>
    (if master = 0xE4 ∨ s.ringParty n master src then St.ok else St.denied, s)
  | .MBX_DATA =>
    if s.mbxValid n && (s.mbxIs n (s.mbxSender n) master src || s.mbxIs n (s.mbxReceiver n) master src) then (St.ok, s)
    else s.mbxDeny master n
  | .MBX_SEND | .MBX_ACK | .MBX_STATUS => if s.mbxValid n then (St.ok, s) else s.mbxDeny master n
  | _ => (St.ok, s)

/-! ### The customs gate -/

def State.gateOpen (s : State) : Bool := s.rdB Reg.CGT_STATUS 0 0 == 1

/-- A master may reach the guest window (R447). -/
def State.guestAllowed (s : State) (master : Nat) : Bool :=
  s.gateOpen && (isMgmt master || (decide (master < 128) && s.rdB Reg.CGT_CFG 16 16 == 1 && s.jobOn))

end Sys2Proof.Machine
end

