-- ==== Sys2Proof/Machine/Access.lean ====
section
/-!
DEFINITION. Which accesses to memory the device admits: the address map, the reserved regions and the diagnostic windows
(R8, R23, R24, R42), the command processor's limits (R394) and the debug path (R477). Register accesses are in Bus.lean.
-/

namespace Sys2Proof.Machine

/-- A permission of the accepted debug token (R441, R477): bit 0 CORES, 1 MEM, 2 MGMT, 3 EXTEST. -/
def State.perm (s : State) (i : Nat) : Bool := bit (s.rd Reg.SEC_DBG_STATUS) i

/-- The device ID and the local address of a global address (R23). -/
def gaDev (a : Nat) : Nat := a / 2 ^ 46 % 2 ^ 18
def gaLocal (a : Nat) : Nat := a % 2 ^ 46

/-- An address lies in a region reserved to firmware (R42). -/
def reservedRegion (a : Nat) : Bool :=
  match placeOf a with
  | .lpddr a => decide (fwBase ≤ a)
  | .sram _ off => decide (sramBytes - 0x200000 ≤ off)
  | _ => false

/-- Two addresses, the second above the first, lie in one range of the map, or in two that adjoin: the diagnostic windows and the
control spaces leave no gap, and command memory lies in the hub's control space (R8). -/
def samePlace (a b : Nat) : Bool :=
  match placeOf a, placeOf b with
  | .lpddr _, .lpddr _ => true
  | .sram n _, .sram m _ => n == m
  | .diag _ _, .diag _ _ => true
  | .ctl _ _, .ctl _ _ => true
  | .ctl _ _, .cmdMem _ => true
  | .cmdMem _, .ctl _ _ => true
  | .cmdMem _, .cmdMem _ => true
  | .guest _, .guest _ => true
  | _, _ => false

/-- An address of this device lies in LPDDR or in an operand store. -/
def dataPlace (a : Nat) : Bool :=
  match placeOf a with
  | .lpddr _ => true
  | .sram _ _ => true
  | .diag _ _ => true
  | _ => false

/-- The access is naturally aligned and 4 or 8 bytes wide (R7). -/
def regAligned (a n : Nat) : Bool := (n == 4 || n == 8) && a % n == 0

/-- A local address lies in the guest window. -/
def inGuest (a : Nat) : Bool :=
  match placeOf a with
  | .guest _ => true
  | _ => false

/-- The dispatch unit or the inbox that runs reaches the guest window under its core's ID (R22, R26, R220, R447). -/
def State.guestReach (s : State) (master : Nat) : Bool := s.guestRun.isSome && s.guestAllowed master

/-- The status of an access of `n` bytes at local address `a` by a master, as far as its address and its master decide it
(R7, R8, R23, R24, R42, R384, R394). Who may write a register is `unitMayWrite` below, or the register bus in Bus.lean. -/
def State.memCheck (s : State) (master a n : Nat) : Nat :=
  let last := a + (n - 1)
  if !samePlace a last then
    (if (inGuest a || inGuest last) && !s.guestReach master then St.gatedeny else St.unmapped)
  else match placeOf a with
  | .lpddr _ =>
    let fw := reservedRegion a || reservedRegion last
    if isMgmt master then St.ok
    else if master = 0xE4 then (if fw then (if s.perm 2 then St.ok else St.denied) else if s.perm 1 then St.ok else St.denied)
    else if fw then St.denied
    else if s.jobState = 5 then St.denied
    else if 0xD0 ≤ master ∧ master ≤ 0xD3 ∧ !s.jobOn then St.denied
    else St.ok
  | .sram _ _ =>
    let fw := reservedRegion a || reservedRegion last
    if isMgmt master then St.ok
    else if master = 0xE4 then (if fw then (if s.perm 2 then St.ok else St.denied) else if s.perm 1 then St.ok else St.denied)
    else if fw then St.denied
    else if 0xD0 ≤ master ∧ master ≤ 0xD3 ∧ !s.jobOn then St.denied
    else St.ok
  | .diag _ _ =>
    if isMgmt master ∨ master = 0xE4 ∧ s.perm 1 then
      match s.memKey a, s.memKey last with
      | some _, some _ => St.ok
      | _, _ => St.unmapped
    else St.denied
  | .ctl _ off => if regAligned off n then St.ok else St.misalign
  | .cmdMem off => if 0x2000 < off % 0x2000 + n then St.misalign else if isMgmt master then St.ok else St.denied
  | .guest _ => if s.guestReach master then St.ok else St.gatedeny
  | _ => St.unmapped

/-- Pieces of a range that do not cross a 2 KiB granule (R294), as key addresses and lengths. -/
def State.granules (s : State) : Nat → Nat → Nat → List (Nat × Nat)
  | 0, _, _ => []
  | k + 1, a, n =>
    if n = 0 then [] else
    let l := min n (2048 - a % 2048)
    ((s.memKey a).getD 0, l) :: s.granules k (a + l) (n - l)

/-- The parts of a request, one for each granule it touches. -/
def State.parts (s : State) (a n : Nat) : List (Nat × Nat) := s.granules (n / 2048 + 2) a n

/-- Read the parts of a request: one status under R13, the bytes when it is OK (R303), and the first blocks of the parts that
meet POISON. -/
def State.readParts (s : State) : List (Nat × Nat) → Nat × List Byte × List Nat × State
  | [] => (St.ok, [], [], s)
  | (a, n) :: ps =>
    let (st, bs, s) := s.partRead a n
    let (st', bs', ks, s) := State.readParts s ps
    let j := St.join st st'
    (j, if j = 0 then bs ++ bs' else [], if st = St.poison then a / 64 * 64 :: ks else ks, s)

/-- A part of a write meets a poisoned block that it does not cover whole (R304). -/
def State.partPoisoned (s : State) (p : Nat × Nat) : Bool :=
  (blocksOf p.1 p.2).any fun b =>
    s.par.get b 0 == 0xFFFF && !(decide (p.1 ≤ b) && decide (b + 64 ≤ p.1 + p.2))

/-- Write the parts of a request. -/
def State.writeParts (s : State) : List (Nat × Nat) → List Byte → State
  | [], _ => s
  | (a, n) :: ps, bs => State.writeParts (s.memPut a (bs.take n)) ps (bs.drop n)

/-- The bursts that the parts of a write must read first: one status under R13, and the first blocks of the parts that meet
POISON. -/
def State.mergeParts (s : State) : List (Nat × Nat) → Nat × List Nat × State
  | [] => (St.ok, [], s)
  | (a, n) :: ps =>
    let (st, s) := s.mergeRead a n
    let (st', ks, s) := State.mergeParts s ps
    (St.join st st', if st = St.poison then a / 64 * 64 :: ks else ks, s)

/-! ### Control space, as a unit with no register bus of its own reaches it -/

/-- A unit may write a register, or its write is ignored; any other write completes with DENIED. -/
def State.unitMayWrite (s : State) (master : Nat) (h : RegHit) : Bool :=
  match h.row.writer with
  | .mgmt | .rstCfg => isMgmt master
  | .ring => s.ringParty (h.i 0) master s.devId
  | .colRx => master == 0xD5
  | _ => true

/-- A register read by a unit (R8, R9, R385, R401). -/
def State.ctlLoad (s : State) (master a n : Nat) : Nat × List Byte × State :=
  match regFind a with
  | none => (St.ok, zeroBytes n, s)
  | some h =>
    let (st, s) := s.readStatus master s.devId h
    if st ≠ 0 then (st, [], s) else
    let (v, s) := s.regValue h (h.addr a)
    (St.ok, ((toBytes 8 v.toNat).drop h.byte).take n, s)

/-- A register write by a unit: admitted here, and applied by the register bus at the next tick (log entry 76). One that no write
changes, or that belongs to a mailbox channel, is answered as a read of it is (R385, R401). -/
def State.ctlStore (s : State) (master a : Nat) (bs : List Byte) : Nat × State :=
  match regFind a with
  | none => (St.ok, s)
  | some h =>
    if !s.unitMayWrite master h then (St.denied, s) else
    let (st, s) := if h.row.writer = .ro ∨ h.row.writer = .mailbox then s.readStatus master s.devId h else (St.ok, s)
    if st ≠ 0 then (st, s) else (St.ok, { s with busLate := s.busLate ++ [(master, a, bs)] })

/-! ### The guest window, as a dispatch unit or an inbox reaches it (log entry 98) -/

/-- Pieces of a range of the guest window that do not cross a 2 KiB boundary (R340), as addresses and lengths. -/
def guestPieces : Nat → Nat → Nat → List (Nat × Nat)
  | 0, _, _ => []
  | k + 1, a, n =>
    if n = 0 then [] else
    let l := min n (2048 - a % 2048)
    (a, l) :: guestPieces k (a + l) (n - l)

/-- The guest's answer to an access, if it has come; else the access is one that the unit must ask for. -/
def State.guestTake (s : State) (q : GuestAsk) : Nat × List Byte × State :=
  let rs := s.guestRun.getD []
  match s.guestAsk, rs.find? fun r => decide (r.ask = q) with
  | none, some r => (r.status, r.data, { s with guestRun := some (rs.erase r) })
  | none, none => (St.gatedeny, [], { s with guestAsk := some q })
  | some _, _ => (St.gatedeny, [], s)

/-- Read pieces of the guest window: one status under R13. -/
def State.guestRead (s : State) (m : Nat) : List (Nat × Nat) → Nat × List Byte × State
  | [] => (St.ok, [], s)
  | (a, n) :: ps =>
    let (st, bs, s) := s.guestTake ⟨m, 1, a, n, []⟩
    let (st', bs', s) := State.guestRead s m ps
    let j := St.join st st'
    (j, if j = 0 then fitBytes n bs ++ bs' else [], s)

/-- Write pieces of the guest window: one status under R13. -/
def State.guestPut (s : State) (m : Nat) : List (Nat × Nat) → List Byte → Nat × State
  | [], _ => (St.ok, s)
  | (a, n) :: ps, bs =>
    let (st, _, s) := s.guestTake ⟨m, 3, a, n, bs.take n⟩
    let (st', s) := State.guestPut s m ps (bs.drop n)
    (St.join st st', s)

/-- Read by local address for a master: status and bytes. -/
def State.load (s : State) (master a n : Nat) : Nat × List Byte × State :=
  let st := s.memCheck master a n
  if st ≠ 0 then (st, [], s) else if n = 0 then (st, [], s) else
  match placeOf a with
  | .ctl _ _ => s.ctlLoad master a n
  | .guest _ => s.guestRead master (guestPieces (n / 2048 + 2) a n)
  | _ =>
    let ps := s.parts a n
    let (st, bs, ks, s) := s.readParts ps
    (s.countPoison st ks).readFlit ((ps.headD (0, 0)).1) n st bs

/-- Write by local address for a master: status; nothing is written when it is not OK. -/
def State.store (s : State) (master a : Nat) (bs : List Byte) : Nat × State :=
  let st := s.memCheck master a bs.length
  if st ≠ 0 then (st, s) else
  match placeOf a with
  | .ctl _ _ => s.ctlStore master a bs
  | .guest _ => s.guestPut master (guestPieces (bs.length / 2048 + 2) a bs.length) bs
  | _ =>
    let ps := s.parts a bs.length
    if ps.any s.partPoisoned then (St.poison, s.countPoison St.poison ((ps.filter s.partPoisoned).map fun p => p.1 / 64 * 64))
    else
      let (st, ks, s) := s.mergeParts ps
      if st ≠ 0 then (st, s.countPoison st ks) else
      (St.ok, (s.writeParts ps bs).writeFlit ((ps.headD (0, 0)).1) bs.length)

/-- A state with the memory system as another has left it: what an access did there stays although its instruction has no
effect. -/
def State.memoryOf (s t : State) : State :=
  { s with
    jnl := t.jnl, errBuf := t.errBuf, freeIx := t.freeIx, par := t.par, glitch := t.glitch, flits := t.flits
    stackWin := t.stackWin, busLate := t.busLate }

/-- `n` free bytes (log entry 5). -/
def State.freeBytes (s : State) (n : Nat) : List Byte × State :=
  let k := ceilDiv n 8
  let bs := ((List.range k).map fun i => toBytes 8 (Config.freeBits (s.freeIx + i)).toNat).flatten
  (bs.take n, { s with freeIx := s.freeIx + k })

/-- Memory whose bytes the spec calls unspecified after an operation of a master: free bytes in every 64-byte block of the range that
the master may write, whatever the rest of the range is. -/
def State.scrambleBlocks (s : State) (master : Nat) : Nat → Nat → Nat → State
  | 0, _, _ => s
  | k + 1, a, n =>
    if n = 0 then s else
    let l := min n (64 - a % 64)
    let t := match s.memKey a with
      | some key =>
        if s.memCheck master a l = 0 then
          let (bs, s) := s.freeBytes l
          s.rawWrite key bs
        else s
      | none => s
    State.scrambleBlocks t master k (a + l) (n - l)

def State.scramble (s : State) (master a n : Nat) : State := s.scrambleBlocks master (n / 64 + 2) a n

end Sys2Proof.Machine
end

