-- ==== Sys2Proof/Machine/Units.lean ====
section
/-!
DEFINITION. Stages, engines and cores as the stage controller sees them: contexts, starting the units of a slot (R148,
R257), faults that stop a stage (R171, R265), and waiting units that go on (R272, R282, R284).
-/

namespace Sys2Proof.Machine

def State.setStg (s : State) (n x : Nat) (g : StageCtx) : State := { s with stages := s.stages.set (sk n x) g {} }

def State.setMbc (s : State) (n x c : Nat) (m : MbCtx) : State := { s with mbs := s.mbs.set (mbKey n x c) m {} }
def State.eng (s : State) (e : Nat) : Engine := s.engines.get e {}
def State.setEng (s : State) (e : Nat) (g : Engine) : State := { s with engines := s.engines.set e g {} }
def State.core (s : State) (c : Nat) : Core := s.cores.get c {}
def State.setCore (s : State) (c : Nat) (g : Core) : State := { s with cores := s.cores.set c g {} }

def State.ctxHosts (s : State) (n x : Nat) : Bool := s.rdB (Reg.CAD_CTX_CFG n x) 2 2 == 1
def State.ctxPartner (s : State) (n x : Nat) : Nat := s.rdB (Reg.CAD_CTX_CFG n x) 7 3
def State.slotCount (s : State) (n x : Nat) : Nat := s.rdB (Reg.CAD_CTX_CFG n x) 16 8
def State.nfOf (s : State) (n x : Nat) : Nat := s.rdB (Reg.CAD_CTX_CFG n x) 25 17

/-- Set CAD_STATUS.STATE: 0 stopped, 1 working, 2 waiting, 3 padding, 4 switched to backhaul, 5 suspended. -/
def State.cadState (s : State) (n x st : Nat) : State := s.wrB (Reg.CAD_STATUS n x) 10 8 st

/-- Registers of matrix engine e and general core c by package index (R21). -/
def mxReg (f : Nat → Nat → Nat) (e : Nat) : Nat := f (e / 16) (e % 16)
def gcReg (f : Nat → Nat → Nat) (c : Nat) : Nat := f (c / 32) (c % 32)

def State.mxState (s : State) (e : Nat) : Nat := s.rdB (mxReg Reg.MX_STATUS e) 2 0

def State.gov (s : State) (n : Nat) : Gov := s.govs.get n {}

/-- No engine of a die issues: its governor pauses matrix-engine issue (R416), in the first `pause` ticks of each round of 10,000
(log entry 94); or its arithmetic clock stands while the operating point changes (R412). -/
def State.mxPaused (s : State) (e : Nat) : Bool :=
  decide (s.now % 10000 < (s.gov (e / 16)).pause) || decide (s.now < (s.gov (e / 16)).halt)
def State.gcState (s : State) (c : Nat) : Nat := s.rdB (gcReg Reg.GC_STATUS c) 2 0
def State.setMxState (s : State) (e st : Nat) : State := s.wrB (mxReg Reg.MX_STATUS e) 2 0 st

/-- A core's state changes: time that it ran or waited before counts at the next tick. -/
def State.setGcState (s : State) (c st : Nat) : State :=
  let g := s.core c
  let old := s.gcState c
  let s := s.setCore c { g with ran := g.ran || old == 1, waited := g.waited || old == 2 }
  s.wrB (gcReg Reg.GC_STATUS c) 2 0 st

/-- A stage stops: no slot completes or starts until unload (R171, R265, R488). -/
def State.stopStage (s : State) (n x : Nat) : State :=
  let s := s.setStg n x { s.stg n x with running := false }
  s.cadState n x 0

/-- The stage of the stream or image that a unit runs. -/
def State.mxStage (s : State) (e : Nat) : Nat × Nat := (e / 16, s.rdB (mxReg Reg.MX_STATUS e) 12 8)
def State.gcStage (s : State) (c : Nat) : Nat × Nat := (c / 32, s.rdB (gcReg Reg.GC_STATUS c) 12 8)

/-- The stage that the unit works for has stopped. -/
def State.stageStopped (s : State) (nx : Nat × Nat) : Bool := !(s.stg nx.1 nx.2).running

/-- A matrix engine faults (R171): code, status, address and instruction word are recorded, the stage stops. -/
def State.mxFault (s : State) (e code status addr : Nat) (word : Word) : State :=
  let pc := s.rdB (mxReg Reg.MX_STATUS e) 28 16
  let s := s.wr (mxReg Reg.MX_FAULT e) (w (code + at_ 8 status + at_ 16 pc))
  let s := s.wr (mxReg Reg.MX_FAULT_WORD e) word
  let s := s.wr (mxReg Reg.MX_FAULT_ADDR e) (w addr)
  let s := s.setMxState e 4
  let nx := s.mxStage e
  let s := s.raise nx.1 Blk.mx (mxReg Reg.MX_EVT e) (mxReg Reg.MX_EVT_EN e) 2
    { status := status, master := 0x80 + e, unit := nx.2, at0 := some (mxReg Reg.MX_FAULT e)
      at1 := some (mxReg Reg.MX_FAULT_ADDR e) }
  s.stopStage nx.1 nx.2

/-- A general core takes an exception (R265): the core monitor stops it at the instruction and records the cause, the
status, the PC and mtval; the stage stops. -/
def State.gcFault (s : State) (c cause status : Nat) (val : Word) : State :=
  let s := s.wr (gcReg Reg.GC_FAULT_PC c) (s.rd (gcReg Reg.GC_PC c))
  let s := s.wr (gcReg Reg.GC_FAULT c) (w (cause + at_ 8 status + at_ 16 1))
  let s := s.wr (gcReg Reg.GC_FAULT_VAL c) val
  let s := s.setCore c { s.core c with wait := .none, since := none }
  let s := s.setGcState c 3
  let nx := s.gcStage c
  let info : EvInfo := { status := status, master := c, unit := nx.2, at0 := some (gcReg Reg.GC_FAULT c)
                         at1 := some (gcReg Reg.GC_FAULT_VAL c) }
  let s := s.raise nx.1 Blk.gc (gcReg Reg.GC_EVT c) (gcReg Reg.GC_EVT_EN c) 0 info
  let s := if cause = 24 then
      s.raise nx.1 Blk.gc (gcReg Reg.GC_EVT c) (gcReg Reg.GC_EVT_EN c) 1 info
    else s
  s.stopStage nx.1 nx.2

/-- Register x of a core; x0 reads as zero. -/
def Core.getX (g : Core) (r : Nat) : Word := if r = 0 then 0 else nth g.x r 0

/-- Write register x of a core; x0 discards. -/
def Core.setX (g : Core) (r : Nat) (v : Word) : Core := if r = 0 then g else { g with x := setNth g.x r v }

/-- A core retires its instruction: the PC moves to `pc`, counters advance, the core runs on. -/
def State.gcRetire (s : State) (c pc : Nat) : State :=
  let s := s.wr (gcReg Reg.GC_PC c) (w pc)
  let s := s.addB (gcReg Reg.GC_CNT_INSTR c) 63 0 1
  let g := s.core c
  let s := s.setCore c { g with instret := g.instret + 1, wait := .none, since := none }
  s.setGcState c 1

/-- A core retires a 4-byte instruction that writes `v` to register `rd`. -/
def State.gcDone (s : State) (c rd : Nat) (v : Word) : State :=
  let s := s.setCore c ((s.core c).setX rd v)
  s.gcRetire c ((s.rd (gcReg Reg.GC_PC c)).toNat + 4)

/-- The core invalidates its whole data cache (R254). -/
def State.gcInval (s : State) (c : Nat) : State := s.setCore c { s.core c with dcache := [] }

/-- An engine goes to its next instruction word. -/
def State.mxNext (s : State) (e : Nat) : State :=
  let s := s.setEng e { s.eng e with wait := .none }
  let s := s.wrB (mxReg Reg.MX_STATUS e) 28 16 (s.rdB (mxReg Reg.MX_STATUS e) 28 16 + 1)
  let s := s.setMxState e 1
  s.addB (mxReg Reg.MX_CNT_INSTR e) 63 0 1

/-- A barrier releases a unit: a core's BARR retires and its cache is invalidated (R254), an engine's BAR ends. A unit of a stopped
stage has stopped at its waiting instruction, and stays (R171, R265, log entry 92). -/
def State.releaseUnit (s : State) (o : Owner) : State :=
  match o with
  | .core c => if s.stageStopped (s.gcStage c) then s else (s.gcDone c 0 0).gcInval c
  | .engine e => if s.stageStopped (s.mxStage e) then s else s.mxNext e
  | _ => s

/-- Units whose milestone wait is now satisfied go on (R282): a core's MWAIT retires and invalidates its data cache, an
engine's WAITM ends. -/
def State.msRelease (s : State) : State :=
  let s := s.cores.foldl (fun s e =>
    match (s.core e.1).wait with
    | .ms m t => if t ≤ s.msVal m then s.releaseUnit (.core e.1) else s
    | _ => s) s
  s.engines.foldl (fun s e =>
    match (s.eng e.1).wait with
    | .ms m t => if t ≤ s.msVal m then s.releaseUnit (.engine e.1) else s
    | _ => s) s

/-- Advance a milestone counter and release its waiters (R282). -/
def State.msAdd (s : State) (m amount : Nat) : State := (s.msAdvance m amount).msRelease

def State.dsp (s : State) (n : Nat) : Dsp := s.dsps.get n {}
def State.setDsp (s : State) (n : Nat) (d : Dsp) : State := { s with dsps := s.dsps.set n d {} }
def State.ibx (s : State) (n i : Nat) : Inbox := s.inboxes.get (n * 64 + i) {}
def State.setIbx (s : State) (n i : Nat) (b : Inbox) : State := { s with inboxes := s.inboxes.set (n * 64 + i) b {} }

/-- DSP_IBX_STATUS: the next position and the notices held for it (WAITSLOT as given). -/
def State.ibxStatus (s : State) (n i : Nat) (waits : Bool) : State :=
  let b := s.ibx n i
  let k := (b.held.filter fun h => h.1 == b.next).length
  s.wr (Reg.DSP_IBX_STATUS n i) (w (b.next % 2 ^ 32 + at_ 32 k + at_ 48 (if waits then 1 else 0)))

/-- The descriptor of an inbox has been accepted: the position is emitted (R223). -/
def State.ibxEmitted (s : State) (n i : Nat) : State :=
  let b := s.ibx n i
  let waits := s.rdB (Reg.DSP_IBX_STATUS n i) 48 48 == 1
  let s := s.setIbx n i { b with
    next := b.next + 1, held := b.held.filter fun h => decide (h.1 ≠ b.next), sending := false }
  let s := s.addB (Reg.DSP_IBX_EMITTED n i) 63 0 1
  s.ibxStatus n i waits

/-- A send of a unit has ended with a status (R261, R111, R218, R223). DESIGN CHOICE (log entry 88): a stage's descriptor that another
device refused other than for room or LINKDOWN counts as accepted. A QSEND that waits in a stopped stage does not retire (log
entry 92). -/
def State.sendEnded (s : State) (o : Owner) (status : Nat) : State :=
  match o with
  | .core c =>
    if (s.core c).wait = .attempt then s.gcDone c (s.core c).rd (w status)
    else if s.stageStopped (s.gcStage c) then s
    else if status = 0 then s.gcDone c 0 0
    else s.gcFault c (if status = St.qfull then 24 else 7) status (s.core c).waitVal
  | .stage n x => s.setStg n x { s.stg n x with sent := true }
  | .dispatch n => s.setDsp n { s.dsp n with accepted := (s.dsp n).accepted + 1 }
  | .inbox n i => s.ibxEmitted n i
  | _ => s

/-- Serve the waiting senders of a queue. -/
def State.qServe (s : State) (q : Nat) : State :=
  let (os, s) := s.qService q
  os.foldl (fun s e => s.sendEnded e.1 e.2) s

/-- Remove a queue's head and let its waiting senders in (R272, R275). -/
def State.qPop (s : State) (q : Nat) : State := (s.qRemove q).qServe q

/-- Senders that wait for room in a queue in which a round has opened meanwhile are later contributions of that round, which
never wait (R280). -/
def State.serveRounds (s : State) : State :=
  s.sendWaits.foldl (fun s e => if s.qValid e.q ∧ s.rdB (Reg.QU_TALLY e.q) 29 29 = 1 then s.qServe e.q else s) s

/-- The base of LEA space 0 of a tensor (R151): its placed address; free for a ledgered shard, which has none (R35). -/
def State.tensorBase (s : State) (t : Nat) : Nat :=
  let x := s.tensors.get t {}
  if x.ledger.isSome then (Config.shardBase t).toNat * 2048 else x.addr

/-! ### Starting the units of a slot -/

/-- Descriptor fields (R91). -/
def dSeq (d : List Byte) : Nat := leAt d 0 4
def dLength (d : List Byte) : Nat := leAt d 4 4
def dStep (d : List Byte) : Nat := leAt d 8 4
def dFlags (d : List Byte) : Nat := leAt d 12 2
def dActAddr (d : List Byte) : Nat := leAt d 16 8
def dActBytes (d : List Byte) : Nat := leAt d 24 4
def dRetQueue (d : List Byte) : Nat := leAt d 28 2
def dRetDev (d : List Byte) : Nat := leAt d 32 4 % 2 ^ 18
def dVersion (d : List Byte) : Nat := leAt d 40 8
def dMask (d : List Byte) : Nat := leAt d 48 8
def dUser (d : List Byte) : Nat := leAt d 56 8
def dConvoyEnd (d : List Byte) : Bool := dFlags d % 2 == 1
def dRefused (d : List Byte) : Bool := dFlags d / 2 % 2 == 1

/-- The descriptor with FLAGS.REFUSED set (R93). -/
def dSetRefused (d : List Byte) : List Byte := putLe d 12 2 ((dFlags d).lor 2)

/-- The descriptor with its VERSION written (R93). -/
def dSetVersion (d : List Byte) (v : Word) : List Byte := putLe d 40 8 v.toNat

/-- Start one engine at its entry (R148). A sidecar region that no LDS has written reads as zero (DESIGN CHOICE, log entry
106). -/
def State.startEngine (s : State) (e rank cnt x : Nat) (bh bwd : Bool) (d : List Byte) : State :=
  let g := s.eng e
  let st := if bh then g.backhaul else g.primary
  let entry := if bwd then st.entryBwd else st.entryFwd
  if bwd ∧ entry = 0xFFFFFFFF then s else
  let prof := if bwd then st.bwdProf else st.fwdProf
  let ix := [w (dLength d), w rank, w cnt, w (dSeq d), w (dStep d), w (dMask d)] ++ List.replicate 10 0
  let s := s.setEng e { g with
    ix := ix, ixTag := List.replicate 16 0, ixHandle := List.replicate 16 0, loops := List.replicate 4 0
    acc := [], live := 0, sat := 0, scales := [], amax := none, cand := [], candKey := (0, 0), wait := .none
    bufA := if g.bufA.isEmpty then [{}, {}] else g.bufA
    bufB := if g.bufB.isEmpty then [{}, {}] else g.bufB
    side := if g.side.isEmpty then [[], []] else g.side }
  let s := s.wr (mxReg Reg.MX_PROF_A e) (nth prof 0 0)
  let s := s.wr (mxReg Reg.MX_PROF_B e) (nth prof 1 0)
  let s := s.wr (mxReg Reg.MX_PROF_O e) (nth prof 2 0)
  s.wr (mxReg Reg.MX_STATUS e) (w (1 + at_ 8 x + at_ 13 (if bh then 1 else 0) + at_ 16 entry))

/-- Start one core at its entry (R257): U-mode, the registers of the table, every other register zero, an empty data
cache (R254). -/
def State.startCore (s : State) (c rank cnt x : Nat) (bh bwd : Bool) (d : List Byte) : State :=
  let g := s.core c
  let im := if bh then g.backhaul else g.primary
  let entry := if bwd then im.entryBwd else im.entryFwd
  if bwd ∧ entry = 0xFFFFFFFF then s else
  let xs : List Word := List.replicate 32 0
  let xs := setNth xs 2 (w (0x3E0000000000 + im.stackTop))
  let xs := setNth xs 10 (w (dLength d))
  let xs := setNth xs 11 (w rank)
  let xs := setNth xs 12 (w cnt)
  let xs := setNth xs 13 (w (dSeq d))
  let xs := setNth xs 14 (w (dStep d))
  let xs := setNth xs 15 (w (dMask d))
  let s := s.setCore c { g with
    x := xs, f := List.replicate 32 0, v := List.replicate 32 0, fcsr := 0, vtype := 0, vl := 0, vstart := 0, vcsr := 0
    sel := if g.sel.isEmpty then List.replicate 16 {} else g.sel
    resv := none, dcache := [], replies := [], wait := .none, since := none }
  let s := s.wr (gcReg Reg.GC_PC c) (w (0x3E0100000000 + entry))
  s.wr (gcReg Reg.GC_STATUS c) (w (1 + at_ 8 x + at_ 13 (if bh then 1 else 0) + at_ 16 rank))

/-- Start every unit of a stage on the incoming descriptor (R148, R257). -/
def State.startUnits (s : State) (n x : Nat) (bwd : Bool) (d : List Byte) : State :=
  let g := s.stg n x
  let bh := s.ctxBackhaul n x
  let s := ((List.range g.engines.length).zip g.engines).foldl
    (fun s e => s.startEngine e.2 e.1 g.engines.length x bh bwd d) s
  ((List.range g.cores.length).zip g.cores).foldl (fun s e => s.startCore e.2 e.1 g.cores.length x bh bwd d) s

/-- Every unit of the stage has ended its part of the slot (R149, R258). -/
def State.unitsIdle (s : State) (n x : Nat) : Bool :=
  let g := s.stg n x
  g.engines.all (fun e => s.mxState e == 0) && g.cores.all (fun c => s.gcState c == 0)

end Sys2Proof.Machine
end

