-- ==== Sys2Proof/Machine/Errors.lean ====
section
/-!
DEFINITION. Error logs (R449 to R456, R463, R479) and demurrage (R458 to R461): writing the entries of a local cycle, consuming
them, and the demurrage counters of a context.
-/

namespace Sys2Proof.Machine

/-- The four words of an entry (R450) with its number. -/
def LogEnt.words (e : LogEnt) (num : Nat) : List Word :=
  [e.time, w (e.cls + at_ 8 e.status + at_ 16 e.block + at_ 24 e.event + at_ 32 e.master + at_ 40 e.unit + at_ 48 (num % 2 ^ 16)),
    e.info0, e.info1]

/-- The entry with INFO0 and INFO1 as the registers that they name hold them now (R453). -/
def State.infoNow (s : State) (e : LogEnt) : LogEnt :=
  { e with info0 := (e.at0.map s.rd).getD e.info0, info1 := (e.at1.map s.rd).getD e.info1 }

/-- Copy an entry to the notification queue, or discard the copy (R456). The entries that the send itself causes are not copied. -/
def State.errNotify (s : State) (e : LogEnt) (ws : List Word) : State :=
  let n := s.rd (Reg.ERR_NOTIFY e.log)
  if bit n 63 && s.jobOn && !e.sent then
    let k := s.errBuf.length
    let own (s : State) : State :=
      { s with errBuf := s.errBuf.take k ++ (s.errBuf.drop k).map fun (x : LogEnt) => { x with sent := true } }
    match s.qAccept (bits n 12 0) ((ws.map fun x => toBytes 8 x.toNat).flatten) true with
    | (.ok, s) => own s
    | (_, s) => (own s).wr (Reg.ERR_EVT e.log) (setBit (s.rd (Reg.ERR_EVT e.log)) 1)
  else s

/-- SMBALERT_N and the in-band interrupt for an entry of the hub log (R479). -/
def State.errAlert (s : State) (e : LogEnt) : State :=
  if e.log = 4 ∧ 3 ≤ e.cls then
    let s := { s with smbAlert := true }
    if s.dynAddr.isSome then s.emit (.interrupt 6) else s
  else s

/-- Write one entry (R454). -/
def State.errWrite (s : State) (e : LogEnt) : State :=
  let n := e.log
  let k := (s.rd (Reg.ERR_PROD n)).toNat
  let ws := (s.infoNow e).words k
  let s := if s.errHeld n = 256 then
      let s := s.wr (Reg.ERR_CONS n) (w ((s.rd (Reg.ERR_CONS n)).toNat + 1))
      let s := s.addB (Reg.ERR_STATUS n) 63 32 1
      s.wr (Reg.ERR_EVT n) (setBit (s.rd (Reg.ERR_EVT n)) 0)
    else s
  let put (s : State) (f : Nat → Nat) : State :=
    ((List.range 4).zip ws).foldl (fun s (x : Nat × Word) => s.wr (f x.1) x.2) s
  let s := put s (Reg.ERR_ENTRY n (k % 256))
  let s := if bit (s.rd (Reg.ERR_FIRST_INFO n)) 0 then s
    else (put s (Reg.ERR_FIRST n)).wr (Reg.ERR_FIRST_INFO n) 1
  let s := s.wr (Reg.ERR_PROD n) (w (k + 1))
  (s.errNotify e ws).errAlert e

/-- Write the entries of the cycle that has ended, in ascending BLOCK (R455). -/
def State.errFlush (s : State) : State :=
  (sortBy (fun (e : LogEnt) => e.block) s.errBuf).foldl (fun s e => s.errWrite e) { s with errBuf := [] }

/-- A write of ERR_CONS outside the allowed range has no effect (R463). -/
def State.errCons (s : State) (n : Nat) (v : Word) : State :=
  let p := (s.rd (Reg.ERR_PROD n)).toNat
  if p - 256 ≤ v.toNat ∧ v.toNat ≤ p then s.wr (Reg.ERR_CONS n) v else s

/-- A write of ERR_FIRST_CLR (R454). -/
def State.errFirstClr (s : State) (n : Nat) (v : Word) : State :=
  if bit v 0 then s.wr (Reg.ERR_FIRST_INFO n) 0 else s

/-! ### Demurrage -/

/-- The register of a demurrage counter: cause 0 to 7, or 8 for elapsed. -/
def demReg (n x c : Nat) : Nat := if c < 8 then Reg.DEM_CAUSE n x c else Reg.DEM_ELAPSED n x

/-- DEM_CTL.CLEAR (R461). -/
def State.demClear (s : State) (n x : Nat) (v : Word) : State :=
  if bit v 0 then
    let s := (List.range 9).foldl (fun s c => s.wr (demReg n x c) 0) s
    let s := s.wr (Reg.DEM_OVF n x) 0
    s.setStg n x { s.stg n x with demRem := [] }
  else s

/-- Count arithmetic cycles of a cause; the remainder below 16 is kept (R461). -/
def State.demCount (s : State) (n x c cycles : Nat) : State :=
  let g := s.stg n x
  let rs := if g.demRem.isEmpty then List.replicate 9 0 else g.demRem
  let t := nth rs c 0 + cycles
  let s := s.setStg n x { g with demRem := setNth rs c (t % 16) }
  s.addB (demReg n x c) 47 0 (t / 16)

/-- DEMURRAGE_OVERFLOW (R461): a counter that has reached its end sets its bit, once. -/
def fxDemurrageOverflow (n x c : Nat) (s : State) : State :=
  if c ≤ 8 ∧ s.rdB (demReg n x c) 47 0 = 2 ^ 48 - 1 ∧ !bit (s.rd (Reg.DEM_OVF n x)) c then
    let s := s.wr (Reg.DEM_OVF n x) (setBit (s.rd (Reg.DEM_OVF n x)) c)
    if bit (s.rd (Reg.DEM_EVT_EN n)) 0 then
      { s with errBuf := s.errBuf ++ [⟨n, w s.now, 7, 0, Blk.dem, c, 0xFF, x, 0, 0, none, none, false⟩] }
    else s
  else s

def execDemurrageOverflow (die : BitVec 2) (ctx : BitVec 5) (counter : BitVec 4) (s : State) :
    Host.Outcome State Fault Refusal := live s (fxDemurrageOverflow die.toNat ctx.toNat counter.toNat)

end Sys2Proof.Machine
end

