-- ==== Sys2Proof/Machine/FabricLow.lean ====
section
/-!
DEFINITION. Fabric requests as the block's units issue them: packets (R339), routes (R347 to R350), tags (R354 to R357),
small packets of units (R274, R332), and the transfers of bulk units. The received side is in Fabric.lean.
-/

namespace Sys2Proof.Machine

def State.setPort (s : State) (p : Nat) (x : Port) : State := { s with ports := s.ports.set p x {} }
def State.tagOf (s : State) (t : Nat) : Tag := s.tags.get t {}
def State.setTag (s : State) (t : Nat) (x : Tag) : State := { s with tags := s.tags.set t x {} }

/-! ### Packets (R339, R340) -/

/-- A packet's bytes: header, data, padding to 16. -/
def packetBytes (typ flags hops master dst src tag addr len op : Nat) (data : List Byte) : List Byte :=
  toBytes 1 typ ++ toBytes 1 flags ++ toBytes 1 hops ++ toBytes 1 master ++ toBytes 4 dst ++ toBytes 4 src ++ toBytes 4 tag
    ++ toBytes 8 addr ++ toBytes 2 len ++ toBytes 1 op ++ zeroBytes 5 ++ fitBytes (roundUp data.length 16) data

def pkType (b : List Byte) : Nat := leAt b 0 1
def pkTc (b : List Byte) : Nat := leAt b 1 1 % 4
def pkRefused (b : List Byte) : Bool := (leAt b 1 1).testBit 2
def pkHops (b : List Byte) : Nat := leAt b 2 1
def pkMaster (b : List Byte) : Nat := leAt b 3 1
def pkDst (b : List Byte) : Nat := leAt b 4 4
def pkSrc (b : List Byte) : Nat := leAt b 8 4
def pkTag (b : List Byte) : Nat := leAt b 12 4
def pkAddr (b : List Byte) : Nat := leAt b 16 8
def pkLen (b : List Byte) : Nat := leAt b 24 2
def pkOp (b : List Byte) : Nat := leAt b 26 1
def pkRsv (b : List Byte) : Nat := leAt b 27 5

/-- Bytes of data that a header announces (R340). A RESPONSE carries its LEN bytes when its status is OK (log entry 21);
the data of a packet of a reserved TYPE are none. -/
def pkDataLen (h : List Byte) : Nat :=
  match pkType h with
  | 3 => pkLen h
  | 4 => if pkOp h = 1 then 2 * pkLen h else pkLen h
  | 5 => pkLen h
  | 6 => 8
  | 8 => if pkOp h = 0 then pkLen h else 0
  | _ => 0

/-- Bytes of a whole packet. -/
def pkBytes (h : List Byte) : Nat := 32 + roundUp (pkDataLen h) 16

def pkData (b : List Byte) : List Byte := (b.drop 32).take (pkDataLen b)

/-- The credit class of a packet (R345). -/
def pkClass (b : List Byte) : Nat := if pkType b = 8 then 0 else pkTc b + 1

/-! ### Events -/

def State.rteEvent (s : State) (ev status : Nat) : State :=
  s.raise 4 Blk.rte Reg.RTE_EVT Reg.RTE_EVT_EN ev { status := status }

def State.fabEvent (s : State) (ev status master addr : Nat) : State :=
  s.raise 4 Blk.fab Reg.FAB_EVT Reg.FAB_EVT_EN ev
    { status := status, master := master, at0 := some Reg.FAB_LAST_STALE, info1 := w addr }

/-- Queue a packet to a port. -/
def State.toPort (s : State) (p : Nat) (b : List Byte) (tag : Option Nat) (transit : Bool) : State :=
  let x := s.port p
  s.setPort p { x with queue := x.queue ++ [⟨b, pkClass b, tag, transit⟩] }

/-- Send a response of this device by the route of its own DST (R347); one that cannot be routed is dropped and counted as
a response is (R350). -/
def State.sendResponse (s : State) (b : List Byte) : State :=
  match s.routeOf (pkSrc b) (pkDst b) (pkTc b) with
  | .port p => s.toPort p b none false
  | .noRoute => (s.addB Reg.RTE_CNT_DROP 31 0 1).rteEvent 0 St.unmapped
  | .noPort p => (s.addB (Reg.LNK_CNT_DOWN p) 63 48 1).rteEvent 2 St.linkdown

/-- A response (R340): the request's TC, MASTER and TAG, SRC and DST exchanged, data only with OK. -/
def State.responseTo (s : State) (req : List Byte) (status : Nat) (refused : Bool) (data : List Byte) : List Byte :=
  let data := if status = 0 then data else []
  packetBytes 8 (pkTc req + (if refused then 4 else 0)) (s.rdB Reg.RTE_CFG 5 0) (pkMaster req) (pkSrc req) (pkDst req)
    (pkTag req) 0 data.length status data

/-! ### Tags (R354, R356) -/

/-- A tag can be allocated: neither held nor in quarantine. -/
def Tag.free (t : Tag) : Bool := t.req.isNone && t.quar.isNone

/-- The lowest free tag from `k`, in a table in key order. -/
def lowestTag : Tbl Tag → Nat → Nat
  | [], k => k
  | (t, x) :: ts, k => if t < k then lowestTag ts k else if k < t then k else if x.free then k else lowestTag ts (k + 1)

def State.tagsFree (s : State) : Nat := 16384 - s.tagsHeld - s.tagsQuar

/-- The rank of a unit's requests at the tags (R297, R354). -/
def ownerRank : Owner → Nat
  | .stage _ _ => 2
  | .fire _ _ => 2
  | .led _ => 2
  | .cmd _ => 2
  | .mbx _ => 2
  | .copy _ => 0
  | .offload _ => 0
  | _ => 1

/-- The port of a unit in R297's numbering. -/
def ownerPort (o : Owner) (master : Nat) : Nat :=
  match o with
  | .stage n _ => 2 + n
  | .fire n _ => 2 + n
  | .led _ => 2
  | .cmd _ => 6
  | .mbx _ => 6
  | .dispatch n => 1024 + 65 * n
  | .inbox n i => 1025 + 65 * n + i
  | _ => 16 + 2 * master

/-- A master's ports are masked (R299). -/
def State.isMasked (s : State) (m : Nat) : Bool := s.masked.contains m

/-- A request may take a tag now (R354). -/
def State.tagFor (s : State) (r : FabReq) : Bool :=
  let free := s.tagsFree
  decide (0 < free) && (decide (2 ≤ ownerRank r.owner) || decide (s.rdB Reg.FAB_TAG_CFG 13 0 < free))

/-- The next waiting request that is granted a tag (R296): the highest rank, then the highest p, then the lowest port. -/
def State.nextWaiting (s : State) : List FabReq → Option FabReq
  | [] => none
  | r :: rs =>
    let prio (q : FabReq) : Nat := s.tagPrio.get (ownerPort q.owner q.master) 0
    match s.nextWaiting rs with
    | none => if s.tagFor r && !s.isMasked r.master then some r else none
    | some q =>
      let better : Bool := decide (ownerRank q.owner < ownerRank r.owner) ||
        (ownerRank q.owner == ownerRank r.owner && (decide (prio q < prio r) ||
          (prio q == prio r && decide (ownerPort r.owner r.master ≤ ownerPort q.owner q.master))))
      if s.tagFor r && better && !s.isMasked r.master then some r else some q

/-- A request has completed; its unit goes on when the completion is settled. -/
def State.fabEnd (s : State) (r : FabReq) (status : Nat) (refused : Bool) (data : List Byte) : State :=
  { s with fabDone := s.fabDone ++ [⟨r, status, refused, data⟩] }

/-- Release a tag; a request that completed without its response leaves it in quarantine (R356). -/
def State.tagRelease (s : State) (t : Nat) (retire : Bool) : State :=
  let q := s.rdB Reg.FAB_TMO 63 32
  s.setTag t { s.tagOf t with
    req := none, port := 16, since := 0, quar := if retire ∧ 0 < q then some (s.now + q) else none }

/-- A master ID that the device may issue: R22's table lists it and does not mark it reserved. -/
def masterListed (m : Nat) : Bool :=
  decide (m ≤ 0xD5) || (decide (0xE0 ≤ m) && decide (m ≤ 0xE4)) || m == 0xE8 || m == 0xF0

/-- The MASTER byte of the packets of die n's stage controller, which carries no master ID (R22): a free value among the IDs
that the device may issue (log entry 22). -/
def stageMasterId (n : Nat) : Nat :=
  let m := (Config.stageMaster n).toNat
  if masterListed m then m else m % 128

/-- The master ID in the small packets of a unit (R22, R220): a dispatch unit sends under the ID of the item that it runs, an
inbox under that of the core that enabled it, the mailboxes and the loader under that of management core 0. -/
def State.ownerMaster (s : State) : Owner → Nat
  | .core c => c
  | .dispatch n => match (s.dsp n).run with
    | some r => r.req.master
    | none => 32 * n
  | .inbox n i => (s.ibx n i).master
  | .copy ch => 0xD1 + ch
  | .offload _ => 0xD4
  | .col _ => 0xD5
  | .vote => 0xD5
  | .stage n _ => stageMasterId n
  | .fire n _ => stageMasterId n
  | .led _ => stageMasterId 0
  | .mbx _ => 0xE0
  | .load => 0xE0
  | _ => 0xD0

/-- This device may originate requests: its ID is valid (R338). -/
def State.mayOriginate (s : State) : Bool := bit (s.rd Reg.RTE_SELF) 63

/-- LEN of a response fits its request: the bytes of data that it carries. -/
def responseFits (r : FabReq) (b : List Byte) : Bool :=
  pkLen b == if pkOp b = 0 ∧ (r.typ = 1 ∨ r.typ = 2 ∨ r.typ = 4) then r.len else 0

/-- A packet is the response that completes the request of a tag (R355). -/
def Tag.answered (g : Tag) (t : Nat) (b : List Byte) : Bool :=
  match g.req with
  | some r => pkType b == 8 && pkTag b % 2 ^ 14 == t && pkTag b / 2 ^ 14 == g.gen && pkSrc b == r.dst && responseFits r b
  | none => false

/-- The response of a tag's request has reached this device (R356). -/
def State.responseHere (s : State) (t : Nat) : Bool :=
  s.ports.any fun e => e.2.inq.any fun b => pkDst b == s.devId && (s.tagOf t).answered t b

/-- Send a request that holds tag `t` to its port, or complete it where it cannot be routed (R350). -/
def State.fabSend (s : State) (t : Nat) (r : FabReq) : State :=
  let g := s.tagOf t
  let b := packetBytes r.typ r.tc (s.rdB Reg.RTE_CFG 5 0) r.master r.dst s.devId
    (t + at_ 14 g.gen) r.addr r.len r.op r.data
  match s.routeOf s.devId r.dst r.tc with
  | .port p => (s.setTag t { g with port := p }).toPort p b (some t) false
  | .noRoute => ((s.tagRelease t false).rteEvent 0 St.unmapped).fabEnd r St.unmapped false []
  | .noPort _ => ((s.tagRelease t false).rteEvent 2 St.linkdown).fabEnd r St.linkdown false []

/-- Allocate the lowest free tag to a request, with the next generation (R354), and send it. A device without a valid ID
originates nothing (R338): the request ends with LINKDOWN and takes no tag (log entry 81). -/
def State.fabTake (s : State) (r : FabReq) : State :=
  if !s.mayOriginate then s.fabEnd r St.linkdown false [] else
  let t := lowestTag s.tags 0
  let g := s.tagOf t
  let s := s.setTag t { gen := (g.gen + 1) % 16, req := some r, port := 16, since := s.now, quar := none }
  (s.addB Reg.FAB_CNT_REQ 63 0 1).fabSend t r

/-- Issue a request: it takes a tag, or waits for one (R354). One of a masked master takes part in no round (R299). -/
def State.fabIssue (s : State) (r : FabReq) : State :=
  if !s.mayOriginate || s.tagFor r && !s.isMasked r.master then s.fabTake r
  else { s.fabEvent 4 0 r.master r.addr with tagWaits := s.tagWaits ++ [r] }

/-- Take the first occurrence of a request out of a list. -/
def removeReq (r : FabReq) : List FabReq → List FabReq
  | [] => []
  | q :: qs => if q = r then qs else q :: removeReq r qs

/-- One grant of a tag to a waiting request: the winner's p becomes 0, the losers of its rank gain one (R296). -/
def State.grantTag (s : State) (r : FabReq) : State :=
  let win := ownerPort r.owner r.master
  let losers := ((s.tagWaits.filter fun q => ownerRank q.owner == ownerRank r.owner).map
    (fun q => ownerPort q.owner q.master)).dedup.filter fun p => p != win
  let prio := losers.foldl (fun (t : Tbl Nat) p => t.set p (min 15 (t.get p 0 + 1)) 0) s.tagPrio
  let s := { s with tagPrio := prio.set win 0 0, tagWaits := removeReq r s.tagWaits }
  s.fabTake r

/-- Serve the requests that wait for a tag, as far as tags are free. -/
def State.serveTags (s : State) : Nat → State
  | 0 => s
  | k + 1 =>
    match s.nextWaiting s.tagWaits with
    | some r => State.serveTags (s.grantTag r) k
    | none => s

/-- A tag's request completes: with its response, or retired without one (R355 to R357). -/
def State.fabComplete (s : State) (t status : Nat) (refused : Bool) (data : List Byte) (retire : Bool) : State :=
  match (s.tagOf t).req with
  | none => s
  | some r =>
    let s := (s.tagRelease t retire).fabEnd r status refused data
    s.serveTags s.tagWaits.length

/-- Accept a response as the completion of a request, or drop it as stale (R355). -/
def State.response (s : State) (b : List Byte) : State :=
  let t := pkTag b % 2 ^ 14
  let g := s.tagOf t
  if g.answered t b then s.fabComplete t (pkOp b) (pkRefused b) (pkData b) false
  else
    let s := s.addB Reg.FAB_CNT_STALE 63 0 1
    let s := s.wr Reg.FAB_LAST_STALE (w (pkSrc b + at_ 32 t + at_ 46 (pkTag b / 2 ^ 14 % 16) + at_ 50 1))
    s.fabEvent 0 St.stalegen (pkMaster b) (match g.req with | some r => r.addr | none => 0)

/-- A request in transit was dropped: its source gets a response with a status (R331, R350). A request of this device that came back
to it completes here. -/
def State.tellSource (s : State) (b : List Byte) (status : Nat) : State :=
  let r := s.responseTo b status false []
  if pkSrc b = s.devId then s.response r else s.sendResponse r

/-! ### Small packets of units -/

/-- The limit of a send that waits without limit (R273). -/
def noLimit : Nat := 0xFFFFFFFF

def noSend : RemoteSend := ⟨.none, 0, 0, 0, 0, [], 0, none, none, false, false⟩

/-- The traffic class of a unit's small packets (R345). -/
def ownerTc : Owner → Nat
  | .core _ => 1
  | .col _ => 0
  | _ => 2

/-- Put the packet of a send into the fabric. -/
def State.sendIssue (s : State) (id : Nat) : State :=
  let x := s.remoteSends.get id noSend
  let s := { s with remoteSends := s.remoteSends.set id { x with due := none } noSend }
  s.fabIssue ⟨0, id, x.owner, x.typ, ownerTc x.owner, s.ownerMaster x.owner, x.dev, x.addr, x.bytes.length, 0, x.bytes⟩

/-- The sending unit of a message: the contexts and the error completions of a die belong to its one stage controller. -/
def senderOf : Owner → Owner
  | .stage n _ => .stage n 0
  | .fire n _ => .stage n 0
  | o => o

/-- Messages of one sending unit to one queue. -/
def sameLine (owner : Owner) (dev addr : Nat) (x : RemoteSend) : Bool :=
  x.typ == 5 && decide (senderOf x.owner = senderOf owner) && x.dev == dev && x.addr == addr

/-- Send a small packet to another device (R274). A sender has one message in flight to a queue at a time (R271): a further one
waits until it has ended. -/
def State.netSend (s : State) (owner : Owner) (ref typ dev addr : Nat) (bs : List Byte) (limit : Nat) : State :=
  let id := s.nextId
  let wait := typ == 5 && s.remoteSends.any fun e => sameLine owner dev addr e.2
  let s := { s with
    nextId := id + 1
    remoteSends := s.remoteSends.set id ⟨owner, ref, typ, dev, addr, bs, limit, none, none, false, wait⟩ noSend }
  if wait then s else s.sendIssue id

/-- A message has ended: the next one of its sender to its queue leaves. -/
def State.sendNext (s : State) (x : RemoteSend) : State :=
  match s.remoteSends.find? fun e => sameLine x.owner x.dev x.addr e.2 && e.2.queued with
  | some (id, y) => ({ s with remoteSends := s.remoteSends.set id { y with queued := false } noSend } : State).sendIssue id
  | none => s

/-- Send a message to a queue of another device. -/
def State.remoteSend (s : State) (owner : Owner) (dev q : Nat) (bs : List Byte) (limit : Nat) : State :=
  s.netSend owner 0 5 dev q bs limit

/-- A send that may wait, to a queue named as a stage names it: a package index of this device, or 0x10000 + the QUEUES
index of a remote queue. `ok` and `refused` are final; `noRoom` says that the sender waits. Only a general core's send has
a limit (R273). -/
def State.sendTo (s : State) (q : Nat) (owner : Owner) (bs : List Byte) : SendRes × State :=
  if 0x10000 ≤ q then
    let r := s.remoteQs.get (q - 0x10000) {}
    let limit := match owner with | .core _ => r.sendWait | _ => noLimit
    (.noRoom, s.remoteSend owner r.dev r.q bs limit)
  else s.qSendWait q owner bs

/-- Units whose sends are repeated after LINKDOWN (R332). -/
def resends : Owner → Bool
  | .stage _ _ => true
  | .dispatch _ => true
  | _ => false

/-- Units that write a register of another device again after QFULL (R372): the collective engine's COL_RX notices. -/
def rewrites : Owner → Bool
  | .col _ => true
  | _ => false

/-- What an answer means for a send: the status it ended with, or none when another attempt will follow (R274, R332,
R372). -/
def State.sendReply (s : State) (id status : Nat) (refused : Bool) : Option Nat × State :=
  let x := s.remoteSends.get id noSend
  let keep (x : RemoteSend) : State := { s with remoteSends := s.remoteSends.set id x noSend }
  let gone : State := ({ s with remoteSends := s.remoteSends.del id } : State).sendNext x
  let again := s.now + 100
  if status = 0 ∧ !refused then (some St.ok, gone)
  else if refused then
    let first := x.refused.getD s.now
    if x.limit ≠ noLimit ∧ first + x.limit ≤ s.now then (some St.qfull, gone)
    else (none, keep { x with refused := some first, due := some again })
  else if status = St.linkdown ∧ resends x.owner then (none, keep { x with due := some again, down := true })
  else if status = St.qfull ∧ rewrites x.owner then (none, keep { x with due := some again })
  else (some status, gone)

/-! ### The package's accesses to the guest (R447) -/

/-- Send a package request to the guest, of a general core or (`req`) of a transfer; its TAG is the lowest that no outstanding
request carries. -/
def State.guestIssue (s : State) (master typ addr len op : Nat) (data : List Byte) (req : Option FabReq) : State :=
  let n := s.guestOut.length
  let tag := ((List.range (n + 1)).find? fun t => !(s.guestOut.any fun g => pkTag g.packet == t)).getD n
  let b := packetBytes typ 0 (s.rdB Reg.RTE_CFG 5 0) master 0 0 tag addr len op data
  ({ s with guestOut := s.guestOut ++ [⟨b, master, s.now, req⟩] } : State).emit (.guest b)

/-- A part of a transfer is an access to the guest that the gate lets through: those of the loader, of a replica's fetch and of a
mailbox's notice are a management core's (log entry 35), those of an inbox a general core's (R220). -/
def State.guestPart (s : State) (x : Xfer) (ga : Nat) : Bool := s.guestAllowed x.master && inGuest (gaLocal ga)

/-- The packet of an access that a dispatch unit or an inbox asks for; the answer is its owner's. -/
def State.guestSend (s : State) (o : Owner) (q : GuestAsk) : State :=
  s.guestIssue q.master q.typ q.addr q.len 0 q.data (some ⟨3, 0, o, q.typ, 0, q.master, 0, q.addr, q.len, 0, q.data⟩)

/-- Run a step of a dispatch unit or an inbox with the guest's answers so far: the state after it and the answers that it did not
use, or, with nothing done, the access whose answer it still needs (log entry 98). -/
def State.guestTry (s : State) (rs : List GuestReply) (f : State → State) : Option GuestAsk × List GuestReply × State :=
  let t := f { s with guestRun := some rs }
  match t.guestAsk with
  | none => (none, t.guestRun.getD [], { t with guestRun := none })
  | some q => (some q, rs, s)

/-- The accesses of some units to the guest that are under way have no unit any more (R57): their answers are dropped. -/
def State.orphanGuest (s : State) (p : Owner → Bool) : State :=
  { s with guestOut := s.guestOut.map fun (g : GuestReq) =>
      match g.req with
      | some r => if p r.owner then { g with req := some { r with kind := 4 } } else g
      | none => if p (.core g.master) then { g with req := some ⟨4, 0, .none, 0, 0, 0, 0, 0, 0, 0, []⟩ } else g }

/-! ### Transfers of bulk units -/

def noXfer : Xfer := ⟨.none, 0, 0, [], false, [], none, none, 0⟩
def State.xfer (s : State) (id : Nat) : Xfer := s.xfers.get id noXfer
def State.setXfer (s : State) (id : Nat) (x : Xfer) : State := { s with xfers := s.xfers.set id x noXfer }

/-- Destination addresses from here on, beyond every global address, stand for the transfer's own buffer: what is read is kept in
`bytes`. -/
def sinkBase : Nat := 2 ^ 64

/-- Length of the next part: no request crosses a 2 KiB boundary of either address (R340, R395). -/
def partLen (src dst len : Nat) : Nat := min len (min (2048 - src % 2048) (2048 - dst % 2048))

/-- The transfer's bytes of `k` have been moved. -/
def Xfer.advance (x : Xfer) (k : Nat) : Xfer :=
  match x.moves with
  | [] => x
  | (a, b, n) :: ms =>
    { x with
      moves := if n ≤ k then ms else (a + k, b + k, n - k) :: ms
      bytes := x.bytes.drop k, hold := none }

/-- READ, or READ_SNOOP for a depot (R359). -/
def State.readType (s : State) (dev : Nat) : Nat := if s.depots.contains dev then 2 else 1

/-- A local address of a control space, command memory apart. -/
def ctlSpace (a : Nat) : Bool :=
  match placeOf a with
  | .ctl _ _ => true
  | _ => false

/-- A local address of control space: its accesses are the register bus's (Bus.lean). -/
def ctlPlace (a : Nat) : Bool :=
  match placeOf a with
  | .ctl _ _ => true
  | .cmdMem _ => true
  | _ => false

/-- Go on with a transfer until it waits for an answer or for the register bus, or ends. One of a masked master waits
(R299). -/
def State.xferGo (s : State) (id : Nat) : Nat → State
  | 0 => s
  | fuel + 1 =>
    let x := s.xfer id
    if x.ended.isSome || s.isMasked x.master then s else
    match x.moves with
    | [] => s.setXfer id { x with ended := some St.ok }
    | (src, dst, len) :: _ =>
      if len = 0 then State.xferGo (s.setXfer id (x.advance 0)) id fuel else
      match x.hold with
      | none =>
        let k := partLen (if x.fromBytes then 0 else src) dst len
        if x.fromBytes then State.xferGo (s.setXfer id { x with hold := some (x.bytes.take k) }) id fuel
        else if gaDev src = s.devId then
          if ctlPlace (gaLocal src) then s else
          if s.guestPart x src then
            s.guestIssue x.master 1 (gaLocal src) k 0 []
              (some ⟨1, id, x.owner, 1, 0, x.master, gaDev src, gaLocal src, k, 0, []⟩)
          else
          let (st, bs, s) := s.load x.master (gaLocal src) k
          if st ≠ 0 then s.setXfer id { x with ended := some st }
          else State.xferGo (s.setXfer id { x with hold := some bs }) id fuel
        else
          s.fabIssue ⟨1, id, x.owner, s.readType (gaDev src), 0, x.master, gaDev src, gaLocal src, k, 0, []⟩
      | some bs =>
        if sinkBase ≤ dst then State.xferGo (s.setXfer id { x.advance bs.length with bytes := x.bytes ++ bs }) id fuel
        else if gaDev dst = s.devId then
          if ctlPlace (gaLocal dst) then s else
          if s.guestPart x dst then
            s.guestIssue x.master 3 (gaLocal dst) bs.length 0 bs
              (some ⟨1, id, x.owner, 3, 0, x.master, gaDev dst, gaLocal dst, bs.length, 0, bs⟩)
          else
          let (st, s) := s.store x.master (gaLocal dst) bs
          if st ≠ 0 then s.setXfer id { x with ended := some st }
          else State.xferGo (s.setXfer id (x.advance bs.length)) id fuel
        else
          let s := s.setXfer id { x with sent := x.sent + bs.length }
          let s := match x.owner with | .col _ => s.addB Reg.COL_CNT_BYTES 63 0 bs.length | _ => s
          s.fabIssue ⟨1, id, x.owner, 3, 0, x.master, gaDev dst, gaLocal dst, bs.length, 0, bs⟩

/-- Fuel for a transfer: two steps for each part it can have. -/
def Xfer.fuel (x : Xfer) : Nat := (x.moves.map fun m => 2 * (2 * (m.2.2 / 2048) + 6)).sum + 1

/-- Start a transfer; its number. -/
def State.xferStart (s : State) (x : Xfer) : Nat × State :=
  let id := s.nextId
  let s := { s with nextId := id + 1 }
  (id, (s.setXfer id x).xferGo id x.fuel)

/-- The answer to a request of a transfer. -/
def State.xferReply (s : State) (r : FabReq) (status : Nat) (data : List Byte) : State :=
  let x := s.xfer r.ref
  if x.owner = .none ∨ x.ended.isSome then s
  else if status ≠ 0 then s.setXfer r.ref { x with ended := some status }
  else
    let x := if r.typ = 3 then x.advance r.len else { x with hold := some data }
    (s.setXfer r.ref x).xferGo r.ref x.fuel

/-- The transfers of a unit have no more use. -/
def State.dropXfers (s : State) (o : Owner) : State := { s with xfers := s.xfers.filter fun e => decide (e.2.owner ≠ o) }

/-- The request that a tag holds is no unit's any more; the answer frees the tag. -/
def State.orphanTag (s : State) (t : Nat) (x : Tag) : State :=
  s.setTag t { x with req := x.req.map fun q => { q with kind := 4, owner := .none } }

/-- What waits for a tag, for its next attempt or for one of some units goes. -/
def State.dropWaiting (s : State) (p : Owner → Bool) : State :=
  { s with
    tagWaits := s.tagWaits.filter fun (q : FabReq) => !p q.owner
    fabDone := s.fabDone.filter fun (d : FabDone) => !p d.req.owner
    remoteSends := s.remoteSends.filter fun (e : Nat × RemoteSend) => !p e.2.owner
    xfers := s.xfers.filter fun (e : Nat × Xfer) => !p e.2.owner }

/-- End every request of some units without a completion: tags are retired, so that later responses are stale (R57, R356), and
what waits goes. A response that has reached the device completes its request, which then is no unit's. -/
def State.dropRequests (s : State) (p : Owner → Bool) : State :=
  (s.tags.foldl (fun s (e : Nat × Tag) =>
    if !e.2.req.any fun q => p q.owner then s
    else if s.responseHere e.1 then s.orphanTag e.1 e.2
    else s.tagRelease e.1 true) (s.orphanGuest p)).dropWaiting p

/-- Some units stop sending (R382): what waits goes, and a request in the fabric keeps its tag until it is answered. -/
def State.quitRequests (s : State) (p : Owner → Bool) : State :=
  (s.tags.foldl (fun s (e : Nat × Tag) => if e.2.req.any fun q => p q.owner then s.orphanTag e.1 e.2 else s)
    (s.orphanGuest p)).dropWaiting p

/-- No request of a transfer is under way or waits for a tag. -/
def State.xferQuiet (s : State) (id : Nat) : Bool :=
  let mine (q : FabReq) : Bool := q.kind == 1 && q.ref == id
  !(s.tags.any fun e => e.2.req.any mine) && !s.tagWaits.any mine && !(s.fabDone.any fun d => mine d.req)
    && !s.guestOut.any fun g => g.req.any mine

/-- Transfers of a master whose ports are no longer masked go on (R299). -/
def State.xfersResume (s : State) (m : Nat) : State :=
  s.xfers.foldl (fun s (e : Nat × Xfer) =>
    if e.2.master = m ∧ e.2.ended.isNone ∧ s.xferQuiet e.1 then s.xferGo e.1 e.2.fuel else s) s

end Sys2Proof.Machine
end

