-- ==== Sys2Proof/Machine/Link.lean ====
section
/-!
DEFINITION. The link layer of the fabric ports (R313 to R337): flits, sequence numbers and replay, credits, link down,
bring-up. A port transmits one flit at each tick (log entry 24).
-/

namespace Sys2Proof.Machine

/-! ### Flits (R315) -/

/-- A flit's bytes with its CRC. -/
def flitBytes (seq ack kind flags crclass first credit : Nat) (payload : List Byte) : List Byte :=
  let b := toBytes 2 seq ++ toBytes 2 ack ++ toBytes 1 kind ++ toBytes 1 flags ++ toBytes 1 crclass ++ toBytes 1 first
    ++ toBytes 4 credit ++ zeroBytes 4 ++ fitBytes 236 payload
  b ++ toBytes 4 (crc32 b)

def flSeq (b : List Byte) : Nat := leAt b 0 2
def flAck (b : List Byte) : Nat := leAt b 2 2
def flKind (b : List Byte) : Nat := leAt b 4 1
def flAckv (b : List Byte) : Bool := (leAt b 5 1).testBit 0
def flNak (b : List Byte) : Bool := (leAt b 5 1).testBit 1
def flCrv (b : List Byte) : Bool := (leAt b 5 1).testBit 2
def flCrClass (b : List Byte) : Nat := leAt b 6 1
def flCredit (b : List Byte) : Nat := leAt b 8 4
def flPayload (b : List Byte) : List Byte := (b.drop 16).take 236
def flCrcOk (b : List Byte) : Bool := leAt b 252 4 == crc32 (b.take 252)

/-! ### State of a port -/

/-- A port enters a state. -/
def State.lnkEnter (s : State) (p st : Nat) : State :=
  let s := s.wrB (Reg.LNK_STATUS p) 2 0 st
  s.setPort p { s.port p with since := s.now }

/-- The port lanes that the port trained, or is training, on (R335). -/
def State.lnkLanes (s : State) (p : Nat) : List Nat := bitsSet 2 ((s.port p).cfg % 4)

def lnkLane (p l : Nat) : Nat := if l = 0 then Reg.LNK_LANE0 p else Reg.LNK_LANE1 p

def State.lnkEvent (s : State) (p ev : Nat) : State :=
  s.raise 4 Blk.lnk (Reg.LNK_EVT p) (Reg.LNK_EVT_EN p) ev
    { unit := p, at0 := some (Reg.LNK_DOWN_CAUSE p), at1 := some (Reg.LNK_PEER p) }

/-- The class sizes that the port trained, or is training, with (R335, R337). -/
def State.crSizes (s : State) (p : Nat) : List Nat :=
  (List.range 4).map fun c => bits (s.port p).sizes (16 * c + 12) (16 * c)

/-! ### Link down (R328 to R331) -/

/-- A transit packet dropped by a link down: a request's source is told, anything else is counted (R331). -/
def State.dropTransit (s : State) (p : Nat) (b : List Byte) : State :=
  if pkType b = 8 ∨ pkType b = 6 then s.addB (Reg.LNK_CNT_DOWN p) 63 48 1
  else s.tellSource b St.linkdown

/-- The tags whose requests left by a port and whose responses have not reached the device (R330, R356). -/
def State.portTags (s : State) (p : Nat) : List Nat :=
  (s.tags.filter fun e => e.2.req.isSome && e.2.port == p && !s.responseHere e.1).map (·.1)

/-- The link of a port goes down with a cause (R329 to R331, R351). `st` is DOWN, or DISABLED for cause DISABLE. The DOWN flits go
on the lanes that the port trained on, or on those that LNK_CFG selects for a port that never trained (log entry 99). From here the
lanes carry flits side by side: a lane whose partner carried one flit more lets its slot pass (R314). -/
def State.linkDown (s : State) (p cause st : Nat) : State :=
  let s := s.wr (Reg.LNK_DOWN_CAUSE p) (w cause)
  let s := s.wr (Reg.LNK_DOWN_TIME p) (w s.now)
  let s := s.addB (Reg.LNK_CNT_DOWN p) 15 0 1
  let s := s.lnkEnter p st
  let s := s.wrB (Reg.LNK_PEER p) 24 24 0
  let s := s.lnkEvent p 0
  let s := if s.rdB Reg.RTE_CFG 8 8 = 1 then s else s.wr Reg.RTE_PORT_EN (clrBit (s.rd Reg.RTE_PORT_EN) p)
  let x := s.port p
  let transit := x.flying.map (·.2) ++ (x.queue.filter (·.transit)).map (·.bytes)
  let lanes := if x.cfg % 4 = 0 then s.rdB (Reg.LNK_CFG p) 1 0 else x.cfg % 4
  let k := popcount 2 lanes
  let s := s.setPort p { since := s.now, downTx := true, downAt := s.now, downCfg := lanes, retrain := decide (cause = 6)
                         inq := x.inq, cfg := x.cfg, sizes := x.sizes, mark := if k = 0 then 0 else ceilDiv x.mark k * k }
  let own := s.portTags p
  let s := own.foldl (fun s t =>
    (s.addB (Reg.LNK_CNT_DOWN p) 47 16 1).fabComplete t St.linkdown false [] true) s
  transit.foldl (fun s b => s.dropTransit p b) s

/-! ### Transmitting (R317, R318, R323, R324) -/

/-- The first packet of a queue that may start: its class has credit, and no packet of its class waits before it. -/
def startable (credit : Nat → Nat) : List OutPkt → List Nat → Option OutPkt
  | [], _ => none
  | q :: qs, blocked =>
    if blocked.contains q.cls then startable credit qs blocked
    else if ceilDiv q.bytes.length 64 ≤ credit q.cls then some q
    else startable credit qs (q.cls :: blocked)

/-- Take the first occurrence of a packet out of a queue. -/
def removePkt (q : OutPkt) : List OutPkt → List OutPkt
  | [] => []
  | r :: rs => if r = q then rs else r :: removePkt q rs

/-- Start packets until a flit's payload is full, or none may start. -/
def Port.fill (x : Port) : Nat → Port
  | 0 => x
  | k + 1 =>
    if 236 ≤ x.tx.length then x else
    match startable x.credit x.queue [] with
    | none => x
    | some q =>
      let total := x.tx.length + q.bytes.length
      Port.fill { x with
        queue := removePkt q x.queue
        used := setNth x.used q.cls ((nth x.used q.cls 0 + ceilDiv q.bytes.length 64) % 2 ^ 32)
        starts := x.starts ++ [x.tx.length]
        tx := x.tx ++ q.bytes
        flying := if q.transit then x.flying ++ [((x.n + ceilDiv total 236 - 1) % 65536, q.bytes)] else x.flying } k

/-- FLAGS, CRCLASS and CREDIT of the next flit, and the port after it: ACKV and CRV, NAK when asked for, the class in
rotation (R317, R321, R324). -/
def Port.stamp (x : Port) : Nat × Nat × Nat × Port :=
  (5 + (if x.nak then 2 else 0), x.rot, nth x.rxLimit x.rot 0,
    { x with nak := false, nakDone := x.nakDone || x.nak, rot := (x.rot + 1) % 4 })

/-- Send a flit of an ACTIVE port: on a two-lane port the flits alternate between the lanes (R314); the window counts it
(R327). -/
def State.sendFlit (s : State) (p : Nat) (x : Port) (b : List Byte) : State :=
  let lanes := s.lnkLanes p
  (s.setPort p { x with mark := x.mark + 1, slots := x.slots + 1 }).emit
    (.flit p (nth lanes (x.mark % lanes.length) 0) b)

/-- The DOWN flits of the last link down are not over (R329). -/
def State.sendsDown (s : State) (p : Nat) : Bool := (s.port p).downTx && decide (s.now < (s.port p).downAt + 1000)

/-- The lanes that a port transmits on: DOWN flits go on every lane that the link had, whatever it trains on next (R329). -/
def State.txLanes (s : State) (p : Nat) : List Nat :=
  if s.lnkState p ≠ 4 && s.sendsDown p then bitsSet 2 (s.port p).downCfg else s.lnkLanes p

/-- A lane's laser is lit (R482): LNK_CFG.LANES selects the lane, and the port is in DETECT, TRAIN or ACTIVE, or in DOWN with DOWN
flits still to send. -/
def State.laserLit (s : State) (p l : Nat) : Bool :=
  !s.held && (s.rdB (Reg.LNK_CFG p) 1 0).testBit l
    && (decide (2 ≤ s.lnkState p) || decide (s.lnkState p = 1) && s.sendsDown p)

/-- It is the slot of the alignment markers: each lane has carried 16 flits since the last (R314). -/
def State.markerDue (s : State) (p : Nat) : Bool := decide (16 * (s.txLanes p).length ≤ (s.port p).mark)

/-- Every lane carries its alignment marker in the same slot (R314). -/
def State.sendMarkers (s : State) (p : Nat) : State :=
  (s.txLanes p).foldl (fun s l => s.emit (.marker p l)) (s.setPort p { s.port p with mark := 0 })

/-- A flit on every lane of a port that is not ACTIVE. -/
def State.sendAll (s : State) (p : Nat) (f : Nat → List Byte) : State :=
  let lanes := s.txLanes p
  lanes.foldl (fun s l => s.emit (.flit p l (f l))) (s.setPort p { s.port p with mark := (s.port p).mark + lanes.length })

/-- Transmit one flit of an ACTIVE port: the replay pass first, then new DATA, else IDLE. -/
def State.lnkSend (s : State) (p : Nat) : State :=
  let x := s.port p
  let ack := unsgn 16 ((x.nextRx : Int) - 1)
  match x.replay with
  | some q =>
    let i := unsgn 16 ((q : Int) - x.u)
    let f := nth x.buf i ⟨[], 0xFF, 0⟩
    let (fl, c, cr, x) := x.stamp
    let nx := (q + 1) % 65536
    let x := { x with
      buf := setNth x.buf i { f with sentAt := s.now }
      replay := if nx = x.n then none else some nx
      passAck := if nx = x.n then none else x.passAck }
    s.sendFlit p x (flitBytes q ack 1 fl c f.first cr f.payload)
  | none =>
    let x := if 4096 ≤ x.buf.length then x else x.fill (x.queue.length + 1)
    if x.tx.isEmpty || decide (4096 ≤ x.buf.length) then
      let (fl, c, cr, x) := x.stamp
      s.sendFlit p x (flitBytes x.n ack 0 fl c 0 cr [])
    else
      let first := match x.starts with | o :: _ => if o < 236 then o else 0xFF | [] => 0xFF
      let pl := fitBytes 236 (x.tx.take 236)
      let (fl, c, cr, x) := x.stamp
      let seq := x.n
      let x := { x with
        buf := x.buf ++ [⟨pl, first, s.now⟩], n := (x.n + 1) % 65536, tx := x.tx.drop 236
        starts := (x.starts.filter fun o => decide (236 ≤ o)).map (· - 236) }
      let s := s.addB (Reg.LNK_CNT_TX p) 63 0 1
      s.sendFlit p x (flitBytes seq ack 1 fl c first cr pl)

/-- The training record that this port sends on a lane (R334). -/
def State.trainRecord (s : State) (p lane : Nat) : List Byte :=
  let x := s.port p
  toBytes 4 s.devId ++ toBytes 1 p ++ toBytes 1 lane ++ toBytes 1 (x.cfg % 4)
    ++ toBytes 1 (if x.cfg / 4 % 2 = 1 then 2 else 3) ++ toBytes 8 x.sizes.toNat
    ++ toBytes 1 (if x.final then 2 else 1)

/-- What a port transmits in one tick: after a link down DOWN flits, for 10 µs (R329), before it trains. -/
def State.lnkTick (s : State) (p : Nat) : State :=
  let st := s.lnkState p
  let down := s.sendsDown p
  if st ≠ 4 ∧ st ≠ 3 ∧ !down then s
  else if s.markerDue p then s.sendMarkers p
  else if st = 4 then s.lnkSend p
  else if down then s.sendAll p fun _ => flitBytes 0 0 3 0 0 0 0 []
  else s.sendAll p fun l => flitBytes 0 0 2 0 0 0 0 (s.trainRecord p l)

/-! ### Receiving -/

/-- A missing or damaged flit asks for a NAK, once until NEXT_RX advances (R321). -/
def State.wantNak (s : State) (p : Nat) : State :=
  let x := s.port p
  if x.nakDone then s else s.setPort p { x with nak := true }

/-- Count a replay event; the link goes down when the window's count exceeds the threshold, also where the count is one more than the
register's field can hold (R327). -/
def State.countReplay (s : State) (p : Nat) : State :=
  let k := s.rdB (Reg.LNK_CNT_REPLAY p) 15 0 + 1
  let s := s.addB (Reg.LNK_CNT_REPLAY p) 15 0 1
  let s := s.addB (Reg.LNK_CNT_REPLAY p) 63 32 1
  let lim := s.rdB (Reg.LNK_DOWN_THRESH p) 15 0
  let s := if lim < 2 * k ∧ !(s.port p).hi then (s.setPort p { s.port p with hi := true }).lnkEvent p 3 else s
  if lim < k then s.linkDown p 1 1 else s

/-- Start a replay pass from U (R322). -/
def State.startPass (s : State) (p : Nat) (ack : Option Nat) : State :=
  let x := s.port p
  (s.setPort p { x with replay := some x.u, passAck := ack }).countReplay p

/-- ACKSEQ, NAK and CREDIT of a good flit (R320, R322, R324). -/
def State.lnkAck (s : State) (p : Nat) (b : List Byte) : State :=
  let s := s.setPort p { s.port p with lastGood := s.now }
  let x := s.port p
  let c := flCrClass b
  let dv := unsgn 32 ((flCredit b : Int) - nth x.limit c 0)
  let x := if flCrv b ∧ c < 4 ∧ 0 < dv ∧ dv < 2 ^ 31 then { x with limit := setNth x.limit c (flCredit b) } else x
  let s := s.setPort p x
  if !flAckv b then s else
  let a := flAck b
  let e := unsgn 16 ((a : Int) - x.u + 1)
  if 2 ^ 15 ≤ e then s
  else if x.buf.length < e then s.linkDown p 5 1
  else
    let u' := (x.u + e) % 65536
    let gone (q : Nat) : Bool := decide (unsgn 16 ((q : Int) - x.u) < e)
    let x := { x with
      u := u', buf := x.buf.drop e
      replay := match x.replay with
        | some q => if x.buf.length ≤ e then none else if gone q then some u' else some q
        | none => none
      flying := x.flying.filter fun f => !gone f.1 }
    let x := if x.replay.isNone then { x with passAck := none } else x
    let s := s.setPort p x
    if flNak b && !x.buf.isEmpty && !(x.replay.isSome && x.passAck == some a) then s.startPass p (some a) else s

/-- A packet that R342 discards without a response. -/
def pkMalformed (b : List Byte) : Bool :=
  !(pkType b == 8 || (decide (1 ≤ pkType b) && decide (pkType b ≤ 6))) || pkTc b == 3 || decide (2 ^ 18 ≤ pkDst b)
    || decide (2 ^ 18 ≤ pkSrc b)

/-- The router takes a packet: its units are freed (R325). -/
def State.freeUnits (s : State) (p : Nat) (b : List Byte) : State :=
  let x := s.port p
  let c := pkClass b
  s.setPort p { x with rxLimit := setNth x.rxLimit c ((nth x.rxLimit c 0 + ceilDiv b.length 64) % 2 ^ 32) }

/-- Hand complete packets from a port's byte stream to the router; zeros up to the end of a flit are filler (log entry 23). -/
def State.deliver (s : State) (p : Nat) : Nat → State
  | 0 => s
  | k + 1 =>
    let x := s.port p
    if x.rx.isEmpty then s
    else if x.rx.all (· == 0) then s.setPort p { x with rx := [] }
    else if x.rx.length < 32 then s
    else
      let n := pkBytes x.rx
      if x.rx.length < n then s
      else
        let b := x.rx.take n
        let s := s.setPort p { x with rx := x.rx.drop n }
        let s := if pkMalformed b then
            ((s.freeUnits p b).addB Reg.FAB_CNT_DISCARD 31 0 1).fabEvent 3 0 0xFF (pkAddr b)
          else s.setPort p { s.port p with inq := (s.port p).inq ++ [b] }
        State.deliver s p k

/-- A flit of a kind arrives. One with a bad CRC is discarded and counted, and an ACTIVE port asks for a NAK (R316, R321). An ACTIVE
port reads ACKSEQ, NAK and CREDIT of every other one, a reserved kind's too (R320), and goes on with a flit of the kind. -/
def State.lnkGood (s : State) (p kind : Nat) (b : List Byte) (f : State → State) : State :=
  if !flCrcOk b then
    (let s := s.addB (Reg.LNK_CNT_CRC p) 63 0 1
     if s.lnkState p = 4 then s.wantNak p else s)
  else if s.lnkState p ≠ 4 ∨ (flKind b ≠ kind ∧ flKind b < 4) then s
  else
    let s := s.lnkAck p b
    if s.lnkState p = 4 ∧ flKind b = kind then f s else s

/-- DATA_FLIT (R319). -/
def fxDataFlit (p : Nat) (b : List Byte) (s : State) : State :=
  s.lnkGood p 1 b fun s =>
    let x := s.port p
    let d := unsgn 16 ((flSeq b : Int) - x.nextRx)
    if d = 0 then
      let s := s.setPort p { x with nextRx := (x.nextRx + 1) % 65536, nakDone := false
                                    rx := x.rx ++ flPayload b }
      (s.addB (Reg.LNK_CNT_RX p) 63 0 1).deliver p 16
    else if d < 2 ^ 15 then s.wantNak p
    else s.addB (Reg.LNK_CNT_DUP p) 63 0 1

def execDataFlit (port : BitVec 4) (flit : List Byte) (s : State) : Host.Outcome State Fault Refusal :=
  live s (fxDataFlit port.toNat flit)

/-- IDLE_FLIT (R319). -/
def fxIdleFlit (p : Nat) (b : List Byte) (s : State) : State :=
  s.lnkGood p 0 b fun s =>
    let d := unsgn 16 ((flSeq b : Int) - (s.port p).nextRx)
    if 0 < d ∧ d < 2 ^ 15 then s.wantNak p else s

def execIdleFlit (port : BitVec 4) (flit : List Byte) (s : State) : Host.Outcome State Fault Refusal :=
  live s (fxIdleFlit port.toNat flit)

/-- DOWN_FLIT (R328, cause PEER). -/
def fxDownFlit (p : Nat) (b : List Byte) (s : State) : State := s.lnkGood p 3 b fun s => s.linkDown p 4 1

def execDownFlit (port : BitVec 4) (flit : List Byte) (s : State) : Host.Outcome State Fault Refusal :=
  live s (fxDownFlit port.toNat flit)

/-! ### Bring-up (R333, R334) -/

/-- Training fails: DOWN, TRAINFAIL (R333). -/
def State.trainFail (s : State) (p : Nat) : State :=
  let s := s.addB (Reg.LNK_STATUS p) 31 16 1
  let s := s.lnkEvent p 2
  let s := s.setPort p { s.port p with trained := [0, 0], final := false, retrain := false }
  (s.wrB (Reg.LNK_PEER p) 24 24 0).lnkEnter p 1

/-- Training succeeds: ACTIVE, with sequence numbers and credits as R318 and R323 say. -/
def State.lnkUp (s : State) (p : Nat) : State :=
  let x := s.port p
  let s := s.wrB (Reg.LNK_CNT_REPLAY p) 15 0 0
  let s := s.wrB (Reg.LNK_STATUS p) 4 3 (x.cfg % 4)
  let s := s.setPort p { limit := x.peerSize, peerSize := x.peerSize, rxLimit := s.crSizes p, inq := x.inq
                         lastGood := s.now, cfg := x.cfg, sizes := x.sizes, mark := x.mark }
  (s.lnkEnter p 4).lnkEvent p 1

/-- Every selected lane has three good TRAIN flits in a row: the first exchange ends, or the port becomes ACTIVE. -/
def State.trainDone (s : State) (p : Nat) (rec_ : List Byte) : State :=
  let x := s.port p
  let lanes := s.lnkLanes p
  if !(lanes.all fun l => decide (3 ≤ nth x.trained l 0)) then s
  else if popcount 2 (leAt rec_ 6 1) ≠ lanes.length ∨ 40 < s.rdB (Reg.LNK_STATUS p) 15 8 ∨ 4096 < (s.crSizes p).sum then
    s.trainFail p
  else if x.final then s.lnkUp p
  else
    let fast := x.cfg / 4 % 2 == 0 && (leAt rec_ 7 1).testBit 0
    let s := s.wrB (Reg.LNK_STATUS p) 5 5 (if fast then 0 else 1)
    s.setPort p { x with final := true, trained := [0, 0] }

/-- TRAIN_FLIT (R334): a flit on a lane with the skew that the receiver measures. While ACTIVE it takes the link down
(R328, cause PROTOCOL). -/
def fxTrainFlit (p l skew : Nat) (b : List Byte) (s : State) : State :=
  if s.lnkState p ≠ 3 then s.lnkGood p 2 b fun s => s.linkDown p 5 1
  else
    let x := s.port p
    if !flCrcOk b then
      (s.addB (Reg.LNK_CNT_CRC p) 63 0 1).setPort p { x with trained := setNth x.trained l 0 }
    else if flKind b ≠ 2 then s
    else
      let r := flPayload b
      let s := s.wr (Reg.LNK_PEER p) (w (leAt r 0 4 % 2 ^ 18 + at_ 20 (leAt r 4 1 % 16) + at_ 24 1))
      let s := s.wrB (Reg.LNK_STATUS p) 6 6 (if leAt r 5 1 % 2 = l % 2 then 0 else 1)
      let s := s.wrB (Reg.LNK_STATUS p) 15 8 (min 255 skew)
      let good : Bool := if x.final then leAt r 16 1 == 2 else leAt r 16 1 == 1 || leAt r 16 1 == 2
      let sizes := (List.range 4).map fun c => leAt r (8 + 2 * c) 2
      let s := s.setPort p { x with
        trained := setNth x.trained l (if good then nth x.trained l 0 + 1 else 0), peerSize := sizes }
      s.trainDone p r

def execTrainFlit (port : BitVec 4) (lane : BitVec 1) (skew : BitVec 8) (flit : List Byte) (s : State) :
    Host.Outcome State Fault Refusal := live s (fxTrainFlit port.toNat lane.toNat skew.toNat flit)

/-- A port in DETECT enters TRAIN when light and lock are there on every lane that LNK_CFG selects, its transmit PLL has its
reference (R407), and the device's ID is valid. It takes LANES, SPEED_MAX and the class sizes as they are (R335). -/
def State.tryTrain (s : State) (p : Nat) : State :=
  let lanes := bitsSet 2 (s.rdB (Reg.LNK_CFG p) 1 0)
  if s.lnkState p = 2 ∧ !lanes.isEmpty ∧ bit (s.rd Reg.RTE_SELF) 63 ∧ s.refLost.testBit (p / 8) = false
      ∧ (lanes.all fun l => s.rdB (lnkLane p l) 1 0 == 3) then
    let s := s.setPort p { s.port p with
      trained := [0, 0], final := false, cfg := s.rdB (Reg.LNK_CFG p) 2 0, sizes := s.rd (Reg.LNK_CR_SIZE p), mark := 0 }
    s.lnkEnter p 3
  else s

/-- A port enters DETECT, and TRAIN at once when it may. -/
def State.lnkDetect (s : State) (p : Nat) : State :=
  let s := s.setPort p { s.port p with retrain := false }
  (s.lnkEnter p 2).tryTrain p

/-- LANE_LOCK (R333): light, lock and alignment on a lane, with the received power. -/
def fxLaneLock (p l power : Nat) (s : State) : State :=
  let s := s.wrB (lnkLane p l) 2 0 7
  let s := s.wrB (lnkLane p l) 15 8 power
  s.tryTrain p

def execLaneLock (port : BitVec 4) (lane : BitVec 1) (power : BitVec 8) (s : State) : Host.Outcome State Fault Refusal :=
  live s (fxLaneLock port.toNat lane.toNat power.toNat)

/-- LANE_SIGNAL_LOSS (R328, cause SIGNAL): a lane loses light (bit 0 of `lost`), lock (1) or alignment (2). -/
def State.laneLost (s : State) (p l lost : Nat) : State :=
  let r := lnkLane p l
  let s := s.wrB r 2 0 ((s.rdB r 2 0).land (7 - lost % 8))
  let s := if lost.testBit 2 then s.addB r 47 16 1 else s
  if lost % 8 = 0 ∨ !(s.lnkLanes p).contains l then s
  else if s.lnkState p = 4 then s.linkDown p 3 1
  else if s.lnkState p = 3 then s.trainFail p else s

def execLaneSignalLoss (port : BitVec 4) (lane : BitVec 1) (lost : BitVec 3) (s : State) :
    Host.Outcome State Fault Refusal := live s (fun s => s.laneLost port.toNat lane.toNat lost.toNat)

/-- TRAIN_TIMEOUT (R333): 5 ms of training. -/
def fxTrainTimeout (p : Nat) (s : State) : State :=
  if s.lnkState p = 3 ∧ (s.port p).since + 500000 ≤ s.now then s.trainFail p else s

def execTrainTimeout (port : BitVec 4) (s : State) : Host.Outcome State Fault Refusal :=
  live s (fxTrainTimeout port.toNat)

/-- HOLDOFF_EXPIRE (R333). -/
def fxHoldoffExpire (p : Nat) (s : State) : State :=
  if s.lnkState p = 1 ∧ (s.rdB (Reg.LNK_CFG p) 3 3 = 1 ∨ (s.port p).retrain)
      ∧ (s.port p).since + s.rdB (Reg.LNK_CFG p) 47 32 ≤ s.now then s.lnkDetect p else s

def execHoldoffExpire (port : BitVec 4) (s : State) : Host.Outcome State Fault Refusal :=
  live s (fxHoldoffExpire port.toNat)

/-- DOWN_FLIT_END (R329): after 10 µs the port stops sending. -/
def fxDownFlitEnd (p : Nat) (s : State) : State :=
  let x := s.port p
  if x.downTx ∧ x.downAt + 1000 ≤ s.now then s.setPort p { x with downTx := false } else s

def execDownFlitEnd (port : BitVec 4) (s : State) : Host.Outcome State Fault Refusal :=
  live s (fxDownFlitEnd port.toNat)

/-- REPLAY_TIMEOUT (R322). The timer that has expired restarts when the flit at U is sent again. -/
def fxReplayTimeout (p : Nat) (s : State) : State :=
  let x := s.port p
  match x.buf with
  | f :: _ =>
    if s.lnkState p = 4 ∧ f.sentAt + s.rdB (Reg.LNK_TMO p) 15 0 ≤ s.now ∧ ¬(x.replay = some x.u ∧ x.passAck = none) then
      s.startPass p none
    else s
  | [] => s

def execReplayTimeout (port : BitVec 4) (s : State) : Host.Outcome State Fault Refusal :=
  live s (fxReplayTimeout port.toNat)

/-- REPLAY_WINDOW_END (R327): the port has transmitted the 2^20 flits of a window. -/
def fxReplayWindowEnd (p : Nat) (s : State) : State :=
  if s.lnkState p = 4 ∧ 2 ^ 20 ≤ (s.port p).slots then
    (s.wrB (Reg.LNK_CNT_REPLAY p) 15 0 0).setPort p { s.port p with hi := false, slots := (s.port p).slots - 2 ^ 20 }
  else s

def execReplayWindowEnd (port : BitVec 4) (s : State) : Host.Outcome State Fault Refusal :=
  live s (fxReplayWindowEnd port.toNat)

/-- RXTIMEOUT (R328). -/
def fxRxtimeout (p : Nat) (s : State) : State :=
  if s.lnkState p = 4 ∧ (s.port p).lastGood + s.rdB (Reg.LNK_TMO p) 47 32 ≤ s.now then s.linkDown p 2 1 else s

def execRxtimeout (port : BitVec 4) (s : State) : Host.Outcome State Fault Refusal :=
  live s (fxRxtimeout port.toNat)

/-- A write of LNK_CTL (R328, R333): RESET, DISABLE, ENABLE, in this order. -/
def State.lnkCtl (s : State) (p : Nat) (v : Word) : State :=
  let s := if bit v 0 then
      (let st := s.lnkState p
       if st = 1 then s.lnkDetect p else if st = 0 then s else s.linkDown p 6 1)
    else s
  let s := if bit v 1 then
      (let st := s.lnkState p
       if st = 0 then s else if st = 1 then s.lnkEnter p 0 else s.linkDown p 7 0)
    else s
  if bit v 2 ∧ s.lnkState p ≤ 1 then s.lnkDetect p else s

end Sys2Proof.Machine
end

