-- ==== Sys2Proof/Machine/Crypto.lean ====
section
/-!
DEFINITION. The digest and the signature of the security block (R429): SM3 of GB/T 32905, and SM2 of GB/T 32918 on its
recommended 256-bit curve. The two specifications are cited by the spec and not part of it (log entry 6).
-/

namespace Sys2Proof.Machine

/-- Big-endian bytes of a number. -/
def beBytes (n v : Nat) : List Byte := (toBytes n v).reverse

/-- The number that big-endian bytes spell. -/
def ofBe (bs : List Byte) : Nat := ofBytes bs.reverse

/-! ### SM3 -/

abbrev W32 := BitVec 32

def sm3P0 (x : W32) : W32 := x ^^^ x.rotateLeft 9 ^^^ x.rotateLeft 17
def sm3P1 (x : W32) : W32 := x ^^^ x.rotateLeft 15 ^^^ x.rotateLeft 23

/-- The expanded words of a block, newest first: each next one from those before it. -/
def sm3Expand : Nat → List W32 → List W32
  | 0, ws => ws
  | k + 1, ws =>
    let g (i : Nat) : W32 := nth ws (i - 1) 0
    sm3Expand k ((sm3P1 (g 16 ^^^ g 9 ^^^ (g 3).rotateLeft 15) ^^^ (g 13).rotateLeft 7 ^^^ g 6) :: ws)

/-- The registers A to H of the compression. -/
structure Sm3 where
  a : W32
  b : W32
  c : W32
  d : W32
  e : W32
  f : W32
  g : W32
  h : W32
  deriving DecidableEq, Repr

def sm3Init : Sm3 :=
  ⟨0x7380166f, 0x4914b2b9, 0x172442d7, 0xda8a0600, 0xa96f30bc, 0x163138aa, 0xe38dee4d, 0xb0fb0e4e⟩

/-- Round j with words W_j and W_(j+4). -/
def sm3Round (v : Sm3) (j : Nat) (wj wj4 : W32) : Sm3 :=
  let t : W32 := if j < 16 then 0x79cc4519 else 0x7a879d8a
  let ss1 := (v.a.rotateLeft 12 + v.e + t.rotateLeft (j % 32)).rotateLeft 7
  let ss2 := ss1 ^^^ v.a.rotateLeft 12
  let ff := if j < 16 then v.a ^^^ v.b ^^^ v.c else (v.a &&& v.b) ||| (v.a &&& v.c) ||| (v.b &&& v.c)
  let gg := if j < 16 then v.e ^^^ v.f ^^^ v.g else (v.e &&& v.f) ||| (~~~ v.e &&& v.g)
  let tt1 := ff + v.d + ss2 + (wj ^^^ wj4)
  let tt2 := gg + v.h + ss1 + wj
  ⟨tt1, v.a, v.b.rotateLeft 9, v.c, sm3P0 tt2, v.e, v.f.rotateLeft 19, v.g⟩

def sm3Block (v : Sm3) (blk : List Byte) : Sm3 :=
  let ws := (sm3Expand 52 ((pieces 4 blk).map (fun b => BitVec.ofNat 32 (ofBe b))).reverse).reverse
  let r := ((List.range 64).zip (ws.zip (ws.drop 4))).foldl
    (fun (r : Sm3) (e : Nat × W32 × W32) => sm3Round r e.1 e.2.1 e.2.2) v
  ⟨v.a ^^^ r.a, v.b ^^^ r.b, v.c ^^^ r.c, v.d ^^^ r.d, v.e ^^^ r.e, v.f ^^^ r.f, v.g ^^^ r.g, v.h ^^^ r.h⟩

/-- The SM3 digest, 32 bytes. -/
def sm3 (m : List Byte) : List Byte :=
  let k := (119 - m.length % 64) % 64
  let p := m ++ [0x80] ++ zeroBytes k ++ beBytes 8 (8 * m.length)
  let v := (pieces 64 p).foldl sm3Block sm3Init
  ([v.a, v.b, v.c, v.d, v.e, v.f, v.g, v.h].map fun x => beBytes 4 x.toNat).flatten

/-! ### SM2 -/

def Sm2.p : Nat := 0xFFFFFFFEFFFFFFFFFFFFFFFFFFFFFFFFFFFFFFFF00000000FFFFFFFFFFFFFFFF
def Sm2.b : Nat := 0x28E9FA9E9D9F5E344D5A9E4BCF6509A7F39789F515AB8F92DDBCBD414D940E93
def Sm2.n : Nat := 0xFFFFFFFEFFFFFFFFFFFFFFFFFFFFFFFF7203DF6B21C6052B53BBF40939D54123
def Sm2.gx : Nat := 0x32C4AE2C1F1981195F9904466A39C9948FE30BBFF2660BE1715A4589334C74C7
def Sm2.gy : Nat := 0xBC3736A2F4F6779C59BDCEE36B692153D0A9877CC62A474002DF32E52139F0A0

/-- Euclid's algorithm from the remainders a and b, whose cofactors have the magnitudes u and v and opposite signs; `neg` says that
the sign of u is negative. The cofactor of the last remainder that is not zero, modulo m. -/
def euclid (m : Nat) : Nat → Nat → Nat → Nat → Nat → Bool → Nat
  | 0, _, _, _, _, _ => 0
  | k + 1, a, b, u, v, neg =>
    if b = 0 then (if neg then (m - u % m) % m else u % m)
    else euclid m k b (a % b) v (u + a / b * v) (!neg)

/-- The inverse modulo a prime of 256 bits: the algorithm ends within 400 divisions. -/
def invMod (m a : Nat) : Nat := euclid m 400 m (a % m) 0 1 true

/-- A point of the curve; none is the point at infinity. -/
abbrev Pt := Option (Nat × Nat)

/-- Addition on the curve. -/
def ptAdd (x y : Pt) : Pt :=
  match x, y with
  | none, q => q
  | q, none => q
  | some (x1, y1), some (x2, y2) =>
    if x1 = x2 ∧ (y1 + y2) % Sm2.p = 0 then none
    else
      let l := if x1 = x2 then (3 * x1 * x1 + (Sm2.p - 3)) * invMod Sm2.p (2 * y1) % Sm2.p
        else (y2 + Sm2.p - y1) * invMod Sm2.p (x2 + Sm2.p - x1) % Sm2.p
      let x3 := (l * l + 2 * Sm2.p - x1 - x2) % Sm2.p
      some (x3, (l * (x1 + Sm2.p - x3) + Sm2.p - y1) % Sm2.p)

/-- k times a point, over the low `f` bits of k. -/
def ptMul : Nat → Nat → Pt → Pt
  | 0, _, _ => none
  | f + 1, k, q => ptAdd (if k % 2 = 1 then q else none) (ptMul f (k / 2) (ptAdd q q))

def sm2G : Pt := some (Sm2.gx, Sm2.gy)

/-- The point lies on the curve. -/
def onCurve (x y : Nat) : Bool :=
  decide (x < Sm2.p) && decide (y < Sm2.p) &&
    decide (y * y % Sm2.p = (x * x * x + (Sm2.p - 3) * x + Sm2.b) % Sm2.p)

/-- The distinguishing identifier of every signer (R429). -/
def sm2Id : List Byte := [0x4C, 0x4D, 0x56, 0x54, 0x4F, 0x4C, 0x52, 0x58]

/-- The number signed for a message under a public key of 64 bytes: SM3 of Z and M. -/
def sm2E (pub m : List Byte) : Nat :=
  let z := sm3 ([0x00, 0x40] ++ sm2Id ++ beBytes 32 (Sm2.p - 3) ++ beBytes 32 Sm2.b ++ beBytes 32 Sm2.gx
    ++ beBytes 32 Sm2.gy ++ pub)
  ofBe (sm3 (z ++ m))

/-- A signature of 64 bytes verifies. -/
def sm2Verify (pub m sig : List Byte) : Bool :=
  let x := ofBe (pub.take 32)
  let y := ofBe ((pub.drop 32).take 32)
  let r := ofBe (sig.take 32)
  let s := ofBe ((sig.drop 32).take 32)
  let t := (r + s) % Sm2.n
  decide (pub.length = 64) && decide (sig.length = 64) && onCurve x y && decide (1 ≤ r) && decide (r < Sm2.n)
    && decide (1 ≤ s) && decide (s < Sm2.n) && decide (t ≠ 0) &&
    (match ptAdd (ptMul 256 s sm2G) (ptMul 256 t (some (x, y))) with
     | some (x1, _) => decide ((sm2E pub m + x1) % Sm2.n = r)
     | none => false)

/-- The public key of a private key. -/
def sm2Pub (d : Nat) : List Byte :=
  match ptMul 256 d sm2G with
  | some (x, y) => beBytes 32 x ++ beBytes 32 y
  | none => zeroBytes 64

/-- Sign with a private key and a random number; a number that the algorithm rejects gives way to the next one. -/
def sm2Sign (d : Nat) (m : List Byte) (k : Nat) : Nat → List Byte
  | 0 => zeroBytes 64
  | f + 1 =>
    match ptMul 256 k sm2G with
    | none => sm2Sign d m (k + 1) f
    | some (x1, _) =>
      let r := (sm2E (sm2Pub d) m + x1) % Sm2.n
      let s := invMod Sm2.n (1 + d) * (k + Sm2.n * Sm2.n - r * d) % Sm2.n
      if r = 0 ∨ r + k = Sm2.n ∨ s = 0 then sm2Sign d m (k % (Sm2.n - 1) + 1) f else beBytes 32 r ++ beBytes 32 s

/-- The identity private key (R436). -/
def identityKey : Nat :=
  let seed := beBytes 32 Config.identitySeed.toNat
  ofBe (sm3 (seed ++ [0x4C, 0x4D, 0x56, 0x2D, 0x49, 0x44])) % (Sm2.n - 1) + 1

end Sys2Proof.Machine
end

