-- ==== Sys2Proof/Machine/Admission.lean ====
section
/-!
DEFINITION. Micro-batch queues and admission (R91 to R115, R492) and the forward's references and pages (R123 to R125).
-/

namespace Sys2Proof.Machine

/-! ### Slots and positions (R67, R70, R71) -/

def State.slotWord (s : State) (n x k : Nat) : Word := s.rd (Reg.CAD_SLOT n x k)
def slotKind (v : Word) : Nat := bits v 3 0
def slotBudget (v : Word) : Nat := bits v 63 32

/-- The compressed floor of a slot: BUDGET × FLOOR ÷ 16, rounded up (R67). -/
def slotFloor (v : Word) : Nat := ceilDiv (slotBudget v * bits v 28 24) 16

/-- The slot's offset: unsigned for FWD, signed for BWD, OFFLOAD and PREFETCH (R67). -/
def slotOffset (v : Word) : Int := if slotKind v = 1 then (bits v 15 8 : Int) else sgn 8 (bits v 15 8)

/-- The position that a slot names (R70). -/
def State.slotPos (s : State) (n x : Nat) (v : Word) : Int := ((s.rd (Reg.CAD_FBASE n x)).toNat : Int) + slotOffset v

/-- A slot names a micro-batch. -/
def slotNames (v : Word) : Bool := slotKind v == 1 || slotKind v == 2 || slotKind v == 4 || slotKind v == 5

/-- A void slot (R71). -/
def State.slotVoid (s : State) (n x : Nat) (v : Word) : Bool :=
  slotNames v && (decide (s.slotPos n x v < 0) ||
    (s.rdB (Reg.CAD_CTL n x) 0 0 == 1 && decide (((s.rd (Reg.CAD_END n x)).toNat : Int) ≤ s.slotPos n x v)))

/-- The kind a slot runs as: a void slot runs as BACKHAUL in a hosting stage, as HOLD in any other (R71). -/
def State.slotRuns (s : State) (n x : Nat) (v : Word) : Nat :=
  if s.slotVoid n x v then (if s.ctxHosts n x then 6 else 0) else slotKind v

/-- The slot in progress of a context. -/
def State.curSlot (s : State) (n x : Nat) : Word := s.slotWord n x (s.rdB (Reg.CAD_STATUS n x) 7 0)

/-! ### Contexts and pages -/

def State.maxCtx (s : State) (n x : Nat) : Nat := s.rdB (Reg.MBQ_CFG n x) 8 0
def State.noBwd (s : State) (n x : Nat) : Bool := s.rdB (Reg.MBQ_CFG n x) 11 11 == 1
def State.bytesPerToken (s : State) (n x : Nat) : Nat := s.rdB (Reg.MBQ_CFG n x) 63 32
def State.poolPages (s : State) (n x : Nat) : Nat := s.rdB (Reg.MBQ_POOL n x) 31 0

/-- The lowest free context within MAX_CONTEXTS (R98). -/
def State.freeCtx (s : State) (n x : Nat) : Option Nat :=
  (List.range (s.maxCtx n x)).find? fun c => (s.mbc n x c).state == 0

/-- The context that holds a position, in a state other than FREE. -/
def State.ctxAt (s : State) (n x : Nat) (p : Int) : Option Nat :=
  (List.range 256).find? fun c => (s.mbc n x c).state != 0 && decide ((s.mbc n x c).pos = p)

/-- The lowest-numbered free pages of the pool (R101); none when there are fewer than k. -/
def State.takePages (s : State) (n x k : Nat) : Option (List Nat) :=
  let used := s.usedPages n x
  let free := (List.range (s.poolPages n x)).filter fun p => !used.contains p
  if k ≤ free.length then some (free.take k) else none

/-- Pages that a micro-batch of a length reserves (R101). -/
def State.pagesFor (s : State) (n x len : Nat) : Nat := ceilDiv (len * s.bytesPerToken n x) 2048

/-- Keep MBQ_POOL_PEAK at the largest reserved count. -/
def State.poolPeak (s : State) (n x : Nat) : State :=
  let r := (s.usedPages n x).length
  if s.rdB (Reg.MBQ_POOL_PEAK n x) 31 0 < r then s.wr (Reg.MBQ_POOL_PEAK n x) (w r) else s

/-- Free a micro-batch context (R98, R103). -/
def State.freeMb (s : State) (n x c : Nat) : State :=
  let m := s.mbc n x c
  let s := s.dropRefs m.refs
  s.setMbc n x c {}

/-! ### Events and messages -/

/-- An event of the MBQ_ block about a descriptor (R453). -/
def State.mbqEvent (s : State) (n x ev status : Nat) (d : List Byte) : State :=
  s.raise n Blk.mbq (Reg.MBQ_EVT n x) (Reg.MBQ_EVT_EN n x) ev
    { status := status, unit := x, info0 := w (dSeq d + at_ 32 (dLength d)), info1 := w (dStep d) }

/-- The error completion message (R107). -/
def State.errorCompletion (s : State) (n x : Nat) (d : List Byte) : List Byte :=
  toBytes 1 1 ++ toBytes 1 St.toolong ++ toBytes 1 n ++ toBytes 1 x ++ toBytes 4 (dSeq d) ++ toBytes 4 (dLength d)
    ++ toBytes 4 (dStep d) ++ toBytes 8 s.now ++ toBytes 8 (dUser d)

/-- Send the error completion; it never waits (R107). -/
def State.sendErrorCompletion (s : State) (n x : Nat) (d : List Byte) : State :=
  if dRetQueue d = 0x1FFF then s
  else if dRetDev d = s.devId then
    match s.qAccept (dRetQueue d) (s.errorCompletion n x d) false with
    | (.ok, s) => s
    | (_, s) => s.mbqEvent n x 5 0 d
  else s.remoteSend (.fire n x) (dRetDev d) (dRetQueue d) (s.errorCompletion n x d) 0

/-! ### The head of an input queue (R95 to R97) -/

/-- What a waiting slot finds at its input queue. -/
inductive Head where
  | none
  | ahead (d : List Byte)
  | found (d : List Byte)
  deriving DecidableEq, Repr

/-- Examine the heads of a queue for position p: behind heads are discarded (R96). DESIGN CHOICE (log entry 85): a head whose ring
read ends with PARITY or POISON counts as no head, and the slot waits. -/
def State.headFor (s : State) (n x q : Nat) (p : Int) : Nat → Head × State
  | 0 => (.none, s)
  | k + 1 =>
    if !s.qReady q then (.none, s) else
    let (st, d, s) := s.qHeadRead q
    if st ≠ 0 then (.none, s) else
    let diff := unsgn 32 ((dSeq d : Int) - p)
    if diff = 0 then (.found d, s)
    else if diff < 2 ^ 31 then (.ahead d, s)
    else
      let s := s.qPop q
      let s := s.addB (Reg.MBQ_REFUSED n x) 63 32 1
      let s := s.mbqEvent n x 1 0 d
      State.headFor s n x q p k

/-- Set MBQ_STATUS.WAIT: 0 none, 1 sequence ahead, 2 gate, 3 context, 4 pool or ledger. -/
def State.setWait (s : State) (n x k : Nat) : State := s.wrB (Reg.MBQ_STATUS n x) 4 2 k

/-- The slot waits: CAD_STATUS.STATE 2. -/
def State.slotWaits (s : State) (n x k : Nat) : State := (s.setWait n x k).cadState n x 2

/-- An ahead head: SEQAHEAD once per wait (R97). -/
def State.headAhead (s : State) (n x : Nat) (d : List Byte) : State :=
  let first := decide (s.rdB (Reg.MBQ_STATUS n x) 4 2 ≠ 1)
  let s := s.slotWaits n x 1
  if first then s.mbqEvent n x 2 0 d else s

/-- Walk a queue's entries from an offset: the first that is neither a skip nor behind position p matches it. -/
def State.walkFor (s : State) (q : Nat) (p : Int) : Nat → Nat → Bool
  | 0, _ => false
  | k + 1, off =>
    let t := s.qTag q off
    let next := (off + 16 * tagUnits t) % s.qBytes q
    if tagUnits t = 0 then false
    else if tagSkip t then State.walkFor s q p k next
    else
      let diff := unsgn 32 ((s.rawNat (s.qRing q + off) 4 : Int) - p)
      if diff = 0 then true else if diff < 2 ^ 31 then false else State.walkFor s q p k next

/-- The micro-batch of position p is ready in a queue: the first head that is not behind it matches (R95, R96). -/
def State.mbReady (s : State) (q : Nat) (p : Int) : Bool :=
  s.qReady q && s.walkFor q p (s.qEntries q) (s.qHeadOff q)

/-! ### Prefetches waiting for pages (R310) -/

/-- The moves between a context's pages and its frames: page i to frame i for an offload, back for a prefetch (R308 to
R310). -/
def State.oflMoves (s : State) (n x o : Nat) (pages frames : List Nat) (fetch : Bool) : List (Nat × Nat × Nat) :=
  let pool := s.devId * 2 ^ 46 + (s.stg n x).poolBase
  let base := (s.rd (Reg.OFL_BASE o)).toNat
  (pages.zip frames).map fun e =>
    let p := pool + 2048 * e.1
    let f := base + 2048 * e.2
    if fetch then (f, p, 2048) else (p, f, 2048)

/-- Start the copies of a context's transfer under the engine's master ID. -/
def State.oflCopy (s : State) (n x c o : Nat) (fetch : Bool) : State :=
  let m := s.mbc n x c
  let s := s.setMbc n x c { m with xfer := true, prefWait := false, xid := s.nextId }
  (s.xferStart ⟨.offload (mbKey n x c), 0, 0xD4, s.oflMoves n x o m.pages m.frames fetch, false, [], none, none, 0⟩).2

/-- Reserve pages for one context whose prefetch waits, and start the copy back (R310). -/
def State.prefetchPages (s : State) (n x c : Nat) : State :=
  let m := s.mbc n x c
  if m.prefWait then
    match s.takePages n x m.npages with
    | some ps =>
      ((s.setMbc n x c { m with pages := ps }).poolPeak n x).oflCopy n x c ((s.stg n x).ofl.getD 0) true
    | none => s
  else s

/-- Serve the waiting prefetches of a stage before any admission (R310). -/
def State.servePrefetch (s : State) (n x : Nat) : State :=
  (List.range 256).foldl (fun s c => s.prefetchPages n x c) s

/-- A prefetch of the stage still waits for pages. -/
def State.prefetchWaits (s : State) (n x : Nat) : Bool := (List.range 256).any fun c => (s.mbc n x c).prefWait

/-! ### Releases (R103, R104, R109, R309 to R311) -/

/-- An event of the engine (R453). -/
def State.oflEvent (s : State) (o ev status : Nat) : State :=
  s.raise 4 Blk.ofl Reg.OFL_EVT Reg.OFL_EVT_EN ev
    { status := status, master := 0xD4, unit := o, at0 := some Reg.OFL_LAST }

/-- Record a failed transfer. -/
def State.oflLast (s : State) (o status : Nat) (fetch : Bool) (seq : Nat) : State :=
  s.wr Reg.OFL_LAST (w (status + at_ 8 o + at_ 15 (if fetch then 1 else 0) + at_ 32 seq))

/-- The status of the finished transfer of a micro-batch, in a direction; none while it runs or when there is none. -/
def State.oflEnded (s : State) (n x c : Nat) (fetch : Bool) : Option Nat :=
  let m := s.mbc n x c
  if m.xfer && m.offloaded == fetch && m.state != 0 then (s.xfer m.xid).ended else none

/-- The transfer of a micro-batch is over. -/
def State.oflOver (s : State) (n x c : Nat) (m : MbCtx) : State :=
  (s.dropXfers (.offload (mbKey n x c))).setMbc n x c { m with xfer := false }

/-- OFFLOAD_DONE (R309). -/
def fxOffloadDone (n x c : Nat) (s : State) : State :=
  if s.oflEnded n x c false = some 0 then
    let m := s.mbc n x c
    let o := (s.stg n x).ofl.getD 0
    (s.oflOver n x c { m with pages := [], offloaded := true }).addB (Reg.OFL_CNT_OUT o) 63 0 m.npages
  else s

/-- OFLFAIL (R311). -/
def fxOflfail (n x c : Nat) (s : State) : State :=
  match s.oflEnded n x c false with
  | some st =>
    if st = 0 then s else
    let m := s.mbc n x c
    let o := (s.stg n x).ofl.getD 0
    ((s.oflOver n x c { m with frames := [] }).oflLast o st false (dSeq m.desc)).oflEvent o 0 st
  | none => s

/-- PREFETCH_DONE (R310). -/
def fxPrefetchDone (n x c : Nat) (s : State) : State :=
  if s.oflEnded n x c true = some 0 then
    let m := s.mbc n x c
    let o := (s.stg n x).ofl.getD 0
    (s.oflOver n x c { m with frames := [], offloaded := false }).addB (Reg.OFL_CNT_IN o) 63 0 m.npages
  else s

/-- FETCHFAIL (R311). -/
def fxFetchfail (n x c : Nat) (s : State) : State :=
  match s.oflEnded n x c true with
  | some st =>
    if st = 0 then s else
    let m := s.mbc n x c
    let o := (s.stg n x).ofl.getD 0
    let s := s.oflOver n x c { m with
      pages := [], frames := [], offloaded := false, state := 5, abortReq := false }
    (s.oflLast o st true (dSeq m.desc)).oflEvent o 1 st
  | none => s

/-- The abort releases the pages and sets the context ABORTED (R109); its frames are freed (R311). -/
def State.abortMb (s : State) (n x c : Nat) : State :=
  let m := s.mbc n x c
  s.setMbc n x c { m with state := 5, pages := [], frames := [], offloaded := false, abortReq := false, prefWait := false }

/-- ABORT_RELEASE (R109): the transfers of a micro-batch whose abort waits have finished. -/
def fxAbortRelease (n x c : Nat) (s : State) : State :=
  let m := s.mbc n x c
  if m.abortReq && !m.xfer && m.state == 2 then s.abortMb n x c else s

/-- The releases of a context that have become due: an offload whose writes are all acknowledged, a prefetch that failed, and an
abort whose transfer has finished (R104). -/
def State.dueRelease (s : State) (n x c : Nat) : State :=
  let s := fxFetchfail n x c (fxOffloadDone n x c s)
  let s := if (s.mbc n x c).abortReq then fxPrefetchDone n x c (fxOflfail n x c s) else s
  fxAbortRelease n x c s

/-- Every release of a stage that has become due is applied first at each admission point (R104): those of the contexts that are
not FREE, which alone hold pages or have transfers. -/
def State.dueReleases (s : State) (n x : Nat) : State :=
  ((List.range 256).filter fun c => (s.mbc n x c).state != 0).foldl (fun s c => s.dueRelease n x c) s

/-! ### Admission (R100) -/

/-- The predicate of a FWD slot on a routing mask (R75). -/
def predTrue (v : Word) (mask : Nat) : Bool :=
  if bit v 4 then xor (mask.testBit (bits v 21 16)) (bit v 5) else true

/-- Take the descriptor off the forward queue into a context that passes through (R76, R98). -/
def State.admitPass (s : State) (n x c : Nat) (p : Int) (d : List Byte) : State :=
  let g := s.stg n x
  let s := s.qPop g.inFwd
  let s := s.setMbc n x c { state := 4, pos := p, desc := d, admitted := s.now }
  let s := s.addB (Reg.MBQ_PASSED n x) 63 0 1
  let s := s.wrB (Reg.CAD_STATUS n x) 14 14 1
  let s := s.setWait n x 0
  let s := s.cadState n x 1
  let g := s.stg n x
  let s := if g.routed then
      let u := s.dsp n
      s.setDsp n { u with queue := u.queue ++ [{ ctx := x, master := 32 * n, pass := some d }] }
    else s
  s.setStg n x { g with phase := .send, mb := some c, inDesc := d, outDesc := d, sent := false, dspPend := g.routed
                        poolFlag := false, ledFlag := false }

/-- Admit a micro-batch for computing: its pages, its references, its version tag, and the start of its program (R100,
R101, R123, R262). -/
def State.admitCompute (s : State) (n x c : Nat) (p : Int) (d : List Byte) (ps : List Nat) : State :=
  let g := s.stg n x
  let tag := s.versionTag g.shards
  let s := s.qPop g.inFwd
  let (rs, s) := s.takeRefs g.shards
  let s := s.setMbc n x c
    { state := 1, pos := p, desc := dSetVersion d tag, tag := tag, refs := rs, pages := ps, npages := ps.length, admitted := s.now }
  let s := s.poolPeak n x
  let s := s.addB (Reg.MBQ_ADMITTED n x) 63 0 1
  let s := s.setWait n x 0
  let s := s.cadState n x 1
  let g := s.stg n x
  let s := s.setStg n x { g with phase := .work, mb := some c, inDesc := d, outDesc := dSetVersion d tag, sent := false
                                 poolFlag := false, ledFlag := false }
  s.startUnits n x false d

/-- Checks 4 to 7 of R100, with the ledger test of R125, for a head that matches. While a prefetch of the stage waits for pages,
none is admitted for computing (R310). DESIGN CHOICE (log entry 82): the LEDWAIT entry of a forward, which may wait on several
ledgers, names none: INFO1 is all ones. -/
def State.admitChecks (s : State) (n x c : Nat) (p : Int) (d : List Byte) : State :=
  let g := s.stg n x
  if dRefused d ∨ dLength d = 0 then s.admitPass n x c p d
  else if s.rdB (Reg.MBQ_MAXLEN n x) 31 0 < dLength d then
    let s := s.sendErrorCompletion n x d
    let s := s.addB (Reg.MBQ_REFUSED n x) 31 0 1
    let s := s.mbqEvent n x 0 St.toolong d
    s.admitPass n x c p (dSetRefused d)
  else if !predTrue (s.curSlot n x) (dMask d) then s.admitPass n x c p d
  else if s.anyDamaged g.shards then s.stopStage n x
  else
    let pool := if s.prefetchWaits n x then none else s.takePages n x (s.pagesFor n x (dLength d))
    let room := s.ledRoom g.shards
    match pool, room with
    | some ps, true => s.admitCompute n x c p d ps
    | pool, room =>
      let s := s.slotWaits n x 4
      let s := if pool.isNone && !g.poolFlag then s.mbqEvent n x 3 0 d else s
      let s := if !room && !g.ledFlag then s.ledEvent 2 0 none else s
      s.setStg n x { s.stg n x with poolFlag := g.poolFlag || pool.isNone, ledFlag := g.ledFlag || !room }

/-- The admission of a waiting FWD slot (R100, R104): the releases that are due, then prefetches, then the checks in order. -/
def State.admitFwd (s : State) (n x : Nat) : State :=
  let s := (s.dueReleases n x).servePrefetch n x
  let g := s.stg n x
  let p := s.slotPos n x (s.curSlot n x)
  match s.headFor n x g.inFwd p (s.qEntries g.inFwd + 1) with
  | (.none, s) => s.slotWaits n x 0
  | (.ahead d, s) => s.headAhead n x d
  | (.found d, s) =>
    let gate := s.rd (Reg.MBQ_GATE n x)
    if bit gate 63 && decide (s.msVal (bits gate 13 0) < dStep d) then s.slotWaits n x 2
    else match s.freeCtx n x with
    | none => s.slotWaits n x 3
    | some c => s.admitChecks n x c p d

/-! ### The backward slot (R77, R108, R110, R310, R492) -/

/-- Ask for the prefetch of an offloaded micro-batch (R310). -/
def State.askPrefetch (s : State) (n x c : Nat) : State :=
  let m := s.mbc n x c
  if m.offloaded && !m.xfer && !m.prefWait then
    s.setMbc n x c { m with prefWait := true }
  else s

/-- The BWD slot sends `d` without running a program. -/
def State.bwdSend (s : State) (n x : Nat) (c : Option Nat) (d : List Byte) (pass : Bool) : State :=
  let s := s.wrB (Reg.CAD_STATUS n x) 14 14 (if pass then 1 else 0)
  let s := s.cadState n x 1
  s.setStg n x { s.stg n x with phase := .send, mb := c, inDesc := d, outDesc := d, sent := false }

/-- A matching backward that finds no context in STASHED, PASSED or ABORTED: the descriptor goes on with REFUSED set, and NOCTX
follows once it has been sent (R492). -/
def State.bwdNoCtx (s : State) (n x : Nat) (d : List Byte) : State :=
  let s := s.bwdSend n x none (dSetRefused d) false
  s.setStg n x { s.stg n x with noCtx := true }

/-- A matching backward: by the state of the position's context. A context that was aborted is passed through (R98, R108). DESIGN
CHOICE (log entry 83): a descriptor with REFUSED for a STASHED context waits while a transfer of the context runs. -/
def State.bwdMatch (s : State) (n x : Nat) (p : Int) (d : List Byte) (fromQueue : Bool) : State :=
  let g := s.stg n x
  let take (s : State) : State := if fromQueue then s.qPop g.inBwd else s
  match s.ctxAt n x p with
  | none => (take s).bwdNoCtx n x d
  | some c =>
    let m := s.mbc n x c
    if m.state = 4 then (take s).bwdSend n x (some c) d true
    else if s.anyDamaged (m.refs.map (·.1)) then s.stopStage n x
    else if m.state = 5 then ((take s).freeMb n x c).bwdSend n x none (dSetRefused d) true
    else if m.state = 2 then
      if dRefused d then
        if m.xfer then s.slotWaits n x 0 else ((take s).freeMb n x c).bwdSend n x none (dSetRefused d) false
      else if m.offloaded || m.xfer then
        let s := s.askPrefetch n x c
        let s := if g.lateFlag then s else match g.ofl with
          | some o => s.addB (Reg.OFL_CNT_SKIP o) 63 32 1
          | none => s
        (s.setStg n x { s.stg n x with lateFlag := true }).slotWaits n x 0
      else
        let s := take s
        let s := s.setMbc n x c { m with state := 3 }
        let s := s.cadState n x 1
        let s := s.setStg n x { s.stg n x with
          phase := .work, mb := some c, inDesc := d, outDesc := d, sent := false, lateFlag := false }
        s.startUnits n x true d
    else (take s).bwdNoCtx n x d

/-- A BWD slot looks for its descriptor; a LAST stage without a backward queue takes its own context (R110). DESIGN CHOICE (log
entry 84): so does any other stage whose IN_BWD is 0xFFFF. -/
def State.bwdTry (s : State) (n x : Nat) : State :=
  let s := s.dueReleases n x
  let g := s.stg n x
  let p := s.slotPos n x (s.curSlot n x)
  if g.inBwd = 0xFFFF then
    match s.ctxAt n x p with
    | some c => s.bwdMatch n x p (s.mbc n x c).desc false
    | none => s.slotWaits n x 0
  else match s.headFor n x g.inBwd p (s.qEntries g.inBwd + 1) with
  | (.none, s) => s.slotWaits n x 0
  | (.ahead d, s) => s.headAhead n x d
  | (.found d, s) => s.bwdMatch n x p d true

/-- What acceptance of the slot's descriptor releases (R98, R103, R124). -/
def State.slotReleases (s : State) (n x : Nat) (fwd : Bool) : State :=
  match (s.stg n x).mb with
  | none => s
  | some c =>
    let m := s.mbc n x c
    if fwd then
      if s.noBwd n x then s.freeMb n x c
      else if m.state = 1 then s.setMbc n x c { m with state := 2 } else s
    else s.freeMb n x c

/-! ### The commands -/

/-- ADMISSION (R104): an admission point of a stage whose FWD slot waits; a BWD slot that waits for its descriptor or
its activations looks again in the same way. -/
def fxAdmission (n x : Nat) (s : State) : State :=
  let g := s.stg n x
  if s.ctxValid n x && g.running && g.phase == .await then
    let k := s.slotRuns n x (s.curSlot n x)
    if k = 1 then s.admitFwd n x else if k = 2 then s.bwdTry n x else s
  else s

def execAdmission (die : BitVec 2) (ctx : BitVec 5) (s : State) : Host.Outcome State Fault Refusal :=
  live s (fxAdmission die.toNat ctx.toNat)

/-- MBQ_ABORT (R109): abort the STASHED micro-batch of a SEQ, at once or after its transfers; otherwise ABORTFAIL. -/
def State.mbqAbort (s : State) (n x : Nat) (v : Word) : State :=
  if !s.ctxValid n x || !bit v 63 then s else
  match (List.range 256).find? fun c => (s.mbc n x c).state == 2 && dSeq (s.mbc n x c).desc == bits v 31 0 with
  | some c =>
    let m := s.mbc n x c
    if m.xfer then s.setMbc n x c { m with abortReq := true } else s.abortMb n x c
  | none => s.raise n Blk.mbq (Reg.MBQ_EVT n x) (Reg.MBQ_EVT_EN n x) 4 { unit := x, info0 := w (bits v 31 0) }

/-- ABORT_RELEASE (R109). -/
def execAbortRelease (die : BitVec 2) (ctx : BitVec 5) (mb : BitVec 8) (s : State) :
    Host.Outcome State Fault Refusal := live s (fxAbortRelease die.toNat ctx.toNat mb.toNat)

/-- MBQ_CTX_SEL: latch a snapshot of the selected context (R115). -/
def State.mbqLatch (s : State) (n : Nat) (v : Word) : State :=
  let x := bits v 4 0
  let c := bits v 15 8
  let m := s.mbc n x c
  let s := s.wr (Reg.MBQ_CTX_SEL n) (w (x + at_ 8 c))
  if !s.ctxValid n x || decide (s.maxCtx n x ≤ c) || m.state == 0 then
    [Reg.MBQ_CTX_DATA0 n, Reg.MBQ_CTX_DATA1 n, Reg.MBQ_CTX_DATA2 n, Reg.MBQ_CTX_DATA3 n].foldl (fun s a => s.wr a 0) s
  else
    let s := s.wr (Reg.MBQ_CTX_DATA0 n) (w (m.state + at_ 32 (dSeq m.desc)))
    let s := s.wr (Reg.MBQ_CTX_DATA1 n) (w (dLength m.desc + at_ 32 m.pages.length))
    let s := s.wr (Reg.MBQ_CTX_DATA2 n) m.tag
    s.wr (Reg.MBQ_CTX_DATA3 n) (w m.admitted)

end Sys2Proof.Machine
end

