-- ==== Sys2Proof/Machine/Cadence.lean ====
section
/-!
DEFINITION. Stage cadence and backhaul (R63 to R90): slots, lag and catch-up, backhaul switches, cadence events.
-/

namespace Sys2Proof.Machine

def State.lag (s : State) (n x : Nat) : Nat := s.rdB (Reg.CAD_LAG n x) 31 0
def State.level (s : State) (n x : Nat) : Nat := s.rdB (Reg.CAD_STATUS n x) 12 11
def State.slotT0 (s : State) (n x : Nat) : Nat := (s.rd (Reg.CAD_SLOT_T0 n x)).toNat

/-- The value of a stored register after a write of `v` on the bits of `m`: RW bits take the value, a 1 clears a W1C bit (R6,
R9); none when a field would leave its range, so that nothing changes (R485). `a` is the register's address. -/
def State.fieldNew (s : State) (a : Nat) (v m : Word) : Option Word :=
  match regFind a with
  | none => none
  | some h =>
    let rw := w h.row.rw &&& m
    let new := ((s.rd a &&& ~~~ rw) ||| (v &&& rw)) &&& ~~~ (v &&& w h.row.w1c &&& m)
    if h.row.inRange new then some new else none

/-- A write of a stored register. -/
def State.fieldWrite (s : State) (a : Nat) (v m : Word) : State :=
  match s.fieldNew a v m with
  | some new => s.wr a new
  | none => s

/-- The bits that a write of a whole register (0), of its low half (1) or of its high half (2) reaches. -/
def halfMask (k : Nat) : Word := if k = 0 then w (2 ^ 64 - 1) else if k = 1 then w (2 ^ 32 - 1) else w (2 ^ 64 - 2 ^ 32)

/-- Apply the register writes that waited for this slot boundary (R89): an entry holds the register's address plus the part
that the write reaches, and the value. -/
def State.applyPend (s : State) (n x : Nat) : State :=
  let g := s.stg n x
  let s := g.regPend.foldl (fun s e => s.fieldWrite (e.1 / 8 * 8) e.2 (halfMask (e.1 % 8))) s
  s.setStg n x { s.stg n x with regPend := [] }

/-- The cadence event message (R88). -/
def State.cadMessage (s : State) (n x ty : Nat) : List Byte :=
  toBytes 1 ty ++ toBytes 1 n ++ toBytes 1 x ++ toBytes 1 (s.rdB (Reg.CAD_STATUS n x) 7 0) ++ toBytes 4 (s.lag n x)
    ++ toBytes 8 s.now ++ toBytes 8 (s.rd (Reg.CAD_FBASE n x)).toNat ++ zeroBytes 8

/-- Raise LAGBOUND (0) or LAGSAT (1) and send the event message, which never waits (R88). -/
def State.cadEvent (s : State) (n x ev : Nat) : State :=
  let msg := s.cadMessage n x (ev + 1)
  let s := s.raise n Blk.cad (Reg.CAD_EVT n x) (Reg.CAD_EVT_EN n x) ev
    { unit := x, info0 := w (leAt msg 0 8), at1 := some (Reg.CAD_FBASE n x) }
  let q := s.rd (Reg.CAD_EVT_QUEUE n)
  if bit q 63 then
    match s.qAccept (bits q 12 0) msg false with
    | (.ok, s) => s
    | (_, s) => s.wr (Reg.CAD_EVT n x) (setBit (s.rd (Reg.CAD_EVT n x)) 2)
  else s

/-- Lag, level and events when a slot has occupied d ticks (R78, R79, R82, R83). -/
def State.lagAfter (s : State) (n x d budget : Nat) : State :=
  let l := s.lag n x
  let l' := min 0xFFFFFFFF (l + d - budget)
  let s := s.wr (Reg.CAD_LAG n x) (w l')
  let s := if s.rdB (Reg.CAD_LAG_MAX n x) 31 0 < l' then s.wr (Reg.CAD_LAG_MAX n x) (w l') else s
  let s := if l' = 0 then s.wrB (Reg.CAD_STATUS n x) 12 11 0
    else if l = 0 then s.wrB (Reg.CAD_STATUS n x) 12 11 1 else s
  let s := if l' = 0 then s.setStg n x { s.stg n x with lagRaised := false } else s
  let bound := s.rdB (Reg.CAD_LAG_BOUND n x) 31 0
  let s := if bound ≠ 0 ∧ bound < l' ∧ !(s.stg n x).lagRaised then
      (s.setStg n x { s.stg n x with lagRaised := true }).cadEvent n x 0
    else s
  if l' = 0xFFFFFFFF ∧ l ≠ 0xFFFFFFFF then s.cadEvent n x 1 else s

/-- The end of a period: the forward base and the period count advance, and the level rises while L is positive (R70,
R79). A backhaul stage has no level (R85). -/
def State.periodEnd (s : State) (n x : Nat) : State :=
  let s := s.wr (Reg.CAD_FBASE n x) (w ((s.rd (Reg.CAD_FBASE n x)).toNat + s.nfOf n x))
  let s := s.addB (Reg.CAD_PERIODS n x) 63 0 1
  if 0 < s.lag n x ∧ !s.ctxBackhaul n x then s.wrB (Reg.CAD_STATUS n x) 12 11 (min 3 (s.level n x + 1)) else s

/-- The slot in progress completes after occupying d ticks: the register writes that waited for this boundary, so that a flag
set here ends set (R11, R89), then lag and the next slot (R65, R78). -/
def State.slotDone (s : State) (n x d : Nat) : State :=
  let v := s.curSlot n x
  let void := s.slotVoid n x v
  let s := s.applyPend n x
  let compressed := s.ctxBackhaul n x == false && slotKind v != 0 && slotKind v != 6
    && decide ((s.stg n x).budget < slotBudget v) && !void
  let s := if compressed then s.addB (Reg.CAD_RECOVERED n x) 63 32 (slotBudget v - d) else s
  let s := if s.ctxBackhaul n x then s else s.lagAfter n x d (slotBudget v)
  let k := s.rdB (Reg.CAD_STATUS n x) 7 0
  let g := s.stg n x
  let fwd := slotKind v == 1 && !void
  let s := s.setStg n x { g with
    phase := .idle, mb := none, backhaulIdle := false, sent := false
    fwdDone := if fwd then (s.slotPos n x v).toNat + 1 else g.fwdDone }
  if k + 1 < s.slotCount n x then s.wrB (Reg.CAD_STATUS n x) 7 0 (k + 1)
  else (s.wrB (Reg.CAD_STATUS n x) 7 0 0).periodEnd n x

/-- Only the budget is waited for: CAD_STATUS.STATE 3. -/
def State.slotPads (s : State) (n x : Nat) (idle : Bool) : State :=
  (s.setStg n x { s.stg n x with phase := .pad, backhaulIdle := idle }).cadState n x 3

/-- The time the slot may occupy for padding has passed; a backhaul stage's slots have no padding (R85). -/
def State.budgetOver (s : State) (n x : Nat) : Bool :=
  s.ctxBackhaul n x || decide (s.slotT0 n x + (s.stg n x).budget ≤ s.now)

/-- Complete a padded slot whose budget has elapsed (R73). -/
def State.padDone (s : State) (n x : Nat) : State :=
  if (s.stg n x).phase == .pad && s.budgetOver n x then s.slotDone n x (s.now - s.slotT0 n x) else s

/-- Hand the named micro-batch to the offload engine's queue, or wait while it is full (R309, R310). -/
def State.handOffload (s : State) (n x : Nat) (fetch : Bool) : State :=
  let g := s.stg n x
  match g.ofl with
  | none => s.slotPads n x false
  | some o =>
    if 64 ≤ s.oflQueue.length then s.cadState n x 2
    else
      let p := s.slotPos n x (s.curSlot n x)
      let s := { s with oflQueue := s.oflQueue ++ [({ entry := o, n := n, x := x, pos := p, fetch := fetch } : OflReq)] }
      s.slotPads n x false

/-- An update started for one of the stage's owned shards is still writing (R73). -/
def State.updatesBusy (s : State) (n x : Nat) : Bool :=
  (s.stg n x).shards.any fun l =>
    (s.led l).owner && s.updEngines.any fun e => match e.2.trig with | some t => t.led == l | none => false

/-- Send the slot's descriptor to OUT_FWD or OUT_BWD; the send waits without limit (R110, R111). DESIGN CHOICE (log entry 88): a
refusal of a queue of this device other than for room leaves the slot waiting. -/
def State.sendDesc (s : State) (n x : Nat) : State :=
  let g := s.stg n x
  if g.sent || g.sending then s else
  let q := if slotKind (s.curSlot n x) = 1 then g.outFwd else g.outBwd
  if q = 0xFFFF then s.setStg n x { g with sent := true }
  else
    let s := s.setStg n x { g with sending := true }
    match s.sendTo q (.stage n x) g.outDesc with
    | (.ok, s) => s.setStg n x { s.stg n x with sent := true }
    | (_, s) => s.cadState n x 2

/-- After the descriptor is accepted: releases, the convoy count, NOCTX, then padding (R103, R112, R492). -/
def State.descSent (s : State) (n x : Nat) : State :=
  if (s.stg n x).phase == .send && (s.stg n x).sent then
    let fwd := slotKind (s.curSlot n x) == 1
    let s := s.slotReleases n x fwd
    let s := if fwd && dConvoyEnd (s.stg n x).outDesc then s.addB (Reg.MBQ_CONVOYS n x) 63 0 1 else s
    let s := if (s.stg n x).noCtx then s.mbqEvent n x 6 0 (s.stg n x).outDesc else s
    (s.setStg n x { s.stg n x with sending := false, sent := false, noCtx := false }).slotPads n x false
  else s

/-- Go on with a slot as far as its work allows (R73). -/
def State.slotProgress (s : State) (n x : Nat) : State :=
  let g := s.stg n x
  if !(s.ctxValid n x && g.running) then s else
  let k := s.slotRuns n x (s.curSlot n x)
  let s := if g.phase == .await then
      if k = 3 then (if s.updatesBusy n x then s else s.slotPads n x false)
      else if k = 4 then s.handOffload n x false
      else if k = 5 then s.handOffload n x true
      else s
    else s
  let s := if (s.stg n x).phase == .work && s.unitsIdle n x then
      s.setStg n x { s.stg n x with phase := .send } else s
  let s := if (s.stg n x).phase == .send && !(s.stg n x).dspPend then s.sendDesc n x else s
  let s := s.descSent n x
  s.padDone n x

/-- The backhaul stage's next slot, if it names a micro-batch, has it ready (R72, R84, R86, R95). The slot is judged as its start
would judge it, with the register writes that wait for that boundary (R89). -/
def State.backhaulReady (s : State) (n x : Nat) : Bool :=
  let s := s.applyPend n x
  let v := s.slotWord n x (s.rdB (Reg.CAD_STATUS n x) 7 0)
  let g := s.stg n x
  let p := s.slotPos n x v
  match s.slotRuns n x v with
  | 1 => s.mbReady g.inFwd p
  | 2 => if g.inBwd = 0xFFFF then (s.ctxAt n x p).isSome else s.mbReady g.inBwd p
  | _ => true

/-- The backhaul stage's next slot can start within what is left of the host's slot (R81). -/
def State.backhaulFits (s : State) (n x host : Nat) : Bool :=
  let v := s.slotWord n x (s.rdB (Reg.CAD_STATUS n x) 7 0)
  decide (s.now + slotBudget v ≤ s.slotT0 n host + (s.stg n host).budget)

/-- The next slot of a context may start: the previous one has completed, and a backhaul stage's host is switched to it
(R65, R81). -/
def State.mayStart (s : State) (n x : Nat) : Bool :=
  let g := s.stg n x
  s.ctxValid n x && g.running && g.phase == .idle && s.jobState == 3 &&
    (!s.ctxBackhaul n x ||
      (let h := s.ctxPartner n x
       (s.stg n h).phase == .backhaul && s.backhaulFits n x h && s.backhaulReady n x))

/-- The slot that lies `k` slots after slot `i` in table order, and the forward base that holds for it. -/
def State.slotAhead (s : State) (n x i k : Nat) : Word × Nat :=
  let cnt := s.slotCount n x
  if cnt = 0 then (0, 0) else (s.slotWord n x ((i + k) % cnt), (i + k) / cnt)

/-- Ask for the prefetch of the BWD slot that lies PREFETCH slots ahead (R310). -/
def State.autoPrefetch (s : State) (n x i : Nat) : State :=
  match (s.stg n x).ofl with
  | none => s
  | some o =>
    let (v, periods) := s.slotAhead n x i (s.rdB (Reg.OFL_CFG o) 10 3)
    if slotKind v = 2 then
      let p := s.slotPos n x v + (periods * s.nfOf n x : Nat)
      match s.ctxAt n x p with
      | some c => s.askPrefetch n x c
      | none => s
    else s

/-- A BWD slot starts: the prefetch of an offloaded micro-batch that it names is asked for, wherever its descriptor is (R310). -/
def State.bwdPrefetch (s : State) (n x : Nat) : State :=
  match s.ctxAt n x (s.slotPos n x (s.curSlot n x)) with
  | some c => if (s.mbc n x c).state = 2 then s.askPrefetch n x c else s
  | none => s

/-- The work of a slot begins (R73). A host is suspended while the switch to its backhaul stage runs (R84, step 1; log entry 86). -/
def State.slotBegins (s : State) (n x k : Nat) : State :=
  match k with
  | 0 => s.slotPads n x false
  | 6 => if s.ctxHosts n x then (s.setStg n x { s.stg n x with phase := .await }).cadState n x 5 else s.slotPads n x true
  | 1 => (s.setStg n x { s.stg n x with phase := .await }).admitFwd n x
  | 2 => ((s.setStg n x { s.stg n x with phase := .await, lateFlag := false }).bwdPrefetch n x).bwdTry n x
  | _ => ((s.setStg n x { s.stg n x with phase := .await }).cadState n x 2).slotProgress n x

/-- Start the next slot: register writes, void decision, catch-up (R71, R80, R89). -/
def State.slotStarts (s : State) (n x : Nat) : State :=
  let s := s.applyPend n x
  let i := s.rdB (Reg.CAD_STATUS n x) 7 0
  let v := s.slotWord n x i
  let k := s.slotRuns n x v
  let b := slotBudget v
  let s := s.wr (Reg.CAD_SLOT_T0 n x) (w s.now)
  let s := s.wrB (Reg.CAD_STATUS n x) 14 13 (if s.slotVoid n x v then 1 else 0)
  let s := s.cadState n x 1
  let s := s.setWait n x 0
  let l := if s.ctxBackhaul n x then 0 else s.lag n x
  let lv := s.level n x
  let cut := min l b
  let shorten (s : State) (hi lo : Nat) : State :=
    let s := s.addB (Reg.CAD_DROPS n x) hi lo 1
    let s := s.addB (Reg.CAD_RECOVERED n x) 31 0 cut
    let s := s.setStg n x { s.stg n x with budget := b - cut }
    if b = cut then s.slotDone n x 0 else s.slotBegins n x k
  let s := s.autoPrefetch n x i
  if 0 < l ∧ 1 ≤ lv ∧ k = 6 then shorten s 31 0
  else if 0 < l ∧ 2 ≤ lv ∧ k = 0 then shorten s 63 32
  else
    let eff := if 0 < l ∧ lv = 3 ∧ k ≠ 0 ∧ k ≠ 6 then max (slotFloor v) (b - l) else b
    (s.setStg n x { s.stg n x with budget := eff }).slotBegins n x k

/-- SLOT_START (R80). -/
def fxSlotStart (n x : Nat) (s : State) : State := if s.mayStart n x then s.slotStarts n x else s

def execSlotStart (die : BitVec 2) (ctx : BitVec 5) (s : State) : Host.Outcome State Fault Refusal :=
  live s (fxSlotStart die.toNat ctx.toNat)

/-- SLOT_COMPLETE (R78): the slot goes on to its completion, or as far as its work allows. -/
def fxSlotComplete (n x : Nat) (s : State) : State := s.slotProgress n x

def execSlotComplete (die : BitVec 2) (ctx : BitVec 5) (s : State) : Host.Outcome State Fault Refusal :=
  live s (fxSlotComplete die.toNat ctx.toNat)

/-- SLOT_BUDGET_EXPIRE (R73): the budget has elapsed, ending a HOLD or the padding of a slot whose work is done. -/
def fxSlotBudgetExpire (n x : Nat) (s : State) : State :=
  if s.ctxValid n x && (s.stg n x).running then s.padDone n x else s

def execSlotBudgetExpire (die : BitVec 2) (ctx : BitVec 5) (s : State) : Host.Outcome State Fault Refusal :=
  live s (fxSlotBudgetExpire die.toNat ctx.toNat)

/-- Count a switch and its length in ticks (R84, CAD_SWITCHES). -/
def State.countSwitch (s : State) (n x len : Nat) : State :=
  let s := s.addB (Reg.CAD_SWITCHES n x) 47 0 1
  s.wrB (Reg.CAD_SWITCHES n x) 55 48 (max (s.rdB (Reg.CAD_SWITCHES n x) 55 48) (min 200 len))

/-- Load the three pointers that the host's units follow (R84). -/
def State.setPtrs (s : State) (n x : Nat) (ps : List Word) : State :=
  let s := s.wr (Reg.CAD_PTR_QUEUE n x) (nth ps 0 0)
  let s := s.wr (Reg.CAD_PTR_TABLE n x) (nth ps 1 0)
  s.wr (Reg.CAD_PTR_LEDGER n x) (nth ps 2 0)

/-- BACKHAUL_SWITCH (R84): the host's units follow the backhaul context. -/
def fxBackhaulSwitch (n x : Nat) (s : State) : State :=
  let g := s.stg n x
  if s.ctxValid n x && g.running && g.phase == .await && s.ctxHosts n x && s.slotRuns n x (s.curSlot n x) == 6 then
    let b := s.ctxPartner n x
    let s := s.setStg n x { g with phase := .backhaul }
    let s := s.setPtrs n x (s.stg n b).ptrs
    (s.countSwitch n x (s.now - s.slotT0 n x)).cadState n x 4
  else s

def execBackhaulSwitch (die : BitVec 2) (ctx : BitVec 5) (s : State) : Host.Outcome State Fault Refusal :=
  live s (fxBackhaulSwitch die.toNat ctx.toNat)

/-- BACKHAUL_RETURN (R84, R86): when no further backhaul slot can start, the units follow the host again; if no
micro-batch was ready, they stay idle for the rest of the budget. DESIGN CHOICE (log entry 87): the switch back takes 0 ticks. -/
def fxBackhaulReturn (n x : Nat) (s : State) : State :=
  let g := s.stg n x
  let b := s.ctxPartner n x
  if s.ctxValid n x && g.running && g.phase == .backhaul && (s.stg n b).phase == .idle
      && !(s.mayStart n b) then
    let idle := !s.backhaulReady n b
    let s := s.setPtrs n x g.ptrs
    let s := s.countSwitch n x 0
    let s := s.cadState n b 5
    s.slotPads n x idle
  else s

def execBackhaulReturn (die : BitVec 2) (ctx : BitVec 5) (s : State) : Host.Outcome State Fault Refusal :=
  live s (fxBackhaulReturn die.toNat ctx.toNat)

end Sys2Proof.Machine
end

