-- ==== Sys2Proof/Machine/Dispatcher.lean ====
section
/-!
DEFINITION. The dispatch unit and the inboxes of a compute die (R213 to R225).
-/

namespace Sys2Proof.Machine

/-- An event of the dispatch block (R453). -/
def State.dspEvent (s : State) (n ev status master unit : Nat) (info1 : Word) : State :=
  s.raise n Blk.dsp (Reg.DSP_EVT n) (Reg.DSP_EVT_EN n) ev
    { status := status, master := master, unit := unit, at0 := some (Reg.DSP_LAST n), info1 := info1 }

/-- DSP_STATUS: requests free of 64, and whether a request runs (R215). -/
def State.dspStatus (s : State) (n : Nat) : State :=
  let u := s.dsp n
  let k := (u.queue.filter fun r => r.pass.isNone).length
  let busy := match u.run with | some r => r.req.pass.isNone | none => false
  s.wr (Reg.DSP_STATUS n) (w (64 - k + at_ 8 (if busy then 1 else 0)))

/-- A write of DSP_SUBMIT: a request is queued, or the write is ignored with SUBFULL (R214, R215). -/
def State.dspSubmit (s : State) (master n : Nat) (v : Word) : State :=
  if !bit v 63 then s else
  let u := s.dsp n
  if 64 ≤ (u.queue.filter fun r => r.pass.isNone).length then s.dspEvent n 0 0 master 0xFF 0
  else
    let s := s.setDsp n { u with queue := u.queue ++ [{ addr := bits v 45 0, ctx := bits v 52 48, master := master }] }
    s.dspStatus n

/-! ### Assignment (R216) -/

/-- One row while choices are assigned: the row's entries in rank order as (value, position), and the ranks tried by
spills. -/
structure DspRow where
  row : Nat
  entries : List (Nat × Nat)
  tried : List Nat
  deriving DecidableEq, Repr

/-- The assignment so far: tokens placed at each expert in placement order, dropped and spilled choices. -/
structure DspPlan where
  lists : List (List (Nat × Nat))
  dropped : Nat
  spilled : Nat
  deriving DecidableEq, Repr

/-- The expert that an entry names; none when the entry is empty. DESIGN CHOICE (log entry 107): the value is tested for NaN as FP32, also
in a list that a drain of INT32 accumulators wrote. -/
def entryExpert (experts : Nat) (e : Nat × Nat) : Option Nat :=
  if experts ≤ e.2 ∨ (Fmt.fp32.decode e.1).isNan then none else some e.2

/-- Place a row's token at an expert with its candidate value. -/
def DspPlan.place (p : DspPlan) (e row value : Nat) : DspPlan :=
  { p with lists := setNth p.lists e (nth p.lists e [] ++ [(row, value)]) }

/-- An expert has room. -/
def DspPlan.room (p : DspPlan) (caps : List Nat) (e : Nat) : Bool :=
  decide ((nth p.lists e []).length < nth caps e 0)

/-- Spill a choice: the first of the ranks `rs` whose entry names an expert with room (R216). -/
def spillRow (caps : List Nat) (experts : Nat) (r : DspRow) : List Nat → DspPlan → DspRow × DspPlan
  | [], p => (r, { p with dropped := p.dropped + 1 })
  | k :: ks, p =>
    let en := nth r.entries k (0, experts)
    if r.tried.contains k then spillRow caps experts r ks p
    else match entryExpert experts en with
    | none => spillRow caps experts r ks p
    | some e =>
      let r := { r with tried := k :: r.tried }
      if p.room caps e then (r, { p.place e r.row en.1 with spilled := p.spilled + 1 })
      else spillRow caps experts r ks p

/-- One row in pass `rank`. -/
def assignRow (caps : List Nat) (experts k kUse : Nat) (spill : Bool) (rank : Nat) (r : DspRow) (p : DspPlan) :
    DspRow × DspPlan :=
  let en := nth r.entries rank (0, experts)
  let placed := match entryExpert experts en with
    | some e => if p.room caps e then some e else none
    | none => none
  match placed with
  | some e => (r, p.place e r.row en.1)
  | none =>
    if spill then spillRow caps experts r ((List.range k).filter fun i => decide (kUse ≤ i)) p
    else (r, { p with dropped := p.dropped + 1 })

/-- All rows in one pass, in ascending order. -/
def assignPass (caps : List Nat) (experts k kUse : Nat) (spill : Bool) (rank : Nat) :
    List DspRow → DspPlan → List DspRow × DspPlan
  | [], p => ([], p)
  | r :: rs, p =>
    let (r, p) := assignRow caps experts k kUse spill rank r p
    let (rs, p) := assignPass caps experts k kUse spill rank rs p
    (r :: rs, p)

/-- The whole assignment: passes 0 to K_USE − 1. -/
def assign (caps : List Nat) (experts k kUse : Nat) (spill : Bool) (rows : List DspRow) : DspPlan :=
  ((List.range kUse).foldl (fun (st : List DspRow × DspPlan) rank =>
    assignPass caps experts k kUse spill rank st.1 st.2)
    (rows, { lists := List.replicate experts [], dropped := 0, spilled := 0 })).2

/-- Rows of a TOPK_EMIT list (R169): 128 bytes each. -/
def listRows (k : Nat) (bs : List Byte) : List DspRow :=
  let rs := pieces 128 bs
  ((List.range rs.length).zip rs).map fun r =>
    { row := r.1, entries := (List.range k).map fun i => (leAt r.2 (8 * i) 4, leAt r.2 (8 * i + 4) 2), tried := [] }

/-- Bytes of a gather list, rounded to 64. -/
def gatherBytes (l : List (Nat × Nat)) : List Byte :=
  fitBytes (roundUp (8 * l.length) 64) ((l.map fun e => toBytes 4 e.1 ++ toBytes 4 e.2).flatten)

/-- Offsets of the gather lists from RECORD. -/
def gatherOffsets (o : Nat) : List (List (Nat × Nat)) → List Nat
  | [] => []
  | l :: ls => o :: gatherOffsets (o + roundUp (8 * l.length) 64) ls

/-- The routing record (R217). -/
def routingRecord (lists : List (List (Nat × Nat))) : List Byte :=
  let dir := roundUp (8 * lists.length) 64
  let offs := gatherOffsets dir lists
  fitBytes dir (((offs.zip lists).map fun e => toBytes 4 e.1 ++ toBytes 4 e.2.length).flatten)
    ++ (lists.map gatherBytes).flatten

/-- A notice (R218). -/
def noticeOf (seq source flags count tokenBytes list tokens : Nat) (template : List Byte) : List Byte :=
  toBytes 4 seq ++ toBytes 2 source ++ toBytes 2 flags ++ toBytes 4 count ++ toBytes 4 tokenBytes ++ toBytes 8 list
    ++ toBytes 8 tokens ++ fitBytes 64 template

/-! ### Running a request -/

/-- The expert table of a context (R213): EXPERTS, POLICY and the entries as (device, queue, source, capacity), with the
status of its read. DESIGN CHOICE (log entry 107): only EXPERTS and POLICY are checked. -/
def State.expertTable (s : State) (master n x : Nat) : Nat × Nat × Nat × List (Nat × Nat × Nat × Nat) × State :=
  let a := s.rdB (Reg.DSP_CTX_TABLE n x) 45 0
  let (st, hd, s) := s.load master a 64
  if st ≠ 0 then (st, 0, 0, [], s) else
  let k := leAt hd 0 4
  if k = 0 ∨ 4096 < k ∨ 1 < leAt hd 4 1 then (St.misalign, 0, 0, [], s) else
  let (st, bs, s) := s.load master (a + 64) (16 * k)
  if st ≠ 0 then (st, 0, 0, [], s) else
  (St.ok, k, leAt hd 4 1, (pieces 16 bs).map fun e => (leAt e 0 4 % 2 ^ 18, leAt e 4 2, leAt e 6 2, leAt e 8 4), s)

/-- Complete a request: STATUS, DROPPED and SPILLED, then DONE (R218). A request whose results cannot be written completes with the
status of that write (R358). -/
def State.dspFinish (s : State) (n : Nat) (r : DspReq) (status dropped spilled done : Nat) : State :=
  let (st, s) := s.store r.master (r.addr + 0x28) (toBytes 4 dropped ++ toBytes 4 spilled)
  let status := if status = 0 then st else status
  let (st, s) := s.store r.master (r.addr + 7) (toBytes 1 status)
  let status := if status = 0 then st else status
  let s := s.addB (Reg.DSP_REQS n) 63 0 1
  let u := s.dsp n
  let s := s.setDsp n { u with queue := u.queue.tail, run := none, accepted := 0 }
  let s := s.dspStatus n
  let s := if status = 0 then s else s.wr (Reg.DSP_LAST n) (w (r.addr + at_ 48 status))
  s.msAdd done 1

/-- A request block whose fields are in range and whose reserved fields are zero (R214, R215). -/
def dspReqOk (b : List Byte) : Bool :=
  let k := leAt b 4 1
  let kUse := leAt b 5 1
  let tb := leAt b 0x18 4
  decide (1 ≤ k) && decide (k ≤ 16) && decide (1 ≤ kUse) && decide (kUse ≤ k) && leAt b 6 1 == 0
    && tb % 64 == 0 && decide (64 ≤ tb) && decide (tb ≤ 65536) && decide (leAt b 0x1C 2 < 2 ^ 14) && leAt b 0x1E 2 == 0
    && leAt b 0x20 8 % 64 == 0 && decide (leAt b 8 8 < 2 ^ 46) && decide (leAt b 0x10 8 < 2 ^ 46)
    && decide (leAt b 0x20 8 < 2 ^ 46) && (b.drop 0x30).take 16 == zeroBytes 16

/-- A request that assigns nothing and sends no notice completes at once; a bad one sets BADREQ (R215). -/
def State.dspRefuse (s : State) (n : Nat) (r : DspReq) (status done : Nat) (bad : Bool) : State :=
  let s := s.dspFinish n r status 0 0 done
  if bad || status == St.misalign then s.dspEvent n 1 status r.master r.ctx 0 else s

/-- What makes a request bad before it is read: ADDR that is no multiple of 128, or a context without a table (R214, R215). -/
def State.dspBad (s : State) (n : Nat) (r : DspReq) : Bool :=
  r.addr % 128 != 0 || s.rdB (Reg.DSP_CTX_TABLE n r.ctx) 63 63 == 0

/-- Start a request: check it, assign, write the record (R13, R215 to R217). -/
def State.dspRunReq (s : State) (n : Nat) (r : DspReq) : State :=
  let bad := s.dspBad n r
  let (st, b, s) := s.load r.master r.addr 128
  if st ≠ 0 then s.dspRefuse n r (St.join st (if bad then St.misalign else St.ok)) 0x4000 bad else
  let done := leAt b 0x1C 2 % 2 ^ 14
  if bad || !dspReqOk b then s.dspRefuse n r St.misalign done true else
  let (st, experts, policy, ents, s) := s.expertTable r.master n r.ctx
  if st ≠ 0 then s.dspRefuse n r st done false else
  let (st, ls, s) := if leAt b 0 4 = 0 then (St.ok, [], s) else s.load r.master (leAt b 8 8) (128 * leAt b 0 4)
  if st ≠ 0 then s.dspRefuse n r st done false else
  let plan := assign (ents.map fun e => e.2.2.2) experts (leAt b 4 1) (leAt b 5 1) (policy == 1)
    (listRows (leAt b 4 1) ls)
  let rec_ := leAt b 0x20 8
  let (st, s) := s.store r.master rec_ (routingRecord plan.lists)
  if st ≠ 0 then s.dspRefuse n r st done false else
  let offs := gatherOffsets (roundUp (8 * experts) 64) plan.lists
  let tmpl := (b.drop 0x40).take 64
  let base := s.devId * 2 ^ 46
  let notices := (ents.zip (offs.zip plan.lists)).map fun e =>
    (e.1.1, e.1.2.1, noticeOf (dSeq tmpl) e.1.2.2.1 0 e.2.2.length (leAt b 0x18 4) (base + rec_ + e.2.1)
      (base + leAt b 0x10 8) tmpl)
  let s := s.setDsp n { s.dsp n with
    run := some ⟨r, notices, false, plan.dropped, plan.spilled, (plan.lists.map (·.length)).sum, done⟩, accepted := 0 }
  s.dspStatus n

/-- The stage of a pass-through goes on with its own descriptor (R219). -/
def State.dspPassDone (s : State) (n : Nat) (r : DspReq) : State :=
  let u := s.dsp n
  let s := s.setDsp n { u with queue := u.queue.tail, run := none, accepted := 0 }
  s.setStg n r.ctx { s.stg n r.ctx with dspPend := false }

/-- Start a pass-through: the notices with PASS set, or NOTABLE (R219). DESIGN CHOICE (log entry 107): LIST and TOKENS of such a notice are
zero. -/
def State.dspRunPass (s : State) (n : Nat) (r : DspReq) (d : List Byte) : State :=
  if s.rdB (Reg.DSP_CTX_TABLE n r.ctx) 63 63 == 0 then
    (s.dspPassDone n r).dspEvent n 5 0 r.master r.ctx 0
  else
    let (st, _, _, ents, s) := s.expertTable r.master n r.ctx
    if st ≠ 0 then s.dspPassDone n r else
    let notices := ents.map fun e => (e.1, e.2.1, noticeOf (dSeq d) e.2.2.1 1 0 0 0 0 d)
    s.setDsp n { s.dsp n with run := some ⟨r, notices, false, 0, 0, 0, 0⟩, accepted := 0 }

/-- A step of the dispatch unit that may reach the guest window; while an answer of the guest is awaited nothing happens, and once
the step has all its answers they are spent (R26, R220, log entry 98). -/
def State.dspGuest (s : State) (n : Nat) (f : State → State) : State :=
  if (s.dsp n).asked then s else
  match s.guestTry (s.dsp n).replies f with
  | (none, _, t) => if (t.dsp n).replies.isEmpty then t else t.setDsp n { t.dsp n with replies := [] }
  | (some q, _, t) => (t.setDsp n { t.dsp n with asked := true }).guestSend (.dispatch n) q

/-- DISPATCH_RUN (R216): the next item starts when none runs and its master's ports are not masked (R299). -/
def fxDispatchRun (n : Nat) (s : State) : State :=
  let u := s.dsp n
  match u.run, u.queue with
  | none, r :: _ =>
    if s.isMasked r.master then s
    else s.dspGuest n fun s => match r.pass with | some d => s.dspRunPass n r d | none => s.dspRunReq n r
  | _, _ => s

def execDispatchRun (die : BitVec 2) (s : State) : Host.Outcome State Fault Refusal := live s (fxDispatchRun die.toNat)

/-- Send one notice; it waits without limit (R218). -/
def State.dspSend (s : State) (n : Nat) (e : Nat × Nat × List Byte) : State :=
  if e.1 = s.devId then
    match s.qSendWait e.2.1 (.dispatch n) e.2.2 with
    | (.noRoom, s) => s
    | (.ok, s) => s.sendEnded (.dispatch n) St.ok
    | (.refused st, s) => s.sendEnded (.dispatch n) st
  else s.remoteSend (.dispatch n) e.1 e.2.1 e.2.2 noLimit

/-- DISPATCH_NOTICES (R218): one notice to each expert of the table, in its order. -/
def fxDispatchNotices (n : Nat) (s : State) : State :=
  match (s.dsp n).run with
  | some r =>
    if r.issued || s.isMasked r.req.master then s
    else
      let s := s.setDsp n { s.dsp n with run := some { r with issued := true }, accepted := 0 }
      r.notices.foldl (fun s e => s.dspSend n e) s
  | none => s

def execDispatchNotices (die : BitVec 2) (s : State) : Host.Outcome State Fault Refusal :=
  live s (fxDispatchNotices die.toNat)

/-- DISPATCH_COMPLETE (R218): every notice has been accepted. -/
def fxDispatchComplete (n : Nat) (s : State) : State :=
  let u := s.dsp n
  match u.run with
  | some r =>
    if r.issued && u.accepted == r.notices.length && !s.isMasked r.req.master then
      match r.req.pass with
      | some _ => s.dspPassDone n r.req
      | none => s.dspGuest n fun s =>
        let s := s.addB (Reg.DSP_CHOICES n) 63 0 r.placed
        let s := s.addB (Reg.DSP_DROPS n) 63 0 r.dropped
        let s := s.addB (Reg.DSP_SPILLS n) 63 0 r.spilled
        s.dspFinish n r.req St.ok r.dropped r.spilled r.done
    else s
  | none => s

def execDispatchComplete (die : BitVec 2) (s : State) : Host.Outcome State Fault Refusal :=
  live s (fxDispatchComplete die.toNat)

/-! ### Inboxes (R221 to R224) -/

def State.ibxOn (s : State) (n i : Nat) : Bool := s.rdB (Reg.DSP_IBX_CFG n i) 63 63 == 1
def State.ibxSources (s : State) (n i : Nat) : Nat := s.rdB (Reg.DSP_IBX_CFG n i) 12 0
def State.ibxTokenBytes (s : State) (n i : Nat) : Nat := 64 * s.rdB (Reg.DSP_IBX_CFG n i) 26 16

/-- Address of the slot of a position (R221). -/
def State.ibxSlot (s : State) (n i p : Nat) : Nat :=
  let stride := roundUp (roundUp (s.ibxSources n i * 96) 64
    + s.rdB (Reg.DSP_IBX_GEOM n i) 47 16 * s.ibxTokenBytes n i) 2048
  s.rdB (Reg.DSP_IBX_BUF n i) 45 0 + p % s.rdB (Reg.DSP_IBX_GEOM n i) 15 0 * stride

/-- The slot of position p is free: its previous position has been emitted and its consuming FWD slot has completed
(R222). -/
def State.ibxSlotFree (s : State) (n i p : Nat) : Bool :=
  let slots := s.rdB (Reg.DSP_IBX_GEOM n i) 15 0
  decide (p < slots) || (decide (p - slots < (s.ibx n i).next) &&
    ((List.range 32).any fun x =>
      s.ctxValid n x && (s.stg n x).inFwd == s.rdB (Reg.DSP_IBX_QUEUE n i) 28 16
        && decide (p - slots < (s.stg n x).fwdDone)))

/-- A step of an inbox that may reach the guest window (R26, R220, log entry 98). -/
def State.ibxGuest (s : State) (n i : Nat) (f : State → State) : State :=
  if (s.ibx n i).asked then s else
  match s.guestTry (s.ibx n i).replies f with
  | (none, rs, t) => if (t.ibx n i).replies.isEmpty then t else t.setIbx n i { t.ibx n i with replies := rs }
  | (some q, _, t) => (t.setIbx n i { t.ibx n i with asked := true }).guestSend (.inbox n i) q

/-- The notice at the head of the inbox's queue is written into its slot, discarded, or waits. A position whose
notice cannot be written will be refused (R358). -/
def State.ibxNotice (s : State) (n i : Nat) : State :=
  let q := s.rdB (Reg.DSP_IBX_QUEUE n i) 12 0
  if !s.ibxOn n i || !s.qReady q || s.isMasked (s.ibx n i).master then s else
  let b := s.ibx n i
  let len := s.qHeadLen q
  let (st, bs, s) := s.qHeadRead q
  if st ≠ 0 then s else
  let src := leAt bs 4 2
  let tb := leAt bs 12 4
  let diff := unsgn 32 ((leAt bs 0 4 : Int) - b.next)
  let p := b.next + diff
  if len ≠ 96 ∨ s.ibxSources n i ≤ src ∨ (tb ≠ 0 ∧ tb ≠ s.ibxTokenBytes n i) ∨ 2 ^ 31 ≤ diff ∨ b.held.contains (p, src) then
    (s.qPop q).dspEvent n 4 0 b.master 0xFF (w i)
  else if !s.ibxSlotFree n i p then s.ibxStatus n i true
  else
    let (st, s) := s.store b.master (s.ibxSlot n i p + 96 * src) bs
    let s := s.setIbx n i { b with held := b.held ++ [(p, src)], bad := if st = 0 then b.bad else p :: b.bad }
    (s.ibxStatus n i false).qPop q

/-- INBOX_NOTICE (R222). -/
def fxInboxNotice (n i : Nat) (s : State) : State := s.ibxGuest n i fun s => s.ibxNotice n i

def execInboxNotice (die : BitVec 2) (inbox : BitVec 6) (s : State) : Host.Outcome State Fault Refusal :=
  live s (fxInboxNotice die.toNat inbox.toNat)

end Sys2Proof.Machine
end

