-- ==== Sys2Proof/Machine/LedgerNet.lean ====
section
/-!
DEFINITION. What a ledger sends to other devices (R136 to R138): registrations, commit notices and releases, as requests of this
device in traffic class 2 (R345); and the commit of a step, which ends with its notices (R132).
-/

namespace Sys2Proof.Machine

/-- A ledger's message to another device. The spec gives its contents and no address: it is a WRITE to the free address of its
kind, 0 a registration, 1 a release, 2 a commit notice (log entry 80). -/
def State.ledSend (s : State) (l ref kind dev : Nat) (bs : List Byte) : State :=
  s.netSend (.led l) ref 3 dev (Config.ledgerPort kind).toNat bs 0

/-- The shard and the sender: what a registration and a release tell (R136, R138). -/
def State.ledIdent (s : State) (l : Nat) : List Byte := toBytes 4 (s.led l).shard ++ toBytes 4 s.devId

/-- Show what a ledger sends, while the device originates requests (R338). -/
def State.emitNet (s : State) (o : Out) : State := if s.mayOriginate then s.emit o else s

/-- A replica ledger sends its registration (R136). -/
def State.registerSend (s : State) (l : Nat) : State :=
  let x := s.led l
  let s := (s.setLed l { x with regDue := none }).emitNet (.register x.ownerDev x.shard)
  s.ledSend l 0 0 x.ownerDev (s.ledIdent l)

/-- Release a notice at its owner (R138). -/
def State.noticeRelease (s : State) (l : Nat) : State :=
  let x := s.led l
  (s.emitNet (.release x.ownerDev x.shard)).ledSend l 1 1 x.ownerDev (s.ledIdent l)

/-- Send one replica a commit notice: it holds one reference on the notified slot, and the older notice's reference is dropped
(R137). `out` shows the notice where a port can take it. -/
def State.sendNotice (s : State) (l dev : Nat) : State :=
  let slot := s.ledSlot l
  let step := s.ledStep l
  let b := s.noticeBytes l slot
  let x := s.led l
  let old := x.notices.filter fun r => r.dev = dev
  let s := s.setLed l { x with notices := (x.notices.filter fun r => r.dev ≠ dev) ++ [⟨dev, slot, step⟩] }
  let s := s.addRef l slot
  let s := old.foldl (fun s r => s.dropRef l r.slot) s
  let s := match s.routeOf s.devId dev 2 with
    | .port _ => s.emitNet (.notice dev b)
    | _ => s
  s.ledSend l (2 + step) 2 dev b

/-- Send commit notices to every registered replica (R137). -/
def State.sendNotices (s : State) (l : Nat) : State := (s.replicaList l).foldl (fun s d => s.sendNotice l d) s

/-- A message of a ledger has ended. The fabric reports the replica of a notice unreachable: its reference is dropped, unless a newer
notice has replaced it (R137, R332). -/
def State.ledSent (s : State) (l ref dev status : Nat) : State :=
  if status = 0 ∨ ref < 2 then s
  else
    let mine (r : NoticeRef) : Bool := r.dev == dev && r.step == ref - 2
    let x := s.led l
    let old := x.notices.filter mine
    let s := s.setLed l { x with notices := x.notices.filter fun r => !mine r }
    old.foldl (fun s r => s.dropRef l r.slot) s

/-- Commit the WRITTEN versions of step `step` (STEP step + 1) on every owned ledger (R129), under the step journal
(R140), and send the notices (R132, row 6). -/
def State.commitStep (s : State) (step : Nat) : State :=
  let ls := s.ownedIds.filter fun l =>
    match s.pendSlot l with
    | some k => s.slotState l k == 2 && s.slotStep l k == step + 1
    | none => false
  let s := { s with journal := some step }
  let s := ls.foldl (fun s l => match s.pendSlot l with | some k => s.commitSlot l k | none => s) s
  let s := { s with journal := none }
  let s := s.stepOutcome step true
  ls.foldl (fun s l => s.sendNotices l) s

end Sys2Proof.Machine
end

