-- ==== Sys2Proof/Machine/MatrixOps.lean ====
section
/-!
DEFINITION. The data path of a matrix engine (R144 to R212): profiles, addresses, tiles, products, accumulators,
drains and top-k selection. The sequencer's commands are in Matrix.lean.
-/

namespace Sys2Proof.Machine

/-! ### Profiles (R154) -/

/-- A profile A or B. -/
structure OperandProf where
  fmt : Nat
  outer : Nat
  k : Nat
  bsize : Nat
  bdir : Nat
  e4m3 : Bool
  split : Nat
  sparse : Nat
  bitmap : Bool
  deriving DecidableEq, Repr

/-- A profile O. -/
structure OutputProf where
  fmt : Nat
  acc : Nat
  heritage : Bool
  round : Bool
  bsize : Nat
  bdir : Nat
  e4m3 : Bool
  topk : Nat
  deriving DecidableEq, Repr

def operandProf (v : Word) : OperandProf :=
  ⟨bits v 7 0, if bit v 8 then 128 else 64, (bits v 12 9 + 1) * 64, bits v 15 13, bits v 17 16, bit v 18, bits v 20 19,
    bits v 23 21, bit v 24⟩

def outputProf (v : Word) : OutputProf :=
  ⟨bits v 7 0, bits v 9 8, bit v 10, bit v 11, bits v 14 12, bits v 16 15, bit v 17, bits v 22 18⟩

/-- Block size of a BSIZE code: 8 to 128. -/
def blockSize (code : Nat) : Nat := 4 * 2 ^ code

/-- Kept elements of sixteen under SPARSE: 2, 4, 8, or all 16. -/
def keptOf (sparse : Nat) : Nat := if sparse = 0 then 16 else 2 ^ sparse

/-- The inner extent as stored: K, or K × n ÷ 16 for a sparse operand (R205). -/
def OperandProf.kStored (p : OperandProf) : Nat := p.k * keptOf p.sparse / 16

/-- Rows and columns of an operand's tile as the array sees it, compressed along K when sparse. `isB`: K × N. -/
def OperandProf.dims (p : OperandProf) (isB : Bool) : Nat × Nat :=
  if isB then (p.kStored, p.outer) else (p.outer, p.kStored)

/-- The block extents divide an R × C tile (R180). -/
def blocksFit (bsize bdir r c : Nat) : Bool :=
  bsize == 0 ||
    (let b := blockSize bsize
     if bdir = 0 then c % b == 0 else if bdir = 1 then r % b == 0 else r % b == 0 && c % b == 0)

/-- Number of scales of an R × C tile (R180). -/
def scaleCount (bsize bdir r c : Nat) : Nat :=
  if bsize = 0 then 0
  else let b := blockSize bsize
    if bdir = 2 then r * c / (b * b) else r * c / b

/-- Index of the block of element (i, j), in row-major order of the grid of blocks (R180). -/
def blockIx (bsize bdir c i j : Nat) : Nat :=
  let b := blockSize bsize
  if bdir = 0 then i * (c / b) + j / b else if bdir = 1 then i / b * c + j else i / b * (c / b) + j / b

/-- A format code that R174 allows in profiles A and B. -/
def fmtAllowedAB (f : Nat) : Bool := (decide (1 ≤ f) && decide (f ≤ 8)) || f == 0x10 || f == 0x11

/-- Reserved values of a profile's fields. -/
def OperandProf.reserved (p : OperandProf) : Bool :=
  decide (5 < p.bsize) || p.bdir == 3 || p.split == 3 || decide (3 < p.sparse)

/-- What a load checks of its profile (R155, R180). -/
def OperandProf.loadOk (p : OperandProf) (isB : Bool) : Bool :=
  fmtAllowedAB p.fmt && !(p.fmt == 8 && p.split == 0) && !p.reserved
    && blocksFit p.bsize p.bdir (p.dims isB).1 (p.dims isB).2

/-- A floating format that enters the array unsplit. -/
def fmtNarrowFloat (f : Nat) : Bool := decide (1 ≤ f) && decide (f ≤ 7)

/-- The combinations an MMA allows (R155, R170, R180, R193). -/
def mmaOk (a b : OperandProf) (o : OutputProf) (mask : Bool) : Bool :=
  let side (p q : OperandProf) (isB : Bool) : Bool :=
    !p.reserved && blocksFit p.bsize p.bdir (p.dims isB).1 (p.dims isB).2
      && (if p.split = 0 then fmtNarrowFloat p.fmt || (isIntFmt p.fmt && fmtAllowedAB p.fmt && p.bsize == 0)
          else p.fmt == 8 && o.acc == 2 && p.sparse == 0 && (q.split != 0 || q.fmt == 6 || q.fmt == 7))
  let float := !isIntFmt a.fmt && !isIntFmt b.fmt && (o.acc == 0 || o.acc == 2)
  let int := isIntFmt a.fmt && isIntFmt b.fmt && o.acc == 1
  side a b false && side b a true && (float || int) && a.k == b.k && !(a.sparse != 0 && b.sparse != 0)
    && (!o.heritage ||
      (a.fmt == 6 && b.fmt == 6 && o.acc == 0 && a.sparse == 0 && b.sparse == 0 && !a.bitmap && !b.bitmap && !mask
        && (o.fmt == 6 || o.fmt == 8) && o.bsize == 0))

/-- Modes of a drain (R164). -/
inductive DrainMode where
  | plain | amax | quant | topk | topkEmit
  deriving DecidableEq, Repr

def DrainMode.code : DrainMode → Nat
  | .plain => 0 | .amax => 1 | .quant => 2 | .topk => 3 | .topkEmit => 4

/-- The combinations a drain allows (R155, R170, R180, R187, R193). -/
def drainOk (o : OutputProf) (m : DrainMode) (rows cols : Nat) : Bool :=
  let pair := if o.acc = 1 then isIntFmt o.fmt else decide (1 ≤ o.fmt) && decide (o.fmt ≤ 8)
  o.acc != 3 && pair && decide (o.bsize ≤ 5) && o.bdir != 3 && decide (o.topk ≤ 16)
    && (o.bsize == 0 || (decide (1 ≤ o.fmt) && decide (o.fmt ≤ 5) && blocksFit o.bsize o.bdir rows cols))
    && (!o.heritage || (o.acc == 0 && (o.fmt == 6 || o.fmt == 8) && o.bsize == 0))
    && (match m with
        | .plain => o.bsize == 0 || o.bdir == 0
        | .amax => o.bsize != 0
        | .quant => o.bsize != 0
        | .topk => o.topk != 0
        | .topkEmit => o.topk != 0)

/-! ### Matrices of bytes -/

/-- Rows of C elements of a width, packed (R178, R179). -/
def rowsOf (width r c : Nat) (bs : List Byte) : List (List Nat) :=
  let rb := c * width / 8
  (List.range r).map fun i =>
    let row := fitBytes rb ((bs.drop (i * rb)).take rb)
    (List.range c).map fun j => elemAt row width j

/-- The transpose of rows of c elements. -/
def transposeRows {α : Type} (c : Nat) (d : α) (rows : List (List α)) : List (List α) :=
  (List.range c).map fun j => rows.map fun r => nth r j d

/-- The list with `new` written at offset o, filled with zeros before it where it is shorter. -/
def patch (old : List Byte) (o : Nat) (new : List Byte) : List Byte :=
  fitBytes o (old.take o) ++ new ++ old.drop (o + new.length)

/-- Bytes of a tile's elements, and of the tile with its scales (R179). -/
def tileBytes (p : OperandProf) (isB : Bool) : Nat × Nat :=
  let (r, c) := p.dims isB
  let e := r * c * fmtWidth p.fmt / 8
  let k := scaleCount p.bsize p.bdir r c
  (e, if k = 0 then e else roundUp e 64 + k)

/-- A tile as the array sees it, from the stored tile: with T, elements and scales are transposed (R162, R179, R180). -/
def arrayView (p : OperandProf) (isB t : Bool) (stored : List Byte) : List Byte :=
  if t then
    let (r, c) := p.dims isB
    let width := fmtWidth p.fmt
    let e := r * c * width / 8
    let es := transposeRows r 0 (rowsOf width c r stored)
    let k := scaleCount p.bsize p.bdir r c
    let b := blockSize p.bsize
    let gr := if p.bdir = 0 then r else r / b
    let gc := if p.bdir = 1 then c else c / b
    let scales := transposeRows gr (0 : Byte) (pieces gr ((stored.drop (roundUp e 64)).take k))
    let elems := (es.map fun row => packElems width row).flatten
    if k = 0 then elems else fitBytes (roundUp e 64) elems ++ (scales.take gr |>.map fun row => row.take gc).flatten
  else stored

/-! ### Operand values (R182, R190, R194, R195, R205 to R211) -/

/-- The pieces of a split value, first to third, each BF16 toward zero (R195). -/
def splitPieces (x : XVal) : List XVal :=
  match x with
  | .nan => [.nan, .zero, .zero]
  | .inf b => [.inf b, .zero, .zero]
  | x =>
    let x1 := Fmt.bf16.rounded .rtz x
    let r1 := x.sub x1
    let x2 := Fmt.bf16.rounded .rtz r1
    let x3 := Fmt.bf16.rounded .rtz (r1.sub x2)
    [x1, x2, x3]

/-- The passes of an MMA as pairs of pieces of A and B, 0 for the whole value (R196). -/
def splitPasses (sa sb : Nat) : List (Nat × Nat) :=
  if sa = 0 ∧ sb = 0 then [(0, 0)]
  else if sb = 0 then (if sa = 2 then [(3, 0), (2, 0), (1, 0)] else [(2, 0), (1, 0)])
  else if sa = 0 then (if sb = 2 then [(0, 3), (0, 2), (0, 1)] else [(0, 2), (0, 1)])
  else if sa = 2 ∨ sb = 2 then [(3, 1), (2, 2), (1, 3), (2, 1), (1, 2), (1, 1)]
  else [(2, 2), (2, 1), (1, 2), (1, 1)]

/-- Piece number `n` of an operand's value in a pass; the third piece of a two-piece operand is +0 (R196). -/
def pieceOf (split n : Nat) (x : XVal) : XVal :=
  if n = 0 then x else if n = 3 ∧ split = 1 then .zero else nth (splitPieces x) (n - 1) .zero

/-- A subnormal BF16 operand is read as zero of its sign in heritage mode (R197). -/
def flushSubnormal (f : Fmt) (x : XVal) : XVal :=
  match x with
  | .fin neg n d => if n = 0 then x else if floorLog2 n d < 1 - (f.bias : Int) then .fin neg 0 1 else x
  | x => x

/-- The elements of an operand in the array's view, as a pass of the MMA sees them: piece `n` of each element (0 for the
whole; R195, R196), flushed in heritage mode, then multiplied by its block's scale (R182). -/
def operandRows (p : OperandProf) (isB : Bool) (h : Half) (n : Nat) (heritage : Bool) : List (List XVal) :=
  let (r, c) := p.dims isB
  let raw := rowsOf (fmtWidth p.fmt) r c h.bytes
  let e := roundUp (r * c * fmtWidth p.fmt / 8) 64
  let scales := (fitBytes (scaleCount p.bsize p.bdir r c) (h.bytes.drop e)).map fun b => scaleVal p.e4m3 b.toNat
  ((List.range r).zip raw).map fun row =>
    ((List.range c).zip row.2).map fun el =>
      let v := elemVal p.fmt el.2
      let v := pieceOf p.split n (if heritage then flushSubnormal .bf16 v else v)
      if p.bsize = 0 then v else (nth scales (blockIx p.bsize p.bdir c row.1 el.1) .nan).mul v

/-- Bit q of a bitmap (R209). -/
def bitmapBit (m : List Byte) (q : Nat) : Bool := (nth m (q / 8) 0).toNat.testBit (q % 8)

/-- The block of element (i, j) of the array's view is marked zero (R209, R210). -/
def zeroBlock (p : OperandProf) (isB t : Bool) (m : List Byte) (i j : Nat) : Bool :=
  if p.bitmap && p.sparse == 0 then
    let (r, c) := if isB then (p.k, p.outer) else (p.outer, p.k)
    let q := if t then j / 16 * (r / 16) + i / 16 else i / 16 * (c / 16) + j / 16
    !bitmapBit m q
  else false

/-- What one row of A, or one column of B, brings to each k: the values that multiply there (none where it is skipped,
several where a sparse index repeats). `line i` is the i-th row or column, its kept values in order. -/
def lineValues (p : OperandProf) (isB t : Bool) (m : List Byte) (ix : List Nat) (i : Nat) (line : List XVal) :
    List (List XVal) :=
  if p.sparse = 0 then
    ((List.range p.k).zip line).map fun e =>
      if (if isB then zeroBlock p isB t m e.1 i else zeroBlock p isB t m i e.1) then [] else [e.2]
  else
    let n := keptOf p.sparse
    let kept := ix.zip line
    (List.range p.k).map fun k =>
      (((kept.drop (k / 16 * n)).take n).filter fun e => e.1 == k % 16).map (·.2)

/-- All rows of A, or all columns of B, by k, as a pass sees them. -/
def operandLines (p : OperandProf) (isB : Bool) (h : Half) (side : List Byte) (n : Nat) (heritage : Bool) :
    List (List (List XVal)) :=
  let rows := operandRows p isB h n heritage
  let (r, c) := p.dims isB
  let lines := if isB then transposeRows c .zero rows else rows
  let ixRows := if p.sparse = 0 then [] else rowsOf 4 r c side
  let ixLines := if isB then transposeRows c 0 ixRows else ixRows
  let m := fitBytes 64 (side.drop 0x7F00)
  ((List.range lines.length).zip lines).map fun e =>
    lineValues p isB h.t m (nth ixLines e.1 []) e.1 e.2

/-- The exact sum of the products of one chunk (R189, R190). -/
def chunkSum (a b : List (List XVal)) : XVal :=
  (a.zip b).foldl (fun acc e => e.1.foldl (fun acc x => e.2.foldl (fun acc y => acc.add (x.mul y)) acc) acc) .zero

/-- An FP32 accumulator after a chunk: one rounding, a zero held as +0 (R189, R191); in heritage mode a subnormal result
becomes zero of its sign (R197), and a negative sum that rounds to zero is held as -0 (R177; DEDUCED, log entry 41). -/
def accFp32 (heritage : Bool) (acc : Nat) (chunk : XVal) : Nat :=
  let x := (Fmt.fp32.decode acc).add chunk
  let r := Fmt.fp32.round .rne x
  if x.isZero then 0
  else if heritage then (if r % 2 ^ 31 < 2 ^ 23 then r / 2 ^ 31 * 2 ^ 31 else r)
  else if r % 2 ^ 31 = 0 then 0 else r

/-- A paired accumulator after a chunk (R192). -/
def accPair (hi lo : Nat) (chunk : XVal) : Nat × Nat :=
  let x := ((Fmt.fp32.decode hi).add (Fmt.fp32.decode lo)).add chunk
  let h := Fmt.fp32.round .rne x
  let h := if h % 2 ^ 31 = 0 then 0 else h
  if (Fmt.fp32.decode h).nonFinite then (h, 0)
  else
    let l := Fmt.fp32.round .rne (x.sub (Fmt.fp32.decode h))
    (h, if l % 2 ^ 31 = 0 then 0 else l)

/-- The signed integer of an exact integer value. -/
def XVal.toInt : XVal → Int
  | .fin neg n d => let q : Int := (n / d : Nat); if neg then -q else q
  | _ => 0

/-- One output element after an MMA: (word, low word of a pair, saturated). `passes` are the row of A and the column of B
in each pass, in order. -/
def mmaElement (o : OutputProf) (passes : List (List (List XVal) × List (List XVal))) (old : Nat × Nat) :
    Nat × Nat × Bool :=
  let width := if o.heritage then 4 else 32
  passes.foldl (fun st ps =>
    ((pieces width ps.1).zip (pieces width ps.2)).foldl (fun (st : Nat × Nat × Bool) ch =>
      let c := chunkSum ch.1 ch.2
      if o.acc = 1 then
        let t := sgn 32 st.1 + c.toInt
        (unsgn 32 (satInt 32 t), 0, st.2.2 || decide (satInt 32 t ≠ t))
      else if o.acc = 2 then
        let (h, l) := accPair st.1 st.2.1 c
        (h, l, false)
      else (accFp32 o.heritage st.1 c, 0, false)) st) (old.1, old.2, false)

/-! ### Accumulator tiles (R156) -/

/-- Units of an M × N tile. -/
def tileUnits (o : OutputProf) (m n : Nat) : Nat := m / 64 * (n / 64) * (if o.acc = 2 then 2 else 1)

/-- The units are aligned and in range. -/
def tileOk (tile u : Nat) : Bool := tile % u == 0 && decide (tile + u ≤ 32)

/-- Values of `n` consecutive keys from `lo`; the table starts at or after `lo`. -/
def tblRun : Tbl Nat → Nat → Nat → List Nat
  | _, _, 0 => []
  | [], lo, n + 1 => 0 :: tblRun [] (lo + 1) n
  | (k, v) :: t, lo, n + 1 => if k = lo then v :: tblRun t (lo + 1) n else 0 :: tblRun ((k, v) :: t) (lo + 1) n

/-- The words of `u` units from unit `tile`. -/
def accWords (acc : Tbl Nat) (tile u : Nat) : List Nat :=
  tblRun (acc.dropWhile fun e => decide (e.1 < tile * 4096)) (tile * 4096) (u * 4096)

/-- The accumulator with the words of the units from `tile` replaced. -/
def accPut (acc : Tbl Nat) (tile : Nat) (ws : List Nat) : Tbl Nat :=
  let lo := tile * 4096
  (acc.takeWhile fun e => decide (e.1 < lo))
    ++ (((List.range ws.length).zip ws).filter fun e => e.2 != 0).map (fun e => (lo + e.1, e.2))
    ++ acc.dropWhile fun e => decide (e.1 < lo + ws.length)

/-- Rows of an M × N tile from its units: 64 × 64 sub-blocks in row-major order. -/
def rowsOfUnits (m n : Nat) (ws : List Nat) : List (List Nat) :=
  let blocks := pieces 64 (pieces 64 ws)
  ((List.range (m / 64)).map fun bi =>
    (List.range 64).map fun r =>
      ((List.range (n / 64)).map fun bj => nth (nth blocks (bi * (n / 64) + bj) []) r []).flatten).flatten

/-- Units of an M × N tile from its rows. -/
def unitsOfRows (m n : Nat) (rows : List (List Nat)) : List Nat :=
  ((List.range (m / 64)).map fun bi =>
    ((List.range (n / 64)).map fun bj =>
      (((rows.drop (bi * 64)).take 64).map fun r => (r.drop (bj * 64)).take 64).flatten).flatten).flatten

/-- A tile as rows of (word, low word). The 64 × 64 sub-blocks of a tile lie in its units row by row, and the low words of a
paired tile follow all its high words (DESIGN CHOICE, log entry 106). -/
def readTile (acc : Tbl Nat) (o : OutputProf) (tile m n : Nat) : List (List (Nat × Nat)) :=
  let u := m / 64 * (n / 64)
  let hi := rowsOfUnits m n (accWords acc tile u)
  let lo := if o.acc = 2 then rowsOfUnits m n (accWords acc (tile + u) u) else hi.map fun r => r.map fun _ => 0
  (hi.zip lo).map fun e => e.1.zip e.2

/-- Store a tile of rows of (word, low word). -/
def writeTile (acc : Tbl Nat) (o : OutputProf) (tile m n : Nat) (rows : List (List (Nat × Nat))) : Tbl Nat :=
  let hi := unitsOfRows m n (rows.map fun r => r.map (·.1))
  let lo := if o.acc = 2 then unitsOfRows m n (rows.map fun r => r.map (·.2)) else []
  accPut acc tile (hi ++ lo)

/-- Bits of units `tile` to `tile + u − 1`. -/
def unitMask (tile u : Nat) : Nat := (2 ^ u - 1) * 2 ^ tile

/-- Bits of `v` that are not in `m`. -/
def bitsWithout (v m : Nat) : Nat := v - v.land m

/-! ### Cycles of an MMA (R158, R212) -/

/-- Depth class of a format: d of R158's table. -/
def depthOf (p : OperandProf) : Nat :=
  if p.split ≠ 0 then 4 else match fmtWidth p.fmt with | 4 => 16 | 16 => 4 | _ => 8

/-- Factor f of R158's table. -/
def factorOf (a b : OperandProf) (o : OutputProf) : Nat :=
  if o.heritage then 8 else (splitPasses a.split b.split).length

/-- Sparse factor s of R158. -/
def sparseFactor (a b : OperandProf) : Nat :=
  let v := max a.sparse b.sparse
  if v = 0 then 1 else if v = 3 then 2 else 4

/-- Skipped steps of an MMA and all its steps (R212). -/
def skippedSteps (a b : OperandProf) (ta tb mask : Bool) (sideA sideB : List Byte) : Nat × Nat :=
  let mA := (sideA.drop 0x7F00).take 64
  let mB := (sideB.drop 0x7F00).take 64
  let rowMask := (sideA.drop 0x7F40).take 16
  let steps := ((List.range (a.outer / 64)).map fun bi =>
    ((List.range (b.outer / 64)).map fun bj => (List.range (a.k / 16)).map fun g => (bi, bj, g)).flatten).flatten
  let skip := steps.filter fun (bi, bj, g) =>
    (a.bitmap && a.sparse == 0 && (List.range 4).all fun r => zeroBlock a false ta mA (bi * 64 + r * 16) (g * 16))
    || (b.bitmap && b.sparse == 0 && (List.range 4).all fun c => zeroBlock b true tb mB (g * 16) (bj * 64 + c * 16))
    || (mask && (List.range 64).all fun r => !bitmapBit rowMask (bi * 64 + r))
  (skip.length, steps.length)

/-- Arithmetic cycles of an MMA (R158, R212): the factor f of R158 multiplies R212's count of steps too (DEDUCED, log entry
41). -/
def mmaCycles (a b : OperandProf) (o : OutputProf) (used : Nat) : Nat :=
  let d := min (depthOf a) (depthOf b)
  let f := factorOf a b o
  let c4 := ceilDiv (a.outer / 64 * (b.outer / 64) * (a.k / d) * f) 4
  max c4 (ceilDiv (used * 16 * f) (d * sparseFactor a b))

/-! ### Drained values (R163 to R169, R184 to R187) -/

/-- The exact value of an accumulator element. -/
def accVal (o : OutputProf) (e : Nat × Nat) : XVal :=
  if o.acc = 1 then .ofInt (sgn 32 e.1)
  else if o.acc = 2 then (Fmt.fp32.decode e.1).add (Fmt.fp32.decode e.2)
  else Fmt.fp32.decode e.1

/-- The rounding of a drain: nearest even in heritage mode, else profile O's ROUND (R199, log entry 91). -/
def OutputProf.drainRnd (o : OutputProf) : Rnd := if o.heritage then .rne else rndBit o.round

/-- Convert a value to profile O's format: the code, and whether an integer saturated (R177, R193, R197). -/
def drainConv (o : OutputProf) (x : XVal) : Nat × Bool :=
  match fmtOf o.fmt with
  | some f =>
    let c := f.round o.drainRnd x
    if o.heritage ∧ o.fmt = 6 ∧ c % 2 ^ 15 < 2 ^ 7 then (c / 2 ^ 15 * 2 ^ 15, false) else (c, false)
  | none =>
    let wd := fmtWidth o.fmt
    let t := satInt wd x.toInt
    (unsgn wd t, decide (t ≠ x.toInt))

/-- Class of a non-finite value: 1 NaN, 2 +∞, 3 −∞, 0 finite. -/
def nfClass : XVal → Nat
  | .nan => 1
  | .inf neg => if neg then 3 else 2
  | .fin _ _ _ => 0

/-- Largest magnitude among finite values. -/
def amaxOf (xs : List XVal) : XVal :=
  xs.foldl (fun m x => if x.nonFinite then m else if m.lt x.abs then x.abs else m) .zero

/-- Smallest integer e with x ≤ maxF × 2^e. -/
def ceilExp (x maxF : XVal) : Int :=
  match x.div maxF with
  | .fin _ n d =>
    let e := floorLog2 n d
    if (XVal.dy false 1 e).eqv (.fin false n d) then e else e + 1
  | _ => 127

/-- Choose a block's scale (R184 to R186): the code stored in memory when the block is finite, and the factor that its
elements are divided by. -/
def chooseScale (f : Fmt) (e4m3 : Bool) (xs : List XVal) : Nat × XVal :=
  let am := amaxOf xs
  let maxF := f.decode f.maxCode
  if e4m3 then
    if am.isZero then (1, Fmt.e4m3.decode 1)
    else
      let c := ((List.range 126).map (· + 1)).find? fun c => am.le (maxF.mul (Fmt.e4m3.decode c))
      let c := c.getD 126
      (c, Fmt.e4m3.decode c)
  else
    if am.isZero then (0, .dy false 1 (-127))
    else
      let e := max (-127) (min 127 (ceilExp am maxF))
      ((e + 127).toNat, .dy false 1 e)

/-- The scale code written: NaN where the block holds a non-finite value (R186). -/
def writtenScale (e4m3 : Bool) (code : Nat) (xs : List XVal) : Nat :=
  if xs.any XVal.nonFinite then (if e4m3 then 0x7F else 0xFF) else code

/-- Values of the blocks of a tile, in row-major order of the grid of blocks. -/
def blocksOfTile (bsize bdir r c : Nat) (rows : List (List XVal)) : List (List XVal) :=
  let b := blockSize bsize
  if bdir = 0 then (rows.map fun row => pieces b row).flatten
  else if bdir = 1 then
    ((List.range (r / b)).map fun bi => transposeRows c .zero ((rows.drop (bi * b)).take b)).flatten
  else
    ((List.range (r / b)).map fun bi =>
      (List.range (c / b)).map fun bj =>
        (((rows.drop (bi * b)).take b).map fun row => (row.drop (bj * b)).take b).flatten).flatten

/-- What a drain reads and converts: the codes row by row, the first flagged (row, column, class), and whether an
integer saturated. `divs` are the factors of the blocks. -/
def drainCodes (o : OutputProf) (c : Nat) (divs : List XVal) (rows : List (List XVal)) :
    List (List Nat) × Option (Nat × Nat × Nat) × Bool :=
  let conv := ((List.range rows.length).zip rows).map fun row =>
    ((List.range c).zip row.2).map fun el =>
      let x := el.2
      let y := if divs.isEmpty then x else x.div (nth divs (blockIx o.bsize o.bdir c row.1 el.1) .zero)
      let (code, sat) := drainConv o y
      let out := match fmtOf o.fmt with | some f => f.decode code | none => .zero
      let cls := if nfClass x ≠ 0 then nfClass x else nfClass out
      (code, sat, cls)
  let flagged := (((List.range conv.length).zip conv).map fun row =>
    ((List.range row.2.length).zip row.2).filterMap fun el =>
      if el.2.2.2 = 0 then none else some (row.1, el.1, el.2.2.2)).flatten.head?
  (conv.map fun row => row.map (·.1), flagged, conv.any fun row => row.any fun e => e.2.1)

/-- Rank order of top-k values (R168): higher first. FP32 codes, or INT32 for ACC 1. -/
def rankAbove (int : Bool) (a b : Nat) : Bool :=
  if int then decide (sgn 32 b < sgn 32 a)
  else
    let x := Fmt.fp32.decode a
    let y := Fmt.fp32.decode b
    if x.isNan then !y.isNan else if y.isNan then false else y.lt x

/-- Insert a candidate: above the first one that it outranks, or ties with at a higher position (R168). -/
def insertCand (int : Bool) (x : Nat × Nat) : List (Nat × Nat) → List (Nat × Nat)
  | [] => [x]
  | y :: ys =>
    if rankAbove int x.1 y.1 || (!rankAbove int y.1 x.1 && decide (x.2 < y.2)) then x :: y :: ys
    else y :: insertCand int x ys

/-- Merge a row of values into its candidates. -/
def mergeRow (int : Bool) (k base : Nat) (old : List (Nat × Nat)) (row : List Nat) : List (Nat × Nat) :=
  ((List.range row.length).zip row).foldl (fun acc e => (insertCand int (e.2, base + e.1) acc).take k) old

/-- The 128 bytes of one row of TOPK_EMIT (R169). -/
def emitRow (int : Bool) (k : Nat) (c : List (Nat × Nat)) : List Byte :=
  let pad := (if int then 0x80000000 else 0xFF800000, 0xFFFF)
  let es := (List.range k).map fun i => nth c i pad
  fitBytes 128 ((es.map fun e => toBytes 4 e.1 ++ toBytes 2 e.2 ++ zeroBytes 2).flatten)

end Sys2Proof.Machine
end

