-- ==== Sys2Proof/Machine/Optim.lean ====
section
/-!
DEFINITION. The arithmetic of the optimiser rules (R229 to R245): FP32 operations, the rules, sums, bias corrections, the
stored forms of an owned slot, and the check for non-finite values.
-/

namespace Sys2Proof.Machine

/-! ### FP32 operations (R236, R245) -/

/-- Flush a subnormal FP32 value in heritage mode. -/
def flush32 (h : Bool) (x : XVal) : XVal := if h then flushSubnormal .fp32 x else x

/-- Round an exact value to FP32. -/
def r32 (h : Bool) (x : XVal) : XVal := flush32 h (Fmt.fp32.rounded .rne x)

def fadd (h : Bool) (a b : XVal) : XVal := r32 h ((flush32 h a).add (flush32 h b))
def fsub (h : Bool) (a b : XVal) : XVal := r32 h ((flush32 h a).sub (flush32 h b))
def fmul (h : Bool) (a b : XVal) : XVal := r32 h ((flush32 h a).mul (flush32 h b))
def fdiv (h : Bool) (a b : XVal) : XVal := r32 h ((flush32 h a).div (flush32 h b))
def fsqrt (h : Bool) (a : XVal) : XVal := r32 h (flush32 h a).sqrtSticky

/-- fma: one rounding, or two in heritage mode (R245). -/
def ffma (h : Bool) (a b c : XVal) : XVal :=
  if h then fadd h (fmul h a b) c else r32 false ((a.mul b).add c)

/-- sign(x): +1, −1, or 0 for ±0 (R237). -/
def fsign (x : XVal) : XVal :=
  match x with
  | .nan => .nan
  | .inf b => .ofInt (if b then -1 else 1)
  | .fin b n _ => if n = 0 then .zero else .ofInt (if b then -1 else 1)

/-- sum16 (R239). -/
def sum16 (h : Bool) (xs : List XVal) : XVal :=
  let parts := ((List.range xs.length).zip xs).foldl
    (fun ps e => setNth ps (e.1 % 16) (fadd h (nth ps (e.1 % 16) .zero) e.2)) (List.replicate 16 XVal.zero)
  parts.tail.foldl (fadd h) (parts.headD .zero)

/-! ### The hyperparameter block (R231, R232) -/

/-- The fields of the block's header. -/
structure Hyper where
  lr : XVal
  b1 : XVal
  b2 : XVal
  eps : XVal
  wd : XVal
  gscale : XVal
  trust : XVal
  bias : Bool
  holdZero : Bool
  heritage : Bool
  ring : Bool
  deriving DecidableEq, Repr

def f32At (bs : List Byte) (o : Nat) : XVal := Fmt.fp32.decode (leAt bs o 4)

/-- The block's header with the learning rate of the step. -/
def hyperOf (bs : List Byte) (lr : Nat) : Hyper :=
  let fl := leAt bs 0x1C 4
  ⟨Fmt.fp32.decode lr, f32At bs 4, f32At bs 8, f32At bs 12, f32At bs 16, f32At bs 20, f32At bs 24, fl.testBit 0,
    fl.testBit 1, fl.testBit 2, fl.testBit 3⟩

/-- Finite and not negative (−0 is not). -/
def nonNeg (x : XVal) : Bool :=
  match x with
  | .fin b n _ => !b || n == 0
  | _ => false

/-- In [0, 1). -/
def isBeta (x : XVal) : Bool := nonNeg x && x.lt (.ofInt 1)

def usesB1 (rule : Nat) : Bool := (decide (2 ≤ rule) && decide (rule ≤ 6)) || rule == 10
def usesB2 (rule : Nat) : Bool := (decide (4 ≤ rule) && decide (rule ≤ 6)) || decide (8 ≤ rule)

/-- The binding allows HERITAGE (R245). -/
def heritageOk (b : Binding) (h : Hyper) : Bool :=
  (b.rule == 1 || b.rule == 2 || b.rule == 4 || b.rule == 5) && b.moment == 0 && (b.copy == 6 || b.copy == 8)
    && b.rounding == 0 && !h.ring && !h.holdZero && (b.gradFmt == 6 || b.gradFmt == 7 || b.gradFmt == 8)
    && b.gradBs == 0

/-- The block keeps every condition of R232. -/
def hyperOk (b : Binding) (bs : List Byte) (h : Hyper) : Bool :=
  leAt bs 0x1C 4 / 16 == 0 && (bs.drop 0x20).take 32 == zeroBytes 32 && !(h.ring && decide (b.hyperBytes < 1088))
    && nonNeg h.lr && nonNeg h.eps && nonNeg h.wd && nonNeg h.trust && nonNeg h.gscale && !h.gscale.isZero
    && (!usesB1 b.rule || isBeta h.b1) && (!usesB2 b.rule || isBeta h.b2)
    && !(b.rule == 9 && (h.eps.isZero || h.holdZero)) && (!h.heritage || heritageOk b h)

/-- β^t by square-and-multiply over the bits of t, most significant first, each operation rounded by `rd`. -/
def powBits (rd : XVal → XVal) (b : XVal) (t : Nat) : XVal :=
  (List.range (Nat.log2 t + 1)).foldl (fun p i =>
    let p := rd (p.mul p)
    if t.testBit (Nat.log2 t - i) then rd (p.mul b) else p) (.ofInt 1)

/-- C = 1 ÷ (1 − β^t): in FP64 and rounded once to FP32, or in flushed FP32 in heritage mode (R238, R245). -/
def biasC (heritage : Bool) (b : XVal) (t : Nat) : XVal :=
  let rd (x : XVal) : XVal := if heritage then r32 true x else Fmt.fp64.rounded .rne x
  let one := XVal.ofInt 1
  r32 heritage (rd (one.div (rd (one.sub (powBits rd b t)))))

/-! ### Stored forms (R230, R241) -/

/-- A block-scale descriptor (R183): BSIZE, BDIR, BFMT, rows and columns of a tile. -/
def bsFields (v : Nat) : Nat × Nat × Bool × Nat × Nat :=
  (nbits v 2 0, nbits v 4 3, v.testBit 5, nbits v 19 8, nbits v 31 20)

/-- Bytes of a stored tile's elements and of its scales, each rounded up to 64 (R183). -/
def bsTileBytes (fmt v : Nat) : Nat × Nat :=
  let (bs, bd, _, r, c) := bsFields v
  (roundUp (r * c * fmtWidth fmt / 8) 64, roundUp (scaleCount bs bd r c) 64)

/-- Bytes of N elements in a format under a descriptor. -/
def storedBytes (fmt v n : Nat) : Nat :=
  if v = 0 then ceilDiv (n * fmtWidth fmt) 8
  else
    let (_, _, _, r, c) := bsFields v
    let (e, k) := bsTileBytes fmt v
    ceilDiv n (r * c) * (e + k)

/-- The exact values of one stored tile. -/
def readTileVals (fmt v : Nat) (bs : List Byte) : List XVal :=
  let (bz, bd, bf, r, c) := bsFields v
  let (e, _) := bsTileBytes fmt v
  let rows := rowsOf (fmtWidth fmt) r c bs
  let scales := (fitBytes (scaleCount bz bd r c) (bs.drop e)).map fun b => scaleVal bf b.toNat
  (((List.range r).zip rows).map fun row =>
    ((List.range c).zip row.2).map fun el =>
      (nth scales (blockIx bz bd c row.1 el.1) .nan).mul (elemVal fmt el.2)).flatten

/-- The exact values of N stored elements (R236). -/
def readVals (fmt v n : Nat) (bs : List Byte) : List XVal :=
  if v = 0 then
    let wd := fmtWidth fmt
    ((pieces (wd / 8) (fitBytes (n * wd / 8) bs)).map fun e => elemVal fmt (ofBytes e)).take n
  else
    let (e, k) := bsTileBytes fmt v
    (((pieces (e + k) bs).map (readTileVals fmt v)).flatten).take n

/-- The rounding of narrower values: nearest even, toward zero, or stochastic with the free value of index `i` (R199,
R200, R244). -/
def updRnd (rounding ix i : Nat) : Rnd :=
  if rounding = 0 then .rne else if rounding = 1 then .rtz else .stoch (bits (Config.freeBits (ix + i)) 63 48)

/-- Convert a value to a format: the code. FP32 values are exact; heritage flushes a subnormal BF16 copy (R245). -/
def convCode (fmt : Nat) (heritage : Bool) (m : Rnd) (x : XVal) : Nat :=
  let f := (fmtOf fmt).getD .fp32
  let c := f.round (if fmt = 8 then .rne else m) x
  if heritage ∧ c % f.signBit < 2 ^ f.mb then c / f.signBit * f.signBit else c

/-- Store values without block scales: the bytes and the values written. -/
def writeFlat (fmt rounding ix : Nat) (heritage : Bool) (xs : List XVal) : List Byte × List XVal :=
  let cs := ((List.range xs.length).zip xs).map fun e => convCode fmt heritage (updRnd rounding ix e.1) e.2
  (packElems (fmtWidth fmt) cs, cs.map (elemVal fmt))

/-- Store one tile with block scales (R241). -/
def writeTileVals (fmt v rounding ix : Nat) (xs : List XVal) : List Byte × List XVal :=
  let (bz, bd, bf, r, c) := bsFields v
  let f := (fmtOf fmt).getD .fp32
  let rows := (pieces c xs).take r
  let scales := (blocksOfTile bz bd r c rows).map (chooseScale f bf)
  let codes := ((List.range rows.length).zip rows).map fun row =>
    ((List.range row.2.length).zip row.2).map fun el =>
      f.round (updRnd rounding ix (row.1 * c + el.1))
        (el.2.div (nth scales (blockIx bz bd c row.1 el.1) (0, .zero)).2)
  let (e, k) := bsTileBytes fmt v
  (fitBytes e ((codes.map fun row => packElems (fmtWidth fmt) row).flatten)
    ++ fitBytes k (scales.map fun s => BitVec.ofNat 8 s.1), (codes.flatten).map (elemVal fmt))

/-- Store N values in a format under a descriptor. -/
def writeVals (fmt v rounding ix : Nat) (heritage : Bool) (xs : List XVal) : List Byte × List XVal :=
  if v = 0 then writeFlat fmt rounding ix heritage xs
  else
    let (_, _, _, r, c) := bsFields v
    let ts := pieces (r * c) xs
    let out := ((List.range ts.length).zip ts).map fun e => writeTileVals fmt v rounding (ix + e.1 * (r * c)) e.2
    ((out.map (·.1)).flatten, (out.map (·.2)).flatten)

/-- FP8 moments: E4M3 codes in blocks of 32 with E8M0 scales (R230): codes, scales, values written. -/
def writeMoment8 (rounding ix : Nat) (xs : List XVal) : List Byte × List Byte × List XVal :=
  let bl := pieces 32 xs
  let out : List (List Nat × Nat) := ((List.range bl.length).zip bl).map fun (b : Nat × List XVal) =>
    let (code, d) := chooseScale .e4m3 false b.2
    let cs := ((List.range b.2.length).zip b.2).map fun (e : Nat × XVal) =>
      Fmt.e4m3.round (updRnd rounding ix (b.1 * 32 + e.1)) (e.2.div d)
    (cs, code)
  ((out.map fun o => o.1.map fun c => (BitVec.ofNat 8 c : Byte)).flatten, out.map fun o => BitVec.ofNat 8 o.2,
    (out.map fun o => o.1.map Fmt.e4m3.decode).flatten)

/-- Bytes of a moment region (R230). -/
def momentBytes (moment n : Nat) : Nat :=
  if moment = 0 then 4 * n else if moment = 1 then 2 * n else roundUp n 64 + n / 32

def momentVals (moment n : Nat) (bs : List Byte) : List XVal :=
  if moment = 0 then readVals 8 0 n bs else if moment = 1 then readVals 6 0 n bs
  else
    let scales := (bs.drop (roundUp n 64)).map fun b => scaleVal false b.toNat
    ((List.range n).zip (bs.take n)).map fun (e : Nat × Byte) => (nth scales (e.1 / 32) .nan).mul (Fmt.e4m3.decode e.2.toNat)

def writeMoment (moment rounding ix : Nat) (heritage : Bool) (xs : List XVal) : List Byte × List XVal :=
  if moment = 0 then writeFlat 8 0 ix heritage xs
  else if moment = 1 then writeFlat 6 rounding ix heritage xs
  else
    let (c, sc, vs) := writeMoment8 rounding ix xs
    (fitBytes (roundUp xs.length 64) c ++ sc, vs)

def hasMoment1 (rule : Nat) : Bool := (decide (2 ≤ rule) && decide (rule ≤ 8)) || rule == 10
def hasMoment2 (rule : Nat) : Bool := decide (4 ≤ rule) && decide (rule ≤ 6)

/-- The state regions of an owned slot: offsets of master, moment 1, moment 2, row and column factors, and the end
(R230). A region that is absent has no bytes. -/
structure Regions where
  master : Nat
  m1 : Nat
  m2 : Nat
  rows : Nat
  cols : Nat
  last : Nat
  deriving DecidableEq, Repr

def regionsOf (b : Binding) (bytes : Nat) : Regions :=
  let place (e n : Nat) : Nat × Nat := if n = 0 then (e, e) else (roundUp e 64, roundUp e 64 + n)
  let (a, e) := place bytes (if b.copy = 8 then 0 else 4 * b.count)
  let (m1, e) := place e (if hasMoment1 b.rule then momentBytes b.moment b.count else 0)
  let (m2, e) := place e (if hasMoment2 b.rule then momentBytes b.moment b.count else 0)
  let (r, e) := place e (if b.rule = 9 then 4 * b.rows else 0)
  let (c, e) := place e (if b.rule = 9 then 4 * b.cols else 0)
  ⟨a, m1, m2, r, c, e⟩

/-! ### The rules (R237 to R240) -/

/-- The elements' state while a rule runs: master, moments, the r of LAMB, whether HOLDZERO holds the element. -/
structure UElem where
  w : XVal
  m1 : XVal
  m2 : XVal
  r : XVal
  held : Bool
  deriving DecidableEq, Repr

/-- Adam's moments and update term. -/
def adamTerm (hp : Hyper) (c1 c2 g m v : XVal) : XVal × XVal × XVal :=
  let h := hp.heritage
  let m := ffma h hp.b1 (fsub h m g) g
  let q := fmul h g g
  let v := ffma h hp.b2 (fsub h v q) q
  (m, v, fdiv h (fmul h m c1) (fadd h (fsqrt h (fmul h v c2)) hp.eps))

/-- One element in pass 1 (R237); `g` is the scaled gradient. -/
def ruleElem (rule : Nat) (hp : Hyper) (c1 c2 w m1 m2 g : XVal) : UElem :=
  let h := hp.heritage
  let nlr := hp.lr.neg
  if hp.holdZero && w.isZero then ⟨w, m1, m2, .zero, true⟩
  else
    let g' := ffma h hp.wd w g
    match rule with
    | 1 => ⟨ffma h nlr g' w, m1, m2, .zero, false⟩
    | 2 =>
      let m := ffma h hp.b1 m1 g'
      ⟨ffma h nlr m w, m, m2, .zero, false⟩
    | 3 =>
      let m := ffma h hp.b1 m1 g'
      ⟨ffma h nlr (ffma h hp.b1 m g') w, m, m2, .zero, false⟩
    | 4 =>
      let (m, v, u) := adamTerm hp c1 c2 g' m1 m2
      ⟨ffma h nlr u w, m, v, .zero, false⟩
    | 5 =>
      let (m, v, u) := adamTerm hp c1 c2 g m1 m2
      ⟨ffma h nlr (ffma h hp.wd w u) w, m, v, .zero, false⟩
    | 6 =>
      let (m, v, u) := adamTerm hp c1 c2 g m1 m2
      ⟨w, m, v, ffma h hp.wd w u, false⟩
    | 7 =>
      let v := fadd h m1 (fmul h g' g')
      ⟨ffma h nlr (fdiv h g' (fadd h (fsqrt h v) hp.eps)) w, v, m2, .zero, false⟩
    | 8 =>
      let q := fmul h g' g'
      let v := ffma h hp.b2 (fsub h m1 q) q
      ⟨ffma h nlr (fdiv h g' (fadd h (fsqrt h v) hp.eps)) w, v, m2, .zero, false⟩
    | _ =>
      let c := ffma h hp.b1 (fsub h m1 g) g
      ⟨ffma h nlr (ffma h hp.wd w (fsign c)) w, ffma h hp.b2 (fsub h m1 g) g, m2, .zero, false⟩

/-- LAMB's trust ratio φ (R239). -/
def lambPhi (hp : Hyper) (ws : List XVal) (es : List UElem) : XVal :=
  let sw := sum16 false (ws.map fun w => fmul false w w)
  let sr := sum16 false (es.map fun e => fmul false e.r e.r)
  let phi := if sw.isZero || sr.isZero then XVal.ofInt 1 else fdiv false (fsqrt false sw) (fsqrt false sr)
  if !hp.trust.isZero && hp.trust.lt phi then hp.trust else phi

/-- The factored rule (R239): new masters, row factors, column factors. -/
def factored (hp : Hyper) (rows cols : Nat) (ws gs rf cf : List XVal) : List XVal × List XVal × List XVal :=
  let h := false
  let q := gs.map fun g => ffma h g g hp.eps
  let qr := pieces cols q
  let qc := transposeRows cols .zero qr
  let mean (n : Nat) (xs : List XVal) : XVal := fdiv h (sum16 h xs) (r32 h (.ofInt n))
  let upd (old s : XVal) : XVal := ffma h hp.b2 (fsub h old s) s
  let rf := (rf.zip qr).map fun e => upd e.1 (mean cols e.2)
  let cf := (cf.zip qc).map fun e => upd e.1 (mean rows e.2)
  let s := mean rows rf
  let nw := ((List.range ws.length).zip (ws.zip gs)).map fun e =>
    let v := fdiv h (fmul h (nth rf (e.1 / cols) .zero) (nth cf (e.1 % cols) .zero)) s
    let u := fdiv h e.2.2 (fsqrt h v)
    ffma h hp.lr.neg (ffma h hp.wd e.2.1 u) e.2.1
  (nw, rf, cf)

/-- The first non-finite of a list of (element, where, value) (R242). -/
def firstNf (l : List (Nat × Nat × XVal)) : Option (Nat × Nat × Nat) :=
  (l.find? fun e => e.2.2.nonFinite).map fun e => (e.1, e.2.1, nfClass e.2.2)

/-- Number a list. -/
def numbered {α : Type} (l : List α) : List (Nat × α) := (List.range l.length).zip l

/-- A version: the bytes of each region, or the first non-finite value. -/
structure Version where
  copy : List Byte
  master : List Byte
  m1 : List Byte
  m2 : List Byte
  rows : List Byte
  cols : List Byte
  bad : Option (Nat × Nat × Nat)
  draws : Nat
  deriving DecidableEq, Repr

/-- The element that holds byte p of a stored region in a format of whole bytes under a descriptor; none for its scales and
padding (R183). -/
def elemOfByte (fmt v p : Nat) : Option Nat :=
  let k := fmtWidth fmt / 8
  if v = 0 then some (p / k)
  else
    let (_, _, _, r, c) := bsFields v
    let (e, sc) := bsTileBytes fmt v
    let q := p % (e + sc)
    if q < r * c * k then some (p / (e + sc) * (r * c) + q / k) else none

/-- Bytes of a region in which the elements that HOLDZERO holds keep their stored codes (R240, log entry 89). -/
def keepHeld (held : List Bool) (elem : Nat → Option Nat) (old new : List Byte) : List Byte :=
  if held.any id then
    (numbered (new.zip (fitBytes new.length old))).map fun b =>
      if ((elem b.1).map fun i => nth held i false) = some true then b.2.2 else b.2.1
  else new

/-- The values of a region with those of held elements unchanged (R240). -/
def keepVals (held : List Bool) (old new : List XVal) : List XVal :=
  (held.zip (old.zip new)).map fun e => if e.1 then e.2.1 else e.2.2

/-- Stored bytes of the committed slot that a held element keeps: the working copy and the moments (R240). -/
structure HeldBytes where
  copy : List Byte
  m1 : List Byte
  m2 : List Byte
  deriving DecidableEq, Repr

/-- The element of a moment region's byte: its codes come first, FP8 scales after them (R230). -/
def momentElem (moment n p : Nat) : Option Nat :=
  if moment = 2 ∧ n ≤ p then none else elemOfByte (if moment = 0 then 8 else if moment = 1 then 6 else 4) 0 p

/-- The next version of a shard at step `step` (R236 to R242): `ix` is the first free value of its stochastic roundings, `kept`
the stored bytes of the committed slot. -/
def nextVersion (b : Binding) (hp : Hyper) (step ix : Nat) (kept : HeldBytes) (ws m1s m2s rf cf gin : List XVal) :
    Version :=
  let h := hp.heritage
  let gs := gin.map fun g => fmul h hp.gscale g
  let t := step + 1
  let adam := hp.bias && decide (4 ≤ b.rule) && decide (b.rule ≤ 6)
  let c1 := if adam then biasC h hp.b1 t else .ofInt 1
  let c2 := if adam then biasC h hp.b2 t else .ofInt 1
  let fl (xs : List XVal) : List Byte := (writeFlat 8 0 ix h xs).1
  let gi := (numbered gs).map fun e => (e.1, 1, e.2)
  if b.rule = 9 then
    let (nw, rf, cf) := factored hp b.rows b.cols ws gs rf cf
    let (cb, cv) := writeVals b.copy b.shardBs b.rounding ix h nw
    let pass2 := ((numbered (nw.zip cv)).map fun e => [(e.1, 2, e.2.1), (e.1, 6, e.2.2)]).flatten
    ⟨cb, fl nw, [], [], fl rf, fl cf,
      firstNf (gi ++ (numbered rf).map (fun e => (e.1, 5, e.2)) ++ (numbered cf).map (fun e => (e.1, 5, e.2)) ++ pass2),
      b.count⟩
  else
    let es := (ws.zip (m1s.zip (m2s.zip gs))).map fun e => ruleElem b.rule hp c1 c2 e.1 e.2.1 e.2.2.1 e.2.2.2
    let nw := if b.rule = 6 then
        let step := (fmul false hp.lr (lambPhi hp ws es)).neg
        es.map fun e => if e.held then e.w else ffma false step e.r e.w
      else es.map (·.w)
    let held := es.map (·.held)
    let (cb, cv) := writeVals b.copy b.shardBs b.rounding ix h nw
    let (b1, v1) := writeMoment b.moment b.rounding (ix + b.count) h (es.map (·.m1))
    let (b2, v2) := writeMoment b.moment b.rounding (ix + 2 * b.count) h (es.map (·.m2))
    let cb := keepHeld held (elemOfByte b.copy b.shardBs) kept.copy cb
    let b1 := keepHeld held (momentElem b.moment b.count) kept.m1 b1
    let b2 := keepHeld held (momentElem b.moment b.count) kept.m2 b2
    let cv := keepVals held (readVals b.copy b.shardBs b.count kept.copy) cv
    let v1 := keepVals held (es.map (·.m1)) v1
    let v2 := keepVals held (es.map (·.m2)) v2
    let one := hasMoment1 b.rule
    let two := hasMoment2 b.rule
    let moments (e : Nat × XVal × XVal) : List (Nat × Nat × XVal) :=
      (if one then [(e.1, 3, e.2.1)] else []) ++ (if two then [(e.1, 4, e.2.2)] else [])
    let vs := v1.zip v2
    let items := if b.rule = 6 then
        ((gi.zip (numbered vs)).map fun e => e.1 :: moments e.2).flatten
          ++ ((numbered (nw.zip cv)).map fun e => [(e.1, 2, e.2.1), (e.1, 6, e.2.2)]).flatten
      else
        ((gi.zip ((numbered (nw.zip cv)).zip (numbered vs))).map fun e =>
          e.1 :: (e.2.1.1, 2, e.2.1.2.1) :: moments e.2.2 ++ [(e.2.1.1, 6, e.2.1.2.2)]).flatten
    ⟨cb, fl nw, if one then b1 else [], if two then b2 else [], [], [], firstNf items, 3 * b.count⟩

end Sys2Proof.Machine
end

