-- ==== Sys2Proof/Machine/Update.lean ====
section
/-!
DEFINITION. Update engines (R226 to R247): triggers, starting an update, claiming a slot, and how an update ends. What a
step's end means for the vote is in Vote.lean.
-/

namespace Sys2Proof.Machine

def State.setUpdEng (s : State) (v : Nat) (e : UpdEngine) : State := { s with updEngines := s.updEngines.set v e {} }

def State.setTrigQ (s : State) (n : Nat) (q : List Trig) : State := { s with trigQueues := s.trigQueues.set n q [] }

/-- UPD_DONE's counter advances as a trigger ends (R247). -/
def State.trigEnded (s : State) (n : Nat) : State :=
  let d := s.rd (Reg.UPD_DONE n)
  if bit d 63 then s.msAdd (bits d 13 0) 1 else s

/-- A shard has ended step `step` (R132, R235). -/
def State.shardEnded (s : State) (l step : Nat) (finite : Bool) : State :=
  let x := s.led l
  s.setLed l { x with ends := (x.ends.filter fun e => decide (e.1 ≠ step)) ++ [(step, finite)] }

/-- A non-finite update of a shard in per-shard scope (R131). -/
def State.shardNonfinite (s : State) (l : Nat) : State :=
  (s.addB (Reg.LED_NONFINITE 0) 63 32 1).ledEvent 0 St.nonfinite (some l)

/-- A shard's step ends as non-finite without a version, in the scope of the job (R131, R132, R243). -/
def State.updNonfinite (s : State) (l step : Nat) : State :=
  if s.perShard then s.shardNonfinite l else s.shardEnded l step false

/-- The trigger of a ledger and step runs on an engine. -/
def State.trigRuns (s : State) (l step : Nat) : Bool :=
  s.updEngines.any fun e => match e.2.trig with | some t => t.led == l && t.step == step | none => false

/-- An event of a die's trigger queue (R233). -/
def State.trigEvent (s : State) (n ev : Nat) : State :=
  s.raise n Blk.upd (Reg.UPD_DIE_EVT n) (Reg.UPD_DIE_EVT_EN n) ev { at0 := some (updReg Reg.UPD_LAST (4 * n)) }

/-- A trigger arrives at a die (R233, R235); true when it was queued or ended, false when it found the queue full.
`status` is the status that the collective
engine's trigger carries (R374); `byWrite` tells a write of UPD_TRIGGER from the engine's trigger. -/
def State.trigArrive (s : State) (n l step : Nat) (status : Nat) (skip fail byWrite : Bool) : Bool × State :=
  let x := s.led l
  if s.jobState ≠ 3 then (true, s)
  else if s.ledCount ≤ l ∨ !x.owner ∨ x.updCtx = none ∨ x.updDie ≠ n then (true, s.trigEvent n 3)
  else if step + 1 ≤ s.ledStep l then
    (true, ((s.addB (Reg.UPD_IGNORED n) 31 0 1).trigEvent n 1).trigEnded n)
  else if ((s.trigQ n).any fun t => t.led == l && t.step == step) || s.trigRuns l step then
    (true, (s.addB (Reg.UPD_IGNORED n) 63 32 1).trigEvent n 2)
  else if skip then
    let s := if fail then
        let v := (s.stg n (x.updCtx.getD 0)).updaters.headD (4 * n)
        let s := s.wr (updReg Reg.UPD_LAST v) (w (l + at_ 16 step + at_ 56 St.nonfinite))
        s.updNonfinite l step
      else if s.perShard then s else s.shardEnded l step true
    (true, s.trigEnded n)
  else if 1024 ≤ (s.trigQ n).length then
    if byWrite then (true, s.trigEvent n 0) else (false, s)
  else
    let s := s.setTrigQ n (s.trigQ n ++ [⟨l, step, status⟩])
    (true, s.addB (Reg.UPD_TRIGGERS n) 63 0 1)

/-- A write of UPD_TRIGGER (R233, R235). -/
def State.updTrigger (s : State) (n : Nat) (v : Word) : State :=
  if bit v 63 then (s.trigArrive n (bits v 15 0) (bits v 55 16) 0 (bit v 62) (bit v 61) true).2 else s

/-- The stage of an update engine's running update. -/
def State.updStatus (s : State) (v st slot : Nat) (heritage : Bool) (x : Nat) : State :=
  s.wr (updReg Reg.UPD_STATUS v) (w (st + at_ 3 x + at_ 8 slot + at_ 13 (if heritage then 1 else 0)))

/-- An update ends with a status: UPD_LAST, the counters, UPD_DONE, and the engine becomes idle, with no running update in UPD_CUR
and UPD_PROGRESS (R247). -/
def State.updEnd (s : State) (v status : Nat) : State :=
  match (s.updEng v).trig with
  | none => s
  | some t =>
    let x := (s.led t.led).updCtx.getD 0
    let s := s.wr (updReg Reg.UPD_LAST v) (w (t.led + at_ 16 t.step + at_ 56 status))
    let s := s.addB (updReg Reg.UPD_CNT_UPDATES v) 63 0 1
    let s := s.setUpdEng v { ran := true }
    let s := (s.wr (updReg Reg.UPD_CUR v) 0).wr (updReg Reg.UPD_PROGRESS v) 0
    let s := s.updStatus v 0 0 false x
    s.trigEnded (v / 4)

/-- An event of an update engine (R453). -/
def State.updEvent (s : State) (v ev status : Nat) : State :=
  let info := if ev = 0 then updReg Reg.UPD_NF_FIRST v else updReg Reg.UPD_LAST v
  s.raise (v / 4) Blk.upd (updReg Reg.UPD_EVT v) (updReg Reg.UPD_EVT_EN v) ev
    { status := status, master := 0xC0 + v, unit := s.rdB (updReg Reg.UPD_STATUS v) 7 3, at0 := some info }

/-- The update of an engine fails: its slot is freed, the step counts as non-finite (R130, R243). -/
def State.updFail (s : State) (v status ev : Nat) : State :=
  let e := s.updEng v
  match e.trig with
  | none => s
  | some t =>
    let s := match e.slot with | some k => s.setSlotState t.led k 0 | none => s
    let s := s.setLed t.led { s.led t.led with waiting := false }
    let s := s.updEnd v status
    let s := s.updEvent v ev status
    s.updNonfinite t.led t.step

/-- The update claims the lowest FREE slot, or waits with UPDWAIT (R126). -/
def State.updClaim (s : State) (v : Nat) : State :=
  let e := s.updEng v
  match e.trig with
  | none => s
  | some t =>
    let x := (s.led t.led).updCtx.getD 0
    let her := (hyperOf e.hyper e.lr).heritage
    match s.claimSlot t.led with
    | some (k, s) =>
      let s := s.setUpdEng v { e with slot := some k }
      let s := s.setLed t.led { s.led t.led with waiting := false }
      s.updStatus v 3 k her x
    | none =>
      let s := if (s.led t.led).waiting then s else
        (s.setLed t.led { s.led t.led with waiting := true }).ledEvent 3 0 (some t.led)
      s.updStatus v 2 0 her x

/-- An update starts on an engine: the block is read and checked, then a slot is claimed (R231, R232, R234). -/
def State.updStart (s : State) (v : Nat) (t : Trig) : State :=
  let n := v / 4
  let s := s.setTrigQ n ((s.trigQ n).filter fun u => u != t)
  let s := s.setUpdEng v { trig := some t }
  let x := s.led t.led
  let s := s.wr (updReg Reg.UPD_CUR v) (w (t.led + at_ 16 t.step))
  let s := s.wr (updReg Reg.UPD_PROGRESS v) 0
  let s := s.updStatus v 1 0 false (x.updCtx.getD 0)
  if t.status ≠ 0 then s.updFail v t.status 2 else
  match x.damaged, x.bind with
  | some st, _ => s.updFail v st 2
  | none, none => s.updFail v St.misalign 1
  | none, some b =>
    let (st, hd, s) := s.load (0xC0 + v) b.hyper 64
    if st ≠ 0 then s.updFail v st 2 else
    let ring := (leAt hd 0x1C 4).testBit 3 && decide (1088 ≤ b.hyperBytes)
    let (st, lb, s) := if ring then s.load (0xC0 + v) (b.hyper + 0x40 + 4 * (t.step % 256)) 4
      else (St.ok, hd.take 4, s)
    if st ≠ 0 then s.updFail v st 2 else
    let lr := leAt lb 0 4
    if !hyperOk b hd (hyperOf hd lr) then s.updFail v St.misalign 1
    else (s.setUpdEng v { trig := some t, hyper := hd, lr := lr }).updClaim v

/-- The running update of an engine goes on: the engine's ports are not masked (R299). -/
def updLive (v : Nat) (f : State → State) (s : State) : State := if s.isMasked (0xC0 + v) then s else f s

/-- UPDATE_START (R234): the oldest runnable trigger of a stage with an idle engine starts on the lowest one. -/
def fxUpdateStart (n : Nat) (s : State) : State :=
  let idle (l : Nat) : Option Nat :=
    (sortBy id (s.stg n ((s.led l).updCtx.getD 0)).updaters).find? fun v => (s.updEng v).trig.isNone && !s.isMasked (0xC0 + v)
  match (s.trigQ n).find? fun t => s.trigRunnable n t && (idle t.led).isSome with
  | some t => match idle t.led with | some v => s.updStart v t | none => s
  | none => s

def execUpdateStart (die : BitVec 2) (s : State) : Host.Outcome State Fault Refusal := live s (fxUpdateStart die.toNat)

/-- UPDATE_SLOT_CLAIM (R126): a waiting update claims the lowest FREE slot when there is one. -/
def fxUpdateSlotClaim (v : Nat) (s : State) : State :=
  let e := s.updEng v
  match e.trig, e.slot with
  | some t, none => if (s.led t.led).waiting && (s.freeSlot t.led).isSome then s.updClaim v else s
  | _, _ => s

def execUpdateSlotClaim (engine : BitVec 4) (s : State) : Host.Outcome State Fault Refusal :=
  live s (fxUpdateSlotClaim engine.toNat)

/-! ### Running the rule -/

/-- Read the parts of an update, in order: one status, and the parts' bytes. -/
def State.updReads (s : State) (m : Nat) : List (Nat × Nat) → Nat × List (List Byte) × State
  | [] => (St.ok, [], s)
  | (a, n) :: ps =>
    let (st, bs, s) := if n = 0 then (St.ok, [], s) else s.load m a n
    if st ≠ 0 then (st, [], s) else
    let (st, rest, s) := State.updReads s m ps
    (st, bs :: rest, s)

/-- Write the parts of a version: one status. -/
def State.updWrites (s : State) (m : Nat) : List (Nat × List Byte) → Nat × State
  | [] => (St.ok, s)
  | (a, bs) :: ps =>
    let (st, s) := if bs.isEmpty then (St.ok, s) else s.store m a bs
    if st ≠ 0 then (st, s) else State.updWrites s m ps

/-- How the running update of an engine ends, with the state in which its reads and writes have happened. -/
inductive UpdRes where
  | none
  | written (step : Nat) (fprint : Nat)
  | nonfinite (element place cls : Nat)
  | access (status : Nat)
  deriving DecidableEq, Repr

/-- Compute and write the next version (R236 to R242). What an update reads is what R246 lists: the working copy of the elements that
HOLDZERO holds stays as memory holds it (R240, log entry 89). -/
def State.updRun (s : State) (v : Nat) : UpdRes × State :=
  let e := s.updEng v
  match e.trig, e.slot with
  | some t, some k =>
    let x := s.led t.led
    match x.bind with
    | none => (.none, s)
    | some b =>
      let old := x.slotAddr (s.ledSlot t.led)
      let new := x.slotAddr k
      let rg := regionsOf b x.bytes
      let mb := momentBytes b.moment b.count
      let n1 := if hasMoment1 b.rule then mb else 0
      let n2 := if hasMoment2 b.rule then mb else 0
      let nr := if b.rule = 9 then 4 * b.rows else 0
      let nc := if b.rule = 9 then 4 * b.cols else 0
      let nm := if b.copy = 8 then x.bytes else 4 * b.count
      let om := if b.copy = 8 then 0 else rg.master
      let hp := hyperOf e.hyper e.lr
      let grad := (b.grad, storedBytes b.gradFmt b.gradBs b.count)
      let (st, ps, s) := s.updReads (0xC0 + v)
        [(old + om, nm), (old + rg.m1, n1), (old + rg.m2, n2), (old + rg.rows, nr), (old + rg.cols, nc), grad]
      if st ≠ 0 then (.access st, s) else
      let kept := if !hp.holdZero then [] else if b.copy = 8 then nth ps 0 [] else s.rawRead old x.bytes
      let vals (i fmt bs n : Nat) : List XVal := readVals fmt bs n (nth ps i [])
      let ws := vals 0 8 (if b.copy = 8 then b.shardBs else 0) b.count
      let zeros := List.replicate b.count XVal.zero
      let m1 := if n1 = 0 then zeros else momentVals b.moment b.count (nth ps 1 [])
      let m2 := if n2 = 0 then zeros else momentVals b.moment b.count (nth ps 2 [])
      let ver := nextVersion b hp t.step s.freeIx ⟨kept, nth ps 1 [], nth ps 2 []⟩ ws m1 m2 (vals 3 8 0 b.rows)
        (vals 4 8 0 b.cols) (vals 5 b.gradFmt b.gradBs b.count)
      let s := { s with freeIx := s.freeIx + ver.draws }
      match ver.bad with
      | some (i, pl, cls) => (.nonfinite i pl cls, s)
      | none =>
        let copy := fitBytes x.bytes ver.copy
        let state := [(new + rg.m1, ver.m1), (new + rg.m2, ver.m2), (new + rg.rows, ver.rows), (new + rg.cols, ver.cols)]
        let first := if b.rule = 6 then (new + om, nth ps 0 []) :: state else state
        let again := if b.rule = 6 then [(new + om, nm), (new + rg.m1, n1), (new + rg.m2, n2)]
          else if b.rule = 9 then [grad, (old + om, nm)] else []
        let (st, s) := s.updWrites (0xC0 + v) first
        if st ≠ 0 then (.access st, s) else
        let (st, _, s) := s.updReads (0xC0 + v) again
        if st ≠ 0 then (.access st, s) else
        let (st, s) := s.updWrites (0xC0 + v) [(new, copy), (new + rg.master, if b.copy = 8 then [] else ver.master)]
        if st ≠ 0 then (.access st, s) else (.written (t.step + 1) (crc64 copy), s)
  | _, _ => (.none, s)

/-- Passes of a rule (R246). -/
def rulePasses (rule : Nat) : Nat := if rule = 6 ∨ rule = 9 then 2 else 1

/-- The most element passes that an update completes before it ends: all of them, or those before the value that stops it
(R242, R246). -/
def UpdRes.limit (b : Binding) : UpdRes → Nat
  | .nonfinite i pl _ =>
    if rulePasses b.rule = 2 ∧ (pl = 2 ∨ pl = 6) then b.count + i else if pl = 5 then b.count else i
  | _ => b.count * rulePasses b.rule

/-- The binding of an engine's running update. -/
def State.updBinding (s : State) (v : Nat) : Binding :=
  (((s.updEng v).trig.bind fun t => (s.led t.led).bind)).getD {}

/-- An engine has completed `d` element passes: UPD_CNT_ELEMS, UPD_PROGRESS, and the pass in UPD_STATUS, 5 once only
acknowledgements are due (R247). -/
def State.updTo (s : State) (v d : Nat) : State :=
  let b := s.updBinding v
  let e := s.updEng v
  let total := b.count * rulePasses b.rule
  let s := s.addB (updReg Reg.UPD_CNT_ELEMS v) 63 0 (d - e.passes)
  let s := s.setUpdEng v { e with passes := max e.passes d }
  let s := s.wr (updReg Reg.UPD_PROGRESS v) (w (if total ≤ d then b.count else d % b.count))
  s.wrB (updReg Reg.UPD_STATUS v) 2 0 (if total ≤ d then 5 else 3 + d / b.count)

/-- A running update goes on by a free number of element passes, up to where it ends (log entry 90). -/
def State.updAdvance (s : State) (v : Nat) : State :=
  let e := s.updEng v
  if e.slot = none then s
  else
    let (f, s) := s.free
    s.updTo v (max e.passes (min ((s.updRun v).1.limit (s.updBinding v)) (e.passes + f.toNat)))

/-- An engine that has run an update since the last tick: its cycles are counted, of which those that waited for memory are a part,
and a running update goes on (log entries 62, 90). `cycles` is the number of arithmetic cycles of a tick. -/
def State.updTick (s : State) (v cycles : Nat) : State :=
  let e := s.updEng v
  if e.trig.isNone && !e.ran then s
  else
    let (f, s) := s.free
    let busy := bits f 31 0 % (cycles + 1)
    let s := s.addB (updReg Reg.UPD_CNT_BUSY v) 63 0 busy
    let s := s.addB (updReg Reg.UPD_CNT_MEMWAIT v) 63 0 (bits f 63 32 % (busy + 1))
    (s.setUpdEng v { e with ran := false }).updAdvance v

/-- UPDATE_WRITTEN (R128, R131, R132): the version is written and acknowledged; STEP and FPRINT, WRITTEN, and in per-shard
scope the commit. -/
def fxUpdateWritten (v : Nat) (s : State) : State :=
  match s.updRun v, (s.updEng v).trig, (s.updEng v).slot with
  | (.written step fp, s'), some t, some k =>
    let b := s.updBinding v
    let s := (s'.updTo v (b.count * rulePasses b.rule)).slotWritten t.led k step fp
    let s := if s.perShard then (s.commitSlot t.led k).sendNotices t.led else s.shardEnded t.led t.step true
    s.updEnd v St.ok
  | _, _, _ => s

def execUpdateWritten (engine : BitVec 4) (s : State) : Host.Outcome State Fault Refusal :=
  live s (updLive engine.toNat (fxUpdateWritten engine.toNat))

/-- UPDATE_NONFINITE (R242): the first value found is latched unless NONFINITE was already set. -/
def fxUpdateNonfinite (v : Nat) (s : State) : State :=
  match s.updRun v, (s.updEng v).trig with
  | (.nonfinite i pl cls, s'), some t =>
    let s' := s'.updTo v (max (s.updEng v).passes ((UpdRes.nonfinite i pl cls).limit (s.updBinding v)))
    let s := if bit (s'.rd (updReg Reg.UPD_EVT v)) 0 then s' else
      (s'.wr (updReg Reg.UPD_NF_FIRST v) (w (i + at_ 40 pl + at_ 43 cls + at_ 48 t.led))).wr
        (updReg Reg.UPD_NF_TIME v) (w s'.now)
    s.updFail v St.nonfinite 0
  | _, _ => s

def execUpdateNonfinite (engine : BitVec 4) (s : State) : Host.Outcome State Fault Refusal :=
  live s (updLive engine.toNat (fxUpdateNonfinite engine.toNat))

/-- UPDATE_ACCESS_FAIL (R243): a read or write of the update completes with a nonzero status, after a free number of element
passes (log entry 90). -/
def fxUpdateAccessFail (v : Nat) (s : State) : State :=
  match s.updRun v with
  | (.access st, s) => (s.updAdvance v).updFail v st 2
  | _ => s

def execUpdateAccessFail (engine : BitVec 4) (s : State) : Host.Outcome State Fault Refusal :=
  live s (updLive engine.toNat (fxUpdateAccessFail engine.toNat))

end Sys2Proof.Machine
end

