-- ==== Sys2Proof/Machine/Collect.lean ====
section
/-!
DEFINITION. The collective engine (R363 to R383): descriptors, ring transport, permute, completion and triggers. The finite
vote is in Vote.lean.
-/

namespace Sys2Proof.Machine

/-- A global address. -/
def gaOf (dev a : Nat) : Nat := dev * 2 ^ 46 + a

/-! ### Descriptors (R364 to R366) -/

def Col.id (c : Col) : Nat := leAt c.desc 0 4
def Col.op (c : Col) : Nat := leAt c.desc 4 1
def Col.inFmt (c : Col) : Nat := leAt c.desc 5 1
def Col.outFmt (c : Col) : Nat := leAt c.desc 6 1
def Col.src (c : Col) : Nat := leAt c.desc 8 8
def Col.dst (c : Col) : Nat := leAt c.desc 0x10 8
def Col.count (c : Col) : Nat := leAt c.desc 0x18 8
def Col.groupAddr (c : Col) : Nat := leAt c.desc 0x20 8
def Col.ranks (c : Col) : Nat := leAt c.desc 0x28 4
def Col.rank (c : Col) : Nat := leAt c.desc 0x2C 4
def Col.root (c : Col) : Nat := leAt c.desc 0x30 4
def Col.doneMs (c : Col) : Nat := leAt c.desc 0x34 2 % 2 ^ 14
def Col.trigger (c : Col) : Bool := (leAt c.desc 0x36 1).testBit 0
def Col.landOnly (c : Col) : Bool := (leAt c.desc 0x36 1).testBit 1
def Col.ledger (c : Col) : Nat := leAt c.desc 0x38 4
def Col.step (c : Col) : Nat := leAt c.desc 0x40 8 % 2 ^ 40
def Col.map (c : Col) : Nat := leAt c.desc 0x50 8

/-- The formats of a collective are allowed (R366). -/
def colFormatsOk (op i o : Nat) : Bool :=
  let fl (f : Nat) : Bool := f == 8 || f == 6 || f == 7 || f == 4 || f == 5
  if op = 1 ∨ op = 3 then (fl i && fl o) || (i == 0x12 && o == 0x12)
  else if op = 2 ∨ op = 4 then (fl i || i == 0x12 || i == 0x20) && o == i
  else i == 0x20 && o == 0x20

/-- Bytes of one element. -/
def elemBytes (fmt : Nat) : Nat := fmtWidth fmt / 8

/-- The fields of a descriptor are in range and its reserved fields zero (R365); the group entry is checked apart. -/
def Col.fieldsOk (c : Col) : Bool :=
  let b := c.desc
  decide (1 ≤ c.op) && decide (c.op ≤ 5) && decide (leAt b 0 4 ≠ 0) && c.src % 64 == 0 && c.dst % 64 == 0
    && c.groupAddr % 16 == 0 && decide (c.ranks ≤ 262144) && decide (c.rank < c.ranks) && decide (c.root < c.ranks)
    && (c.op == 4 || c.root == 0) && (c.op != 5 || c.count == 0) && decide (leAt b 0x34 2 < 2 ^ 14)
    && decide (leAt b 0x36 1 < 4) && leAt b 0x37 1 == 0 && leAt b 0x3C 4 == 0 && decide (leAt b 0x40 8 < 2 ^ 40)
    && leAt b 0x48 8 == 0 && (if c.op = 5 then c.map % 64 == 0 else c.map == 0) && (b.drop 0x60).take 32 == zeroBytes 32
    && colFormatsOk c.op c.inFmt c.outFmt && (!c.trigger || c.op == 1 || c.op == 3) && (!c.landOnly || c.op == 5)

def State.findCol (s : State) (id : Nat) : Option Col := s.cols.find? fun c => c.id == id
def State.putCol (s : State) (c : Col) : State := { s with cols := s.cols.map fun d => if d.id = c.id then c else d }
def State.delCol (s : State) (id : Nat) : State := { s with cols := s.cols.filter fun c => c.id != id }

def State.colEvent (s : State) (ev status id : Nat) : State :=
  s.raise 4 Blk.col Reg.COL_EVT Reg.COL_EVT_EN ev
    { status := status, master := 0xD5, at0 := some Reg.COL_LAST, info1 := w id }

/-- A group entry: device and WORK address (R364). -/
def State.groupEntry (s : State) (c : Col) (r : Nat) : Nat × Nat × Nat × State :=
  let (st, b, s) := s.load 0xD5 (c.groupAddr + 16 * r) 16
  (st, leAt b 0 4, leAt b 8 8, s)

/-! ### Completion (R374, R380, R382) -/

/-- Send a trigger of the engine to a die; it waits for room without limit (R233, R374). -/
def State.sendTrig (s : State) (n : Nat) (t : Trig) : State :=
  let (ok, s) := s.trigArrive n t.led t.step t.status false false false
  if ok then s else { s with colTrigs := s.colTrigs ++ [(n, t)] }

/-- Send the triggers that wait for room again, in order. -/
def State.serveTrigs (s : State) : State :=
  let ts := s.colTrigs
  ts.foldl (fun s e => s.sendTrig e.1 e.2) { s with colTrigs := [] }

/-- First element of chunk k (R367). -/
def Col.lo (c : Col) (phase k : Nat) : Nat := if phase = 2 then 0 else k * c.count / c.ranks

/-- Elements of chunk k (R367). -/
def Col.elems (c : Col) (phase k : Nat) : Nat :=
  if phase = 2 then c.count else (k + 1) * c.count / c.ranks - k * c.count / c.ranks

/-- Bytes of DST. -/
def Col.dstBytes (c : Col) : Nat := (if c.op = 1 then c.elems 0 c.rank else c.count) * elemBytes c.outFmt

/-- A write of the engine into a descriptor; while its ports are masked, the access is discarded (R299). -/
def State.colPut (s : State) (a : Nat) (bs : List Byte) : State := if s.isMasked 0xD5 then s else (s.store 0xD5 a bs).2

/-- A collective that ran ends with a status: STATUS and TIME, COL_LAST and FAIL, the count, DONE, the trigger. DST is unspecified
after a failure (R382), and where two collectives shared a WORK area (R370). -/
def State.colReport (s : State) (c : Col) (status cause : Nat) : State :=
  let s := if c.running && decide (c.op ≤ 4) && (c.mixed || status != 0) then s.scramble 0xD5 c.dst c.dstBytes else s
  let s := s.colPut (c.addr + 7) (toBytes 1 status)
  let s := s.colPut (c.addr + 0x58) (toBytes 8 s.now)
  let s := if status = 0 then s else
    (s.wr Reg.COL_LAST (w (c.id + at_ 32 status + at_ 40 cause + at_ 48 (if c.op = 5 then c.phase else 0)))).colEvent 0 status
      c.id
  let s := s.addB Reg.COL_CNT_OPS 63 0 1
  let s := s.msAdd c.doneMs 1
  if c.trigger && (c.op == 1 || c.op == 3) then
    s.sendTrig (s.led c.ledger).updDie { led := c.ledger, step := c.step, status := status }
  else s

/-- A running collective ends, and the engine gives its descriptor up; one that fails sends nothing more (R382). -/
def State.colEnd (s : State) (c : Col) (status cause : Nat) : State :=
  let s := if status = 0 then s.dropXfers (.col c.id) else s.quitRequests fun o => decide (o = .col c.id)
  (s.colReport c status cause).delCol c.id

/-- A collective fails with a status of its own requests; a permute ends INCOMPLETE (R380, R382). -/
def State.colFail (s : State) (id st : Nat) : State :=
  match s.findCol id with
  | none => s
  | some c => if c.status.isSome then s else s.colEnd c (if c.op = 5 then St.incomplete else st) st

/-! ### Submission (R365) -/

/-- A descriptor that is refused ends at once with MISALIGN, or with the status of a read, and sets BADDESC. -/
def State.colRefuse (s : State) (c : Col) (status : Nat) : State :=
  (s.colEvent 1 status c.id).colReport c status status

/-- A write of COL_SUBMIT. While the engine's ports are masked, the read of the descriptor is discarded without completion (R299):
nothing is submitted. -/
def State.colSubmit (s : State) (v : Word) : State :=
  if !bit v 63 || s.jobState != 3 || s.isMasked 0xD5 then s
  else if 256 ≤ s.cols.length then s.colEvent 6 0 0
  else
    let a := bits v 45 0
    let (st, b, s) := s.load 0xD5 a 128
    let c : Col := { addr := a, desc := b }
    if st ≠ 0 then s.colEvent 1 st 0
    else if a % 128 ≠ 0 ∨ !c.fieldsOk ∨ (s.findCol c.id).isSome then s.colRefuse c St.misalign
    else
      let (st, dev, work, s) := s.groupEntry c c.rank
      if st ≠ 0 then s.colRefuse c st
      else if dev ≠ s.devId ∨ c.op ≤ 4 ∧ work % 2048 ≠ 0 then s.colRefuse c St.misalign
      else { s with cols := s.cols ++ [{ c with self := work }] }

/-! ### The plan of a ring collective (R367, R371) -/

/-- A segment: phase (0 partial sums, 1 gathered elements, 2 broadcast), chunk, byte offset in the chunk, length. -/
structure Seg where
  phase : Nat
  chunk : Nat
  off : Nat
  len : Nat
  deriving DecidableEq, Repr

/-- Bytes of an element as it travels. -/
def Col.unit (c : Col) (phase : Nat) : Nat := if phase = 0 then 4 else elemBytes c.outFmt

/-- The segments of a chunk: 64 KiB each, the last shorter. -/
def Col.segs (c : Col) (phase k : Nat) : List Seg :=
  let n := c.elems phase k * c.unit phase
  (List.range (ceilDiv n 65536)).map fun i => ⟨phase, k, 65536 * i, min 65536 (n - 65536 * i)⟩

/-- One pass round the ring: the chunk that this rank starts, and those that arrive, in order. -/
def Col.ringPass (c : Col) (phase : Nat) : Nat × List Nat :=
  let r := if phase = 0 then c.rank + c.ranks - 1 else c.rank
  (r % c.ranks, (List.range (c.ranks - 1)).map fun j => (r + c.ranks - 1 - j) % c.ranks)

/-- Segment `j` of each of some chunks that has one. -/
def Col.round (c : Col) (phase j : Nat) (ks : List Nat) : List Seg := ks.filterMap fun k => (c.segs phase k)[j]?

/-- Outgoing segments of a pass, marked where this rank starts them, and incoming ones with the index of the outgoing segment that
forwards them; `o` outgoing segments precede. Segment j of every chunk goes round before segment j + 1 of any (log entry 30): the
four slots then never wait for each other round the ring. -/
def Col.passPlan (c : Col) (phase o : Nat) : List (Seg × Bool) × List (Seg × Option Nat) :=
  let (own, ins) := c.ringPass phase
  if ins.isEmpty then ([], [])
  else
    let n := (own :: ins).foldl (fun m k => max m (c.segs phase k).length) 0
    let outs := ((List.range n).map fun j => c.round phase j (own :: ins.dropLast)).flatten
    let got := ((List.range n).map fun j => c.round phase j ins).flatten
    (outs.map fun g => (g, g.chunk == own), got.map fun g => (g, (outs.findIdx? (· == g)).map (o + ·)))

/-- The whole plan of a collective. -/
def Col.plan (c : Col) : List (Seg × Bool) × List (Seg × Option Nat) :=
  match c.op with
  | 1 => c.passPlan 0 0
  | 2 => c.passPlan 1 0
  | 3 =>
    let (o, i) := c.passPlan 0 0
    let (o', i') := c.passPlan 1 o.length
    (o ++ o', i ++ i')
  | 4 =>
    let g := c.segs 2 0
    if c.ranks = 1 then ([], [])
    else if c.rank = c.root then (g.map fun x => (x, true), [])
    else if (c.rank + 1) % c.ranks = c.root then ([], g.map fun x => (x, none))
    else (g.map fun x => (x, false), ((List.range g.length).zip g).map fun e => (e.2, some e.1))
  | _ => ([], [])

/-- Incoming segments of the reduce pass. -/
def Col.reduceIns (c : Col) : Nat := if c.op = 3 then (c.passPlan 0 0).2.length else 0

/-! ### Elements (R368, R369) -/

/-- An input element as FP32 code, exactly, or as INT32. -/
def colWiden (fmt : Nat) (b : List Byte) : Nat :=
  if fmt = 0x12 then ofBytes b else Fmt.fp32.round .rne (((fmtOf fmt).getD .fp32).decode (ofBytes b))

/-- Add two partial sums: the sum and whether an INT32 sum saturated. -/
def colAdd (fmt a b : Nat) : Nat × Bool :=
  if fmt = 0x12 then
    let t := sgn 32 a + sgn 32 b
    (unsgn 32 (satInt 32 t), decide (satInt 32 t ≠ t))
  else (fp32Add a b, false)

/-- Convert a final sum to OUT_FMT (R177). -/
def colNarrow (fmt a : Nat) : List Byte :=
  if fmt = 0x12 then toBytes 4 a
  else toBytes (elemBytes fmt) (((fmtOf fmt).getD .fp32).round .rne (Fmt.fp32.decode a))

/-- Output elements that are NaN or infinite. -/
def colNonfinite (fmt : Nat) (bs : List Byte) : Nat :=
  match fmtOf fmt with
  | some f => ((pieces (elemBytes fmt) bs).filter fun e => (f.decode (ofBytes e)).nonFinite).length
  | none => 0

/-- Write output elements to DST at a byte offset, and count the non-finite ones (R369). -/
def State.colOut (s : State) (c : Col) (off : Nat) (bs : List Byte) : Nat × State :=
  if bs.isEmpty then (St.ok, s) else
  let (st, s) := s.store 0xD5 (c.dst + off) bs
  if st ≠ 0 then (st, s) else
  let k := colNonfinite c.outFmt bs
  if k = 0 then (St.ok, s) else (St.ok, (s.addB Reg.COL_CNT_NONFINITE 63 0 k).colEvent 3 0 c.id)

/-- This rank's own elements of a segment of partial sums. -/
def State.colOwn (s : State) (c : Col) (g : Seg) : Nat × List Nat × State :=
  let wd := elemBytes c.inFmt
  let (st, b, s) := s.load 0xD5 (c.src + (c.lo 0 g.chunk + g.off / 4) * wd) (g.len / 4 * wd)
  (st, (pieces wd b).map (colWiden c.inFmt), s)

/-- Byte offset of a segment's output elements in DST: the chunk's place in the tensor, or the start for the chunk of a
REDUCE_SCATTER. -/
def Col.outOff (c : Col) (g : Seg) : Nat :=
  let wd := elemBytes c.outFmt
  let e := if g.phase = 0 then g.off / 4 else g.off / wd
  (if c.op = 1 then e else c.lo g.phase g.chunk + e) * wd

/-- The bytes of a segment that this rank starts. -/
def State.colStartBytes (s : State) (c : Col) (g : Seg) : Nat × List Byte × State :=
  if g.phase = 0 then
    let (st, es, s) := s.colOwn c g
    (st, (es.map (toBytes 4)).flatten, s)
  else if c.op = 3 then s.load 0xD5 (c.dst + c.outOff g) g.len
  else s.load 0xD5 (c.src + g.off) g.len

/-- Consume the bytes of a segment (R368, R371): add, write what is final here, and give the bytes to forward. -/
def State.colConsume (s : State) (c : Col) (g : Seg) (last : Bool) (bs : List Byte) : Nat × List Byte × State :=
  if g.phase = 0 then
    let (st, own, s) := s.colOwn c g
    if st ≠ 0 then (st, [], s) else
    let sums := ((pieces 4 bs).zip own).map fun e => colAdd c.inFmt (ofBytes e.1) e.2
    let s := if sums.any (·.2) then s.colEvent 2 0 c.id else s
    if last then
      let (st, s) := s.colOut c (c.outOff g) ((sums.map fun e => colNarrow c.outFmt e.1).flatten)
      (st, [], s)
    else (St.ok, (sums.map fun e => toBytes 4 e.1).flatten, s)
  else
    let (st, s) := s.colOut c (c.outOff g) bs
    (st, bs, s)

/-- What this rank writes to DST by itself when it starts: its own chunk of a gather, the root's elements, or all of a
group of one rank (R367). -/
def State.colLocal (s : State) (c : Col) : Nat × State :=
  let wi := elemBytes c.inFmt
  if c.ranks = 1 ∧ (c.op = 1 ∨ c.op = 3) then
    let (st, b, s) := if c.count = 0 then (St.ok, [], s) else s.load 0xD5 c.src (c.count * wi)
    if st ≠ 0 then (st, s) else
    s.colOut c 0 (((pieces wi b).map fun e => colNarrow c.outFmt (colWiden c.inFmt e)).flatten)
  else if c.op = 2 ∨ c.op = 4 ∧ c.rank = c.root then
    let ph := if c.op = 2 then 1 else 2
    let n := c.elems ph c.rank * wi
    let (st, b, s) := if n = 0 then (St.ok, [], s) else s.load 0xD5 c.src n
    if st ≠ 0 then (st, s) else s.colOut c (c.lo ph c.rank * wi) b
  else (St.ok, s)

/-! ### Notices (R371, R372) -/

/-- A COL_RX value. -/
def colRxValue (id value slot kind : Nat) : Nat := id + at_ 32 (value % 2 ^ 24) + at_ 56 (slot % 4) + at_ 58 kind

/-- Apply a notice to the running collective it names. -/
def Col.notice (c : Col) (v : Word) : Col :=
  match bits v 59 58 with
  | 0 => { c with arrived := c.arrived ++ [(bits v 55 32, bits v 57 56)] }
  | 1 => { c with freed := c.freed + 1 }
  | 2 => { c with senders := if c.senders.contains (bits v 49 32) then c.senders else c.senders ++ [bits v 49 32] }
  | _ => c

/-- A write of COL_RX: the status, and the notice applied or held (R372). -/
def State.colRxStore (s : State) (v : Word) : Nat × State :=
  match s.findCol (bits v 31 0) with
  | some c => if c.running then (St.ok, s.putCol (c.notice v)) else
    if 256 ≤ s.colEarly.length then (St.qfull, s) else (St.ok, { s with colEarly := s.colEarly ++ [v] })
  | none => if 256 ≤ s.colEarly.length then (St.qfull, s) else (St.ok, { s with colEarly := s.colEarly ++ [v] })

/-- Write a notice to a device's COL_RX; the engine's own is applied here. `ref` is the notice's KIND. -/
def State.colNotify (s : State) (id ref dev v : Nat) : State :=
  if dev = s.devId then (s.colRxStore (w v)).2
  else s.netSend (.col id) ref 3 dev Reg.COL_RX (toBytes 8 v) noLimit

/-! ### The ring (R371) -/

/-- Send outgoing segment `i` with its bytes into slot i mod 4 of the successor. -/
def State.colSend (s : State) (c : Col) (i : Nat) (bs : List Byte) : State :=
  let dst := gaOf c.succ.1 (c.succ.2 + 4096 + i % 4 * 65536)
  let id := s.nextId
  let s := s.putCol { c with busy := true, sentN := i + 1, work := some id }
  (s.xferStart ⟨.col c.id, i, 0xD5, [(0, dst, bs.length)], true, bs, none, none, 0⟩).2

/-- A segment has been written: tell the successor (R371). -/
def State.colSegSent (s : State) (c : Col) (st : Nat) : State :=
  if st ≠ 0 then s.colFail c.id st
  else
    let i := c.sentN - 1
    let s := s.putCol { c with work := none, busy := decide (c.succ.1 ≠ s.devId) }
    s.colNotify c.id 0 c.succ.1 (colRxValue c.id i (i % 4) 0)

/-- Free the slot of a consumed segment at the predecessor (R371). -/
def State.colFree (s : State) (c : Col) (slot : Nat) : State :=
  s.colNotify c.id 1 c.pred.1 (colRxValue c.id c.got slot 1)

/-- The window to the successor is open. -/
def Col.window (c : Col) : Bool := !c.busy && decide (c.sentN < c.freed + 4)

/-- Go on with a ring collective as far as it can go. -/
def State.colGo (s : State) (id : Nat) : Nat → State
  | 0 => s
  | fuel + 1 =>
    match s.findCol id with
    | none => s
    | some c =>
      if !c.running || c.status.isSome || c.op == 5 then s else
      match c.work with
      | some x => match (s.xfer x).ended with
        | some st => State.colGo (s.colSegSent c st) id fuel
        | none => s
      | none =>
        let (outs, ins) := c.plan
        let own : Option Seg := match outs[c.sentN]? with
          | some (g, true) => if c.window && (g.phase == 0 || decide (c.reduceIns ≤ c.got)) then some g else none
          | _ => none
        match own with
        | some g =>
          let (st, bs, s) := s.colStartBytes c g
          if st ≠ 0 then s.colFail id st else State.colGo (s.colSend { c with waitAt := s.now } c.sentN bs) id fuel
        | none =>
          match ins[c.got]?, c.arrived.find? (fun a => a.1 == c.got % 2 ^ 24) with
          | some (g, fwd), some (_, slot) =>
            let ready : Bool := match fwd with | some o => c.window && c.sentN == o | none => true
            if !ready then s else
            let (st, bs, s) := s.load 0xD5 (c.self + 4096 + slot * 65536) g.len
            if st ≠ 0 then s.colFail id st else
            let (st, bs, s) := s.colConsume c g (fwd.isNone) bs
            if st ≠ 0 then s.colFail id st else
            match s.findCol id with
            | none => s
            | some c' =>
              let c' := { c' with
                got := c.got + 1, waitAt := s.now, arrived := c'.arrived.filter fun a => a.1 != c.got % 2 ^ 24 }
              let s := s.putCol c'
              let s := match fwd with | some o => s.colSend c' o bs | none => s
              State.colGo (s.colFree c slot) id fuel
          | _, _ =>
            if c.got = ins.length ∧ c.sentN = outs.length ∧ c.freed = outs.length ∧ !c.busy then
              s.putCol { c with status := some St.ok }
            else s

/-- Steps that one progress of a ring may take. -/
def Col.fuel (c : Col) : Nat := 4 * c.arrived.length + 16

def State.colRun (s : State) (id : Nat) : State :=
  match s.findCol id with | some c => s.colGo id c.fuel | none => s

/-! ### Permute (R378 to R380) -/

/-- The permute map: outgoing entries as (offset, rank, stage offset, length), IN_SENDERS, landing entries. -/
structure PermMap where
  outs : List (Nat × Nat × Nat × Nat)
  senders : Nat
  lands : List (Nat × Nat × Nat)
  deriving DecidableEq, Repr

/-- Read the map: the status (MISALIGN for a bad map, R378) and the map. -/
def State.permMap (s : State) (c : Col) : Nat × PermMap × State :=
  let none_ : PermMap := ⟨[], 0, []⟩
  let (st, h, s) := s.load 0xD5 c.map 64
  if st ≠ 0 then (st, none_, s) else
  let no := leAt h 0 4
  let nl := leAt h 8 4
  let (st, ob, s) := if no = 0 then (St.ok, [], s) else s.load 0xD5 (c.map + 64) (32 * no)
  if st ≠ 0 then (st, none_, s) else
  let (st, lb, s) := if nl = 0 then (St.ok, [], s) else s.load 0xD5 (c.map + 64 + 32 * no) (32 * nl)
  if st ≠ 0 then (st, none_, s) else
  let os := pieces 32 ob
  let ls := pieces 32 lb
  let ok := (h.drop 12).take 52 == zeroBytes 52 && (os.all fun e => leAt e 12 4 == 0 && decide (leAt e 8 4 < c.ranks))
    && (ls.all fun e => leAt e 0x18 8 == 0) && decide (1 ≤ leAt h 4 4) && decide (leAt h 4 4 ≤ c.ranks)
  if !ok then (St.misalign, none_, s)
  else (St.ok, ⟨os.map fun e => (leAt e 0 8, leAt e 8 4, leAt e 0x10 8, leAt e 0x18 8), leAt h 4 4,
    ls.map fun e => (leAt e 0 8, leAt e 8 8, leAt e 0x10 8)⟩, s)

/-- The moves of phase 1: from SRC to the staging areas of the receiving ranks. -/
def State.permMoves (s : State) (c : Col) : List (Nat × Nat × Nat × Nat) → Nat × List (Nat × Nat × Nat) × State
  | [] => (St.ok, [], s)
  | (so, r, go, len) :: es =>
    let (st, dev, stage, s) := s.groupEntry c r
    if st ≠ 0 then (st, [], s) else
    let (st, ms, s) := State.permMoves s c es
    (st, (gaOf s.devId (c.src + so), gaOf dev (stage + go), len) :: ms, s)

/-- Start the copies of a phase. -/
def State.permCopy (s : State) (c : Col) (phase : Nat) (ms : List (Nat × Nat × Nat)) : State :=
  let s := { s with permJournal := some (c.id, phase) }
  let id := s.nextId
  let s := s.putCol { c with phase := phase, work := some id }
  (s.xferStart ⟨.col c.id, phase, 0xD5, ms, false, [], none, none, 0⟩).2

/-- Start the landing (phase 3). -/
def State.permLand (s : State) (c : Col) : State :=
  let c := { c with phase := 3 }
  let (st, m, s) := (s.putCol c).permMap c
  if st = St.misalign then s.colEnd c St.misalign St.misalign
  else if st ≠ 0 then s.colFail c.id st
  else s.permCopy c 3 (m.lands.map fun e => (gaOf s.devId (c.self + e.1), gaOf s.devId (c.dst + e.2.1), e.2.2))

/-- Start a permute: phase 1, or phase 3 alone with LAND_ONLY (R379). -/
def State.permStart (s : State) (c : Col) : State :=
  if c.landOnly then s.permLand c
  else
    let c := { c with phase := 1 }
    let (st, m, s) := (s.putCol c).permMap c
    if st = St.misalign then s.colEnd c St.misalign St.misalign
    else if st ≠ 0 then s.colFail c.id st
    else
      let (st, ms, s) := s.permMoves c m.outs
      if st ≠ 0 then s.colFail c.id st else s.permCopy c 1 ms

/-- The transfer of a permute's phase has ended with a failure: the permute ends INCOMPLETE (R380). -/
def State.permGo (s : State) (c : Col) : State :=
  match c.work with
  | some x => match (s.xfer x).ended with
    | some st => if st = 0 then s else s.colFail c.id st
    | none => s
  | none =>
    if c.phase = 2 then
      let (st, m, s) := s.permMap c
      if st ≠ 0 then s.colFail c.id st
      else if m.senders ≤ c.senders.length then s.permLand c else s
    else s

/-- Go on with a collective, unless the engine's ports are masked (R299). -/
def State.colProgress (s : State) (id : Nat) : State :=
  match s.findCol id with
  | some c => if !c.running || c.status.isSome || s.isMasked 0xD5 then s else if c.op = 5 then s.permGo c else s.colRun id
  | none => s

/-- The running collectives go on once the engine's ports are released (R299). -/
def State.colsResume (s : State) (m : Nat) : State :=
  if m = 0xD5 then (s.cols.map Col.id).foldl (fun s id => s.colProgress id) s else s

/-- A notice of the engine has been answered (R371, R379). -/
def State.colNotified (s : State) (id ref status : Nat) : State :=
  if status ≠ 0 then s.colFail id status
  else match s.findCol id with
  | some c => if ref = 0 then (s.putCol { c with busy := false }).colProgress id else s
  | none => s

/-- A write of COL_RX: the status and the effect. -/
def State.colRx (s : State) (v : Word) : Nat × State :=
  let (st, s) := s.colRxStore v
  (st, s.colProgress (bits v 31 0))

/-! ### The commands -/

/-- The group entry of a neighbour on the ring; a permute has no ring and reads none (R379). -/
def State.ringEntry (s : State) (c : Col) (r : Nat) : Nat × Nat × Nat × State :=
  if c.op = 5 then (St.ok, 0, 0, s) else s.groupEntry c (r % c.ranks)

/-- Start a collective: its neighbours, the notices held for it, its own output, its first segment. -/
def State.colStart (s : State) (c : Col) : State :=
  let (st1, sd, sw, s) := s.ringEntry c (c.rank + 1)
  let (st2, pd, pw, s) := s.ringEntry c (c.rank + c.ranks - 1)
  let mine := s.colEarly.filter fun v => bits v 31 0 == c.id
  let s := { s with colEarly := s.colEarly.filter fun v => bits v 31 0 != c.id }
  let c := { c with running := true, t0 := s.now, waitAt := s.now, succ := (sd, sw), pred := (pd, pw) }
  let c := mine.foldl (fun (c : Col) v => c.notice v) c
  let near (d : Col) : Bool := d.running && decide (d.op ≤ 4) && decide (c.op ≤ 4) && d.id != c.id
    && decide (d.self < c.self + 266240) && decide (c.self < d.self + 266240)
  let c := { c with mixed := s.cols.any near }
  let s := { s with cols := s.cols.map fun (d : Col) => if near d then { d with mixed := true } else d }
  let s := s.putCol c
  let st := St.join st1 st2
  if st ≠ 0 then s.colFail c.id st
  else if c.op = 5 then s.permStart c
  else
    let (st, s) := s.colLocal c
    if st ≠ 0 then s.colFail c.id st else s.colRun c.id

/-- COLLECTIVE_START (R365): the oldest held descriptor starts when a running position is free. -/
def fxCollectiveStart (s : State) : State :=
  if 16 ≤ (s.cols.filter (·.running)).length ∨ s.jobState ≠ 3 ∨ s.isMasked 0xD5 then s
  else match s.cols.find? fun c => !c.running && c.status.isNone with
  | some c => s.colStart c
  | none => s

def execCollectiveStart (s : State) : Host.Outcome State Fault Refusal := live s fxCollectiveStart

/-- COLLECTIVE_COMPLETE (R374): a collective that has finished completes, once the engine's ports are not masked (R299); triggers that
wait for room try again. -/
def fxCollectiveComplete (id : Nat) (s : State) : State :=
  let s := s.serveTrigs
  match s.findCol id with
  | none => s
  | some c => match c.status with
    | none => s
    | some st => if s.isMasked 0xD5 then s else s.colEnd c st st

def execCollectiveComplete (coll : BitVec 32) (s : State) : Host.Outcome State Fault Refusal :=
  live s (fxCollectiveComplete coll.toNat)

/-- A ring collective awaits its next segment. -/
def Col.awaits (c : Col) : Bool := decide (c.got < c.plan.2.length) && !c.arrived.any fun a => a.1 == c.got % 2 ^ 24

/-- RING_TMO (R382): the segment that a collective awaits has not arrived within COL_CFG.RING_TMO ticks. -/
def fxRingTmo (id : Nat) (s : State) : State :=
  match s.findCol id with
  | none => s
  | some c =>
    if c.running && c.status.isNone && c.op != 5 && c.awaits && decide (c.waitAt + s.rdB Reg.COL_CFG 31 0 ≤ s.now) then
      s.colFail id St.linkdown
    else s

def execRingTmo (coll : BitVec 32) (s : State) : Host.Outcome State Fault Refusal := live s (fxRingTmo coll.toNat)

/-- The devices of some ranks. -/
def State.rankDevs (s : State) (c : Col) : List Nat → Nat × List Nat × State
  | [] => (St.ok, [], s)
  | r :: rs =>
    let (st, dev, _, s) := s.groupEntry c r
    if st ≠ 0 then (st, [], s) else
    let (st, ds, s) := State.rankDevs s c rs
    (st, dev :: ds, s)

/-- The KIND 2 notices of a permute that has sent everything, to the devices of the receiving ranks (R379). -/
def State.permNotify (s : State) (c : Col) (devs : List Nat) : State :=
  devs.foldl (fun s dev => s.colNotify c.id 2 dev (colRxValue c.id c.rank 0 2)) s

/-- PERMUTE_SEND_DONE (R379, R380): every receiving rank is told, none where a rank's device cannot be read; then phase 2
begins. -/
def fxPermuteSendDone (id : Nat) (s : State) : State :=
  match s.findCol id with
  | none => s
  | some c =>
    if c.running && c.op == 5 && c.phase == 1 && (match c.work with | some x => (s.xfer x).ended == some 0 | none => false)
        && !s.isMasked 0xD5 then
      let (st, m, s) := s.permMap c
      if st ≠ 0 then s.colFail id st else
      let (st, devs, s) := s.rankDevs c ((m.outs.map fun e => e.2.1).dedup)
      if st ≠ 0 then s.colFail id st else
      let s := (s.dropXfers (.col id)).permNotify c devs
      match s.findCol id with
      | none => s
      | some c => ({ s with permJournal := some (id, 2) }.putCol { c with phase := 2, work := none }).colProgress id
    else s

def execPermuteSendDone (coll : BitVec 32) (s : State) : Host.Outcome State Fault Refusal :=
  live s (fxPermuteSendDone coll.toNat)

/-- PERMUTE_TIMEOUT (R379, R380): phase 2 passes PERM_TMO ticks from the start of phase 1. -/
def fxPermuteTimeout (id : Nat) (s : State) : State :=
  match s.findCol id with
  | none => s
  | some c =>
    if c.running && c.op == 5 && c.phase == 2 && decide (c.t0 + s.rdB Reg.COL_CFG 63 32 ≤ s.now) then
      s.colFail id St.linkdown
    else s

def execPermuteTimeout (coll : BitVec 32) (s : State) : Host.Outcome State Fault Refusal :=
  live s (fxPermuteTimeout coll.toNat)

/-- PERMUTE_LAND_DONE (R379): the journal is cleared and the permute has finished. -/
def fxPermuteLandDone (id : Nat) (s : State) : State :=
  match s.findCol id with
  | none => s
  | some c =>
    if c.running && c.op == 5 && c.phase == 3 && (match c.work with | some x => (s.xfer x).ended == some 0 | none => false)
    then { s with permJournal := none }.putCol { c with work := none, status := some St.ok }
    else s

def execPermuteLandDone (coll : BitVec 32) (s : State) : Host.Outcome State Fault Refusal :=
  live s (fxPermuteLandDone coll.toNat)

end Sys2Proof.Machine
end

