-- ==== Sys2Proof/Machine/Vote.lean ====
section
/-!
DEFINITION. The finite vote of a step (R132, R133, R375 to R377) and the outcome's effect on the owned ledgers.
-/

namespace Sys2Proof.Machine

def State.voteState (s : State) : Nat := s.rdB Reg.COL_VOTE_STATUS 42 40
def State.setVoteState (s : State) (st : Nat) : State := s.wrB Reg.COL_VOTE_STATUS 42 40 st

def State.voteHeld (s : State) : Bool := s.rdB (Reg.LED_PENDING 0) 40 40 == 1

/-- The step the device votes on next, or holds: LED_PENDING.BASE, which reads 0 where no ledger is owned and none is held. -/
def State.voteStep (s : State) : Nat :=
  if s.ownedIds.isEmpty && !s.voteHeld then s.vote.next else s.rdB (Reg.LED_PENDING 0) 39 0

/-- The roles of a role's children (R375). -/
def childRoles (r count : Nat) : List Nat := ((List.range 16).map fun i => 16 * r + 1 + i).filter fun k => decide (k < count)

/-- Read an entry of the vote table. -/
def State.voteEntry (s : State) (r : Nat) : Nat × Nat × State :=
  let (st, b, s) := s.load 0xD5 (s.rdB Reg.COL_VOTE_TABLE 45 0 + 4 * r) 4
  (st, leAt b 0 4 % 2 ^ 18, s)

/-- Read the entries of roles: one status and the devices. -/
def State.voteEntries (s : State) : List Nat → Nat × List (Nat × Nat) × State
  | [] => (St.ok, [], s)
  | r :: rs =>
    let (st, d, s) := s.voteEntry r
    if st ≠ 0 then (st, [], s) else
    let (st, ds, s) := State.voteEntries s rs
    (st, (r, d) :: ds, s)

/-- Read the parent and child entries (R375). Entries that cannot be read, or not while the engine's ports are masked (R299), leave the
table unread. -/
def State.voteRead (s : State) : State :=
  if s.isMasked 0xD5 then s else
  let (st, kids, s) := s.voteEntries (childRoles s.devRole s.devCount)
  if st ≠ 0 then s else
  let (st, p, s) := if s.devRole = 0 then (St.ok, 0, s) else s.voteEntry ((s.devRole - 1) / 16)
  if st ≠ 0 then s else { s with vote := { s.vote with known := true, parent := p, kids := kids } }

/-- A COL_VOTE_RX value of this device. -/
def State.voteValue (s : State) (finite down : Bool) : Nat :=
  s.rdB Reg.COL_VOTE_STATUS 39 0 + at_ 40 (if finite then 1 else 0) + at_ 41 (if down then 1 else 0) + at_ 42 s.devRole

/-- Send a vote or an outcome of the running step. -/
def State.voteSend (s : State) (dev v : Nat) : State :=
  s.netSend .vote (s.rdB Reg.COL_VOTE_STATUS 39 0) 3 dev Reg.COL_VOTE_RX (toBytes 8 v) 0

/-- Every vote write of a step has completed. -/
def State.voteQuiet (s : State) (step : Nat) : Bool := !(s.remoteSends.any fun e => e.2.owner == .vote && e.2.ref == step)

/-- The outcome is known: it goes to every child, and waits to be applied (R376, step 5). -/
def State.voteDecide (s : State) (finite : Bool) : State :=
  let s := s.vote.kids.foldl (fun s k => s.voteSend k.2 (s.voteValue finite true)) s
  let s := s.setVoteState 0
  { s with vote := { s.vote with outcome := some finite } }

/-- Every child has voted: role 0 decides, any other role tells its parent (R376, step 3). -/
def State.voteGo (s : State) : State :=
  let v := s.vote
  if s.voteState = 1 && v.known && (v.kids.all fun k => v.ups.any fun u => u.1 == k.1) then
    let all := s.rdB Reg.COL_VOTE_STATUS 43 43 == 1 && (v.ups.all (·.2))
    if s.devRole = 0 then s.voteDecide all
    else (s.voteSend v.parent (s.voteValue all false)).setVoteState 2
  else s

/-- The vote of a step ends with a nonzero status, while it runs or before its outcome has been applied: the step is held (R133,
R377). -/
def State.voteFail (s : State) (step : Nat) : State :=
  if step = s.rdB Reg.COL_VOTE_STATUS 39 0 ∧ (s.voteState = 1 ∨ s.voteState = 2 ∨ s.vote.outcome.isSome) then
    let s := ((s.setVoteState 3).wrB (Reg.LED_PENDING 0) 39 0 s.voteStep).wrB (Reg.LED_PENDING 0) 40 40 1
    { s with vote := { s.vote with outcome := none, failed := s.vote.failed ++ [step] } }
  else s

/-- An up-vote or an outcome arrives (R376, R377). -/
def State.voteRx (s : State) (v : Word) : State :=
  let step := bits v 39 0
  let role := bits v 59 42
  let fin := bit v 40
  let cur := s.voteStep
  if bit v 41 then
    if s.voteState = 2 ∧ step = s.rdB Reg.COL_VOTE_STATUS 39 0 then s.voteDecide fin
    else if s.vote.failed.contains step then s.colEvent 5 0 0
    else s
  else if !(childRoles s.devRole s.devCount).contains role
      || s.voteState == 3 && step == s.rdB Reg.COL_VOTE_STATUS 39 0 then s
  else if step = cur then
    if s.vote.ups.any fun u => u.1 == role then s
    else
      let s := { s with vote := { s.vote with ups := s.vote.ups ++ [(role, fin)] } }
      (s.wrB Reg.COL_VOTE_STATUS 48 44 s.vote.ups.length).voteGo
  else if step = cur + 1 then
    if s.vote.early.any fun u => u.1 == role then s
    else { s with vote := { s.vote with early := s.vote.early ++ [(role, fin)] } }
  else s

/-- Whether the shard of a ledger has ended a step, and as finite. -/
def State.ledEnd (s : State) (l step : Nat) : Option Bool := ((s.led l).ends.find? fun e => e.1 == step).map (·.2)

/-- STEP_VOTE_READY (R132, step 2): the device contributes its vote. -/
def fxStepVoteReady (s : State) : State :=
  let own := s.ownedIds
  let step := s.voteStep
  let st := s.voteState
  let ready := own.all fun l => (s.ledEnd l step).isSome
  if s.jobState ≠ 3 ∨ s.perShard ∨ s.voteHeld ∨ st = 1 ∨ st = 2 ∨ s.vote.outcome.isSome ∨ !ready
      ∨ (own.isEmpty ∧ s.devCount ≤ 1) then s
  else
    let fin := own.all fun l => s.ledEnd l step == some true
    let s := s.wr Reg.COL_VOTE_STATUS
      (w (step % 2 ^ 40 + at_ 40 1 + at_ 43 (if fin then 1 else 0) + at_ 44 s.vote.ups.length))
    let s := { s with vote := { s.vote with t0 := s.now } }
    if s.devCount ≤ 1 then { s.setVoteState 0 with vote := { s.vote with outcome := some fin } }
    else
      let s := if s.vote.known then s else s.colEvent 4 0 0
      s.voteGo

def execStepVoteReady (s : State) : Host.Outcome State Fault Refusal := live s fxStepVoteReady

/-- The step's record goes once its outcome has been applied: the next step's early up-votes count now. -/
def State.voteNext (s : State) (step : Nat) : State :=
  let s := { s.msRelease with vote := { s.vote with outcome := none, ups := s.vote.early, early := [] } }
  s.ownedIds.foldl (fun s l => s.setLed l { s.led l with ends := (s.led l).ends.filter fun e => e.1 != step }) s

/-- STEP_COMMIT (R132, steps 4 and 6), once every vote write of the step has completed (R376, step 5, R377). -/
def fxStepCommit (s : State) : State :=
  if s.vote.outcome = some true ∧ s.voteQuiet s.voteStep then (s.commitStep s.voteStep).voteNext s.voteStep else s

def execStepCommit (s : State) : Host.Outcome State Fault Refusal := live s fxStepCommit

/-- STEP_DISCARD (R132, steps 5 and 6). -/
def fxStepDiscard (s : State) : State :=
  if s.vote.outcome = some false ∧ s.voteQuiet s.voteStep then (s.discardStep s.voteStep).voteNext s.voteStep else s

def execStepDiscard (s : State) : Host.Outcome State Fault Refusal := live s fxStepDiscard

/-- VOTE_TIMEOUT (R377). -/
def fxVoteTimeout (s : State) : State :=
  if (s.voteState = 1 ∨ s.voteState = 2) ∧ s.vote.t0 + s.rdB Reg.COL_VOTE_CFG 63 32 ≤ s.now then
    s.voteFail (s.rdB Reg.COL_VOTE_STATUS 39 0)
  else s

def execVoteTimeout (s : State) : Host.Outcome State Fault Refusal := live s fxVoteTimeout

/-- A write of COL_VOTE_CFG (R375): in RUNNING a set EN reads the table at once; in READY, START does. -/
def State.voteCfg (s : State) (v : Word) : State :=
  let s := s.wr Reg.COL_VOTE_CFG v
  if !bit v 0 then { s with vote := { s.vote with known := false } }
  else if s.jobState = 3 then s.voteRead.voteGo else s

/-- The held versions are freed and the outcome is reported as not finite (R142). -/
def State.discardHeld (s : State) (step : Nat) : State :=
  let s := s.ownedIds.foldl (fun s l =>
    match s.pendSlot l with
    | some k => if s.slotState l k = 2 ∧ s.slotStep l k = step + 1 then s.setSlotState l k 0 else s
    | none => s) s
  (s.addB (Reg.LED_NONFINITE 0) 31 0 1).stepOutcome step false

/-- LED_RESOLVE (R142): resolve a held step. Job software does so in READY or RUNNING, a management core in any job state (R486). -/
def State.ledResolve (s : State) (master : Nat) (v : Word) : State :=
  if !bit v 63 then s
  else if (isMgmt master || s.jobOn) ∧ s.voteHeld ∧ bits v 39 0 = s.voteStep + 1 then
    let step := s.voteStep
    let s := s.wrB (Reg.LED_PENDING 0) 41 40 0
    let s := if bit v 62 then s.discardHeld step else s.commitStep step
    s.voteNext step
  else s.ledEvent 5 0 none

end Sys2Proof.Machine
end

