-- ==== Sys2Proof/Machine/LedgerCmds.lean ====
section
/-!
DEFINITION. The commands of the version ledger: replicas (R136 to R138), damaged ledgers (R488), and the ledger window of
registers (R143).
-/

namespace Sys2Proof.Machine

/-- Slot states as the occupancy word LED_DATA1 shows them. -/
def State.ledOccupancy (s : State) (l : Nat) : Word :=
  let busy := (s.slots l).filter fun k => s.slotState l k != 0
  let pend := match s.pendSlot l with | some k => at_ 40 k + at_ 45 1 | none => 0
  w ((busy.map (2 ^ ·)).sum + at_ 32 ((s.led l).depth - busy.length) + pend)

/-- A write of LED_SEL latches the six data registers (R143). -/
def State.ledLatch (s : State) (v : Word) : State :=
  let l := bits v 15 0
  let k := bits v 20 16
  let x := s.led l
  let s := s.wr (Reg.LED_SEL 0) (w (l + at_ 16 k))
  let put (s : State) (d : List Word) : State :=
    let s := s.wr (Reg.LED_DATA0 0) (nth d 0 0)
    let s := s.wr (Reg.LED_DATA1 0) (nth d 1 0)
    let s := s.wr (Reg.LED_DATA2 0) (nth d 2 0)
    let s := s.wr (Reg.LED_DATA3 0) (nth d 3 0)
    let s := s.wr (Reg.LED_DATA4 0) (nth d 4 0)
    s.wr (Reg.LED_DATA5 0) (nth d 5 0)
  if s.ledCount ≤ l then put s []
  else
    let info := w (x.shard + at_ 32 x.depth + at_ 38 (if x.owner then 1 else 0) + at_ 39 (if x.readOnly then 1 else 0)
      + at_ 40 (if x.owner then s.rawNat (x.hdr + 0x28) 4 % 2 ^ 10 else 0))
    let slot : List Word := if x.depth ≤ k then [0, 0] else
      [w (s.slotState l k + at_ 16 (s.slotRefs l k)), w (s.slotStep l k)]
    put s ([s.ledCommit l, s.ledOccupancy l, info, w (s.slotFprint l (s.ledSlot l))] ++ slot)

/-! ### Replicas -/

/-- A device ID is admitted (R342): a peer, a depot, or an authorised controller of the security block. -/
def State.admitted (s : State) (dev : Nat) : Bool :=
  bit (s.rd (Reg.RTE_ADMIT (dev / 64))) (dev % 64) ||
    (List.range 8).any fun i => let c := s.rd (Reg.SEC_CTRL_ID i); bit c 63 && bits c 17 0 == dev

/-- The owned ledger of a shard, or the replica ledger. -/
def State.ledOfShard (s : State) (shard : Nat) (owner : Bool) : Option Nat :=
  s.ledIds.find? fun l => (s.led l).shard == shard && (s.led l).owner == owner

/-- REPLICA_REGISTER (R136): the owner records the replica or refuses it. -/
def fxReplicaRegister (dev shard : Nat) (s : State) : State :=
  if !s.jobOn || !s.admitted dev then s.emit (.regReply dev 1 0 0 0)
  else match s.ledOfShard shard true with
  | none => s.emit (.regReply dev 2 0 0 0)
  | some l =>
    let x := s.led l
    let rs := s.replicaList l
    let accept (s : State) : State :=
      s.emit (.regReply dev 0 (s.devId * 2 ^ 46 + x.hdr) (s.ledCommit l) (w (s.slotFprint l (s.ledSlot l))))
    if rs.contains dev then accept s
    else if 512 ≤ rs.length then s.emit (.regReply dev 2 0 0 0)
    else
      let s := s.ledWrite (x.hdr + 0x800 + 4 * rs.length) 4 dev
      let s := s.ledWrite (x.hdr + 0x28) 4 (rs.length + 1)
      accept s

def execReplicaRegister (src : BitVec 18) (shard : BitVec 32) (s : State) : Host.Outcome State Fault Refusal :=
  live s (fxReplicaRegister src.toNat shard.toNat)

/-- REGISTER_RETRY (R136): 1 ms after a reply of DENIED. -/
def fxRegisterRetry (l : Nat) (s : State) : State :=
  match (s.led l).regDue with
  | some t => if t ≤ s.now then s.registerSend l else s
  | none => s

def execRegisterRetry (ledger : BitVec 16) (s : State) : Host.Outcome State Fault Refusal :=
  live s (fxRegisterRetry ledger.toNat)

/-- REGISTER_REPLY (R136): accepted (0), DENIED while the owner has no job (1), or refused (2). -/
def fxRegisterReply (l result header : Nat) (s : State) : State :=
  let x := s.led l
  if s.jobState ≠ 3 ∨ s.ledCount ≤ l ∨ x.owner ∨ x.depth < 2 ∨ x.registered then s
  else match result with
  | 0 => (s.ledWrite (x.hdr + 0x30) 8 header).setLed l { x with registered := true, regDue := none }
  | 1 => s.setLed l { x with regDue := some (s.now + 100000) }
  | _ => s.ledEvent 4 St.denied (some l)

def execRegisterReply (ledger : BitVec 16) (result : BitVec 2) (header : Word) (s : State) :
    Host.Outcome State Fault Refusal := live s (fxRegisterReply ledger.toNat result.toNat header.toNat)

/-- The fetch of a replica ledger is over; its slot becomes FREE unless it holds the version. -/
def State.fetchDrop (s : State) (l : Nat) (free : Bool) : State :=
  match (s.led l).fetch with
  | none => s
  | some f =>
    let s := s.dropXfers (.led l)
    let s := if free && !f.waiting then s.setSlotState l f.slot 0 else s
    s.setLed l { s.led l with fetch := none, waiting := false }

/-- Read the shard from the owner's slot into the claimed slot (R138). -/
def State.fetchRead (s : State) (l : Nat) (f : Fetch) : State :=
  let x := s.led l
  let s := s.addB (Reg.LED_FETCH 0) 31 0 1
  let id := s.nextId
  let s := s.setLed l { x with fetch := some { f with waiting := false, xfer := id }, waiting := false }
  (s.xferStart ⟨.led l, 0, 0xE0, [(f.src.toNat, s.devId * 2 ^ 46 + x.slotAddr f.slot, x.bytes)], false, [], none, none, 0⟩).2

/-- A fetch claims the lowest FREE slot, or waits for one (R122, R126, R138). -/
def State.fetchClaim (s : State) (l : Nat) (f : Fetch) : State :=
  match s.pendSlot l, s.claimSlot l with
  | none, some (k, s) => s.fetchRead l { f with slot := k }
  | _, _ =>
    let s := if (s.led l).waiting then s else s.ledEvent 3 0 (some l)
    s.setLed l { s.led l with fetch := some { f with waiting := true }, waiting := true }

/-- Fetches that wait for a slot look again. -/
def State.serveFetches (s : State) : State :=
  s.ledIds.foldl (fun s l => match (s.led l).fetch with
    | some f => if f.waiting && (s.pendSlot l).isNone && (s.freeSlot l).isSome then s.fetchClaim l f else s
    | none => s) s

/-- A fetch for a notice of this STEP or a newer one is in progress. -/
def State.fetchNewer (s : State) (l step : Nat) : Bool :=
  match (s.led l).fetch with
  | some f => decide (step ≤ f.commit.toNat / 256)
  | none => false

/-- COMMIT_NOTICE (R138): a replica of the loaded job, READY or RUNNING, receives the 32-byte notice of R137. It abandons a fetch
for an older notice; a late notice no newer than the one being fetched changes nothing. -/
def fxCommitNotice (b : List Byte) (s : State) : State :=
  match s.ledOfShard (leAt b 0 4) false with
  | none => s
  | some l =>
    let x := s.led l
    if !s.jobOn ∨ x.depth < 2 ∨ leAt b 4 4 ≠ x.ownerDev then s
    else if leAt b 8 8 / 256 ≤ s.ledStep l then s.noticeRelease l
    else if x.damaged.isSome || s.fetchNewer l (leAt b 8 8 / 256) then s
    else
      let s := s.fetchDrop l true
      s.fetchClaim l ⟨0, w (leAt b 8 8), w (leAt b 16 8), w (leAt b 24 8), 0, false, 0⟩

def execCommitNotice (notice : List Byte) (s : State) : Host.Outcome State Fault Refusal :=
  live s (fxCommitNotice notice)

/-- The outcome of a finished read: the version is committed, read again, or given up (R138, R332). -/
def State.fetchDone (s : State) (l : Nat) (f : Fetch) (st : Nat) : State :=
  if st ≠ 0 then s.fetchDrop l true
  else
    let x := s.led l
    let (st, bs, s) := s.load 0xE0 (x.slotAddr f.slot) x.bytes
    if st ≠ 0 then s.fetchDrop l true
    else if crc64 bs = f.fprint.toNat then
      let s := s.slotWritten l f.slot (f.commit.toNat / 256) (crc64 bs)
      let s := s.commitSlot l f.slot
      (s.fetchDrop l false).noticeRelease l
    else if f.tries < 2 then
      let s := s.addB (Reg.LED_FETCH 0) 47 32 1
      (s.dropXfers (.led l)).fetchRead l { f with tries := f.tries + 1 }
    else
      let s := (s.fetchDrop l true).noticeRelease l
      (s.addB (Reg.LED_FETCH 0) 63 48 1).ledEvent 1 St.fprint (some l)

/-- REPLICA_FETCH_DONE (R138): the read of a replica fetch has ended. -/
def fxReplicaFetchDone (l : Nat) (s : State) : State :=
  match (s.led l).fetch with
  | none => s
  | some f => if f.waiting then s else match (s.xfer f.xfer).ended with
    | some st => s.fetchDone l f st
    | none => s

def execReplicaFetchDone (ledger : BitVec 16) (s : State) : Host.Outcome State Fault Refusal :=
  live s (fxReplicaFetchDone ledger.toNat)

/-- NOTICE_RELEASE (R137). -/
def fxNoticeRelease (dev shard : Nat) (s : State) : State :=
  match s.ledOfShard shard true with
  | some l => s.releaseNotice l dev
  | none => s

def execNoticeRelease (src : BitVec 18) (shard : BitVec 32) (s : State) : Host.Outcome State Fault Refusal :=
  live s (fxNoticeRelease src.toNat shard.toNat)

/-- The slot that a stage runs holds a reference on a ledger (R123). -/
def State.slotNeeds (s : State) (n x l : Nat) : Bool :=
  let g := s.stg n x
  g.running && (match g.mb with
    | some c => (s.mbc n x c).refs.any fun r => r.1 == l
    | none => false)

/-- A ledger is damaged until unload (R488): every slot that needs it stops its stage, its update ends with the status, its fetch is
abandoned. -/
def State.ledDamage (s : State) (l st : Nat) : State :=
  let s := s.logEnt 4 Blk.led 0xFF { status := st, at0 := some (Reg.LED_STEP 0), info1 := w l }
  let s := s.setLed l { s.led l with damaged := some st }
  let s := s.fetchDrop l true
  let s := s.stages.foldl (fun s (e : Nat × StageCtx) =>
    if s.slotNeeds (e.1 / 32) (e.1 % 32) l then s.stopStage (e.1 / 32) (e.1 % 32) else s) s
  (List.range 16).foldl (fun s v => match (s.updEng v).trig with
    | some t => if t.led = l then s.updFail v st 2 else s
    | none => s) s

/-- LEDGER_READ_FAULT (R457, R488): a read of a ledger's header, slot records or commit word completes with PARITY or POISON. -/
def fxLedgerReadFault (l st : Nat) (s : State) : State :=
  if s.ledCount ≤ l ∨ (st ≠ St.parity ∧ st ≠ St.poison) then s else s.ledDamage l st

def execLedgerReadFault (ledger : BitVec 16) (status : BitVec 8) (s : State) : Host.Outcome State Fault Refusal :=
  live s (fxLedgerReadFault ledger.toNat status.toNat)

end Sys2Proof.Machine
end

