-- ==== Sys2Proof/Machine/Matrix.lean ====
section
/-!
DEFINITION. The sequencer commands of a matrix engine (R146 to R173, R203, R204): each command is one instruction of
the stream of a running engine. The engine's next instruction is the command's; the PC advances as R150 says.
-/

namespace Sys2Proof.Machine

/-- Fault codes (R171). -/
def MxFault.range : Nat := 1
def MxFault.remote : Nat := 2
def MxFault.align : Nat := 3
def MxFault.tile : Nat := 4
def MxFault.bufsize : Nat := 5
def MxFault.profile : Nat := 6
def MxFault.order : Nat := 7
def MxFault.access : Nat := 8
def MxFault.position : Nat := 9
def MxFault.syncref : Nat := 10

def Engine.getIx (g : Engine) (i : Nat) : Word := nth g.ix i 0
def Engine.getTag (g : Engine) (i : Nat) : Nat := nth g.ixTag i 0

/-- Write an index register with its space tag and handle. -/
def State.setIx (s : State) (e i : Nat) (v : Word) (tag h : Nat) : State :=
  let g := s.eng e
  s.setEng e { g with ix := setNth g.ix i v, ixTag := setNth g.ixTag i tag, ixHandle := setNth g.ixHandle i h }

def State.mxProfA (s : State) (e : Nat) : OperandProf := operandProf (s.rd (mxReg Reg.MX_PROF_A e))
def State.mxProfB (s : State) (e : Nat) : OperandProf := operandProf (s.rd (mxReg Reg.MX_PROF_B e))
def State.mxProfO (s : State) (e : Nat) : OutputProf := outputProf (s.rd (mxReg Reg.MX_PROF_O e))

/-- The stream that the engine runs. -/
def State.mxStream (s : State) (e : Nat) : Stream :=
  if bit (s.rd (mxReg Reg.MX_STATUS e)) 13 then (s.eng e).backhaul else (s.eng e).primary

/-- The stage context and micro-batch context that the engine works for. -/
def State.mxMb (s : State) (e : Nat) : StageCtx × MbCtx :=
  let nx := s.mxStage e
  let g := s.stg nx.1 nx.2
  (g, match g.mb with | some c => s.mbc nx.1 nx.2 c | none => {})

/-- A global address of this device. -/
def State.globalOf (s : State) (a : Nat) : Nat := s.devId * 2 ^ 46 + a

/-- Pieces of `n` bytes at offset `o` of a micro-batch's pages, mapped as one range in reservation order (R101, R151). -/
def pagePieces (base : Nat) (pages : List Nat) : Nat → Nat → Nat → List (Nat × Nat)
  | 0, _, _ => []
  | k + 1, o, n =>
    if n = 0 then [] else
    let l := min n (2048 - o % 2048)
    (base + nth pages (o / 2048) 0 * 2048 + o % 2048, l) :: pagePieces base pages k (o + l) (n - l)

/-- What an address resolves to. -/
inductive Target where
  | fault (code addr : Nat)
  | pieces (ps : List (Nat × Nat))
  deriving DecidableEq, Repr

/-- The target of `n` bytes at a local address. -/
def State.mxLocal (s : State) (a n : Nat) : Target :=
  if a % 64 ≠ 0 then .fault MxFault.align (s.globalOf a) else .pieces [(a, n)]

/-- The space that a tag and a handle name: its base as a global address, and its size (R151). -/
def State.mxSpace (s : State) (e tag h : Nat) : Nat × Nat :=
  let ti := nth (s.mxStream e).handles h 0xFFFFFFFF
  let t := s.tensors.get ti {}
  let (g, m) := s.mxMb e
  if tag = 1 then (s.globalOf (s.tensorBase ti), t.bytes)
  else if tag = 2 then
    match t.ledger with
    | some l =>
      match m.refs.find? fun r => r.1 == l with
      | some r => (s.globalOf ((s.led l).slotAddr r.2), (s.led l).bytes)
      | none => (0, 0)
    | none => (0, 0)
  else if tag = 3 then (s.globalOf g.poolBase, m.pages.length * 2048)
  else (dActAddr g.inDesc, leAt g.inDesc 24 4)

/-- Resolve IX[x] + offset for `n` bytes (R151). -/
def State.mxResolve (s : State) (e x off n : Nat) : Target :=
  let g := s.eng e
  let v := unsgn 64 ((g.getIx x).toNat + sgn 32 off)
  let tag := g.getTag x
  if tag = 0 then
    if gaDev v ≠ 0 ∧ gaDev v ≠ s.devId then .fault MxFault.remote v else s.mxLocal (gaLocal v) n
  else
    let (base, size) := s.mxSpace e tag (nth g.ixHandle x 0)
    if size < v + n then .fault MxFault.range (if tag = 3 then 0 else base + v)
    else if gaDev base ≠ s.devId then .fault MxFault.remote (base + v)
    else if tag = 3 then
      let (gs, m) := s.mxMb e
      if v % 64 ≠ 0 then .fault MxFault.align (s.globalOf (gs.poolBase + nth m.pages (v / 2048) 0 * 2048 + v % 2048))
      else .pieces (pagePieces gs.poolBase m.pages (n / 2048 + 2) v n)
    else s.mxLocal (gaLocal base + v) n

/-- Read pieces under the engine's master ID: status, failing address, bytes. -/
def State.mxRead (s : State) (e : Nat) : List (Nat × Nat) → Nat × Nat × List Byte × State
  | [] => (St.ok, 0, [], s)
  | (a, n) :: ps =>
    let (st, bs, s) := s.load (0x80 + e) a n
    if st ≠ 0 then (st, a, [], s) else
    let (st', a', bs', s) := State.mxRead s e ps
    (st', a', if st' = 0 then bs ++ bs' else [], s)

/-- The 64-byte blocks of a piece. -/
def blockPieces (a n : Nat) : List (Nat × Nat) :=
  (List.range (ceilDiv n 64)).map fun i => (a + 64 * i, min 64 (n - 64 * i))

/-- Write bytes block by block; a drain keeps the blocks it wrote before the one that fails (R171). -/
def State.mxWriteBlocks (s : State) (e : Nat) : List (Nat × Nat) → List Byte → Nat × Nat × State
  | [], _ => (St.ok, 0, s)
  | (a, n) :: ps, bs =>
    let (st, s) := s.store (0x80 + e) a (bs.take n)
    if st ≠ 0 then (st, a, s) else State.mxWriteBlocks s e ps (bs.drop n)

def State.mxWrite (s : State) (e : Nat) (ps : List (Nat × Nat)) (bs : List Byte) : Nat × Nat × State :=
  s.mxWriteBlocks e (ps.map fun p => blockPieces p.1 p.2).flatten bs

/-- The instruction words of R150. -/
def wordOf (op : Nat) (fields : List (Nat × Nat)) : Word := w (op + (fields.map fun f => at_ f.1 f.2).sum)

def bb (b : Bool) : Nat := if b then 1 else 0

/-- The word of a DRN instruction. -/
def drnWord (m : DrainMode) (tile : BitVec 5) (keep : Bool) (x xs : BitVec 4) (off : BitVec 32) : Word :=
  wordOf 0x30 [(8, tile.toNat), (13, m.code), (16, bb keep), (20, x.toNat), (24, xs.toNat), (32, off.toNat)]

/-- The instruction word that a sequencer command stands for (R150); the other commands are no instructions of a stream. -/
def seqWord : Instr → Option Word
  | .nopMe _ => some (wordOf 0x00 [])
  | .cfg _ sel v => some (wordOf 0x01 [(8, sel.toNat), (16, v.toNat)])
  | .setx _ d v => some (wordOf 0x02 [(8, d.toNat), (16, v.toNat)])
  | .addx _ d src v => some (wordOf 0x03 [(8, d.toNat), (12, src.toNat), (32, v.toNat)])
  | .lea _ d space h v => some (wordOf 0x04 [(8, d.toNat), (12, space.toNat), (16, h.toNat), (32, v.toNat)])
  | .addxx _ d src tx => some (wordOf 0x05 [(8, d.toNat), (12, src.toNat), (16, tx.toNat)])
  | .lda _ t half x off => some (wordOf 0x10 [(8, bb t), (9, bb half), (12, x.toNat), (32, off.toNat)])
  | .ldb _ t half x off => some (wordOf 0x11 [(8, bb t), (9, bb half), (12, x.toNat), (32, off.toNat)])
  | .lds _ half kind x off => some (wordOf 0x12 [(9, bb half), (10, kind.toNat), (12, x.toNat), (32, off.toNat)])
  | .mma _ clr ah bh mask tile =>
    some (wordOf 0x20 [(8, bb clr), (9, bb ah), (10, bb bh), (11, bb mask), (12, tile.toNat)])
  | .drnPlain _ tile keep x xs off => some (drnWord .plain tile keep x xs off)
  | .drnAmax _ tile keep x xs off => some (drnWord .amax tile keep x xs off)
  | .drnQuant _ tile keep x xs off => some (drnWord .quant tile keep x xs off)
  | .drnTopk _ tile keep x xs off => some (drnWord .topk tile keep x xs off)
  | .drnTopkEmit _ tile keep x xs off => some (drnWord .topkEmit tile keep x xs off)
  | .waitm _ m x => some (wordOf 0x40 [(8, m.toNat), (24, x.toNat)])
  | .advm _ m v => some (wordOf 0x41 [(8, m.toNat), (32, v.toNat)])
  | .bar _ b => some (wordOf 0x42 [(8, b.toNat)])
  | .loop _ l count target => some (wordOf 0x50 [(8, l.toNat), (16, count.toNat), (32, target.toNat)])
  | .jmp _ target => some (wordOf 0x51 [(32, target.toNat)])
  | .bnz _ x target => some (wordOf 0x52 [(8, x.toNat), (32, target.toNat)])
  | .endOp _ => some (wordOf 0x5F [])
  | _ => none

/-- The word at the engine's PC. -/
def State.mxWord (s : State) (e : Nat) : Option Word := (s.mxStream e).words[s.rdB (mxReg Reg.MX_STATUS e) 28 16]?

/-- A sequencer command is the next instruction of a running engine: the word at the PC is its word (R148, R150), the engine's
ports are not masked (R299), and the governor does not pause issue (R416). -/
def State.mxDue (s : State) (e : Nat) (i : Instr) : Bool :=
  s.mxState e == 1 && s.mxWord e == seqWord i && !s.isMasked (0x80 + e) && !s.mxPaused e

/-- Run a sequencer command on its engine when it is the next instruction. -/
def mxRun (e : Nat) (i : Instr) (f : State → State) (s : State) : State := if s.mxDue e i then f s else s

/-! ### Index registers and profiles -/

def fxNopMe (e : Nat) (s : State) : State := s.mxNext e

/-- NOP (R150). -/
def execNopMe (engine : BitVec 6) (s : State) : Host.Outcome State Fault Refusal :=
  live s (mxRun engine.toNat (.nopMe engine) (fxNopMe engine.toNat))

def fxCfg (e sel v : Nat) (s : State) : State :=
    let s := if sel = 0 then s.wr (mxReg Reg.MX_PROF_A e) (w v)
      else if sel = 1 then s.wr (mxReg Reg.MX_PROF_B e) (w v)
      else if sel = 2 then s.wr (mxReg Reg.MX_PROF_O e) (w v) else s
    s.mxNext e

/-- CFG (R150, R154). -/
def execCfg (engine : BitVec 6) (sel : BitVec 2) (value : BitVec 48) (s : State) : Host.Outcome State Fault Refusal :=
  live s (mxRun engine.toNat (.cfg engine sel value) (fxCfg engine.toNat sel.toNat value.toNat))

def fxSetx (e d v : Nat) (s : State) : State := (s.setIx e d (w v) 0 0).mxNext e

/-- SETX (R150). -/
def execSetx (engine : BitVec 6) (d : BitVec 4) (imm : BitVec 48) (s : State) : Host.Outcome State Fault Refusal :=
  live s (mxRun engine.toNat (.setx engine d imm) (fxSetx engine.toNat d.toNat imm.toNat))

def fxAddx (e d src : Nat) (imm : BitVec 32) (s : State) : State :=
    let g := s.eng e
    (s.setIx e d (g.getIx src + imm.signExtend 64) (g.getTag src) (nth g.ixHandle src 0)).mxNext e

/-- ADDX (R150). -/
def execAddx (engine : BitVec 6) (d src : BitVec 4) (imm : BitVec 32) (s : State) : Host.Outcome State Fault Refusal :=
  live s (mxRun engine.toNat (.addx engine d src imm) (fxAddx engine.toNat d.toNat src.toNat imm))

def fxLea (e d space h : Nat) (imm : BitVec 32) (s : State) : State :=
  (s.setIx e d (imm.signExtend 64) (space + 1) h).mxNext e

/-- LEA (R150, R151). -/
def execLea (engine : BitVec 6) (d : BitVec 4) (space : BitVec 2) (handle : BitVec 16) (imm : BitVec 32) (s : State) :
    Host.Outcome State Fault Refusal :=
  live s (mxRun engine.toNat (.lea engine d space handle imm) (fxLea engine.toNat d.toNat space.toNat handle.toNat imm))

def fxAddxx (e d src t : Nat) (s : State) : State :=
    let g := s.eng e
    (s.setIx e d (g.getIx src + g.getIx t) (g.getTag src) (nth g.ixHandle src 0)).mxNext e

/-- ADDXX (R150). -/
def execAddxx (engine : BitVec 6) (d src tx : BitVec 4) (s : State) : Host.Outcome State Fault Refusal :=
  live s (mxRun engine.toNat (.addxx engine d src tx) (fxAddxx engine.toNat d.toNat src.toNat tx.toNat))

/-! ### Loads (R159 to R162, R203, R204) -/

/-- Read `n` bytes at IX[x] + off, or fault. -/
def State.mxFetch (s : State) (e x off n : Nat) (word : Word) (k : State → List Byte → State) : State :=
  match s.mxResolve e x off n with
  | .fault c a => s.mxFault e c 0 a word
  | .pieces ps =>
    let (st, a, bs, s) := s.mxRead e ps
    if st ≠ 0 then s.mxFault e MxFault.access st (s.globalOf a) word else k s bs

/-- Put a tile into a half of an operand buffer. -/
def Engine.putHalf (g : Engine) (isB : Bool) (half : Nat) (bs : List Byte) (t : Bool) : Engine :=
  let put (hs : List Half) : List Half := setNth hs half { bytes := patch (nth hs half {}).bytes 0 bs, t := t }
  if isB then { g with bufB := put g.bufB } else { g with bufA := put g.bufA }

/-- LDA and LDB: the tile under profile A or B into a half, as the array sees it. -/
def fxLoadTile (isB : Bool) (e : Nat) (t : Bool) (half : Nat) (x off : Nat) (s : State) : State :=
    let word := wordOf (if isB then 0x11 else 0x10) [(8, bb t), (9, half), (12, x), (32, off)]
    let p := if isB then s.mxProfB e else s.mxProfA e
    if !p.loadOk isB || (t && p.sparse != 0) then s.mxFault e MxFault.profile 0 0 word
    else
      let n := (tileBytes p isB).2
      if 262144 < n then s.mxFault e MxFault.bufsize 0 0 word
      else s.mxFetch e x off n word fun s bs =>
        let s := s.setEng e ((s.eng e).putHalf isB half (arrayView p isB t bs) t)
        let slow := t && (fmtWidth p.fmt == 4 || fmtWidth p.fmt == 6)
        (s.addB (mxReg Reg.MX_CNT_LOAD e) 63 0 (ceilDiv n 1024 * (if slow then 2 else 1))).mxNext e

/-- LDA (R150, R159 to R162). -/
def execLda (engine : BitVec 6) (t half : Bool) (x : BitVec 4) (offset : BitVec 32) (s : State) :
    Host.Outcome State Fault Refusal :=
  live s (mxRun engine.toNat (.lda engine t half x offset) (fxLoadTile false engine.toNat t (bb half) x.toNat offset.toNat))

/-- LDB (R150, R159 to R162). -/
def execLdb (engine : BitVec 6) (t half : Bool) (x : BitVec 4) (offset : BitVec 32) (s : State) :
    Host.Outcome State Fault Refusal :=
  live s (mxRun engine.toNat (.ldb engine t half x offset) (fxLoadTile true engine.toNat t (bb half) x.toNat offset.toNat))

/-- LDS: sidecar data into its region of a half (R203, R204). -/
def fxLds (e half kind x off : Nat) (s : State) : State :=
    let word := wordOf 0x12 [(9, half), (10, kind), (12, x), (32, off)]
    let put (o n : Nat) : State := s.mxFetch e x off n word fun s bs =>
      let g := s.eng e
      let s := s.setEng e { g with side := setNth g.side half (patch (nth g.side half []) o bs) }
      (s.addB (mxReg Reg.MX_CNT_LOAD e) 63 0 (ceilDiv n 1024)).mxNext e
    if kind = 1 then put 0x7F00 64
    else if kind = 2 then put 0x7F40 16
    else
      let a := s.mxProfA e
      let b := s.mxProfB e
      if a.sparse = 0 ∧ b.sparse = 0 then s.mxNext e
      else
        let isB := a.sparse == 0
        let p := if isB then b else a
        if !p.loadOk isB then s.mxFault e MxFault.profile 0 0 word
        else
          let n := (p.dims isB).1 * (p.dims isB).2 / 2
          if 32512 < n then s.mxFault e MxFault.bufsize 0 0 word else put 0 n

/-- LDS (R150, R203, R204). -/
def execLds (engine : BitVec 6) (half : Bool) (kind : BitVec 2) (x : BitVec 4) (offset : BitVec 32) (s : State) :
    Host.Outcome State Fault Refusal :=
  live s (mxRun engine.toNat (.lds engine half kind x offset) (fxLds engine.toNat (bb half) kind.toNat x.toNat offset.toNat))

/-! ### MMA (R152, R155 to R158, R189 to R197, R211, R212) -/

/-- The tile after an MMA, from the tile before it: rows of (word, low word, saturated). -/
def mmaTile (a b : OperandProf) (o : OutputProf) (mask : Bool) (ha hb : Half) (sideA sideB : List Byte)
    (old : List (List (Nat × Nat))) : List (List (Nat × Nat × Bool)) :=
  let passes := (splitPasses a.split b.split).map fun p =>
    (operandLines a false ha sideA p.1 o.heritage, operandLines b true hb sideB p.2 o.heritage)
  let rowMask := (sideA.drop 0x7F40).take 16
  ((List.range old.length).zip old).map fun row =>
    if mask && !bitmapBit rowMask row.1 then row.2.map fun e => (e.1, e.2, false)
    else
      let as := passes.map fun p => nth p.1 row.1 []
      ((List.range row.2.length).zip row.2).map fun el =>
        mmaElement o (as.zip (passes.map fun p => nth p.2 el.1 [])) el.2

def fxMma (e : Nat) (clr : Bool) (ah bh : Nat) (mask : Bool) (tile : Nat) (s : State) : State :=
    let word := wordOf 0x20 [(8, bb clr), (9, ah), (10, bh), (11, bb mask), (12, tile)]
    let a := s.mxProfA e
    let b := s.mxProfB e
    let o := s.mxProfO e
    if !mmaOk a b o mask then s.mxFault e MxFault.profile 0 0 word
    else
      let m := a.outer
      let n := b.outer
      let u := tileUnits o m n
      if !tileOk tile u then s.mxFault e MxFault.tile 0 0 word
      else
        let g := s.eng e
        let ha := nth g.bufA ah {}
        let hb := nth g.bufB bh {}
        let sideA := nth g.side ah []
        let sideB := nth g.side bh []
        let old := readTile g.acc o tile m n
        let old := if clr then old.map fun r => r.map fun _ => (0, 0) else old
        let rows := mmaTile a b o mask ha hb sideA sideB old
        let um := unitMask tile u
        let sat := rows.any fun r => r.any fun el => el.2.2
        let s := s.setEng e { g with
          acc := writeTile g.acc o tile m n (rows.map fun r => r.map fun el => (el.1, el.2.1))
          live := g.live.lor um
          sat := if sat then g.sat.lor um else g.sat
          amax := match g.amax with
            | some am => if (unitMask (am.1 % 32) (am.1 / 2 ^ 32)).land um = 0 then g.amax else none
            | none => none }
        let (skip, total) := skippedSteps a b ha.t hb.t mask sideA sideB
        let s := s.addB (mxReg Reg.MX_CNT_ARRAY e) 63 0 (mmaCycles a b o (total - skip))
        let s := s.addB (mxReg Reg.MX_CNT_SKIP e) 63 0 skip
        (s.addB (mxReg Reg.MX_CNT_MAC e) 63 0 (m * n * a.k / 65536)).mxNext e

/-- MMA (R150, R189). -/
def execMma (engine : BitVec 6) (clr ah bh mask : Bool) (tile : BitVec 5) (s : State) :
    Host.Outcome State Fault Refusal :=
  live s (mxRun engine.toNat (.mma engine clr ah bh mask tile) (fxMma engine.toNat clr (bb ah) (bb bh) mask tile.toNat))

/-! ### Drains (R163 to R169, R184 to R188) -/

/-- What a drain ends with: MX_DRAIN_STAT, the events, and the first flagged drain (R166, R167). -/
def State.drainStat (s : State) (e : Nat) (m : DrainMode) (tile : Nat) (nf : Option (Nat × Nat × Nat)) (sat : Bool) :
    State :=
  let (r, c, cls) := nf.getD (0, 0, 0)
  let st := bb nf.isSome + at_ 1 (bb sat) + at_ 2 cls + at_ 8 r + at_ 16 c + at_ 24 tile + at_ 29 m.code
  let s := s.wr (mxReg Reg.MX_DRAIN_STAT e) (w st)
  let nx := s.mxStage e
  let info : EvInfo := { master := 0x80 + e, unit := nx.2, at0 := some (mxReg Reg.MX_DRAIN_STAT e) }
  let s := if nf.isSome then
      let s := if bit (s.rd (mxReg Reg.MX_EVT e)) 0 then s
        else
          let s := s.wr (mxReg Reg.MX_NF_FIRST e) (w (st + at_ 32 (s.rdB (mxReg Reg.MX_STATUS e) 28 16)))
          s.wr (mxReg Reg.MX_NF_TIME e) (w s.now)
      s.raise nx.1 Blk.mx (mxReg Reg.MX_EVT e) (mxReg Reg.MX_EVT_EN e) 0 { info with status := St.nonfinite }
    else s
  if sat then s.raise nx.1 Blk.mx (mxReg Reg.MX_EVT e) (mxReg Reg.MX_EVT_EN e) 1 info else s

/-- The end of a drain: the tile is cleared unless it is kept, and its flags are reported. -/
def State.drainEnd (s : State) (e : Nat) (m : DrainMode) (o : OutputProf) (tile rows cols : Nat) (keep : Bool)
    (nf : Option (Nat × Nat × Nat)) (sat : Bool) (amax : Option (Nat × Word)) : State :=
  let g := s.eng e
  let u := tileUnits o rows cols
  let um := unitMask tile u
  let sat := sat || g.sat.land um != 0
  let s := s.setEng e { g with
    acc := if keep then g.acc else Tbl.clear g.acc (tile * 4096) (u * 4096)
    live := bitsWithout g.live um
    sat := if keep then g.sat else bitsWithout g.sat um
    amax := amax }
  let extra := match m with | .plain => if o.bsize = 0 then 0 else 2 | .topkEmit => 16 * rows | _ => 0
  let s := s.addB (mxReg Reg.MX_CNT_DRAIN e) 63 0 (rows * cols / 64 + extra)
  (s.drainStat e m tile nf sat).mxNext e

/-- The pieces that a drain's parts go to, resolved before anything is written; or the first fault (R151). -/
def State.drainPlan (s : State) (e : Nat) : List (Nat × Nat × List Byte) → Nat × Nat × List (Nat × Nat)
  | [] => (0, 0, [])
  | (x, off, bs) :: ps =>
    if bs.isEmpty then State.drainPlan s e ps else
    match s.mxResolve e x off bs.length with
    | .fault c a => (c, a, [])
    | .pieces qs =>
      let (c, a, rs) := State.drainPlan s e ps
      (c, a, qs ++ rs)

/-- Write what a drain produces, or fault; what was written before a failing block stays (R171). `parts` are the index
register, the offset and the bytes of each contiguous block. -/
def State.drainWrite (s : State) (e : Nat) (parts : List (Nat × Nat × List Byte)) (word : Word) (k : State → State) :
    State :=
  let (c, a, ps) := s.drainPlan e parts
  if c ≠ 0 then s.mxFault e c 0 a word else
  let (st, a, s) := s.mxWrite e ps (parts.map fun p => p.2.2).flatten
  if st ≠ 0 then s.mxFault e MxFault.access st (s.globalOf a) word else k s

/-- What an AMAX drain leaves for QUANT: the tile, its rows and columns and, from bit 32 on, the units it held at the AMAX
(R165), and the fields of profile O that QUANT compares (R188). -/
def amaxKey (tile rows cols units : Nat) (v : Word) : Nat × Word :=
  (tile + 256 * rows + 65536 * cols + 2 ^ 32 * units, w (bits v 7 0 + at_ 12 (bits v 17 12)))

/-- A QUANT with key `key` uses the scales of the last AMAX: the same tile under the same fields (R165, R188). -/
def amaxMatches (amax : Option (Nat × Word)) (key : Nat × Word) : Bool :=
  match amax with
  | some am => am.1 % 2 ^ 32 == key.1 % 2 ^ 32 && am.2 == key.2
  | none => false

/-- The candidate store after a TOPK drain, the first flagged value, and saturation (R168). -/
def State.topkMerge (s : State) (e : Nat) (o : OutputProf) (rows cols base : Nat) (vals : List (List XVal)) :
    List (List (Nat × Nat)) × Option (Nat × Nat × Nat) × Bool :=
  let g := s.eng e
  let old := if g.candKey = (rows, o.topk) then g.cand else List.replicate rows []
  let (_, nf, sat) := drainCodes o cols [] vals
  let int := o.acc == 1
  let words := vals.map fun r => r.map fun v =>
    if int then unsgn 32 v.toInt else Fmt.fp32.round o.drainRnd v
  ((old.zip words).map fun e => mergeRow int o.topk base e.1 e.2, nf, sat)

/-- DRN (R150, R164). -/
def fxDrn (m : DrainMode) (e tile : Nat) (keep : Bool) (x xs off : Nat) (s : State) : State :=
    let word := wordOf 0x30 [(8, tile), (13, m.code), (16, bb keep), (20, x), (24, xs), (32, off)]
    let o := s.mxProfO e
    let rows := (s.mxProfA e).outer
    let cols := (s.mxProfB e).outer
    if !drainOk o m rows cols then s.mxFault e MxFault.profile 0 0 word
    else if !tileOk tile (tileUnits o rows cols) then s.mxFault e MxFault.tile 0 0 word
    else
      let g := s.eng e
      let vals := (readTile g.acc o tile rows cols).map fun r => r.map (accVal o)
      let key := amaxKey tile rows cols (tileUnits o rows cols) (s.rd (mxReg Reg.MX_PROF_O e))
      let width := fmtWidth o.fmt
      let f := (fmtOf o.fmt).getD .fp32
      let pack (codes : List (List Nat)) : List Byte := (codes.map fun r => packElems width r).flatten
      match m with
      | .plain =>
        let blocks := if o.bsize = 0 then [] else blocksOfTile o.bsize o.bdir rows cols vals
        let scales := blocks.map fun b => (chooseScale f o.e4m3 b, b)
        let (codes, nf, sat) := drainCodes o cols (scales.map fun e => e.1.2) vals
        let sb := scales.map fun e => BitVec.ofNat 8 (writtenScale o.e4m3 e.1.1 e.2)
        s.drainWrite e [(x, off, pack codes), (xs, 0, sb)] word fun s =>
          s.drainEnd e m o tile rows cols keep nf sat none
      | .amax =>
        if 2048 < scaleCount o.bsize o.bdir rows cols then s.mxFault e MxFault.bufsize 0 0 word
        else
          let blocks := blocksOfTile o.bsize o.bdir rows cols vals
          let scales := blocks.map fun b => (chooseScale f o.e4m3 b, b)
          let (_, nf, sat) := drainCodes o cols (scales.map fun e => e.1.2) vals
          let sb := scales.map fun e => BitVec.ofNat 8 (writtenScale o.e4m3 e.1.1 e.2)
          s.drainWrite e [(xs, 0, sb)] word fun s =>
            let s := s.setEng e { s.eng e with scales := scales.map fun e => e.1.1 }
            s.drainEnd e m o tile rows cols true nf sat (some key)
      | .quant =>
        if !amaxMatches g.amax key then s.mxFault e MxFault.order 0 0 word
        else
          let divs := g.scales.map fun c => scaleVal o.e4m3 c
          let (codes, nf, sat) := drainCodes o cols divs vals
          s.drainWrite e [(x, off, pack codes)] word fun s => s.drainEnd e m o tile rows cols keep nf sat none
      | .topk =>
        let base := (g.getIx xs).toNat % 65536
        if 65534 < base + (cols - 1) then s.mxFault e MxFault.position 0 0 word
        else
          let (cand, nf, sat) := s.topkMerge e o rows cols base vals
          let s := s.setEng e { g with cand := cand, candKey := (rows, o.topk) }
          s.drainEnd e m o tile rows cols keep nf sat none
      | .topkEmit =>
        let base := (g.getIx xs).toNat % 65536
        if 65534 < base + (cols - 1) then s.mxFault e MxFault.position 0 0 word
        else
          let (cand, nf, sat) := s.topkMerge e o rows cols base vals
          let out := (cand.map fun c => emitRow (o.acc == 1) o.topk c).flatten
          s.drainWrite e [(x, off, out)] word fun s =>
            let s := s.setEng e { s.eng e with cand := [], candKey := (0, 0) }
            s.drainEnd e m o tile rows cols keep nf sat none
/-- DRN PLAIN (R164). -/
def execDrnPlain (engine : BitVec 6) (tile : BitVec 5) (keep : Bool) (x xs : BitVec 4) (offset : BitVec 32)
    (s : State) : Host.Outcome State Fault Refusal :=
  live s (mxRun engine.toNat (.drnPlain engine tile keep x xs offset)
    (fxDrn .plain engine.toNat tile.toNat keep x.toNat xs.toNat offset.toNat))

/-- DRN AMAX (R164, R184 to R186). -/
def execDrnAmax (engine : BitVec 6) (tile : BitVec 5) (keep : Bool) (x xs : BitVec 4) (offset : BitVec 32)
    (s : State) : Host.Outcome State Fault Refusal :=
  live s (mxRun engine.toNat (.drnAmax engine tile keep x xs offset)
    (fxDrn .amax engine.toNat tile.toNat keep x.toNat xs.toNat offset.toNat))

/-- DRN QUANT (R164, R165, R188). -/
def execDrnQuant (engine : BitVec 6) (tile : BitVec 5) (keep : Bool) (x xs : BitVec 4) (offset : BitVec 32)
    (s : State) : Host.Outcome State Fault Refusal :=
  live s (mxRun engine.toNat (.drnQuant engine tile keep x xs offset)
    (fxDrn .quant engine.toNat tile.toNat keep x.toNat xs.toNat offset.toNat))

/-- DRN TOPK (R164, R168). -/
def execDrnTopk (engine : BitVec 6) (tile : BitVec 5) (keep : Bool) (x xs : BitVec 4) (offset : BitVec 32)
    (s : State) : Host.Outcome State Fault Refusal :=
  live s (mxRun engine.toNat (.drnTopk engine tile keep x xs offset)
    (fxDrn .topk engine.toNat tile.toNat keep x.toNat xs.toNat offset.toNat))

/-- DRN TOPK_EMIT (R164, R169). -/
def execDrnTopkEmit (engine : BitVec 6) (tile : BitVec 5) (keep : Bool) (x xs : BitVec 4) (offset : BitVec 32)
    (s : State) : Host.Outcome State Fault Refusal :=
  live s (mxRun engine.toNat (.drnTopkEmit engine tile keep x xs offset)
    (fxDrn .topkEmit engine.toNat tile.toNat keep x.toNat xs.toNat offset.toNat))

/-! ### Synchronisation -/

/-- WAITM, BAR and END of an engine whose stage has stopped do not go on (R171). -/
def State.mxSync (s : State) (e : Nat) (f : State → State) : State :=
  if s.stageStopped (s.mxStage e) then s else f s

def fxWaitm (e m x : Nat) (s : State) : State :=
  s.mxSync e fun s =>
    if !s.msOk m then s.mxFault e MxFault.syncref 0 0 (wordOf 0x40 [(8, m), (24, x)])
    else
      let t := ((s.eng e).getIx x).toNat
      if t ≤ s.msVal m then s.mxNext e
      else (s.setEng e { s.eng e with wait := .ms m t }).setMxState e 2

/-- WAITM (R150, R282, R487). -/
def execWaitm (engine : BitVec 6) (counter : BitVec 14) (x : BitVec 4) (s : State) : Host.Outcome State Fault Refusal :=
  live s (mxRun engine.toNat (.waitm engine counter x) (fxWaitm engine.toNat counter.toNat x.toNat))

/-- Every write of every earlier drain of the engine has reached its destination (R153): none waits for the register bus. -/
def State.mxAcked (s : State) (e : Nat) : Bool := !s.busLate.any fun x => x.1 == 0x80 + e

/-- ADVM, BAR and END wait while a write of an earlier drain is not acknowledged (R153): the command has no effect then. -/
def State.mxDrained (s : State) (e : Nat) (f : State → State) : State := if s.mxAcked e then f s else s

def fxAdvm (e m v : Nat) (s : State) : State :=
  s.mxDrained e fun s =>
    if !s.msOk m then s.mxFault e MxFault.syncref 0 0 (wordOf 0x41 [(8, m), (32, v)])
    else (s.mxNext e).msAdd m v

/-- ADVM (R150, R153, R282). -/
def execAdvm (engine : BitVec 6) (counter : BitVec 14) (imm : BitVec 32) (s : State) :
    Host.Outcome State Fault Refusal :=
  live s (mxRun engine.toNat (.advm engine counter imm) (fxAdvm engine.toNat counter.toNat imm.toNat))

def fxBar (e b : Nat) (s : State) : State :=
  s.mxDrained e fun s => s.mxSync e fun s =>
    if !s.barOk b then s.mxFault e MxFault.syncref 0 0 (wordOf 0x42 [(8, b)])
    else
      let s := (s.setEng e { s.eng e with wait := .bar b }).setMxState e 2
      let (os, s) := s.barArrive b (.engine e)
      os.foldl (fun s o => s.releaseUnit o) s

/-- BAR (R150, R153, R284). -/
def execBar (engine : BitVec 6) (barrier : BitVec 10) (s : State) : Host.Outcome State Fault Refusal :=
  live s (mxRun engine.toNat (.bar engine barrier) (fxBar engine.toNat barrier.toNat))

/-! ### Branches and END -/

/-- The engine goes to a word of its stream. -/
def State.mxJump (s : State) (e target : Nat) : State :=
  (s.wrB (mxReg Reg.MX_STATUS e) 28 16 target).addB (mxReg Reg.MX_CNT_INSTR e) 63 0 1

def fxLoop (e l count target : Nat) (s : State) : State :=
    let g := s.eng e
    let c := nth g.loops l 0
    if c < count - 1 then (s.setEng e { g with loops := setNth g.loops l (c + 1) }).mxJump e target
    else (s.setEng e { g with loops := setNth g.loops l 0 }).mxNext e

/-- LOOP (R150). -/
def execLoop (engine : BitVec 6) (l : BitVec 2) (count : BitVec 16) (target : BitVec 32) (s : State) :
    Host.Outcome State Fault Refusal :=
  live s (mxRun engine.toNat (.loop engine l count target) (fxLoop engine.toNat l.toNat count.toNat target.toNat))

def fxJmp (e target : Nat) (s : State) : State := s.mxJump e target

/-- JMP (R150). -/
def execJmp (engine : BitVec 6) (target : BitVec 32) (s : State) : Host.Outcome State Fault Refusal :=
  live s (mxRun engine.toNat (.jmp engine target) (fxJmp engine.toNat target.toNat))

def fxBnz (e x target : Nat) (s : State) : State :=
  if (s.eng e).getIx x = 0 then s.mxNext e else s.mxJump e target

/-- BNZ (R150). -/
def execBnz (engine : BitVec 6) (x : BitVec 4) (target : BitVec 32) (s : State) : Host.Outcome State Fault Refusal :=
  live s (mxRun engine.toNat (.bnz engine x target) (fxBnz engine.toNat x.toNat target.toNat))

def fxEndOp (e : Nat) (s : State) : State :=
  s.mxDrained e fun s => s.mxSync e fun s =>
    let g := s.eng e
    let s := s.setEng e { g with acc := [], live := 0, sat := 0, wait := .none }
    let s := s.addB (mxReg Reg.MX_CNT_INSTR e) 63 0 1
    let nx := s.mxStage e
    let s := if g.live = 0 then s else
      s.raise nx.1 Blk.mx (mxReg Reg.MX_EVT e) (mxReg Reg.MX_EVT_EN e) 3
        { master := 0x80 + e, unit := nx.2, at0 := some (mxReg Reg.MX_DRAIN_STAT e) }
    s.setMxState e 0

/-- END (R149, R171). -/
def execEndOp (engine : BitVec 6) (s : State) : Host.Outcome State Fault Refusal :=
  live s (mxRun engine.toNat (.endOp engine) (fxEndOp engine.toNat))

/-! ### The index-register window (R172, R173) -/

/-- A write of MX_IX_SEL latches the selected register's value and tag. -/
def State.mxIxLatch (s : State) (e : Nat) (v : Word) : State :=
  let g := s.eng e
  let i := bits v 3 0
  let s := s.wr (mxReg Reg.MX_IX_SEL e) (w (i + at_ 8 (g.getTag i)))
  s.wr (mxReg Reg.MX_IX_DATA e) (g.getIx i)

end Sys2Proof.Machine
end

