-- ==== Sys2Proof/Machine/Offload.lean ====
section
/-!
DEFINITION. The activation offload engine (R308 to R311), and the commands of the memory system that nothing else covers:
replay-rate windows (R306), cut grants (R298), masked ports (R299).
-/

namespace Sys2Proof.Machine

/-- The lowest free frames of an entry; none when there are too few (R309). -/
def State.takeFrames (s : State) (n x o k : Nat) : Option (List Nat) :=
  let used := s.framesUsed n x
  let free := (List.range (s.rdB (Reg.OFL_FRAMES o) 31 0)).filter fun f => !used.contains f
  if k ≤ free.length then some (free.take k) else none

/-- Offload a micro-batch (R309). -/
def State.offload (s : State) (r : OflReq) : State :=
  match s.ctxAt r.n r.x r.pos with
  | none => s
  | some c =>
    let m := s.mbc r.n r.x c
    if m.state ≠ 2 ∨ m.pages.isEmpty ∨ m.offloaded ∨ m.xfer ∨ m.abortReq then s
    else match s.takeFrames r.n r.x r.entry m.pages.length with
    | none => (s.addB (Reg.OFL_CNT_SKIP r.entry) 31 0 1).oflEvent r.entry 2 0
    | some fs => (s.setMbc r.n r.x c { m with frames := fs }).oflCopy r.n r.x c r.entry false

/-- The micro-batch that a prefetch request names can be fetched. -/
def State.fetchable (s : State) (r : OflReq) : Option Nat :=
  match s.ctxAt r.n r.x r.pos with
  | some c => let m := s.mbc r.n r.x c; if m.offloaded && !m.xfer then some c else none
  | none => none

/-- OFFLOAD_START (R309): the engine takes the next request. A prefetch request of a micro-batch that is not offloaded
ends with no effect; any other is PREFETCH_START's. -/
def fxOffloadStart (s : State) : State :=
  match s.oflQueue with
  | [] => s
  | r :: rs =>
    if r.fetch then (if (s.fetchable r).isSome then s else { s with oflQueue := rs })
    else { s with oflQueue := rs }.offload r

def execOffloadStart (s : State) : Host.Outcome State Fault Refusal := live s fxOffloadStart

/-- PREFETCH_START (R310): a prefetch that a slot asked for reserves pages and starts. -/
def fxPrefetchStart (n x c : Nat) (s : State) : State :=
  let s := match s.oflQueue with
    | r :: rs => if r.fetch && r.n == n && r.x == x && s.fetchable r == some c then
        { s with oflQueue := rs }.askPrefetch n x c else s
    | [] => s
  s.prefetchPages n x c

def execPrefetchStart (die : BitVec 2) (ctx : BitVec 5) (mb : BitVec 8) (s : State) : Host.Outcome State Fault Refusal :=
  live s (fxPrefetchStart die.toNat ctx.toNat mb.toNat)

/-- OFFLOAD_DONE (R309). -/
def execOffloadDone (die : BitVec 2) (ctx : BitVec 5) (mb : BitVec 8) (s : State) : Host.Outcome State Fault Refusal :=
  live s (fxOffloadDone die.toNat ctx.toNat mb.toNat)

/-- OFLFAIL (R311). -/
def execOflfail (die : BitVec 2) (ctx : BitVec 5) (mb : BitVec 8) (s : State) : Host.Outcome State Fault Refusal :=
  live s (fxOflfail die.toNat ctx.toNat mb.toNat)

/-- PREFETCH_DONE (R310). -/
def execPrefetchDone (die : BitVec 2) (ctx : BitVec 5) (mb : BitVec 8) (s : State) : Host.Outcome State Fault Refusal :=
  live s (fxPrefetchDone die.toNat ctx.toNat mb.toNat)

/-- FETCHFAIL (R311). -/
def execFetchfail (die : BitVec 2) (ctx : BitVec 5) (mb : BitVec 8) (s : State) : Host.Outcome State Fault Refusal :=
  live s (fxFetchfail die.toNat ctx.toNat mb.toNat)

/-- A new replay-rate window of a stack begins now (R306). -/
def State.newWindow (s : State) (k : Nat) : State :=
  { s with stackWin := s.stackWin.set k { start := 25 * s.now, count := 0, raised := false } {} }

/-- REPLAYRATE_WINDOW (R306): a window that is over makes way for the one that runs now. -/
def fxReplayrateWindow (k : Nat) (s : State) : State := { s with stackWin := s.stackWin.set k (s.window k) {} }

def execReplayrateWindow (stack : BitVec 3) (s : State) : Host.Outcome State Fault Refusal :=
  live s (fxReplayrateWindow stack.toNat)

/-- HOLDCUT (R298): a grant of an LPDDR channel of a stack, or of a granule of a die, is ended. -/
def execHoldcut (sram : Bool) (index : BitVec 3) (master : BitVec 8) (s : State) : Host.Outcome State Fault Refusal :=
  live s (fun s => s.holdCut sram (if sram then index.toNat % 4 else index.toNat) master.toNat)

/-- The ports of a master (R297): its own two, and those of the dispatch units and inboxes that issue under its ID. -/
def State.portsOf (s : State) (m : Nat) : List Nat :=
  [16 + 2 * m, 17 + 2 * m]
    ++ ((List.range 4).filter fun n => s.ownerMaster (.dispatch n) == m).map (fun n => 1024 + 65 * n)
    ++ ((List.range 256).filter fun k => (s.ibx (k / 64) (k % 64)).master == m).map (fun k => 1025 + 65 * (k / 64) + k % 64)

/-- PORT_MASK (R299): the sideband of a master asserts: its ports take part in no round, and its queued accesses are discarded
without completion, so that the transfers that they belong to never end; or it releases: the priorities of its ports start at
0, and its accesses go on. -/
def fxPortMask (m : Nat) (masked : Bool) (s : State) : State :=
  if masked then
    let lost := s.tagWaits.filter fun r => r.master == m
    { s with
      masked := if s.masked.contains m then s.masked else s.masked ++ [m]
      tagWaits := s.tagWaits.filter fun r => r.master != m
      xfers := s.xfers.filter fun (e : Nat × Xfer) => !(lost.any fun r => r.kind == 1 && r.ref == e.1) }
  else
    let s := { s with
      masked := s.masked.filter fun k => k != m
      tagPrio := (s.portsOf m).foldl (fun (t : Tbl Nat) p => t.set p 0 0) s.tagPrio }
    ((s.serveTags s.tagWaits.length).xfersResume m).colsResume m

def execPortMask (master : BitVec 8) (masked : Bool) (s : State) : Host.Outcome State Fault Refusal :=
  live s (fxPortMask master.toNat masked)

end Sys2Proof.Machine
end

