-- ==== Sys2Proof/Machine/Manifest.lean ====
section
/-!
DEFINITION. Manifests (R32 to R47, R489 to R491): the header, the directory, the sections as lists of entries, and steps 4 to 9
of the fit check. The check is a function of the manifest's bytes, the part and the device ID.
-/

namespace Sys2Proof.Machine

/-! ### Reason codes (R46) -/

def Rs.jobloaded : Nat := 0x01
def Rs.badmagic : Nat := 0x02
def Rs.badversion : Nat := 0x03
def Rs.badlength : Nat := 0x04
def Rs.baddigest : Nat := 0x05
def Rs.baddir : Nat := 0x06
def Rs.badfield : Nat := 0x07
def Rs.badref : Nat := 0x08
def Rs.guest : Nat := 0x09
def Rs.stages : Nat := 0x0A
def Rs.diesplit : Nat := 0x0B
def Rs.engines : Nat := 0x0C
def Rs.cores : Nat := 0x0D
def Rs.updeng : Nat := 0x0E
def Rs.queues : Nat := 0x0F
def Rs.sync : Nat := 0x10
def Rs.cadence : Nat := 0x11
def Rs.maxlen : Nat := 0x12
def Rs.sram : Nat := 0x13
def Rs.lpddr : Nat := 0x14
def Rs.ledger : Nat := 0x15
def Rs.rule : Nat := 0x16
def Rs.routes : Nat := 0x17
def Rs.offload : Nat := 0x18
def Rs.backhaul : Nat := 0x19
def Rs.initfetch : Nat := 0x1A
def Rs.aborted : Nat := 0x1B

/-- A refusal: reason, offending section, offending entry (R45). -/
structure Refuse where
  reason : Nat
  sect : Nat
  entry : Nat
  deriving DecidableEq, Repr

/-- The entry index of a failure of the whole header or directory (R45). -/
def noEntry : Nat := 0xFFFFFFFF

/-- A slice of bytes. -/
def slice (bs : List Byte) (o n : Nat) : List Byte := (bs.drop o).take n

def allZero (bs : List Byte) : Bool := bs.all fun b => b == 0

/-- The lowest reason among the conditions that hold. -/
def lowestReason (cs : List (Bool × Nat)) : Option Nat :=
  cs.foldl (fun (m : Option Nat) (c : Bool × Nat) =>
    if c.1 then (match m with | some r => some (min r c.2) | none => some c.2) else m) none

/-- The first entry that breaks a condition, with its reason, as a refusal of its section. -/
def firstBad {α : Type} (sect : Nat) (f : Nat → α → Option Nat) : Nat → List α → Option Refuse
  | _, [] => none
  | i, e :: es => match f i e with
    | some r => some ⟨r, sect, i⟩
    | none => firstBad sect f (i + 1) es

/-- Two byte ranges share a byte. -/
def overlaps (a n b m : Nat) : Bool := decide (0 < n) && decide (0 < m) && decide (a < b + m) && decide (b < a + n)

/-! ### The directory (R33) -/

/-- A directory entry. -/
structure Dir where
  typ : Nat
  count : Nat
  off : Nat
  len : Nat
  size : Nat
  rsv : Nat
  deriving DecidableEq, Repr

def dirAt (bs : List Byte) (o : Nat) : Dir :=
  ⟨leAt bs o 2, leAt bs (o + 4) 4, leAt bs (o + 8) 8, leAt bs (o + 16) 8, leAt bs (o + 24) 4,
    leAt bs (o + 2) 2 + leAt bs (o + 28) 4⟩

def dirsAt (bs : List Byte) (o n : Nat) : List Dir := (List.range n).map fun i => dirAt bs (o + 32 * i)

/-- The entry size of a section type (0 for one of variable-length entries); none for an unknown type. -/
def sectSize (t : Nat) : Option Nat :=
  match t with
  | 1 => some 16 | 2 => some 64 | 3 => some 32 | 4 => some 16 | 5 => some 16 | 6 => some 0 | 7 => some 64
  | 8 => some 16 | 9 => some 32 | 10 => some 32 | 11 => some 0
  | _ => none

/-- The section type is allowed in the backhaul program. -/
def nestedOk (t : Nat) : Bool := t == 1 || t == 2 || t == 3 || t == 4 || t == 6 || t == 7 || t == 8 || t == 9

/-- A directory entry, with those before it, obeys R33; `lo` is the end of the directory and `total` that of the space.
DESIGN CHOICE (log entry 103): a section of LENGTH 0 too has its OFFSET at or after `lo`. -/
def dirOk (nested : Bool) (lo total : Nat) (before : List Dir) (d : Dir) : Bool :=
  (match sectSize d.typ with
   | none => false
   | some z => d.size == z && (!nested || nestedOk d.typ) && d.rsv == 0 && d.off % 16 == 0
      && decide (lo ≤ d.off) && decide (d.off + d.len ≤ total)
      && (if d.typ = 1 then decide (16 * d.count ≤ d.len) else if z = 0 then true else d.len == d.count * z)
      && (d.typ != 11 || d.count == 1))
    && before.all fun e => e.typ != d.typ && !overlaps e.off e.len d.off d.len

/-- The directory breaks R33: the refusal, in section `sect`. -/
def dirCheck (sect : Nat) (nested : Bool) (lo total : Nat) (ds : List Dir) : Option Refuse :=
  if total < lo then some ⟨Rs.baddir, sect, noEntry⟩
  else match firstBad sect (fun i d => if dirOk nested lo total (ds.take i) d then none else some Rs.baddir) 0 ds with
    | some r => some r
    | none =>
      if [1, 2, 6, 7].all fun t => ds.any fun d => d.typ == t then none else some ⟨Rs.baddir, sect, noEntry⟩

/-! ### Namespaces -/

/-- One namespace of a manifest: the program sections' bytes and the entries of each section. -/
structure NS where
  bh : Bool
  progSec : List Byte
  progs : List (List Byte)
  stages : List (List Byte)
  queues : List (List Byte)
  syncs : List (List Byte)
  routes : List (List Byte)
  cadSec : List Byte
  cadCount : Nat
  tensors : List (List Byte)
  ledgers : List (List Byte)
  rules : List (List Byte)
  offloads : List (List Byte)
  deriving DecidableEq, Repr

def emptyNS (bh : Bool) : NS := ⟨bh, [], [], [], [], [], [], [], 0, [], [], [], []⟩

/-- The namespace that a directory gives. -/
def nsOf (bh : Bool) (bs : List Byte) (ds : List Dir) : NS :=
  let find (t : Nat) : Dir := (ds.find? fun d => d.typ == t).getD ⟨0, 0, 0, 0, 0, 0⟩
  let body (t : Nat) : List Byte := slice bs (find t).off (find t).len
  let ents (t : Nat) : List (List Byte) := pieces (max 1 ((sectSize t).getD 1)) (body t)
  { bh := bh, progSec := body 1, progs := pieces 16 ((body 1).take (16 * (find 1).count)), stages := ents 2, queues := ents 3
    syncs := ents 4, routes := ents 5, cadSec := body 6, cadCount := (find 6).count, tensors := ents 7, ledgers := ents 8
    rules := ents 9, offloads := ents 10 }

/-- Entry i of a section. -/
def entAt (es : List (List Byte)) (i : Nat) : List Byte := nth es i []

/-- The index of the entry with an ID of `n` bytes at offset 0. -/
def idIx (es : List (List Byte)) (n v : Nat) : Option Nat := es.findIdx? fun e => leAt e 0 n == v

def NS.stage (ns : NS) (v : Nat) : Option Nat := idIx ns.stages 2 v
def NS.queue (ns : NS) (v : Nat) : Option Nat := idIx ns.queues 2 v
def NS.sync (ns : NS) (v : Nat) : Option Nat := idIx ns.syncs 2 v
def NS.prog (ns : NS) (v : Nat) : Option Nat := idIx ns.progs 2 v
def NS.tensor (ns : NS) (v : Nat) : Option Nat := idIx ns.tensors 4 v
def NS.ledger (ns : NS) (v : Nat) : Option Nat := idIx ns.ledgers 4 v
def NS.ruleOf (ns : NS) (v : Nat) : Option Nat := idIx ns.rules 4 v

/-- An ID appears at an earlier entry. -/
def dupId (es : List (List Byte)) (n i : Nat) (e : List Byte) : Bool :=
  (es.take i).any fun d => leAt d 0 n == leAt e 0 n

def tRole (t : List Byte) : Nat := leAt t 4 1
def tHint (t : List Byte) : Nat := leAt t 5 1
def tFmt (t : List Byte) : Nat := leAt t 6 1
def tOwner (t : List Byte) : Bool := (leAt t 7 1).testBit 0
def tZero (t : List Byte) : Bool := (leAt t 7 1).testBit 1
def tFetch (t : List Byte) : Bool := (leAt t 7 1).testBit 2
def tReadOnly (t : List Byte) : Bool := (leAt t 7 1).testBit 3
def tBytes (t : List Byte) : Nat := leAt t 8 8
def tNear (t : List Byte) : Nat := leAt t 0x10 2
def tSource (t : List Byte) : Nat := leAt t 0x18 8
def tDim (t : List Byte) (k : Nat) : Nat := leAt t (0x20 + 4 * k) 4
def tScale (t : List Byte) : Nat := leAt t 0x30 8
def tElems (t : List Byte) : Nat := tDim t 0 * tDim t 1 * tDim t 2 * tDim t 3

def qRemote (q : List Byte) : Bool := (leAt q 3 1).testBit 1
def qHub (q : List Byte) : Bool := (leAt q 3 1).testBit 0

/-- The ROUTES entries that are peers or depots, in order: device ID, and whether it is a depot. -/
def peersOf (routes : List (List Byte)) : List (Nat × Bool) :=
  (routes.filter fun r => leAt r 0 1 == 0 || leAt r 0 1 == 3).map fun r => (leAt r 8 8 % 2 ^ 18, leAt r 0 1 == 3)

/-- The index names a peer of the given kind. -/
def peerIs (peers : List (Nat × Bool)) (i : Nat) (depot : Bool) : Bool :=
  match peers[i]? with
  | some p => p.2 == depot
  | none => false

/-! ### Programs (R146, R255, R489) -/

def progBody (ns : NS) (i : Nat) : List Byte :=
  let e := entAt ns.progs i
  slice ns.progSec (leAt e 8 8) (leAt e 4 4)

def progKind (ns : NS) (i : Nat) : Nat := leAt (entAt ns.progs i) 2 1

/-- A sequencer stream's words, handles and entries. -/
def stWords (b : List Byte) : Nat := leAt b 0 4
def stHandles (b : List Byte) : Nat := leAt b 4 2
def stHandle (b : List Byte) (h : Nat) : Nat := leAt b (16 + 4 * h) 4
def stWordOff (b : List Byte) : Nat := roundUp (16 + 4 * stHandles b) 8
def stWord (b : List Byte) (i : Nat) : Nat := leAt b (stWordOff b + 8 * i) 8

/-- A general-core image's sizes. -/
def imText (b : List Byte) : Nat := leAt b 0 4
def imData (b : List Byte) : Nat := leAt b 4 4
def imBss (b : List Byte) : Nat := leAt b 8 4
def imStack (b : List Byte) : Nat := leAt b 12 4
def imHandles (b : List Byte) : Nat := leAt b 0x18 2
def imHandle (b : List Byte) (h : Nat) : Nat := leAt b (0x20 + 8 * h) 8
def imTextOff (b : List Byte) : Nat := roundUp (0x20 + 8 * imHandles b) 64
def imDataOff (b : List Byte) : Nat := roundUp (imTextOff b + imText b) 8
def imScratch (b : List Byte) : Nat := imData b + imBss b + imStack b

/-- The bits that an instruction word may use (R150); none for a reserved opcode. -/
def seqMask (op : Nat) : Option (List (Nat × Nat)) :=
  match op with
  | 0x00 => some []
  | 0x01 => some [(9, 8), (63, 16)]
  | 0x02 => some [(11, 8), (63, 16)]
  | 0x03 => some [(15, 8), (63, 32)]
  | 0x04 => some [(13, 8), (63, 16)]
  | 0x05 => some [(19, 8)]
  | 0x10 => some [(9, 8), (15, 12), (63, 32)]
  | 0x11 => some [(9, 8), (15, 12), (63, 32)]
  | 0x12 => some [(15, 9), (63, 32)]
  | 0x20 => some [(16, 8)]
  | 0x30 => some [(16, 8), (27, 20), (63, 32)]
  | 0x40 => some [(21, 8), (27, 24)]
  | 0x41 => some [(21, 8), (63, 32)]
  | 0x42 => some [(17, 8)]
  | 0x50 => some [(9, 8), (63, 16)]
  | 0x51 => some [(63, 32)]
  | 0x52 => some [(11, 8), (63, 32)]
  | 0x5F => some []
  | _ => none

/-- Reserved fields of a CFG value are zero (R154, and the section on CFG). -/
def cfgValueOk (sel v : Nat) : Bool := if sel = 2 then nbits v 47 23 == 0 else nbits v 47 25 == 0

/-- An instruction word is well formed in a stream of `words` words and `handles` handles (R146). -/
def seqWordOk (words handles v : Nat) : Bool :=
  let op := nbits v 7 0
  match seqMask op with
  | none => false
  | some fs =>
    decide (v = op + (fs.map fun f => nbits v f.1 f.2 * 2 ^ f.2).sum) &&
    (if op = 0x01 then decide (nbits v 9 8 < 3) && cfgValueOk (nbits v 9 8) (nbits v 63 16)
     else if op = 0x04 then decide (nbits v 31 16 < handles)
     else if op = 0x12 then decide (nbits v 11 10 < 3)
     else if op = 0x30 then decide (nbits v 15 13 < 5)
     else if op = 0x41 then decide (0 < nbits v 63 32)
     else if op = 0x50 then decide (0 < nbits v 31 16) && decide (nbits v 63 32 < words)
     else if op = 0x51 ∨ op = 0x52 then decide (nbits v 63 32 < words)
     else true)

/-- A handle of a stream names a weight shard with a ledger: its own, or the primary's (R40). -/
def handleLedgered (ns prim : NS) (id : Nat) : Bool :=
  match ns.tensor id with
  | none => false
  | some t => tRole (entAt ns.tensors t) == 0 &&
      ((ns.ledger id).isSome || (ns.bh && tReadOnly (entAt ns.tensors t) && (prim.ledger id).isSome))

/-- The conditions of a sequencer stream body. -/
def streamReasons (ns prim : NS) (b : List Byte) : List (Bool × Nat) :=
  let wn := stWords b
  let hn := stHandles b
  let sized := decide (1 ≤ wn) && decide (wn ≤ 8192) && decide (hn ≤ 1024) && decide (stWordOff b + 8 * wn ≤ b.length)
  let ws := if sized then (List.range wn).map (stWord b) else []
  [(!sized, Rs.badfield), (decide (leAt b 6 2 ≠ 0), Rs.badfield), (decide (wn ≤ leAt b 8 4), Rs.badfield),
   (leAt b 12 4 != 0xFFFFFFFF && decide (wn ≤ leAt b 12 4), Rs.badfield),
   (ws.any fun v => !seqWordOk wn hn v, Rs.badfield),
   (sized && (List.range hn).any fun h => (ns.tensor (stHandle b h)).isNone, Rs.badref),
   (ws.any fun v => nbits v 7 0 == 4 && nbits v 13 12 == 1 && !handleLedgered ns prim (stHandle b (nbits v 31 16)), Rs.badref)]

/-- The conditions of a general-core image. -/
def imageReasons (ns : NS) (b : List Byte) : List (Bool × Nat) :=
  let tb := imText b
  let hn := imHandles b
  let sized := tb % 2 == 0 && decide (2 ≤ tb) && decide (tb ≤ 2 ^ 24) && imData b % 8 == 0 && imBss b % 8 == 0
    && imStack b % 16 == 0 && decide (1024 ≤ imStack b) && decide (hn ≤ 1024)
    && decide ((if imData b = 0 then imTextOff b + tb else imDataOff b + imData b) ≤ b.length)
  let hs := if sized then (List.range hn).map (imHandle b) else []
  [(!sized, Rs.badfield), (decide (tb ≤ leAt b 0x10 4) || leAt b 0x10 4 % 2 != 0, Rs.badfield),
   (leAt b 0x14 4 != 0xFFFFFFFF && (decide (tb ≤ leAt b 0x14 4) || leAt b 0x14 4 % 2 != 0), Rs.badfield),
   (decide (2 ^ 18 < imScratch b), Rs.badfield), (leAt b 0x1A 6 != 0, Rs.badfield),
   (hs.any fun h => decide (2 < nbits h 39 32) || nbits h 63 40 != 0, Rs.badfield),
   (hs.any fun h => match nbits h 39 32 with
      | 0 => (ns.tensor (nbits h 31 0)).isNone
      | 1 => (ns.queue (nbits h 31 0)).isNone
      | 2 => (ns.sync (nbits h 31 0)).isNone
      | _ => false, Rs.badref)]

/-- The conditions of a PROGRAMS entry (R489). -/
def progReason (ns prim : NS) (i : Nat) (e : List Byte) : Option Nat :=
  let off := leAt e 8 8
  let len := leAt e 4 4
  let inside := off % 16 == 0 && decide (16 * ns.progs.length ≤ off) && decide (off + len ≤ ns.progSec.length)
  let b := progBody ns i
  let k := leAt e 2 1
  lowestReason ([(decide (1 < k) || leAt e 3 1 != 0 || !inside, Rs.badfield),
    ((List.range ns.progs.length).any fun j =>
      j != i && overlaps (leAt (entAt ns.progs j) 8 8) (leAt (entAt ns.progs j) 4 4) off len, Rs.badfield),
    (dupId ns.progs 2 i e, Rs.badref)]
    ++ (if !inside then [] else if k = 0 then streamReasons ns prim b else if k = 1 then imageReasons ns b else []))

/-! ### Stages -/

def sgUnits (e : List Byte) : Nat × Nat × Nat := (leAt e 4 1, leAt e 5 1, leAt e 6 1)
def sgSeq (e : List Byte) : Nat := leAt e 8 2
def sgCore (e : List Byte) : Nat := leAt e 10 2
def sgMaxCtx (e : List Byte) : Nat := leAt e 12 2
def sgMaxLen (e : List Byte) : Nat := leAt e 0x10 4
def sgBpt (e : List Byte) : Nat := leAt e 0x14 4
def sgPool (e : List Byte) : Nat := leAt e 0x18 4
def sgColo (e : List Byte) : Nat := leAt e 0x28 2
def sgHost (e : List Byte) : Nat := leAt e 0x2A 2

/-- A set of NUMERICS is well formed (R201). -/
def numericsOk (fwd : Bool) (v : Nat) : Bool :=
  let f (c : Nat) : Bool := if c = 0 then !fwd else fmtWidth c != 0
  f (nbits v 7 0) && f (nbits v 15 8) && f (nbits v 23 16) && nbits v 63 50 == 0

/-- The sequencer stream and the image of a stage. -/
def sgStream (ns : NS) (e : List Byte) : Option (List Byte) :=
  match ns.prog (sgSeq e) with
  | some i => if progKind ns i = 0 then some (progBody ns i) else none
  | none => none

def sgImage (ns : NS) (e : List Byte) : Option (List Byte) :=
  match ns.prog (sgCore e) with
  | some i => if progKind ns i = 1 then some (progBody ns i) else none
  | none => none

/-- An input queue of a stage is allowed; 0xFFFF names no queue, whatever QUEUE_IDs there are (R110). -/
def inQueueOk (ns : NS) (v : Nat) : Bool :=
  v != 0xFFFF && match ns.queue v with
  | some i => let q := entAt ns.queues i; leAt q 2 1 == 0 && !qRemote q
  | none => false

/-- A cadence table: its stage, lag bound, slot words, header reserved field. -/
structure Cad where
  stage : Nat
  lag : Nat
  rsv : Nat
  slots : List Nat
  deriving DecidableEq, Repr

/-- The first `n` tables of a CADENCE section, and the bytes left; a table that would run past the section ends the walk. -/
def cadTables : Nat → List Byte → List Cad × List Byte
  | 0, b => ([], b)
  | n + 1, b =>
    let k := leAt b 2 2
    if b.length < 16 + 8 * k ∨ b.length < 16 then ([], b)
    else
      let t : Cad := ⟨leAt b 0 2, leAt b 4 4, leAt b 8 8, (List.range k).map fun i => leAt b (16 + 8 * i) 8⟩
      let (ts, r) := cadTables n (b.drop (16 + 8 * k))
      (t :: ts, r)

def NS.cads (ns : NS) : List Cad := (cadTables ns.cadCount ns.cadSec).1

def slKind (v : Nat) : Nat := nbits v 3 0
def slBudget (v : Nat) : Nat := nbits v 63 32

/-- The largest BACKHAUL budget of a stage's table; 0 when it has no such slot. -/
def hostBudget (ns : NS) (stage : Nat) : Nat :=
  (((ns.cads.filter fun t => t.stage == stage).map fun t => (t.slots.filter fun v => slKind v == 6).map slBudget).flatten).foldl
    max 0

/-- A stage's table holds a BACKHAUL slot. -/
def hasBackhaul (ns : NS) (stage : Nat) : Bool :=
  ns.cads.any fun t => t.stage == stage && t.slots.any fun v => slKind v == 6

/-- The conditions of a STAGES entry (R34, R38, R102, R147, R201, R256, and the section on stage queues). -/
def stageReason (ns prim : NS) (i : Nat) (e : List Byte) : Option Nat :=
  let (ne, nc, nu) := sgUnits e
  let pool := (ns.tensor (sgPool e)).map (entAt ns.tensors)
  let poolBytes := (pool.map tBytes).getD 0
  let stageRef (v : Nat) : Bool := v != 0xFFFF && (ns.stage v).isNone
  let queueRef (v : Nat) : Bool := v != 0xFFFF && (ns.queue v).isNone
  let host := prim.stage (sgHost e)
  let hostE := entAt prim.stages (host.getD 0)
  let both (f : List Byte → Nat) (a b : Option (List Byte)) : Nat := (a.map f).getD 0 + (b.map f).getD 0
  lowestReason ([
    (leAt e 2 2 / 8 != 0 || leAt e 7 1 != 0 || leAt e 0x0E 2 != 0 || leAt e 0x1C 4 != 0 || leAt e 0x2C 4 != 0, Rs.badfield),
    (sgMaxCtx e == 0 || decide (256 < sgMaxCtx e) || sgMaxLen e == 0 || sgBpt e % 64 != 0, Rs.badfield),
    (!numericsOk true (leAt e 0x30 8) || !numericsOk false (leAt e 0x38 8), Rs.badfield),
    (dupId ns.stages 2 i e, Rs.badref),
    (sgSeq e != 0xFFFF && (sgStream ns e).isNone, Rs.badref), (sgCore e != 0xFFFF && (sgImage ns e).isNone, Rs.badref),
    ((match pool with | some t => tRole t != 2 | none => true), Rs.badref),
    ((ns.stages.take i).any fun d => sgPool d == sgPool e, Rs.badref),
    (decide (poolBytes < sgMaxLen e * sgBpt e) && pool.isSome, Rs.maxlen),
    (!inQueueOk ns (leAt e 0x20 2) || leAt e 0x24 2 != 0xFFFF && !inQueueOk ns (leAt e 0x24 2), Rs.badref),
    (queueRef (leAt e 0x22 2) || queueRef (leAt e 0x26 2) || stageRef (sgColo e), Rs.badref)]
    ++ (if ns.bh then [
      (ne + nc + nu != 0, Rs.badfield), (host.isNone, Rs.badref),
      (host.isSome && (!hasBackhaul prim (sgHost e) || (ns.stages.take i).any fun d => sgHost d == sgHost e), Rs.backhaul),
      (host.isSome && (decide (8192 < both stWords (sgStream prim hostE) (sgStream ns e))
        || decide (2048 < both stHandles (sgStream prim hostE) (sgStream ns e))), Rs.engines),
      (host.isSome && (decide (2 ^ 18 < both imScratch (sgImage prim hostE) (sgImage ns e))
        || decide (2048 < both imHandles (sgImage prim hostE) (sgImage ns e))), Rs.cores)]
     else [
      (ne + nc == 0, Rs.badfield), (decide (16 < ne) || decide (32 < nc) || decide (4 < nu), Rs.diesplit),
      (sgHost e != 0xFFFF, Rs.badfield), (ne == 0 && sgSeq e != 0xFFFF || nc == 0 && sgCore e != 0xFFFF, Rs.badfield),
      (ne != 0 && sgSeq e == 0xFFFF || nc != 0 && sgCore e == 0xFFFF, Rs.badref)]))

/-! ### Queues, synchronisation objects, routes -/

def queueReason (ns : NS) (peers : List (Nat × Bool)) (i : Nat) (e : List Byte) : Option Nat :=
  let k := leAt e 2 1
  let rb := leAt e 4 4
  let rem := qRemote e
  let stageRef (v : Nat) : Bool := v != 0xFFFF && (ns.stage v).isNone
  lowestReason [
    (decide (2 < k) || leAt e 3 1 / 4 != 0 || leAt e 0x0F 1 != 0 || leAt e 0x1A 6 != 0, Rs.badfield),
    (rb % 256 != 0 || rb == 0 || decide (2 ^ 21 < rb) || k != 0 && decide (rb < 512), Rs.badfield),
    (if k = 2 then leAt e 0x0C 2 == 0 || decide (4096 < leAt e 0x0C 2) || decide (1 < leAt e 0x0E 1)
      else leAt e 0x0C 2 != 0 || leAt e 0x0E 1 != 0, Rs.badfield),
    (!rem && (leAt e 0x14 4 != 0xFFFFFFFF || leAt e 0x18 2 != 0xFFFF), Rs.badfield),
    (dupId ns.queues 2 i e || stageRef (leAt e 8 2) || !rem && stageRef (leAt e 10 2), Rs.badref),
    (rem && !peerIs peers (leAt e 0x14 4) false, Rs.badref)]

def syncReason (ns : NS) (i : Nat) (e : List Byte) : Option Nat :=
  let k := leAt e 2 1
  let n := leAt e 4 2
  lowestReason [
    (decide (1 < k) || leAt e 3 1 != 0 || leAt e 6 2 != 0, Rs.badfield),
    (if k = 1 then n == 0 || decide (4096 < n) || leAt e 8 8 != 0 else n != 0, Rs.badfield),
    (dupId ns.syncs 2 i e, Rs.badref)]

/-- The conditions of a ROUTES entry (R348, R352). -/
def routeReason (self : Nat) (routes : List (List Byte)) (i : Nat) (e : List Byte) : Option Nat :=
  let k := leAt e 0 1
  let v := leAt e 8 8
  let before := peersOf (routes.take i)
  let node := k == 0 || k == 3
  lowestReason [
    (decide (3 < k) || leAt e 1 1 != 0 || leAt e 4 4 != 0, Rs.badfield),
    (!node && (v / 2 ^ 18 != 0 || v.testBit 16 && v % 2 ^ 16 == 0), Rs.badfield),
    (!node && decide (511 < leAt e 2 2), Rs.routes),
    (node && (v / 2 ^ 18 != 0 || before.any (fun p => p.1 == v) || decide (262143 ≤ before.length)), Rs.routes),
    (k == 0 && v == self, Rs.routes)]

/-! ### Cadence tables (R68, R69, R99, R490) -/

/-- The offset of a slot as it is signed. -/
def slOffset (v : Nat) : Int := if slKind v = 1 then (nbits v 15 8 : Int) else sgn 8 (nbits v 15 8)

/-- A slot word obeys what R68 asks of it: reserved fields, KIND, PRED_EN and FLOOR. -/
def slotOk (v : Nat) : Bool :=
  let k := slKind v
  let fl := nbits v 28 24
  decide (k < 7) && nbits v 7 6 == 0 && nbits v 23 22 == 0 && nbits v 31 29 == 0 && (k == 1 || !v.testBit 4)
    && (if k = 0 ∨ k = 6 then fl == 0 else decide (1 ≤ fl) && decide (fl ≤ 16))

/-- The ranges of R67 that R68 does not name: BUDGET, and INDEX of the kinds that carry no offset. -/
def slotRange (v : Nat) : Bool :=
  let k := slKind v
  decide (1 ≤ slBudget v) && (!(k == 0 || k == 3 || k == 6) || nbits v 15 8 == 0)

/-- The FWD and BWD offsets of a table obey R68. -/
def offsetsOk (slots : List Nat) : Bool :=
  let f := (slots.filter fun v => slKind v == 1).map slOffset
  let b := (slots.filter fun v => slKind v == 2).map slOffset
  let nf := f.length
  let lo := b.foldl min (b.headD 0)
  (List.range nf).all (fun k => f.contains (k : Int)) && (b.isEmpty || b.length == nf)
    && (List.range b.length).all (fun k => b.contains (lo + k)) && b.all (fun j => decide (j < nf))
    && (List.range slots.length).all fun i =>
      let v := nth slots i 0
      slKind v != 2 || decide (slOffset v < 0) ||
        (slots.take i).any fun u => slKind u == 1 && slOffset u == slOffset v

/-- The depth D of a table (R99): at each FWD slot, the positions started and not completed. -/
def cadDepth (slots : List Nat) : Nat :=
  let b := (slots.filter fun v => slKind v == 2).map slOffset
  if b.isEmpty then 1 else
  let open0 := (-(b.foldl min (b.headD 0))).toNat
  ((List.range slots.length).map fun i =>
    if slKind (nth slots i 0) = 1 then
      open0 + ((slots.take (i + 1)).filter fun v => slKind v == 1).length
        - ((slots.take i).filter fun v => slKind v == 2).length
    else 0).foldl max 1

/-- The conditions of cadence table i. -/
def cadReason (ns prim : NS) (ts : List Cad) (i : Nat) (t : Cad) : Option Nat :=
  let sg := (ns.stage t.stage).map (entAt ns.stages)
  let e := sg.getD []
  let pool := sgPool e
  let off := ns.offloads.any fun o => leAt o 0 4 == pool
  let hosted := (match ns.stage t.stage with | some _ => true | none => false) && !ns.bh
  lowestReason [
    (t.rsv != 0 || t.slots.any (fun v => !slotOk v) || !offsetsOk t.slots, Rs.cadence),
    (t.slots.isEmpty || decide (256 < t.slots.length) || t.slots.any (fun v => !slotRange v), Rs.badfield),
    (sg.isNone, Rs.badref),
    ((ts.take i).any (fun u => u.stage == t.stage), Rs.cadence),
    (t.slots.any (fun v => (slKind v == 4 || slKind v == 5) && !off), Rs.cadence),
    (sg.isSome && decide (sgMaxCtx e < cadDepth t.slots) && !ns.bh, Rs.cadence),
    (ns.bh && t.slots.any (fun v => slKind v == 0 || slKind v == 6 || slKind v == 4 || slKind v == 5
      || nbits v 28 24 != 16 || decide (hostBudget prim (sgHost e) < slBudget v)), Rs.cadence),
    (hosted && t.lag == 0 && t.slots.any (fun v => slKind v == 6), Rs.cadence)]

/-- A primary table's BACKHAUL slots are allowed without a hosted backhaul stage only with a lag bound (R68). -/
def cadHosted (bhNs : NS) (t : Cad) : Bool := bhNs.stages.any fun d => sgHost d == t.stage

/-- The reason for a table that runs past its section (R490): the lowest of its own (R44), from the header and the slots
that lie inside the section. -/
def cadOverrun (ns : NS) (b : List Byte) : Nat :=
  if b.length < 16 then Rs.cadence
  else
    let slots := (List.range ((b.length - 16) / 8)).map fun i => leAt b (16 + 8 * i) 8
    (lowestReason [(decide (256 < leAt b 2 2) || slots.any (fun v => !slotRange v), Rs.badfield),
      ((ns.stage (leAt b 0 2)).isNone, Rs.badref)]).getD Rs.cadence

/-- The CADENCE section of a namespace (R490). -/
def cadCheck (ns prim bhNs : NS) : Option Refuse :=
  let sect := if ns.bh then 0x8006 else 6
  let (ts, rest) := cadTables ns.cadCount ns.cadSec
  let check (i : Nat) (t : Cad) : Option Nat :=
    cadReason ns prim ts i (if cadHosted bhNs t then { t with lag := max 1 t.lag } else t)
  match firstBad sect check 0 ts with
  | some r => some r
  | none =>
    if ts.length < ns.cadCount then some ⟨cadOverrun ns rest, sect, ts.length⟩
    else if 16 ≤ rest.length ∨ !allZero rest then some ⟨Rs.cadence, sect, ns.cadCount⟩
    else
      firstBad (if ns.bh then 0x8002 else 2)
        (fun _ e => if ts.any (fun t => t.stage == leAt e 0 2) then none else some Rs.cadence) 0 ns.stages

/-! ### Tensors, ledgers, rules, offload -/

/-- A block-scale descriptor is well formed and its tiles fill the bytes (R183). -/
def scaleOk (fmt v bytes : Nat) : Bool :=
  let (bs, bd, _, r, c) := bsFields v
  let (e, k) := bsTileBytes fmt v
  decide (1 ≤ bs) && decide (bs ≤ 5) && decide (bd ≤ 2) && nbits v 7 6 == 0 && nbits v 63 32 == 0
    && r % 64 == 0 && decide (64 ≤ r) && decide (r ≤ 1024) && c % 64 == 0 && decide (64 ≤ c) && decide (c ≤ 1024)
    && bytes % (e + k) == 0

/-- A backhaul tensor that names a primary weight shard (R40). -/
def aliasTensor (ns : NS) (e : List Byte) : Bool :=
  ns.bh && tRole e == 0 && tReadOnly e && (ns.ledger (leAt e 0 4)).isNone

def tensorReason (ns prim : NS) (i : Nat) (e : List Byte) : Option Nat :=
  let id := leAt e 0 4
  let role := tRole e
  lowestReason [
    (role == 1 || decide (6 < role) || decide (2 < tHint e) || fmtWidth (tFmt e) == 0 || leAt e 7 1 / 16 != 0, Rs.badfield),
    (tBytes e == 0 || leAt e 0x12 2 != 0 || leAt e 0x14 4 != 0 || leAt e 0x38 8 != 0 || tZero e && tFetch e, Rs.badfield),
    (tScale e != 0 && !scaleOk (tFmt e) (tScale e) (tBytes e), Rs.badfield),
    (role == 2 && tBytes e % 2048 != 0, Rs.badfield),
    (dupId ns.tensors 4 i e || tNear e != 0xFFFF && (ns.stage (tNear e)).isNone, Rs.badref),
    (aliasTensor ns e && (match prim.tensor id with
      | some t => tRole (entAt prim.tensors t) != 0
      | none => true), Rs.badref),
    (role == 0 && tOwner e && (ns.ledger id).isNone, Rs.ledger)]

/-- The tensors that the handle tables of a stage's programs name. -/
def stageTensors (ns : NS) (e : List Byte) : List Nat :=
  let st := match sgStream ns e with | some b => (List.range (stHandles b)).map (stHandle b) | none => []
  let im := match sgImage ns e with
    | some b => ((List.range (imHandles b)).map (imHandle b)).filter (fun h => nbits h 39 32 == 0) |>.map fun h => nbits h 31 0
    | none => []
  st ++ im

/-- The shard set of a stage, as indices in LEDGERS order, primary ledgers first (R146, R40). -/
def shardSet (ns prim : NS) (e : List Byte) : List Nat :=
  let ids := stageTensors ns e
  let own := (List.range ns.ledgers.length).filter fun l => ids.contains (leAt (entAt ns.ledgers l) 0 4)
  if ns.bh then
    let read := (List.range prim.ledgers.length).filter fun l =>
      let id := leAt (entAt prim.ledgers l) 0 4
      ids.contains id && (match ns.tensor id with | some t => aliasTensor ns (entAt ns.tensors t) | none => false)
    read ++ own.map fun l => prim.ledgers.length + l
  else own

/-- The lowest ledger that is the 65th one of the shard set of a stage of either namespace (R119). -/
def shardOverflow (prim bh : NS) : Option Nat :=
  ((prim.stages.filterMap fun e => (shardSet prim prim e)[64]?) ++ (bh.stages.filterMap fun e => (shardSet bh prim e)[64]?)).foldl
    (fun (m : Option Nat) (l : Nat) => match m with | some k => some (min k l) | none => some l) none

/-- The conditions of a LEDGERS entry (R119, R489); `bh` is the backhaul namespace. -/
def ledgerReason (ns prim bh : NS) (peers : List (Nat × Bool)) (i : Nat) (e : List Byte) : Option Nat :=
  let id := leAt e 0 4
  let t := (ns.tensor id).map (entAt ns.tensors)
  let te := t.getD []
  let depth := leAt e 4 1
  let own := leAt e 8 4
  let base := if ns.bh then prim.ledgers.length else 0
  lowestReason [
    (depth == 0 || decide (32 < depth) || leAt e 5 3 != 0 || leAt e 0x0C 4 != 0, Rs.badfield),
    (t.isNone || dupId ns.ledgers 4 i e || own != 0xFFFFFFFF && !peerIs peers own false, Rs.badref),
    (t.isSome && (tRole te != 0 || tHint te != 0 || (own == 0xFFFFFFFF) != tOwner te), Rs.ledger),
    (t.isSome && tOwner te && (ns.ruleOf id).isNone || depth == 1 && (ns.ruleOf id).isSome, Rs.ledger),
    (decide (65536 ≤ i) || shardOverflow prim bh == some (base + i), Rs.ledger)]

/-- The binding of a RULES entry. -/
def bindingOf (ns : NS) (e : List Byte) : Binding :=
  let t := entAt ns.tensors ((ns.tensor (leAt e 0 4)).getD 0)
  let g := entAt ns.tensors ((ns.tensor (leAt e 0x0C 4)).getD 0)
  { rule := leAt e 4 1, moment := leAt e 5 1, copy := leAt e 6 1, rounding := leAt e 7 1
    gradFmt := tFmt g, gradBs := tScale g, shardBs := tScale t, count := tElems t, rows := tDim t 1, cols := tDim t 0 }

/-- The index of the primary stage that is the update stage of a shard: the lowest STAGE_ID with update engines whose shard
set holds it; for a backhaul shard, the host of such a backhaul stage (R227, R228). -/
def updateStage (ns prim : NS) (ledgerIx : Nat) : Option Nat :=
  let cands := (List.range ns.stages.length).filterMap fun i =>
    let e := entAt ns.stages i
    let hostIx := if ns.bh then prim.stage (sgHost e) else some i
    match hostIx with
    | some h => if (shardSet ns prim e).contains ledgerIx && decide (1 ≤ (sgUnits (entAt prim.stages h)).2.2) then
        some (leAt e 0 2, h) else none
    | none => none
  (cands.foldl (fun (m : Option (Nat × Nat)) (c : Nat × Nat) => match m with
    | some b => if c.1 < b.1 then some c else some b
    | none => some c) none).map fun c => c.2

def ruleReason (ns prim : NS) (repro : Bool) (i : Nat) (e : List Byte) : Option Nat :=
  let id := leAt e 0 4
  let t := (ns.tensor id).map (entAt ns.tensors)
  let te := t.getD []
  let h := (ns.tensor (leAt e 8 4)).map (entAt ns.tensors)
  let he := h.getD []
  let g := (ns.tensor (leAt e 0x0C 4)).map (entAt ns.tensors)
  let ge := g.getD []
  let b := bindingOf ns e
  let fl (f : Nat) : Bool := f == 4 || f == 5 || f == 6 || f == 7 || f == 8
  let base := if ns.bh then prim.ledgers.length else 0
  let known := t.isSome && g.isSome && h.isSome
  lowestReason [
    (b.rule == 0 || decide (10 < b.rule) || decide (2 < b.moment) || fmtWidth b.copy == 0 || decide (2 < b.rounding)
      || !allZero (slice e 0x10 16), Rs.badfield),
    (t.isNone || h.isNone || g.isNone || tRole te != 0 || !tOwner te || tRole ge != 3 || dupId ns.rules 4 i e, Rs.badref),
    (known && (match ns.ledger id with | some l => (updateStage ns prim (base + l)).isNone | none => true), Rs.updeng),
    (known && (!fl b.copy || b.copy != tFmt te || !fl b.gradFmt || (List.range 4).any fun k => tDim ge k != tDim te k), Rs.rule),
    (known && b.moment == 2 && b.count % 64 != 0, Rs.rule),
    (known && b.rule == 9 && (b.moment != 0 || tScale te != 0 || tDim te 2 != 1 || tDim te 3 != 1), Rs.rule),
    (known && (tRole he != 6 || decide (tBytes he < 64)), Rs.rule),
    (b.rounding == 2 && (repro || b.copy == 8 && b.moment == 0), Rs.rule)]

def offloadReason (ns : NS) (peers : List (Nat × Bool)) (i : Nat) (e : List Byte) : Option Nat :=
  let tgt := leAt e 4 1
  lowestReason [
    (decide (2 < tgt) || leAt e 5 1 == 0 || leAt e 6 2 != 0 || leAt e 0x0C 4 != 0, Rs.badfield),
    ((match ns.tensor (leAt e 0 4) with | some t => tRole (entAt ns.tensors t) != 2 | none => true)
      || tgt == 1 && !peerIs peers (leAt e 8 4) true || tgt == 2 && !peerIs peers (leAt e 8 4) false, Rs.badref),
    (leAt e 0x10 8 % 2048 != 0 || leAt e 0x18 8 % 2048 != 0 || dupId ns.offloads 4 i e || decide (128 ≤ i), Rs.offload)]

/-! ### The whole check (R44) -/

/-- A parsed manifest. -/
structure Mnf where
  prim : NS
  bhNs : NS
  jobId : Nat
  role : Nat
  count : Nat
  flags : Nat
  deriving DecidableEq, Repr

/-- The manifest digest: SM3 with the DIGEST field taken as zero (R53). -/
def mnfDigest (bs : List Byte) : List Byte := sm3 (bs.take 0x40 ++ zeroBytes 32 ++ bs.drop 0x60)

/-- Step 4: the header, field by field. -/
def headerReason (bs : List Byte) : Option Nat :=
  if leAt bs 0 8 ≠ 0x5453464E4D564D4C ∨ leAt bs 0xC 4 ≠ 256 then some Rs.badmagic
  else if leAt bs 0xA 2 ≠ 1 ∨ leAt bs 8 2 ≠ 0 then some Rs.badversion
  else if leAt bs 0x10 8 % 16 ≠ 0 ∨ leAt bs 0x10 8 < 256 ∨ 2 ^ 31 < leAt bs 0x10 8 then some Rs.badlength
  else if leAt bs 0x18 8 = 0 then some Rs.badfield
  else if leAt bs 0x20 4 < 4 ∨ 11 < leAt bs 0x20 4 then some Rs.baddir
  else if leAt bs 0x24 4 / 8 ≠ 0 then some Rs.badfield
  else if 262143 < leAt bs 0x28 4 ∨ leAt bs 0x2C 4 = 0 ∨ 262144 < leAt bs 0x2C 4 ∨ leAt bs 0x2C 4 ≤ leAt bs 0x28 4 then
    some Rs.badfield
  else if !allZero (slice bs 0x30 16) || !allZero (slice bs 0x60 160) then some Rs.badfield
  else none

/-- Steps 4 to 8: the header, the length, the digest, the directories, the guest. -/
def headCheck (bs : List Byte) (guestPart : Bool) : Option Refuse :=
  match headerReason bs with
  | some r => some ⟨r, 0, noEntry⟩
  | none =>
    if leAt bs 0x10 8 ≠ bs.length then some ⟨Rs.badlength, 0, noEntry⟩
    else if slice bs 0x40 32 ≠ mnfDigest bs then some ⟨Rs.baddigest, 0, noEntry⟩
    else
      let n := leAt bs 0x20 4
      let ds := dirsAt bs 0x100 n
      match dirCheck 0 false (0x100 + 32 * n) bs.length ds with
      | some r => some r
      | none =>
        let nest := match ds.find? fun d => d.typ == 11 with
          | none => none
          | some d =>
            let sec := slice bs d.off d.len
            let k := leAt sec 0 4
            if k < 4 ∨ 8 < k ∨ sec.length < 16 then some ⟨Rs.baddir, 0xB, noEntry⟩
            else dirCheck 0xB true (0x10 + 32 * k) sec.length (dirsAt sec 0x10 k)
        match nest with
        | some r => some r
        | none =>
          if (leAt bs 0x24 4).testBit 1 && !guestPart then some ⟨Rs.guest, 0, noEntry⟩ else none

/-- The sections of a manifest whose directories have passed. -/
def mnfOf (bs : List Byte) : Mnf :=
  let ds := dirsAt bs 0x100 (leAt bs 0x20 4)
  let bh := match ds.find? fun d => d.typ == 11 with
    | none => emptyNS true
    | some d =>
      let sec := slice bs d.off d.len
      nsOf true sec (dirsAt sec 0x10 (leAt sec 0 4))
  ⟨nsOf false bs ds, bh, leAt bs 0x18 8, leAt bs 0x28 4, leAt bs 0x2C 4, leAt bs 0x24 4⟩

/-- The first of the checks that refuses. -/
def firstRefuse : List (Option Refuse) → Option Refuse
  | [] => none
  | some r :: _ => some r
  | none :: rs => firstRefuse rs

/-- Step 9 for one namespace: every section's entries, in ascending section type. -/
def nsCheck (m : Mnf) (self : Nat) (ns : NS) : Option Refuse :=
  let b := if ns.bh then 0x8000 else 0
  let peers := peersOf m.prim.routes
  firstRefuse [
    firstBad (b + 1) (progReason ns m.prim) 0 ns.progs,
    firstBad (b + 2) (stageReason ns m.prim) 0 ns.stages,
    firstBad (b + 3) (queueReason ns peers) 0 ns.queues,
    firstBad (b + 4) (syncReason ns) 0 ns.syncs,
    firstBad (b + 5) (routeReason self ns.routes) 0 ns.routes,
    cadCheck ns m.prim m.bhNs,
    firstBad (b + 7) (tensorReason ns m.prim) 0 ns.tensors,
    firstBad (b + 8) (ledgerReason ns m.prim m.bhNs peers) 0 ns.ledgers,
    firstBad (b + 9) (ruleReason ns m.prim (m.flags.testBit 2)) 0 ns.rules,
    firstBad (b + 10) (offloadReason ns peers) 0 ns.offloads]

/-- The header of a BACKHAUL section has zero reserved bytes. -/
def bhHeaderCheck (bs : List Byte) : Option Refuse :=
  match (dirsAt bs 0x100 (leAt bs 0x20 4)).find? fun d => d.typ == 11 with
  | none => none
  | some d => if allZero (slice bs (d.off + 4) 12) then none else some ⟨Rs.badfield, 0xB, 0⟩

/-- Steps 4 to 9 of the fit check (R44). -/
def fitCheck (bs : List Byte) (guestPart : Bool) (self : Nat) : Option Refuse :=
  match headCheck bs guestPart with
  | some r => some r
  | none =>
    let m := mnfOf bs
    firstRefuse [nsCheck m self m.prim, bhHeaderCheck bs, nsCheck m self m.bhNs]

end Sys2Proof.Machine
end

