-- ==== Sys2Proof/Machine/Placement.lean ====
section
/-!
DEFINITION. Placement (R48 to R51) and the placement report's records (R53): a function of the manifest alone.
-/

namespace Sys2Proof.Machine

/-- A placed stage: namespace, STAGES index, die, context, and its first engine, core and update engine on the die. -/
structure StPl where
  bh : Bool
  ix : Nat
  die : Nat
  ctx : Nat
  eng : Nat
  cor : Nat
  upd : Nat
  deriving DecidableEq, Repr

/-- A placed object of another kind: namespace, entry index, package index or address, and a second number (the ring address,
the bytes allocated, the stride). -/
structure ObPl where
  bh : Bool
  ix : Nat
  at_ : Nat
  aux : Nat
  deriving DecidableEq, Repr

/-- Placement in progress: what is in use on each die (queues: the hub's last), the granules and LPDDR in use, the objects
placed, the records, and whether a tensor was demoted. -/
structure Plc where
  ctxs : List Nat := [0, 0, 0, 0]
  engs : List Nat := [0, 0, 0, 0]
  cors : List Nat := [0, 0, 0, 0]
  upds : List Nat := [0, 0, 0, 0]
  qs : List Nat := [0, 0, 0, 0, 0]
  blocks : List Nat := [0, 0, 0, 0]
  grans : List Nat := [0, 0, 0, 0]
  mss : List Nat := [0, 0, 0, 0]
  bars : List Nat := [0, 0, 0, 0]
  lp : Nat := 0
  stages : List StPl := []
  queues : List ObPl := []
  syncs : List ObPl := []
  tensors : List ObPl := []
  texts : List ObPl := []
  ledgers : List ObPl := []
  recs : List (List Byte) := []
  demoted : Bool := false
  deriving DecidableEq, Repr

/-- Bytes of a die's operand store that placement may use (R42): 190 MiB, 95 granules of 2 MiB. -/
def placeSram : Nat := 190 * 2 ^ 20

/-- Bytes of LPDDR that placement may use: 764 GiB. -/
def placeLpddr : Nat := 764 * 2 ^ 30

def addNth (l : List Nat) (i k : Nat) : List Nat := setNth l i (nth l i 0 + k)

/-- A record of the report: KIND, FLAGS, logical ID, body (R53). -/
def plRec (kind : Nat) (bh demoted : Bool) (id : Nat) (body : List Byte) : List Byte :=
  toBytes 1 kind ++ toBytes 1 ((if bh then 1 else 0) + (if demoted then 2 else 0)) ++ zeroBytes 2 ++ toBytes 4 id
    ++ fitBytes 24 body

def Mnf.ns (m : Mnf) (bh : Bool) : NS := if bh then m.bhNs else m.prim

/-- A fold that stops at the first refusal. -/
def placeAll {α : Type} (f : Plc → α → Except Refuse Plc) (p : Plc) (l : List α) : Except Refuse Plc :=
  l.foldl (fun (r : Except Refuse Plc) (x : α) => match r with
    | .ok p => f p x
    | .error e => .error e) (.ok p)

/-- Indices of entries, sorted by a key, stable. -/
def ixBy (es : List (List Byte)) (key : List Byte → Nat) : List Nat :=
  sortBy (fun i => key (entAt es i)) (List.range es.length)

/-! ### Step 1: primary stages -/

/-- The index of the stage that a stage names in COLOCATE; 0xFFFF names none, whatever STAGE_IDs there are (R48). -/
def coloOf (ns : NS) (i : Nat) : Option Nat :=
  let v := sgColo (entAt ns.stages i)
  if v = 0xFFFF then none else ns.stage v

/-- The stages reached by following COLOCATE, at most `n` of them. -/
def coloChain (ns : NS) : Nat → Nat → List Nat
  | 0, _ => []
  | n + 1, i => match coloOf ns i with
    | some j => j :: coloChain ns n j
    | none => []

def sgId (ns : NS) (i : Nat) : Nat := leAt (entAt ns.stages i) 0 2

/-- A stage is a root (R48). -/
def isRoot (ns : NS) (i : Nat) : Bool :=
  let ch := coloChain ns ns.stages.length i
  match ch with
  | [] => true
  | j :: _ => j == i || (ch.contains i && (ch.takeWhile fun k => k != i).all fun k => decide (sgId ns i ≤ sgId ns k))

/-- Free units and contexts of a die, as the tests of R48 in order: the first reason that fails. -/
def dieLacks (p : Plc) (n : Nat) (u : Nat × Nat × Nat) : Option Nat :=
  if 32 ≤ nth p.ctxs n 0 then some Rs.stages
  else if 16 < nth p.engs n 0 + u.1 then some Rs.engines
  else if 32 < nth p.cors n 0 + u.2.1 then some Rs.cores
  else if 4 < nth p.upds n 0 + u.2.2 then some Rs.updeng
  else none

/-- The dies ranked by most free engines, then most free cores, then lowest index. -/
def dieRank (p : Plc) : List Nat :=
  sortBy (fun n => nth p.engs n 0 * 64 + nth p.cors n 0) [0, 1, 2, 3]

/-- Bits `lo` to `lo + n - 1`. -/
def maskRun (lo n : Nat) : Nat := (2 ^ n - 1) * 2 ^ lo

/-- Put a stage on a die. -/
def putStage (m : Mnf) (p : Plc) (i n : Nat) : Plc :=
  let u := sgUnits (entAt m.prim.stages i)
  let st : StPl := ⟨false, i, n, nth p.ctxs n 0, nth p.engs n 0, nth p.cors n 0, nth p.upds n 0⟩
  let r := plRec 1 false false (sgId m.prim i) (toBytes 1 n ++ toBytes 1 st.ctx ++ toBytes 1 (maskRun st.upd u.2.2)
    ++ zeroBytes 1 ++ toBytes 4 (maskRun st.cor u.2.1) ++ toBytes 2 (maskRun st.eng u.1))
  { p with
    ctxs := addNth p.ctxs n 1, engs := addNth p.engs n u.1, cors := addNth p.cors n u.2.1, upds := addNth p.upds n u.2.2
    stages := p.stages ++ [st], recs := p.recs ++ [r] }

/-- Place one primary stage. -/
def placeStage (m : Mnf) (p : Plc) (i : Nat) : Except Refuse Plc :=
  let u := sgUnits (entAt m.prim.stages i)
  let named := if isRoot m.prim i then none else
    (coloOf m.prim i).bind fun j => (p.stages.find? fun st => st.ix == j && !st.bh).map (·.die)
  let here := match named with
    | some n => if (dieLacks p n u).isNone then some n else none
    | none => none
  match here with
  | some n => .ok (putStage m p i n)
  | none =>
    match (dieRank p).find? fun n => (dieLacks p n u).isNone with
    | some n => .ok (putStage m p i n)
    | none => .error ⟨(dieLacks p ((dieRank p).headD 0) u).getD Rs.stages, 2, i⟩

/-- Place a stage, then those that colocate with it, each followed by its own. -/
def placeTree (m : Mnf) : Nat → Plc → Nat → Except Refuse Plc
  | 0, p, _ => .ok p
  | f + 1, p, i =>
    match placeStage m p i with
    | .error e => .error e
    | .ok p =>
      placeAll (placeTree m f) p ((ixBy m.prim.stages (fun e => leAt e 0 2)).filter fun j =>
        !isRoot m.prim j && coloOf m.prim j == some i)

def placeStages (m : Mnf) (p : Plc) : Except Refuse Plc :=
  placeAll (placeTree m m.prim.stages.length) p
    ((ixBy m.prim.stages (fun e => leAt e 0 2)).filter (isRoot m.prim))

/-! ### Steps 2 to 4 -/

/-- The placement of a primary stage by STAGE_ID. -/
def stagePl (m : Mnf) (p : Plc) (bh : Bool) (id : Nat) : Option StPl :=
  p.stages.find? fun st => st.bh == bh && sgId (m.ns bh) st.ix == id

/-- Step 2: one backhaul stage. -/
def placeBackhaul (m : Mnf) (p : Plc) (i : Nat) : Except Refuse Plc :=
  let e := entAt m.bhNs.stages i
  match stagePl m p false (sgHost e) with
  | none => .error ⟨Rs.badref, 0x8002, i⟩
  | some h =>
    if 32 ≤ nth p.ctxs h.die 0 then .error ⟨Rs.stages, 0x8002, i⟩
    else
      let st : StPl := ⟨true, i, h.die, nth p.ctxs h.die 0, h.eng, h.cor, h.upd⟩
      .ok { p with
        ctxs := addNth p.ctxs h.die 1, stages := p.stages ++ [st]
        recs := p.recs ++ [plRec 1 true false (leAt e 0 2) (toBytes 1 st.die ++ toBytes 1 st.ctx)] }

/-- The consumer stage of a queue; 0xFFFF is job software (R48). -/
def consumerPl (m : Mnf) (p : Plc) (bh : Bool) (e : List Byte) : Option StPl :=
  if leAt e 10 2 = 0xFFFF then none else stagePl m p bh (leAt e 10 2)

/-- Step 3: one queue. -/
def placeQueue (m : Mnf) (p : Plc) (x : Bool × Nat) : Except Refuse Plc :=
  let ns := m.ns x.1
  let e := entAt ns.queues x.2
  let sect := if x.1 then 0x8003 else 3
  if qRemote e then .ok p
  else
    let die := ((consumerPl m p x.1 e).map (·.die)).getD 0
    let slot := if qHub e then 4 else die
    let n := if qHub e then 0 else die
    let k := nth p.qs slot 0
    if (if qHub e then 256 else 1024) ≤ k then .error ⟨Rs.queues, sect, x.2⟩
    else
      let rb := leAt e 4 4
      let off := roundUp (nth p.blocks n 0) 256
      if placeSram < off + rb + rb / 16 then .error ⟨Rs.sram, sect, x.2⟩
      else
        let q := if qHub e then 4096 + k else die * 1024 + k
        let a := sramBase n + off
        .ok { p with
          qs := addNth p.qs slot 1, blocks := setNth p.blocks n (off + rb + rb / 16)
          queues := p.queues ++ [⟨x.1, x.2, q, a⟩]
          recs := p.recs ++ [plRec 2 x.1 false (leAt e 0 2) (toBytes 2 q ++ zeroBytes 2 ++ toBytes 4 rb ++ toBytes 8 a)] }

/-- The first die with fewer than `lim` objects in use. -/
def dieWith (l : List Nat) (lim : Nat) : Option Nat := [0, 1, 2, 3].find? fun n => decide (nth l n 0 < lim)

/-- Step 4: one synchronisation object. -/
def placeSync (m : Mnf) (p : Plc) (x : Bool × Nat) : Except Refuse Plc :=
  let e := entAt (m.ns x.1).syncs x.2
  let bar := leAt e 2 1 == 1
  let lim := if bar then 256 else 4096
  let l := if bar then p.bars else p.mss
  match dieWith l lim with
  | none => .error ⟨Rs.sync, if x.1 then 0x8004 else 4, x.2⟩
  | some n =>
    let k := n * lim + nth l n 0
    let p := if bar then { p with bars := addNth p.bars n 1 } else { p with mss := addNth p.mss n 1 }
    .ok { p with
      syncs := p.syncs ++ [⟨x.1, x.2, k, 0⟩]
      recs := p.recs ++ [plRec 3 x.1 false (leAt e 0 2) (toBytes 2 k ++ toBytes 1 (leAt e 2 1))] }

/-! ### Steps 5 and 6 -/

/-- A tensor takes storage of its own: it has no ledger and names no primary shard (R35, R40). -/
def takesStorage (ns : NS) (e : List Byte) : Bool := (ns.ledger (leAt e 0 4)).isNone && !aliasTensor ns e

/-- Tensors with a hint, in descending BYTES, ties to ascending TENSOR_ID and then primary before backhaul. -/
def hinted (m : Mnf) (hint : Nat) : List (Bool × Nat) :=
  let all := ((List.range m.prim.tensors.length).map fun i => (false, i)) ++
    (List.range m.bhNs.tensors.length).map fun i => (true, i)
  let ent (x : Bool × Nat) : List Byte := entAt (m.ns x.1).tensors x.2
  let sel := all.filter fun x => tHint (ent x) == hint && takesStorage (m.ns x.1) (ent x)
  let top := (sel.map fun x => tBytes (ent x)).foldl max 0
  sortBy (fun x => top - tBytes (ent x)) (sortBy (fun x => leAt (ent x) 0 4) sel)

/-- Free granules of a die. -/
def freeGrans (p : Plc) (n : Nat) : Nat := 95 - nth p.grans n 0

/-- The die with the most free granules, ties to the lowest. -/
def roomiest (p : Plc) : Nat := (sortBy (fun n => nth p.grans n 0) [0, 1, 2, 3]).headD 0

/-- Step 5: one tensor; a HINT 1 tensor that does not fit is left for LPDDR. -/
def placeSramTensor (m : Mnf) (p : Plc) (x : Bool × Nat) : Except Refuse Plc :=
  let e := entAt (m.ns x.1).tensors x.2
  let n := match stagePl m p x.1 (tNear e) with
    | some st => if tNear e = 0xFFFF then roomiest p else st.die
    | none => roomiest p
  let k := ceilDiv (tBytes e) (2 ^ 21)
  if freeGrans p n < k then
    if tHint e = 2 then .error ⟨Rs.sram, if x.1 then 0x8007 else 7, x.2⟩ else .ok { p with demoted := true }
  else
    let a := sramBase n + nth p.grans n 0 * 2 ^ 21
    .ok { p with
      grans := addNth p.grans n k
      tensors := p.tensors ++ [⟨x.1, x.2, a, k * 2 ^ 21⟩]
      recs := p.recs ++ [plRec 4 x.1 false (leAt e 0 4) (zeroBytes 8 ++ toBytes 8 a ++ toBytes 8 (k * 2 ^ 21))] }

/-- Take a run of LPDDR granules; its address. -/
def takeLp (p : Plc) (n : Nat) : Option (Nat × Plc) :=
  let k := roundUp n 2048
  if placeLpddr < p.lp + k then none else some (p.lp, { p with lp := p.lp + k })

/-- First pass of step 6: the text of one image. -/
def placeText (m : Mnf) (p : Plc) (x : Bool × Nat) : Except Refuse Plc :=
  match takeLp p (imText (progBody (m.ns x.1) x.2)) with
  | none => .error ⟨Rs.lpddr, if x.1 then 0x8001 else 1, x.2⟩
  | some (a, p) => .ok { p with texts := p.texts ++ [⟨x.1, x.2, a, 0⟩] }

/-- Second pass: one tensor. -/
def placeLpTensor (m : Mnf) (p : Plc) (x : Bool × Nat) : Except Refuse Plc :=
  let e := entAt (m.ns x.1).tensors x.2
  match takeLp p (tBytes e) with
  | none => .error ⟨Rs.lpddr, if x.1 then 0x8007 else 7, x.2⟩
  | some (a, p) =>
    let n := roundUp (tBytes e) 2048
    .ok { p with
      tensors := p.tensors ++ [⟨x.1, x.2, a, n⟩]
      recs := p.recs ++ [plRec 4 x.1 (tHint e == 1) (leAt e 0 4) (toBytes 1 1 ++ zeroBytes 7 ++ toBytes 8 a ++ toBytes 8 n)] }

/-- The slot stride of a ledger (R116): the shard and its rule's state, or the shard alone for a replica. -/
def strideOf (ns : NS) (e : List Byte) : Nat :=
  let t := entAt ns.tensors ((ns.tensor (leAt e 0 4)).getD 0)
  match ns.ruleOf (leAt e 0 4) with
  | some r => roundUp (regionsOf (bindingOf ns (entAt ns.rules r)) (tBytes t)).last 2048
  | none => roundUp (tBytes t) 2048

/-- Third pass: one ledger. -/
def placeLedger (m : Mnf) (p : Plc) (x : Bool × Nat) : Except Refuse Plc :=
  let ns := m.ns x.1
  let e := entAt ns.ledgers x.2
  let st := strideOf ns e
  let d := leAt e 4 1
  match takeLp p (4096 + d * st) with
  | none => .error ⟨Rs.lpddr, if x.1 then 0x8008 else 8, x.2⟩
  | some (a, p) => .ok { p with
      ledgers := p.ledgers ++ [⟨x.1, x.2, a, st⟩]
      recs := p.recs ++ [plRec 5 x.1 false (leAt e 0 4) (toBytes 1 d ++ zeroBytes 7 ++ toBytes 8 a ++ toBytes 8 st)] }

/-- The entries of both namespaces, primary first, each in ascending order of its key. -/
def bothBy (m : Mnf) (es : NS → List (List Byte)) (key : List Byte → Nat) : List (Bool × Nat) :=
  ((ixBy (es m.prim) key).map fun i => (false, i)) ++ (ixBy (es m.bhNs) key).map fun i => (true, i)

/-- The tensors of the second pass. -/
def lpTensors (m : Mnf) (p : Plc) : List (Bool × Nat) :=
  (bothBy m (·.tensors) (fun e => leAt e 0 4)).filter fun x =>
    let e := entAt (m.ns x.1).tensors x.2
    takesStorage (m.ns x.1) e && (tHint e == 0 ||
      (tHint e == 1 && !p.tensors.any fun t => t.bh == x.1 && t.ix == x.2))

/-- One step after another, while none refuses. -/
def andThen (r : Except Refuse Plc) (f : Plc → Except Refuse Plc) : Except Refuse Plc :=
  match r with
  | .ok p => f p
  | .error e => .error e

/-- Placement (R48). -/
def place (m : Mnf) : Except Refuse Plc :=
  let r := placeStages m {}
  let r := andThen r fun p => placeAll (placeBackhaul m) p (ixBy m.bhNs.stages fun e => leAt e 0 2)
  let r := andThen r fun p => placeAll (placeQueue m) p (bothBy m (·.queues) fun e => leAt e 0 2)
  let r := andThen r fun p => placeAll (placeSync m) p (bothBy m (·.syncs) fun e => leAt e 0 2)
  let r := andThen r fun p => .ok { p with grans := p.blocks.map fun b => ceilDiv b (2 ^ 21) }
  let r := andThen r fun p => placeAll (placeSramTensor m) p (hinted m 2)
  let r := andThen r fun p => placeAll (placeSramTensor m) p (hinted m 1)
  let r := andThen r fun p => placeAll (placeText m) p ((bothBy m (·.progs) fun e => leAt e 0 2).filter fun x =>
    progKind (m.ns x.1) x.2 == 1)
  let r := andThen r fun p => placeAll (placeLpTensor m) p (lpTensors m p)
  andThen r fun p => placeAll (placeLedger m) p
    (((List.range m.prim.ledgers.length).map fun i => (false, i)) ++ (List.range m.bhNs.ledgers.length).map fun i => (true, i))

end Sys2Proof.Machine
end

