-- ==== Sys2Proof/Machine/Rings.lean ====
section
/-!
DEFINITION. Command rings and mailboxes below the bus (R384 to R405): doorbells, indices, states, completions, mailbox
channels. The operations of the rings are in Commands.lean.
-/

namespace Sys2Proof.Machine

/-! ### Rings -/

def State.setRing (s : State) (r : Nat) (x : Ring) : State := { s with rings := s.rings.set r x {} }

def State.setRingState (s : State) (r st : Nat) : State := s.wrB (Reg.CMD_RING_STATUS r) 1 0 st
def State.ringPI (s : State) (r : Nat) : Nat := s.rdB (Reg.CMD_RING_IDX r) 31 0
def State.ringCI (s : State) (r : Nat) : Nat := s.rdB (Reg.CMD_RING_IDX r) 63 32

def State.ringJobctl (s : State) (r : Nat) : Bool := s.rdB (Reg.CMD_RING_CFG r) 18 18 == 1

/-- An event of a ring. -/
def State.ringEvent (s : State) (r ev status : Nat) : State :=
  s.raise 4 Blk.cmd (Reg.CMD_RING_EVT r) (Reg.CMD_RING_EVT_EN r) ev { status := status, master := 0xD0, unit := r }

/-- Local address of a slot of a ring (R384). -/
def slotAddr (r i : Nat) : Nat := ctlBase 4 + 0x390000 + r * 0x2000 + i % 32 * 0x100

/-- A difference of two indices modulo 2³². -/
def ixDiff (a b : Nat) : Nat := (a + 2 ^ 32 - b % 2 ^ 32) % 2 ^ 32

/-- Setting EN (R386): indices zero, every slot stamped (j − 32), the ring STOPPED, its counter cleared (R405).
Operations that an earlier enable left in flight finish. -/
def State.ringEnable (s : State) (r : Nat) : State :=
  let s := (List.range 32).foldl (fun s j =>
    (s.memWrite (slotAddr r j) (toBytes 4 (2 ^ 32 + j - 32) ++ zeroBytes 252)).2) s
  let s := s.wr (Reg.CMD_RING_IDX r) 0
  let s := s.wr (Reg.CMD_CQ_PTR r) 0
  let s := s.wr (Reg.CMD_RING_CNT r) 0
  (s.setRing r { s.ring r with closing := false, stamp := none }).setRingState r 1

/-- Clearing EN (R386): no entry is fetched any more; RING_DISABLED ends it. -/
def State.ringDisable (s : State) (r : Nat) : State :=
  if s.ringState r = 0 then s
  else (s.setRing r { s.ring r with closing := true, stamp := none }).setRingState r 1

/-- A write of CMD_RING_CFG by a management core: EN acts when it changes. -/
def State.ringCfg (s : State) (r : Nat) (v : Word) : State :=
  let old := bit (s.rd (Reg.CMD_RING_CFG r)) 63
  let s := s.wr (Reg.CMD_RING_CFG r) v
  if bit v 63 && !old then s.ringEnable r else if !bit v 63 && old then s.ringDisable r else s

/-- The ring exists: EN is set, or operations of a ring that closes still finish (R386, R405). -/
def State.ringExists (s : State) (r : Nat) : Bool := bit (s.rd (Reg.CMD_RING_CFG r)) 63 || (s.ring r).closing

/-- A value of CMD_DB_PI (R390). -/
def State.dbPi (s : State) (r p : Nat) : State :=
  let d := ixDiff p (s.ringPI r)
  if !s.ringExists r || d == 0 || decide (2 ^ 31 ≤ d) then s
  else if 32 < ixDiff p (s.ringCI r) then s.ringEvent r 1 0
  else s.wrB (Reg.CMD_RING_IDX r) 31 0 p

/-- A value of CMD_DB_CQH (R398). -/
def State.dbCqh (s : State) (r h : Nat) : State :=
  let head := s.rdB (Reg.CMD_CQ_PTR r) 63 32
  let d := ixDiff h head
  if !s.ringExists r || d == 0 || decide (2 ^ 31 ≤ d) then s
  else if ixDiff (s.rdB (Reg.CMD_CQ_PTR r) 31 0) head < d then s.ringEvent r 1 0
  else s.wrB (Reg.CMD_CQ_PTR r) 63 32 h

/-- A write of CMD_RING_CTL (R405): RESUME, then STOP. -/
def State.ringCtl (s : State) (r : Nat) (v : Word) : State :=
  let k := s.rdB (Reg.CMD_CQ_CFG r) 3 0
  let s :=
    if bit v 0 then
      if k < 4 ∨ 12 < k then s.ringEvent r 2 0
      else if s.ringState r = 1 ∧ !(s.ring r).closing then s.setRingState r 2 else s
    else s
  if bit v 1 ∧ s.ringState r = 2 then (s.setRing r { s.ring r with stamp := none }).setRingState r 1 else s

/-! ### Completions (R397 to R399) -/

def coOpcode (e : List Byte) : Nat := leAt e 4 1
def coFlags (e : List Byte) : Nat := leAt e 5 1
def coLen (e : List Byte) : Nat := leAt e 6 2
def coTag (e : List Byte) : Nat := leAt e 8 8
def coArg0 (e : List Byte) : Nat := leAt e 0x10 8
def coArg1 (e : List Byte) : Nat := leAt e 0x18 8
def coPayload (e : List Byte) : List Byte := (e.drop 0x20).take (coLen e)
def coFence (e : List Byte) : Bool := (coFlags e).testBit 0
def coQuiet (e : List Byte) : Bool := (coFlags e).testBit 1

/-- Change the operations of a ring that satisfy a test. -/
def State.mapOps (s : State) (r : Nat) (p : CmdOp → Bool) (f : CmdOp → CmdOp) : State :=
  let x := s.ring r
  s.setRing r { x with ops := x.ops.map fun (o : CmdOp) => if p o then f o else o }

/-- Drop the operations of a ring that satisfy a test. -/
def State.dropOps (s : State) (r : Nat) (p : CmdOp → Bool) : State :=
  let x := s.ring r
  s.setRing r { x with ops := x.ops.filter fun o => !p o }

/-- An operation has finished with a result; with QUIET and OK it leaves at once (R399). -/
def State.opDone (s : State) (r seq status reason : Nat) (value : Word) : State :=
  match (s.ring r).ops.find? fun o => o.seq == seq with
  | none => s
  | some o =>
    if coQuiet o.entry && status == 0 then s.dropOps r fun x => x.seq == seq
    else s.mapOps r (fun x => x.seq == seq) fun x => { x with started := true, done := some (status, reason, value) }

/-- The completion entry of an operation at position w (R397). -/
def State.completionBytes (s : State) (r : Nat) (o : CmdOp) (pos : Nat) : List Byte :=
  let (st, rs, v) := o.done.getD (0, 0, 0)
  let size := 2 ^ s.rdB (Reg.CMD_CQ_CFG r) 3 0
  toBytes 8 (coTag o.entry) ++ toBytes 4 o.index ++ toBytes 1 st ++ toBytes 1 rs ++ toBytes 1 (coOpcode o.entry)
    ++ toBytes 1 (if pos / size % 2 = 0 then 1 else 0) ++ toBytes 8 v.toNat ++ toBytes 4 (s.ringCI r) ++ zeroBytes 4

/-- The answer to a completion write (R399). -/
def State.completionAck (s : State) (r seq status : Nat) : State :=
  if status = 0 then s.dropOps r fun o => o.seq == seq && o.writing
  else
    let s := s.mapOps r (fun o => o.seq == seq && o.writing) fun o => { o with writing := false, due := some (s.now + 100) }
    s.ringEvent r 4 status

/-- Write the completion of an operation that holds position w. -/
def State.completionSend (s : State) (r : Nat) (o : CmdOp) (pos : Nat) : State :=
  let size := 2 ^ s.rdB (Reg.CMD_CQ_CFG r) 3 0
  let ga := (s.rd (Reg.CMD_CQ_BASE r)).toNat + pos % size * 32
  let b := s.completionBytes r o pos
  let s := s.mapOps r (fun x => x.seq == o.seq) fun x => { x with writing := true, due := none, slot := some pos }
  if gaDev ga = s.devId then
    let (st, s) := s.store 0xD0 (gaLocal ga) b
    s.completionAck r o.seq st
  else s.netSend (.cmd r) o.seq 3 (gaDev ga) (gaLocal ga) b noLimit

/-- COMPLETION_WRITE (R397, R398): the completion of a finished operation is written, or waits for room; it waits too while the command
processor's ports are masked (R299). -/
def fxCompletionWrite (r index : Nat) (s : State) : State :=
  if s.isMasked 0xD0 then s else
  match (s.ring r).ops.find? fun o => o.index == index && o.done.isSome && o.slot.isNone with
  | none => s
  | some o =>
    let wn := s.rdB (Reg.CMD_CQ_PTR r) 31 0
    if 2 ^ s.rdB (Reg.CMD_CQ_CFG r) 3 0 ≤ ixDiff wn (s.rdB (Reg.CMD_CQ_PTR r) 63 32) then
      if o.waited then s
      else (s.mapOps r (fun x => x.seq == o.seq) fun x => { x with waited := true }).ringEvent r 3 0
    else (s.wrB (Reg.CMD_CQ_PTR r) 31 0 (wn + 1)).completionSend r o wn

def execCompletionWrite (ring : BitVec 4) (index : BitVec 32) (s : State) : Host.Outcome State Fault Refusal :=
  live s (fxCompletionWrite ring.toNat index.toNat)

/-- CQFAIL_RETRY (R399): 100 ticks after a failed write, it is written again, until the ring is disabled. -/
def fxCqfailRetry (r index : Nat) (s : State) : State :=
  match (s.ring r).ops.find? fun o => o.index == index && o.due.isSome && !o.writing with
  | none => s
  | some o =>
    if s.now < o.due.getD 0 ∨ s.isMasked 0xD0 then s
    else if (s.ring r).closing then s.dropOps r fun x => x.seq == o.seq
    else s.completionSend r o (o.slot.getD 0)

def execCqfailRetry (ring : BitVec 4) (index : BitVec 32) (s : State) : Host.Outcome State Fault Refusal :=
  live s (fxCqfailRetry ring.toNat index.toNat)

/-- RING_DISABLED (R386): every operation has finished and written its completion. -/
def fxRingDisabled (r : Nat) (s : State) : State :=
  let x := s.ring r
  if x.closing && x.ops.isEmpty then (s.setRing r {}).setRingState r 0 else s

def execRingDisabled (ring : BitVec 4) (s : State) : Host.Outcome State Fault Refusal :=
  live s (fxRingDisabled ring.toNat)

/-! ### Mailboxes (R400 to R404) -/

def State.mbxState (s : State) (k : Nat) : Nat := s.rdB (Reg.MBX_STATUS k) 1 0

/-- The wake event of a party: a gated general core is powered up (R403, R419). -/
def State.wake (s : State) (party : Nat) : State :=
  if party < 64 then s.wr Reg.CLK_PD_GC0 (setBit (s.rd Reg.CLK_PD_GC0) party)
  else if party < 128 then s.wr Reg.CLK_PD_GC1 (setBit (s.rd Reg.CLK_PD_GC1) (party - 64))
  else s

/-- A notice written on this device has ended: a nonzero status sets NOTIFYFAIL (R403). -/
def State.mbxSettle (s : State) : State :=
  s.xfers.foldl (fun s (e : Nat × Xfer) =>
    match e.2.owner, e.2.ended with
    | .mbx k, some st =>
      let s := { s with xfers := s.xfers.del e.1 }
      if st = 0 then s else s.mbxEvent 2 st 0xFF k
    | _, _ => s) s

/-- Wake a party; a management core takes its interrupt, and for a controller the notice is written (R403). -/
def State.mbxTell (s : State) (k party : Nat) : State :=
  let s := s.wake party
  let s := if isMgmt party then s.emit (.mbxIrq party k) else s
  if party ≠ 0xE8 then s
  else
    let ga := (s.rd (Reg.MBX_NOTIFY k)).toNat
    let v := k + at_ 8 (s.mbxState k) + at_ 16 (s.rdB (Reg.MBX_STATUS k) 31 16)
    if gaDev ga = s.devId then
      (s.xferStart ⟨.mbx k, k, 0xE0, [(0, ga, 8)], true, toBytes 8 v, none, none, 0⟩).2.mbxSettle
    else s.netSend (.mbx k) k 3 (gaDev ga) (gaLocal ga) (toBytes 8 v) noLimit

/-- A write of MBX_DATA or MBX_SEND that has no effect: DENIED for a master that is not the sender (R401), QFULL while the channel is
PENDING (R402). When both apply, each sets its event, and QFULL is the status (R13). -/
def State.mbxRefused (s : State) (k master src : Nat) : Option (Nat × State) :=
  let deny := !s.mbxValid k || !s.mbxIs k (s.mbxSender k) master src
  if s.mbxState k = 1 then
    let s := if deny then (s.mbxDeny master k).2 else s
    some (St.qfull, s.mbxEvent 1 St.qfull master k)
  else if deny then some (s.mbxDeny master k)
  else none

/-- A write of MBX_SEND (R401 to R403). -/
def State.mbxSend (s : State) (k master src : Nat) (v : Word) : Nat × State :=
  match s.mbxRefused k master src with
  | some r => r
  | none =>
    let n := bits v 3 0
    if !bit v 63 || n == 0 || decide (8 < n) then (St.ok, s)
    else
      let s := s.wrB (Reg.MBX_STATUS k) 1 0 1
      let s := s.wrB (Reg.MBX_STATUS k) 11 8 n
      let s := s.addB (Reg.MBX_STATUS k) 63 32 1
      let s := s.wr Reg.MBX_PEND (setBit (s.rd Reg.MBX_PEND) k)
      (St.ok, s.mbxTell k (s.mbxReceiver k))

/-- A write of MBX_ACK. -/
def State.mbxAck (s : State) (k master src : Nat) (v : Word) : Nat × State :=
  if !s.mbxValid k || !s.mbxIs k (s.mbxReceiver k) master src then s.mbxDeny master k
  else if !bit v 63 || s.mbxState k != 1 then (St.ok, s)
  else
    let s := s.wrB (Reg.MBX_STATUS k) 1 0 2
    let s := s.wrB (Reg.MBX_STATUS k) 31 16 (bits v 15 0)
    let s := s.wr Reg.MBX_PEND (clrBit (s.rd Reg.MBX_PEND) k)
    (St.ok, s.mbxTell k (s.mbxSender k))

/-- A write of MBX_DATA; `v` is the register's value after it. -/
def State.mbxData (s : State) (k i master src : Nat) (v : Word) : Nat × State :=
  (s.mbxRefused k master src).getD (St.ok, s.wr (Reg.MBX_DATA k i) v)

/-- Unload returns channels with a general-core party to IDLE (R404). -/
def State.mbxUnload (s : State) : State :=
  (List.range 64).foldl (fun s k =>
    if s.mbxValid k && (decide (s.mbxSender k < 128) || decide (s.mbxReceiver k < 128)) then
      let s := (List.range 8).foldl (fun s i => s.wr (Reg.MBX_DATA k i) 0) s
      let s := s.wr (Reg.MBX_STATUS k) 0
      s.wr Reg.MBX_PEND (clrBit (s.rd Reg.MBX_PEND) k)
    else s) s

end Sys2Proof.Machine
end

