-- ==== Sys2Proof/Machine/Install.lean ====
section
/-!
DEFINITION. What a load installs (step 6 of the load sequence): stages, cadence tables, queues, objects of synchronisation,
tensors, ledgers, routes, programs (R31 to R40, R90, R99, R110, R116 to R118, R141, R146, R201, R202, R255, R256, R267, R308,
R348, R352, R381, R418).
-/

namespace Sys2Proof.Machine

/-- The ENTRY index of a backhaul object in tables that hold both namespaces, primary first. -/
def Mnf.gix (bh : Bool) (prims i : Nat) : Nat := if bh then prims + i else i

def Mnf.tensorIx (m : Mnf) (bh : Bool) (i : Nat) : Nat := Mnf.gix bh m.prim.tensors.length i
def Mnf.queueIx (m : Mnf) (bh : Bool) (i : Nat) : Nat := Mnf.gix bh m.prim.queues.length i
def Mnf.ledgerIx (m : Mnf) (bh : Bool) (i : Nat) : Nat := Mnf.gix bh m.prim.ledgers.length i

/-- Where an object was placed. -/
def obAt (l : List ObPl) (bh : Bool) (i : Nat) : Option ObPl := l.find? fun o => o.bh == bh && o.ix == i

/-- Every index of both namespaces. -/
def Mnf.both (m : Mnf) (f : NS → List (List Byte)) : List (Bool × Nat) :=
  ((List.range (f m.prim).length).map fun i => (false, i)) ++ (List.range (f m.bhNs).length).map fun i => (true, i)

/-- A queue as a stage names it: a package index, 0x10000 + its index for a remote queue, 0xFFFF for none. -/
def queueName (m : Mnf) (p : Plc) (bh : Bool) (id : Nat) : Nat :=
  match (m.ns bh).queue id with
  | none => 0xFFFF
  | some i =>
    if qRemote (entAt (m.ns bh).queues i) then 0x10000 + m.queueIx bh i
    else ((obAt p.queues bh i).map (·.at_)).getD 0xFFFF

/-! ### Tensors and ledgers -/

/-- The local address of a tensor's storage; that of a backhaul tensor which names a primary shard is the shard's (R40). -/
def tensorAddr (m : Mnf) (p : Plc) (bh : Bool) (i : Nat) : Nat :=
  let e := entAt (m.ns bh).tensors i
  let o := if aliasTensor (m.ns bh) e then obAt p.tensors false ((m.prim.tensor (leAt e 0 4)).getD 0) else obAt p.tensors bh i
  (o.map (·.at_)).getD 0

def tensorOf (m : Mnf) (p : Plc) (bh : Bool) (i : Nat) : Tensor :=
  let ns := m.ns bh
  let e := entAt ns.tensors i
  let id := leAt e 0 4
  { addr := tensorAddr m p bh i, bytes := tBytes e
    ledger := if aliasTensor ns e then m.prim.ledger id else (ns.ledger id).map (m.ledgerIx bh) }

def State.putTensors (s : State) (m : Mnf) (p : Plc) : State :=
  { s with tensors := (m.both (·.tensors)).map fun x => (m.tensorIx x.1 x.2, tensorOf m p x.1 x.2) }

/-- The device ID of a peer or depot index. -/
def peerDev (m : Mnf) (i : Nat) : Nat := (nth (peersOf m.prim.routes) i (0, false)).1

/-- What a RULES entry binds a shard to, with the placed addresses. -/
def placedBinding (m : Mnf) (p : Plc) (bh : Bool) (e : List Byte) : Binding :=
  let ns := m.ns bh
  let addr (id : Nat) : Nat := match ns.tensor id with | some t => tensorAddr m p bh t | none => 0
  let size (id : Nat) : Nat := match ns.tensor id with | some t => tBytes (entAt ns.tensors t) | none => 0
  { bindingOf ns e with
    hyper := addr (leAt e 8 4), hyperBytes := size (leAt e 8 4), grad := addr (leAt e 0x0C 4) }

/-- A ledger as installed (R116, R227, R229). -/
def ledgerOf (m : Mnf) (p : Plc) (bh : Bool) (i : Nat) : Ledger :=
  let ns := m.ns bh
  let e := entAt ns.ledgers i
  let id := leAt e 0 4
  let t := entAt ns.tensors ((ns.tensor id).getD 0)
  let o := (obAt p.ledgers bh i).getD ⟨bh, i, 0, 0⟩
  let d := leAt e 4 1
  let own := leAt e 8 4 == 0xFFFFFFFF
  let up := (updateStage ns m.prim (m.ledgerIx bh i)).bind fun h => p.stages.find? fun st => !st.bh && st.ix == h
  { hdr := o.at_, shard := id, depth := d, owner := own, readOnly := tReadOnly t, bytes := tBytes t, stride := o.aux
    ownerDev := if own then 0 else peerDev m (leAt e 8 4), refs := List.replicate d 0
    updDie := (up.map (·.die)).getD 0, updCtx := up.map (·.ctx)
    bind := (ns.ruleOf id).map fun r => placedBinding m p bh (entAt ns.rules r) }

/-- The ledger header as the loader writes it (R116), before any replica registers. -/
def headerBytes (x : Ledger) : List Byte :=
  toBytes 8 0 ++ toBytes 4 x.shard ++ toBytes 1 x.depth
    ++ toBytes 1 ((if x.owner then 1 else 0) + (if x.readOnly then 2 else 0)) ++ zeroBytes 2
    ++ toBytes 8 x.bytes ++ toBytes 8 x.stride ++ toBytes 8 (x.hdr + 4096) ++ toBytes 4 0 ++ toBytes 4 x.ownerDev

def State.putLedgers (s : State) (m : Mnf) (p : Plc) : State :=
  { s with ledgers := (m.both (·.ledgers)).map fun x => (m.ledgerIx x.1 x.2, ledgerOf m p x.1 x.2) }

/-- Headers of a job that does not run on retained memory. -/
def State.putHeaders (s : State) (n : Nat) : State :=
  (List.range n).foldl (fun s l => (s.memWrite (s.led l).hdr (headerBytes (s.led l))).2) s

/-- The fingerprint of a slot's bytes (R139), read and checked as any burst is (R300); none when they cannot be read. -/
def State.slotCrc (s : State) (l slot : Nat) : Option Nat × State :=
  let (st, bs, s) := s.load 0xE0 ((s.led l).slotAddr slot) (s.led l).bytes
  (if st ≠ 0 then none else some (crc64 bs), s)

/-- Slot 0 of every ledger holds the initial version: COMMITTED, STEP 0, its fingerprint; COMMIT names it (R118). The fingerprint of
bytes that cannot be read back is a free value (log entry 72). -/
def State.firstVersions (s : State) : State :=
  s.ledIds.foldl (fun s l =>
    let a := (s.led l).recAddr 0
    let (k, s) := s.slotCrc l 0
    let (v, s) := match k with
      | some k => (k, s)
      | none => let (v, s) := s.free; (v.toNat, s)
    let s := s.ledWrite (a + 16) 8 v
    let s := s.ledWrite (a + 24) 8 s.now
    s.setSlotState l 0 3) s

/-- Recovery of one slot (R141). `perStep` is the scope, `jrnl` the step of the journal. -/
def State.recoverSlot (s : State) (l slot : Nat) (perStep : Bool) (jrnl : Option Nat) : State :=
  match s.slotState l slot with
  | 4 => s.setSlotState l slot 0
  | 1 => s.setSlotState l slot 0
  | 2 =>
    if !perStep then s.setSlotState l slot 0
    else if jrnl.any fun k => s.slotStep l slot == k + 1 then
      let old := s.ledSlot l
      let s := s.ledWrite (s.led l).hdr 8 (slot + 256 * s.slotStep l slot)
      let s := s.setSlotState l slot 3
      if old = slot then s else s.setSlotState l old 0
    else
      let s := s.wrB (Reg.LED_PENDING 0) 39 0 (s.slotStep l slot - 1)
      s.wrB (Reg.LED_PENDING 0) 41 40 3
  | _ => s

/-- A COMMITTED slot whose bytes no longer give its fingerprint, or cannot be read (R141, log entry 72). -/
def State.checkSlot (s : State) (l slot : Nat) : State :=
  if s.slotState l slot ≠ 3 then s else
  let (k, s) := s.slotCrc l slot
  if k ≠ some (s.slotFprint l slot) then (s.wrB (Reg.LED_PENDING 0) 42 42 1).ledEvent 1 St.fprint (some l) else s

/-- A ledger's header, commit word and slot records are read from LPDDR, where a retained reset has left them, and checked (R300);
one that cannot be read is damaged (R457, R488). -/
def State.headerRead (s : State) (l : Nat) : State :=
  let (st, _, s) := s.load 0xE0 (s.led l).hdr (0x100 + 32 * (s.led l).depth)
  if st = 0 then s else s.ledDamage l st

/-- The ledgers whose headers can be read. -/
def State.soundIds (s : State) : List Nat := s.ledIds.filter fun l => (s.led l).damaged.isNone

/-- The ledgers of a retained load (R141): LED_PENDING.BASE is the highest committed STEP of the owned ledgers unless a step is
held. -/
def State.recoverLedgers (s : State) : State :=
  let perStep := s.rdB (Reg.LED_CFG 0) 17 17 == 0
  let jrnl := s.journal
  let s := s.ledIds.foldl (fun s l => s.headerRead l) s
  let s := s.soundIds.foldl (fun s l => (s.slots l).foldl (fun s k => s.recoverSlot l k perStep jrnl) s) s
  let s := { s with journal := none }
  let s := if s.voteHeld then s
    else s.wrB (Reg.LED_PENDING 0) 39 0 ((s.soundIds.filter fun l => (s.led l).owner).foldl (fun b l => max b (s.ledStep l)) 0)
  s.soundIds.foldl (fun s l => (s.slots l).foldl (fun s k => s.checkSlot l k) s) s

/-- A permute journal that a retained load finds (R381). -/
def State.recoverPermute (s : State) : State :=
  match s.permJournal with
  | none => s.wr Reg.COL_PERM_PENDING 0
  | some (id, ph) => s.wr Reg.COL_PERM_PENDING (w (id + at_ 32 ph + at_ 34 1))

/-! ### Queues and objects of synchronisation -/

/-- The default send-wait limit, 10 ms (R273). -/
def sendWaitOf (v : Nat) : Nat := if v = 0 then 1000000 else v

def State.putQueue (s : State) (m : Mnf) (p : Plc) (bh : Bool) (i : Nat) : State :=
  let e := entAt (m.ns bh).queues i
  if qRemote e then
    let r : RemoteQ := { dev := peerDev m (leAt e 0x14 4), q := leAt e 0x18 2, sendWait := sendWaitOf (leAt e 0x10 4) }
    { s with remoteQs := s.remoteQs.set (m.queueIx bh i) r {} }
  else match obAt p.queues bh i with
  | none => s
  | some o =>
    let q := o.at_
    let s := s.wr (Reg.QU_CFG q) (w (1 + at_ 1 (leAt e 2 1) + at_ 3 (leAt e 0xE 1) + at_ 8 (leAt e 4 4)
      + at_ 32 (sendWaitOf (leAt e 0x10 4))))
    let s := s.wr (Reg.QU_RING q) (w o.aux)
    let s := if leAt e 2 1 = 2 then s.wr (Reg.QU_TALLY q) (w (leAt e 0xC 2)) else s
    match consumerPl m p bh e with
    | some st => { s with qConsumer := s.qConsumer.set q (sk st.die st.ctx + 1) 0 }
    | none => s

def State.putSync (s : State) (m : Mnf) (p : Plc) (bh : Bool) (i : Nat) : State :=
  let e := entAt (m.ns bh).syncs i
  match obAt p.syncs bh i with
  | none => s
  | some o =>
    if leAt e 2 1 = 1 then s.wr (Reg.SYN_BAR_CFG (o.at_ / 256) (o.at_ % 256)) (w (leAt e 4 2 + at_ 13 1))
    else { s.wr (msReg o.at_) (w (leAt e 8 8)) with msPlaced := s.msPlaced.set o.at_ true false }

/-! ### Programs -/

/-- Profile A or B of a NUMERICS set (R202). -/
def setProfAB (fmt v bs bd bf sp : Nat) : Word :=
  w (fmt + at_ 13 (nbits v (bs + 2) bs) + at_ 16 (nbits v (bd + 1) bd) + at_ 18 (nbits v bf bf) + at_ 19 (nbits v (sp + 1) sp))

/-- The three profiles of a NUMERICS set with the format codes that apply (R201, R202). -/
def setProfiles (v fa fb fo : Nat) : List Word :=
  [setProfAB fa v 28 31 33 46, setProfAB fb v 34 37 39 48,
    w (fo + at_ 8 (nbits v 25 24) + at_ 10 (nbits v 27 27) + at_ 11 (nbits v 26 26) + at_ 12 (nbits v 42 40)
      + at_ 15 (nbits v 44 43) + at_ 17 (nbits v 45 45))]

/-- A format code of a backward set, or its default (R202). -/
def fmtOr (v d : Nat) : Nat := if v = 0 then d else v

/-- The profiles of FWD and BWD entries of a STAGES entry. -/
def stageProfiles (e : List Byte) : List Word × List Word :=
  let f := leAt e 0x30 8
  let b := leAt e 0x38 8
  (setProfiles f (nbits f 7 0) (nbits f 15 8) (nbits f 23 16),
    setProfiles b (fmtOr (nbits b 7 0) 5) (fmtOr (nbits b 15 8) (nbits f 15 8)) (fmtOr (nbits b 23 16) 5))

/-- A sequencer stream of a stage as its engines hold it (R146). -/
def streamOf (m : Mnf) (bh : Bool) (e : List Byte) : Stream :=
  match sgStream (m.ns bh) e with
  | none => {}
  | some b =>
    let pr := stageProfiles e
    { entryFwd := leAt b 8 4, entryBwd := leAt b 12 4
      handles := (List.range (stHandles b)).map fun h => m.tensorIx bh (((m.ns bh).tensor (stHandle b h)).getD 0)
      fwdProf := pr.1, bwdProf := pr.2, words := (List.range (stWords b)).map fun i => w (stWord b i) }

/-- What a handle of an image names (R260). -/
def handleOf (m : Mnf) (p : Plc) (bh : Bool) (v : Nat) : HandleRef :=
  let id := nbits v 31 0
  let ns := m.ns bh
  if nbits v 39 32 = 0 then .tensor (m.tensorIx bh ((ns.tensor id).getD 0))
  else if nbits v 39 32 = 1 then .queue (queueName m p bh id)
  else
    let i := (ns.sync id).getD 0
    let k := ((obAt p.syncs bh i).map (·.at_)).getD 0
    if leAt (entAt ns.syncs i) 2 1 = 1 then .bar k else .ms k

/-- The image of a stage whose scratch part starts at `base` (R255, R256). -/
def imageOf (m : Mnf) (p : Plc) (bh : Bool) (e : List Byte) (base : Nat) : Image :=
  match sgImage (m.ns bh) e with
  | none => {}
  | some b =>
    { text := ((obAt p.texts bh (((m.ns bh).prog (sgCore e)).getD 0)).map (·.at_)).getD 0, textBytes := imText b
      entryFwd := leAt b 0x10 4, entryBwd := leAt b 0x14 4, stackTop := base + imScratch b
      handles := (List.range (imHandles b)).map fun h => handleOf m p bh (imHandle b h) }

/-- The key of a scratch byte of a core. -/
def scratchKey (c off : Nat) : Nat := c * 0x40000 + off

/-- Write bytes to a core's scratch memory. -/
def State.scratchWrite (s : State) (c off : Nat) (bs : List Byte) : State :=
  let t := ((List.range bs.length).zip bs).foldl
    (fun (t : Tbl Byte) (x : Nat × Byte) => t.set (scratchKey c (off + x.1)) x.2 0) s.scratch
  { s with scratch := t }

/-- The DATA of an image in the scratch memory of a core; what follows is zero from unload (R60, R256). -/
def State.putData (s : State) (ns : NS) (e : List Byte) (c base : Nat) : State :=
  match sgImage ns e with
  | none => s
  | some b => s.scratchWrite c base (slice b (imDataOff b) (imData b))

/-- The text of an image in LPDDR (R256). -/
def State.putText (s : State) (m : Mnf) (o : ObPl) : State :=
  let b := progBody (m.ns o.bh) o.ix
  (s.memWrite o.at_ (slice b (imTextOff b) (imText b))).2

/-! ### Stages -/

/-- The backhaul stage that a primary stage hosts. -/
def hostedBy (m : Mnf) (p : Plc) (st : StPl) : Option StPl :=
  if st.bh then none
  else p.stages.find? fun b => b.bh && sgHost (entAt m.bhNs.stages b.ix) == sgId m.prim st.ix

/-- The host of a backhaul stage. -/
def hostOf (m : Mnf) (p : Plc) (st : StPl) : Option StPl :=
  if st.bh then stagePl m p false (sgHost (entAt m.bhNs.stages st.ix)) else none

/-- The STAGES entry whose units a stage runs on (R39). -/
def unitEntry (m : Mnf) (p : Plc) (st : StPl) : List Byte :=
  match hostOf m p st with
  | some h => entAt m.prim.stages h.ix
  | none => entAt (m.ns st.bh).stages st.ix

/-- The units of a stage as package indices: engines, cores, update engines (R21). -/
def stageUnits (m : Mnf) (p : Plc) (st : StPl) : List Nat × List Nat × List Nat :=
  let u := sgUnits (unitEntry m p st)
  ((List.range u.1).map fun k => st.die * 16 + st.eng + k, (List.range u.2.1).map fun k => st.die * 32 + st.cor + k,
    (List.range u.2.2).map fun k => st.die * 4 + st.upd + k)

/-- The registers of a context (R90, R110, the loader's fields). DESIGN CHOICE (log entry 96): a backhaul context shows
CAD_STATUS.STATE 5, suspended, from the load on. -/
def State.putContext (s : State) (m : Mnf) (p : Plc) (st : StPl) : State :=
  let ns := m.ns st.bh
  let e := entAt ns.stages st.ix
  let n := st.die
  let x := st.ctx
  let cad := (ns.cads.find? fun c => c.stage == sgId ns st.ix).getD ⟨0, 0, 0, []⟩
  let nf := (cad.slots.filter fun v => slKind v == 1).length
  let nb := (cad.slots.filter fun v => slKind v == 2).length
  let partner := match hostedBy m p st, hostOf m p st with
    | some b, _ => b.ctx
    | none, some h => h.ctx
    | none, none => 0
  let s := s.wr (Reg.CAD_CTX_CFG n x) (w (1 + at_ 1 (if st.bh then 1 else 0) + at_ 2 (if (hostedBy m p st).isSome then 1 else 0)
    + at_ 3 partner + at_ 8 cad.slots.length + at_ 17 nf + at_ 32 (sgId ns st.ix)))
  let s := ((List.range cad.slots.length).zip cad.slots).foldl
    (fun s (v : Nat × Nat) => s.wr (Reg.CAD_SLOT n x v.1) (w v.2)) s
  let s := s.wr (Reg.CAD_LAG_BOUND n x) (w cad.lag)
  let fl := leAt e 2 2
  let s := s.wr (Reg.MBQ_CFG n x) (w (sgMaxCtx e + at_ 9 (fl % 4) + at_ 11 (if nb = 0 then 1 else 0) + at_ 32 (sgBpt e)))
  let s := s.wr (Reg.MBQ_MAXLEN n x) (w (sgMaxLen e))
  let pool := entAt ns.tensors ((ns.tensor (sgPool e)).getD 0)
  let s := s.wr (Reg.MBQ_POOL n x) (w (tBytes pool / 2048))
  let s := s.wr (Reg.MBQ_CTX n x) (w (at_ 16 (cadDepth cad.slots)))
  if st.bh then s.cadState n x 5 else s

/-- The OFFLOAD entry that serves a stage's pool with a target (R308). -/
def offloadOf (m : Mnf) (st : StPl) : Option Nat :=
  if st.bh then none
  else (List.range m.prim.offloads.length).find? fun i =>
    let e := entAt m.prim.offloads i
    leAt e 0 4 == sgPool (entAt m.prim.stages st.ix) && leAt e 4 1 != 0

/-- The queue that a field of STAGES other than IN_FWD names; 0xFFFF is none, whatever QUEUE_ID the job declares (R110). -/
def stageQueue (m : Mnf) (p : Plc) (bh : Bool) (id : Nat) : Nat := if id = 0xFFFF then 0xFFFF else queueName m p bh id

/-- The context behind the registers. The three pointers that a switch changes (R84) hold internal addresses that the spec does
not give: free values. -/
def State.putStage (s : State) (m : Mnf) (p : Plc) (st : StPl) : State :=
  let ns := m.ns st.bh
  let e := entAt ns.stages st.ix
  let u := stageUnits m p st
  let (p0, s) := s.free
  let (p1, s) := s.free
  let (p2, s) := s.free
  let s := s.setStg st.die st.ctx
    { inFwd := queueName m p st.bh (leAt e 0x20 2), outFwd := stageQueue m p st.bh (leAt e 0x22 2)
      inBwd := stageQueue m p st.bh (leAt e 0x24 2), outBwd := stageQueue m p st.bh (leAt e 0x26 2)
      poolBase := match ns.tensor (sgPool e) with | some t => tensorAddr m p st.bh t | none => 0
      shards := shardSet ns m.prim e, engines := u.1, cores := u.2.1, updaters := u.2.2
      ofl := offloadOf m st, ptrs := [p0, p1, p2], routed := (leAt e 2 2).testBit 2 }
  s.putContext m p st

/-- The streams, images and scratch data of a primary stage's units, with those of the backhaul stage it hosts. -/
def State.putUnits (s : State) (m : Mnf) (p : Plc) (st : StPl) : State :=
  if st.bh then s else
  let e := entAt m.prim.stages st.ix
  let be := match hostedBy m p st with | some b => entAt m.bhNs.stages b.ix | none => []
  let u := stageUnits m p st
  let top := match sgImage m.prim e with | some b => imScratch b | none => 0
  let base := roundUp top 64
  let s := u.1.foldl (fun s k => s.setEng k { s.eng k with primary := streamOf m false e, backhaul := streamOf m true be }) s
  u.2.1.foldl (fun s k =>
    let s := s.setCore k { s.core k with primary := imageOf m p false e 0, backhaul := imageOf m p true be base }
    (s.putData m.prim e k 0).putData m.bhNs be k base) s

/-! ### Offload entries and routes -/

def State.putOffload (s : State) (m : Mnf) (p : Plc) (i : Nat) : State :=
  let e := entAt m.prim.offloads i
  let st := (p.stages.find? fun st => !st.bh && sgPool (entAt m.prim.stages st.ix) == leAt e 0 4).getD ⟨false, 0, 0, 0, 0, 0, 0⟩
  let s := s.wr (Reg.OFL_CFG i) (w (1 + at_ 1 (leAt e 4 1) + at_ 3 (leAt e 5 1) + at_ 11 st.die + at_ 13 st.ctx + at_ 32 (leAt e 0 4)))
  let s := s.wr (Reg.OFL_BASE i) (w (peerDev m (leAt e 8 4) * 2 ^ 46 + leAt e 0x10 8))
  s.wr (Reg.OFL_FRAMES i) (w (leAt e 0x18 8 / 2048))

/-- The register that a ROUTES entry of kind 1 or 2 replaces. -/
def routeReg (e : List Byte) : Option Nat :=
  if leAt e 0 1 = 1 then some (Reg.RTE_GROUP (leAt e 2 2))
  else if leAt e 0 1 = 2 then some (Reg.RTE_MEMBER (leAt e 2 2)) else none

/-- Routes of a job (R352): its entries replace those at their indices, and RTE_ADMIT is built from its peers. -/
def State.putRoutes (s : State) (m : Mnf) : State :=
  let s := m.prim.routes.foldl (fun s e =>
    match routeReg e with
    | none => s
    | some a => s.wr a (w (leAt e 8 8))) s
  let s := s.revert false [.RTE_ADMIT]
  let s := (peersOf m.prim.routes).foldl (fun s (d : Nat × Bool) =>
    let a := Reg.RTE_ADMIT (d.1 / 64)
    s.wr a (setBit (s.rd a) (d.1 % 64))) s
  { s with depots := ((peersOf m.prim.routes).filter (·.2)).map (·.1) }

/-- The route tables are zeroised (R60), and firmware writes its base entries back (R352). -/
def State.baseBack (s : State) : State :=
  let s := s.revert false [.RTE_ADMIT, .RTE_GROUP, .RTE_MEMBER]
  let s := s.baseRoutes.foldl (fun s (e : Nat × Word) => s.wr e.1 e.2) s
  { s with depots := [] }

/-! ### Power domains (R418) -/

/-- Bits of the units that a list names. -/
def powerMask (l : List Nat) : Nat := (l.dedup.map fun k => 2 ^ k).sum

/-- Power the units that stages hold; with `only`, no others. A core that a mailbox woke stays powered until the load or the unload
completes (R419). -/
def State.powerUnits (s : State) (only : Bool) : State :=
  let gs := s.stages.map fun e => e.2
  let cs := powerMask (gs.map fun (g : StageCtx) => g.cores).flatten
  let put (s : State) (a m : Nat) : State := s.wr a (if only then w m else s.rd a ||| w m)
  let s := put s Reg.CLK_PD_GC0 (cs % 2 ^ 64)
  let s := put s Reg.CLK_PD_GC1 (cs / 2 ^ 64)
  let s := put s Reg.CLK_PD_ME (powerMask (gs.map fun (g : StageCtx) => g.engines).flatten)
  put s Reg.CLK_PD_UE (powerMask (gs.map fun (g : StageCtx) => g.updaters).flatten)

/-- Everything that a load installs, with headers left to the caller. -/
def State.install (s : State) (m : Mnf) (p : Plc) : State :=
  let s := { s with devRole := m.role, devCount := m.count, mbs := [], engines := [], cores := [], scratch := [], stages := [] }
  let s := s.putTensors m p
  let s := s.putLedgers m p
  let led := m.prim.ledgers.length + m.bhNs.ledgers.length
  let own := ((m.both (·.ledgers)).filter fun x => leAt (entAt (m.ns x.1).ledgers x.2) 8 4 == 0xFFFFFFFF).length
  let s := s.wr (Reg.LED_CFG 0) (w (led + at_ 17 (m.flags % 2) + at_ 18 own))
  let s := (m.both (·.queues)).foldl (fun s x => s.putQueue m p x.1 x.2) s
  let s := (m.both (·.syncs)).foldl (fun s x => s.putSync m p x.1 x.2) s
  let s := p.texts.foldl (fun s o => s.putText m o) s
  let s := p.stages.foldl (fun s st => s.putStage m p st) s
  let s := p.stages.foldl (fun s st => s.putUnits m p st) s
  let s := (List.range m.prim.offloads.length).foldl (fun s i => s.putOffload m p i) s
  (s.putRoutes m).powerUnits false

end Sys2Proof.Machine
end

