-- ==== Sys2Proof/Machine/Loader.lean ====
section
/-!
DEFINITION. The job: LOAD, START and UNLOAD (R43 to R46, R52 to R62, R393, R396, R404), the placement report (R53), and the
operations of a ring that is about to start (R392).
-/

namespace Sys2Proof.Machine

/-! ### The operation that starts (R392) -/

/-- An operation may start: with FENCE, only after every earlier entry of its ring has completed. -/
def State.unfenced (s : State) (r : Nat) (o : CmdOp) : Bool :=
  !coFence o.entry || !((s.ring r).ops.any fun p => !p.entry.isEmpty && decide (p.seq < o.seq))

/-- The oldest operation of a ring that has not started, when it carries this opcode and may start. -/
def State.opNow (s : State) (r op : Nat) : Option CmdOp :=
  match (s.ring r).ops.find? fun o => !o.started && o.done.isNone && !o.entry.isEmpty with
  | none => none
  | some o => if coOpcode o.entry = op ∧ s.unfenced r o then some o else none

/-- An operation has started. -/
def State.opStart (s : State) (r seq : Nat) : State := s.mapOps r (fun o => o.seq == seq) fun o => { o with started := true }

/-! ### The job state and the report -/

/-- Change ID_JOB_STATE.STATE (R54). -/
def State.setJob (s : State) (st : Nat) : State := s.wrB Reg.ID_JOB_STATE 2 0 st

/-- The LAST fields (R62). -/
def State.lastLoad (s : State) (st rs sect : Nat) : State :=
  s.wrB Reg.ID_JOB_STATE 39 8 (st + at_ 8 rs + at_ 16 sect)

/-- The header of a placement report (R53). -/
def State.reportHeader (s : State) (jobId st rs sect ent count opts flags : Nat) (mdig pdig : List Byte) : List Byte :=
  toBytes 8 0x5450524C50564D4C ++ toBytes 4 0x10000 ++ toBytes 4 128 ++ toBytes 8 (128 + 32 * count)
    ++ toBytes 1 st ++ toBytes 1 rs ++ toBytes 2 sect ++ toBytes 4 ent ++ toBytes 8 jobId
    ++ toBytes 4 (s.rd Reg.ID_LOADER_VER).toNat ++ toBytes 4 count ++ fitBytes 32 mdig ++ fitBytes 32 pdig
    ++ toBytes 4 opts ++ toBytes 4 flags ++ zeroBytes 8

/-- Write a report to the controller's buffer: all of it, the header alone when it does not fit, nothing when the buffer cannot
hold the header (R53). -/
def State.reportWrite (s : State) (o : Owner) (ref buf size : Nat) (hdr : List Byte) (recs : List (List Byte)) : Nat × State :=
  let all := hdr ++ recs.flatten
  let b := if size < 128 then [] else if all.length ≤ size then all else hdr
  s.xferStart ⟨o, ref, 0xE0, if b.isEmpty then [] else [(0, buf, b.length)], true, b, none, none, 0⟩

def noLoad : LoadJob := { ring := 0, seq := 0, buf := 0, bufSize := 0, options := 0, expect := [], from_ := 0 }

def State.setLoad (s : State) (j : LoadJob) : State := { s with loadJob := some j }

/-- Operations that wait for the unload complete (R55, R56). -/
def State.unloadsDone (s : State) : State :=
  s.unloads.foldl (fun s (u : Nat × Nat) => s.opDone u.1 u.2 St.ok 0 0) { s with unloads := [] }

/-- The LOAD completes with its result; a refusal returns to the state before it (R45, R54, R59). -/
def State.loadFinish (s : State) (j : LoadJob) : State :=
  let (st, rs, sect, _) := j.result
  let count := if st = 0 then j.recs.length else 0
  let s := (s.dropXfers .load).lastLoad st rs sect
  let s := if s.jobState = 1 then s.setJob (if st = 0 then 2 else j.from_) else s
  let s := { s with loadJob := none }
  let s := s.opDone j.ring j.seq st rs (w count)
  if s.jobState = 4 then s else s.unloadsDone

/-- The load ends with a result other than OK: the header of the report is written (R45, R53). -/
def State.loadFail (s : State) (j : LoadJob) (st rs sect ent : Nat) : State :=
  let s := s.dropXfers .load
  let hdr := s.reportHeader j.jobId st rs sect ent 0 j.options 0 j.digest []
  let (id, s) := s.reportWrite .load 0 j.buf j.bufSize hdr []
  s.setLoad { j with phase := 2, result := (st, rs, sect, ent), xfer := id, inits := [] }

/-! ### Initial contents and the end of the load -/

/-- Where an initial content goes: slot 0 of its ledger, or the tensor (R35, R118). -/
def State.initDst (s : State) (g : Nat) : Nat × Option Nat :=
  let t := s.tensors.get g {}
  match t.ledger with
  | some l => ((s.led l).slotAddr 0, some l)
  | none => (t.addr, none)

/-- Start the fetches of initial contents (R36, R43). -/
def State.startInits (s : State) (m : Mnf) : List (Nat × Nat × Nat × Option Nat) × State :=
  ((m.both (·.tensors)).filter fun x => tFetch (entAt (m.ns x.1).tensors x.2)
      && !aliasTensor (m.ns x.1) (entAt (m.ns x.1).tensors x.2)).foldl
    (fun (r : List (Nat × Nat × Nat × Option Nat) × State) (x : Bool × Nat) =>
      let e := entAt (m.ns x.1).tensors x.2
      let (a, l) := r.2.initDst (m.tensorIx x.1 x.2)
      let (id, s) := r.2.xferStart ⟨.load, 0, 0xE0, [(tSource e, r.2.globalOf a, tBytes e)], false, [], none, none, 0⟩
      (r.1 ++ [(id, if x.1 then 0x8007 else 7, x.2, l)], s)) ([], s)

/-- The initial contents are there: the first versions, and the report (R118, R53). -/
def State.loadReport (s : State) (j : LoadJob) : State :=
  let s := if bit (w j.flags) 3 then s else s.firstVersions
  let hdr := s.reportHeader j.jobId 0 0 0 0 j.recs.length j.options j.flags j.digest (sm3 j.recs.flatten)
  let (id, s) := s.reportWrite .load 0 j.buf j.bufSize hdr j.recs
  s.setLoad { j with phase := 2, xfer := id, inits := [] }

/-- The load goes on after one of its transfers has ended. A failed write of the report does not change the load's result. -/
def State.loadSettle (s : State) : State :=
  match s.loadJob with
  | none => s
  | some j =>
    if j.phase = 2 then
      if (s.xfer j.xfer).ended.isSome ∧ j.result.1 ≠ 0 then s.loadFinish j else s
    else if j.phase = 1 then
      if j.inits.all fun i => (s.xfer i.1).ended == some St.ok then s.loadReport j else s
    else s

/-! ### LOAD -/

/-- Address that the manifest is fetched to: the firmware region above the journals (R58). -/
def mnfAddr : Nat := fwBase + 0x10000

/-- The LOAD is refused before anything is fetched (R44, steps 1 and 2): the report's header is written, and the operation
completes when that write has ended. The reference of the write carries the operation and the reason. -/
def State.loadEarly (s : State) (r : Nat) (o : CmdOp) (reason : Nat) : State :=
  let p := coPayload o.entry
  let hdr := s.reportHeader 0 St.nofit reason 0 noEntry 0 (leAt p 16 4) 0 [] []
  (s.reportWrite (.quote r) (o.seq * 256 + reason) (leAt p 0 8) (leAt p 8 8) hdr []).2

/-- The write of an early refusal's report has ended. -/
def State.earlyDone (s : State) (r ref : Nat) : State :=
  (s.lastLoad St.nofit (ref % 256) 0).opDone r (ref / 256) St.nofit (ref % 256) 0

/-- Transfers of a ring that have ended: early refusals of LOAD complete. -/
def State.earlySettle (s : State) (r : Nat) : State :=
  s.xfers.foldl (fun s (e : Nat × Xfer) =>
    if e.2.owner = .quote r ∧ e.2.ended.isSome ∧ e.2.ref % 256 ≠ 0 then
      ({ s with xfers := s.xfers.del e.1 } : State).earlyDone r e.2.ref
    else s) s

/-- LOAD (R44, steps 1 to 3). -/
def fxLoad (r : Nat) (s : State) : State :=
  match s.opNow r 0x10 with
  | none => s
  | some o =>
    let s := s.opStart r o.seq
    let len := coArg1 o.entry
    if s.jobState ≠ 0 ∧ s.jobState ≠ 5 then (s.loadEarly r o Rs.jobloaded).earlySettle r
    else if len % 16 ≠ 0 ∨ len < 256 ∨ 2 ^ 31 < len then (s.loadEarly r o Rs.badlength).earlySettle r
    else
      let p := coPayload o.entry
      let prev := s.jobState
      let s := { (s.setJob 1).revert false loadCleared with loadAt := s.now }
      let s := s.wrB Reg.PKM_POWER 31 16 0
      let (id, s) := s.xferStart ⟨.load, 0, 0xE0, [(coArg0 o.entry, s.globalOf mnfAddr, len)], false, [], none, none, 0⟩
      s.setLoad { ring := r, seq := o.seq, buf := leAt p 0 8, bufSize := leAt p 8 8, options := leAt p 16 4
                  expect := slice p 24 32, from_ := prev, xfer := id, len := len }

def execLoad (ring : BitVec 4) (s : State) : Host.Outcome State Fault Refusal := live s (fxLoad ring.toNat)

/-- Words of a digest in four registers. -/
def State.digestAt (s : State) (rs : List Nat) : List Byte := (rs.map fun a => toBytes 8 (s.rd a).toNat).flatten
def plcRegs : List Nat := [Reg.ID_PLC_DIGEST0, Reg.ID_PLC_DIGEST1, Reg.ID_PLC_DIGEST2, Reg.ID_PLC_DIGEST3]

def State.putDigest (s : State) (rs : List Nat) (d : List Byte) : State :=
  ((List.range 4).zip rs).foldl (fun s (x : Nat × Nat) => s.wr x.2 (w (leAt d (8 * x.1) 8))) s

/-- The retained memory is given up: LPDDR except the fetched manifest, and the digests (R58). -/
def State.dropRetained (s : State) (len : Nat) : State :=
  let s := (s.zeroise 0 mnfAddr).zeroise (mnfAddr + len) (lpddrBytes - mnfAddr - len)
  let s := (s.putDigest mnfRegs []).putDigest plcRegs []
  { s.wr Reg.ID_JOB_ID 0 with journal := none, permJournal := none }

/-- Steps 6 of the load sequence: install, recover or fetch (R58, R118, R141, R381). -/
def State.loadGo (s : State) (j : LoadJob) (m : Mnf) (p : Plc) : State :=
  let pdig := sm3 p.recs.flatten
  let kept := j.from_ == 5 && s.digestAt mnfRegs == j.digest && s.digestAt plcRegs == pdig
  let s := if j.from_ = 5 ∧ !kept then s.dropRetained j.len else s
  let flags := (if bit (w j.options) 0 then (if j.expect = pdig then 1 else 2) else 0)
    + (if p.demoted then 4 else 0) + (if kept then 8 else 0)
  let j := { j with phase := 1, recs := p.recs, flags := flags, from_ := if kept then 5 else 0 }
  let s := s.install m p
  if kept then (s.recoverLedgers.recoverPermute.setLoad j).loadSettle
  else
    let s := (s.putHeaders s.ledCount).wr Reg.COL_PERM_PENDING 0
    let (is, s) := s.startInits m
    (s.setLoad { j with inits := is }).loadSettle

/-- MANIFEST_FETCH_DONE (R44, steps 3 to 10): the fetch of the manifest has ended. Bytes that the firmware cannot read back end the
load as a failed fetch does (R300, R393, log entry 101). -/
def fxManifestFetchDone (s : State) : State :=
  match s.loadJob with
  | none => s
  | some j =>
    match (s.xfer j.xfer).ended with
    | none => s
    | some st =>
      if j.phase ≠ 0 then s
      else if st ≠ 0 then (s.loadFail j st 0 0 0).loadSettle
      else
        let (st, bs, s) := s.load 0xE0 mnfAddr j.len
        if st ≠ 0 then (s.loadFail j st 0 0 0).loadSettle else
        let s := s.dropXfers .load
        let jid := if (headerReason bs).isSome then 0 else leAt bs 0x18 8
        let j := { j with digest := mnfDigest bs, jobId := jid }
        match fitCheck bs (s.rdB Reg.CGT_STATUS 2 2 == 1) s.devId with
        | some f => (s.loadFail j St.nofit f.reason f.sect f.entry).loadSettle
        | none =>
          match place (mnfOf bs) with
          | .error f => (s.loadFail j St.nofit f.reason f.sect f.entry).loadSettle
          | .ok p => s.loadGo j (mnfOf bs) p

def execManifestFetchDone (s : State) : Host.Outcome State Fault Refusal := live s fxManifestFetchDone

/-- INITFETCH (R43): a fetch of initial contents has failed; the load stops and everything is zeroised. -/
def fxInitfetch (s : State) : State :=
  match s.loadJob with
  | none => s
  | some j =>
    if j.phase ≠ 1 then s else
    match j.inits.find? fun i => (s.xfer i.1).ended.any fun st => st != 0 with
    | none => s
    | some (id, sect, ix, _) =>
      let st := ((s.xfer id).ended).getD 0
      ((s.setJob 4).loadFail j st Rs.initfetch sect ix).loadSettle

def execInitfetch (s : State) : Host.Outcome State Fault Refusal := live s fxInitfetch

/-- LOAD_COMPLETE (R54, R62): the report is written, and the job is READY. -/
def fxLoadComplete (s : State) : State :=
  match s.loadJob with
  | none => s
  | some j =>
    if j.phase = 2 ∧ (s.xfer j.xfer).ended.isSome ∧ j.result.1 = 0 then
      let s := s.wr Reg.ID_JOB_ID (w j.jobId)
      let s := (s.putDigest mnfRegs j.digest).putDigest plcRegs (sm3 j.recs.flatten)
      let s := s.wrB Reg.ID_JOB_STATE 41 40 (nbits j.flags 2 2 + 2 * nbits j.flags 1 1)
      (s.loadFinish j).powerUnits true
    else s

def execLoadComplete (s : State) : Host.Outcome State Fault Refusal := live s fxLoadComplete

/-! ### START -/

/-- A LOAD fetched earlier, from any ring, has not completed (R392). -/
def State.loadsBefore (s : State) (seq : Nat) : Bool :=
  s.rings.any fun e => e.2.ops.any fun o => !o.entry.isEmpty && decide (o.seq < seq) && coOpcode o.entry == 0x10 && o.done.isNone

/-- The cadence of every stage starts: forward bases 0, and the replicas register (R55, R136, R142). A step still held is discarded,
and the up-votes that came early for the next one count (R377). -/
def State.jobStart (s : State) : State :=
  let s := s.stages.foldl (fun s (e : Nat × StageCtx) =>
    let n := e.1 / 32
    let x := e.1 % 32
    let s := s.wr (Reg.CAD_FBASE n x) 0
    s.setStg n x { s.stg n x with running := true }) s
  let s := if s.voteHeld then
      let step := s.voteStep
      (((s.wrB (Reg.LED_PENDING 0) 41 40 0).discardHeld step).setVoteState 0).voteNext step
    else s
  let s := s.ledIds.foldl (fun s l =>
    if !(s.led l).owner && decide (2 ≤ (s.led l).depth) then s.registerSend l else s) s
  let s := if bit (s.rd Reg.COL_VOTE_CFG) 0 then s.voteRead else s
  s.setJob 3

/-- START (R55, R392). -/
def fxStart (r : Nat) (s : State) : State :=
  match s.opNow r 0x11 with
  | none => s
  | some o =>
    if s.loadsBefore o.seq then s
    else if s.jobState = 2 then (s.jobStart).opDone r o.seq St.ok 0 0
    else if s.jobState = 3 then s.opDone r o.seq St.ok 0 0
    else s.opDone r o.seq St.denied 0 0

def execStart (ring : BitVec 4) (s : State) : Host.Outcome State Fault Refusal := live s (fxStart ring.toNat)

/-! ### UNLOAD -/

/-- An operation in flight that touches LPDDR or the operand store (R396). -/
def State.touchesData (s : State) (o : CmdOp) : Bool :=
  !o.entry.isEmpty && o.done.isNone && (match coOpcode o.entry with
    | 1 => dataPlace (coArg0 o.entry)
    | 2 => dataPlace (coArg0 o.entry)
    | 3 => (gaDev (coArg0 o.entry) == s.devId && dataPlace (gaLocal (coArg0 o.entry)))
        || (gaDev (coArg1 o.entry) == s.devId && dataPlace (gaLocal (coArg1 o.entry)))
    | _ => false)

/-- The destination of a failed copy is unspecified (R395). -/
def State.copyScramble (s : State) (c : Nat) (e : List Byte) : State :=
  let d := coArg1 e
  if gaDev d = s.devId then s.scramble (0xD1 + c) (gaLocal d) (leAt (coPayload e) 0 8) else s

/-- End the operations that R396 names. A copy that runs ends with them: its requests are dropped, and the bytes of its destination
are unspecified (R395). -/
def State.cutOps (s : State) : State :=
  s.rings.foldl (fun s (e : Nat × Ring) =>
    (e.2.ops.filter s.touchesData).foldl (fun s o =>
      let s := { s with copies := s.copies.filter fun c => c != (e.1, o.seq) }
      let s := s.channels.foldl (fun s (c : Nat × (Nat × Nat × Nat)) =>
        if c.2.1 = e.1 ∧ c.2.2.1 = o.seq then
          { (s.dropRequests fun p => p == .copy c.1).copyScramble c.1 o.entry with channels := s.channels.del c.1 }
        else s) s
      s.opDone e.1 o.seq St.incomplete 0 0) s) s

/-- Requests that belong to the job: those of its units, not those of the hub's own services. -/
def jobOwner : Owner → Bool
  | .none => false
  | .cmd _ => false
  | .mbx _ => false
  | .quote _ => false
  | .copy _ => false
  | _ => true

/-- Stop every unit and request of the job at once (R57). Tags of the job are retired, so that later responses are stale. -/
def State.jobStop (s : State) : State :=
  let s := s.stages.foldl (fun s (e : Nat × StageCtx) => s.stopStage (e.1 / 32) (e.1 % 32)) s
  let s := s.engines.foldl (fun s (e : Nat × Engine) => (s.setEng e.1 { s.eng e.1 with wait := .none }).setMxState e.1 0) s
  let s := s.cores.foldl (fun s (e : Nat × Core) =>
    (s.setCore e.1 { s.core e.1 with wait := .none, since := none, replies := [] }).setGcState e.1 0) s
  let s := { s.dropRequests jobOwner with
    sendWaits := [], barWaits := [], oflQueue := [], cols := [], colEarly := [], colTrigs := [], vote := {}
    trigQueues := [], updEngines := [], dsps := [], inboxes := [] }
  s.serveTags s.tagWaits.length

/-- Begin to unload (R56, R57, R404). -/
def State.unloadGo (s : State) : State := s.jobStop.setJob 4

/-- UNLOAD (R55 to R57, R59, R396): it acts when it is accepted. A LOAD that began in RETAINED and has not passed the comparison of
R58, one that was refused with its report still to write among them, is stopped without unloading: the job state goes back to
RETAINED when the LOAD completes, and the UNLOAD completes after it. -/
def fxUnload (r : Nat) (s : State) : State :=
  match (s.ring r).ops.find? fun o => !o.started && o.done.isNone && !o.entry.isEmpty && coOpcode o.entry == 0x12 && s.unfenced r o with
  | none => s
  | some o =>
    let s := s.opStart r o.seq
    let later : State := { s with unloads := s.unloads ++ [(r, o.seq)] }
    match s.jobState with
    | 0 => s.opDone r o.seq St.ok 0 0
    | 5 => s.opDone r o.seq St.ok 0 0
    | 1 =>
      match s.loadJob with
      | none => later
      | some j =>
        let refused := j.phase == 2 && j.result.1 != 0
        if j.phase = 2 ∧ j.result.1 = St.incomplete then later
        else
          let s := if j.from_ = 5 ∧ (j.phase = 0 ∨ refused) then later else later.unloadGo
          (s.loadFail { j with digest := if j.phase = 0 then [] else j.digest } St.incomplete Rs.aborted 0 0).loadSettle
    | 3 => later.cutOps.unloadGo
    | 2 => later.unloadGo
    | _ => later

def execUnload (ring : BitVec 4) (s : State) : Host.Outcome State Fault Refusal := live s (fxUnload ring.toNat)

/-- The registers of the job's blocks that unload clears (R60, R90, R225, R288): all but the counters that the next load clears;
of the dispatch units, the queues and the objects of synchronisation, all. -/
def unloadCleared : List RegName := [
  .CAD_CTX_CFG, .CAD_CTL, .CAD_STATUS, .CAD_LAG, .CAD_LAG_MAX, .CAD_LAG_BOUND, .CAD_FBASE, .CAD_END, .CAD_SLOT_T0, .CAD_EVT,
  .CAD_EVT_EN, .CAD_PERIODS, .CAD_DROPS, .CAD_RECOVERED, .CAD_SWITCHES, .CAD_PTR_QUEUE, .CAD_PTR_TABLE, .CAD_PTR_LEDGER,
  .CAD_EVT_QUEUE, .CAD_SLOT, .MBQ_CFG, .MBQ_MAXLEN, .MBQ_POOL,
  .MBQ_POOL_PEAK, .MBQ_CTX, .MBQ_GATE, .MBQ_HEAD, .MBQ_STATUS, .MBQ_EVT, .MBQ_EVT_EN, .MBQ_CTX_SEL, .MBQ_CTX_DATA0,
  .MBQ_CTX_DATA1, .MBQ_CTX_DATA2, .MBQ_CTX_DATA3, .LED_CFG, .LED_STEP, .LED_OUTCOME, .LED_PENDING, .LED_SEL, .LED_DATA0,
  .LED_DATA1, .LED_DATA2, .LED_DATA3, .LED_DATA4, .LED_DATA5, .LED_EVT, .LED_EVT_EN, .LED_CACHE, .MX_STATUS, .MX_PROF_A,
  .MX_PROF_B, .MX_PROF_O, .MX_FAULT, .MX_FAULT_WORD, .MX_FAULT_ADDR, .MX_DRAIN_STAT, .MX_NF_FIRST, .MX_NF_TIME, .MX_EVT,
  .MX_EVT_EN, .MX_IX_SEL, .MX_IX_DATA, .DSP_STATUS, .DSP_LAST, .DSP_EVT, .DSP_EVT_EN, .DSP_REQS, .DSP_CHOICES, .DSP_DROPS,
  .DSP_SPILLS, .DSP_CTX_TABLE, .DSP_IBX_CFG, .DSP_IBX_BUF, .DSP_IBX_GEOM, .DSP_IBX_QUEUE, .DSP_IBX_STATUS, .DSP_IBX_EMITTED,
  .DSP_IBX_OVERRUN, .UPD_STATUS, .UPD_CUR, .UPD_PROGRESS, .UPD_LAST, .UPD_NF_FIRST, .UPD_NF_TIME, .UPD_EVT, .UPD_EVT_EN,
  .UPD_TQ_STATUS, .UPD_DONE, .UPD_DIE_EVT, .UPD_DIE_EVT_EN, .GC_STATUS, .GC_PC, .GC_EVT, .GC_EVT_EN, .QU_CFG, .QU_RING, .QU_PROD,
  .QU_CONS, .QU_OCC, .QU_HEAD, .QU_TALLY, .QU_CNT, .QU_PEEK_SEL, .QU_PEEK_INFO, .QU_EVT, .QU_PEEK_DATA, .SYN_MS, .SYN_BAR_CFG,
  .SYN_BAR_STATE, .SYN_EVT, .OFL_CFG, .OFL_BASE, .OFL_FRAMES, .OFL_EVT, .OFL_EVT_EN, .OFL_LAST, .COL_CFG, .COL_VOTE_CFG,
  .COL_VOTE_TABLE, .COL_VOTE_STATUS, .COL_EVT, .COL_EVT_EN]

/-- Zero the enables of the queues and objects of synchronisation (R288). -/
def State.enablesOff (s : State) : State :=
  let s := [0, 1, 2, 3, 4].foldl (fun s d => s.wr (Reg.QU_EVT_EN d) 0) s
  [0, 1, 2, 3].foldl (fun s d => s.wr (Reg.SYN_EVT_EN d) 0) s

/-- Everything that unload zeroises (R60, R404). -/
def State.jobZero (s : State) : State :=
  let s := s.zeroise 0 lpddrBytes
  let s := [0, 1, 2, 3].foldl (fun s n => s.zeroise (sramBase n) sramBytes) s
  let s := ((s.revert false unloadCleared).enablesOff.baseBack).mbxUnload
  { s with
    stages := [], mbs := [], ledgers := [], qConsumer := [], remoteQs := [], msPlaced := [], tensors := [], engines := []
    cores := [], scratch := [], journal := none, permJournal := none, devRole := 0, devCount := 0 }

/-- ZEROISATION_COMPLETE (R54, R60, R62): the job state is EMPTY, and the UNLOADs complete. -/
def fxZeroisationComplete (s : State) : State :=
  if s.jobState = 4 ∧ s.loadJob.isNone then
    let s := s.jobZero.powerUnits true
    let s := ((s.putDigest mnfRegs []).putDigest plcRegs []).wr Reg.ID_JOB_ID 0
    let s := s.wrB Reg.ID_JOB_STATE 41 40 0
    (s.setJob 0).unloadsDone
  else s

def execZeroisationComplete (s : State) : Host.Outcome State Fault Refusal := live s fxZeroisationComplete

end Sys2Proof.Machine
end

