-- ==== Sys2Proof/Machine/Power.lean ====
section
/-!
DEFINITION. Power budgets, operating points and the tariff rounds (R411 to R417), power domains (R418, R419).
Measured powers, temperatures and the governors' estimates are free values (log entry 5).
-/

namespace Sys2Proof.Machine

def State.setGov (s : State) (n : Nat) (g : Gov) : State := { s with govs := s.govs.set n g {} }

/-- A free value of 16 bits: a power in units of 0.125 W. -/
def State.freePower (s : State) : Nat × State :=
  let (v, s) := s.free
  (bits v 15 0, s)

/-- An event of a governor (R453 gives its block no information). -/
def State.govEvent (s : State) (n ev : Nat) : State :=
  s.raise n Blk.gov (Reg.GOV_EVT n) (Reg.GOV_EVT_EN n) ev {}

def State.pkmEvent (s : State) (ev : Nat) : State := s.raise 4 Blk.pkm Reg.PKM_EVT Reg.PKM_EVT_EN ev {}

/-- Ceiling of die n in 0.125 W units. -/
def State.pkmCeil (s : State) (n : Nat) : Nat := 8 * s.rdB Reg.PKM_CEIL (16 * n + 11) (16 * n)
def State.pkmWeight (s : State) (n : Nat) : Nat := s.rdB Reg.PKM_WEIGHT (8 * n + 7) (8 * n)

/-- B_n of a die. -/
def State.govB (s : State) (n : Nat) : Nat := s.rdB (Reg.GOV_BUDGET n) 15 0

/-- The most that the package draws over the period that ended (R470), in 0.125 W units: 2,900 W over 1 ms; and over 100 ms,
PKM_BUDGET, the highest in force in that time. -/
def State.powerCap (s : State) : Nat :=
  let budget := (s.pkmPast.map (·.2)).foldl max (8 * s.rdB Reg.PKM_BUDGET 11 0)
  min 23200 (100 * budget - (s.pkmPast.map (·.1)).sum)

/-- The package power of the period that ended: measured, within what R470 lets the device draw. -/
def State.periodPower (s : State) : Nat × State :=
  let (v, s) := s.freePower
  let pow := v % (s.powerCap + 1)
  (pow, { s with pkmPast := ((pow, 8 * s.rdB Reg.PKM_BUDGET 11 0) :: s.pkmPast).take 99 })

/-- PERIOD_START (R413, R417): the pool and the grants of a period, and the package power of the period that ended. -/
def fxPeriodStart (s : State) : State :=
  if s.now % 100000 ≠ 0 ∨ !bit (s.rd Reg.RST_STATUS) 12 then s else
  let (hub, s) := s.freePower
  let (stk, s) := s.freePower
  let (opt, s) := s.freePower
  let (pow, s) := s.periodPower
  let budget := 8 * s.rdB Reg.PKM_BUDGET 11 0
  let a := budget - 8 * s.rdB Reg.PKM_GUEST 11 0 - (hub + stk + opt)
  let ws := ((List.range 4).map s.pkmWeight).sum
  let s := s.wr Reg.PKM_POOL (w (a % 2 ^ 16 + at_ 16 hub + at_ 32 stk + at_ 48 opt))
  let s := (List.range 4).foldl (fun s n =>
    let g := min (s.pkmCeil n) (if ws = 0 then 0 else a * s.pkmWeight n / ws)
    let s := s.wrB Reg.PKM_GRANT (16 * n + 15) (16 * n) g
    s.wr (Reg.GOV_BUDGET n) (w (g + at_ 16 (s.pkmCeil n) + at_ 32 g))) s
  let s := s.addB Reg.PKM_PERIODS 63 0 1
  let s := s.wr Reg.PKM_POWER (w (pow + at_ 16 (max pow (s.rdB Reg.PKM_POWER 31 16))))
  if budget < pow then s.pkmEvent 0 else s

def execPeriodStart (s : State) : Host.Outcome State Fault Refusal := live s fxPeriodStart

/-- TARIFF_ROUND (R414): a governor starts its round, estimates its demand and sends its bid; its own bid counts among those it
has received. The package manager has not heard from it yet. -/
def fxTariffRound (n : Nat) (s : State) : State :=
  if s.now % 10000 ≠ 0 ∨ !bit (s.rd Reg.RST_STATUS) 12 then s else
  let (est, s) := s.freePower
  let (meas, s) := s.freePower
  let (here, s) := s.freePower
  let d := max est meas
  let b := s.govB n
  let offer := b - d - s.rdB (Reg.GOV_CFG n) 15 0
  let request := if offer = 0 then min (d - b) (s.pkmCeil n - b) else 0
  let s := s.wr (Reg.GOV_DEMAND n) (w (d + at_ 16 here + at_ 32 meas))
  let s := s.setGov n { t0 := s.now, offer := offer, request := request, bids := [⟨n, offer, request⟩]
                        change := (s.gov n).change, pause := (s.gov n).pause
                        halt := (s.gov n).halt }
  let s := { s with pkmBids := s.pkmBids.filter (· != n) }
  s.emit (.bid n offer request d)

def execTariffRound (die : BitVec 2) (s : State) : Host.Outcome State Fault Refusal := live s (fxTariffRound die.toNat)

/-- BID_RECEIVE (R414, R415, R417): a bid of die `src` for the round that began at tick `t0` arrives at a governor, or at the package
manager (4), which hears of the running round only. A bid later than 50 µs into its round is left out, and sets TARIFFLOST. -/
def fxBidReceive (at' src t0 offer request : Nat) (s : State) : State :=
  if at' = 4 then
    { s with pkmBids := if t0 ≠ (s.gov src).t0 ∨ s.pkmBids.contains src then s.pkmBids else s.pkmBids ++ [src] }
  else if 4 ≤ at' ∨ at' = src then s
  else
    let g := s.gov at'
    if t0 + 5000 < s.now ∨ t0 = g.t0 ∧ g.computed then s.govEvent at' 0
    else if t0 ≠ g.t0 ∨ (g.bids.any fun b => b.die == src) then s
    else s.setGov at' { g with bids := g.bids ++ [⟨src, offer, request⟩] }

def execBidReceive (receiver : BitVec 3) (src : BitVec 2) (round : Word) (bid : BitVec 16 × BitVec 16) (s : State) :
    Host.Outcome State Fault Refusal :=
  live s (fxBidReceive receiver.toNat src.toNat round.toNat bid.1.toNat bid.2.toNat)

/-- GRANT_COMPUTE (R415): at t0 + 50 µs an offering governor computes its grants, lowers its budget by their sum and sends
them. -/
def fxGrantCompute (n : Nat) (s : State) : State :=
  let g := s.gov n
  if s.now < g.t0 + 5000 ∨ g.computed ∨ g.bids.isEmpty then s else
  let o := (g.bids.map fun b => b.offer).sum
  let q := (g.bids.map fun b => b.request).sum
  let grants := g.bids.map fun b => (b.die, if max o q = 0 then 0 else g.offer * b.request / max o q)
  let total := (grants.map (·.2)).sum
  let s := s.setGov n { g with computed := true, out_ := total }
  let s := s.wrB (Reg.GOV_BUDGET n) 15 0 (s.govB n - total)
  grants.foldl (fun s e => if e.2 = 0 then s else s.emit (.grant n e.1 e.2)) s

def execGrantCompute (die : BitVec 2) (s : State) : Host.Outcome State Fault Refusal := live s (fxGrantCompute die.toNat)

/-- GRANT_RECEIVE (R415): a grant of the round that began at tick `t0` raises the budget up to the ceiling; one that arrives after
t0 + 100 µs is discarded. -/
def fxGrantReceive (n t0 amount : Nat) (s : State) : State :=
  if t0 + 10000 < s.now then s.govEvent n 0
  else if s.now < t0 then s
  else
    let g := s.gov n
    let b := s.govB n
    let c := s.pkmCeil n
    let b' := max b (min c (b + amount))
    let s := s.wrB (Reg.GOV_BUDGET n) 15 0 b'
    let s := s.setGov n { g with in_ := g.in_ + (b' - b) }
    if c < b + amount then (s.govEvent n 3).govEvent n 0 else s

def execGrantReceive (die : BitVec 2) (grant : Word × BitVec 16) (s : State) : Host.Outcome State Fault Refusal :=
  live s (fxGrantReceive die.toNat grant.1.toNat grant.2.toNat)

def State.opp (s : State) (n : Nat) : Nat := s.rdB (Reg.GOV_STATUS n) 4 0

/-- Frequency of a point in MHz (R411). -/
def oppFreq (i : Nat) : Nat := 1200 + 100 * i

/-- A die runs at a point: frequency and voltage show it (R411). The arithmetic clock stops for the switch, for a free time of at
most 1 µs (R412). -/
def State.setOpp (s : State) (n i : Nat) : State :=
  let (v, s) := s.free
  let s := s.setGov n { s.gov n with halt := s.now + v.toNat % 101 }
  let s := s.wrB (Reg.GOV_STATUS n) 4 0 i
  let s := s.wrB (Reg.GOV_STATUS n) 27 16 (oppFreq i)
  s.wrB (Reg.GOV_STATUS n) 41 32 (s.rdB (Reg.GOV_VF n i) 15 0)

/-- Command a point (R412): raising waits for the regulator; lowering switches the clock and then commands the voltage. -/
def State.changeOpp (s : State) (n i : Nat) : State :=
  let s := s.emit (.avs n (s.rdB (Reg.GOV_VF n i) 15 0))
  if s.opp n < i then s.setGov n { s.gov n with change := some (i, s.now) }
  else
    let s := s.setOpp n i
    s.setGov n { s.gov n with change := none }

/-- A measured temperature in °C, below the limit at which the device trips: one that reaches it is the command THERMAL_TRIP (R484,
log entry 5). -/
def State.freeTemp (s : State) (limit : Nat) : Nat × State :=
  let (v, s) := s.free
  (v.toNat % limit, s)

/-- The point for the next round (R416): the highest one allowed whose estimate lies within the budget (`fit`, 25 where not even
point 0 does), at most four above the present one; while the temperature limits, at least one below it. -/
def nextOpp (fit top now : Nat) (limited : Bool) : Nat :=
  let want := min (min top (if fit = 25 then 0 else fit)) (now + 4)
  if limited then min want (now - 1) else want

/-- ROUND_END (R416, R417): the governor chooses its point for the next round. The temperature, the highest point whose estimate
lies within the budget and the ticks of a pause are free values. -/
def fxRoundEnd (n : Nat) (s : State) : State :=
  let g := s.gov n
  if s.now < g.t0 + 10000 ∨ !bit (s.rd Reg.RST_STATUS) 12 then s else
  let (temp, s) := s.freeTemp 115
  let (fv, s) := s.free
  let fit := bits fv 7 0 % 26
  let (pv, s) := s.free
  let top := s.rdB (Reg.GOV_CFG n) 28 24
  let tl := s.rdB (Reg.GOV_CFG n) 23 16
  let s := s.wr (Reg.GOV_TARIFF n) (w (g.out_ % 2 ^ 16 + at_ 16 (g.in_ % 2 ^ 16)
    + at_ 32 (s.rdB (Reg.GOV_TARIFF n) 63 32 + 1)))
  let limited := decide (tl ≤ temp) || (bit (s.rd (Reg.GOV_STATUS n)) 56 && decide (tl - 2 ≤ temp))
  let s := s.wrB (Reg.GOV_STATUS n) 55 48 temp
  let want := nextOpp fit top (s.opp n) limited
  let s := s.wrB (Reg.GOV_STATUS n) 56 56 (if limited then 1 else 0)
  let s := s.wrB (Reg.GOV_STATUS n) 57 57 (if (fit < top ∧ want = fit) ∨ fit = 25 then 1 else 0)
  let s := if fit = 25 then s.govEvent n 2 else s
  let s := if limited then s.govEvent n 1 else s
  let s := s.setGov n { s.gov n with t0 := s.now, bids := [], pause := if fit = 25 then 1 + pv.toNat % 10000 else 0 }
  let s := if (s.pkmBids.contains n) then s else s.pkmEvent 1
  if (s.gov n).change.isSome ∨ want = s.opp n then s else s.changeOpp n want

def execRoundEnd (die : BitVec 2) (s : State) : Host.Outcome State Fault Refusal := live s (fxRoundEnd die.toNat)

/-- AVS_SETTLE (R412): the regulator reports the commanded voltage, and the arithmetic clock switches. -/
def fxAvsSettle (n : Nat) (s : State) : State :=
  match (s.gov n).change with
  | some (i, t) =>
    if s.now ≤ t + 5000 then
      let s := s.setOpp n i
      s.setGov n { s.gov n with change := none }
    else s
  | none => s

def execAvsSettle (die : BitVec 2) (s : State) : Host.Outcome State Fault Refusal := live s (fxAvsSettle die.toNat)

/-- AVSFAIL (R412): the bound has passed; the governor stays at the lower point and rewrites its voltage. -/
def fxAvsfail (n : Nat) (s : State) : State :=
  match (s.gov n).change with
  | some (_, t) =>
    if t + 5000 ≤ s.now then
      let s := s.setGov n { s.gov n with change := none }
      (s.emit (.avs n (s.rdB (Reg.GOV_VF n (s.opp n)) 15 0))).govEvent n 4
    else s
  | none => s

def execAvsfail (die : BitVec 2) (s : State) : Host.Outcome State Fault Refusal := live s (fxAvsfail die.toNat)

/-! ### Reference clocks and guest link -/

/-- The ports that a link reference feeds (R407). -/
def refPorts (r : Nat) : List Nat := (List.range 8).map fun k => 8 * (r % 2) + k

/-- A port has lost its reference: ACTIVE goes down with cause SIGNAL, training fails. -/
def State.refDown (s : State) (p : Nat) : State :=
  if s.lnkState p = 4 then s.linkDown p 3 1 else if s.lnkState p = 3 then s.trainFail p else s

/-- REFCLK_LOSS (R407): a link reference is lost, and its ports go down with cause SIGNAL. It may come while a reset holds the
device. -/
def fxRefclkLoss (r : Nat) (s : State) : State :=
  let s := { s with refLost := s.refLost ||| 2 ^ (r % 2) }
  let s := s.wrB Reg.CLK_STATUS (21 + r % 2) (21 + r % 2) 0
  if s.held then s else (refPorts r).foldl (fun s p => s.refDown p) s

def execRefclkLoss (ref : BitVec 1) (s : State) : Host.Outcome State Fault Refusal :=
  if s.tripped then .fault .afterTrip else pinAct s (fxRefclkLoss ref.toNat)

/-- REFCLK_RETURN (R407): the ports in DETECT may train. -/
def fxRefclkReturn (r : Nat) (s : State) : State :=
  let s := { s with refLost := s.refLost &&& (3 - 2 ^ (r % 2)) }
  let s := s.wrB Reg.CLK_STATUS (21 + r % 2) (21 + r % 2) 1
  if s.held then s else (refPorts r).foldl (fun s p => s.tryTrain p) s

def execRefclkReturn (ref : BitVec 1) (s : State) : Host.Outcome State Fault Refusal :=
  if s.tripped then .fault .afterTrip else pinAct s (fxRefclkReturn ref.toNat)

end Sys2Proof.Machine
end

