-- ==== Sys2Proof/Machine/Boot.lean ====
section
/-!
DEFINITION. Resets and boot (R409, R422 to R427, R473 to R475, R484) with the boot chain, enrolment and the nonce (R430 to R437).
-/

namespace Sys2Proof.Machine

/-! ### What a reset keeps (R423) -/

/-- Registers that fuses hold, or that are fixed at manufacture (R430, R465). -/
def fusedRegs : List RegName := [.SEC_SERIAL0, .SEC_SERIAL1, .SEC_ROOT_KEY, .SEC_OWNER_KEY, .SEC_STATUS, .ID_PART, .GOV_VF,
  .CGT_STATUS, .ID_LOADER_VER]

/-- What a full reset keeps beside the fuses. -/
def resetKept : List RegName := fullResetKept ++ [.PKM_PERIODS, .RST_STATUS, .RST_TIME, .SEC_DBG_STATUS, .CLK_STATUS]

/-- What a retained reset keeps beside that: the retained job's identity (R58, R62). -/
def retainedRegs : List RegName := [.ID_JOB_ID, .ID_MNF_DIGEST0, .ID_MNF_DIGEST1, .ID_MNF_DIGEST2, .ID_MNF_DIGEST3,
  .ID_PLC_DIGEST0, .ID_PLC_DIGEST1, .ID_PLC_DIGEST2, .ID_PLC_DIGEST3]

/-- Address and length of command memory (R384). -/
def cmdMemBase : Nat := ctlBase 4 + 0x390000
def cmdMemBytes : Nat := 0x20000

/-- Every reset zeroises the operand stores and command memory. -/
def State.zeroStores (s : State) : State :=
  let s := [0, 1, 2, 3].foldl (fun s n => s.zeroise (sramBase n) sramBytes) s
  s.zeroise cmdMemBase cmdMemBytes

/-- Fuse-backed registers after a reset: boot results, the lock and the gate's state are gone (R434, R444). -/
def State.fusesAfter (s : State) : State :=
  let s := s.wr Reg.SEC_STATUS (putBits (putBits (s.rd Reg.SEC_STATUS) 3 0 0) 20 20 0)
  s.wr Reg.CGT_STATUS (s.rd Reg.CGT_STATUS &&& 4)

/-- MEM_STK_STATUS.STATE of every stack. -/
def State.stacks (s : State) (st : Nat) : State := (List.range 8).foldl (fun s k => s.wrB (Reg.MEM_STK_STATUS k) 1 0 st) s

/-- A reset cuts the blowing of the anti-rollback bits of boot step 6 short: the count ends anywhere up to the SVN, as a free value
says (R434). -/
def State.blowCut (s : State) : State :=
  let k := s.rdB Reg.SEC_STATUS 10 4
  if s.rdB Reg.RST_STATUS 11 8 = 6 ∧ k < s.svnTarget then
    let (v, s) := s.free
    s.wrB Reg.SEC_STATUS 10 4 (k + v.toNat % (s.svnTarget - k + 1))
  else s

/-- The READY pin is released (R473). -/
def State.readyPin (s : State) : Bool := !s.held && bit (s.rd Reg.RST_STATUS) 12

/-- Show the READY pin where it has changed. -/
def State.showReady (s : State) (was : Bool) : State := if s.readyPin = was then s else s.emit (.ready s.readyPin)

/-- Power-on reset (R422, R423): everything but the fuses, and the faults of the memory (R307). -/
def State.powerOn (s : State) : State :=
  let was := s.readyPin
  let s := s.blowCut
  let t : State := { State.reset with
    pending := s.pending, out := s.out, freeIx := s.freeIx, jnl := s.jnl, regs := s.regs, mem := s.mem, held := true
    flashOwn := s.flashOwn, refLost := s.refLost, faults := s.faults }
  (((t.revert true fusedRegs).fusesAfter).zeroStores).showReady was

/-- Fields that a full reset keeps of registers that it otherwise clears: the link layer's and the mailboxes' counters (R337,
R405). -/
def keptFields : List (Nat × Nat × Nat) :=
  ((List.range 16).map fun p =>
    [(Reg.LNK_STATUS p, 31, 16), (Reg.LNK_LANE0 p, 47, 16), (Reg.LNK_LANE1 p, 47, 16)]).flatten
    ++ (List.range 64).map fun k => (Reg.MBX_STATUS k, 63, 32)

/-- A full reset is retained (R54, R423). -/
def State.retains (s : State) : Bool :=
  bit (s.rd Reg.RST_CFG) 0 && (s.jobState == 2 || s.jobState == 3 || s.jobState == 5)

/-- A full reset (R422 to R424): `cause` 2 for RESET_N, 3 for a signed request. The TAP goes on, but EXTEST loses its permission
(R441, R476); the faults of the memory stay (R307). -/
def State.fullReset (s : State) (cause : Nat) : State :=
  let was := s.readyPin
  let s := s.errFlush.blowCut
  let kept := s.retains
  let rst := s.rd Reg.RST_STATUS
  let t : State := { State.reset with
    pending := s.pending, out := s.out, now := s.now, freeIx := s.freeIx, jnl := s.jnl, regs := s.regs, mem := s.mem
    par := s.par.filter fun (e : Nat × Nat) => decide (e.1 < lpddrBytes)
    held := true, resetLow := true, bootAt := s.now, trip := s.trip, straps := s.straps, smbAlert := s.smbAlert, dynAddr := s.dynAddr
    flashOwn := s.flashOwn, refLost := s.refLost, faults := s.faults, tapReset := s.tapReset, tapData := s.tapData
    tapIr := if s.tapIr = 3 then 0xFF else s.tapIr
    journal := if kept then s.journal else none, permJournal := if kept then s.permJournal else none }
  let t := ((t.revert true (fusedRegs ++ resetKept ++ if kept then retainedRegs else [])).fusesAfter).zeroStores
  let t := keptFields.foldl (fun t f => t.wrB f.1 f.2.1 f.2.2 (s.rdB f.1 f.2.1 f.2.2)) t
  let t := t.wr Reg.SEC_DBG_STATUS (t.rd Reg.SEC_DBG_STATUS &&& 0x10)
  let t := t.wr Reg.CLK_STATUS (t.rd Reg.CLK_STATUS &&& 0x700000)
  let t := t.wr Reg.RST_STATUS (w (cause + at_ 3 (if kept then 1 else 0) + at_ 8 1
    + at_ 32 (satAdd (2 ^ 32 - 1) (bits rst 63 32) 1)))
  let t := t.wr Reg.RST_TIME (w s.now)
  (if kept then (t.setJob 5).stacks 3 else t).showReady was

/-- POR_N_ASSERT (R422, R423). -/
def execPorNAssert (s : State) : Host.Outcome State Fault Refusal := pinAct s State.powerOn

/-- RESET_N_ASSERT (R422 to R424): RESET_N has been low for 10 µs; it is ignored while POR_N is low (R473). -/
def fxResetNAssert (s : State) : State := if s.held && !s.resetLow && !s.stuck then s else s.fullReset 2

def execResetNAssert (s : State) : Host.Outcome State Fault Refusal :=
  if s.tripped then .fault .afterTrip else pinAct s fxResetNAssert

/-- A signed reset request acts once its completion has been acknowledged or 100 µs have passed (R440). -/
def State.resetReqGo (s : State) : State :=
  match s.resetReq with
  | none => s
  | some (r, seq, due) =>
    if !((s.ring r).ops.any fun o => o.seq == seq) || decide (due ≤ s.now) then s.fullReset 3 else s

/-! ### Keys -/

/-- A key slot is usable (R430): slot 0, or enrolled and not revoked. -/
def State.slotUsable (s : State) (k : Nat) : Bool :=
  k == 0 || (decide (k ≤ 4) && s.rdB Reg.SEC_STATUS (11 + k) (11 + k) == 1 && s.rdB Reg.SEC_STATUS (15 + k) (15 + k) == 0)

/-- The fused digest of a key slot. -/
def State.slotDigest (s : State) (k : Nat) : List Byte :=
  ((List.range 4).map fun i =>
    toBytes 8 (s.rd (if k = 0 then Reg.SEC_ROOT_KEY i else Reg.SEC_OWNER_KEY (4 * (k - 1) + i))).toNat).flatten

/-- A public key is the one that a slot's fuses name. -/
def State.slotKey (s : State) (k : Nat) (pub : List Byte) : Bool := s.slotUsable k && sm3 pub == s.slotDigest k

/-- The fused serial number. -/
def State.serial (s : State) : List Byte := toBytes 8 (s.rd Reg.SEC_SERIAL0).toNat ++ toBytes 8 (s.rd Reg.SEC_SERIAL1).toNat

/-- A fresh nonce (R437). -/
def State.freshNonce (s : State) : State :=
  let (v, s) := s.free
  s.wr Reg.SEC_NONCE v

/-- An event of the security block, with SEC_BOOT or, for debug events, SEC_DBG_STATUS (R453). -/
def State.secEvent (s : State) (ev status : Nat) : State :=
  s.raise 4 Blk.sec Reg.SEC_EVT Reg.SEC_EVT_EN ev
    { status := status, at0 := some (if ev = 1 ∨ ev = 2 then Reg.SEC_DBG_STATUS else Reg.SEC_BOOT) }

/-! ### The boot chain (R431 to R434) -/

def ascii (s : String) : List Byte := s.toList.map fun c => BitVec.ofNat 8 c.toNat

def imStage (i : List Byte) : Nat := leAt i 8 1
def imKeySlot (i : List Byte) : Nat := leAt i 9 1
def imFlags (i : List Byte) : Nat := leAt i 0xA 2
def imSvn (i : List Byte) : Nat := leAt i 0xC 4
def imBodyLen (i : List Byte) : Nat := leAt i 0x10 4
def imBody (i : List Byte) : List Byte := slice i 0x100 (imBodyLen i)

/-- The checks of one image, as the cause code of the first that fails (R432). A read that falls while the board owns the flash
fails (R475); so does one that returns no whole header. -/
def State.imageCause (s : State) (stage : Nat) (i : List Byte) : Nat :=
  if s.flashOwn || decide (i.length < 256) then 6
  else if slice i 0 8 ≠ ascii "LMVFWIMG" ∨ imStage i ≠ stage ∨ 2 ≤ imFlags i ∨ 64 < imSvn i ∨ imBodyLen i = 0
      ∨ 2 ^ 24 - 256 < imBodyLen i ∨ !allZero (slice i 0x14 12) ∨ !allZero (slice i 0x80 64) then 1
  else if !s.slotKey (imKeySlot i) (slice i 0x20 64) then 2
  else if imSvn i < s.rdB Reg.SEC_STATUS 10 4 then 3
  else if !sm2Verify (slice i 0x20 64) (i.take 0xC0) (slice i 0xC0 64) then 4
  else if sm3 (imBody i) ≠ slice i 0x60 32 then 5
  else 0

/-- A copy: the cause and the stage that failed; 0 when both pass. -/
def State.copyCause (s : State) (l f : List Byte) : Nat × Nat :=
  let c := s.imageCause 1 l
  if c ≠ 0 then (c, 1) else
  let c := s.imageCause 2 f
  if c ≠ 0 then (c, 2) else (0, 0)

/-- Write a 32-byte digest into the registers of a measurement (R433). -/
def State.putMeas (s : State) (m : Nat) (d : List Byte) : State :=
  (List.range 4).foldl (fun s k => s.wr (Reg.SEC_MEAS (4 * m + k)) (w (leAt d (8 * k) 8))) s

/-- The measurement of the boot ROM (R433, log entry 3). -/
def romMeasure : List Byte := ((List.range 4).map fun k => toBytes 8 (Config.romDigest k).toNat).flatten

/-- Boot steps 3 to 5 for a copy that passes: the rails to point 0 and the PLLs, stacks, zeroisation or retention (R425, R426), and
the measurements (R433). Then step 6 begins: the anti-rollback count that it has to reach (R434), and the ports with AUTO set
(R333, R336). -/
def State.bootOn (s : State) (copy : Nat) (l f : List Byte) (stacksOk : Bool) : State :=
  let s := s.wrB Reg.SEC_STATUS 3 0 (imKeySlot f + 8 * copy)
  let s := ((s.putMeas 0 romMeasure).putMeas 1 (sm3 (imBody l))).putMeas 2 (sm3 (imBody f))
  let s := s.wrB Reg.SEC_BOOT 16 16 1
  let s := { s with svnTarget := if (imFlags f).testBit 0 then imSvn f else 0 }
  let s := (List.range 4).foldl (fun s n => s.changeOpp n 0) s
  let s := s.wrB Reg.CLK_STATUS 17 0 0x3FFFF
  let s := s.stacks 2
  let s := (List.range 8).foldl (fun s k => s.newWindow k) s
  let kept := s.rdB Reg.RST_STATUS 3 3 == 1
  let s := if kept ∧ !stacksOk then
      let s := (s.wrB Reg.RST_STATUS 4 4 1).logEnt 4 Blk.rst 0xFF {}
      let s := ((s.putDigest mnfRegs []).putDigest plcRegs []).wr Reg.ID_JOB_ID 0
      { s.setJob 0 with journal := none, permJournal := none }
    else s
  let s := if kept ∧ stacksOk then s else s.zeroise 0 lpddrBytes
  let s := (List.range 16).foldl (fun s p => if s.rdB (Reg.LNK_CFG p) 3 3 = 1 then s.lnkDetect p else s) s
  s.wrB Reg.RST_STATUS 11 8 6

/-- Boot steps 1 and 2 (R425, R432, R436, R437): copy A, then copy B. When both fail, boot stops in step 2, and only the pins and the
JTAG instructions without a token act. -/
def State.bootGo (s : State) (a1 a2 b1 b2 : List Byte) (stacksOk : Bool) : State :=
  let s := s.freshNonce
  let (ca, sa) := s.copyCause a1 a2
  let s := s.wrB Reg.SEC_BOOT 5 0 (ca + 16 * sa)
  if ca = 0 then s.bootOn 0 a1 a2 stacksOk else
  let (cb, sb) := s.copyCause b1 b2
  let s := s.wrB Reg.SEC_BOOT 13 8 (cb + 16 * sb)
  if cb = 0 then s.bootOn 1 b1 b2 stacksOk
  else { (s.wrB Reg.RST_STATUS 11 8 2).logEnt 4 Blk.rst 0xFF {} with held := true, stuck := true }

/-- POR_N_DEASSERT (R409, R425): the straps are sampled, the local count starts at 0, and the device boots from the two copies
in flash. State.reset is the instant at which POR_N goes high, so the command also boots from there. -/
def fxPorNDeassert (straps : Nat) (a1 a2 b1 b2 : List Byte) (s : State) : State :=
  if (s.held && !s.resetLow && !s.stuck) || (s.rdB Reg.RST_STATUS 11 8 == 1 && !s.held) then
    let s := { s with held := false, now := 0, straps := straps }
    (s.wrB Reg.CLK_STATUS 22 20 (7 - 2 * (s.refLost % 4))).bootGo a1 a2 b1 b2 true
  else s

def execPorNDeassert (straps : BitVec 2) (a1 a2 b1 b2 : List Byte) (s : State) : Host.Outcome State Fault Refusal :=
  if s.tripped then .fault .afterTrip else pinAct s (fxPorNDeassert straps.toNat a1 a2 b1 b2)

/-- RESET_N_DEASSERT (R425): the device boots. -/
def fxResetNDeassert (a1 a2 b1 b2 : List Byte) (stacksOk : Bool) (s : State) : State :=
  if s.held && s.resetLow then
    ({ s with held := false, resetLow := false } : State).bootGo a1 a2 b1 b2 stacksOk
  else s

def execResetNDeassert (a1 a2 b1 b2 : List Byte) (stacksOk : Bool) (s : State) : Host.Outcome State Fault Refusal :=
  if s.tripped then .fault .afterTrip else pinAct s (fxResetNDeassert a1 a2 b1 b2 stacksOk)

/-! ### Boot step 6: enrolment and the certificate (R435, R474, R475) -/

/-- Act on an enrolment record, or refuse it (R435). -/
def State.enrol (s : State) (r : List Byte) : State :=
  let act := leAt r 0x18 1
  let k := leAt r 0x19 1
  let signer := leAt r 0x40 1
  let pub := slice r 0x60 64
  let ok := slice r 8 16 == s.serial && s.slotKey signer pub && sm2Verify pub (r.take 0xA0) (slice r 0xA0 64)
    && decide (1 ≤ k) && decide (k ≤ 4)
  let enr := s.rdB Reg.SEC_STATUS (11 + k) (11 + k) == 1
  let rev := s.rdB Reg.SEC_STATUS (15 + k) (15 + k) == 1
  let new := slice r 0x20 32
  if ok && act == 1 && !enr && !rev then
    let s := (List.range 4).foldl (fun s i => s.wr (Reg.SEC_OWNER_KEY (4 * (k - 1) + i)) (w (leAt new (8 * i) 8))) s
    s.wrB Reg.SEC_STATUS (11 + k) (11 + k) 1
  else if ok && act == 1 && enr && !rev && new == s.slotDigest k then s
  else if ok && act == 2 && rev then s
  else if ok && act == 2 && (signer == 0 || signer == k) then s.wrB Reg.SEC_STATUS (15 + k) (15 + k) 1
  else s.secEvent 3 0

/-- Records are processed until the first whose MAGIC is wrong. -/
def State.enrolAll (s : State) : List (List Byte) → State
  | [] => s
  | r :: rs => if slice r 0 8 = ascii "LMVENROL" then State.enrolAll (s.enrol r) rs else s

/-! ### Debug tokens (R441, R442) -/

/-- A token that firmware accepts. -/
def State.tokenOk (s : State) (t : List Byte) : Bool :=
  let perms := leAt t 0x20 4
  let slot := leAt t 0x24 4
  let pub := slice t 0x28 64
  t.take 8 == ascii "LMVDBGTK" && slice t 8 16 == s.serial && leAt t 0x18 8 == (s.rd Reg.SEC_NONCE).toNat
    && s.slotKey slot pub && sm2Verify pub (t.take 0x68) (slice t 0x68 64) && decide (perms < 16)
    && (!perms.testBit 2 || slot == 0)

/-- Firmware processes a token; the nonce is fresh either way (R437). -/
def State.token (s : State) (t : List Byte) : State :=
  let ok := s.tokenOk t
  let s := s.freshNonce
  if ok then
    let d := s.rd Reg.SEC_DBG_STATUS
    let s := s.wr Reg.SEC_DBG_STATUS (putBits (setBit (d ||| w (leAt t 0x20 4)) 4) 10 8 (leAt t 0x24 4))
    s.secEvent 2 0
  else (s.addB Reg.SEC_DBG_STATUS 31 16 1).secEvent 1 0

/-- A message of a mailbox channel that a management core receives: firmware takes a token from it (R441). The token comes in the
messages' words in order, beginning with its MAGIC (log entry 93). -/
def State.mbxToken (s : State) (k : Nat) : State :=
  if !isMgmt (s.mbxReceiver k) then s
  else
    let m := ((List.range (s.rdB (Reg.MBX_STATUS k) 11 8)).map fun i => toBytes 8 (s.rd (Reg.MBX_DATA k i)).toNat).flatten
    let t := if m.take 8 == ascii "LMVDBGTK" then m else s.tokenIn.get k [] ++ m
    if t.take 8 ≠ ascii "LMVDBGTK" then s
    else if t.length < 168 then { s with tokenIn := s.tokenIn.set k t [] }
    else ({ s with tokenIn := s.tokenIn.set k [] [] } : State).token (t.take 168)

/-! ### Other pins -/

/-- THERMAL_TRIP (R484): THERMTRIP_N is driven low and the clocks stop; the cause is kept for TRIP. -/
def fxThermalTrip (cause : Nat) (s : State) : State :=
  if cause = 0 then s else { s with tripped := true, trip := cause }

def execThermalTrip (cause : BitVec 2) (s : State) : Host.Outcome State Fault Refusal :=
  if s.tripped then .fault .afterTrip else pinAct s (fxThermalTrip cause.toNat)

/-- FLASH_OWN_N (R475): the board owns the flash. -/
def execFlashOwnN (s : State) : Host.Outcome State Fault Refusal :=
  if s.tripped then .fault .afterTrip else pinAct s fun s => { s with flashOwn := true }

/-- FLASH_OWN_N_RELEASE (R475). -/
def execFlashOwnNRelease (s : State) : Host.Outcome State Fault Refusal :=
  if s.tripped then .fault .afterTrip else pinAct s fun s => { s with flashOwn := false }

end Sys2Proof.Machine
end

