-- ==== Sys2Proof/Machine/Gate.lean ====
section
/-!
DEFINITION. Atomic operations on memory (R341), and the customs gate to the guest die (R443 to R448).
-/

namespace Sys2Proof.Machine

/-! ### Atomics (R341) -/

/-- New value of an atomic operation of `n` bytes: `old`, operand `v`, and for CAS the compare value `c`. -/
def atomicNew (op n old v c : Nat) : Nat :=
  let less (a b : Nat) : Bool := decide (sgn (8 * n) a < sgn (8 * n) b)
  match op with
  | 0 => v
  | 1 => if old = c then v else old
  | 2 => (old + v) % 2 ^ (8 * n)
  | 3 => old.land v
  | 4 => old.lor v
  | 5 => old.xor v
  | 6 => if less v old then v else old
  | 7 => if less old v then v else old
  | 8 => min old v
  | _ => max old v

/-- Operand and compare value of the data of an ATOMIC: the compare value comes first (R340). -/
def atomicArgs (op n : Nat) (data : List Byte) : Nat × Nat :=
  if op = 1 then (leAt data n n, leAt data 0 n) else (leAt data 0 n, 0)

/-- The destination of an atomic: LPDDR or an operand store, else MISALIGN; outside the map, UNMAPPED (R23, R341). -/
def atomicPlace (a : Nat) : Nat :=
  match placeOf a with
  | .lpddr _ => St.ok
  | .sram _ _ => St.ok
  | .none => St.unmapped
  | _ => St.misalign

/-- Perform an atomic on local memory for a master: status and old value. -/
def State.atomic (s : State) (master a n op : Nat) (data : List Byte) : Nat × List Byte × State :=
  let form := if 9 < op ∨ (n ≠ 4 ∧ n ≠ 8) ∨ a % max n 1 ≠ 0 then St.misalign else St.ok
  let pl := atomicPlace a
  let adm := s.memCheck master a n
  let st := St.join (St.join form pl) adm
  if st ≠ 0 then (st, [], s) else
  let (st, old, s) := s.load master a n
  if st ≠ 0 then (st, [], s) else
  let (v, c) := atomicArgs op n data
  let (st, s) := s.store master a (toBytes n (atomicNew op n (ofBytes old) v c))
  if st ≠ 0 then (st, [], s) else (St.ok, old, s)

/-! ### The gate -/

def State.guestLink (s : State) : Bool := s.rdB Reg.CGT_STATUS 1 1 == 1

/-- An event of the gate; `unit` is the window concerned, as CGT_WIN_ registers index it (R450). -/
def State.cgtEvent (s : State) (ev status : Nat) (unit : Nat := 0xFF) : State :=
  s.raise 4 Blk.cgt Reg.CGT_EVT Reg.CGT_EVT_EN ev
    { status := status, master := 0xF0, unit := unit, at0 := some Reg.CGT_VIOL, at1 := some Reg.CGT_VIOL_ADDR }

/-- First and last address of window w. -/
def State.cgtLo (s : State) (k : Nat) : Nat := 4096 * s.rdB (Reg.CGT_WIN_BASE k) 45 12
def State.cgtHi (s : State) (k : Nat) : Nat := 4096 * s.rdB (Reg.CGT_WIN_LIMIT k) 45 12 + 4095
def State.cgtValid (s : State) (k : Nat) : Bool := s.rdB (Reg.CGT_WIN_BASE k) 0 0 == 1

/-- The windows of the index. -/
def cgtWindows : List Nat := List.range 16

/-- A window lies where R444 allows it: in LPDDR below the firmware region, or in one operand store below its top 2 MiB. -/
def windowFits (lo hi : Nat) : Bool :=
  decide (lo ≤ hi) && (decide (hi < fwBase) ||
    (List.range 4).any fun n => decide (sramBase n ≤ lo) && decide (hi < sramBase n + sramBytes - 0x200000))

/-- A write of CGT_CTL (R444). -/
def State.cgtOpen (s : State) (v : Word) : State :=
  if !bit v 0 then s
  else if !s.gateOpen && s.rdB Reg.CGT_STATUS 2 1 == 3
      && cgtWindows.all fun k => !s.cgtValid k || windowFits (s.cgtLo k) (s.cgtHi k) then
    (s.wrB Reg.CGT_STATUS 0 0 1).wrB Reg.CGT_STATUS 3 3 0
  else s.cgtEvent 2 0

/-- The guest's answer reaches the dispatch unit or the inbox that asked for it, whose step can be run again (log entry 98). -/
def State.guestReply (s : State) (r : FabReq) (status : Nat) (data : List Byte) : State :=
  let a : GuestReply := ⟨⟨r.master, r.typ, r.addr, r.len, r.data⟩, status, data⟩
  match r.owner with
  | .dispatch n => s.setDsp n { s.dsp n with replies := (s.dsp n).replies ++ [a], asked := false }
  | .inbox n i => s.setIbx n i { s.ibx n i with replies := (s.ibx n i).replies ++ [a], asked := false }
  | _ => s

/-- The answer to an access to the guest: to a core's (log entry 34), to a dispatch unit's or an inbox's, to a REGISTER_WRITE's, or to
a transfer's, which goes on when it is settled. -/
def State.guestDone (s : State) (g : GuestReq) (status : Nat) (data : List Byte) : State :=
  match g.req with
  | some r =>
    if r.kind = 4 then s
    else if r.kind = 3 then s.guestReply r status data
    else if r.owner = .none then s.answer status 0
    else { s with fabDone := s.fabDone ++ [⟨r, status, false, if r.typ = 1 then fitBytes r.len data else []⟩] }
  | none =>
    let c := s.core g.master
    if c.wait = .fabric then
      (s.setCore g.master { c with replies := c.replies ++ [(status, data)], wait := .none }).setGcState g.master 1
    else s

/-- Isolate the guest (R446): responses of issued requests are discarded, package requests end with GATEDENY. -/
def State.isolate (s : State) (violated : Bool) : State :=
  let s := s.wrB Reg.CGT_STATUS 0 0 0
  let s := if violated then s.wrB Reg.CGT_STATUS 3 3 1 else s
  let gs := s.guestOut
  gs.foldl (fun s g => s.guestDone g St.gatedeny []) { s with guestResp := [], guestOut := [] }

/-- Record a violation, of a window where one is concerned, and isolate the guest (R445). -/
def State.violation (s : State) (cause typ len addr : Nat) (unit : Nat := 0xFF) : State :=
  let s := s.wr Reg.CGT_VIOL (w (cause + at_ 8 typ + at_ 16 1 + at_ 32 len))
  let s := s.wr Reg.CGT_VIOL_ADDR (w (addr % 2 ^ 46))
  let s := s.wr Reg.CGT_VIOL_TIME (w s.now)
  (s.cgtEvent 0 St.gatedeny unit).isolate true

/-- LEN and ADDR obey R340. -/
def pkLenOk (typ addr len : Nat) : Bool :=
  if typ = 4 then (len == 4 || len == 8) && addr % len == 0
  else decide (1 ≤ len) && decide (len ≤ 2048) && decide (addr % 2048 + len ≤ 2048)

/-- A guest request is well formed: check 3 of R445. -/
def guestFormed (b : List Byte) : Bool :=
  let t := pkType b
  (t == 1 || t == 3 || t == 4) && pkDst b == 0 && pkSrc b == 0 && leAt b 1 1 / 4 == 0 && decide (pkTag b < 2 ^ 18)
    && decide (pkAddr b < 2 ^ 46) && (t == 4 || pkOp b == 0) && pkRsv b == 0 && pkLenOk t (pkAddr b) (pkLen b)
    && b.length == pkBytes b

/-- The VALID window that holds every byte of a request. -/
def State.guestWindow (s : State) (b : List Byte) : Option Nat :=
  cgtWindows.find? fun k => s.cgtValid k && decide (s.cgtLo k ≤ pkAddr b) && decide (pkAddr b + pkLen b ≤ s.cgtHi k + 1)

/-- A window's CLASSES allow a TYPE. -/
def State.guestClass (s : State) (k typ : Nat) : Bool :=
  bit (s.rd (Reg.CGT_WIN_BASE k)) (if typ = 1 then 1 else if typ = 3 then 2 else 3)

/-- Answer a guest request at once. -/
def State.guestRefuse (s : State) (b : List Byte) : State := s.emit (.guest (s.responseTo b St.gatedeny false []))

/-- Issue a guest request under master ID 0xF0; its response waits for the end of the tick (log entry 35). -/
def State.guestServe (s : State) (b : List Byte) : State :=
  let s := s.addB Reg.CGT_CNT_REQ 63 0 1
  let (st, data, s) :=
    if pkType b = 1 then s.load 0xF0 (pkAddr b) (pkLen b)
    else if pkType b = 3 then
      let (st, s) := s.store 0xF0 (pkAddr b) (pkData b)
      (st, [], s)
    else s.atomic 0xF0 (pkAddr b) (pkLen b) (pkOp b) (pkData b)
  { s with guestResp := s.guestResp ++ [s.responseTo b st false data] }

/-- The checks of a guest request, in order (R445). One that passes them while the gate's ports are masked waits too (R299). -/
def State.guestCheck (s : State) (b : List Byte) : State :=
  if !s.gateOpen then (s.addB Reg.CGT_CNT_DENY 63 0 1).guestRefuse b
  else if !s.jobOn then ((s.addB Reg.CGT_CNT_DENY 63 0 1).cgtEvent 1 St.gatedeny).guestRefuse b
  else
    let bad (c unit : Nat) : State := (s.violation c (pkType b) (pkLen b) (pkAddr b) unit).guestRefuse b
    if !guestFormed b then bad 1 0xFF else
    match s.guestWindow b with
    | none => bad 2 0xFF
    | some k =>
      if !s.guestClass k (pkType b) then bad 3 k
      else if s.rdB Reg.CGT_CFG 8 0 ≤ s.guestResp.length ∨ s.isMasked 0xF0 then { s with guestWait := s.guestWait ++ [⟨b, 0xF0, s.now, none⟩] }
      else s.guestServe b

/-- A guest request arrives over the trained link. -/
def fxGuest (b : List Byte) (s : State) : State := if s.guestLink then s.guestCheck b else s

/-- The responses of the guest's issued requests return, and the requests held back are checked again (R445). -/
def State.guestTick (s : State) : State :=
  let out := s.guestResp
  let waiting := s.guestWait
  let s := out.foldl (fun s b => s.emit (.guest b)) { s with guestResp := [], guestWait := [] }
  waiting.foldl (fun s g => s.guestCheck g.packet) s

/-- GUEST_READ (R445): a READ, or a packet of a TYPE that no guest may send. -/
def fxGuestRead (b : List Byte) (s : State) : State :=
  if pkType b = 3 ∨ pkType b = 4 ∨ pkType b = 8 then s else fxGuest b s

def execGuestRead (packet : List Byte) (s : State) : Host.Outcome State Fault Refusal := live s (fxGuestRead packet)

/-- GUEST_WRITE (R445). -/
def fxGuestWrite (b : List Byte) (s : State) : State := if pkType b = 3 then fxGuest b s else s

def execGuestWrite (packet : List Byte) (s : State) : Host.Outcome State Fault Refusal := live s (fxGuestWrite packet)

/-- GUEST_ATOMIC (R445). -/
def fxGuestAtomic (b : List Byte) (s : State) : State := if pkType b = 4 then fxGuest b s else s

def execGuestAtomic (packet : List Byte) (s : State) : Host.Outcome State Fault Refusal := live s (fxGuestAtomic packet)

/-- GUEST_RESPONSE (R445): it completes the package request of its TAG, or is a violation. -/
def fxGuestResponse (b : List Byte) (s : State) : State :=
  if !s.guestLink || pkType b != 8 then s else
  match s.guestOut.find? fun g => pkTag g.packet == pkTag b with
  | some g =>
    let s := { s with guestOut := s.guestOut.filter fun h => pkTag h.packet != pkTag b }
    s.guestDone g (pkOp b) (pkData b)
  | none => s.violation 4 8 (pkLen b) (pkAddr b)

def execGuestResponse (packet : List Byte) (s : State) : Host.Outcome State Fault Refusal := live s (fxGuestResponse packet)

/-- GUEST_TIMEOUT (R447): the oldest package access to the guest has waited CGT_CFG.TMO ticks. -/
def fxGuestTimeout (s : State) : State :=
  match s.guestOut with
  | [] => s
  | g :: _ =>
    if g.since + s.rdB Reg.CGT_CFG 63 32 ≤ s.now then
      s.violation 5 (pkType g.packet) (pkLen g.packet) (pkAddr g.packet)
    else s

def execGuestTimeout (s : State) : Host.Outcome State Fault Refusal := live s fxGuestTimeout

/-- GUEST_LINK_DOWN (R447). -/
def fxGuestLinkDown (s : State) : State :=
  if s.guestLink then
    let s := (s.wrB Reg.CGT_STATUS 1 1 0).isolate false
    { s with guestWait := [] }.cgtEvent 3 0
  else s

def execGuestLinkDown (s : State) : Host.Outcome State Fault Refusal := live s fxGuestLinkDown

/-- GUEST_LINK_TRAINED (R443). -/
def fxGuestLinkTrained (s : State) : State :=
  if s.rdB Reg.CGT_STATUS 2 2 = 1 then s.wrB Reg.CGT_STATUS 1 1 1 else s

def execGuestLinkTrained (s : State) : Host.Outcome State Fault Refusal := live s fxGuestLinkTrained

end Sys2Proof.Machine
end

