-- ==== Sys2Proof/Machine/Bus.lean ====
section
/-!
DEFINITION. The register bus (R5 to R11, R464, R485 to R487) and the accesses of a master to any local address: what a read of
a register returns, who may write it, what a write does; command memory (R384, R385) and the debug path (R477).
-/

namespace Sys2Proof.Machine

/-! ### Reads -/

/-- An access of the debug path to a control space is within its permissions (R477). -/
def State.debugReach (s : State) (n off : Nat) : Bool :=
  if n = 4 then s.perm 2 else decide (0x200000 ≤ off) && decide (off < 0x220000) && s.perm 0

/-- A read of `n` bytes in control space (R6 to R9). -/
def State.regRead (s : State) (master src a n : Nat) : Nat × List Byte × State :=
  if !regAligned a n then (St.misalign, [], s)
  else if master = 0xE4 ∧ !s.debugReach ((a - ctlBase 0) / 0x1000000) (a % 0x1000000) then (St.denied, [], s)
  else match regFind a with
  | none => (St.ok, zeroBytes n, s)
  | some h =>
    let (st, s) := s.readStatus master src h
    if st ≠ 0 then (st, [], s) else
    let (v, s) := s.regValue h (h.addr a)
    (St.ok, ((toBytes 8 v.toNat).drop h.byte).take n, s)

/-! ### Writes -/

/-- Some ring with job control belongs to a device (R428). -/
def State.jobctlOwner (s : State) (dev : Nat) : Bool :=
  (List.range 16).any fun r => bit (s.rd (Reg.CMD_RING_CFG r)) 63 && s.ringJobctl r && s.ringOwner r == dev

/-- Whether a write takes effect: OK and effect, OK without effect, or DENIED (R385, R428, R486, and the register rules of the
chapters). -/
inductive Admit where
  | yes | ignored | denied
  deriving DecidableEq, Repr

/-- The read-only registers of the package manager, which R428's DENIED covers too. -/
def pkmReadOnly (r : RegName) : Bool := [RegName.PKM_GRANT, .PKM_POOL, .PKM_POWER, .PKM_PERIODS].contains r

/-- Who may write a register, and when. LED_RESOLVE decides by itself what a write in another job state does (R142). -/
def State.writeAdmit (s : State) (master src : Nat) (h : RegHit) : Admit :=
  let dbg := master == 0xE4
  if h.row.name = .LED_RESOLVE then .yes else
  match h.row.writer with
  | .ro => if pkmReadOnly h.row.name && !isMgmt master && !dbg then .denied else .ignored
  | .jobRR => if isMgmt master || s.jobOn then .yes else .ignored
  | .jobReady => if isMgmt master || s.jobState == 2 then .yes else .ignored
  | .mgmt => if isMgmt master || dbg then .yes else .denied
  | .ring => if dbg || s.ringParty (h.i 0) master src then .yes else .denied
  | .rstCfg => if isMgmt master || dbg || (master == 0xE8 && s.jobctlOwner src) then .yes else .denied
  | .mailbox | .anyone => .yes
  | .colRx => if master == 0xE8 || master == 0xD5 then .yes else .denied

/-- A write of QU_PEEK_SEL latches a queue's head (R289). DESIGN CHOICE (log entry 78): a value above 4,351, for which R289 gives
no range and no queue, is stored and latches zeros. -/
def State.quPeek (s : State) (n : Nat) (v : Word) : State :=
  let q := bits v 12 0
  let ok := decide (q < 4352)
  let s := s.wr (Reg.QU_PEEK_SEL n) v
  let s := s.wr (Reg.QU_PEEK_INFO n) (if ok then s.qHeadWord q true else 0)
  let d := if ok then fitBytes 256 (s.qHeadBytes q) else zeroBytes 256
  (List.range 32).foldl (fun s k => s.wr (Reg.QU_PEEK_DATA n k) (w (leAt d (8 * k) 8))) s

/-- A context's registers are written only while it holds a stage (R89, R114). -/
def stageReg (r : RegName) : Bool :=
  [RegName.CAD_CTL, .CAD_LAG_MAX, .CAD_LAG_BOUND, .CAD_END, .CAD_EVT, .CAD_EVT_EN, .MBQ_POOL_PEAK, .MBQ_GATE, .MBQ_ABORT,
    .MBQ_EVT, .MBQ_EVT_EN].contains r

/-- The effect of an admitted write of `v` on the bits of `m` at register `a`; `k` is the part written (as in halfMask). A
32-bit write that gives only the reserved half of CMD_DB_PI or CMD_DB_CQH is ignored (R9). DESIGN CHOICE (log entry 77): the
half of a write-only register that a 32-bit write does not give (COL_RX, COL_VOTE_RX, COL_SUBMIT, DSP_SUBMIT, UPD_TRIGGER, MBX_SEND,
MBX_ACK, MBQ_ABORT, LED_RESOLVE, SYN_MADV) counts as zero, and the write acts on the whole value: one of MBQ_ABORT's GO half alone
aborts SEQ 0. -/
def State.regEffect (s : State) (master src : Nat) (h : RegHit) (a k : Nat) (v : Word) : Nat × State :=
  let n := h.i 0
  let x := h.i 1
  let m := halfMask k
  let v := v &&& m
  let ok (s : State) : Nat × State := (St.ok, s)
  match s.fieldNew a v m with
  | none => ok s
  | some new =>
  let plain := s.wr a new
  match h.row.name with
  | .CAD_CTL | .CAD_LAG_MAX | .CAD_LAG_BOUND | .CAD_END | .CAD_EVT | .CAD_EVT_EN =>
    ok (s.setStg n x { s.stg n x with regPend := (s.stg n x).regPend ++ [(a + k, v)] })
  | .MBQ_GATE => ok (fxAdmission n x plain)
  | .MBQ_ABORT => ok (fxAdmission n x (s.mbqAbort n x v))
  | .MBQ_CTX_SEL => ok (s.mbqLatch n new)
  | .MBQ_POOL_PEAK => ok (s.wr a (w (max (bits new 31 0) (s.usedPages n x).length)))
  | .LED_RESOLVE => ok (s.ledResolve master v)
  | .LED_SEL => ok (s.ledLatch new)
  | .MX_IX_SEL => ok (s.mxIxLatch (16 * n + x) new)
  | .DSP_SUBMIT => ok (s.dspSubmit master n v)
  | .DSP_IBX_CFG => ok (if bit v 63 then plain.setIbx n x { plain.ibx n x with master := master } else plain)
  | .UPD_TRIGGER => ok (s.updTrigger n v)
  | .QU_PEEK_SEL => ok (s.quPeek n new)
  | .SYN_MADV => ok (if bit v 63 then s.msAdd (bits v 13 0) (bits v 47 16) else s)
  | .MEM_PAR_THRESH => ok (plain.newWindow n)
  | .COL_SUBMIT => ok (s.colSubmit v)
  | .COL_VOTE_CFG => ok (s.voteCfg new)
  | .COL_RX => s.colRx v
  | .COL_VOTE_RX => ok (s.voteRx v)
  | .CMD_RING_CFG => ok (s.ringCfg n new)
  | .CMD_CQ_BASE | .CMD_CQ_CFG => ok (if s.ringState n = 1 then plain else s)
  | .CMD_DB_PI => ok (if k = 2 then s else s.dbPi n (bits v 31 0))
  | .CMD_DB_CQH => ok (if k = 2 then s else s.dbCqh n (bits v 31 0))
  | .CMD_RING_CTL => ok (s.ringCtl n v)
  | .MBX_DATA => s.mbxData n x master src new
  | .MBX_SEND =>
    let (st, t) := s.mbxSend n master src v
    (st, if s.mbxState n ≠ 1 ∧ t.mbxState n = 1 then t.mbxToken n else t)
  | .MBX_ACK => s.mbxAck n master src v
  | .MBX_BIND | .MBX_NOTIFY => if s.rdB Reg.MBX_LOCK 0 0 = 1 then (St.denied, s) else ok plain
  | .MBX_LOCK => if s.rdB Reg.MBX_LOCK 0 0 = 1 then (St.denied, s) else ok (s.wr a (s.rd a ||| (v &&& 1)))
  | .LNK_CTL => ok (s.lnkCtl n v)
  | .LNK_CR_SIZE => ok (if ((List.range 4).map fun c => bits new (16 * c + 12) (16 * c)).sum ≤ 4096 then plain else s)
  | .RTE_GROUP | .RTE_MEMBER =>
    ok (if isMgmt master ∧ (s.jobState = 0 ∨ s.jobState = 5) then { plain with baseRoutes := plain.baseRoutes.set a new 0 }
      else plain)
  | .RTE_SELF => ok ((List.range 16).foldl (fun s p => s.tryTrain p) plain)
  | .LNK_CFG => ok (plain.tryTrain n)
  | .FAB_TAG_CFG => ok (plain.serveTags plain.tagWaits.length)
  | .SEC_LOCK => ok (s.wr a (s.rd a ||| (v &&& 1)))
  | .SEC_CTRL_ID | .SEC_CTRL_KEY => ok (if s.rdB Reg.SEC_LOCK 0 0 = 1 then s else plain)
  | .CGT_CFG | .CGT_WIN_BASE | .CGT_WIN_LIMIT => ok (if s.gateOpen then s else plain)
  | .CGT_CTL => ok (s.cgtOpen v)
  | .ERR_CONS => ok (s.errCons n new)
  | .ERR_FIRST_CLR => ok (s.errFirstClr n v)
  | .DEM_CTL => ok (s.demClear n x v)
  | .PKM_GUEST => ok (if s.jobState = 0 then plain else s)
  | _ => ok plain

/-- A write of `bs` in control space. -/
def State.regWrite (s : State) (master src a : Nat) (bs : List Byte) : Nat × State :=
  if !regAligned a bs.length then (St.misalign, s)
  else if master = 0xE4 ∧ !s.debugReach ((a - ctlBase 0) / 0x1000000) (a % 0x1000000) then (St.denied, s)
  else match regFind a with
  | none => (St.ok, s)
  | some h =>
    match s.writeAdmit master src h with
    | .ignored => if h.row.writer = .ro then s.readStatus master src h else (St.ok, s)
    | .denied => (St.denied, s)
    | .yes =>
      if stageReg h.row.name && !s.ctxValid (h.i 0) (h.i 1) then (St.ok, s)
      else s.regEffect master src h (h.addr a) (if bs.length = 8 then 0 else if h.byte = 0 then 1 else 2)
        (w (ofBytes bs * 2 ^ (8 * h.byte)))

/-! ### Command memory (R384, R385) -/

/-- Status of an access to command memory at an offset. The command processor and its DMA channels access control space in 4 or
8 aligned bytes (R394). -/
def State.cmdMemCheck (s : State) (master src off n : Nat) : Nat :=
  if n = 0 ∨ 0x2000 < off % 0x2000 + n then St.misalign
  else if 0xD0 ≤ master ∧ master ≤ 0xD3 ∧ !regAligned off n then St.misalign
  else if master = 0xE4 then (if s.perm 2 then St.ok else St.denied)
  else if s.ringParty (off / 0x2000) master src then St.ok else St.denied

/-! ### Any local address -/

/-- A read of `n` bytes at a local address by a master; `src` is the source device of an access of fabric ingress. -/
def State.busRead (s : State) (master src a n : Nat) : Nat × List Byte × State :=
  match placeOf a with
  | .ctl _ _ => s.regRead master src a n
  | .cmdMem off =>
    let st := s.cmdMemCheck master src off n
    if st ≠ 0 then (st, [], s) else s.memRead a n
  | _ => s.load master a n

/-- A write of bytes at a local address by a master. -/
def State.busWrite (s : State) (master src a : Nat) (bs : List Byte) : Nat × State :=
  match placeOf a with
  | .ctl _ _ => s.regWrite master src a bs
  | .cmdMem off =>
    let st := s.cmdMemCheck master src off bs.length
    if st ≠ 0 then (st, s) else s.memWrite a bs
  | _ => s.store master a bs

/-- The part of a transfer that waits for the register bus: the status and the transfer after it. -/
def State.xferPart (s : State) (x : Xfer) : Xfer × State :=
  let self := s.devId
  match x.moves, x.hold with
  | (src, dst, len) :: _, none =>
    let k := partLen src dst len
    let (st, bs, s) := s.busRead x.master self (gaLocal src) k
    (if st ≠ 0 then { x with ended := some st } else { x with hold := some bs }, s)
  | (_, dst, _) :: _, some bs =>
    let (st, s) := s.busWrite x.master self (gaLocal dst) bs
    (if st ≠ 0 then { x with ended := some st } else x.advance bs.length, s)
  | _, _ => (x, s)

/-- The next part of a transfer is at a local control space. -/
def State.xferAtCtl (s : State) (x : Xfer) : Bool :=
  x.ended.isNone && (match x.moves, x.hold with
    | (src, _, _) :: _, none => !x.fromBytes && gaDev src == s.devId && ctlPlace (gaLocal src)
    | (_, dst, _) :: _, some _ => gaDev dst == s.devId && ctlPlace (gaLocal dst)
    | _, _ => false)

/-- Go on with a transfer through the register bus, as far as it does not wait for another device. -/
def State.xferCtlLoop (s : State) (id : Nat) : Nat → State
  | 0 => s
  | k + 1 =>
    let x := s.xfer id
    if s.xferAtCtl x then
      let (x, s) := s.xferPart x
      let s := s.setXfer id x
      State.xferCtlLoop (s.xferGo id x.fuel) id k
    else s

def State.xferCtl (s : State) (id : Nat) : State := s.xferCtlLoop id ((s.xfer id).fuel + 1)

/-- The register writes of units without a bus of their own are applied, in order (log entry 76). -/
def State.busLateGo (s : State) : State :=
  s.busLate.foldl (fun s e => (s.regWrite e.1 s.devId e.2.1 e.2.2).2) { s with busLate := [] }

/-- Every transfer that waits for the register bus goes on. -/
def State.xferAll (s : State) : State := s.xfers.foldl (fun s (e : Nat × Xfer) => s.xferCtl e.1) s.busLateGo

/-! ### Register writes as commands -/

/-- A write that the open gate lets through to the guest (R447): it is answered when the guest responds. -/
def State.guestWrite (s : State) (master a : Nat) (bs : List Byte) : State :=
  if pkLenOk 3 a bs.length then
    s.guestIssue master 3 a bs.length 0 bs (some ⟨0, 0, .none, 3, 0, master, 0, a, bs.length, 0, bs⟩)
  else s.answer St.misalign 0

/-- The access needs a port at an arbiter, and its master's ports are masked: it is discarded without completion (R299). Control space
has no arbiter (R296, R297; log entry 71). -/
def State.portLost (s : State) (master a : Nat) : Bool := s.isMasked master && dataPlace a

/-- REGISTER_WRITE (R5 to R9): a write of any register, of any size. -/
def fxRegisterWrite (master a size : Nat) (v : Word) (s : State) : State :=
  match placeOf a, s.guestAllowed master with
  | .guest _, true => s.guestWrite master a (toBytes size v.toNat)
  | _, _ =>
    if s.portLost master a then s else
    let (st, s) := s.busWrite master s.devId a (toBytes size v.toNat)
    s.answer st 0

def execRegisterWrite (master : BitVec 8) (addr : BitVec 46) (size : Nat) (value : Word) (s : State) :
    Host.Outcome State Fault Refusal := live s (fxRegisterWrite master.toNat addr.toNat size value)

/-- CMD_MEMORY_ACCESS (R384): a read or write in command memory, of any size; `dev` is the device an access of fabric ingress
comes from. -/
def fxCmdMemoryAccess (master dev : Nat) (write : Bool) (a size : Nat) (data : List Byte) (s : State) : State :=
  match placeOf a with
  | .cmdMem _ =>
    if write then
      let (st, s) := s.busWrite master dev a data
      s.emit (.data st [])
    else
      let (st, bs, s) := s.busRead master dev a size
      s.emit (.data st bs)
  | _ => s

def execCmdMemoryAccess (master : BitVec 8) (dev : BitVec 18) (write : Bool) (addr : BitVec 46) (size : Nat) (data : List Byte)
    (s : State) : Host.Outcome State Fault Refusal :=
  live s (fxCmdMemoryAccess master.toNat dev.toNat write addr.toNat size data)

end Sys2Proof.Machine
end

