-- ==== Sys2Proof/Machine/Commands.lean ====
section
/-!
DEFINITION. The command processor (R387 to R396): fetching and accepting entries, NOP, WRITE_INLINE, READ8 and COPY.
-/

namespace Sys2Proof.Machine

/-! ### Entries (R387, R393) -/

/-- Opcodes of job control that the ring's JOBCTL decides at acceptance (R393); a reset request weighs it with its other conditions
when it is performed (R440). -/
def jobctlOp (op : Nat) : Bool := op == 0x10 || op == 0x11 || op == 0x12

/-- An entry has a known opcode, zero reserved fields, and arguments in their ranges (R387, R393, R438, R440). -/
def entryOk (e : List Byte) : Bool :=
  let a0 := coArg0 e
  let a1 := coArg1 e
  let n := coLen e
  let p := coPayload e
  decide (coFlags e < 4) && decide (n ≤ 224) && allZero (e.drop (0x20 + n)) &&
  match coOpcode e with
  | 0x00 => a0 == 0 && a1 == 0 && n == 0
  | 0x01 => decide (a0 < 2 ^ 46) && a1 == 0 && decide (1 ≤ n)
  | 0x02 => decide (a0 < 2 ^ 46) && a0 % 8 == 0 && a1 == 0 && n == 0
  | 0x03 => n == 8 && decide (1 ≤ leAt p 0 8) && decide (leAt p 0 8 ≤ 2 ^ 32)
  | 0x10 => n == 56 && decide (leAt p 16 4 ≤ 1) && leAt p 20 4 == 0
  | 0x11 => a0 == 0 && a1 == 0 && n == 0
  | 0x12 => a0 == 0 && a1 == 0 && n == 0
  | 0x20 => n == 128 && decide (a1 ≤ 1)
  | 0x21 => n == 32 && a0 % 64 == 0 && decide (a1 ≤ 1)
  | _ => false

/-! ### Fetching (R391) -/

/-- Operations of a ring in flight. -/
def State.inFlight (s : State) (r : Nat) : Nat := ((s.ring r).ops.filter fun o => !o.entry.isEmpty).length

/-- The ring can take an in-flight position: one of its sixteen, or a shared one. -/
def State.canTake (s : State) (r : Nat) : Bool :=
  decide (s.inFlight r < 16) || decide (((List.range 16).map fun k => s.inFlight k - 16).sum < 768)

/-- An entry completes as it is accepted; of a LOAD, the LAST fields of ID_JOB_STATE tell it (R62). -/
def State.acceptEnds (s : State) (r seq : Nat) (e : List Byte) (st : Nat) : State :=
  (if coOpcode e = 0x10 then s.lastLoad st 0 0 else s).opDone r seq st 0 0

/-- Accept entry `e` at the ring's CI: CI advances, and a malformed or forbidden entry completes at once (R393). -/
def State.accept (s : State) (r : Nat) (e : List Byte) : State :=
  let i := s.ringCI r
  let seq := s.nextId + 1
  let s := { s with nextId := s.nextId + 1 }
  let s := s.wrB (Reg.CMD_RING_IDX r) 63 32 ((i + 1) % 2 ^ 32)
  let s := s.addB (Reg.CMD_RING_CNT r) 31 0 1
  let x := s.ring r
  let s := s.setRing r { x with ops := x.ops ++ [({ seq := seq, index := i, entry := e } : CmdOp)], stamp := none }
  if !entryOk e then (s.ringEvent r 2 St.misalign).acceptEnds r seq e St.misalign
  else if jobctlOp (coOpcode e) && !s.ringJobctl r then s.acceptEnds r seq e St.denied
  else s

/-- Read the slot at CI and check its stamp: the entry when it matches. A slot that cannot be read does not match. -/
def State.slotCheck (s : State) (r : Nat) : Option (List Byte) × State :=
  let i := s.ringCI r
  let (st, e, s) := s.memRead (slotAddr r i) 256
  (if st = 0 ∧ leAt e 0 4 = i then some e else none, s)

/-- The ring may be fetched from; the processor's ports are not masked (R299). -/
def State.fetching (s : State) (r : Nat) : Bool :=
  bit (s.rd Reg.RST_STATUS) 12 && s.ringState r == 2 && !(s.ring r).closing && s.canTake r && !s.isMasked 0xD0

/-- An entry of the ring can be fetched: the ring is RUNNING, its PI differs from its CI, it can take a position, and the entry at
CI is not being read again. -/
def State.eligible (s : State) (r : Nat) : Bool := s.fetching r && (s.ring r).stamp.isNone && s.ringPI r != s.ringCI r

/-- The ring whose turn it is (R391): the first eligible one after the ring that was served last, in rotation (log entry 46). -/
def State.ringTurn (s : State) : Option Nat :=
  ((List.range 16).map fun k => (s.turn + 1 + k) % 16).find? fun r => s.eligible r

/-- ENTRY_FETCH (R391): the slot at CI of the ring whose turn it is is read. -/
def fxEntryFetch (r : Nat) (s : State) : State :=
  if s.ringTurn = some r then
    let s := { s with turn := r }
    match s.slotCheck r with
    | (some e, s) => s.accept r e
    | (none, s) => s.setRing r { s.ring r with stamp := some (s.now, s.now + 10, 20) }
  else s

def execEntryFetch (ring : BitVec 4) (s : State) : Host.Outcome State Fault Refusal := live s (fxEntryFetch ring.toNat)

/-- STAMP_REREAD (R391): the interval after a mismatch has passed, and the slot is read again. -/
def fxStampReread (r : Nat) (s : State) : State :=
  match (s.ring r).stamp with
  | none => s
  | some (t0, next, iv) =>
    if s.fetching r && decide (next ≤ s.now) then
      let s := s.addB (Reg.CMD_RING_CNT r) 63 32 1
      match s.slotCheck r with
      | (some e, s) => s.accept r e
      | (none, s) => s.setRing r { s.ring r with stamp := some (t0, s.now + iv, min 640 (2 * iv)) }
    else s

def execStampReread (ring : BitVec 4) (s : State) : Host.Outcome State Fault Refusal := live s (fxStampReread ring.toNat)

/-- STAMP_TIMEOUT (R391): STAMP_TMO ticks after the first read, a completion with status STAMP, and the ring is STOPPED. -/
def fxStampTimeout (r : Nat) (s : State) : State :=
  match (s.ring r).stamp with
  | none => s
  | some (t0, _, _) =>
    if t0 + s.rdB Reg.CMD_CFG 31 0 ≤ s.now then
      let x := s.ring r
      let o : CmdOp := { seq := s.nextId + 1, index := s.ringCI r, entry := [], started := true, done := some (St.stamp, 0, 0) }
      let s := ({ s with nextId := s.nextId + 1 } : State).setRing r { x with ops := x.ops ++ [o], stamp := none }
      (s.setRingState r 1).ringEvent r 0 St.stamp
    else s

def execStampTimeout (ring : BitVec 4) (s : State) : Host.Outcome State Fault Refusal := live s (fxStampTimeout ring.toNat)

/-! ### Operations (R393 to R395) -/

/-- NOP. -/
def fxNop (r : Nat) (s : State) : State :=
  match s.opNow r 0 with
  | some o => s.opDone r o.seq St.ok 0 0
  | none => s

def execNop (ring : BitVec 4) (s : State) : Host.Outcome State Fault Refusal := live s (fxNop ring.toNat)

/-- WRITE_INLINE (R393, R394). -/
def fxWriteInline (r : Nat) (s : State) : State :=
  match s.opNow r 1 with
  | some o =>
    let (st, s) := (s.opStart r o.seq).busWrite 0xD0 s.devId (coArg0 o.entry) (coPayload o.entry)
    s.opDone r o.seq st 0 0
  | none => s

def execWriteInline (ring : BitVec 4) (s : State) : Host.Outcome State Fault Refusal := live s (fxWriteInline ring.toNat)

/-- READ8 (R393, R394). -/
def fxRead8 (r : Nat) (s : State) : State :=
  match s.opNow r 2 with
  | some o =>
    let (st, bs, s) := (s.opStart r o.seq).busRead 0xD0 s.devId (coArg0 o.entry) 8
    s.opDone r o.seq st 0 (w (ofBytes bs))
  | none => s

def execRead8 (ring : BitVec 4) (s : State) : Host.Outcome State Fault Refusal := live s (fxRead8 ring.toNat)

/-- Add a copy to the waiting ones, which stand in the order of their acceptance. -/
def insCopy (x : Nat × Nat) : List (Nat × Nat) → List (Nat × Nat)
  | [] => [x]
  | y :: ys => if x.2 < y.2 then x :: y :: ys else y :: insCopy x ys

/-- COPY (R395): the copy waits for a DMA channel. -/
def fxCopy (r : Nat) (s : State) : State :=
  match s.opNow r 3 with
  | some o =>
    let s := s.opStart r o.seq
    if gaDev (coArg0 o.entry) ≠ s.devId ∧ gaDev (coArg1 o.entry) ≠ s.devId then s.opDone r o.seq St.misalign 0 0
    else { s with copies := insCopy (r, o.seq) s.copies }
  | none => s

def execCopy (ring : BitVec 4) (s : State) : Host.Outcome State Fault Refusal := live s (fxCopy ring.toNat)

/-- The operation of a ring with a number. -/
def State.opOf (s : State) (r seq : Nat) : Option CmdOp := (s.ring r).ops.find? fun o => o.seq == seq

/-- The lowest free DMA channel whose ports are not masked (R299). -/
def State.freeChannel (s : State) : Option Nat :=
  [0, 1, 2].find? fun c => !(s.channels.any fun e => e.1 == c) && !s.isMasked (0xD1 + c)

/-- A copy that was accepted before the one with number `seq` can be performed and does not wait for a channel yet. -/
def State.copyBefore (s : State) (seq : Nat) : Bool :=
  (List.range 16).any fun r => (s.opNow r 3).any fun o => decide (o.seq < seq)

/-- DMA_CHANNEL_START (R395): the waiting copy that was accepted first starts on a free channel. -/
def fxDmaChannelStart (s : State) : State :=
  match s.freeChannel, s.copies with
  | some c, (r, seq) :: rest =>
    if s.copyBefore seq then s else
    let s := { s with copies := rest }
    match s.opOf r seq with
    | none => s
    | some o =>
      let (id, s) := s.xferStart
        ⟨.copy c, 0, 0xD1 + c, [(coArg0 o.entry, coArg1 o.entry, leAt (coPayload o.entry) 0 8)], false, [], none, none, 0⟩
      ({ s with channels := s.channels.ins c (r, seq, id) } : State).xferCtl id
  | _, _ => s

def execDmaChannelStart (s : State) : Host.Outcome State Fault Refusal := live s fxDmaChannelStart

/-- COPY_COMPLETE (R395): the copy on a channel has ended, and the channel frees. -/
def fxCopyComplete (c : Nat) (s : State) : State :=
  match s.channels.find? fun e => e.1 == c with
  | none => s
  | some (_, r, seq, id) =>
    match (s.xfer id).ended with
    | none => s
    | some st =>
      let s := { s with channels := s.channels.del c, xfers := s.xfers.del id }
      match s.opOf r seq with
      | none => s
      | some o => (if st = 0 then s else s.copyScramble c o.entry).opDone r seq st 0 0

def execCopyComplete (channel : BitVec 2) (s : State) : Host.Outcome State Fault Refusal :=
  live s (fxCopyComplete channel.toNat)

end Sys2Proof.Machine
end

