-- ==== Sys2Proof/Machine/Inbox.lean ====
section
/-!
DEFINITION. How an inbox gathers a position and emits it (R223, R224): the notices' gather lists and token rows are read from
any device as transfers of the inbox, source by source, and the position's descriptor follows.
-/

namespace Sys2Proof.Machine

/-- Write into a slot; a status that is not OK is kept for the descriptor (R358). -/
def State.ibxWrite (s : State) (n i a : Nat) (bs : List Byte) : State :=
  let (st, s) := s.store (s.ibx n i).master a bs
  let b := s.ibx n i
  if st = 0 then s
  else s.setIbx n i { b with work := b.work.map fun k => { k with fail := if k.fail = 0 then st else k.fail } }

/-- The slot of the position in hand. -/
def State.ibxBase (s : State) (n i : Nat) : Nat := s.ibxSlot n i (s.ibx n i).next

/-- Rewrite a held notice's COUNT (R223). -/
def State.ibxCount (s : State) (n i src k : Nat) : State := s.ibxWrite n i (s.ibxBase n i + 96 * src + 8) (toBytes 4 k)

/-- The descriptor of the position in hand (R223), REFUSED where a read, a write or a notice says so (R224). Its other fields come from
source 0's TEMPLATE as it was read, or, where that read failed, as memory holds it. -/
def State.ibxDesc (s : State) (n i : Nat) (k : IbxWork) (status : Nat) : List Byte :=
  let b := s.ibx n i
  let srcs := s.ibxSources n i
  let slot := s.ibxBase n i
  let refused := decide (status ≠ 0) || decide (k.fail ≠ 0) || b.bad.contains b.next || k.refused
  let d := if k.tmpl.isEmpty then s.rawRead (slot + 0x20) 64 else k.tmpl
  let d := putLe d 4 4 k.rows
  let d := putLe d 16 8 (s.devId * 2 ^ 46 + slot + roundUp (srcs * 96) 64)
  let d := putLe d 24 4 (k.rows * s.ibxTokenBytes n i)
  if refused then dSetRefused d else d

/-- The gathering has ended with a status of its reads: its events, then the descriptor to the OUT queue, which waits without
limit (R223, R224). -/
def State.ibxFinish (s : State) (n i status : Nat) : State :=
  let b := s.ibx n i
  match b.work with
  | none => s
  | some k =>
    let s := if k.left = 0 then s else
      (s.addB (Reg.DSP_IBX_OVERRUN n i) 63 0 k.left).dspEvent n 3 0 b.master 0xFF (w i)
    let s := if status = 0 then s else s.dspEvent n 2 status b.master 0xFF (w i)
    let d := s.ibxDesc n i k status
    let s := s.setIbx n i { b with work := none, failed := decide (status ≠ 0), sending := true, bad := b.bad.erase b.next }
    match s.qSendWait (s.rdB (Reg.DSP_IBX_QUEUE n i) 28 16) (.inbox n i) d with
    | (.ok, s) => s.ibxEmitted n i
    | (_, s) => s

/-- The reads stop: no row of the sources from `src` on is copied (R224). -/
def State.ibxStop (s : State) (n i src status : Nat) : State :=
  (((List.range (s.ibxSources n i)).filter fun j => decide (src ≤ j)).foldl (fun s j => s.ibxCount n i j 0) s).ibxFinish n i status

/-- The work in hand changes. -/
def State.ibxSet (s : State) (n i : Nat) (f : IbxWork → IbxWork) : State :=
  s.setIbx n i { s.ibx n i with work := (s.ibx n i).work.map f }

/-- The next source. -/
def State.ibxNext (s : State) (n i placed : Nat) : State :=
  s.ibxSet n i fun k => { k with src := k.src + 1, take := 0, rows := k.rows + placed }

/-- A transfer of the inbox, as far as it goes at once: `part` 0 a gather list, 1 token rows. -/
def State.ibxXfer (s : State) (n i part : Nat) (moves : List (Nat × Nat × Nat)) : State :=
  let (id, s) := s.xferStart ⟨.inbox n i, part, (s.ibx n i).master, moves, false, [], none, none, 0⟩
  s.xferCtl id

/-- A gather list has been read: its rows, as far as the slot has room (R223). -/
def State.ibxList (s : State) (n i : Nat) (k : IbxWork) (bs : List Byte) : State :=
  let rows := (pieces 8 bs).map fun e => leAt e 0 4
  let tb := s.ibxTokenBytes n i
  let take := min rows.length (s.rdB (Reg.DSP_IBX_GEOM n i) 47 16 - k.rows)
  let dst := s.devId * 2 ^ 46 + s.ibxBase n i + roundUp (s.ibxSources n i * 96) 64
  let s := s.ibxSet n i fun k => { k with take := take, left := k.left + (rows.length - take) }
  if take = 0 then (s.ibxCount n i k.src 0).ibxNext n i 0
  else s.ibxXfer n i 1 (((List.range take).zip rows).map fun e => (k.tokens + e.2 * tb, dst + (k.rows + e.1) * tb, tb))

/-- A transfer of the inbox has ended. -/
def State.ibxXferEnd (s : State) (n i : Nat) (k : IbxWork) (x : Xfer) (status : Nat) : State :=
  if x.ref = 0 then
    if status = 0 then s.ibxList n i k x.bytes else s.ibxStop n i k.src status
  else
    let done := if status = 0 then k.take else k.take - x.moves.length
    let s := (s.ibxCount n i k.src done).ibxNext n i done
    if status = 0 then s
    else if x.hold.isSome then
      (s.ibxSet n i fun k => { k with fail := if k.fail = 0 then status else k.fail }).ibxStop n i (k.src + 1) 0
    else s.ibxStop n i (k.src + 1) status

/-- Start on the source in hand: its notice names the list and the rows. -/
def State.ibxSource (s : State) (n i : Nat) (k : IbxWork) : State :=
  let (st, nt, s) := s.load (s.ibx n i).master (s.ibxBase n i + 96 * k.src) 96
  if st ≠ 0 then s.ibxStop n i k.src st else
  let tmpl := nt.drop 0x20
  let s := s.ibxSet n i fun k => { k with tmpl := if k.src = 0 then tmpl else k.tmpl, refused := k.refused || dRefused tmpl }
  if leAt nt 8 4 = 0 then s.ibxNext n i 0
  else
    let list := leAt nt 0x10 8
    (s.ibxSet n i fun k => { k with tokens := leAt nt 0x18 8 }).ibxXfer n i 0 [(list, sinkBase + list % 2048, 8 * leAt nt 8 4)]

/-- Go on with the gathering until it waits for a transfer, or the position is emitted. -/
def State.ibxGo (s : State) (n i : Nat) : Nat → State
  | 0 => s
  | fuel + 1 =>
    match (s.ibx n i).work, s.xfers.find? fun e => decide (e.2.owner = .inbox n i) with
    | some k, some (id, x) =>
      match x.ended with
      | some st => State.ibxGo (({ s with xfers := s.xfers.del id } : State).ibxXferEnd n i k x st) n i fuel
      | none => s
    | some k, none =>
      if s.ibxSources n i ≤ k.src then s.ibxFinish n i 0 else State.ibxGo (s.ibxSource n i k) n i fuel
    | none, _ => s

/-- Steps that a gathering takes at most. -/
def State.ibxFuel (s : State) (n i : Nat) : Nat := 3 * s.ibxSources n i + 3

/-- The next position of an inbox can be gathered, and its master's ports are not masked (R299). -/
def State.ibxReady (s : State) (n i : Nat) : Bool :=
  let b := s.ibx n i
  s.ibxOn n i && !s.isMasked b.master && !b.sending && b.work.isNone && decide (0 < s.ibxSources n i) &&
    (b.held.filter fun h => h.1 == b.next).length == s.ibxSources n i

/-- Gather the next position. -/
def State.ibxEmit (s : State) (n i : Nat) : State :=
  (s.setIbx n i { s.ibx n i with work := some {}, failed := false }).ibxGo n i (s.ibxFuel n i)

/-- A transfer of the inbox has ended: the gathering goes on. -/
def State.ibxResume (s : State) (n i : Nat) : State := s.ibxGuest n i fun s => s.ibxGo n i (s.ibxFuel n i)

/-- Position `pos`, as its 32 bits, is the next of the inbox, and can be gathered. -/
def State.ibxDue (s : State) (n i pos : Nat) : Bool := decide ((s.ibx n i).next % 2 ^ 32 = pos) && s.ibxReady n i

/-- INBOX_EMIT (R223): a position that holds the notices of every source is gathered, and emitted once its reads have ended. -/
def fxInboxEmit (n i pos : Nat) (s : State) : State :=
  if s.ibxDue n i pos then s.ibxGuest n i fun s => s.ibxEmit n i else s

def execInboxEmit (die : BitVec 2) (inbox : BitVec 6) (position : BitVec 32) (s : State) : Host.Outcome State Fault Refusal :=
  live s (fxInboxEmit die.toNat inbox.toNat position.toNat)

/-- READFAIL (R224): the same for a position whose reads fail. -/
def fxReadfail (n i pos : Nat) (s : State) : State :=
  let t := fxInboxEmit n i pos s
  if s.ibxDue n i pos && !(t.ibx n i).asked && (t.ibx n i).failed then t else s

def execReadfail (die : BitVec 2) (inbox : BitVec 6) (position : BitVec 32) (s : State) : Host.Outcome State Fault Refusal :=
  live s (fxReadfail die.toNat inbox.toNat position.toNat)

end Sys2Proof.Machine
end

