-- ==== Sys2Proof/Machine/Security.lean ====
section
/-!
DEFINITION. Signed resets and quotes (R437, R438, R440), and the end of boot (R425).
-/

namespace Sys2Proof.Machine

/-- A valid entry of the authorised controllers names the device, with the digest of the public key (R439, R440). -/
def State.ctrlKey (s : State) (dev : Nat) (pub : List Byte) : Bool :=
  (List.range 8).any fun j =>
    let e := s.rd (Reg.SEC_CTRL_ID j)
    bit e 63 && bits e 17 0 == dev
      && ((List.range 4).map fun i => toBytes 8 (s.rd (Reg.SEC_CTRL_KEY j i)).toNat).flatten == sm3 pub

/-- The message that a reset request signs (R440). -/
def State.resetMessage (s : State) (a0 a1 : Nat) : List Byte :=
  ascii "LMVRESET" ++ s.serial ++ toBytes 8 a0 ++ toBytes 8 a1

/-- The request is authorised (R440). -/
def State.resetAllowed (s : State) (r : Nat) (e : List Byte) : Bool :=
  let p := coPayload e
  s.ringJobctl r && s.ctrlKey (s.ringOwner r) (p.take 64) && coArg0 e == (s.rd Reg.SEC_NONCE).toNat
    && sm2Verify (p.take 64) (s.resetMessage (coArg0 e) (coArg1 e)) (slice p 64 64)

/-- RESET_REQ (R440): verified, then the completion is written and the device resets, as the first accepted request says; the
nonce is fresh either way (R437). -/
def fxResetReq (r : Nat) (s : State) : State :=
  match s.opNow r 0x20 with
  | none => s
  | some o =>
    let s := s.opStart r o.seq
    if s.resetAllowed r o.entry then
      let s := s.freshNonce.wrB Reg.RST_CFG 0 0 (coArg1 o.entry % 2)
      ({ s with resetReq := some (s.resetReq.getD (r, o.seq, s.now + 10000)) } : State).opDone r o.seq St.ok 0 0
    else (s.freshNonce.secEvent 0 St.denied).opDone r o.seq St.denied 0 0

def execResetReq (ring : BitVec 4) (s : State) : Host.Outcome State Fault Refusal := live s (fxResetReq ring.toNat)

/-! ### Quotes (R438) -/

/-- Bytes 0x000 to 0x0FF of a quote. -/
def State.quoteBody (s : State) (nonce : List Byte) : List Byte :=
  let slot := s.rdB Reg.SEC_STATUS 2 0
  let flags := (s.rdB Reg.SEC_DBG_STATUS 4 4) + (if 1 ≤ slot then 2 else 0) + (if s.jobOn then 4 else 0)
    + (if s.gateOpen then 8 else 0) + 16 * s.rdB Reg.RST_STATUS 3 3
  let meas := ((List.range 12).map fun i => toBytes 8 (s.rd (Reg.SEC_MEAS i)).toNat).flatten ++ s.digestAt mnfRegs
  ascii "LMVQUOTE" ++ toBytes 4 0x10000 ++ toBytes 4 384 ++ s.serial ++ toBytes 4 s.devId ++ toBytes 4 flags
    ++ toBytes 4 (s.rdB Reg.SEC_STATUS 10 4) ++ toBytes 4 slot ++ fitBytes 32 nonce ++ meas ++ s.digestAt plcRegs
    ++ toBytes 8 s.now ++ toBytes 8 (s.rd Reg.ID_JOB_ID).toNat

/-- A free number for a signature, from 1 to n − 1. -/
def State.signNumber (s : State) : Nat × State :=
  let (bs, s) := s.freeBytes 32
  (ofBytes bs % (Sm2.n - 1) + 1, s)

/-- A quote of 384 bytes. -/
def State.quote (s : State) (nonce : List Byte) : List Byte × State :=
  let b := s.quoteBody nonce
  let (k, s) := s.signNumber
  (b ++ sm2Sign identityKey b k 4 ++ sm2Pub identityKey, s)

/-- The write of a quote has ended: VALUE holds the bytes written (R438). -/
def State.quoteSettle (s : State) (r : Nat) : State :=
  s.xfers.foldl (fun s (e : Nat × Xfer) =>
    match e.2.owner == .quote r && e.2.ref % 256 == 0, e.2.ended with
    | true, some st =>
      let n := match s.opOf r (e.2.ref / 256) with
        | some o => 384 + (if coArg1 o.entry % 2 = 1 then s.cert.length else 0)
        | none => 0
      ({ s with xfers := s.xfers.del e.1 } : State).opDone r (e.2.ref / 256) st 0 (if st = 0 then w n else 0)
    | _, _ => s) s

/-- QUOTE (R438). -/
def fxQuote (r : Nat) (s : State) : State :=
  match s.opNow r 0x21 with
  | none => s
  | some o =>
    let s := s.opStart r o.seq
    let (q, s) := s.quote (coPayload o.entry)
    let c := if coArg1 o.entry % 2 = 1 then s.cert else []
    let a := coArg0 o.entry
    let moves := (0, a, 384) :: (if c.isEmpty then [] else [(0, a + 384, c.length)])
    let (id, s) := s.xferStart ⟨.quote r, o.seq * 256, 0xD0, moves, true, q ++ c, none, none, 0⟩
    (s.xferCtl id).quoteSettle r

def execQuote (ring : BitVec 4) (s : State) : Host.Outcome State Fault Refusal := live s (fxQuote ring.toNat)

/-! ### Boot step 6: enrolment, the certificate, and what firmware writes (R425, R434, R435, R474, R475) -/

/-- BOOT_COMPLETE: step 6 reads the flash, blows the anti-rollback bits, makes firmware's writes, sets MBX_LOCK; then READY. `cfg`
holds firmware's register writes: RTE_SELF, base routes, PKM registers, mailbox bindings, rings. -/
def fxBootComplete (cert : List Byte) (enrol : List (List Byte)) (cfg : List (BitVec 46 × Word)) (s : State) : State :=
  if s.rdB Reg.RST_STATUS 11 8 = 6 then
    let s := if s.flashOwn then s.secEvent 3 0 else { s.enrolAll enrol with cert := cert.take 4096 }
    let s := s.wrB Reg.SEC_STATUS 10 4 (max (s.rdB Reg.SEC_STATUS 10 4) s.svnTarget)
    let s := cfg.foldl (fun s e => (s.busWrite 0xE0 s.devId e.1.toNat (toBytes 8 e.2.toNat)).2) s
    let s := s.wr Reg.MBX_LOCK 1
    (s.wrB Reg.RST_STATUS 12 8 0x17).showReady false
  else s

def execBootComplete (flash : List Byte × List (List Byte)) (cfg : List (BitVec 46 × Word)) (s : State) :
    Host.Outcome State Fault Refusal := live s (fxBootComplete flash.1 flash.2 cfg)

end Sys2Proof.Machine
end

