-- ==== Sys2Proof/Machine/Fabric.lean ====
section
/-!
DEFINITION. The fabric as this device receives it (R339 to R359): requests served for other devices, packets forwarded,
responses, timeouts and quarantine; and the settling of completed requests, which lets their units go on.
-/

namespace Sys2Proof.Machine

/-! ### Settling -/

/-- A small packet of a unit has ended with a status (R107, R261, R332, R371, R377, R399, R403). -/
def State.sendOver (s : State) (x : RemoteSend) (status : Nat) : State :=
  match x.owner with
  | .fire n c =>
    if status = 0 then s
    else s.raise n Blk.mbq (Reg.MBQ_EVT n c) (Reg.MBQ_EVT_EN n c) 5
      { unit := c, info0 := w (leAt x.bytes 4 8), info1 := w (leAt x.bytes 12 4) }
  | .col id => s.colNotified id x.ref status
  | .vote => if status = 0 then s else s.voteFail x.ref
  | .led l => s.ledSent l x.ref x.dev status
  | .cmd r => s.completionAck r x.ref status
  | .mbx k => if status = 0 then s else s.mbxEvent 2 status 0xFF k
  | o => s.sendEnded o status

/-- A request has completed: its unit goes on. -/
def State.settleOne (s : State) (d : FabDone) : State :=
  if d.req.kind = 0 then
    let x := s.remoteSends.get d.req.ref noSend
    if x.owner = .none then s else
    match s.sendReply d.req.ref d.status d.refused with
    | (some st, s) => s.sendOver x st
    | (none, s) => s
  else if d.req.kind = 1 then (s.xferReply d.req d.status d.data).xferCtl d.req.ref
  else if d.req.kind = 4 then s
  else
    let c := d.req.ref
    (s.setCore c { s.core c with replies := (s.core c).replies ++ [(d.status, d.data)], wait := .none }).setGcState c 1

/-- A transfer has ended, and its unit goes on at once where no command of its own lets it. -/
def State.xferOver (s : State) (x : Xfer) : State :=
  match x.owner with
  | .col id => s.colProgress id
  | .load => s.loadSettle
  | .quote r => (s.earlySettle r).quoteSettle r
  | .mbx _ => s.mbxSettle
  | .inbox n i => s.ibxResume n i
  | _ => s

/-- Every completed request and every ended transfer is settled, and an accepted reset request acts when its time has come. -/
def State.settle (s : State) : State :=
  let ds := s.fabDone
  let s := ds.foldl (fun s d => s.settleOne d) { s with fabDone := [] }
  let s := s.xferAll
  let s := (s.xfers.filter fun e => e.2.ended.isSome).foldl (fun s (e : Nat × Xfer) => s.xferOver e.2) s
  s.resetReqGo

/-! ### Receiving a packet -/

/-- The first packet that satisfies a test and has no packet of its credit class before it. -/
def firstOfClass (test : List Byte → Bool) : List Nat → List (List Byte) → Option (List Byte)
  | _, [] => none
  | seen, b :: bs =>
    if !seen.contains (pkClass b) && test b then some b else firstOfClass test (pkClass b :: seen) bs

/-- The next packet of a port's input that satisfies a test. Each credit class has its own order: a response never waits for a
request (R346). -/
def State.nextPkt (s : State) (p : Nat) (test : List Byte → Bool) : Option (List Byte) := firstOfClass test [] (s.port p).inq

/-- The router takes a packet of a port: its units are freed (R325). -/
def State.takePkt (s : State) (p : Nat) (b : List Byte) : State :=
  (s.setPort p { s.port p with inq := (s.port p).inq.erase b }).freeUnits p b

/-- Fields of a request that must be zero are zero, and LEN is one that R340 allows (R342). -/
def requestFormed (b : List Byte) : Bool :=
  let t := pkType b
  leAt b 1 1 / 4 == 0 && decide (pkAddr b < 2 ^ 46) && pkRsv b == 0
    && (if t = 6 then pkTag b == 0 else decide (pkTag b < 2 ^ 18))
    && (if t = 4 then decide (pkOp b ≤ 9) else pkOp b == 0)
    && (if t = 5 then decide (16 ≤ pkLen b) && decide (pkLen b ≤ 256) && pkLen b % 16 == 0
        else if t = 6 then pkLen b == 8 && pkAddr b % 8 == 0
        else pkLenOk t (pkAddr b) (pkLen b))

/-- The status that a queue gives a message, room aside (R273, R274). -/
def State.messageStatus (s : State) (q len : Nat) : Nat :=
  if !s.qValid q then St.unmapped
  else if s.qKind q = 0 ∧ len ≠ 64 ∨ s.qKind q = 2 ∧ s.rdB (Reg.QU_TALLY q) 29 29 = 1 ∧ s.rdB (Reg.QU_TALLY q) 40 32 ≠ len
  then St.misalign else St.ok

/-- The status of the access that a READ, WRITE or ATOMIC makes, before its data are read or written (R7, R8, R24, R42, R341,
R384), or that a MESSAGE meets at its queue. -/
def State.accessStatus (s : State) (src : Nat) (b : List Byte) : Nat :=
  let a := pkAddr b % 2 ^ 46
  let n := pkLen b
  let pl := match placeOf a with
    | .ctl _ _ => if regAligned a n then St.ok else St.misalign
    | .cmdMem off => s.cmdMemCheck 0xE8 src off n
    | _ => s.memCheck 0xE8 a n
  if pkType b = 5 then s.messageStatus a n
  else if pkType b = 4 then St.join (atomicPlace a) pl
  else pl

/-- The source may not send this request: it is not admitted, or a depot that may not write (R342). -/
def State.sourceDenied (s : State) (b : List Byte) : Bool :=
  !s.admitted (pkSrc b) || (s.depots.contains (pkSrc b) && (pkType b == 3 || pkType b == 4))

/-- The status of a request before it is performed (R13, R342). What an admitted message meets at its queue is found by the send
itself, which sets the queue's events. -/
def State.requestStatus (s : State) (b : List Byte) : Nat :=
  let d := if s.sourceDenied b then St.denied else St.ok
  let f := if requestFormed b then St.ok else St.misalign
  let a := if pkType b = 5 ∧ d = 0 ∧ f = 0 then St.ok else s.accessStatus (pkSrc b) b
  St.join (St.join d f) a

/-- Perform a request that passed its checks: status, whether it was refused for room, data. -/
def State.perform (s : State) (b : List Byte) : Nat × Bool × List Byte × State :=
  let src := pkSrc b
  let a := pkAddr b
  match pkType b with
  | 3 =>
    let (st, s) := s.busWrite 0xE8 src a (pkData b)
    (st, false, [], s)
  | 4 =>
    let (st, d, s) := s.atomic 0xE8 a (pkLen b) (pkOp b) (pkData b)
    (st, false, d, s)
  | 5 =>
    match s.qAccept a (pkData b) false with
    | (.ok, s) => (St.ok, false, [], s)
    | (.noRoom, s) => (St.ok, true, [], s)
    | (.refused st, s) => (st, false, [], s)
  | _ =>
    let (st, d, s) := s.busRead 0xE8 src a (pkLen b)
    (st, false, d, s)

/-- Serve a request addressed to this device and answer it (R342, R343). -/
def State.serveRequest (s : State) (b : List Byte) : State :=
  let s := s.addB Reg.FAB_CNT_IN 63 0 1
  let st := s.requestStatus b
  if st = 0 then
    let (st, refused, d, s) := s.perform b
    s.sendResponse (s.responseTo b st refused d)
  else
    let s := if st = St.denied ∧ s.sourceDenied b then
        (s.addB Reg.FAB_CNT_DENIED 63 0 1).fabEvent 2 St.denied (pkMaster b) (pkAddr b)
      else s
    s.sendResponse (s.responseTo b st false [])

/-- Fabric ingress may make the request's access: a request to memory or to a queue waits while its ports are masked (R299). -/
def State.ingressOk (s : State) (b : List Byte) : Bool := !(s.isMasked 0xE8 && (pkType b == 5 || dataPlace (pkAddr b)))

/-- The next request to this device in a port's input that satisfies a test and can be served. -/
def State.nextRequest (s : State) (p : Nat) (test : List Byte → Bool) : Option (List Byte) :=
  s.nextPkt p fun b => pkDst b == s.devId && test b && s.ingressOk b

/-- Serve the next request to this device in a port's input that satisfies a test. -/
def fxServe (p : Nat) (test : List Byte → Bool) (s : State) : State :=
  match s.nextRequest p test with
  | some b => (s.takePkt p b).serveRequest b
  | none => s

/-- READ (R342). -/
def execRead (port : BitVec 4) (s : State) : Host.Outcome State Fault Refusal :=
  live s (fxServe port.toNat fun b => pkType b == 1)

/-- READ_SNOOP (R359): served exactly as a READ. -/
def execReadSnoop (port : BitVec 4) (s : State) : Host.Outcome State Fault Refusal :=
  live s (fxServe port.toNat fun b => pkType b == 2)

/-- WRITE (R343). -/
def execWrite (port : BitVec 4) (s : State) : Host.Outcome State Fault Refusal :=
  live s (fxServe port.toNat fun b => pkType b == 3)

/-- An ATOMIC of an operation (R341). -/
def atomicOf (op : Nat) (b : List Byte) : Bool := pkType b == 4 && pkOp b == op

/-- SWAP, and an ATOMIC with a reserved OP, which completes with MISALIGN (R341). -/
def execSwap (port : BitVec 4) (s : State) : Host.Outcome State Fault Refusal :=
  live s (fxServe port.toNat fun b => atomicOf 0 b || (pkType b == 4 && decide (9 < pkOp b)))

/-- CAS. -/
def execCas (port : BitVec 4) (s : State) : Host.Outcome State Fault Refusal := live s (fxServe port.toNat (atomicOf 1))

/-- ADD. -/
def execAdd (port : BitVec 4) (s : State) : Host.Outcome State Fault Refusal := live s (fxServe port.toNat (atomicOf 2))

/-- AND. -/
def execAndOp (port : BitVec 4) (s : State) : Host.Outcome State Fault Refusal := live s (fxServe port.toNat (atomicOf 3))

/-- OR. -/
def execOrOp (port : BitVec 4) (s : State) : Host.Outcome State Fault Refusal := live s (fxServe port.toNat (atomicOf 4))

/-- XOR. -/
def execXorOp (port : BitVec 4) (s : State) : Host.Outcome State Fault Refusal := live s (fxServe port.toNat (atomicOf 5))

/-- MIN. -/
def execMinOp (port : BitVec 4) (s : State) : Host.Outcome State Fault Refusal := live s (fxServe port.toNat (atomicOf 6))

/-- MAX. -/
def execMaxOp (port : BitVec 4) (s : State) : Host.Outcome State Fault Refusal := live s (fxServe port.toNat (atomicOf 7))

/-- MINU. -/
def execMinu (port : BitVec 4) (s : State) : Host.Outcome State Fault Refusal := live s (fxServe port.toNat (atomicOf 8))

/-- MAXU. -/
def execMaxu (port : BitVec 4) (s : State) : Host.Outcome State Fault Refusal := live s (fxServe port.toNat (atomicOf 9))

/-- MESSAGE (R274). -/
def execMessage (port : BitVec 4) (s : State) : Host.Outcome State Fault Refusal :=
  live s (fxServe port.toNat fun b => pkType b == 5)

/-- The ring and register of a doorbell address: 3 for CMD_DB_PI, 4 for CMD_DB_CQH. -/
def doorbellOf (a : Nat) : Option (Nat × Bool) :=
  ((List.range 16).find? fun r => a == Reg.CMD_DB_PI r || a == Reg.CMD_DB_CQH r).map fun r => (r, a == Reg.CMD_DB_PI r)

/-- Apply a doorbell of the ring's owner, or discard it (R344, R385). -/
def State.doorbell (s : State) (b : List Byte) : State :=
  let s := s.addB Reg.FAB_CNT_IN 63 0 1
  let drop := s.addB Reg.FAB_CNT_DISCARD 63 32 1
  match doorbellOf (pkAddr b) with
  | none => drop
  | some (r, _) =>
    if s.admitted (pkSrc b) && requestFormed b && s.ringOwner r == pkSrc b then
      (s.busWrite 0xE8 (pkSrc b) (pkAddr b) (pkData b)).2
    else drop

/-- DOORBELL (R344). -/
def fxDoorbell (p : Nat) (s : State) : State :=
  match s.nextPkt p fun b => pkDst b == s.devId && pkType b == 6 with
  | some b => (s.takePkt p b).doorbell b
  | none => s

def execDoorbell (port : BitVec 4) (s : State) : Host.Outcome State Fault Refusal := live s (fxDoorbell port.toNat)

/-! ### Forwarding (R347, R350) -/

/-- A packet in transit cannot go on: a request's source is told, a response or doorbell is only counted. -/
def State.dropForward (s : State) (b : List Byte) (status : Nat) (count : State → State) : State :=
  if pkType b = 8 ∨ pkType b = 6 then count s else s.tellSource b status

/-- Forward a packet for another device, or drop it. -/
def State.forward (s : State) (b : List Byte) : State :=
  if pkHops b = 0 then
    (s.rteEvent 1 St.unmapped).dropForward b St.unmapped fun s => s.addB Reg.RTE_CNT_DROP 63 32 1
  else match s.routeOf (pkSrc b) (pkDst b) (pkTc b) with
  | .port q =>
    (s.addB Reg.RTE_CNT_FWD 63 0 1).toPort q (putLe b 2 1 (pkHops b - 1)) none true
  | .noRoute => (s.rteEvent 0 St.unmapped).dropForward b St.unmapped fun s => s.addB Reg.RTE_CNT_DROP 31 0 1
  | .noPort q => (s.rteEvent 2 St.linkdown).dropForward b St.linkdown fun s => s.addB (Reg.LNK_CNT_DOWN q) 63 48 1

/-- PACKET_FORWARD. -/
def fxPacketForward (p : Nat) (s : State) : State :=
  match s.nextPkt p fun b => pkDst b != s.devId with
  | some b => ((s.takePkt p b).forward b).settle
  | none => s

def execPacketForward (port : BitVec 4) (s : State) : Host.Outcome State Fault Refusal :=
  live s (fxPacketForward port.toNat)

/-! ### Responses (R354 to R357) -/

/-- RESPONSE (R355). -/
def fxResponse (p : Nat) (s : State) : State :=
  match s.nextPkt p fun b => pkDst b == s.devId && pkType b == 8 with
  | some b => ((s.takePkt p b).response b).settle
  | none => s

def execResponse (port : BitVec 4) (s : State) : Host.Outcome State Fault Refusal := live s (fxResponse port.toNat)

/-- RESPONSE_TIMEOUT (R357): a request has held its tag for FAB_TMO.RESP ticks, and its response has not come (R356). -/
def fxResponseTimeout (t : Nat) (s : State) : State :=
  let g := s.tagOf t
  match g.req with
  | some r =>
    if g.since + s.rdB Reg.FAB_TMO 31 0 ≤ s.now ∧ !s.responseHere t then
      let s := (s.addB Reg.FAB_CNT_TIMEOUT 63 0 1).fabEvent 1 St.linkdown r.master r.addr
      (s.fabComplete t St.linkdown false [] true).settle
    else s
  | none => s

def execResponseTimeout (tag : BitVec 14) (s : State) : Host.Outcome State Fault Refusal :=
  live s (fxResponseTimeout tag.toNat)

/-- QUARANTINE_END (R356): a retired tag can be allocated again. -/
def fxQuarantineEnd (t : Nat) (s : State) : State :=
  let g := s.tagOf t
  match g.quar with
  | some q => if q ≤ s.now then (s.setTag t { g with quar := none }).serveTags s.tagWaits.length else s
  | none => s

def execQuarantineEnd (tag : BitVec 14) (s : State) : Host.Outcome State Fault Refusal := live s (fxQuarantineEnd tag.toNat)

/-! ### Repeated sends -/

/-- A send whose next attempt is due, of a kind, is sent again. -/
def fxResend (id : Nat) (test : RemoteSend → Bool) (s : State) : State :=
  let x := s.remoteSends.get id noSend
  match x.due with
  | some d =>
    if decide (d ≤ s.now) && test x then
      ({ s with remoteSends := s.remoteSends.set id { x with down := false } noSend } : State).sendIssue id
    else s
  | none => s

/-- REMOTE_SEND_RETRY (R274): 100 ticks after a refusal. -/
def execRemoteSendRetry (send : Nat) (s : State) : Host.Outcome State Fault Refusal :=
  live s (fxResend send fun x => !x.down && x.typ == 5)

/-- LINKDOWN_RESEND (R332): 100 ticks after LINKDOWN, by the route then in force. -/
def execLinkdownResend (send : Nat) (s : State) : Host.Outcome State Fault Refusal := live s (fxResend send fun x => x.down)

/-- COL_RX_RETRY (R372): 100 ticks after a COL_RX write that completed with QFULL. -/
def execColRxRetry (send : Nat) (s : State) : Host.Outcome State Fault Refusal :=
  live s (fxResend send fun x => !x.down && x.typ == 3)

end Sys2Proof.Machine
end

