-- ==== Sys2Proof/Machine/CoreMem.lean ====
section
/-!
DEFINITION. What a general core reaches (R250 to R254): its windows, local memory through its data cache, control spaces, the
guest window and other devices; instruction fetch; and how an instruction ends (R265).
-/

namespace Sys2Proof.Machine

/-- Bytes of scratch memory and of the text window (R252). -/
def scratchBytes : Nat := 0x40000
def textWindow : Nat := 0x3E0100000000

/-- Where an address of a core leads (R25, R252). -/
inductive CorePlace where
  | scratch (off : Nat)
  | text (off : Nat)
  | here (a : Nat)
  | guest (a : Nat)
  | remote (dev a : Nat)
  deriving DecidableEq, Repr

/-- The windows are decoded before the local map; a device field of this device is local (R25), and so is one of zero, which a local
address has (R250, log entry 64). -/
def State.corePlace (s : State) (a : Nat) : CorePlace :=
  let l := gaLocal a
  if gaDev a ≠ 0 ∧ gaDev a ≠ s.devId then .remote (gaDev a) l
  else if 0x3E0000000000 ≤ l ∧ l < 0x3E0000000000 + scratchBytes then .scratch (l - 0x3E0000000000)
  else if textWindow ≤ l ∧ l < textWindow + 0x1000000 then .text (l - textWindow)
  else if 0x3F0000000000 ≤ l then .guest l
  else .here l

/-- A request that a core's instruction makes of another device, or of the guest. -/
structure CoreReq where
  guest : Bool
  dev : Nat
  typ : Nat
  addr : Nat
  len : Nat
  op : Nat
  data : List Byte
  deriving DecidableEq, Repr

/-- How an access of a core ends: its bytes, a status, or a request that must be answered first. -/
inductive Acc where
  | ok (bs : List Byte)
  | fault (status : Nat)
  | ask (r : CoreReq)
  deriving DecidableEq, Repr

/-- The image that a core runs. -/
def State.coreImage (s : State) (c : Nat) : Image :=
  if bit (s.rd (gcReg Reg.GC_STATUS c)) 13 then (s.core c).backhaul else (s.core c).primary

/-- The data cache holds lines of LPDDR and of the operand stores (R254). -/
def cacheable (a : Nat) : Bool :=
  match placeOf a with
  | .lpddr _ => true
  | .sram _ _ => true
  | _ => false

/-- A line that a cache may hold: a free bit says whether it still does (log entry 36). A miss counts in the core's register `cnt`
(R266). -/
def State.cacheHit (s : State) (cnt : Nat) (line : List Byte) : Bool × State :=
  if line.isEmpty then (false, s.addB cnt 63 0 1)
  else
    let (v, s) := s.free
    if bit v 0 then (true, s) else (false, s.addB cnt 63 0 1)

/-- Read `n` bytes within one line through the data cache. -/
def State.dcacheRead (s : State) (c a n : Nat) : Acc × State :=
  let line := a / 64 * 64
  let held := (s.core c).dcache.get line []
  let (hit, s) := s.cacheHit (gcReg Reg.GC_CNT_DMISS c) held
  if hit then (.ok ((held.drop (a - line)).take n), s)
  else
    let (st, bs, s) := s.load c line 64
    if st ≠ 0 then (.fault st, s)
    else
      let g := s.core c
      (.ok ((bs.drop (a - line)).take n), s.setCore c { g with dcache := g.dcache.set line bs [] })

/-- A line leaves the data cache. -/
def State.dcacheDrop (s : State) (c a : Nat) : State :=
  let g := s.core c
  s.setCore c { g with dcache := g.dcache.del (a / 64 * 64) }

/-- The data cache writes through, and does not allocate on a write. -/
def State.dcacheWrite (s : State) (c a : Nat) (bs : List Byte) : State :=
  let line := a / 64 * 64
  let held := (s.core c).dcache.get line []
  let (hit, s) := s.cacheHit (gcReg Reg.GC_CNT_DMISS c) held
  let g := s.core c
  let new := held.take (a - line) ++ bs ++ held.drop (a - line + bs.length)
  if hit then s.setCore c { g with dcache := g.dcache.set line new [] } else s.dcacheDrop c a

/-- The data cache after a write of a run of bytes, by pieces that lie in one line. -/
def State.dcacheRun (s : State) (c : Nat) : Nat → Nat → List Byte → State
  | 0, _, _ => s
  | k + 1, a, bs =>
    if bs.isEmpty then s else
    let l := 64 - a % 64
    State.dcacheRun (s.dcacheWrite c a (bs.take l)) c k (a + l) (bs.drop l)

/-- The next answer to the instruction in progress. -/
def State.nextReply (s : State) (c : Nat) : Option (Nat × List Byte) × State :=
  let g := s.core c
  match g.replies with
  | [] => (none, s)
  | r :: rs => (some r, s.setCore c { g with replies := rs })

/-- A request of the instruction: the answer, once it has come. -/
def State.askOr (s : State) (c : Nat) (r : CoreReq) : Acc × State :=
  match s.nextReply c with
  | (some (0, bs), s) => (.ok bs, s)
  | (some (st, _), s) => (.fault st, s)
  | (none, s) => (.ask r, s)

/-- A status that the spec states only to be nonzero, of an access of a kind to an address: free, and the same on every core (R248,
log entry 64). -/
def openStatus (kind a : Nat) : Nat := 1 + (Config.coreFree [kind, a]).toNat % 15

/-- A byte of a core's scratch memory. -/
def State.scratchByte (s : State) (c off : Nat) : Byte := s.scratch.get (scratchKey c off) 0

/-- Read `n` naturally aligned bytes; `vec` marks an access of a vector instruction, which does not leave the device (R253). -/
def State.coreRead (s : State) (c a n : Nat) (vec : Bool) : Acc × State :=
  match s.corePlace a with
  | .scratch off => (.ok ((List.range n).map fun i => s.scratchByte c (off + i)), s)
  | .text off =>
    let im := s.coreImage c
    if im.textBytes < off + n then (.fault St.unmapped, s)
    else
      let (st, bs, s) := s.memRead (im.text + off) n
      (if st ≠ 0 then .fault st else .ok bs, s)
  | .here l =>
    if cacheable l then
      let st := s.memCheck c l n
      if st ≠ 0 then (.fault st, s) else s.dcacheRead c l n
    else
      let (st, bs, s) := s.busRead c s.devId l n
      (if st ≠ 0 then .fault st else .ok bs, s)
  | .guest l =>
    if !s.guestAllowed c then (.fault St.gatedeny, s) else s.askOr c ⟨true, 0, 1, l, n, 0, []⟩
  | .remote dev l =>
    if vec then (.fault St.unmapped, s) else s.askOr c ⟨false, dev, s.readType dev, l, n, 0, []⟩

/-- Write naturally aligned bytes. -/
def State.coreWrite (s : State) (c a : Nat) (bs : List Byte) (vec : Bool) : Acc × State :=
  match s.corePlace a with
  | .scratch off => (.ok [], s.scratchWrite c off bs)
  | .text _ => (.fault (openStatus 0 a), s)
  | .here l =>
    if cacheable l then
      let (st, s) := s.store c l bs
      if st ≠ 0 then (.fault st, s) else (.ok [], s.dcacheWrite c l bs)
    else
      let (st, s) := s.busWrite c s.devId l bs
      (if st ≠ 0 then .fault st else .ok [], s)
  | .guest l =>
    if !s.guestAllowed c then (.fault St.gatedeny, s) else s.askOr c ⟨true, 0, 3, l, bs.length, 0, bs⟩
  | .remote dev l =>
    if vec then (.fault St.unmapped, s) else s.askOr c ⟨false, dev, 3, l, bs.length, 0, bs⟩

/-- An atomic operation of R341 on `n` naturally aligned bytes: the old bytes. -/
def State.coreAtomic (s : State) (c a n op : Nat) (data : List Byte) : Acc × State :=
  match s.corePlace a with
  | .scratch off =>
    let old := (List.range n).map fun i => s.scratchByte c (off + i)
    (.ok old, s.scratchWrite c off (toBytes n (atomicNew op n (ofBytes old) (ofBytes data) 0)))
  | .text _ => (.fault (openStatus 1 a), s)
  | .here l =>
    let (st, old, s) := s.atomic c l n op data
    if st ≠ 0 then (.fault st, s) else (.ok old, s.dcacheDrop c l)
  | .guest l =>
    if !s.guestAllowed c then (.fault St.gatedeny, s) else s.askOr c ⟨true, 0, 4, l, n, op, data⟩
  | .remote dev l => s.askOr c ⟨false, dev, 4, l, n, op, data⟩

/-- Read a run of bytes at a local address of a core, by pieces of 8 bytes or fewer. -/
def State.coreReadPieces (s : State) (c : Nat) : Nat → Nat → Nat → Acc × State
  | 0, _, _ => (.ok [], s)
  | k + 1, a, n =>
    if n = 0 then (.ok [], s) else
    let l := min 8 n
    match s.coreRead c a l true with
    | (.ok bs, s) =>
      match State.coreReadPieces s c k (a + l) (n - l) with
      | (.ok bs', s) => (.ok (bs ++ bs'), s)
      | r => r
    | r => r

/-- Write a run of bytes at a local address of a core, by pieces of 8 bytes or fewer. -/
def State.coreWritePieces (s : State) (c : Nat) : Nat → Nat → List Byte → Acc × State
  | 0, _, _ => (.ok [], s)
  | k + 1, a, bs =>
    if bs.isEmpty then (.ok [], s) else
    match s.coreWrite c a (bs.take 8) true with
    | (.ok _, s) => State.coreWritePieces s c k (a + 8) (bs.drop 8)
    | r => r

/-- A run of more than 8 bytes is one access: the status that its address and its master decide (R7, R13, R253). -/
def State.runCheck (s : State) (c a n : Nat) : Nat :=
  match s.corePlace a with
  | .scratch off => if off + n ≤ scratchBytes then St.ok else St.unmapped
  | .here l =>
    if n ≤ 8 then St.ok
    else if !inGuest l && inGuest (l + (n - 1)) && s.guestAllowed c then St.unmapped else s.memCheck c l n
  | _ => St.ok

def State.coreReadRun (s : State) (c k a n : Nat) : Acc × State :=
  let st := s.runCheck c a n
  if st ≠ 0 then (.fault st, s) else s.coreReadPieces c k a n

/-- Nothing of a run in memory is written when it does not complete with OK. -/
def State.coreWriteRun (s : State) (c k a : Nat) (bs : List Byte) : Acc × State :=
  let st := s.runCheck c a bs.length
  if st ≠ 0 then (.fault st, s) else
  match s.corePlace a with
  | .here l =>
    if cacheable l then
      let (st, s) := s.store c l bs
      if st ≠ 0 then (.fault st, s) else (.ok [], s.dcacheRun c (bs.length / 64 + 2) l bs)
    else s.coreWritePieces c k a bs
  | _ => s.coreWritePieces c k a bs

/-! ### Fetch -/

/-- Two bytes of instruction text at an address: text of the running image, or memory. -/
def State.fetchHalf (s : State) (c a : Nat) : Acc × State :=
  let raw (key : Nat) (rd : State → Nat × List Byte × State) (s : State) : Acc × State :=
    let line := key / 64 * 64
    let held := (s.core c).icache.get line []
    let (hit, s) := s.cacheHit (gcReg Reg.GC_CNT_IMISS c) held
    if hit then (.ok ((held.drop (key - line)).take 2), s)
    else
      let (st, bs, s) := rd s
      if st ≠ 0 then (.fault st, s)
      else
        let g := s.core c
        (.ok ((bs.drop (key - line)).take 2), s.setCore c { g with icache := g.icache.set line bs [] })
  match s.corePlace a with
  | .text off =>
    let im := s.coreImage c
    if im.textBytes < off + 2 then (.fault St.unmapped, s)
    else raw (im.text + off) (fun s => s.memRead ((im.text + off) / 64 * 64) 64) s
  | .here l =>
    if cacheable l then raw l (fun s => s.load c (l / 64 * 64) 64) s
    else
      let (st, _, s) := s.busRead c s.devId l 2
      (.fault (if st ≠ 0 then st else openStatus 2 a), s)
  | .guest l =>
    if !s.guestAllowed c then (.fault St.gatedeny, s) else s.askOr c ⟨true, 0, 1, l, 2, 0, []⟩
  | _ => (.fault (openStatus 2 a), s)

/-- What a fetch gives: the instruction and its length, the failing address with its status, or a request that must be
answered first. -/
inductive Fetched where
  | ins (raw len : Nat)
  | fault (addr status : Nat)
  | ask (r : CoreReq)
  deriving DecidableEq, Repr

/-- The instruction at an address. -/
def State.fetch (s : State) (c pc : Nat) : Fetched × State :=
  match s.fetchHalf c pc with
  | (.ok lo, s) =>
    if ofBytes lo % 4 ≠ 3 then (.ins (ofBytes lo) 2, s)
    else
      match s.fetchHalf c ((pc + 2) % 2 ^ 64) with
      | (.ok hi, s) => (.ins (ofBytes lo + 65536 * ofBytes hi) 4, s)
      | (.fault st, s) => (.fault ((pc + 2) % 2 ^ 64) st, s)
      | (.ask r, s) => (.ask r, s)
  | (.fault st, s) => (.fault pc st, s)
  | (.ask r, s) => (.ask r, s)

/-! ### How an instruction ends -/

/-- The end of an instruction: it retires and goes on at `pc`; it traps with no effect (R265); it waits for an answer; or it
stays as the state says. -/
inductive CoreOut where
  | done (pc : Nat) (s : State)
  | trap (cause status : Nat) (val : Word) (s : State)
  | ask (r : CoreReq)
  | stay (s : State)

/-- Forget the answers of an instruction that ends. -/
def State.clearReplies (s : State) (c : Nat) : State := s.setCore c { s.core c with replies := [] }

/-- Issue the request of an instruction, which then waits. -/
def State.coreAsk (s : State) (c : Nat) (r : CoreReq) : State :=
  let s := s.setCore c { s.core c with wait := .fabric }
  if r.guest then s.guestIssue c r.typ r.addr r.len r.op r.data none
  else s.fabIssue ⟨2, c, .core c, r.typ, 1, c, r.dev, r.addr, r.len, r.op, r.data⟩

/-- End an instruction that began in `s0`. -/
def State.coreEnd (s0 : State) (c : Nat) : CoreOut → State
  | .done pc s => (s.clearReplies c).gcRetire c (pc % 2 ^ 64)
  | .trap cause st val s => (s.clearReplies c).gcFault c cause st val
  | .ask r => s0.coreAsk c r
  | .stay s => s

/-- The core can execute the instruction at its PC: it runs, waits for nothing, and its ports are not masked (R299). -/
def State.coreReady (s : State) (c : Nat) : Bool := s.gcState c == 1 && (s.core c).wait == .none && !s.isMasked c

def State.gcPc (s : State) (c : Nat) : Nat := (s.rd (gcReg Reg.GC_PC c)).toNat

end Sys2Proof.Machine
end

