-- ==== Sys2Proof/Machine/CoreScalar.lean ====
section
/-!
DEFINITION. The scalar instructions of a general core (R249 to R254): RV64I with M, A, F, D, C, Zicsr, Zifencei, Zicntr and
Zicbom, as the RISC-V specifications that the manual cites define them. An instruction is the number its bits spell.
-/

namespace Sys2Proof.Machine

/-! ### Fields of an instruction -/

def iOp (i : Nat) : Nat := i % 128
def iRd (i : Nat) : Nat := nbits i 11 7
def iF3 (i : Nat) : Nat := nbits i 14 12
def iRs1 (i : Nat) : Nat := nbits i 19 15
def iRs2 (i : Nat) : Nat := nbits i 24 20
def iRs3 (i : Nat) : Nat := nbits i 31 27
def iF7 (i : Nat) : Nat := nbits i 31 25
def iImm (i : Nat) : Nat := nbits i 31 20

/-- A number of n bits, sign-extended to 64. -/
def sext (n v : Nat) : Nat := unsgn 64 (sgn n v)

def immI (i : Nat) : Nat := sext 12 (nbits i 31 20)
def immS (i : Nat) : Nat := sext 12 (nbits i 31 25 * 32 + nbits i 11 7)
def immB (i : Nat) : Nat :=
  sext 13 (nbits i 31 31 * 4096 + nbits i 7 7 * 2048 + nbits i 30 25 * 32 + nbits i 11 8 * 2)
def immU (i : Nat) : Nat := sext 32 (nbits i 31 12 * 4096)
def immJ (i : Nat) : Nat :=
  sext 21 (nbits i 31 31 * 2 ^ 20 + nbits i 19 12 * 4096 + nbits i 20 20 * 2048 + nbits i 30 21 * 2)

/-! ### Compressed instructions -/

def encI (op f3 rd rs1 imm : Nat) : Nat := op + rd * 128 + f3 * 4096 + rs1 * 2 ^ 15 + imm % 4096 * 2 ^ 20
def encR (op f3 f7 rd rs1 rs2 : Nat) : Nat := op + rd * 128 + f3 * 4096 + rs1 * 2 ^ 15 + rs2 * 2 ^ 20 + f7 * 2 ^ 25
def encS (op f3 rs1 rs2 imm : Nat) : Nat :=
  op + imm % 32 * 128 + f3 * 4096 + rs1 * 2 ^ 15 + rs2 * 2 ^ 20 + imm / 32 % 128 * 2 ^ 25
def encB (f3 rs1 imm : Nat) : Nat :=
  0x63 + (nbits imm 11 11 + nbits imm 4 1 * 2) * 128 + f3 * 4096 + rs1 * 2 ^ 15
    + (nbits imm 10 5 + nbits imm 12 12 * 64) * 2 ^ 25
def encJ (rd imm : Nat) : Nat :=
  0x6F + rd * 128 + nbits imm 19 12 * 4096 + nbits imm 11 11 * 2 ^ 20 + nbits imm 10 1 * 2 ^ 21 + nbits imm 20 20 * 2 ^ 31

/-- The 32-bit instruction that a compressed one of quadrant 0 stands for. -/
def expand0 (h : Nat) : Option Nat :=
  let rd := 8 + nbits h 4 2
  let rs := 8 + nbits h 9 7
  let d := nbits h 12 10 * 8 + nbits h 6 5 * 64
  let wd := nbits h 12 10 * 8 + nbits h 6 6 * 4 + nbits h 5 5 * 64
  match nbits h 15 13 with
  | 0 =>
    let imm := nbits h 12 11 * 16 + nbits h 10 7 * 64 + nbits h 6 6 * 4 + nbits h 5 5 * 8
    if imm = 0 then none else some (encI 0x13 0 rd 2 imm)
  | 1 => some (encI 0x07 3 rd rs d)
  | 2 => some (encI 0x03 2 rd rs wd)
  | 3 => some (encI 0x03 3 rd rs d)
  | 5 => some (encS 0x27 3 rs rd d)
  | 6 => some (encS 0x23 2 rs rd wd)
  | 7 => some (encS 0x23 3 rs rd d)
  | _ => none

/-- Quadrant 1. -/
def expand1 (h : Nat) : Option Nat :=
  let rd := nbits h 11 7
  let rs := 8 + nbits h 9 7
  let r2 := 8 + nbits h 4 2
  let sh := nbits h 12 12 * 32 + nbits h 6 2
  let imm := sext 6 sh
  let off := sext 9 (nbits h 12 12 * 256 + nbits h 11 10 * 8 + nbits h 6 5 * 64 + nbits h 4 3 * 2 + nbits h 2 2 * 32)
  match nbits h 15 13 with
  | 0 => some (encI 0x13 0 rd rd imm)
  | 1 => if rd = 0 then none else some (encI 0x1B 0 rd rd imm)
  | 2 => some (encI 0x13 0 rd 0 imm)
  | 3 =>
    if rd = 2 then
      let v := nbits h 12 12 * 512 + nbits h 6 6 * 16 + nbits h 5 5 * 64 + nbits h 4 3 * 128 + nbits h 2 2 * 32
      if v = 0 then none else some (encI 0x13 0 2 2 (sext 10 v))
    else if sh = 0 then none
    else some (0x37 + rd * 128 + imm % 2 ^ 20 * 4096)
  | 4 =>
    match nbits h 11 10 with
    | 0 => some (encI 0x13 5 rs rs sh)
    | 1 => some (encI 0x13 5 rs rs (sh + 0x400))
    | 2 => some (encI 0x13 7 rs rs imm)
    | _ =>
      match nbits h 12 12 * 4 + nbits h 6 5 with
      | 0 => some (encR 0x33 0 0x20 rs rs r2)
      | 1 => some (encR 0x33 4 0 rs rs r2)
      | 2 => some (encR 0x33 6 0 rs rs r2)
      | 3 => some (encR 0x33 7 0 rs rs r2)
      | 4 => some (encR 0x3B 0 0x20 rs rs r2)
      | 5 => some (encR 0x3B 0 0 rs rs r2)
      | _ => none
  | 5 =>
    some (encJ 0 (sext 12 (nbits h 12 12 * 2048 + nbits h 11 11 * 16 + nbits h 10 9 * 256 + nbits h 8 8 * 1024
      + nbits h 7 7 * 64 + nbits h 6 6 * 128 + nbits h 5 3 * 2 + nbits h 2 2 * 32)))
  | 6 => some (encB 0 rs off)
  | _ => some (encB 1 rs off)

/-- Quadrant 2. -/
def expand2 (h : Nat) : Option Nat :=
  let rd := nbits h 11 7
  let r2 := nbits h 6 2
  let sh := nbits h 12 12 * 32 + nbits h 6 2
  let ld := nbits h 12 12 * 32 + nbits h 6 5 * 8 + nbits h 4 2 * 64
  let lw := nbits h 12 12 * 32 + nbits h 6 4 * 4 + nbits h 3 2 * 64
  let sd := nbits h 12 10 * 8 + nbits h 9 7 * 64
  match nbits h 15 13 with
  | 0 => some (encI 0x13 1 rd rd sh)
  | 1 => some (encI 0x07 3 rd 2 ld)
  | 2 => if rd = 0 then none else some (encI 0x03 2 rd 2 lw)
  | 3 => if rd = 0 then none else some (encI 0x03 3 rd 2 ld)
  | 4 =>
    if nbits h 12 12 = 0 then
      if r2 = 0 then (if rd = 0 then none else some (encI 0x67 0 0 rd 0)) else some (encR 0x33 0 0 rd 0 r2)
    else if r2 = 0 then (if rd = 0 then some 0x00100073 else some (encI 0x67 0 1 rd 0))
    else some (encR 0x33 0 0 rd rd r2)
  | 5 => some (encS 0x27 3 2 r2 sd)
  | 6 => some (encS 0x23 2 2 r2 (nbits h 12 9 * 4 + nbits h 8 7 * 64))
  | _ => some (encS 0x23 3 2 r2 sd)

/-- The 32-bit instruction that a compressed one stands for; none for a reserved one. -/
def expandC (h : Nat) : Option Nat :=
  match h % 4 with
  | 0 => expand0 h
  | 1 => expand1 h
  | _ => expand2 h

/-! ### Arithmetic on 64-bit and 32-bit numbers -/

/-- The low 64 bits of an integer. -/
def u64 (i : Int) : Nat := unsgn 64 i
def s64 (v : Nat) : Int := sgn 64 v

/-- Quotient and remainder rounded towards zero, with RISC-V's results for a zero divisor and for overflow. -/
def divS (n a b : Nat) : Nat :=
  if b % 2 ^ n = 0 then 2 ^ n - 1 else unsgn n (Int.tdiv (sgn n a) (sgn n b))
def remS (n a b : Nat) : Nat := if b % 2 ^ n = 0 then a % 2 ^ n else unsgn n (Int.tmod (sgn n a) (sgn n b))
def divU (n a b : Nat) : Nat := if b % 2 ^ n = 0 then 2 ^ n - 1 else a % 2 ^ n / (b % 2 ^ n)
def remU (n a b : Nat) : Nat := if b % 2 ^ n = 0 then a % 2 ^ n else a % 2 ^ n % (b % 2 ^ n)

/-- Arithmetic shift right of an n-bit number. -/
def sraN (n a k : Nat) : Nat := unsgn n (sgn n a / 2 ^ k)

/-- OP and OP-IMM on n-bit operands: funct3 and the alternative bit. -/
def aluN (n f3 : Nat) (alt : Bool) (a b : Nat) : Nat :=
  let sh := b % n
  match f3 with
  | 0 => if alt then unsgn n ((a : Int) - b) else (a + b) % 2 ^ n
  | 1 => a * 2 ^ sh % 2 ^ n
  | 2 => if sgn n a < sgn n b then 1 else 0
  | 3 => if a % 2 ^ n < b % 2 ^ n then 1 else 0
  | 4 => a.xor b % 2 ^ n
  | 5 => if alt then sraN n a sh else a % 2 ^ n / 2 ^ sh
  | 6 => a.lor b % 2 ^ n
  | _ => a.land b % 2 ^ n

/-- Multiplication and division (M). -/
def mulN (n f3 a b : Nat) : Nat :=
  match f3 with
  | 0 => a * b % 2 ^ n
  | 1 => unsgn n (sgn n a * sgn n b / 2 ^ n)
  | 2 => unsgn n (sgn n a * ((b % 2 ^ n : Nat) : Int) / 2 ^ n)
  | 3 => a % 2 ^ n * (b % 2 ^ n) / 2 ^ n
  | 4 => divS n a b
  | 5 => divU n a b
  | 6 => remS n a b
  | _ => remU n a b

/-! ### Control and status registers (R250, R251) -/

/-- The value of a CSR that U-mode may read; none for any other. The cycle CSR gains a free number of cycles between ticks and never
falls (log entry 69). -/
def State.csrRead (s : State) (c csr : Nat) : Option (Nat × State) :=
  let g := s.core c
  match csr with
  | 0x001 => some (g.fcsr % 32, s)
  | 0x002 => some (g.fcsr / 32 % 8, s)
  | 0x003 => some (g.fcsr % 256, s)
  | 0x008 => some (g.vstart, s)
  | 0x009 => some (g.vcsr % 2, s)
  | 0x00A => some (g.vcsr / 2 % 4, s)
  | 0x00F => some (g.vcsr % 8, s)
  | 0xC00 =>
    let (v, s) := s.free
    let sub := max g.sub (v.toNat % 24)
    some ((g.cycle.toNat + sub) % 2 ^ 64, s.setCore c { g with sub := sub })
  | 0xC01 => some (s.now, s)
  | 0xC02 => some (g.instret.toNat, s)
  | 0xC20 => some (g.vl, s)
  | 0xC21 => some (g.vtype.toNat, s)
  | 0xC22 => some (64, s)
  | 0xCC0 => some (c, s)
  | 0xCC1 =>
    let r := s.rd (gcReg Reg.GC_STATUS c)
    some (bits r 12 8 + at_ 5 (bits r 13 13) + at_ 8 (bits r 20 16), s)
  | _ => none

/-- Write a CSR that U-mode may write. -/
def State.csrWrite (s : State) (c csr v : Nat) : State :=
  let g := s.core c
  match csr with
  | 0x001 => s.setCore c { g with fcsr := g.fcsr / 32 * 32 + v % 32 }
  | 0x002 => s.setCore c { g with fcsr := g.fcsr % 32 + v % 8 * 32 }
  | 0x003 => s.setCore c { g with fcsr := v % 256 }
  | 0x008 => s.setCore c { g with vstart := v % 512 }
  | 0x009 => s.setCore c { g with vcsr := g.vcsr / 2 * 2 + v % 2 }
  | 0x00A => s.setCore c { g with vcsr := g.vcsr % 2 + v % 4 * 2 }
  | 0x00F => s.setCore c { g with vcsr := v % 8 }
  | _ => s

/-! ### Registers -/

def State.gx (s : State) (c r : Nat) : Nat := ((s.core c).getX r).toNat
def State.setGx (s : State) (c r v : Nat) : State := s.setCore c ((s.core c).setX r (w v))
def State.gf (s : State) (c r : Nat) : Nat := (nth (s.core c).f r 0).toNat
def State.setGf (s : State) (c r v : Nat) : State :=
  let g := s.core c
  s.setCore c { g with f := setNth g.f r (w v) }

/-- An FP32 number in a register is boxed: its high half is all ones; else the operand is the canonical NaN. -/
def unbox (v : Nat) : Nat := if v / 2 ^ 32 = 2 ^ 32 - 1 then v % 2 ^ 32 else Fmt.fp32.canonNan
def box32 (v : Nat) : Nat := v % 2 ^ 32 + (2 ^ 32 - 1) * 2 ^ 32

/-- Read and write a floating-point register in a format. -/
def State.gfF (s : State) (c r : Nat) (dbl : Bool) : Nat := if dbl then s.gf c r else unbox (s.gf c r)
def State.setGfF (s : State) (c r : Nat) (dbl : Bool) (v : Nat) : State := s.setGf c r (if dbl then v else box32 v)
def fmtF (dbl : Bool) : Fmt := if dbl then .fp64 else .fp32

/-- Accrue floating-point flags. -/
def State.accrue (s : State) (c fl : Nat) : State :=
  let g := s.core c
  s.setCore c { g with fcsr := g.fcsr / 32 * 32 + (g.fcsr % 32).lor fl }

/-- The rounding mode of an rm field; none for a reserved one. -/
def State.rmMode (s : State) (c rm : Nat) : Option Rnd :=
  let r := if rm = 7 then (s.core c).fcsr / 32 % 8 else rm
  if r ≤ 4 then some (rmOf r) else none

/-! ### Instructions -/

/-- An instruction in execution: core, state, PC, length, bits as fetched, and the 32-bit form. -/
structure Ins where
  c : Nat
  s : State
  pc : Nat
  len : Nat
  raw : Nat
  i : Nat

def Ins.next (x : Ins) : Nat := x.pc + x.len
def Ins.illegal (x : Ins) : CoreOut := .trap 2 0 (w x.raw) x.s
def Ins.r1 (x : Ins) : Nat := x.s.gx x.c (iRs1 x.i)
def Ins.r2 (x : Ins) : Nat := x.s.gx x.c (iRs2 x.i)

/-- Retire with a result. -/
def Ins.put (x : Ins) (v : Nat) : CoreOut := .done x.next (x.s.setGx x.c (iRd x.i) v)

/-- OP, OP-IMM and their 32-bit forms. -/
def Ins.alu (x : Ins) : CoreOut :=
  let f3 := iF3 x.i
  let f7 := iF7 x.i
  let w32 (v : Nat) : Nat := sext 32 v
  match iOp x.i with
  | 0x13 =>
    let f6 := f7 / 2
    if f3 = 1 then (if f6 = 0 then x.put (aluN 64 1 false x.r1 (nbits x.i 25 20)) else x.illegal)
    else if f3 = 5 then
      (if f6 = 0 ∨ f6 = 0x10 then x.put (aluN 64 5 (f6 == 0x10) x.r1 (nbits x.i 25 20)) else x.illegal)
    else x.put (aluN 64 f3 false x.r1 (immI x.i))
  | 0x1B =>
    if f3 = 0 then x.put (w32 (aluN 32 0 false x.r1 (immI x.i)))
    else if f3 = 1 then (if f7 = 0 then x.put (w32 (aluN 32 1 false x.r1 (iRs2 x.i))) else x.illegal)
    else if f3 = 5 then
      (if f7 = 0 ∨ f7 = 0x20 then x.put (w32 (aluN 32 5 (f7 == 0x20) x.r1 (iRs2 x.i))) else x.illegal)
    else x.illegal
  | 0x33 =>
    if f7 = 1 then x.put (mulN 64 f3 x.r1 x.r2)
    else if f7 = 0 then x.put (aluN 64 f3 false x.r1 x.r2)
    else if f7 = 0x20 ∧ (f3 = 0 ∨ f3 = 5) then x.put (aluN 64 f3 true x.r1 x.r2)
    else x.illegal
  | _ =>
    if f7 = 1 ∧ (f3 = 0 ∨ 4 ≤ f3) then x.put (w32 (mulN 32 f3 (x.r1 % 2 ^ 32) (x.r2 % 2 ^ 32)))
    else if f7 = 0 ∧ (f3 = 0 ∨ f3 = 1 ∨ f3 = 5) then x.put (w32 (aluN 32 f3 false x.r1 x.r2))
    else if f7 = 0x20 ∧ (f3 = 0 ∨ f3 = 5) then x.put (w32 (aluN 32 f3 true x.r1 x.r2))
    else x.illegal

/-- Branches and jumps. -/
def Ins.branch (x : Ins) : CoreOut :=
  let a := x.r1
  let b := x.r2
  let go (t : Bool) : CoreOut := .done (if t then x.pc + immB x.i else x.next) x.s
  match iF3 x.i with
  | 0 => go (a == b)
  | 1 => go (a != b)
  | 4 => go (decide (s64 a < s64 b))
  | 5 => go (decide (s64 b ≤ s64 a))
  | 6 => go (decide (a < b))
  | 7 => go (decide (b ≤ a))
  | _ => x.illegal

/-- An access that does not complete: the exception (`cause` 5 or 7), or the wait. -/
def Ins.acc (x : Ins) (cause a : Nat) (r : Acc × State) (f : List Byte → State → CoreOut) : CoreOut :=
  match r with
  | (.ok bs, s) => f bs s
  | (.fault st, s) => .trap cause st (w a) (x.s.memoryOf s)
  | (.ask q, _) => .ask q

/-- A scalar load of `n` bytes. -/
def Ins.load (x : Ins) (n : Nat) (f : List Byte → State → CoreOut) : CoreOut :=
  let a := (x.r1 + immI x.i) % 2 ^ 64
  if a % n ≠ 0 then .trap 4 0 (w a) x.s else x.acc 5 a (x.s.coreRead x.c a n false) f

/-- A scalar store. -/
def Ins.store (x : Ins) (n v : Nat) : CoreOut :=
  let a := (x.r1 + immS x.i) % 2 ^ 64
  if a % n ≠ 0 then .trap 6 0 (w a) x.s
  else x.acc 7 a (x.s.coreWrite x.c a (toBytes n v) false) fun _ s => .done x.next s

def Ins.loadInt (x : Ins) : CoreOut :=
  let f3 := iF3 x.i
  if f3 = 7 then x.illegal
  else x.load (2 ^ (f3 % 4)) fun bs s =>
    let v := ofBytes bs
    .done x.next (s.setGx x.c (iRd x.i) (if f3 < 4 then sext (8 * 2 ^ f3) v else v))

def Ins.storeInt (x : Ins) : CoreOut := if 3 < iF3 x.i then x.illegal else x.store (2 ^ iF3 x.i) x.r2

/-- FLW, FLD, FSW, FSD (widths 2 and 3). -/
def Ins.loadFp (x : Ins) : CoreOut :=
  let dbl := iF3 x.i == 3
  x.load (if dbl then 8 else 4) fun bs s => .done x.next (s.setGfF x.c (iRd x.i) dbl (ofBytes bs))

def Ins.storeFp (x : Ins) : CoreOut :=
  let v := x.s.gf x.c (iRs2 x.i)
  if iF3 x.i = 3 then x.store 8 v else x.store 4 (v % 2 ^ 32)

/-- The operation of R341 that an AMO performs, by funct5. -/
def amoOp (f5 : Nat) : Option Nat :=
  match f5 with
  | 0x01 => some 0 | 0x00 => some 2 | 0x0C => some 3 | 0x08 => some 4 | 0x04 => some 5
  | 0x10 => some 6 | 0x14 => some 7 | 0x18 => some 8 | 0x1C => some 9
  | _ => none

/-- The status with which LR and SC do not reach a place: only LPDDR, the operand stores and scratch serve them (R253, R341). -/
def State.lrPlace (s : State) (c a : Nat) : Nat :=
  match s.corePlace a with
  | .scratch _ => St.ok
  | .text _ => St.misalign
  | .here l => atomicPlace l
  | .guest _ => if s.guestAllowed c then St.misalign else St.gatedeny
  | .remote _ _ => St.unmapped

/-- LR (R253). -/
def Ins.lr (x : Ins) (n : Nat) : CoreOut :=
  let a := x.r1
  if a % n ≠ 0 then .trap 4 0 (w a) x.s
  else
    let st := x.s.lrPlace x.c a
    if st ≠ 0 then .trap 5 st (w a) x.s
    else
      let s := x.s.dcacheDrop x.c (gaLocal a)
      x.acc 5 a (s.coreRead x.c a n false) fun bs s =>
        let s := s.setCore x.c { s.core x.c with resv := some (gaLocal a, n) }
        .done x.next (s.setGx x.c (iRd x.i) (sext (8 * n) (ofBytes bs)))

/-- SC (R253): it stores only while the reservation covers the bytes; a free bit says whether it fails even so. The bit and the code of
a failing SC depend on the instruction and the core's data alone (R248, log entry 37). -/
def Ins.sc (x : Ins) (n : Nat) : CoreOut :=
  let a := x.r1
  if a % n ≠ 0 then .trap 6 0 (w a) x.s
  else
    let st := x.s.lrPlace x.c a
    if st ≠ 0 then .trap 7 st (w a) x.s
    else
      let held := match (x.s.core x.c).resv with
        | some (b, k) => decide (b ≤ gaLocal a) && decide (gaLocal a + n ≤ b + k)
        | none => false
      let g := x.s.core x.c
      let key := [x.raw, a, x.r2, g.instret.toNat, (g.resv.getD (0, 0)).1, (g.resv.getD (0, 0)).2]
      let s := x.s.setCore x.c { g with resv := none }
      if held && bit (Config.coreFree (3 :: key)) 0 then
        x.acc 7 a (s.coreWrite x.c a (toBytes n x.r2) false) fun _ s => .done x.next (s.setGx x.c (iRd x.i) 0)
      else
        .done x.next (s.setGx x.c (iRd x.i) (1 + (Config.coreFree (4 :: key)).toNat % (2 ^ 64 - 1)))

def Ins.amo (x : Ins) : CoreOut :=
  let f3 := iF3 x.i
  if f3 ≠ 2 ∧ f3 ≠ 3 then x.illegal else
  let n := 2 ^ f3
  match iF7 x.i / 4 with
  | 2 => if iRs2 x.i = 0 then x.lr n else x.illegal
  | 3 => x.sc n
  | f5 =>
    match amoOp f5 with
    | none => x.illegal
    | some op =>
      let a := x.r1
      if a % n ≠ 0 then .trap 6 0 (w a) x.s
      else x.acc 7 a (x.s.coreAtomic x.c a n op (toBytes n x.r2)) fun bs s =>
        .done x.next (s.setGx x.c (iRd x.i) (sext (8 * n) (ofBytes bs)))

/-- FENCE, FENCE.I and the cache-block operations (R254). -/
def Ins.miscMem (x : Ins) : CoreOut :=
  match iF3 x.i with
  | 0 => .done x.next x.s
  | 1 => .done x.next (x.s.setCore x.c { x.s.core x.c with icache := [] })
  | 2 =>
    if iRd x.i ≠ 0 ∨ 2 < iImm x.i then x.illegal
    else
      let a := x.r1
      match x.s.corePlace a with
      | .here l =>
        let st := if placeOf l = .none then St.unmapped else if cacheable l then x.s.memCheck x.c (l / 64 * 64) 64 else St.ok
        if st ≠ 0 then .trap 7 st (w a) x.s
        else .done x.next (if iImm x.i = 1 then x.s else x.s.dcacheDrop x.c l)
      | _ => .done x.next x.s
  | _ => x.illegal

/-- Zicsr. A read-only CSR is not written; CSRRS and CSRRC with a zero source write nothing. -/
def Ins.csr (x : Ins) : CoreOut :=
  let f3 := iF3 x.i
  let n := iImm x.i
  let src := if 4 ≤ f3 then iRs1 x.i else x.r1
  let writes := f3 % 4 == 1 || iRs1 x.i != 0
  match x.s.csrRead x.c n with
  | none => x.illegal
  | some (old, s) =>
    if writes && decide (0xC00 ≤ n) then x.illegal
    else
      let new := if f3 % 4 = 1 then src else if f3 % 4 = 2 then old.lor src else old - old.land src
      let s := if writes then s.csrWrite x.c n new else s
      .done x.next (s.setGx x.c (iRd x.i) old)

/-- EBREAK under an authenticated debug session halts the core for the debugger (R265). -/
def Ins.ebreak (x : Ins) : CoreOut :=
  if x.s.perm 0 then .stay ((x.s.clearReplies x.c).setGcState x.c 4) else .trap 3 0 (w x.pc) x.s

def Ins.system (x : Ins) : CoreOut :=
  match iF3 x.i with
  | 0 =>
    if x.i = 0x00000073 then .trap 8 0 (w (x.s.gx x.c 10)) x.s
    else if x.i = 0x00100073 then x.ebreak
    else x.illegal
  | 4 => x.illegal
  | _ => x.csr

/-- Retire with a floating-point result and its flags. -/
def Ins.putF (x : Ins) (dbl : Bool) (r : Nat × Nat) : CoreOut :=
  .done x.next ((x.s.setGfF x.c (iRd x.i) dbl r.1).accrue x.c r.2)

/-- Retire with an integer result and flags. -/
def Ins.putXF (x : Ins) (v fl : Nat) : CoreOut := .done x.next ((x.s.setGx x.c (iRd x.i) v).accrue x.c fl)

/-- The fused multiply-adds. -/
def Ins.fma (x : Ins) : CoreOut :=
  let fmt := nbits x.i 26 25
  match x.s.rmMode x.c (iF3 x.i) with
  | none => x.illegal
  | some m =>
    if 1 < fmt then x.illegal else
    let dbl := fmt == 1
    let f := fmtF dbl
    let a := x.s.gfF x.c (iRs1 x.i) dbl
    let b := x.s.gfF x.c (iRs2 x.i) dbl
    let d := x.s.gfF x.c (iRs3 x.i) dbl
    match iOp x.i with
    | 0x43 => x.putF dbl (f.fpFma m a b d)
    | 0x47 => x.putF dbl (f.fpFma m a b (f.flip d))
    | 0x4B => x.putF dbl (f.fpFma m (f.flip a) b d)
    | _ => x.putF dbl (f.fpFma m (f.flip a) b (f.flip d))

/-- OP-FP. -/
def Ins.opFp (x : Ins) : CoreOut :=
  let fmt := iF7 x.i % 4
  if 1 < fmt then x.illegal else
  let dbl := fmt == 1
  let f := fmtF dbl
  let f3 := iF3 x.i
  let r2 := iRs2 x.i
  let a := x.s.gfF x.c (iRs1 x.i) dbl
  let b := x.s.gfF x.c r2 dbl
  let rounded (g : Rnd → CoreOut) : CoreOut :=
    match x.s.rmMode x.c f3 with
    | some m => g m
    | none => x.illegal
  let cmp (r : Bool × Nat) : CoreOut := x.putXF (if r.1 then 1 else 0) r.2
  match iF7 x.i / 4 with
  | 0x00 => rounded fun m => x.putF dbl (f.fpAdd m a b)
  | 0x01 => rounded fun m => x.putF dbl (f.fpSub m a b)
  | 0x02 => rounded fun m => x.putF dbl (f.fpMul m a b)
  | 0x03 => rounded fun m => x.putF dbl (f.fpDiv m a b)
  | 0x0B => if r2 ≠ 0 then x.illegal else rounded fun m => x.putF dbl (f.fpSqrt m a)
  | 0x04 => if 2 < f3 then x.illegal else x.putF dbl (f.fpSgnj f3 a b, 0)
  | 0x05 => if 1 < f3 then x.illegal else x.putF dbl (f.fpMinMax (f3 == 1) a b)
  | 0x14 =>
    if f3 = 2 then cmp (f.fpEq a b) else if f3 = 1 then cmp (f.fpLt a b)
    else if f3 = 0 then cmp (f.fpLe a b) else x.illegal
  | 0x18 =>
    if 3 < r2 then x.illegal else rounded fun m =>
      let (v, fl) := f.fpToInt m (r2 % 2 == 0) (if r2 < 2 then 32 else 64) a
      x.putXF (if r2 < 2 then sext 32 v else v) fl
  | 0x1A =>
    if 3 < r2 then x.illegal else rounded fun m =>
      x.putF dbl (f.fpOfInt m (r2 % 2 == 0) (if r2 < 2 then 32 else 64) x.r1)
  | 0x08 =>
    if dbl then
      (if r2 ≠ 0 then x.illegal else rounded fun m => x.putF true (Fmt.fp64.fpOfFmt .fp32 m (x.s.gfF x.c (iRs1 x.i) false)))
    else
      (if r2 ≠ 1 then x.illegal else rounded fun m => x.putF false (Fmt.fp32.fpOfFmt .fp64 m (x.s.gfF x.c (iRs1 x.i) true)))
  | 0x1C =>
    if r2 ≠ 0 then x.illegal
    else if f3 = 0 then
      let v := x.s.gf x.c (iRs1 x.i)
      x.put (if dbl then v else sext 32 v)
    else if f3 = 1 then x.put (f.fpClass a)
    else x.illegal
  | 0x1E => if r2 ≠ 0 ∨ f3 ≠ 0 then x.illegal else x.putF dbl (x.r1, 0)
  | _ => x.illegal

end Sys2Proof.Machine
end

