-- ==== Sys2Proof/Machine/CoreVecOps.lean ====
section
/-!
DEFINITION. The vector registers of a general core (R249, R257): VLEN 512, ELEN 64. The vector configuration, elements, masks,
register groups and their legality, and element arithmetic, as RISC-V's V extension defines them.
-/

namespace Sys2Proof.Machine

/-! ### Configuration -/

/-- The vector configuration that an instruction meets: vtype's fields, vl, vstart; `lmul8` is eight times LMUL. -/
structure VCfg where
  vill : Bool
  sew : Nat
  lmul8 : Nat
  vta : Bool
  vma : Bool
  vl : Nat
  vstart : Nat
  deriving DecidableEq, Repr

/-- Eight times LMUL; 0 for the reserved code. -/
def lmul8Of (code : Nat) : Nat :=
  match code with
  | 0 => 8 | 1 => 16 | 2 => 32 | 3 => 64 | 5 => 1 | 6 => 2 | 7 => 4
  | _ => 0

/-- Elements of a group. -/
def vlmaxOf (sew lmul8 : Nat) : Nat := 64 * lmul8 / sew

/-- A vtype value that the cores support. -/
def vtypeOk (v : Nat) : Bool :=
  let sew := 8 * 2 ^ nbits v 5 3
  let l8 := lmul8Of (nbits v 2 0)
  decide (v < 256) && decide (nbits v 5 3 ≤ 3) && decide (0 < l8) && decide (sew ≤ 8 * l8)

def Core.vcfg (g : Core) : VCfg :=
  let v := g.vtype.toNat
  { vill := v.testBit 63, sew := 8 * 2 ^ nbits v 5 3, lmul8 := lmul8Of (nbits v 2 0), vta := v.testBit 6, vma := v.testBit 7
    vl := g.vl, vstart := g.vstart }

def VCfg.vlmax (x : VCfg) : Nat := vlmaxOf x.sew x.lmul8

/-! ### Elements -/

/-- Element i of width `eew` of the group at register r. -/
def vElem (v : List Nat) (eew r i : Nat) : Nat :=
  let per := 512 / eew
  nth v (r + i / per) 0 / 2 ^ (i % per * eew) % 2 ^ eew

/-- Replace element i. -/
def vSetElem (v : List Nat) (eew r i x : Nat) : List Nat :=
  let per := 512 / eew
  let q := r + i / per
  let o := i % per * eew
  let old := nth v q 0
  setNth v q (old - old / 2 ^ o % 2 ^ eew * 2 ^ o + x % 2 ^ eew * 2 ^ o)

/-- Bit i of a mask register. -/
def vBit (v : List Nat) (r i : Nat) : Bool := (nth v r 0).testBit i

/-- Registers of a group. -/
def groupRegs (e8 : Nat) : Nat := max 1 (e8 / 8)

/-! ### Legality -/

/-- A group of EMUL e8/8 at register r is aligned and lies in the file. -/
def vGroup (e8 r : Nat) : Bool := decide (1 ≤ e8) && decide (e8 ≤ 64) && r % groupRegs e8 == 0 && decide (r + groupRegs e8 ≤ 32)

/-- Two register ranges overlap. -/
def vOverlap (a na b nb : Nat) : Bool := decide (a < b + nb) && decide (b < a + na)

/-- A destination group may overlap a source group. -/
def vMay (dEew dE8 d sEew sE8 s : Nat) : Bool :=
  let nd := groupRegs dE8
  let ns := groupRegs sE8
  !vOverlap d nd s ns || dEew == sEew || (decide (dEew < sEew) && d == s)
    || (decide (sEew < dEew) && decide (8 ≤ sE8) && s + ns == d + nd)

/-- No register is read with two element widths: source groups as (width, registers, first register). -/
def vSources : List (Nat × Nat × Nat) → Bool
  | [] => true
  | (e, k, r) :: gs => gs.all (fun g => g.1 == e || !vOverlap r k g.2.2 g.2.1) && vSources gs

/-- A masked instruction does not overwrite its mask. -/
def vMaskOk (vm : Bool) (d : Nat) : Bool := vm || decide (d ≠ 0)

/-! ### Writing results -/

/-- What an instruction needs to write a group: the configuration, whether it is unmasked, the data that its free values are
functions of (R248), and the number of body elements that a slide leaves unchanged. -/
structure VEnv where
  cfg : VCfg
  vm : Bool
  v : List Nat
  key : List Nat
  keep : Nat := 0

/-- Element i takes part. -/
def VEnv.active (x : VEnv) (i : Nat) : Bool := decide (x.cfg.vstart ≤ i) && decide (i < x.cfg.vl) && (x.vm || vBit x.v 0 i)

/-- The value of an agnostic element: as it was, or all ones (log entry 38). -/
def agnostic (ag : Bool) (key : List Nat) (i old eew : Nat) : Nat :=
  if ag && bit (Config.vectorFree key i) 0 then 2 ^ eew - 1 else old

/-- Write a destination group of width `eew`: active elements take `f`, the others follow vta and vma. `n` is the number of
elements of the group's registers. -/
def VEnv.write (x : VEnv) (eew d n : Nat) (f : Nat → Nat) : List Nat :=
  if x.cfg.vl ≤ x.cfg.vstart then x.v else
  (List.range n).foldl (fun (v : List Nat) (i : Nat) =>
    let old := vElem x.v eew d i
    if i < x.cfg.vstart then v
    else if x.cfg.vl ≤ i then vSetElem v eew d i (agnostic x.cfg.vta x.key i old eew)
    else if i < x.keep then v
    else if x.vm || vBit x.v 0 i then vSetElem v eew d i (f i)
    else vSetElem v eew d i (agnostic x.cfg.vma x.key i old eew)) x.v

/-- Elements of the registers of a group, its tail included. -/
def VCfg.span (eew e8 : Nat) : Nat := groupRegs e8 * (512 / eew)

/-- Write a mask register: the tail is always agnostic. -/
def VEnv.writeMask (x : VEnv) (d : Nat) (f : Nat → Bool) : List Nat :=
  if x.cfg.vl ≤ x.cfg.vstart then x.v else
  (List.range 512).foldl (fun (v : List Nat) (i : Nat) =>
    let old := vElem x.v 1 d i
    if i < x.cfg.vstart then v
    else if x.cfg.vl ≤ i then vSetElem v 1 d i (agnostic true x.key i old 1)
    else if x.vm || vBit x.v 0 i then vSetElem v 1 d i (if f i then 1 else 0)
    else vSetElem v 1 d i (agnostic x.cfg.vma x.key i old 1)) x.v

/-- Write element 0 of a register, the rest being tail. -/
def VEnv.writeFirst (x : VEnv) (eew d : Nat) (r : Nat) : List Nat :=
  (List.range (512 / eew)).foldl (fun (v : List Nat) (i : Nat) =>
    if i = 0 then vSetElem v eew d 0 r
    else vSetElem v eew d i (agnostic x.cfg.vta x.key i (vElem x.v eew d i) eew)) x.v

/-- Elements that take part, rising. -/
def VEnv.actives (x : VEnv) : List Nat := (List.range x.cfg.vl).filter x.active

/-! ### Element arithmetic -/

/-- The rounding increment of a right shift by k (vxrm: 0 nearest up, 1 nearest even, 2 down, 3 to odd). -/
def vRound (rm : Nat) (v : Int) (k : Nat) : Int :=
  if k = 0 then v else
  let q := v / 2 ^ k
  let r := v % 2 ^ k
  let half : Int := 2 ^ (k - 1)
  let up : Bool := match rm with
    | 0 => decide (half ≤ r)
    | 1 => decide (half < r) || (r == half && q % 2 == 1)
    | 2 => false
    | _ => q % 2 == 0 && r != 0
  if up then q + 1 else q

/-- Saturate to n bits, with whether it did. -/
def vSat (signed : Bool) (n : Nat) (v : Int) : Nat × Bool :=
  let top : Int := if signed then 2 ^ (n - 1) - 1 else 2 ^ n - 1
  let low : Int := if signed then -(2 ^ (n - 1)) else 0
  if top < v then (unsgn n top, true) else if v < low then (unsgn n low, true) else (unsgn n v, false)

def uInt (n v : Nat) : Int := ((v % 2 ^ n : Nat) : Int)
def unsat (v : Nat) : Nat × Bool := (v, false)

/-- The single-width integer operations with a vs2 and b the other operand, by funct6 of OPIVV, OPIVX and OPIVI; none for
the instructions that are not of this form. The flag says that the result saturated. -/
def opiElem (f6 n rm a b : Nat) : Option (Nat × Bool) :=
  let sa := sgn n a
  let sb := sgn n b
  let ua := uInt n a
  let ub := uInt n b
  let sh := b % n
  match f6 with
  | 0x00 => some (unsat (unsgn n (ua + ub)))
  | 0x02 => some (unsat (unsgn n (ua - ub)))
  | 0x03 => some (unsat (unsgn n (ub - ua)))
  | 0x04 => some (unsat (unsgn n (min ua ub)))
  | 0x05 => some (unsat (unsgn n (min sa sb)))
  | 0x06 => some (unsat (unsgn n (max ua ub)))
  | 0x07 => some (unsat (unsgn n (max sa sb)))
  | 0x09 => some (unsat (a.land b % 2 ^ n))
  | 0x0A => some (unsat (a.lor b % 2 ^ n))
  | 0x0B => some (unsat (a.xor b % 2 ^ n))
  | 0x20 => some (vSat false n (ua + ub))
  | 0x21 => some (vSat true n (sa + sb))
  | 0x22 => some (vSat false n (ua - ub))
  | 0x23 => some (vSat true n (sa - sb))
  | 0x25 => some (unsat (a * 2 ^ sh % 2 ^ n))
  | 0x27 => some (vSat true n (vRound rm (sa * sb) (n - 1)))
  | 0x28 => some (unsat (a % 2 ^ n / 2 ^ sh))
  | 0x29 => some (unsat (sraN n a sh))
  | 0x2A => some (unsat (unsgn n (vRound rm ua sh)))
  | 0x2B => some (unsat (unsgn n (vRound rm sa sh)))
  | _ => none

/-- The integer comparisons into a mask. -/
def opiCmp (f6 n a b : Nat) : Option Bool :=
  let sa := sgn n a
  let sb := sgn n b
  let ua := uInt n a
  let ub := uInt n b
  match f6 with
  | 0x18 => some (ua == ub)
  | 0x19 => some (ua != ub)
  | 0x1A => some (decide (ua < ub))
  | 0x1B => some (decide (sa < sb))
  | 0x1C => some (decide (ua ≤ ub))
  | 0x1D => some (decide (sa ≤ sb))
  | 0x1E => some (decide (ub < ua))
  | 0x1F => some (decide (sb < sa))
  | _ => none

/-- The narrowing shifts and clips: a has 2n bits. -/
def opiNarrow (f6 n rm a b : Nat) : Option (Nat × Bool) :=
  let sh := b % (2 * n)
  match f6 with
  | 0x2C => some (unsat (a % 2 ^ (2 * n) / 2 ^ sh % 2 ^ n))
  | 0x2D => some (unsat (unsgn n (sgn (2 * n) a / 2 ^ sh)))
  | 0x2E => some (vSat false n (vRound rm (uInt (2 * n) a) sh))
  | 0x2F => some (vSat true n (vRound rm (sgn (2 * n) a) sh))
  | _ => none

/-- The single-width operations of OPMVV and OPMVX with a vs2, b the other operand and d the destination's old value. -/
def opmElem (f6 n rm a b d : Nat) : Option Nat :=
  let sa := sgn n a
  let sb := sgn n b
  let ua := uInt n a
  let ub := uInt n b
  match f6 with
  | 0x08 => some (unsgn n (vRound rm (ua + ub) 1))
  | 0x09 => some (unsgn n (vRound rm (sa + sb) 1))
  | 0x0A => some (unsgn n (vRound rm (ua - ub) 1))
  | 0x0B => some (unsgn n (vRound rm (sa - sb) 1))
  | 0x20 => some (divU n a b)
  | 0x21 => some (divS n a b)
  | 0x22 => some (remU n a b)
  | 0x23 => some (remS n a b)
  | 0x24 => some (unsgn n (ua * ub / 2 ^ n))
  | 0x25 => some (unsgn n (ua * ub))
  | 0x26 => some (unsgn n (sa * ub / 2 ^ n))
  | 0x27 => some (unsgn n (sa * sb / 2 ^ n))
  | 0x29 => some (unsgn n (uInt n d * ub + ua))
  | 0x2B => some (unsgn n (ua - uInt n d * ub))
  | 0x2D => some (unsgn n (ua * ub + uInt n d))
  | 0x2F => some (unsgn n (uInt n d - ua * ub))
  | _ => none

/-- The widening operations of OPMVV and OPMVX: a has n bits, or 2n for the .w forms; d is the destination's old value. -/
def opmWide (f6 n a b d : Nat) : Option Nat :=
  let sa := sgn n a
  let sb := sgn n b
  let ua := uInt n a
  let ub := uInt n b
  let r (v : Int) : Option Nat := some (unsgn (2 * n) v)
  match f6 with
  | 0x30 => r (ua + ub)
  | 0x31 => r (sa + sb)
  | 0x32 => r (ua - ub)
  | 0x33 => r (sa - sb)
  | 0x34 => r (uInt (2 * n) a + ub)
  | 0x35 => r (sgn (2 * n) a + sb)
  | 0x36 => r (uInt (2 * n) a - ub)
  | 0x37 => r (sgn (2 * n) a - sb)
  | 0x38 => r (ua * ub)
  | 0x3A => r (sa * ub)
  | 0x3B => r (sa * sb)
  | 0x3C => r (ua * ub + uInt (2 * n) d)
  | 0x3D => r (sa * sb + uInt (2 * n) d)
  | 0x3E => r (sa * ub + uInt (2 * n) d)
  | 0x3F => r (ua * sb + uInt (2 * n) d)
  | _ => none

/-- One step of an integer reduction on n bits. -/
def redElem (f6 n a b : Nat) : Option Nat :=
  match f6 with
  | 0x00 => some ((a + b) % 2 ^ n)
  | 0x01 => some (a.land b)
  | 0x02 => some (a.lor b)
  | 0x03 => some (a.xor b)
  | 0x04 => some (min a b)
  | 0x05 => some (unsgn n (min (sgn n a) (sgn n b)))
  | 0x06 => some (max a b)
  | 0x07 => some (unsgn n (max (sgn n a) (sgn n b)))
  | _ => none

/-- The mask operations with a vs2 and b vs1. -/
def maskElem (f6 : Nat) (a b : Bool) : Option Bool :=
  match f6 with
  | 0x18 => some (a && !b)
  | 0x19 => some (a && b)
  | 0x1A => some (a || b)
  | 0x1B => some (a != b)
  | 0x1C => some (a || !b)
  | 0x1D => some (!(a && b))
  | 0x1E => some (!(a || b))
  | 0x1F => some (a == b)
  | _ => none

/-- The floating-point operations of two operands, a vs2 and b the other. -/
def opfElem (f : Fmt) (m : Rnd) (f6 a b : Nat) : Option (Nat × Nat) :=
  match f6 with
  | 0x00 => some (f.fpAdd m a b)
  | 0x02 => some (f.fpSub m a b)
  | 0x04 => some (f.fpMinMax false a b)
  | 0x06 => some (f.fpMinMax true a b)
  | 0x08 => some (f.fpSgnj 0 a b, 0)
  | 0x09 => some (f.fpSgnj 1 a b, 0)
  | 0x0A => some (f.fpSgnj 2 a b, 0)
  | 0x20 => some (f.fpDiv m a b)
  | 0x21 => some (f.fpDiv m b a)
  | 0x24 => some (f.fpMul m a b)
  | 0x27 => some (f.fpSub m b a)
  | _ => none

/-- The fused operations: a vs2, b the other operand, d the destination's old value. -/
def opfFma (f : Fmt) (m : Rnd) (f6 a b d : Nat) : Option (Nat × Nat) :=
  match f6 with
  | 0x28 => some (f.fpFma m b d a)
  | 0x29 => some (f.fpFma m (f.flip b) d (f.flip a))
  | 0x2A => some (f.fpFma m b d (f.flip a))
  | 0x2B => some (f.fpFma m (f.flip b) d a)
  | 0x2C => some (f.fpFma m b a d)
  | 0x2D => some (f.fpFma m (f.flip b) a (f.flip d))
  | 0x2E => some (f.fpFma m b a (f.flip d))
  | 0x2F => some (f.fpFma m (f.flip b) a d)
  | _ => none

/-- The floating-point comparisons into a mask. -/
def opfCmp (f : Fmt) (f6 a b : Nat) : Option (Bool × Nat) :=
  match f6 with
  | 0x18 => some (f.fpEq a b)
  | 0x19 => some (f.fpLe a b)
  | 0x1B => some (f.fpLt a b)
  | 0x1C => some (!(f.fpEq a b).1, (f.fpEq a b).2)
  | 0x1D => some (f.fpLt b a)
  | 0x1F => some (f.fpLe b a)
  | _ => none

/-- The widening operations from FP32 to FP64. -/
def opfWide (m : Rnd) (f6 a b d : Nat) : Option (Nat × Nat) :=
  let wd (c : Nat) : Nat × Nat := Fmt.fp64.fpOfFmt .fp32 .rne c
  let x := wd a
  let y := wd b
  let two (r : Nat × Nat) : Option (Nat × Nat) := some (r.1, r.2.lor (x.2.lor y.2))
  let wide (r : Nat × Nat) : Option (Nat × Nat) := some (r.1, r.2.lor y.2)
  let f := Fmt.fp64
  match f6 with
  | 0x30 => two (f.fpAdd m x.1 y.1)
  | 0x32 => two (f.fpSub m x.1 y.1)
  | 0x34 => wide (f.fpAdd m a y.1)
  | 0x36 => wide (f.fpSub m a y.1)
  | 0x38 => two (f.fpMul m x.1 y.1)
  | 0x3C => two (f.fpFma m y.1 x.1 d)
  | 0x3D => two (f.fpFma m (f.flip y.1) x.1 (f.flip d))
  | 0x3E => two (f.fpFma m y.1 x.1 (f.flip d))
  | 0x3F => two (f.fpFma m (f.flip y.1) x.1 d)
  | _ => none

/-- The conversions of one width (VFUNARY0). -/
def cvtElem (m : Rnd) (sew k a : Nat) : Option (Nat × Nat) :=
  let f := fmtF (sew == 64)
  match k with
  | 0 => some (f.fpToInt m false sew a)
  | 1 => some (f.fpToInt m true sew a)
  | 2 => some (f.fpOfInt m false sew a)
  | 3 => some (f.fpOfInt m true sew a)
  | 6 => some (f.fpToInt .rtz false sew a)
  | 7 => some (f.fpToInt .rtz true sew a)
  | _ => none

/-- The conversions from 32 to 64 bits. -/
def cvtWide (m : Rnd) (k a : Nat) : Option (Nat × Nat) :=
  match k with
  | 0x08 => some (Fmt.fp32.fpToInt m false 64 a)
  | 0x09 => some (Fmt.fp32.fpToInt m true 64 a)
  | 0x0A => some (Fmt.fp64.fpOfInt m false 32 a)
  | 0x0B => some (Fmt.fp64.fpOfInt m true 32 a)
  | 0x0C => some (Fmt.fp64.fpOfFmt .fp32 m a)
  | 0x0E => some (Fmt.fp32.fpToInt .rtz false 64 a)
  | 0x0F => some (Fmt.fp32.fpToInt .rtz true 64 a)
  | _ => none

/-- The conversions from 64 to 32 bits. -/
def cvtNarrow (m : Rnd) (k a : Nat) : Option (Nat × Nat) :=
  match k with
  | 0x10 => some (Fmt.fp64.fpToInt m false 32 a)
  | 0x11 => some (Fmt.fp64.fpToInt m true 32 a)
  | 0x12 => some (Fmt.fp32.fpOfInt m false 64 a)
  | 0x13 => some (Fmt.fp32.fpOfInt m true 64 a)
  | 0x14 => some (Fmt.fp32.fpOfFmt .fp64 m a)
  | 0x15 => some (Fmt.fp32.fpRod .fp64 a)
  | 0x16 => some (Fmt.fp64.fpToInt .rtz false 32 a)
  | 0x17 => some (Fmt.fp64.fpToInt .rtz true 32 a)
  | _ => none

end Sys2Proof.Machine
end

