-- ==== Sys2Proof/Machine/CoreVec.lean ====
section
/-!
DEFINITION. The vector instructions of a general core (R249, R253): configuration, arithmetic, and memory, as RISC-V's V
extension defines them. An encoding that the extension reserves is no instruction of it, and raises an illegal instruction
(R249).
-/

namespace Sys2Proof.Machine

def vF6 (i : Nat) : Nat := nbits i 31 26
def vVm (i : Nat) : Bool := nbits i 25 25 == 1

def Ins.core (x : Ins) : Core := x.s.core x.c
def Ins.cfg (x : Ins) : VCfg := x.core.vcfg
/-- What the free values of a vector instruction depend on: its word and its core's vector state, with the rounding mode and the
scalar operand (R248). -/
def Ins.vKey (x : Ins) : List Nat :=
  [x.i, x.core.vl, x.core.vtype.toNat, x.core.vstart, x.core.vcsr, x.core.fcsr, x.r1] ++ x.core.v
def Ins.env (x : Ins) : VEnv := { cfg := x.cfg, vm := vVm x.i, v := x.core.v, key := x.vKey }
def Ins.vxrm (x : Ins) : Nat := x.core.vcsr / 2 % 4

/-- A vector instruction retires: vstart becomes zero, flags accrue. -/
def Ins.vDone (x : Ins) (v : List Nat) (fl : Nat) (sat : Bool) : CoreOut :=
  let g := x.core
  let vcsr := if sat then g.vcsr.lor 1 else g.vcsr
  let s := x.s.setCore x.c { g with v := v, vstart := 0, vcsr := vcsr }
  .done x.next ((s.accrue x.c fl).addB (gcReg Reg.GC_CNT_VEC x.c) 63 0 1)

/-- The same, with a result in an integer or floating-point register. -/
def Ins.vDoneX (x : Ins) (r : Nat) : CoreOut := ({ x with s := x.s.setGx x.c (iRd x.i) r } : Ins).vDone x.core.v 0 false
def Ins.vDoneF (x : Ins) (r : Nat) : CoreOut := ({ x with s := x.s.setGf x.c (iRd x.i) r } : Ins).vDone x.core.v 0 false

/-- Go on when a test holds, else the encoding is reserved. -/
def Ins.legal (x : Ins) (b : Bool) (r : CoreOut) : CoreOut := if b then r else x.illegal

/-! ### Configuration -/

/-- Set vtype and vl: `avl` is none when vl is kept. An AVL between VLMAX and twice VLMAX gives a free vl within RISC-V's
bounds (log entry 38). -/
def Ins.vset (x : Ins) (vt : Nat) (avl : Option Nat) : CoreOut :=
  let g := x.core
  let ok := vtypeOk vt
  let mx := vlmaxOf (8 * 2 ^ nbits vt 5 3) (lmul8Of (nbits vt 2 0))
  let keeps := avl.isSome || (!g.vcfg.vill && g.vcfg.vlmax == mx)
  let vl := match avl with
    | none => g.vl
    | some a => if a ≤ mx then a else if 2 * mx ≤ a then mx else (a + 1) / 2 + (Config.vectorFree [a, mx] 0).toNat % (mx - (a + 1) / 2 + 1)
  let g := if ok && keeps then { g with vtype := w vt, vl := vl } else { g with vtype := w (2 ^ 63), vl := 0 }
  ({ x with s := x.s.setCore x.c g } : Ins).vDoneX g.vl

def Ins.vconfig (x : Ins) : CoreOut :=
  let avl (r : Nat) : Option Nat :=
    if iRs1 x.i ≠ 0 then some r else if iRd x.i ≠ 0 then some (2 ^ 64 - 1) else none
  if nbits x.i 31 31 = 0 then x.vset (nbits x.i 30 20) (avl x.r1)
  else if nbits x.i 31 30 = 3 then x.vset (nbits x.i 29 20) (some (iRs1 x.i))
  else if iF7 x.i = 0x40 then x.vset x.r2 (avl x.r1)
  else x.illegal

/-! ### Integer instructions -/

/-- The other operand of an integer instruction: vs1, x[rs1], or the immediate, which shifts and gathers take unsigned. -/
def Ins.vOther (x : Ins) (form n : Nat) (uns : Bool) (i : Nat) : Nat :=
  match form with
  | 0 => vElem x.core.v n (iRs1 x.i) i
  | 2 => vElem x.core.v n (iRs1 x.i) i
  | 3 => if uns then iRs1 x.i else sext 5 (iRs1 x.i) % 2 ^ n
  | _ => x.r1 % 2 ^ n

def vvForm (form : Nat) : Bool := decide (form ≤ 2)

/-- vs1, where the form has one, is a legal group. -/
def Ins.vs1Ok (x : Ins) (form e8 : Nat) : Bool := !vvForm form || vGroup e8 (iRs1 x.i)

/-- The sources of an instruction besides vs1 are read with one width each; the mask register of a masked instruction has
width 1. -/
def Ins.srcs (x : Ins) (vs : List (Nat × Nat × Nat)) : Bool := vSources ((if vVm x.i then [] else [(1, 1, 0)]) ++ vs)

/-- vs1 as a source of width `eew`, where the form has one. -/
def Ins.vs1Src (x : Ins) (vv : Bool) (eew e8 : Nat) : List (Nat × Nat × Nat) := if vv then [(eew, groupRegs e8, iRs1 x.i)] else []

/-- vs2 as a source. -/
def Ins.vs2Src (x : Ins) (eew e8 : Nat) : Nat × Nat × Nat := (eew, groupRegs e8, iRs2 x.i)

/-- Forms that a funct6 of OPIVV, OPIVX and OPIVI has: bits 0 VV, 1 VX, 2 VI. -/
def opiForms (f6 : Nat) : Nat :=
  if [0x02, 0x04, 0x05, 0x06, 0x07, 0x22, 0x23, 0x27, 0x12, 0x13, 0x1A, 0x1B].contains f6 then 3
  else if [0x03, 0x1E, 0x1F, 0x0F].contains f6 then 6
  else if f6 = 0x30 ∨ f6 = 0x31 then 1 else 7

def formBit (form : Nat) : Nat := if vvForm form then 1 else if form = 4 then 2 else 4

/-- An unsigned immediate. -/
def immUns (f6 : Nat) : Bool := decide (0x24 ≤ f6) || [0x0C, 0x0E, 0x0F].contains f6

/-- A comparison or carry into a mask. -/
def Ins.vCmp (x : Ins) (form : Nat) (vm : Bool) (f : Nat → Bool) : CoreOut :=
  let n := x.cfg.sew
  let l := x.cfg.lmul8
  let d := iRd x.i
  x.legal (vGroup l (iRs2 x.i) && x.vs1Ok form l && vMay 1 8 d n l (iRs2 x.i) && x.srcs (x.vs2Src n l :: x.vs1Src (vvForm form) n l)
      && (!vvForm form || vMay 1 8 d n l (iRs1 x.i)))
    (x.vDone (({ x.env with vm := vm } : VEnv).writeMask d f) 0 false)

/-- A single-width result with a saturation flag. -/
def Ins.vOne (x : Ins) (form : Nat) (f : Nat → Nat × Bool) : CoreOut :=
  let n := x.cfg.sew
  let l := x.cfg.lmul8
  let d := iRd x.i
  let e := x.env
  x.legal (vGroup l d && vGroup l (iRs2 x.i) && x.vs1Ok form l && vMaskOk e.vm d
      && x.srcs (x.vs2Src n l :: x.vs1Src (vvForm form) n l))
    (x.vDone (e.write n d (VCfg.span n l) fun i => (f i).1) 0 (e.actives.any fun i => (f i).2))

/-- vrgather: an index at or past VLMAX gives zero. -/
def Ins.vGather (x : Ins) (form ixEew ixE8 : Nat) : CoreOut :=
  let n := x.cfg.sew
  let l := x.cfg.lmul8
  let d := iRd x.i
  let v := x.core.v
  let ixOf (i : Nat) : Nat := if vvForm form then vElem v ixEew (iRs1 x.i) i else if form = 3 then iRs1 x.i else x.r1
  x.legal (vGroup l d && vGroup l (iRs2 x.i) && (!vvForm form || (vGroup ixE8 (iRs1 x.i)
        && !vOverlap d (groupRegs l) (iRs1 x.i) (groupRegs ixE8)))
      && !vOverlap d (groupRegs l) (iRs2 x.i) (groupRegs l) && vMaskOk (vVm x.i) d
      && x.srcs (x.vs2Src n l :: x.vs1Src (vvForm form) ixEew ixE8))
    (x.vDone (x.env.write n d (VCfg.span n l) fun i =>
      if ixOf i < x.cfg.vlmax then vElem v n (iRs2 x.i) (ixOf i) else 0) 0 false)

/-- The slides by an amount. -/
def Ins.vSlide (x : Ins) (up : Bool) (k : Nat) : CoreOut :=
  let n := x.cfg.sew
  let l := x.cfg.lmul8
  let d := iRd x.i
  let v := x.core.v
  let e : VEnv := { x.env with keep := if up then k else 0 }
  x.legal (vGroup l d && vGroup l (iRs2 x.i) && vMaskOk e.vm d && x.srcs [x.vs2Src n l]
      && (!up || !vOverlap d (groupRegs l) (iRs2 x.i) (groupRegs l)))
    (x.vDone (e.write n d (VCfg.span n l) fun i =>
      if up then vElem v n (iRs2 x.i) (i - k)
      else if i + k < x.cfg.vlmax then vElem v n (iRs2 x.i) (i + k) else 0) 0 false)

/-- The slides by one that bring in a scalar. -/
def Ins.vSlide1 (x : Ins) (up : Bool) (r : Nat) : CoreOut :=
  let n := x.cfg.sew
  let l := x.cfg.lmul8
  let d := iRd x.i
  let v := x.core.v
  let e := x.env
  x.legal (vGroup l d && vGroup l (iRs2 x.i) && vMaskOk e.vm d && x.srcs [x.vs2Src n l]
      && (!up || !vOverlap d (groupRegs l) (iRs2 x.i) (groupRegs l)))
    (x.vDone (e.write n d (VCfg.span n l) fun i =>
      if up then (if i = 0 then r else vElem v n (iRs2 x.i) (i - 1))
      else if i + 1 = x.cfg.vl then r else vElem v n (iRs2 x.i) (i + 1)) 0 false)

/-- vmerge, vfmerge, and the splats. -/
def Ins.vMerge (x : Ins) (form : Nat) (b : Nat → Nat) : CoreOut :=
  let n := x.cfg.sew
  let l := x.cfg.lmul8
  let d := iRd x.i
  let v := x.core.v
  let e : VEnv := { x.env with vm := true }
  x.legal (vGroup l d && x.vs1Ok form l && (if vVm x.i then iRs2 x.i == 0 else vGroup l (iRs2 x.i) && d != 0)
      && x.srcs ((if vVm x.i then [] else [x.vs2Src n l]) ++ x.vs1Src (vvForm form) n l))
    (x.vDone (e.write n d (VCfg.span n l) fun i =>
      if vVm x.i || vBit v 0 i then b i else vElem v n (iRs2 x.i) i) 0 false)

/-- vmv1r to vmv8r. -/
def Ins.vMoveRegs (x : Ins) : CoreOut :=
  let nr := iRs1 x.i + 1
  let n := x.cfg.sew
  let v := x.core.v
  let e : VEnv := { x.env with vm := true, cfg := { x.cfg with vl := nr * (512 / n) } }
  x.legal ([1, 2, 4, 8].contains nr && vVm x.i && iRd x.i % nr == 0 && iRs2 x.i % nr == 0)
    (x.vDone (e.write n (iRd x.i) (nr * (512 / n)) fun i => vElem v n (iRs2 x.i) i) 0 false)

/-- A reduction: element 0 of vs1 with the active elements of vs2. -/
def Ins.vReduce (x : Ins) (n2 : Nat) (f : Nat → Nat → Nat) (a : Nat → Nat) : CoreOut :=
  let l := x.cfg.lmul8
  let e := x.env
  let v := x.core.v
  x.legal (x.cfg.vstart == 0 && vGroup l (iRs2 x.i) && decide (n2 ≤ 64) && x.srcs (x.vs2Src x.cfg.sew l :: x.vs1Src true n2 8))
    (if x.cfg.vl = 0 then x.vDone v 0 false
     else x.vDone (e.writeFirst n2 (iRd x.i) (e.actives.foldl (fun acc i => f acc (a i)) (vElem v n2 (iRs1 x.i) 0))) 0 false)

/-- OPIVV, OPIVX and OPIVI. -/
def Ins.opi (x : Ins) (form : Nat) : CoreOut :=
  let f6 := vF6 x.i
  let n := x.cfg.sew
  let l := x.cfg.lmul8
  let d := iRd x.i
  let v := x.core.v
  let a (i : Nat) : Nat := vElem v n (iRs2 x.i) i
  let b (i : Nat) : Nat := x.vOther form n (immUns f6) i
  let carry (i : Nat) : Nat := if !vVm x.i && vBit v 0 i then 1 else 0
  if opiForms f6 / formBit form % 2 = 0 then (if f6 = 0x27 ∧ form = 3 then x.vMoveRegs else x.illegal)
  else
    match f6 with
    | 0x0C => x.vGather form n l
    | 0x0E => if form = 0 then x.vGather form 16 (16 * l / n) else x.vSlide true (if form = 3 then iRs1 x.i else x.r1)
    | 0x0F => x.vSlide false (if form = 3 then iRs1 x.i else x.r1)
    | 0x10 | 0x12 =>
      let e : VEnv := { x.env with vm := true }
      x.legal (!vVm x.i && d != 0 && vGroup l d && vGroup l (iRs2 x.i) && x.vs1Ok form l
          && x.srcs (x.vs2Src n l :: x.vs1Src (vvForm form) n l))
        (x.vDone (e.write n d (VCfg.span n l) fun i =>
          unsgn n (if f6 = 0x10 then uInt n (a i) + uInt n (b i) + carry i else uInt n (a i) - uInt n (b i) - carry i)) 0 false)
    | 0x11 => x.vCmp form true fun i => decide (2 ^ n ≤ a i + b i % 2 ^ n + carry i)
    | 0x13 => x.vCmp form true fun i => decide (a i < b i + carry i)
    | 0x17 => x.vMerge form b
    | 0x30 => x.vReduce (2 * n) (fun acc y => (acc + y) % 2 ^ (2 * n)) a
    | 0x31 => x.vReduce (2 * n) (fun acc y => unsgn (2 * n) ((acc : Int) + sgn n y)) a
    | _ =>
      match opiCmp f6 n 0 0, opiNarrow f6 n 0 0 0, opiElem f6 n 0 0 0 with
      | some _, _, _ => x.vCmp form (vVm x.i) fun i => (opiCmp f6 n (a i) (b i)).getD false
      | none, some _, _ =>
        let e := x.env
        let f (i : Nat) : Nat × Bool := (opiNarrow f6 n x.vxrm (vElem v (2 * n) (iRs2 x.i) i) (b i)).getD (0, false)
        x.legal (decide (2 * n ≤ 64) && vGroup (2 * l) (iRs2 x.i) && vGroup l d && x.vs1Ok form l
            && vMay n l d (2 * n) (2 * l) (iRs2 x.i) && vMaskOk e.vm d
            && x.srcs (x.vs2Src (2 * n) (2 * l) :: x.vs1Src (vvForm form) n l))
          (x.vDone (e.write n d (VCfg.span n l) fun i => (f i).1) 0 (e.actives.any fun i => (f i).2))
      | none, none, some _ => x.vOne form fun i => (opiElem f6 n x.vxrm (a i) (b i)).getD (0, false)
      | none, none, none => x.illegal

/-! ### Multiplication, division, masks -/

/-- A widening result; the multiply-adds (funct6 0x3C and above) also read their destination. -/
def Ins.vWide (x : Ins) (form : Nat) (wideSrc : Bool) (f : Nat → Nat × Nat) : CoreOut :=
  let n := x.cfg.sew
  let l := x.cfg.lmul8
  let d := iRd x.i
  let e := x.env
  x.legal (decide (2 * n ≤ 64) && vGroup (2 * l) d && vMaskOk e.vm d && x.vs1Ok form l
      && (if wideSrc then vGroup (2 * l) (iRs2 x.i) else vGroup l (iRs2 x.i) && vMay (2 * n) (2 * l) d n l (iRs2 x.i))
      && (!vvForm form || vMay (2 * n) (2 * l) d n l (iRs1 x.i))
      && x.srcs ((if wideSrc then x.vs2Src (2 * n) (2 * l) else x.vs2Src n l) :: x.vs1Src (vvForm form) n l
        ++ if 0x3C ≤ vF6 x.i then [(2 * n, groupRegs (2 * l), d)] else []))
    (x.vDone (e.write (2 * n) d (VCfg.span (2 * n) (2 * l)) fun i => (f i).1)
      (e.actives.foldl (fun fl i => fl.lor (f i).2) 0) false)

/-- vzext and vsext from a k-th of the width. -/
def Ins.vExtend (x : Ins) (k : Nat) (signed : Bool) : CoreOut :=
  let n := x.cfg.sew
  let l := x.cfg.lmul8
  let d := iRd x.i
  let v := x.core.v
  let e := x.env
  let m := n / k
  x.legal (decide (8 ≤ m) && l % k == 0 && vGroup l d && vGroup (l / k) (iRs2 x.i) && vMay n l d m (l / k) (iRs2 x.i)
      && vMaskOk e.vm d && x.srcs [x.vs2Src m (l / k)])
    (x.vDone (e.write n d (VCfg.span n l) fun i =>
      let y := vElem v m (iRs2 x.i) i
      if signed then unsgn n (sgn m y) else y) 0 false)

/-- vmsbf, vmsof, vmsif, viota, vid. -/
def Ins.vMaskUnary (x : Ins) : CoreOut :=
  let n := x.cfg.sew
  let l := x.cfg.lmul8
  let d := iRd x.i
  let r2 := iRs2 x.i
  let v := x.core.v
  let e := x.env
  let first := (e.actives.find? fun i => vBit v r2 i).getD 512
  let setFirst (p : Nat → Bool) : CoreOut :=
    x.legal (x.cfg.vstart == 0 && d != r2 && vMaskOk e.vm d) (x.vDone (e.writeMask d p) 0 false)
  match iRs1 x.i with
  | 1 => setFirst fun i => decide (i < first)
  | 2 => setFirst fun i => decide (i = first)
  | 3 => setFirst fun i => decide (i ≤ first)
  | 0x10 =>
    x.legal (x.cfg.vstart == 0 && vGroup l d && !vOverlap d (groupRegs l) r2 1 && vMaskOk e.vm d)
      (x.vDone (e.write n d (VCfg.span n l) fun i => (e.actives.filter fun j => decide (j < i) && vBit v r2 j).length % 2 ^ n)
        0 false)
  | 0x11 =>
    x.legal (r2 == 0 && vGroup l d && vMaskOk e.vm d) (x.vDone (e.write n d (VCfg.span n l) fun i => i % 2 ^ n) 0 false)
  | _ => x.illegal

/-- vcompress: the selected elements in order, then tail. -/
def Ins.vCompress (x : Ins) : CoreOut :=
  let n := x.cfg.sew
  let l := x.cfg.lmul8
  let d := iRd x.i
  let v := x.core.v
  let sel := (List.range x.cfg.vl).filter fun i => vBit v (iRs1 x.i) i
  x.legal (vVm x.i && x.cfg.vstart == 0 && vGroup l d && vGroup l (iRs2 x.i)
      && !vOverlap d (groupRegs l) (iRs2 x.i) (groupRegs l) && !vOverlap d (groupRegs l) (iRs1 x.i) 1
      && x.srcs [x.vs2Src n l, (1, 1, iRs1 x.i)])
    (if x.cfg.vl = 0 then x.vDone v 0 false
     else x.vDone ((List.range (VCfg.span n l)).foldl (fun (v' : List Nat) (i : Nat) =>
        match sel[i]? with
        | some j => vSetElem v' n d i (vElem v n (iRs2 x.i) j)
        | none => vSetElem v' n d i (agnostic x.cfg.vta x.vKey i (vElem v n d i) n)) v) 0 false)

/-- Results in an integer register: vmv.x.s, vcpop, vfirst. -/
def Ins.vToX (x : Ins) : CoreOut :=
  let n := x.cfg.sew
  let v := x.core.v
  let hits := x.env.actives.filter fun i => vBit v (iRs2 x.i) i
  match iRs1 x.i with
  | 0 => x.legal (vVm x.i) (x.vDoneX (sext n (vElem v n (iRs2 x.i) 0)))
  | 0x10 => x.legal (x.cfg.vstart == 0) (x.vDoneX hits.length)
  | 0x11 => x.legal (x.cfg.vstart == 0) (x.vDoneX (match hits with | [] => 2 ^ 64 - 1 | i :: _ => i))
  | _ => x.illegal

/-- vmv.s.x and vfmv.s.f: element 0 only. -/
def Ins.vSetFirst (x : Ins) (r : Nat) : CoreOut :=
  x.legal (vVm x.i && iRs2 x.i == 0)
    (x.vDone (if x.cfg.vl ≤ x.cfg.vstart then x.core.v else x.env.writeFirst x.cfg.sew (iRd x.i) r) 0 false)

/-- OPMVV and OPMVX. -/
def Ins.opm (x : Ins) (form : Nat) : CoreOut :=
  let f6 := vF6 x.i
  let n := x.cfg.sew
  let d := iRd x.i
  let v := x.core.v
  let vv := form == 2
  let a (i : Nat) : Nat := vElem v n (iRs2 x.i) i
  let b (i : Nat) : Nat := x.vOther form n false i
  match f6 with
  | 0x0E => if vv then x.illegal else x.vSlide1 true (x.r1 % 2 ^ n)
  | 0x0F => if vv then x.illegal else x.vSlide1 false (x.r1 % 2 ^ n)
  | 0x10 => if vv then x.vToX else x.vSetFirst (x.r1 % 2 ^ n)
  | 0x12 =>
    if !vv then x.illegal
    else match iRs1 x.i with
    | 2 => x.vExtend 8 false
    | 3 => x.vExtend 8 true
    | 4 => x.vExtend 4 false
    | 5 => x.vExtend 4 true
    | 6 => x.vExtend 2 false
    | 7 => x.vExtend 2 true
    | _ => x.illegal
  | 0x14 => if vv then x.vMaskUnary else x.illegal
  | 0x17 => if vv then x.vCompress else x.illegal
  | _ =>
    match maskElem f6 false false, redElem f6 n 0 0, opmElem f6 n 0 0 0 0, opmWide f6 n 0 0 0 with
    | some _, _, _, _ =>
      x.legal (vv && vVm x.i)
        (x.vDone (x.env.writeMask d fun i => (maskElem f6 (vBit v (iRs2 x.i) i) (vBit v (iRs1 x.i) i)).getD false) 0 false)
    | none, some _, _, _ =>
      if vv then x.vReduce n (fun acc y => (redElem f6 n acc y).getD 0) a else x.illegal
    | none, none, some _, _ => x.vOne form fun i => ((opmElem f6 n x.vxrm (a i) (b i) (vElem v n d i)).getD 0, false)
    | none, none, none, some _ =>
      if f6 = 0x3E ∧ vv then x.illegal
      else
        let wide := decide (0x34 ≤ f6) && decide (f6 ≤ 0x37)
        x.vWide form wide fun i =>
          ((opmWide f6 n (if wide then vElem v (2 * n) (iRs2 x.i) i else a i) (b i) (vElem v (2 * n) d i)).getD 0, 0)
    | none, none, none, none => x.illegal

/-! ### Floating-point instructions -/

/-- A single-width floating-point result. -/
def Ins.vFOne (x : Ins) (vv : Bool) (f : Nat → Nat × Nat) : CoreOut :=
  let n := x.cfg.sew
  let l := x.cfg.lmul8
  let d := iRd x.i
  let e := x.env
  x.legal (vGroup l d && vGroup l (iRs2 x.i) && (!vv || vGroup l (iRs1 x.i)) && vMaskOk e.vm d
      && x.srcs (x.vs2Src n l :: x.vs1Src vv n l))
    (x.vDone (e.write n d (VCfg.span n l) fun i => (f i).1) (e.actives.foldl (fun fl i => fl.lor (f i).2) 0) false)

/-- A floating-point reduction in element order: the result and the flags. -/
def fRed (f : Nat → Nat → Nat × Nat) (init : Nat) (xs : List Nat) : Nat × Nat :=
  xs.foldl (fun (acc : Nat × Nat) y => let r := f acc.1 y; (r.1, acc.2.lor r.2)) (init, 0)

/-- The floating-point reductions on n2 bits. RISC-V leaves the order of the additions of an unordered sum of more than two numbers to
the implementation and the manual does not state it: its value or flags are free where they depend on the order (log entry 38). -/
def Ins.vFReduce (x : Ins) (n2 : Nat) (unordered : Bool) (f : Nat → Nat → Nat × Nat) (a : Nat → Nat × Nat) : CoreOut :=
  let l := x.cfg.lmul8
  let e := x.env
  let v := x.core.v
  let xs := e.actives.map a
  let r := fRed f (vElem v n2 (iRs1 x.i) 0) (xs.map (·.1))
  let fl := xs.foldl (fun fl y => fl.lor y.2) r.2
  let several := unordered && decide (2 ≤ xs.length)
  let (openV, openF) := (fmtF (n2 == 64)).sumOpen (vElem v n2 (iRs1 x.i) 0 :: xs.map (·.1))
  let fv := Config.vectorFree x.vKey 511
  let ff := Config.vectorFree x.vKey 510
  x.legal (x.cfg.vstart == 0 && vGroup l (iRs2 x.i) && decide (n2 ≤ 64) && x.srcs (x.vs2Src x.cfg.sew l :: x.vs1Src true n2 8))
    (if x.cfg.vl = 0 then x.vDone v 0 false
     else x.vDone (e.writeFirst n2 (iRd x.i) (if several && openV then fv.toNat % 2 ^ n2 else r.1))
        (if several && openF then (ff.toNat % 32).land 23 else fl) false)

/-- Conversions: one width, widening, narrowing. -/
def Ins.vConvert (x : Ins) (m : Rnd) : CoreOut :=
  let n := x.cfg.sew
  let l := x.cfg.lmul8
  let k := iRs1 x.i
  let v := x.core.v
  let d := iRd x.i
  let e := x.env
  match cvtElem m n k 0, cvtWide m k 0, cvtNarrow m k 0 with
  | some _, _, _ => x.vFOne false fun i => (cvtElem m n k (vElem v n (iRs2 x.i) i)).getD (0, 0)
  | none, some _, _ => x.vWide 5 false fun i => (cvtWide m k (vElem v 32 (iRs2 x.i) i)).getD (0, 0)
  | none, none, some _ =>
    let f (i : Nat) : Nat × Nat := (cvtNarrow m k (vElem v 64 (iRs2 x.i) i)).getD (0, 0)
    x.legal (n == 32 && vGroup (2 * l) (iRs2 x.i) && vGroup l d && vMay 32 l d 64 (2 * l) (iRs2 x.i) && vMaskOk e.vm d
        && x.srcs [x.vs2Src 64 (2 * l)])
      (x.vDone (e.write 32 d (VCfg.span 32 l) fun i => (f i).1) (e.actives.foldl (fun fl i => fl.lor (f i).2) 0) false)
  | none, none, none => x.illegal

/-- OPFVV (form 1) and OPFVF (form 5). -/
def Ins.opf (x : Ins) (form : Nat) : CoreOut :=
  let f6 := vF6 x.i
  let n := x.cfg.sew
  let d := iRd x.i
  let v := x.core.v
  let vv := form == 1
  let fm := fmtF (n == 64)
  let fs := x.s.gfF x.c (iRs1 x.i) (n == 64)
  let a (i : Nat) : Nat := vElem v n (iRs2 x.i) i
  let b (i : Nat) : Nat := if vv then vElem v n (iRs1 x.i) i else fs
  match x.s.rmMode x.c 7 with
  | none => x.illegal
  | some m =>
    if n ≠ 32 ∧ n ≠ 64 then x.illegal else
    match f6 with
    | 0x01 => if vv then x.vFReduce n true (fm.fpAdd m) (fun i => (a i, 0)) else x.illegal
    | 0x03 => if vv then x.vFReduce n false (fm.fpAdd m) (fun i => (a i, 0)) else x.illegal
    | 0x05 => if vv then x.vFReduce n false (fm.fpMinMax false) (fun i => (a i, 0)) else x.illegal
    | 0x07 => if vv then x.vFReduce n false (fm.fpMinMax true) (fun i => (a i, 0)) else x.illegal
    | 0x31 => if vv && n == 32 then x.vFReduce 64 true (Fmt.fp64.fpAdd m) (fun i => Fmt.fp64.fpOfFmt .fp32 .rne (a i)) else x.illegal
    | 0x33 => if vv && n == 32 then x.vFReduce 64 false (Fmt.fp64.fpAdd m) (fun i => Fmt.fp64.fpOfFmt .fp32 .rne (a i)) else x.illegal
    | 0x0E => if vv then x.illegal else x.vSlide1 true fs
    | 0x0F => if vv then x.illegal else x.vSlide1 false fs
    | 0x10 =>
      if vv then
        x.legal (vVm x.i && iRs1 x.i == 0) (x.vDoneF (if n = 64 then vElem v 64 (iRs2 x.i) 0 else box32 (vElem v 32 (iRs2 x.i) 0)))
      else x.vSetFirst fs
    | 0x12 => if vv then x.vConvert m else x.illegal
    | 0x13 =>
      if !vv then x.illegal
      else match iRs1 x.i with
      | 0x00 => x.vFOne false fun i => fm.fpSqrt m (a i)
      | 0x04 => x.vFOne false fun i => fm.fpRsqrt7 (a i)
      | 0x05 => x.vFOne false fun i => fm.fpRec7 m (a i)
      | 0x10 => x.vFOne false fun i => (fm.fpClass (a i), 0)
      | _ => x.illegal
    | 0x17 => if vv then x.illegal else x.vMerge 5 fun _ => fs
    | _ =>
      match opfCmp fm f6 0 0, opfElem fm m f6 0 0, opfFma fm m f6 0 0 0, opfWide m f6 0 0 0 with
      | some _, _, _, _ =>
        if vv ∧ (f6 = 0x1D ∨ f6 = 0x1F) then x.illegal
        else
          let f (i : Nat) : Bool × Nat := (opfCmp fm f6 (a i) (b i)).getD (false, 0)
          let l := x.cfg.lmul8
          let e := x.env
          x.legal (vGroup l (iRs2 x.i) && (!vv || vGroup l (iRs1 x.i)) && vMay 1 8 d n l (iRs2 x.i)
              && (!vv || vMay 1 8 d n l (iRs1 x.i)) && x.srcs (x.vs2Src n l :: x.vs1Src vv n l))
            (x.vDone (e.writeMask d fun i => (f i).1) (e.actives.foldl (fun fl i => fl.lor (f i).2) 0) false)
      | none, some _, _, _ =>
        if vv ∧ (f6 = 0x21 ∨ f6 = 0x27) then x.illegal
        else x.vFOne vv fun i => (opfElem fm m f6 (a i) (b i)).getD (0, 0)
      | none, none, some _, _ => x.vFOne vv fun i => (opfFma fm m f6 (a i) (b i) (vElem v n d i)).getD (0, 0)
      | none, none, none, some _ =>
        if n ≠ 32 then x.illegal
        else
          let wide := f6 == 0x34 || f6 == 0x36
          x.vWide form wide fun i =>
            (opfWide m f6 (if wide then vElem v 64 (iRs2 x.i) i else a i) (b i) (vElem v 64 d i)).getD (0, 0)
      | none, none, none, none => x.illegal

/-! ### Vector memory -/

/-- Why the accesses of a vector instruction stopped: the element, its address, and the exception with its status, or the
request that must be answered first. -/
structure VStop where
  elem : Nat
  addr : Nat
  cause : Nat
  status : Nat
  req : Option CoreReq

/-- Read elements: (index, register, address, place in the register). The list collects them. -/
def vecLoads (c eew : Nat) : List (Nat × Nat × Nat) → List Nat → State → List Nat × Option VStop × State
  | [], cur, s => (cur, none, s)
  | (i, r, a) :: es, cur, s =>
    if a % (eew / 8) ≠ 0 then (cur, some ⟨i, a, 4, 0, none⟩, s)
    else match s.coreRead c a (eew / 8) true with
    | (.ok bs, s) => vecLoads c eew es (vSetElem cur eew r i (ofBytes bs)) s
    | (.fault st, s) => (cur, some ⟨i, a, 5, st, none⟩, s)
    | (.ask q, s) => (cur, some ⟨i, a, 5, 0, some q⟩, s)

/-- Write elements: (index, address, bytes). -/
def vecStores (c : Nat) : List (Nat × Nat × List Byte) → State → Option VStop × State
  | [], s => (none, s)
  | (i, a, bs) :: es, s =>
    if a % bs.length ≠ 0 then (some ⟨i, a, 6, 0, none⟩, s)
    else match s.coreWrite c a bs true with
    | (.ok _, s) => vecStores c es s
    | (.fault st, s) => (some ⟨i, a, 7, st, none⟩, s)
    | (.ask q, s) => (some ⟨i, a, 7, 0, some q⟩, s)

/-- A vector access that stopped: the instruction has no effect (R265), but what the failing access itself left in the memory
system stays. -/
def Ins.vStop (x : Ins) (p : VStop) (s : State) : CoreOut :=
  match p.req with
  | some q => .ask q
  | none =>
    .trap p.cause p.status (w p.addr) (x.s.memoryOf s)

/-- Width of the elements or indices of a vector access. -/
def vWidth (i : Nat) : Nat :=
  match iF3 i with
  | 0 => 8
  | 5 => 16
  | 6 => 32
  | _ => 64

def vMop (i : Nat) : Nat := nbits i 27 26
def vNf (i : Nat) : Nat := nbits i 31 29 + 1

/-- How a vector access runs: the width and EMUL of the data, the fields, the configuration, and the addresses of element i's
field k. -/
structure VMem where
  eew : Nat
  e8 : Nat
  nf : Nat
  cfg : VCfg
  addr : Nat → Nat → Nat

/-- Register of field k. -/
def VMem.reg (m : VMem) (d k : Nat) : Nat := d + k * groupRegs m.e8

/-- The form of a vector access; none when it is reserved. `st` marks a store. -/
def Ins.vMem (x : Ins) (st : Bool) : Option VMem :=
  let i := x.i
  let cf := x.cfg
  let wd := vWidth i
  let nf := vNf i
  let d := iRd i
  let base := x.r1
  let vm := vVm i
  let unit (eew : Nat) (j k : Nat) : Nat := (base + (j * nf + k) * (eew / 8)) % 2 ^ 64
  let data (eew e8 : Nat) (ix : List (Nat × Nat × Nat)) : Bool :=
    !cf.vill && vGroup e8 d && decide (nf * groupRegs e8 ≤ 8) && decide (d + nf * groupRegs e8 ≤ 32) && (st || vMaskOk vm d)
      && x.srcs (ix ++ if st then [(eew, nf * groupRegs e8, d)] else [])
  let e8 := if wd * cf.lmul8 % cf.sew = 0 then wd * cf.lmul8 / cf.sew else 0
  if nbits i 28 28 = 1 then none
  else match vMop i with
  | 0 =>
    match iRs2 i with
    | 0x00 => if data wd e8 [] then some ⟨wd, e8, nf, cf, unit wd⟩ else none
    | 0x10 => if data wd e8 [] && !st then some ⟨wd, e8, nf, cf, unit wd⟩ else none
    | 0x08 =>
      if [1, 2, 4, 8].contains nf && vm && d % nf == 0 && (!st || wd == 8) then
        some ⟨wd, 8 * nf, 1, { cf with vl := nf * (512 / wd) }, fun j _ => (base + j * (wd / 8)) % 2 ^ 64⟩
      else none
    | 0x0B =>
      if !cf.vill && wd == 8 && nf == 1 && vm then some ⟨8, 8, 1, { cf with vl := (cf.vl + 7) / 8, vta := true }, unit 8⟩ else none
    | _ => none
  | 2 =>
    if data wd e8 [] then some ⟨wd, e8, nf, cf, fun j k => (base + j * x.r2 + k * (wd / 8)) % 2 ^ 64⟩ else none
  | _ =>
    let ixr := iRs2 i
    let n := cf.sew
    let l := cf.lmul8
    let v := x.core.v
    let clear := if nf = 1 then vMay n l d wd e8 ixr else !vOverlap d (nf * groupRegs l) ixr (groupRegs e8)
    if data n l [x.vs2Src wd e8] && vGroup e8 ixr && (st || clear) then
      some ⟨n, l, nf, cf, fun j k => (base + vElem v wd ixr j + k * (n / 8)) % 2 ^ 64⟩
    else none

/-- The elements of an access in order: index, field. -/
def Ins.vItems (x : Ins) (m : VMem) : List (Nat × Nat) :=
  ((({ x.env with cfg := m.cfg } : VEnv).actives).map fun j => (List.range m.nf).map fun k => (j, k)).flatten

/-- A vector load. A fault-only-first load that meets an exception after element 0 shortens vl. -/
def Ins.vLoad (x : Ins) : CoreOut :=
  match x.vMem false with
  | none => x.illegal
  | some m =>
    let d := iRd x.i
    let items := (x.vItems m).map fun e => (e.1, m.reg d e.2, m.addr e.1 e.2)
    let ff := vMop x.i == 0 && iRs2 x.i == 0x10
    let finish (lv : List Nat) (s : State) (cf : VCfg) : CoreOut :=
      let y : Ins := { x with s := s }
      let e : VEnv := { y.env with cfg := cf }
      let v := (List.range m.nf).foldl (fun (v : List Nat) (k : Nat) =>
        ({ e with v := v } : VEnv).write m.eew (m.reg d k) (VCfg.span m.eew m.e8) fun i => vElem lv m.eew (m.reg d k) i) e.v
      y.vDone v 0 false
    match vecLoads x.c m.eew items x.core.v x.s with
    | (lv, none, s) => finish lv s m.cfg
    | (lv, some p, s) =>
      if ff && decide (0 < p.elem) && p.req.isNone then
        finish lv (s.setCore x.c { s.core x.c with vl := p.elem }) { m.cfg with vl := p.elem }
      else x.vStop p s

/-- A vector store. -/
def Ins.vStore (x : Ins) : CoreOut :=
  match x.vMem true with
  | none => x.illegal
  | some m =>
    let d := iRd x.i
    let v := x.core.v
    let items := (x.vItems m).map fun e => (e.1, m.addr e.1 e.2, toBytes (m.eew / 8) (vElem v m.eew (m.reg d e.2) e.1))
    match vecStores x.c items x.s with
    | (none, s) => ({ x with s := s } : Ins).vDone v 0 false
    | (some p, _) =>
      let bs := (items.find? fun e => e.2.1 == p.addr && e.1 == p.elem).map fun e => e.2.2
      match bs with
      | some bs =>
        if p.status ≠ 0 then
          match x.s.coreWrite x.c p.addr bs true with
          | (.fault _, s) => x.vStop p s
          | _ => x.vStop p x.s
        else x.vStop p x.s
      | none => x.vStop p x.s

/-- The vector opcode. -/
def Ins.opV (x : Ins) : CoreOut :=
  let f3 := iF3 x.i
  if f3 = 7 then x.vconfig
  else if x.cfg.vill then x.illegal
  else if f3 = 0 ∨ f3 = 3 ∨ f3 = 4 then x.opi f3
  else if f3 = 2 ∨ f3 = 6 then x.opm f3
  else x.opf f3

end Sys2Proof.Machine
end

