-- ==== Sys2Proof/Machine/Cores.lean ====
section
/-!
DEFINITION. The commands of the general cores (chapter 10): each executes the instruction at the core's PC, when that is an
instruction of its kind. Lomvon's extension is R259 to R263; everything else is RISCV_INSTRUCTION.
-/

namespace Sys2Proof.Machine

/-! ### The extension's encodings (R259) -/

/-- The instructions of Lomvon's extension. -/
inductive ExtOp where
  | qsend | qtry | qrecv | qtryrecv | qsel | qscfg | madv | mwait | mread | barr | dget | dset | dmask | hres | slotend
  deriving DecidableEq, Repr

/-- The extension instruction that a custom-0 encoding holds: the fields that the table marks zero are zero. -/
def extOf (i : Nat) : Option ExtOp :=
  if iOp i ≠ 0x0B then none else
  let rd0 := iRd i == 0
  let rs10 := iRs1 i == 0
  let rs20 := iRs2 i == 0
  let pick (b : Bool) (o : ExtOp) : Option ExtOp := if b then some o else none
  match iF3 i, iF7 i with
  | 0, 0x00 => pick rd0 .qsend
  | 0, 0x01 => some .qtry
  | 0, 0x02 => some .qrecv
  | 0, 0x03 => some .qtryrecv
  | 0, 0x04 => some .qsel
  | 0, 0x05 => pick rd0 .qscfg
  | 1, 0x00 => some .madv
  | 1, 0x01 => pick rd0 .mwait
  | 1, 0x02 => some .mread
  | 1, 0x03 => pick (rd0 && rs20) .barr
  | 2, _ => pick rs10 .dget
  | 3, _ => pick rd0 .dset
  | 4, 0x00 => pick rd0 .dmask
  | 5, _ => some .hres
  | 7, _ => pick (i == 0x700B) .slotend
  | _, _ => none

/-! ### Handles, queues -/

def Ins.handle (x : Ins) (h : Nat) : Option HandleRef := (x.s.coreImage x.c).handles[h]?
def Ins.badHandle (x : Ins) : CoreOut := .trap 25 0 (w x.raw) x.s

/-- The queue of a handle; none for a handle of another kind. -/
def Ins.queue (x : Ins) (h : Nat) : Option Nat :=
  match x.handle h with
  | some (.queue q) => some q
  | _ => none

/-- Wait in an extension instruction (GC_STATUS.STATE 2). -/
def State.coreWaits (s : State) (c : Nat) (wt : Wait) (rd : Nat) (val : Word) : State :=
  let s := s.clearReplies c
  (s.setCore c { s.core c with wait := wt, rd := rd, waitVal := val, since := some s.now }).setGcState c 2

/-- Retire with `v` in rd, from a state. -/
def Ins.putS (x : Ins) (s : State) (v : Nat) : CoreOut := .done x.next (s.setGx x.c (iRd x.i) v)

/-- QSEND and QTRY: the message goes to the queue (R261, R273, R274). -/
def Ins.sendMsg (x : Ins) (try_ : Bool) (q : Nat) (a : Nat) (bs : List Byte) (s : State) : CoreOut :=
  if 0x10000 ≤ q then
    let r := s.remoteQs.get (q - 0x10000) {}
    if try_ then .stay ((s.coreWaits x.c .attempt (iRd x.i) (w a)).remoteSend (.core x.c) r.dev r.q bs 0)
    else .stay ((s.coreWaits x.c .remote 0 (w a)).remoteSend (.core x.c) r.dev r.q bs r.sendWait)
  else if try_ then
    match s.qAccept q bs false with
    | (.ok, s) => x.putS s St.ok
    | (.noRoom, s) => x.putS s St.qfull
    | (.refused st, s) => x.putS s st
  else
    match s.qSendWait q (.core x.c) bs with
    | (.ok, s) => .done x.next s
    | (.noRoom, s) => .stay (s.coreWaits x.c (.send q) 0 (w a))
    | (.refused st, s) => .trap 7 st (w a) s

/-- A send that fails before the message reaches the queue: QTRY answers the status, QSEND takes the exception. -/
def Ins.sendFails (x : Ins) (try_ : Bool) (cause st a : Nat) (s : State) : CoreOut :=
  if try_ then x.putS s (if st = 0 then St.misalign else st) else .trap cause st (w a) s

/-- QSEND and QTRY (R259, R261). -/
def Ins.send (x : Ins) (try_ : Bool) : CoreOut :=
  let r := x.r1
  let len := nbits r 20 16
  let a := x.r2
  if r ≠ nbits r 9 0 + len * 65536 then x.illegal
  else match x.queue (nbits r 9 0) with
  | none => x.badHandle
  | some q =>
    if len = 0 ∨ 16 < len then
      if 0x10000 ≤ q then x.sendFails try_ 7 St.misalign a x.s
      else x.sendFails try_ 7 St.misalign a (x.s.qAccept q (zeroBytes (16 * len)) false).2
    else if a % 16 ≠ 0 then x.sendFails try_ 4 0 a x.s
    else match x.s.coreReadRun x.c 32 a (16 * len) with
    | (.ok bs, s) => x.sendMsg try_ q a bs s
    | (.fault st, s) => x.sendFails try_ 5 st a s
    | (.ask p, _) => .ask p

/-- No core may receive from the queue: another device's, or a stage's own (R275). -/
def State.recvDenied (s : State) (q : Nat) : Bool :=
  decide (0x10000 ≤ q) || (s.qKind q == 0 && s.qConsumer.get q 0 != 0)

/-- A receive that is denied sets QU_EVT.BADRECV (R275). -/
def State.badRecv (s : State) (c q : Nat) : State :=
  let d := if q < 4352 then qDie q else c / 32
  s.raise d Blk.qu (Reg.QU_EVT d) (Reg.QU_EVT_EN d) 3 { status := St.denied, master := c }

/-- QRECV and QTRYRECV (R275). -/
def Ins.recv (x : Ins) (try_ : Bool) : CoreOut :=
  let a := x.r2
  match x.queue x.r1 with
  | none => x.badHandle
  | some q =>
    if x.s.recvDenied q then .trap 5 St.denied (w a) (x.s.badRecv x.c q)
    else if a % 16 ≠ 0 then .trap 6 0 (w a) x.s
    else if x.s.qReady q then
      let len := x.s.qHeadLen q
      let (st, bs, s) := x.s.qHeadRead q
      if st ≠ 0 then .trap 5 st (w a) s
      else match s.coreWriteRun x.c 32 a bs with
      | (.ok _, s) => x.putS ((s.qPop q).gcInval x.c) len
      | (.fault st, s) => .trap 7 st (w a) (x.s.memoryOf s)
      | (.ask p, _) => .ask p
    else if try_ then x.putS x.s 0
    else .stay (x.s.coreWaits x.c .recv (iRd x.i) 0)

/-- The position that a select set chooses (R278). -/
def State.selPick (s : State) (t : SelSet) : Option Nat :=
  let n := t.queues.length
  let ready (p : Nat) : Bool := s.qReady (nth t.queues p 0xFFFF)
  if t.policy = 0 then (List.range n).find? ready
  else ((List.range n).map fun k => (t.last + 1 + k) % n).find? ready

/-- QSEL (R278). -/
def Ins.qsel (x : Ins) : CoreOut :=
  let k := x.r1 % 16
  let g := x.s.core x.c
  let t := nth g.sel k {}
  match x.s.selPick t with
  | some p => x.putS ((x.s.setCore x.c { g with sel := setNth g.sel k { t with last := p } }).gcInval x.c) p
  | none => .stay (x.s.coreWaits x.c .sel (iRd x.i) 0)

/-- QSCFG (R259, R278). -/
def Ins.qscfg (x : Ins) : CoreOut :=
  let k := x.r1 % 16
  let a := x.r2
  if a % 8 ≠ 0 then .trap 4 0 (w a) x.s
  else match x.s.coreReadRun x.c 8 a 40 with
  | (.fault st, s) => .trap 5 st (w a) s
  | (.ask p, _) => .ask p
  | (.ok bs, s) =>
    let count := leAt bs 32 1
    let policy := leAt bs 33 1
    if count = 0 ∨ 16 < count ∨ 1 < policy ∨ leAt bs 34 6 ≠ 0 then x.illegal
    else
      let qs := (List.range count).map fun j => x.queue (leAt bs (2 * j) 2)
      if qs.any (·.isNone) then x.badHandle
      else
        let qs := qs.filterMap id
        match qs.find? s.recvDenied with
        | some q => .trap 5 St.denied (w a) (s.badRecv x.c q)
        | none =>
          let g := s.core x.c
          .done x.next (s.setCore x.c { g with sel := setNth g.sel k { queues := qs, policy := policy, last := count - 1 } })

/-! ### Synchronisation -/

/-- MADV (R282): the state after the advance holds the value that rd receives. -/
def Ins.madv (x : Ins) : CoreOut :=
  match x.handle x.r1 with
  | some (.ms m) =>
    let s := x.s.msAdd m x.r2
    x.putS s (s.msVal m)
  | _ => x.badHandle

/-- MWAIT (R282). -/
def Ins.mwait (x : Ins) : CoreOut :=
  match x.handle x.r1 with
  | some (.ms m) =>
    if x.r2 ≤ x.s.msVal m then .done x.next (x.s.gcInval x.c) else .stay (x.s.coreWaits x.c (.ms m x.r2) 0 0)
  | _ => x.badHandle

/-- MREAD (R259). -/
def Ins.mread (x : Ins) : CoreOut :=
  match x.handle x.r1 with
  | some (.ms m) => x.put (x.s.msVal m)
  | _ => x.badHandle

/-- BARR (R284). -/
def Ins.barr (x : Ins) : CoreOut :=
  match x.handle x.r1 with
  | some (.bar b) =>
    let (os, s) := (x.s.coreWaits x.c (.bar b) 0 0).barArrive b (.core x.c)
    .stay (os.foldl (fun s o => s.releaseUnit o) s)
  | _ => x.badHandle

/-! ### Descriptors (R262, R263) -/

/-- Offset and size of a descriptor field of DGET and DSET. -/
def dField (k : Nat) : Option (Nat × Nat) :=
  match k with
  | 0 => some (0, 4)
  | 1 => some (4, 4)
  | 2 => some (8, 4)
  | 3 => some (12, 2)
  | 4 => some (16, 8)
  | 5 => some (24, 4)
  | 6 => some (48, 8)
  | 7 => some (56, 8)
  | 8 => some (40, 8)
  | _ => none

/-- DGET. -/
def Ins.dget (x : Ins) : CoreOut :=
  let nx := x.s.gcStage x.c
  let g := x.s.stg nx.1 nx.2
  let imm := iImm x.i
  match dField (imm % 16) with
  | some (o, n) => x.put (leAt (if imm / 16 % 2 = 1 then g.outDesc else g.inDesc) o n)
  | none => x.illegal

/-- Fields that DSET may write. -/
def dWritable (k : Nat) : Bool := k == 1 || k == 4 || k == 5 || k == 6 || k == 7

/-- DSET. -/
def Ins.dset (x : Ins) : CoreOut :=
  let nx := x.s.gcStage x.c
  let g := x.s.stg nx.1 nx.2
  let k := iImm x.i % 16
  match dField k with
  | some (o, n) =>
    if dWritable k then .done x.next (x.s.setStg nx.1 nx.2 { g with outDesc := putLe g.outDesc o n x.r1 }) else x.illegal
  | none => x.illegal

/-- DMASK. -/
def Ins.dmask (x : Ins) : CoreOut :=
  let nx := x.s.gcStage x.c
  let g := x.s.stg nx.1 nx.2
  let m := dMask g.outDesc
  .done x.next (x.s.setStg nx.1 nx.2 { g with outDesc := putLe g.outDesc 48 8 ((m - m.land x.r2).lor x.r1) })

/-! ### HRES (R260) -/

/-- Base and size of LEA space k for a tensor (R151, R260); none where the spec states no value (log entry 39). -/
def State.hresSpace (s : State) (c t k : Nat) : Option Nat × Option Nat :=
  let nx := s.gcStage c
  let g := s.stg nx.1 nx.2
  let m : MbCtx := match g.mb with | some i => s.mbc nx.1 nx.2 i | none => {}
  let tn := s.tensors.get t {}
  match k with
  | 0 => (some (s.tensorBase t), some tn.bytes)
  | 1 =>
    match tn.ledger with
    | some l => ((m.refs.find? fun r => r.1 == l).map fun r => (s.led l).slotAddr r.2, some (s.led l).bytes)
    | none => (none, none)
  | 2 => (m.pages.head?.map fun p => g.poolBase + p * 2048, some (m.pages.length * 2048))
  | _ => (some (dActAddr g.inDesc), some (dActBytes g.inDesc))

/-- HRES. -/
def Ins.hres (x : Ins) : CoreOut :=
  let imm := iImm x.i % 8
  match x.handle x.r1 with
  | none => x.badHandle
  | some (.tensor t) =>
    let r := x.s.hresSpace x.c t (imm % 4)
    match if imm < 4 then r.1 else r.2 with
    | some v => x.put v
    | none => x.put (Config.coreFree [5, t, imm]).toNat
  | some (.queue q) =>
    if imm ≠ 0 then x.badHandle
    else if q < 0x10000 then x.put q
    else x.put (Config.coreFree [6, q]).toNat
  | some (.ms m) => if imm ≠ 0 then x.badHandle else x.put m
  | some (.bar b) => if imm ≠ 0 then x.badHandle else x.put b

/-- SLOTEND (R258): the core is idle; its part of the slot has ended. -/
def Ins.slotend (x : Ins) : CoreOut :=
  .stay (((x.s.clearReplies x.c).gcRetire x.c x.next).setGcState x.c 0)

/-! ### Everything else -/

/-- An instruction of RISC-V, by its major opcode. -/
def Ins.base (x : Ins) : CoreOut :=
  let vecWidth := iF3 x.i == 0 || decide (5 ≤ iF3 x.i)
  match iOp x.i with
  | 0x03 => x.loadInt
  | 0x23 => x.storeInt
  | 0x07 => if vecWidth then x.vLoad else if iF3 x.i = 2 ∨ iF3 x.i = 3 then x.loadFp else x.illegal
  | 0x27 => if vecWidth then x.vStore else if iF3 x.i = 2 ∨ iF3 x.i = 3 then x.storeFp else x.illegal
  | 0x0F => x.miscMem
  | 0x13 => x.alu
  | 0x1B => x.alu
  | 0x33 => x.alu
  | 0x3B => x.alu
  | 0x17 => x.put (x.pc + immU x.i)
  | 0x37 => x.put (immU x.i)
  | 0x63 => x.branch
  | 0x6F => .done (x.pc + immJ x.i) (x.s.setGx x.c (iRd x.i) x.next)
  | 0x67 =>
    if iF3 x.i = 0 then
      let t := (x.r1 + immI x.i) % 2 ^ 64
      .done (t - t % 2) (x.s.setGx x.c (iRd x.i) x.next)
    else x.illegal
  | 0x2F => x.amo
  | 0x43 => x.fma
  | 0x47 => x.fma
  | 0x4B => x.fma
  | 0x4F => x.fma
  | 0x53 => x.opFp
  | 0x57 => x.opV
  | 0x73 => x.system
  | _ => x.illegal

/-! ### Commands -/

/-- Fetch and decode the instruction at the PC, and go on with it. A reserved compressed encoding, or a fetch that fails, is
an exception of the RISC-V instruction. -/
def State.coreStep (s : State) (c : Nat) (bad : State → State) (f : Ins → State) : State :=
  match s.fetch c (s.gcPc c) with
  | (.fault a st, s1) => bad (s.coreEnd c (.trap 1 st (w a) s1))
  | (.ask r, _) => bad (s.coreAsk c r)
  | (.ins raw len, s1) =>
    if len = 4 then f ⟨c, s1, s.gcPc c, 4, raw, raw⟩
    else match expandC raw with
    | some i => f ⟨c, s1, s.gcPc c, 2, raw, i⟩
    | none => bad (s.coreEnd c (.trap 2 0 (w raw) s1))

/-- RISCV_INSTRUCTION (R249, R265): the instruction at the PC, when it is not one of the extension. -/
def fxRiscvInstruction (c : Nat) (s : State) : State :=
  if s.coreReady c then
    s.coreStep c id fun x => if (extOf x.i).isSome && x.len == 4 then s else s.coreEnd c x.base
  else s

def execRiscvInstruction (core : BitVec 7) (s : State) : Host.Outcome State Fault Refusal :=
  live s (fxRiscvInstruction core.toNat)

/-- An extension instruction: `again` says that the command also goes on with a wait of that kind; `stops` says that the
units of a stopped stage do not get past it (R265). -/
def fxExt (c : Nat) (op : ExtOp) (again : Wait) (stops : Bool) (f : Ins → CoreOut) (s : State) : State :=
  let resumes := again != .none && s.gcState c == 2 && (s.core c).wait == again && !s.isMasked c
  if (s.coreReady c || resumes) && !(stops && s.stageStopped (s.gcStage c)) then
    s.coreStep c (fun _ => s) fun x => if extOf x.i = some op ∧ x.len = 4 then s.coreEnd c (f x) else s
  else s

/-- QSEND (R261). -/
def execQsend (core : BitVec 7) (s : State) : Host.Outcome State Fault Refusal :=
  live s (fxExt core.toNat .qsend .none true fun x => x.send false)

/-- QTRY (R261). -/
def execQtry (core : BitVec 7) (s : State) : Host.Outcome State Fault Refusal :=
  live s (fxExt core.toNat .qtry .none false fun x => x.send true)

/-- QRECV (R275): the command also ends the wait of a QRECV once its queue has a receivable head. -/
def execQrecv (core : BitVec 7) (s : State) : Host.Outcome State Fault Refusal :=
  live s (fxExt core.toNat .qrecv .recv true fun x => x.recv false)

/-- QTRYRECV (R275). -/
def execQtryrecv (core : BitVec 7) (s : State) : Host.Outcome State Fault Refusal :=
  live s (fxExt core.toNat .qtryrecv .none false fun x => x.recv true)

/-- QSEL (R278). -/
def execQsel (core : BitVec 7) (s : State) : Host.Outcome State Fault Refusal :=
  live s (fxExt core.toNat .qsel .sel true fun x => x.qsel)

/-- QSCFG (R278). -/
def execQscfg (core : BitVec 7) (s : State) : Host.Outcome State Fault Refusal :=
  live s (fxExt core.toNat .qscfg .none false fun x => x.qscfg)

/-- MADV (R282). -/
def execMadv (core : BitVec 7) (s : State) : Host.Outcome State Fault Refusal :=
  live s (fxExt core.toNat .madv .none false fun x => x.madv)

/-- MWAIT (R282). -/
def execMwait (core : BitVec 7) (s : State) : Host.Outcome State Fault Refusal :=
  live s (fxExt core.toNat .mwait .none true fun x => x.mwait)

/-- MREAD (R259). -/
def execMread (core : BitVec 7) (s : State) : Host.Outcome State Fault Refusal :=
  live s (fxExt core.toNat .mread .none false fun x => x.mread)

/-- BARR (R284). -/
def execBarr (core : BitVec 7) (s : State) : Host.Outcome State Fault Refusal :=
  live s (fxExt core.toNat .barr .none true fun x => x.barr)

/-- DGET (R262). -/
def execDget (core : BitVec 7) (s : State) : Host.Outcome State Fault Refusal :=
  live s (fxExt core.toNat .dget .none false fun x => x.dget)

/-- DSET (R263). -/
def execDset (core : BitVec 7) (s : State) : Host.Outcome State Fault Refusal :=
  live s (fxExt core.toNat .dset .none false fun x => x.dset)

/-- DMASK (R259). -/
def execDmask (core : BitVec 7) (s : State) : Host.Outcome State Fault Refusal :=
  live s (fxExt core.toNat .dmask .none false fun x => x.dmask)

/-- HRES (R260). -/
def execHres (core : BitVec 7) (s : State) : Host.Outcome State Fault Refusal :=
  live s (fxExt core.toNat .hres .none false fun x => x.hres)

/-- SLOTEND (R258). -/
def execSlotend (core : BitVec 7) (s : State) : Host.Outcome State Fault Refusal :=
  live s (fxExt core.toNat .slotend .none true fun x => x.slotend)

/-- The limit of a queue's sends (R273). -/
def State.sendLimit (s : State) (q : Nat) : Nat := s.rdB (Reg.QU_CFG q) 63 32

/-- QFULL (R261, R273): a stalled send has reached its limit. A send to another device runs from its first refusal (R274). -/
def fxQfull (c : Nat) (s : State) : State :=
  let val := (s.core c).waitVal
  if s.stageStopped (s.gcStage c) then s else
  match (s.core c).wait with
  | .send q =>
    match s.sendWaits.find? fun (t : SendWait) => t.owner == .core c && t.q == q with
    | some t =>
      if s.sendLimit q ≠ noLimit ∧ t.since + s.sendLimit q ≤ s.now then
        ({ s with sendWaits := s.sendWaits.filter fun (t : SendWait) => !(t.owner == .core c) } : State).gcFault c 24 St.qfull val
      else s
    | none => s
  | .remote =>
    match s.remoteSends.find? fun (e : Nat × RemoteSend) => e.2.owner == .core c with
    | some (id, t) =>
      match t.refused, t.due with
      | some f, some _ =>
        if t.limit ≠ noLimit ∧ f + t.limit ≤ s.now then
          ({ s with remoteSends := s.remoteSends.del id } : State).gcFault c 24 St.qfull val
        else s
      | _, _ => s
    | none => s
  | _ => s

def execQfull (core : BitVec 7) (s : State) : Host.Outcome State Fault Refusal := live s (fxQfull core.toNat)

end Sys2Proof.Machine
end

