-- ==== Sys2Proof/Machine/Clock.lean ====
section
/-!
DEFINITION. What one tick of the local cycle count does (R409, R66) while no command waits: the counters of time, the entries of
the error logs (R455), one flit of each port (R315), and the requests that have completed (log entry 1).
-/

namespace Sys2Proof.Machine

/-! ### Demurrage (R87, R458 to R460) -/

/-- Arithmetic cycles of a die in one tick: its point's frequency times 10 ns (R411); none while the clock stands for a change of
point (R412, R459). -/
def State.cyclesPerTick (s : State) (n : Nat) : Nat := if s.now < (s.gov n).halt then 0 else oppFreq (s.opp n) / 100

/-- Units of a stage that do not issue work only because they wait at barriers: none issues, and one at least waits (R459). -/
def State.allAtBarrier (s : State) (n x : Nat) : Bool :=
  let g := s.stg n x
  let atBar (wt : Wait) : Bool := match wt with | .bar _ => true | _ => false
  g.engines.all (fun e => s.mxState e == 0 || atBar (s.eng e).wait)
    && g.cores.all (fun c => s.gcState c == 0 || atBar (s.core c).wait)
    && (g.engines.any (fun e => atBar (s.eng e).wait) || g.cores.any fun c => atBar (s.core c).wait)

/-- The cause that an idle stage's time is charged to; none while it works (R87, R459, R460). -/
def State.idleCause (s : State) (n x : Nat) : Option Nat :=
  let g := s.stg n x
  let k := s.slotRuns n x (s.curSlot n x)
  match g.phase with
  | .pad => if g.backhaulIdle then some 7 else some 5
  | .send =>
    if g.sending && !g.sent then some 1
    else if g.dspPend && (match (s.dsp n).run with | some r => r.req.ctx == x && r.req.pass.isSome && r.issued | none => false)
    then some 1 else none
  | .work => if s.allAtBarrier n x then some 6 else none
  | .backhaul =>
    if (s.stg n (s.ctxPartner n x)).phase ≠ .idle then none
    else if s.backhaulReady n (s.ctxPartner n x) then some 5 else some 7
  | .await =>
    if k = 1 then some 0
    else if k = 2 then
      let waits := match s.ctxAt n x (s.slotPos n x (s.curSlot n x)) with
        | some c => (s.mbc n x c).prefWait || (s.mbc n x c).xfer
        | none => false
      some (if waits && (g.inBwd == 0xFFFF || s.mbReady g.inBwd (s.slotPos n x (s.curSlot n x))) then 4 else 0)
    else if k = 3 then some 3
    else if k = 6 then some 5
    else none
  | .idle => none

/-- Demurrage of a context for one tick. -/
def State.demTick (s : State) (n x : Nat) : State :=
  let cy := s.cyclesPerTick n
  let s := match s.idleCause n x with
    | some c => s.demCount n x c cy
    | none => s
  s.demCount n x 8 cy

/-! ### Waits that are counted in ticks (R105, R125, R126) -/

/-- The descriptor at the head of a stage's forward queue has pages, and no prefetch of the stage waits for them. -/
def State.poolRoom (s : State) (n x : Nat) : Bool :=
  !s.prefetchWaits n x && (s.takePages n x (s.pagesFor n x (dLength (s.qHeadBytes (s.stg n x).inFwd)))).isSome

/-- The admission wait of a context for one tick. -/
def State.waitTick (s : State) (n x : Nat) : State :=
  if (s.stg n x).phase ≠ .await ∨ s.slotRuns n x (s.curSlot n x) ≠ 1 then s else
  match s.rdB (Reg.MBQ_STATUS n x) 4 2 with
  | 2 => s.addB (Reg.MBQ_WAIT_GATE n x) 63 0 1
  | 3 => s.addB (Reg.MBQ_WAIT_CTX n x) 63 0 1
  | 4 =>
    let s := if s.poolRoom n x then s else s.addB (Reg.MBQ_WAIT_POOL n x) 63 0 1
    if s.ledRoom (s.stg n x).shards then s else s.addB (Reg.LED_WAIT 0) 63 0 1
  | _ => s

/-- A running context for one tick. -/
def State.stageTick (s : State) (n x : Nat) : State :=
  if s.ctxValid n x && (s.stg n x).running then (s.waitTick n x).demTick n x else s

/-- Updates and fetches that wait for a slot. -/
def State.updWaitTick (s : State) : State :=
  s.ledIds.foldl (fun s l => if (s.led l).waiting then s.addB (Reg.LED_UPDWAIT 0) 63 0 1 else s) s

/-! ### The tick -/

/-- Every stage that has state. -/
def State.stagesTick (s : State) : State := s.stages.foldl (fun s (e : Nat × StageCtx) => s.stageTick (e.1 / 32) (e.1 % 32)) s

/-- GOV_CNT_BELOW and GOV_CNT_THERMAL: ticks below point 24, and ticks limited by temperature. -/
def State.govTick (s : State) : State :=
  [0, 1, 2, 3].foldl (fun s n =>
    let s := if s.opp n < 24 then s.addB (Reg.GOV_CNT_BELOW n) 63 0 1 else s
    if bit (s.rd (Reg.GOV_STATUS n)) 56 then s.addB (Reg.GOV_CNT_THERMAL n) 63 0 1 else s) s

/-- One core's tick: 24 general-core cycles (R250), of which it has run job code in a free part and waited in another free part, each
only if it did so at all (R266, log entry 102). -/
def State.coreTick (s : State) (c : Nat) : State :=
  let g := s.core c
  let st := s.gcState c
  let runs := g.ran || st == 1
  let waits := g.waited || st == 2
  let s := s.setCore c { g with cycle := g.cycle + 24, sub := 0, ran := false, waited := false }
  if runs || waits then
    let (f, s) := s.free
    let busy := if runs then bits f 31 0 % 25 else 0
    let s := s.addB (gcReg Reg.GC_CNT_BUSY c) 63 0 busy
    if waits then s.addB (gcReg Reg.GC_CNT_WAIT c) 63 0 (bits f 63 32 % (25 - busy)) else s
  else s

def State.coresTick (s : State) : State := s.cores.foldl (fun s (e : Nat × Core) => s.coreTick e.1) s

/-- The cycles of the update engines (R247). -/
def State.updsTick (s : State) : State :=
  s.updEngines.foldl (fun s (e : Nat × UpdEngine) => s.updTick e.1 (s.cyclesPerTick (e.1 / 4))) s

/-- A stack whose burst counts have moved since the last tick: its data buses were busy in a free part of the tick's 12.5
memory-controller cycles (R312, log entry 102). -/
def State.stackTick (s : State) (k : Nat) : State :=
  let n := (s.rd (Reg.MEM_CNT_RD k)).toNat + (s.rd (Reg.MEM_CNT_WR k)).toNat
  if n = s.cntAt.get k 0 then s
  else
    let (f, s) := s.free
    ({ s with cntAt := s.cntAt.set k n 0 } : State).addB (Reg.MEM_CNT_BUSY k) 63 0 (f.toNat % 14)

def State.stacksTick (s : State) : State := (List.range 8).foldl (fun s k => s.stackTick k) s

/-- A die's estimated energy, and the hits and misses of its header cache while a job has ledgers, in a tick (log entry 102). -/
def State.dieTick (s : State) (n : Nat) : State :=
  let (f, s) := s.free
  let s := s.addB (Reg.GOV_ENERGY n) 63 0 (bits f 0 0)
  if s.ledIds.isEmpty then s
  else (s.addB (Reg.LED_CACHE n) 31 0 (bits f 31 16)).addB (Reg.LED_CACHE n) 63 32 (bits f 47 32)

def State.diesTick (s : State) : State := (List.range 4).foldl (fun s n => s.dieTick n) s

/-- Every port sends what it sends in a tick. -/
def State.portsTick (s : State) : State := (List.range 16).foldl (fun s p => s.lnkTick p) s

/-- The counters of the cycle that ends, and the local cycle count. -/
def State.cycleEnd (s : State) : State :=
  let s := (s.stagesTick.updWaitTick).govTick
  let s := (((s.coresTick).updsTick).stacksTick).diesTick
  { s with now := s.now + 1 }

/-- The traffic of the next cycle. -/
def State.cycleStart (s : State) : State := (((((s.serveRounds).settle).serveTrigs).serveFetches).guestTick).portsTick

/-- What happens at a tick: the cycle ends, its entries are written (R455), and the next cycle's traffic follows. -/
def fxTick (s : State) : State := s.cycleEnd.errFlush.cycleStart

/-- A tick of a block that idles: after a thermal trip, and while RESET_N holds the block, only the count of the always-on
domain advances; while POR_N holds it, the count stands (R409, R484). After a boot that stopped in step 2 the log is written
too. -/
def State.tick (s : State) : State :=
  if s.stuck && !s.tripped then s.commit ({ s with jnl := [], now := s.now + 1 } : State).errFlush
  else if s.held && !s.resetLow then s
  else if s.tripped || s.held then { s with now := s.now + 1 }
  else s.commit (fxTick { s with jnl := [] })

end Sys2Proof.Machine
end

