-- ==== Sys2Proof/Machine/Tap.lean ====
section
/-!
DEFINITION. The test port (R476, R477) and the sideband (R478, R479).
-/

namespace Sys2Proof.Machine

/-! ### The test port -/

/-- A TAP instruction acts while TRST_N is high. It does not depend on the device's resets (R476). -/
def tapDo (s : State) (f : State → State) : Host.Outcome State Fault Refusal :=
  if s.tripped then .fault .afterTrip else if s.tapReset then .next s else pinAct s f

/-- An instruction is shifted into the instruction register, which shifts its capture out (R476); only EXTEST drives the lands. -/
def State.tapSelect (s : State) (ir : Nat) : State := { s.emit (.tap 8 1) with tapIr := ir, lands := none }

/-- BYPASS, and every code without an instruction: the 1-bit register captures 0 (IEEE 1149.1). -/
def State.tapBypass (s : State) : State := (s.tapSelect 0xFF).emit (.tap 1 0)

def execBypass (s : State) : Host.Outcome State Fault Refusal := tapDo s State.tapBypass

/-- IDCODE (R476): stepping 0xB, the part number of ID_PART, manufacturer field 0, and 1 in bit 0. -/
def fxIdcode (s : State) : State :=
  (s.tapSelect 1).emit (.tap 32 (1 + at_ 12 (s.rdB Reg.ID_PART 15 0) + at_ 28 0xB))

def execIdcode (s : State) : Host.Outcome State Fault Refusal := tapDo s fxIdcode

/-- SAMPLE/PRELOAD (R476): the lands are captured, and the cells are loaded with what is shifted in. -/
def fxSamplePreload (pins load : Nat) (s : State) : State :=
  { (s.tapSelect 2).emit (.tap 42 pins) with tapData := load }

def execSamplePreload (pins preload : BitVec 42) (s : State) : Host.Outcome State Fault Refusal :=
  tapDo s (fxSamplePreload pins.toNat preload.toNat)

/-- EXTEST (R441, R476): with its permission the cells drive the lands, first with what PRELOAD left in them, and with what is
shifted in once the data register is updated. -/
def fxExtest (pins drive : Nat) (s : State) : State :=
  if s.perm 3 then
    { ((((s.tapSelect 3).emit (.lands s.tapData)).emit (.tap 42 pins)).emit (.lands drive)) with
      tapData := drive, lands := some drive }
  else s.tapBypass

def execExtest (pins drive : BitVec 42) (s : State) : Host.Outcome State Fault Refusal :=
  tapDo s (fxExtest pins.toNat drive.toNat)

/-- DBG_TOKEN (R441, R476): SEC_DBG_STATUS is captured, and firmware processes the token while the device is booted. -/
def fxDbgToken (t : List Byte) (s : State) : State :=
  let s := (s.tapSelect 0x20).emit (.tap 1344 (s.rd Reg.SEC_DBG_STATUS).toNat)
  if !s.held && s.rdB Reg.SEC_BOOT 16 16 == 1 then s.token (fitBytes 168 t) else s

def execDbgToken (token : List Byte) (s : State) : Host.Outcome State Fault Refusal := tapDo s (fxDbgToken token)

/-- The debug path has a permission that reaches something (R477). -/
def State.dbgPerm (s : State) : Bool := s.perm 0 || s.perm 1 || s.perm 2

/-- DBG_ACCESS (R476, R477): an 8-byte access under master ID 0xE4; the data register returns its status and data. -/
def fxDbgAccess (a : Nat) (write : Bool) (v : Nat) (s : State) : State :=
  if s.held || !s.dbgPerm then s.tapBypass
  else
    let s := s.tapSelect 0x22
    let reg (st d : Nat) : Nat := a + (if write then 2 ^ 46 else 0) + at_ 48 st + at_ 64 d
    if a % 8 ≠ 0 then s.emit (.tap 128 (reg St.misalign 0))
    else if write then
      let (st, s) := s.busWrite 0xE4 s.devId a (toBytes 8 v)
      s.emit (.tap 128 (reg st v))
    else
      let (st, bs, s) := s.busRead 0xE4 s.devId a 8
      s.emit (.tap 128 (reg st (ofBytes bs)))

def execDbgAccess (addr : BitVec 46) (write : Bool) (data : Word) (s : State) : Host.Outcome State Fault Refusal :=
  tapDo s (fxDbgAccess addr.toNat write data.toNat)

/-- TRST_N (R476): low holds the TAP in reset, where it selects IDCODE; high lets it go. -/
def fxTrstN (low : Bool) (s : State) : State :=
  if low then { s with tapReset := true, tapIr := 1, tapData := 0, lands := none } else { s with tapReset := false }

def execTrstN (low : Bool) (s : State) : Host.Outcome State Fault Refusal :=
  if s.tripped then .fault .afterTrip else pinAct s (fxTrstN low)

/-! ### The sideband -/

/-- The static address, which ADDR selects (R473, R478). -/
def State.sbAddr (s : State) : Nat := 0x58 + s.straps % 4

/-- The codes that the device serves: whether a code waits for READY; none for any other code (R478). -/
def sbCode (code : Nat) : Option Bool :=
  match code with
  | 1 => some false
  | 2 => some false
  | 3 => some true
  | 4 => some true
  | 5 => some true
  | 6 => some true
  | 7 => some false
  | _ => none

/-- The device serves a code now: boot step 1 has begun, and READY is set where the code waits for it (R478). -/
def State.sbServes (s : State) (code : Nat) : Bool :=
  !s.held && s.rdB Reg.RST_STATUS 11 8 != 0 && match sbCode code with
    | some ready => !ready || bit (s.rd Reg.RST_STATUS) 12
    | none => false

/-- The device refuses a transaction. -/
def State.sbNack (s : State) : State := s.emit (.sideband s.sbAddr none 0)

/-- Serve a sideband command: any other code, and one whose time has not come, is refused with a NACK (R478). -/
def sideband (code : Nat) (f : State → State) (s : State) : Host.Outcome State Fault Refusal :=
  if s.tripped then .fault .afterTrip else if s.sbServes code then pinAct s f else .next s.sbNack

/-- The packet error code of a transaction: of its bytes from the first address on (R478, log entry 100). -/
def State.sbPec (s : State) (bs : List Byte) : Nat := crc8 (toBytes 1 (2 * s.sbAddr) ++ bs)

/-- Answer a sideband read of a code with `n` bytes. -/
def State.sbReply (s : State) (code n v : Nat) : State :=
  s.emit (.sideband s.sbAddr (some (toBytes n v)) (s.sbPec (toBytes 1 code ++ toBytes 1 (2 * s.sbAddr + 1) ++ toBytes n v)))

/-- PART. -/
def execSidebandPart (s : State) : Host.Outcome State Fault Refusal :=
  sideband 1 (fun s => s.sbReply 1 8 (s.rd Reg.ID_PART).toNat) s

/-- RESET. -/
def execSidebandReset (s : State) : Host.Outcome State Fault Refusal :=
  sideband 2 (fun s => s.sbReply 2 8 (s.rd Reg.RST_STATUS).toNat) s

/-- Temperatures, one below each limit, as the bytes of a number. -/
def State.freeTemps (s : State) : List Nat → Nat × State
  | [] => (0, s)
  | l :: ls =>
    let (t, s) := s.freeTemp l
    let (n, s) := State.freeTemps s ls
    (t + 256 * n, s)

/-- TEMPS: seven measured temperatures, which are free values below the limits of R484 (log entry 5); byte 7 is zero. -/
def fxTemps (s : State) : State :=
  let (v, s) := s.freeTemps [115, 115, 115, 115, 115, 105, 256]
  s.sbReply 3 8 v

def execTemps (s : State) : Host.Outcome State Fault Refusal := sideband 3 fxTemps s

/-- POWER. -/
def execPower (s : State) : Host.Outcome State Fault Refusal :=
  sideband 4 (fun s => s.sbReply 4 8 (s.rd Reg.PKM_POWER).toNat) s

/-- BUDGET, read. -/
def execBudgetRead (s : State) : Host.Outcome State Fault Refusal :=
  sideband 5 (fun s => s.sbReply 5 2 (s.rdB Reg.PKM_BUDGET 11 0)) s

/-- Firmware writes a requested budget to PKM_BUDGET, which takes 600 to 2,400 W (R428). -/
def State.sbBudgetSet (s : State) (v : Nat) : State :=
  if 600 ≤ v ∧ v ≤ 2400 then (s.busWrite 0xE0 0 Reg.PKM_BUDGET (toBytes 8 v)).2 else s

/-- BUDGET, write: on the SMBus with its packet error code, a wrong one refused; on I3C with none (R478). Of two writes that complete
in one cycle the I3C write is applied first. -/
def fxBudgetWrite (v : Nat) (pec : Option Nat) (s : State) : State :=
  match pec with
  | some p =>
    if p ≠ s.sbPec (toBytes 1 5 ++ toBytes 2 v) then s.sbNack
    else ({ s.sbBudgetSet v with sbBudget := some (v, s.now) } : State).emit (.sideband s.sbAddr (some []) 0)
  | none =>
    let t := s.sbBudgetSet v
    let t := match s.sbBudget with
      | some (u, k) => if k = s.now then t.sbBudgetSet u else t
      | none => t
    t.emit (.sideband s.sbAddr (some []) 0)

def execBudgetWrite (value : BitVec 16 × Option (BitVec 8)) (s : State) : Host.Outcome State Fault Refusal :=
  sideband 5 (fxBudgetWrite value.1.toNat (value.2.map (·.toNat))) s

/-- ERRORS: the hub log's count; SMBALERT_N is released (R479). -/
def fxErrors (s : State) : State := { s.sbReply 6 8 (s.rd (Reg.ERR_PROD 4)).toNat with smbAlert := false }

def execErrors (s : State) : Host.Outcome State Fault Refusal := sideband 6 fxErrors s

/-- TRIP: the cause of the last thermal trip. The always-on domain serves it after a trip too (R484). -/
def execTrip (s : State) : Host.Outcome State Fault Refusal :=
  .next (if s.sbServes 7 then s.sbReply 7 1 s.trip else s.sbNack)

/-- DYNAMIC_ADDRESS (R478): the I3C controller assigns an address. -/
def execDynamicAddress (addr : BitVec 7) (s : State) : Host.Outcome State Fault Refusal :=
  if s.tripped then .fault .afterTrip else if s.held then .next s else pinAct s fun s => { s with dynAddr := some addr.toNat }

end Sys2Proof.Machine
end

