-- ==== Sys2Proof/Machine/Writes.lean ====
section
/-!
DEFINITION. The commands that are writes of one register with a row of its own: each goes through the register bus as any
write of that register does, and is answered with its status. `master` is the master that writes; `src` its device, for an
access of fabric ingress (0xE8).
-/

namespace Sys2Proof.Machine

/-- A write of 8 bytes by a master, answered with its status. -/
def fxWriteFrom (master src a : Nat) (v : Word) (s : State) : State :=
  let (st, s) := s.busWrite master src a (toBytes 8 v.toNat)
  s.answer st 0

/-- MBQ_ABORT (R109). -/
def execMbqAbort (master : BitVec 8) (die : BitVec 2) (ctx : BitVec 5) (value : Word) (s : State) : Host.Outcome State Fault Refusal :=
  live s fun s => fxWriteFrom master.toNat s.devId (Reg.MBQ_ABORT die.toNat ctx.toNat) (value) s

/-- MBQ_GATE_WRITE (R114). -/
def execMbqGateWrite (master : BitVec 8) (die : BitVec 2) (ctx : BitVec 5) (value : Word) (s : State) : Host.Outcome State Fault Refusal :=
  live s fun s => fxWriteFrom master.toNat s.devId (Reg.MBQ_GATE die.toNat ctx.toNat) (value) s

/-- MBQ_CTX_SEL_WRITE (R115). -/
def execMbqCtxSelWrite (master : BitVec 8) (die : BitVec 2) (value : Word) (s : State) : Host.Outcome State Fault Refusal :=
  live s fun s => fxWriteFrom master.toNat s.devId (Reg.MBQ_CTX_SEL die.toNat) (value) s

/-- MX_IX_SEL_WRITE (R172). -/
def execMxIxSelWrite (master : BitVec 8) (engine : BitVec 6) (value : Word) (s : State) : Host.Outcome State Fault Refusal :=
  live s fun s => fxWriteFrom master.toNat s.devId (mxReg Reg.MX_IX_SEL engine.toNat) (value) s

/-- DSP_SUBMIT (R215). -/
def execDspSubmit (master : BitVec 8) (die : BitVec 2) (value : Word) (s : State) : Host.Outcome State Fault Refusal :=
  live s fun s => fxWriteFrom master.toNat s.devId (Reg.DSP_SUBMIT die.toNat) (value) s

/-- UPD_TRIGGER (R233): a trigger without SKIP. -/
def execUpdTrigger (master : BitVec 8) (die : BitVec 2) (value : Word) (s : State) : Host.Outcome State Fault Refusal :=
  live s fun s => fxWriteFrom master.toNat s.devId (Reg.UPD_TRIGGER die.toNat) (clrBit value 62) s

/-- UPD_SKIP (R235): a trigger with SKIP. -/
def execUpdSkip (master : BitVec 8) (die : BitVec 2) (value : Word) (s : State) : Host.Outcome State Fault Refusal :=
  live s fun s => fxWriteFrom master.toNat s.devId (Reg.UPD_TRIGGER die.toNat) (clrBit (setBit value 62) 61) s

/-- UPD_SKIP_FAIL (R235): a trigger with SKIP and FAIL. -/
def execUpdSkipFail (master : BitVec 8) (die : BitVec 2) (value : Word) (s : State) : Host.Outcome State Fault Refusal :=
  live s fun s => fxWriteFrom master.toNat s.devId (Reg.UPD_TRIGGER die.toNat) (setBit (setBit value 61) 62) s

/-- LED_RESOLVE_COMMIT (R142). -/
def execLedResolveCommit (master : BitVec 8) (value : Word) (s : State) : Host.Outcome State Fault Refusal :=
  live s fun s => fxWriteFrom master.toNat s.devId (Reg.LED_RESOLVE 0) (clrBit value 62) s

/-- LED_RESOLVE_DISCARD (R142). -/
def execLedResolveDiscard (master : BitVec 8) (value : Word) (s : State) : Host.Outcome State Fault Refusal :=
  live s fun s => fxWriteFrom master.toNat s.devId (Reg.LED_RESOLVE 0) (setBit value 62) s

/-- LED_SEL_WRITE (R143). -/
def execLedSelWrite (master : BitVec 8) (value : Word) (s : State) : Host.Outcome State Fault Refusal :=
  live s fun s => fxWriteFrom master.toNat s.devId (Reg.LED_SEL 0) (value) s

/-- SYN_MADV (R282, R288). -/
def execSynMadv (master : BitVec 8) (die : BitVec 2) (value : Word) (s : State) : Host.Outcome State Fault Refusal :=
  live s fun s => fxWriteFrom master.toNat s.devId (Reg.SYN_MADV die.toNat) (value) s

/-- QU_PEEK_SEL (R289). -/
def execQuPeekSel (master : BitVec 8) (die : BitVec 2) (value : Word) (s : State) : Host.Outcome State Fault Refusal :=
  live s fun s => fxWriteFrom master.toNat s.devId (Reg.QU_PEEK_SEL die.toNat) (value) s

/-- MEM_PAR_THRESH_WRITE (R306). -/
def execMemParThreshWrite (master : BitVec 8) (stack : BitVec 3) (value : Word) (s : State) : Host.Outcome State Fault Refusal :=
  live s fun s => fxWriteFrom master.toNat s.devId (Reg.MEM_PAR_THRESH stack.toNat) (value) s

/-- COL_SUBMIT (R365). -/
def execColSubmit (master : BitVec 8) (value : Word) (s : State) : Host.Outcome State Fault Refusal :=
  live s fun s => fxWriteFrom master.toNat s.devId (Reg.COL_SUBMIT) (value) s

/-- COL_VOTE_CFG_WRITE (R375). -/
def execColVoteCfgWrite (master : BitVec 8) (value : Word) (s : State) : Host.Outcome State Fault Refusal :=
  live s fun s => fxWriteFrom master.toNat s.devId (Reg.COL_VOTE_CFG) (value) s

/-- MBX_BIND_WRITE (R400). -/
def execMbxBindWrite (master : BitVec 8) (channel : BitVec 6) (value : Word) (s : State) : Host.Outcome State Fault Refusal :=
  live s fun s => fxWriteFrom master.toNat s.devId (Reg.MBX_BIND channel.toNat) (value) s

/-- MBX_LOCK_WRITE (R400). -/
def execMbxLockWrite (master : BitVec 8) (s : State) : Host.Outcome State Fault Refusal :=
  live s fun s => fxWriteFrom master.toNat s.devId (Reg.MBX_LOCK) (1) s

/-- RING_ENABLE (R386): EN is set. -/
def execRingEnable (master : BitVec 8) (ring : BitVec 4) (value : Word) (s : State) : Host.Outcome State Fault Refusal :=
  live s fun s => fxWriteFrom master.toNat s.devId (Reg.CMD_RING_CFG ring.toNat) (setBit value 63) s

/-- RING_DISABLE (R386): EN is cleared. -/
def execRingDisable (master : BitVec 8) (ring : BitVec 4) (value : Word) (s : State) : Host.Outcome State Fault Refusal :=
  live s fun s => fxWriteFrom master.toNat s.devId (Reg.CMD_RING_CFG ring.toNat) (clrBit value 63) s

/-- LNK_RESET (R328). -/
def execLnkReset (master : BitVec 8) (port : BitVec 4) (s : State) : Host.Outcome State Fault Refusal :=
  live s fun s => fxWriteFrom master.toNat s.devId (Reg.LNK_CTL port.toNat) (1) s

/-- LNK_DISABLE (R328). -/
def execLnkDisable (master : BitVec 8) (port : BitVec 4) (s : State) : Host.Outcome State Fault Refusal :=
  live s fun s => fxWriteFrom master.toNat s.devId (Reg.LNK_CTL port.toNat) (2) s

/-- LNK_ENABLE (R333). -/
def execLnkEnable (master : BitVec 8) (port : BitVec 4) (s : State) : Host.Outcome State Fault Refusal :=
  live s fun s => fxWriteFrom master.toNat s.devId (Reg.LNK_CTL port.toNat) (4) s

/-- SEC_LOCK_WRITE (R439). -/
def execSecLockWrite (master : BitVec 8) (s : State) : Host.Outcome State Fault Refusal :=
  live s fun s => fxWriteFrom master.toNat s.devId (Reg.SEC_LOCK) (1) s

/-- CGT_OPEN (R444). -/
def execCgtOpen (master : BitVec 8) (s : State) : Host.Outcome State Fault Refusal :=
  live s fun s => fxWriteFrom master.toNat s.devId (Reg.CGT_CTL) (1) s

/-- ERR_CONS_WRITE (R463): log 0 to 3 of a die, 4 of the hub. -/
def execErrConsWrite (master : BitVec 8) (log : BitVec 3) (value : Word) (s : State) : Host.Outcome State Fault Refusal :=
  live s fun s => fxWriteFrom master.toNat s.devId (Reg.ERR_CONS log.toNat) (value) s

/-- ERR_FIRST_CLR (R454). -/
def execErrFirstClr (master : BitVec 8) (log : BitVec 3) (s : State) : Host.Outcome State Fault Refusal :=
  live s fun s => fxWriteFrom master.toNat s.devId (Reg.ERR_FIRST_CLR log.toNat) (1) s

/-- DEM_CLEAR (R461). -/
def execDemClear (master : BitVec 8) (die : BitVec 2) (ctx : BitVec 5) (s : State) : Host.Outcome State Fault Refusal :=
  live s fun s => fxWriteFrom master.toNat s.devId (Reg.DEM_CTL die.toNat ctx.toNat) (1) s

/-- CMD_DB_PI (R390). -/
def execCmdDbPi (master : BitVec 8) (src : BitVec 18) (ring : BitVec 4) (value : Word) (s : State) :
    Host.Outcome State Fault Refusal :=
  live s (fxWriteFrom master.toNat src.toNat (Reg.CMD_DB_PI ring.toNat) (value))

/-- CMD_DB_CQH (R398). -/
def execCmdDbCqh (master : BitVec 8) (src : BitVec 18) (ring : BitVec 4) (value : Word) (s : State) :
    Host.Outcome State Fault Refusal :=
  live s (fxWriteFrom master.toNat src.toNat (Reg.CMD_DB_CQH ring.toNat) (value))

/-- RESUME (R405). -/
def execResume (master : BitVec 8) (src : BitVec 18) (ring : BitVec 4) (s : State) :
    Host.Outcome State Fault Refusal :=
  live s (fxWriteFrom master.toNat src.toNat (Reg.CMD_RING_CTL ring.toNat) (1))

/-- STOP (R405). -/
def execStop (master : BitVec 8) (src : BitVec 18) (ring : BitVec 4) (s : State) :
    Host.Outcome State Fault Refusal :=
  live s (fxWriteFrom master.toNat src.toNat (Reg.CMD_RING_CTL ring.toNat) (2))

/-- MBX_SEND (R402). -/
def execMbxSend (master : BitVec 8) (src : BitVec 18) (channel : BitVec 6) (value : Word) (s : State) :
    Host.Outcome State Fault Refusal :=
  live s (fxWriteFrom master.toNat src.toNat (Reg.MBX_SEND channel.toNat) (value))

/-- MBX_ACK (R402). -/
def execMbxAck (master : BitVec 8) (src : BitVec 18) (channel : BitVec 6) (value : Word) (s : State) :
    Host.Outcome State Fault Refusal :=
  live s (fxWriteFrom master.toNat src.toNat (Reg.MBX_ACK channel.toNat) (value))

/-- MBX_DATA_WRITE (R402). -/
def execMbxDataWrite (master : BitVec 8) (src : BitVec 18) (channel : BitVec 6) (word : BitVec 3) (value : Word) (s : State) :
    Host.Outcome State Fault Refusal :=
  live s (fxWriteFrom master.toNat src.toNat (Reg.MBX_DATA channel.toNat word.toNat) (value))

/-- A write of 8 bytes that another device's collective engine sends (R371, R376): a request received, refused with DENIED when its
source is not admitted or is a depot (R342). -/
def fxFabricWrite (src a : Nat) (v : Word) (s : State) : State :=
  let s := s.addB Reg.FAB_CNT_IN 63 0 1
  if s.depots.contains src || !s.admitted src then
    ((s.addB Reg.FAB_CNT_DENIED 63 0 1).fabEvent 2 St.denied 0xD5 a).answer St.denied 0
  else fxWriteFrom 0xE8 src a v s

/-- SEGMENT_WRITTEN (R372). -/
def execSegmentWritten (source : BitVec 18) (value : Word) (s : State) : Host.Outcome State Fault Refusal :=
  live s (fxFabricWrite source.toNat Reg.COL_RX (putBits value 59 58 0))

/-- SLOT_FREED (R372). -/
def execSlotFreed (source : BitVec 18) (value : Word) (s : State) : Host.Outcome State Fault Refusal :=
  live s (fxFabricWrite source.toNat Reg.COL_RX (putBits value 59 58 1))

/-- PERMUTE_SENT (R372). -/
def execPermuteSent (source : BitVec 18) (value : Word) (s : State) : Host.Outcome State Fault Refusal :=
  live s (fxFabricWrite source.toNat Reg.COL_RX (putBits value 59 58 2))

/-- UP_VOTE (R376). -/
def execUpVote (source : BitVec 18) (value : Word) (s : State) : Host.Outcome State Fault Refusal :=
  live s (fxFabricWrite source.toNat Reg.COL_VOTE_RX (clrBit value 41))

/-- VOTE_OUTCOME (R376). -/
def execVoteOutcome (source : BitVec 18) (value : Word) (s : State) : Host.Outcome State Fault Refusal :=
  live s (fxFabricWrite source.toNat Reg.COL_VOTE_RX (setBit value 41))

end Sys2Proof.Machine
end

