-- ==== Sys2Proof/Machine/Dispatch.lean ====
section
/-!
DEFINITION. Dispatch: one arm per command, each a direct call of the command's meaning.
-/

namespace Sys2Proof.Machine

/-- What a command does to everything but the queue. -/
def exec (i : Instr) (s : State) : Host.Outcome State Fault Refusal :=
  match i with
  | .registerWrite master addr size value => Sys2Proof.Machine.execRegisterWrite master addr size value s
  | .cmdMemoryAccess master dev write addr size data => Sys2Proof.Machine.execCmdMemoryAccess master dev write addr size data s
  | .nop ring => Sys2Proof.Machine.execNop ring s
  | .writeInline ring => Sys2Proof.Machine.execWriteInline ring s
  | .read8 ring => Sys2Proof.Machine.execRead8 ring s
  | .copy ring => Sys2Proof.Machine.execCopy ring s
  | .dmaChannelStart => Sys2Proof.Machine.execDmaChannelStart s
  | .copyComplete channel => Sys2Proof.Machine.execCopyComplete channel s
  | .load ring => Sys2Proof.Machine.execLoad ring s
  | .manifestFetchDone => Sys2Proof.Machine.execManifestFetchDone s
  | .initfetch => Sys2Proof.Machine.execInitfetch s
  | .loadComplete => Sys2Proof.Machine.execLoadComplete s
  | .start ring => Sys2Proof.Machine.execStart ring s
  | .unload ring => Sys2Proof.Machine.execUnload ring s
  | .zeroisationComplete => Sys2Proof.Machine.execZeroisationComplete s
  | .resetReq ring => Sys2Proof.Machine.execResetReq ring s
  | .quote ring => Sys2Proof.Machine.execQuote ring s
  | .cmdDbPi master src ring value => Sys2Proof.Machine.execCmdDbPi master src ring value s
  | .cmdDbCqh master src ring value => Sys2Proof.Machine.execCmdDbCqh master src ring value s
  | .ringEnable master ring value => Sys2Proof.Machine.execRingEnable master ring value s
  | .ringDisable master ring value => Sys2Proof.Machine.execRingDisable master ring value s
  | .ringDisabled ring => Sys2Proof.Machine.execRingDisabled ring s
  | .resume master src ring => Sys2Proof.Machine.execResume master src ring s
  | .stop master src ring => Sys2Proof.Machine.execStop master src ring s
  | .entryFetch ring => Sys2Proof.Machine.execEntryFetch ring s
  | .stampReread ring => Sys2Proof.Machine.execStampReread ring s
  | .stampTimeout ring => Sys2Proof.Machine.execStampTimeout ring s
  | .completionWrite ring index => Sys2Proof.Machine.execCompletionWrite ring index s
  | .cqfailRetry ring index => Sys2Proof.Machine.execCqfailRetry ring index s
  | .mbxSend master src channel value => Sys2Proof.Machine.execMbxSend master src channel value s
  | .mbxAck master src channel value => Sys2Proof.Machine.execMbxAck master src channel value s
  | .mbxDataWrite master src channel word value => Sys2Proof.Machine.execMbxDataWrite master src channel word value s
  | .mbxBindWrite master channel value => Sys2Proof.Machine.execMbxBindWrite master channel value s
  | .mbxLockWrite master => Sys2Proof.Machine.execMbxLockWrite master s
  | .slotStart die ctx => Sys2Proof.Machine.execSlotStart die ctx s
  | .slotBudgetExpire die ctx => Sys2Proof.Machine.execSlotBudgetExpire die ctx s
  | .slotComplete die ctx => Sys2Proof.Machine.execSlotComplete die ctx s
  | .backhaulSwitch die ctx => Sys2Proof.Machine.execBackhaulSwitch die ctx s
  | .backhaulReturn die ctx => Sys2Proof.Machine.execBackhaulReturn die ctx s
  | .admission die ctx => Sys2Proof.Machine.execAdmission die ctx s
  | .mbqAbort master die ctx value => Sys2Proof.Machine.execMbqAbort master die ctx value s
  | .abortRelease die ctx mb => Sys2Proof.Machine.execAbortRelease die ctx mb s
  | .mbqGateWrite master die ctx value => Sys2Proof.Machine.execMbqGateWrite master die ctx value s
  | .mbqCtxSelWrite master die value => Sys2Proof.Machine.execMbqCtxSelWrite master die value s
  | .ledgerReadFault ledger status => Sys2Proof.Machine.execLedgerReadFault ledger status s
  | .stepVoteReady => Sys2Proof.Machine.execStepVoteReady s
  | .stepCommit => Sys2Proof.Machine.execStepCommit s
  | .stepDiscard => Sys2Proof.Machine.execStepDiscard s
  | .ledResolveCommit master value => Sys2Proof.Machine.execLedResolveCommit master value s
  | .ledResolveDiscard master value => Sys2Proof.Machine.execLedResolveDiscard master value s
  | .ledSelWrite master value => Sys2Proof.Machine.execLedSelWrite master value s
  | .replicaRegister src shard => Sys2Proof.Machine.execReplicaRegister src shard s
  | .registerRetry ledger => Sys2Proof.Machine.execRegisterRetry ledger s
  | .registerReply ledger result header => Sys2Proof.Machine.execRegisterReply ledger result header s
  | .commitNotice notice => Sys2Proof.Machine.execCommitNotice notice s
  | .replicaFetchDone ledger => Sys2Proof.Machine.execReplicaFetchDone ledger s
  | .noticeRelease src shard => Sys2Proof.Machine.execNoticeRelease src shard s
  | .nopMe engine => Sys2Proof.Machine.execNopMe engine s
  | .cfg engine sel value => Sys2Proof.Machine.execCfg engine sel value s
  | .setx engine d imm => Sys2Proof.Machine.execSetx engine d imm s
  | .addx engine d src imm => Sys2Proof.Machine.execAddx engine d src imm s
  | .lea engine d space handle imm => Sys2Proof.Machine.execLea engine d space handle imm s
  | .addxx engine d src tx => Sys2Proof.Machine.execAddxx engine d src tx s
  | .lda engine t half x offset => Sys2Proof.Machine.execLda engine t half x offset s
  | .ldb engine t half x offset => Sys2Proof.Machine.execLdb engine t half x offset s
  | .lds engine half kind x offset => Sys2Proof.Machine.execLds engine half kind x offset s
  | .mma engine clr ah bh mask tile => Sys2Proof.Machine.execMma engine clr ah bh mask tile s
  | .drnPlain engine tile keep x xs offset => Sys2Proof.Machine.execDrnPlain engine tile keep x xs offset s
  | .drnAmax engine tile keep x xs offset => Sys2Proof.Machine.execDrnAmax engine tile keep x xs offset s
  | .drnQuant engine tile keep x xs offset => Sys2Proof.Machine.execDrnQuant engine tile keep x xs offset s
  | .drnTopk engine tile keep x xs offset => Sys2Proof.Machine.execDrnTopk engine tile keep x xs offset s
  | .drnTopkEmit engine tile keep x xs offset => Sys2Proof.Machine.execDrnTopkEmit engine tile keep x xs offset s
  | .waitm engine counter x => Sys2Proof.Machine.execWaitm engine counter x s
  | .advm engine counter imm => Sys2Proof.Machine.execAdvm engine counter imm s
  | .bar engine barrier => Sys2Proof.Machine.execBar engine barrier s
  | .loop engine l count target => Sys2Proof.Machine.execLoop engine l count target s
  | .jmp engine target => Sys2Proof.Machine.execJmp engine target s
  | .bnz engine x target => Sys2Proof.Machine.execBnz engine x target s
  | .endOp engine => Sys2Proof.Machine.execEndOp engine s
  | .mxIxSelWrite master engine value => Sys2Proof.Machine.execMxIxSelWrite master engine value s
  | .dspSubmit master die value => Sys2Proof.Machine.execDspSubmit master die value s
  | .dispatchRun die => Sys2Proof.Machine.execDispatchRun die s
  | .dispatchNotices die => Sys2Proof.Machine.execDispatchNotices die s
  | .dispatchComplete die => Sys2Proof.Machine.execDispatchComplete die s
  | .inboxNotice die inbox => Sys2Proof.Machine.execInboxNotice die inbox s
  | .inboxEmit die inbox position => Sys2Proof.Machine.execInboxEmit die inbox position s
  | .readfail die inbox position => Sys2Proof.Machine.execReadfail die inbox position s
  | .updTrigger master die value => Sys2Proof.Machine.execUpdTrigger master die value s
  | .updSkip master die value => Sys2Proof.Machine.execUpdSkip master die value s
  | .updSkipFail master die value => Sys2Proof.Machine.execUpdSkipFail master die value s
  | .updateStart die => Sys2Proof.Machine.execUpdateStart die s
  | .updateSlotClaim engine => Sys2Proof.Machine.execUpdateSlotClaim engine s
  | .updateWritten engine => Sys2Proof.Machine.execUpdateWritten engine s
  | .updateNonfinite engine => Sys2Proof.Machine.execUpdateNonfinite engine s
  | .updateAccessFail engine => Sys2Proof.Machine.execUpdateAccessFail engine s
  | .riscvInstruction core => Sys2Proof.Machine.execRiscvInstruction core s
  | .qsend core => Sys2Proof.Machine.execQsend core s
  | .qtry core => Sys2Proof.Machine.execQtry core s
  | .qfull core => Sys2Proof.Machine.execQfull core s
  | .qrecv core => Sys2Proof.Machine.execQrecv core s
  | .qtryrecv core => Sys2Proof.Machine.execQtryrecv core s
  | .qsel core => Sys2Proof.Machine.execQsel core s
  | .qscfg core => Sys2Proof.Machine.execQscfg core s
  | .madv core => Sys2Proof.Machine.execMadv core s
  | .mwait core => Sys2Proof.Machine.execMwait core s
  | .mread core => Sys2Proof.Machine.execMread core s
  | .barr core => Sys2Proof.Machine.execBarr core s
  | .dget core => Sys2Proof.Machine.execDget core s
  | .dset core => Sys2Proof.Machine.execDset core s
  | .dmask core => Sys2Proof.Machine.execDmask core s
  | .hres core => Sys2Proof.Machine.execHres core s
  | .slotend core => Sys2Proof.Machine.execSlotend core s
  | .remoteSendRetry send => Sys2Proof.Machine.execRemoteSendRetry send s
  | .synMadv master die value => Sys2Proof.Machine.execSynMadv master die value s
  | .quPeekSel master die value => Sys2Proof.Machine.execQuPeekSel master die value s
  | .replayrateWindow stack => Sys2Proof.Machine.execReplayrateWindow stack s
  | .memParThreshWrite master stack value => Sys2Proof.Machine.execMemParThreshWrite master stack value s
  | .holdcut sram index master => Sys2Proof.Machine.execHoldcut sram index master s
  | .portMask master masked => Sys2Proof.Machine.execPortMask master masked s
  | .offloadStart => Sys2Proof.Machine.execOffloadStart s
  | .offloadDone die ctx mb => Sys2Proof.Machine.execOffloadDone die ctx mb s
  | .prefetchStart die ctx mb => Sys2Proof.Machine.execPrefetchStart die ctx mb s
  | .prefetchDone die ctx mb => Sys2Proof.Machine.execPrefetchDone die ctx mb s
  | .oflfail die ctx mb => Sys2Proof.Machine.execOflfail die ctx mb s
  | .fetchfail die ctx mb => Sys2Proof.Machine.execFetchfail die ctx mb s
  | .dataFlit port flit => Sys2Proof.Machine.execDataFlit port flit s
  | .idleFlit port flit => Sys2Proof.Machine.execIdleFlit port flit s
  | .trainFlit port lane skew flit => Sys2Proof.Machine.execTrainFlit port lane skew flit s
  | .downFlit port flit => Sys2Proof.Machine.execDownFlit port flit s
  | .replayTimeout port => Sys2Proof.Machine.execReplayTimeout port s
  | .replayWindowEnd port => Sys2Proof.Machine.execReplayWindowEnd port s
  | .rxtimeout port => Sys2Proof.Machine.execRxtimeout port s
  | .laneSignalLoss port lane lost => Sys2Proof.Machine.execLaneSignalLoss port lane lost s
  | .laneLock port lane power => Sys2Proof.Machine.execLaneLock port lane power s
  | .trainTimeout port => Sys2Proof.Machine.execTrainTimeout port s
  | .holdoffExpire port => Sys2Proof.Machine.execHoldoffExpire port s
  | .downFlitEnd port => Sys2Proof.Machine.execDownFlitEnd port s
  | .lnkReset master port => Sys2Proof.Machine.execLnkReset master port s
  | .lnkDisable master port => Sys2Proof.Machine.execLnkDisable master port s
  | .lnkEnable master port => Sys2Proof.Machine.execLnkEnable master port s
  | .linkdownResend send => Sys2Proof.Machine.execLinkdownResend send s
  | .read port => Sys2Proof.Machine.execRead port s
  | .readSnoop port => Sys2Proof.Machine.execReadSnoop port s
  | .write port => Sys2Proof.Machine.execWrite port s
  | .swap port => Sys2Proof.Machine.execSwap port s
  | .cas port => Sys2Proof.Machine.execCas port s
  | .add port => Sys2Proof.Machine.execAdd port s
  | .andOp port => Sys2Proof.Machine.execAndOp port s
  | .orOp port => Sys2Proof.Machine.execOrOp port s
  | .xorOp port => Sys2Proof.Machine.execXorOp port s
  | .minOp port => Sys2Proof.Machine.execMinOp port s
  | .maxOp port => Sys2Proof.Machine.execMaxOp port s
  | .minu port => Sys2Proof.Machine.execMinu port s
  | .maxu port => Sys2Proof.Machine.execMaxu port s
  | .message port => Sys2Proof.Machine.execMessage port s
  | .doorbell port => Sys2Proof.Machine.execDoorbell port s
  | .response port => Sys2Proof.Machine.execResponse port s
  | .packetForward port => Sys2Proof.Machine.execPacketForward port s
  | .responseTimeout tag => Sys2Proof.Machine.execResponseTimeout tag s
  | .quarantineEnd tag => Sys2Proof.Machine.execQuarantineEnd tag s
  | .colSubmit master value => Sys2Proof.Machine.execColSubmit master value s
  | .collectiveStart => Sys2Proof.Machine.execCollectiveStart s
  | .segmentWritten source value => Sys2Proof.Machine.execSegmentWritten source value s
  | .slotFreed source value => Sys2Proof.Machine.execSlotFreed source value s
  | .permuteSent source value => Sys2Proof.Machine.execPermuteSent source value s
  | .colRxRetry send => Sys2Proof.Machine.execColRxRetry send s
  | .collectiveComplete coll => Sys2Proof.Machine.execCollectiveComplete coll s
  | .ringTmo coll => Sys2Proof.Machine.execRingTmo coll s
  | .permuteSendDone coll => Sys2Proof.Machine.execPermuteSendDone coll s
  | .permuteTimeout coll => Sys2Proof.Machine.execPermuteTimeout coll s
  | .permuteLandDone coll => Sys2Proof.Machine.execPermuteLandDone coll s
  | .upVote source value => Sys2Proof.Machine.execUpVote source value s
  | .voteOutcome source value => Sys2Proof.Machine.execVoteOutcome source value s
  | .voteTimeout => Sys2Proof.Machine.execVoteTimeout s
  | .colVoteCfgWrite master value => Sys2Proof.Machine.execColVoteCfgWrite master value s
  | .periodStart => Sys2Proof.Machine.execPeriodStart s
  | .tariffRound die => Sys2Proof.Machine.execTariffRound die s
  | .bidReceive receiver src round bid => Sys2Proof.Machine.execBidReceive receiver src round bid s
  | .grantCompute die => Sys2Proof.Machine.execGrantCompute die s
  | .grantReceive die grant => Sys2Proof.Machine.execGrantReceive die grant s
  | .roundEnd die => Sys2Proof.Machine.execRoundEnd die s
  | .avsSettle die => Sys2Proof.Machine.execAvsSettle die s
  | .avsfail die => Sys2Proof.Machine.execAvsfail die s
  | .porNAssert => Sys2Proof.Machine.execPorNAssert s
  | .porNDeassert straps a1 a2 b1 b2 => Sys2Proof.Machine.execPorNDeassert straps a1 a2 b1 b2 s
  | .resetNAssert => Sys2Proof.Machine.execResetNAssert s
  | .resetNDeassert a1 a2 b1 b2 stacksOk => Sys2Proof.Machine.execResetNDeassert a1 a2 b1 b2 stacksOk s
  | .bootComplete flash cfg => Sys2Proof.Machine.execBootComplete flash cfg s
  | .thermalTrip cause => Sys2Proof.Machine.execThermalTrip cause s
  | .refclkLoss ref => Sys2Proof.Machine.execRefclkLoss ref s
  | .flashOwnN => Sys2Proof.Machine.execFlashOwnN s
  | .secLockWrite master => Sys2Proof.Machine.execSecLockWrite master s
  | .bypass => Sys2Proof.Machine.execBypass s
  | .idcode => Sys2Proof.Machine.execIdcode s
  | .samplePreload pins preload => Sys2Proof.Machine.execSamplePreload pins preload s
  | .extest pins drive => Sys2Proof.Machine.execExtest pins drive s
  | .dbgToken token => Sys2Proof.Machine.execDbgToken token s
  | .dbgAccess addr write data => Sys2Proof.Machine.execDbgAccess addr write data s
  | .cgtOpen master => Sys2Proof.Machine.execCgtOpen master s
  | .guestRead packet => Sys2Proof.Machine.execGuestRead packet s
  | .guestWrite packet => Sys2Proof.Machine.execGuestWrite packet s
  | .guestAtomic packet => Sys2Proof.Machine.execGuestAtomic packet s
  | .guestResponse packet => Sys2Proof.Machine.execGuestResponse packet s
  | .guestTimeout => Sys2Proof.Machine.execGuestTimeout s
  | .guestLinkDown => Sys2Proof.Machine.execGuestLinkDown s
  | .errConsWrite master log value => Sys2Proof.Machine.execErrConsWrite master log value s
  | .errFirstClr master log => Sys2Proof.Machine.execErrFirstClr master log s
  | .demClear master die ctx => Sys2Proof.Machine.execDemClear master die ctx s
  | .sidebandPart => Sys2Proof.Machine.execSidebandPart s
  | .sidebandReset => Sys2Proof.Machine.execSidebandReset s
  | .temps => Sys2Proof.Machine.execTemps s
  | .power => Sys2Proof.Machine.execPower s
  | .budgetRead => Sys2Proof.Machine.execBudgetRead s
  | .budgetWrite value => Sys2Proof.Machine.execBudgetWrite value s
  | .errors => Sys2Proof.Machine.execErrors s
  | .trip => Sys2Proof.Machine.execTrip s
  | .guestLinkTrained => Sys2Proof.Machine.execGuestLinkTrained s
  | .refclkReturn ref => Sys2Proof.Machine.execRefclkReturn ref s
  | .flashOwnNRelease => Sys2Proof.Machine.execFlashOwnNRelease s
  | .demurrageOverflow die ctx counter => Sys2Proof.Machine.execDemurrageOverflow die ctx counter s
  | .trstN low => Sys2Proof.Machine.execTrstN low s
  | .dynamicAddress addr => Sys2Proof.Machine.execDynamicAddress addr s

end Sys2Proof.Machine
end

