-- ==== Sys2Proof/Safety.lean ====
section
/-!
DEFINITION. What a safe run of the block keeps, in the terms that claims use: the stores stay canonical, so that equal contents
are equal data; no command is left half applied.
-/

namespace Sys2Proof.Machine

/-- Memory and the register store are in their canonical form, and no command's writes are outstanding. -/
abbrev State.Canonical (s : State) : Prop := Memory.wf s.mem = true ∧ Regs.wf s.regs = true ∧ s.jnl = []

end Sys2Proof.Machine
end

