-- ==== Sys2Proof/WellFormed.lean ====
section
/-!
DEFINITION. Well-formed commands: operands that the types admit and that no sender of the block can produce are refused here. The
meanings are total and do not depend on it.
-/

namespace Sys2Proof

/-- A flit has 256 bytes (R315). -/
def flitFormed (f : List Byte) : Bool := f.length == 256

/-- A packet has a 32-byte header at least, and at most a header and 2 KiB of data (R339, R340). -/
def packetFormed (p : List Byte) : Bool := decide (32 ≤ p.length) && decide (p.length ≤ 32 + 4096)

/-- The operands of a command are ones that a sender can produce. -/
def Instr.wf (i : Instr) : Bool :=
  match i with
  | .registerWrite _ _ size _ => decide (1 ≤ size) && decide (size ≤ 8)
  | .cmdMemoryAccess _ _ wr _ size data => decide (1 ≤ size) && (if wr then data.length == size else data.isEmpty)
  | .copyComplete channel => decide (channel.toNat < 3)
  | .cfg _ sel _ => decide (sel.toNat ≤ 2)
  | .lds _ _ kind _ _ => decide (kind.toNat ≤ 2)
  | .loop _ _ count _ => decide (1 ≤ count.toNat)
  | .advm _ _ imm => decide (1 ≤ imm.toNat)
  | .commitNotice notice => notice.length == 32
  | .dataFlit _ flit => flitFormed flit
  | .idleFlit _ flit => flitFormed flit
  | .trainFlit _ _ _ flit => flitFormed flit
  | .downFlit _ flit => flitFormed flit
  | .guestRead packet => packetFormed packet
  | .guestWrite packet => packetFormed packet
  | .guestAtomic packet => packetFormed packet
  | .guestResponse packet => packetFormed packet
  | .dbgToken token => token.length == 168
  | .bidReceive receiver _ _ _ => decide (receiver.toNat ≤ 4)
  | .errConsWrite _ log _ => decide (log.toNat ≤ 4)
  | .errFirstClr _ log => decide (log.toNat ≤ 4)
  | .demurrageOverflow _ _ counter => decide (counter.toNat ≤ 8)
  | .holdcut sram index _ => !sram || decide (index.toNat ≤ 3)
  | .thermalTrip cause => decide (1 ≤ cause.toNat)
  | .nop .. => true
  | .writeInline .. => true
  | .read8 .. => true
  | .copy .. => true
  | .dmaChannelStart => true
  | .load .. => true
  | .manifestFetchDone => true
  | .initfetch => true
  | .loadComplete => true
  | .start .. => true
  | .unload .. => true
  | .zeroisationComplete => true
  | .resetReq .. => true
  | .quote .. => true
  | .cmdDbPi .. => true
  | .cmdDbCqh .. => true
  | .ringEnable .. => true
  | .ringDisable .. => true
  | .ringDisabled .. => true
  | .resume .. => true
  | .stop .. => true
  | .entryFetch .. => true
  | .stampReread .. => true
  | .stampTimeout .. => true
  | .completionWrite .. => true
  | .cqfailRetry .. => true
  | .mbxSend .. => true
  | .mbxAck .. => true
  | .mbxDataWrite .. => true
  | .mbxBindWrite .. => true
  | .mbxLockWrite .. => true
  | .slotStart .. => true
  | .slotBudgetExpire .. => true
  | .slotComplete .. => true
  | .backhaulSwitch .. => true
  | .backhaulReturn .. => true
  | .admission .. => true
  | .mbqAbort .. => true
  | .abortRelease .. => true
  | .mbqGateWrite .. => true
  | .mbqCtxSelWrite .. => true
  | .ledgerReadFault .. => true
  | .stepVoteReady => true
  | .stepCommit => true
  | .stepDiscard => true
  | .ledResolveCommit .. => true
  | .ledResolveDiscard .. => true
  | .ledSelWrite .. => true
  | .replicaRegister .. => true
  | .registerRetry .. => true
  | .registerReply .. => true
  | .replicaFetchDone .. => true
  | .noticeRelease .. => true
  | .nopMe .. => true
  | .setx .. => true
  | .addx .. => true
  | .lea .. => true
  | .addxx .. => true
  | .lda .. => true
  | .ldb .. => true
  | .mma .. => true
  | .drnPlain .. => true
  | .drnAmax .. => true
  | .drnQuant .. => true
  | .drnTopk .. => true
  | .drnTopkEmit .. => true
  | .waitm .. => true
  | .bar .. => true
  | .jmp .. => true
  | .bnz .. => true
  | .endOp .. => true
  | .mxIxSelWrite .. => true
  | .dspSubmit .. => true
  | .dispatchRun .. => true
  | .dispatchNotices .. => true
  | .dispatchComplete .. => true
  | .inboxNotice .. => true
  | .inboxEmit .. => true
  | .readfail .. => true
  | .updTrigger .. => true
  | .updSkip .. => true
  | .updSkipFail .. => true
  | .updateStart .. => true
  | .updateSlotClaim .. => true
  | .updateWritten .. => true
  | .updateNonfinite .. => true
  | .updateAccessFail .. => true
  | .riscvInstruction .. => true
  | .qsend .. => true
  | .qtry .. => true
  | .qfull .. => true
  | .qrecv .. => true
  | .qtryrecv .. => true
  | .qsel .. => true
  | .qscfg .. => true
  | .madv .. => true
  | .mwait .. => true
  | .mread .. => true
  | .barr .. => true
  | .dget .. => true
  | .dset .. => true
  | .dmask .. => true
  | .hres .. => true
  | .slotend .. => true
  | .remoteSendRetry .. => true
  | .synMadv .. => true
  | .quPeekSel .. => true
  | .replayrateWindow .. => true
  | .memParThreshWrite .. => true
  | .portMask .. => true
  | .offloadStart => true
  | .offloadDone .. => true
  | .prefetchStart .. => true
  | .prefetchDone .. => true
  | .oflfail .. => true
  | .fetchfail .. => true
  | .replayTimeout .. => true
  | .replayWindowEnd .. => true
  | .rxtimeout .. => true
  | .laneSignalLoss .. => true
  | .laneLock .. => true
  | .trainTimeout .. => true
  | .holdoffExpire .. => true
  | .downFlitEnd .. => true
  | .lnkReset .. => true
  | .lnkDisable .. => true
  | .lnkEnable .. => true
  | .linkdownResend .. => true
  | .read .. => true
  | .readSnoop .. => true
  | .write .. => true
  | .swap .. => true
  | .cas .. => true
  | .add .. => true
  | .andOp .. => true
  | .orOp .. => true
  | .xorOp .. => true
  | .minOp .. => true
  | .maxOp .. => true
  | .minu .. => true
  | .maxu .. => true
  | .message .. => true
  | .doorbell .. => true
  | .response .. => true
  | .packetForward .. => true
  | .responseTimeout .. => true
  | .quarantineEnd .. => true
  | .colSubmit .. => true
  | .collectiveStart => true
  | .segmentWritten .. => true
  | .slotFreed .. => true
  | .permuteSent .. => true
  | .colRxRetry .. => true
  | .collectiveComplete .. => true
  | .ringTmo .. => true
  | .permuteSendDone .. => true
  | .permuteTimeout .. => true
  | .permuteLandDone .. => true
  | .upVote .. => true
  | .voteOutcome .. => true
  | .voteTimeout => true
  | .colVoteCfgWrite .. => true
  | .periodStart => true
  | .tariffRound .. => true
  | .grantCompute .. => true
  | .grantReceive .. => true
  | .roundEnd .. => true
  | .avsSettle .. => true
  | .avsfail .. => true
  | .porNAssert => true
  | .porNDeassert .. => true
  | .resetNAssert => true
  | .resetNDeassert .. => true
  | .bootComplete .. => true
  | .refclkLoss .. => true
  | .flashOwnN => true
  | .secLockWrite .. => true
  | .bypass => true
  | .idcode => true
  | .samplePreload .. => true
  | .extest .. => true
  | .dbgAccess .. => true
  | .cgtOpen .. => true
  | .guestTimeout => true
  | .guestLinkDown => true
  | .demClear .. => true
  | .sidebandPart => true
  | .sidebandReset => true
  | .temps => true
  | .power => true
  | .budgetRead => true
  | .budgetWrite .. => true
  | .errors => true
  | .trip => true
  | .guestLinkTrained => true
  | .refclkReturn .. => true
  | .flashOwnNRelease => true
  | .trstN .. => true
  | .dynamicAddress .. => true

end Sys2Proof
end

