-- ==== Sys2Proof/Certificates/Slice0/Obligations.lean ====
section
/-!
DEFINITION. The statements for the provers. A statement about a command says that `exec` answers a next state, and what that state
holds, for every state that meets the hypotheses; `Canonical` is the invariant of StepKeepsCanonical. Clauses that rest on a
choice of the model name the log entry.
-/

open Sys2Proof Sys2Proof.Machine

/-! ### The block -/

/-- A step on a queue with a command at its front is that command's meaning on the state with the queue's rest. The queue is
the model's own field, and that commands come to run in its order is the model's choice (log entries 1, 11). -/
def Obligations.StepRunsFront : Prop :=
  ∀ (c : Instr) (cs : List Instr) (s : State), s.pending = c :: cs → step s = exec c { s with pending := cs }

/-- A step on an empty queue is one tick (the model's choice, log entry 1). For a live device the tick's counters are counted
and the local cycle count advances by 1 (R409); then the entries of the cycle that has ended are written, as many of each log
as it has (R455); then the next cycle's traffic runs: the guest's responses go out, and a reset request that is due resets
the device and keeps the count (R440, R445). While POR_N holds the device in reset nothing changes; after a trip, or while
RESET_N holds it, only the local cycle count advances, by 1 (R409, R484). After a boot that stopped in step 2 the count
advances by 1 too, and the error log is written (log entry 56). -/
def Obligations.IdleStepTicks : Prop :=
  ∀ s : State, s.pending = [] →
    step s = .next s.tick
    ∧ (s.Live → s.Canonical → s.stuck = false →
      let u := ({ s with jnl := [] } : State).cycleEnd
      s.tick = s.commit u.errFlush.cycleStart ∧ s.tick.now = s.now + 1
      ∧ u.now = s.now + 1 ∧ u.errBuf = s.errBuf ∧ (∀ a, u.byte a = s.byte a) ∧ (∀ k < 5, u.rd (Reg.ERR_PROD k) = s.rd (Reg.ERR_PROD k))
      ∧ (s.resetReq = none → ∀ b ∈ s.guestResp, .guest b ∈ s.tick.out)
      ∧ ∀ r seq due, s.resetReq = some (r, seq, due) → due ≤ s.now + 1 → s.tick.held = true ∧ s.tick.resetLow = true
        ∧ bits (s.tick.rd Reg.RST_STATUS) 2 0 = 3 ∧ s.tick.rd Reg.RST_TIME = w (s.now + 1))
    ∧ (∀ k < 5, (s.rd (Reg.ERR_PROD k)).toNat + s.errBuf.length < 2 ^ 64 →
      (s.errFlush.rd (Reg.ERR_PROD k)).toNat = (s.rd (Reg.ERR_PROD k)).toNat + (s.errBuf.filter fun e => e.log = k).length)
    ∧ (s.stuck = false → s.held = true → s.resetLow = false → s.tick = s)
    ∧ (s.tripped = true → s.held = false → s.tick = { s with now := s.now + 1 })
    ∧ (s.stuck = false → s.held = true → s.resetLow = true → s.tick = { s with now := s.now + 1 })
    ∧ (s.stuck = true → s.tripped = false → s.tick = s.commit ({ s with jnl := [], now := s.now + 1 } : State).errFlush)

/-- The state right after reset is canonical, and its queue is empty. -/
def Obligations.ResetCanonical : Prop := State.reset.Canonical ∧ State.reset.pending = []

/-- Every step keeps memory and the register store in canonical form and leaves no write outstanding. -/
def Obligations.StepKeepsCanonical : Prop :=
  ∀ s t : State, s.Canonical → step s = .next t → t.Canonical

/-- No command changes the queue of the commands that wait behind it. The queue is the model's own field (log entries 1, 11).
-/
def Obligations.CommandsKeepQueue : Prop :=
  ∀ (c : Instr) (s t : State), exec c s = .next t → t.pending = s.pending

/-- After a thermal trip every command stops with the fault afterTrip, but for POR_N_ASSERT and the sideband's TRIP, which
answer a next state (R421 and R484 define nothing more; the stop is the model's). No command is refused, and no command stops
a block that has not tripped (ordinary data end no run). -/
def Obligations.CommandOutcomes : Prop :=
  (∀ (c : Instr) (s : State), s.tripped = true →
     (c ≠ .porNAssert → c ≠ .trip → exec c s = .fault .afterTrip)
     ∧ (c = .porNAssert ∨ c = .trip → ∃ t, exec c s = .next t))
  ∧ (∀ (c : Instr) (s : State), (∀ r, exec c s ≠ .refused r) ∧ (s.tripped = false → ∃ t, exec c s = .next t))

/-- Commands that act while the device is held in reset: pins, the reference clocks, the TAP, and the sideband's answers. -/
def Sys2Proof.Claim.actsInReset : Instr → Bool
  | .porNAssert | .porNDeassert .. | .resetNAssert | .resetNDeassert .. | .thermalTrip .. | .flashOwnN | .flashOwnNRelease
  | .refclkLoss .. | .refclkReturn .. | .trstN .. | .bypass | .idcode | .samplePreload .. | .extest .. | .dbgToken ..
    | .dbgAccess .. | .sidebandPart
  | .sidebandReset | .temps | .power | .budgetRead | .budgetWrite .. | .errors | .trip => true
  | _ => false

/-- While POR_N or RESET_N holds the device in reset, every other command has no effect: the model's choice, since no rule
says what an access to the device then does (log entry 13). -/
def Obligations.ResetHoldsCommands : Prop :=
  ∀ (c : Instr) (s : State), s.tripped = false → s.held = true → Claim.actsInReset c = false → exec c s = .next s

/-! ### Registers -/

/-- A register access that is not naturally aligned, or that is narrower than 32 or wider than 64 bits, completes with
MISALIGN and has no effect: the write as a command leaves all of State but its answer, and a read leaves the state (R7). -/
def Obligations.MisalignedRegisterAccess : Prop :=
  (∀ (m : BitVec 8) (a : BitVec 46) (n : Nat) (v : Word) (s : State), s.Live → s.Canonical →
    (∃ d off, placeOf a.toNat = .ctl d off) → ¬((n = 4 ∨ n = 8) ∧ a.toNat % n = 0) →
    exec (.registerWrite m a n v) s = .next { s with out := s.out ++ [.access St.misalign 0] })
  ∧ (∀ (m src a n : Nat) (s : State), ¬((n = 4 ∨ n = 8) ∧ a % n = 0) → s.regRead m src a n = (St.misalign, [], s))
  ∧ ∀ (m src a d off : Nat) (bs : List Byte) (s : State), placeOf a = .ctl d off →
    ¬((bs.length = 4 ∨ bs.length = 8) ∧ a % bs.length = 0) → s.busWrite m src a bs = (St.misalign, s)

/-- An access outside every range of the address map completes with UNMAPPED, or with GATEDENY where it reaches into a guest
window that its master may not reach, which R13 puts first; an aligned access to an offset of a control space that holds no
register reads as zero and ignores writes (R8; the debug path's own limits are R477's). -/
def Obligations.UnmappedAccess : Prop :=
  (∀ (m : BitVec 8) (a : BitVec 46) (n : Nat) (v : Word) (s : State), s.Live → s.Canonical → placeOf a.toNat = .none →
    (inGuest (a.toNat + (n - 1)) = false →
      exec (.registerWrite m a n v) s = .next { s with out := s.out ++ [.access St.unmapped 0] })
    ∧ (inGuest (a.toNat + (n - 1)) = true → s.guestReach m.toNat = false →
      exec (.registerWrite m a n v) s = .next { s with out := s.out ++ [.access St.gatedeny 0] }))
  ∧ (∀ (m src a n : Nat) (bs : List Byte) (s : State), placeOf a = .none → bs.length = n →
    (inGuest (a + (n - 1)) = false → s.busRead m src a n = (St.unmapped, [], s) ∧ s.busWrite m src a bs = (St.unmapped, s))
    ∧ (inGuest (a + (n - 1)) = true → s.guestReach m = false →
      s.busRead m src a n = (St.gatedeny, [], s) ∧ s.busWrite m src a bs = (St.gatedeny, s)))
  ∧ (∀ (m : BitVec 8) (a : BitVec 46) (n : Nat) (v : Word) (s : State), s.Live → s.Canonical →
    (∃ d off, placeOf a.toNat = .ctl d off) → (n = 4 ∨ n = 8) → a.toNat % n = 0 → m ≠ 0xE4 → regFind a.toNat = none →
    exec (.registerWrite m a n v) s = .next { s with out := s.out ++ [.access St.ok 0] })
  ∧ ∀ (m src a d off : Nat) (bs : List Byte) (s : State), placeOf a = .ctl d off → (bs.length = 4 ∨ bs.length = 8) →
    a % bs.length = 0 → m ≠ 0xE4 → regFind a = none →
    s.busRead m src a bs.length = (St.ok, zeroBytes bs.length, s) ∧ s.busWrite m src a bs = (St.ok, s)

/-- The registers whose writes do more than store fields: other statements say what they do. -/
def Sys2Proof.Claim.ownEffect (r : RegName) : Bool :=
  [RegName.CAD_CTL, .CAD_LAG_MAX, .CAD_LAG_BOUND, .CAD_END, .CAD_EVT, .CAD_EVT_EN, .MBQ_GATE, .MBQ_ABORT, .MBQ_CTX_SEL,
    .MBQ_POOL_PEAK, .LED_RESOLVE, .LED_SEL, .MX_IX_SEL, .DSP_SUBMIT, .DSP_IBX_CFG, .UPD_TRIGGER, .QU_PEEK_SEL, .SYN_MADV,
    .MEM_PAR_THRESH, .COL_SUBMIT, .COL_VOTE_CFG, .COL_RX, .COL_VOTE_RX, .CMD_RING_CFG, .CMD_CQ_BASE, .CMD_CQ_CFG, .CMD_DB_PI,
    .CMD_DB_CQH, .CMD_RING_CTL, .MBX_DATA, .MBX_SEND, .MBX_ACK, .MBX_BIND, .MBX_NOTIFY, .MBX_LOCK, .LNK_CTL, .LNK_CR_SIZE,
    .RTE_GROUP, .RTE_MEMBER, .RTE_SELF, .LNK_CFG, .FAB_TAG_CFG, .SEC_LOCK, .SEC_CTRL_ID, .SEC_CTRL_KEY, .CGT_CFG, .CGT_WIN_BASE,
    .CGT_WIN_LIMIT, .CGT_CTL, .ERR_CONS, .ERR_FIRST_CLR, .DEM_CTL, .PKM_GUEST].contains r

/-- REGISTER_WRITE of a register whose writes only store fields, of 8 bytes or of one half, by a master that may write it: an
RW bit that the write reaches takes the value written, a W1C bit is cleared by a 1, and every other bit, of the half not
written too, stays; when the result leaves a field's range, nothing changes; either way the write completes with OK (R6, R9,
R485, R486). A read-only register is not changed. A W1S register keeps what was set: SEC_LOCK, and MBX_LOCK, whose writes
complete with DENIED once it is set (R400). A write-only register reads as zero. A write by job software outside READY and
RUNNING of a register that it may write then has no effect, a write of a register that only management cores may write
completes with DENIED and has no effect, and so does one of a package-manager register other than PKM_EVT and PKM_EVT_EN,
read-only or not (R428). -/
def Obligations.RegisterWrites : Prop :=
  (∀ (m : BitVec 8) (a : BitVec 46) (n : Nat) (v : Word) (s : State) (h : RegHit) (d off : Nat), s.Live → s.Canonical →
    placeOf a.toNat = .ctl d off → regFind a.toNat = some h → (n = 4 ∨ n = 8) → a.toNat % n = 0 → m ≠ 0xE4 →
    let r := h.addr a.toNat
    let lo := 8 * h.byte
    let given (i : Nat) := lo ≤ i ∧ i < lo + 8 * n
    let may := h.row.writer ≠ .ro ∧ h.row.writer ≠ .colRx
      ∧ (isMgmt m.toNat = true ∨ h.row.writer = .anyone ∨ h.row.writer = .jobRR ∧ s.jobOn = true
        ∨ h.row.writer = .jobReady ∧ s.jobState = 2)
    let kept := exec (.registerWrite m a n v) s = .next { s with out := s.out ++ [.access St.ok 0] }
    let denied := exec (.registerWrite m a n v) s = .next { s with out := s.out ++ [.access St.denied 0] }
    let pkm := [RegName.PKM_BUDGET, .PKM_GUEST, .PKM_CEIL, .PKM_WEIGHT, .PKM_GRANT, .PKM_POOL, .PKM_POWER, .PKM_PERIODS]
    (may → Claim.ownEffect h.row.name = false → (stageReg h.row.name = true → s.ctxValid (h.i 0) (h.i 1) = true) →
      ∃ (t : State) (x : Word), exec (.registerWrite m a n v) s = .next t
        ∧ (∀ i < 64, bit x i = if given i ∧ h.row.rw.testBit i = true then bit v (i - lo)
            else bit (s.rd r) i && !(decide (given i) && h.row.w1c.testBit i && bit v (i - lo)))
        ∧ t.rd r = (if h.row.inRange x = true then x else s.rd r)
        ∧ t.out = s.out ++ [.access St.ok 0] ∧ (∀ b, b ≠ r → t.rd b = s.rd b) ∧ ∀ b, t.byte b = s.byte b)
    ∧ (may → stageReg h.row.name = true → s.ctxValid (h.i 0) (h.i 1) = false → kept)
    ∧ (isMgmt m.toNat = true → h.row.writer = .ro → (h.row.name = .MBX_STATUS → s.mbxValid (h.i 0) = true) → kept)
    ∧ (isMgmt m.toNat = true → h.row.name = .SEC_LOCK ∨ h.row.name = .MBX_LOCK ∧ bit (s.rd r) 0 = false →
      ∃ t, exec (.registerWrite m a n v) s = .next t ∧ (∀ i < 64, bit (t.rd r) i
          = (bit (s.rd r) i || decide (i = 0) && decide (given 0) && bit v 0))
        ∧ (∀ b, b ≠ r → t.rd b = s.rd b) ∧ ∀ b, t.byte b = s.byte b)
    ∧ (h.row.name = .MBX_LOCK → bit (s.rd r) 0 = true → denied)
    ∧ (isMgmt m.toNat = true → writeOnly h.row.name = true →
      (h.row.name = .MBX_SEND ∨ h.row.name = .MBX_ACK → s.mbxValid (h.i 0) = true) →
        ∀ src, s.regRead m.toNat src a.toNat n = (St.ok, zeroBytes n, s))
    ∧ (isMgmt m.toNat = false →
      (h.row.writer = .jobRR → h.row.name ≠ .LED_RESOLVE → s.jobOn = false → kept)
      ∧ (h.row.writer = .mgmt ∨ h.row.name ∈ pkm → denied)))

/-- Registers of the hub right after reset, as their tables state them. -/
def Obligations.ResetRegisters : Prop :=
  State.reset.rd Reg.ID_JOB_STATE = 0 ∧ State.reset.rd Reg.RST_STATUS = 0x101 ∧ State.reset.rd Reg.CMD_CFG = 0x2710
  ∧ State.reset.rd Reg.FAB_TMO = 0x186A0000186A0 ∧ State.reset.rd Reg.FAB_TAG_CFG = 0x100 ∧ State.reset.rd Reg.RTE_PORT_EN = 0xFFFF
  ∧ State.reset.rd Reg.PKM_BUDGET = 2400 ∧ State.reset.rd Reg.PKM_WEIGHT = 0x1010101 ∧ State.reset.rd Reg.CGT_CFG = 0x271000000040
  ∧ (∀ p < 16, State.reset.rd (Reg.LNK_CFG p) = 0x3E80000000B ∧ State.reset.rd (Reg.LNK_TMO p) = 0x271000000190)
  ∧ (∀ n < 4, State.reset.rd (Reg.DSP_STATUS n) = 0x40 ∧ State.reset.rd (Reg.GOV_CFG n) = 0x185F0050)
  ∧ ∀ r < 16, State.reset.rd (Reg.CMD_RING_STATUS r) = 0 ∧ State.reset.rd (Reg.CMD_RING_EVT_EN r) = 0x1F

/-! ### Command rings -/

/-- RING_ENABLE: firmware sets EN of a ring whose EN is 0. Indices, completion counts and the ring's counter become 0, each
slot j is written with STAMP (j − 32) modulo 2³² and every other byte zero, no byte outside the ring's 8 KiB changes, and the
ring is STOPPED (R384, R386, R405). RING_DISABLE clears EN: the ring is closing, so that ENTRY_FETCH of it has no effect, and
RING_DISABLED puts it in DISABLED once nothing is in flight (R386). -/
def Obligations.RingEnableDisable : Prop :=
  (∀ (m : BitVec 8) (r : BitVec 4) (v : Word) (s : State), s.Live → s.Canonical → isMgmt m.toNat = true →
    bit (s.rd (Reg.CMD_RING_CFG r.toNat)) 63 = false →
    ∃ t, exec (.ringEnable m r v) s = .next t
      ∧ bit (t.rd (Reg.CMD_RING_CFG r.toNat)) 63 = true ∧ bits (t.rd (Reg.CMD_RING_CFG r.toNat)) 18 0 = bits v 18 0
      ∧ t.ringPI r.toNat = 0 ∧ t.ringCI r.toNat = 0 ∧ t.rd (Reg.CMD_CQ_PTR r.toNat) = 0 ∧ t.rd (Reg.CMD_RING_CNT r.toNat) = 0
      ∧ t.ringState r.toNat = 1
      ∧ (∀ j < 32, t.rawNat (slotAddr r.toNat j) 4 = (j + 2 ^ 32 - 32) % 2 ^ 32
        ∧ ∀ k, 4 ≤ k → k < 256 → t.byte (slotAddr r.toNat j + k) = 0)
      ∧ ∀ a, a < slotAddr r.toNat 0 ∨ slotAddr r.toNat 0 + 0x2000 ≤ a → t.byte a = s.byte a)
  ∧ (∀ (m : BitVec 8) (r : BitVec 4) (v : Word) (s : State), s.Live → s.Canonical → isMgmt m.toNat = true →
    bit (s.rd (Reg.CMD_RING_CFG r.toNat)) 63 = true → s.ringState r.toNat ≠ 0 →
    ∃ t, exec (.ringDisable m r v) s = .next t ∧ bit (t.rd (Reg.CMD_RING_CFG r.toNat)) 63 = false
      ∧ (t.ring r.toNat).closing = true ∧ (t.ring r.toNat).ops = (s.ring r.toNat).ops
      ∧ exec (.entryFetch r) t = .next t)
  ∧ ∀ (r : BitVec 4) (s : State), s.Live → s.Canonical → (s.ring r.toNat).closing = true → (s.ring r.toNat).ops = [] →
    ∃ t, exec (.ringDisabled r) s = .next t ∧ t.ringState r.toNat = 0 ∧ ∀ a, t.byte a = s.byte a

/-- CMD_DB_PI by the ring's owner or a management core, with EN set. P is taken when (P − PI) modulo 2³² lies in 1 to 2³¹ − 1
and P is at most CI + 32; a stale P is ignored; a P beyond the ring sets OVERRUN and is ignored (R390). -/
def Obligations.DoorbellProducer : Prop :=
  ∀ (m : BitVec 8) (src : BitVec 18) (r : BitVec 4) (v : Word) (s : State), s.Live → s.Canonical → m ≠ 0xE4 →
    s.ringParty r.toNat m.toNat src.toNat = true → bit (s.rd (Reg.CMD_RING_CFG r.toNat)) 63 = true →
    let p := bits v 31 0
    let d := ixDiff p (s.ringPI r.toNat)
    (1 ≤ d → d < 2 ^ 31 → ixDiff p (s.ringCI r.toNat) ≤ 32 →
      ∃ t, exec (.cmdDbPi m src r v) s = .next t ∧ t.ringPI r.toNat = p ∧ t.ringCI r.toNat = s.ringCI r.toNat
        ∧ (∀ a, a ≠ Reg.CMD_RING_IDX r.toNat → t.rd a = s.rd a) ∧ ∀ a, t.byte a = s.byte a)
    ∧ (d = 0 ∨ 2 ^ 31 ≤ d → exec (.cmdDbPi m src r v) s = .next { s with out := s.out ++ [.access St.ok 0] })
    ∧ (1 ≤ d → d < 2 ^ 31 → 32 < ixDiff p (s.ringCI r.toNat) →
      ∃ t, exec (.cmdDbPi m src r v) s = .next t ∧ bit (t.rd (Reg.CMD_RING_EVT r.toNat)) 1 = true
        ∧ (∀ a, a ≠ Reg.CMD_RING_EVT r.toNat → t.rd a = s.rd a) ∧ ∀ a, t.byte a = s.byte a)

/-- CMD_DB_CQH by the ring's owner or a management core, with EN set. The device ignores H when (H − head) modulo 2³² is 0 or
lies in 2³¹ to 2³² − 1; it ignores H and sets OVERRUN when H is beyond the completions written; otherwise the head becomes H.
When w − head equals S, a COMPLETION_WRITE writes nothing: the finished operation stays in flight and waits, and CQWAIT is
set once per wait (R398). -/
def Obligations.DoorbellCompletionHead : Prop :=
  (∀ (m : BitVec 8) (src : BitVec 18) (r : BitVec 4) (v : Word) (s : State), s.Live → s.Canonical → m ≠ 0xE4 →
    s.ringParty r.toNat m.toNat src.toNat = true → bit (s.rd (Reg.CMD_RING_CFG r.toNat)) 63 = true →
    let h := bits v 31 0
    let d := ixDiff h (s.rdB (Reg.CMD_CQ_PTR r.toNat) 63 32)
    let held := ixDiff (s.rdB (Reg.CMD_CQ_PTR r.toNat) 31 0) (s.rdB (Reg.CMD_CQ_PTR r.toNat) 63 32)
    (1 ≤ d → d < 2 ^ 31 → d ≤ held →
      ∃ t, exec (.cmdDbCqh m src r v) s = .next t ∧ t.rd (Reg.CMD_CQ_PTR r.toNat) = putBits (s.rd (Reg.CMD_CQ_PTR r.toNat)) 63 32 h
        ∧ (∀ a, a ≠ Reg.CMD_CQ_PTR r.toNat → t.rd a = s.rd a) ∧ ∀ a, t.byte a = s.byte a)
    ∧ (d = 0 ∨ 2 ^ 31 ≤ d → exec (.cmdDbCqh m src r v) s = .next { s with out := s.out ++ [.access St.ok 0] })
    ∧ (1 ≤ d → d < 2 ^ 31 → held < d →
      ∃ t, exec (.cmdDbCqh m src r v) s = .next t ∧ bit (t.rd (Reg.CMD_RING_EVT r.toNat)) 1 = true
        ∧ (∀ a, a ≠ Reg.CMD_RING_EVT r.toNat → t.rd a = s.rd a) ∧ ∀ a, t.byte a = s.byte a))
  ∧ ∀ (r : BitVec 4) (i : BitVec 32) (s : State) (o : CmdOp), s.Live → s.Canonical → s.isMasked 0xD0 = false →
    (s.ring r.toNat).ops.find? (fun o => o.index == i.toNat && o.done.isSome && o.slot.isNone) = some o →
    ixDiff (s.rdB (Reg.CMD_CQ_PTR r.toNat) 31 0) (s.rdB (Reg.CMD_CQ_PTR r.toNat) 63 32)
      = 2 ^ s.rdB (Reg.CMD_CQ_CFG r.toNat) 3 0 →
    (o.waited = false → ∃ t, exec (.completionWrite r i) s = .next t ∧ bit (t.rd (Reg.CMD_RING_EVT r.toNat)) 3 = true
      ∧ (t.ring r.toNat).ops = (s.ring r.toNat).ops.map (fun x => if x.seq == o.seq then { x with waited := true } else x)
      ∧ (∀ a, a ≠ Reg.CMD_RING_EVT r.toNat → t.rd a = s.rd a) ∧ ∀ a, t.byte a = s.byte a)
    ∧ (o.waited = true → exec (.completionWrite r i) s = .next s)

/-- RESUME moves a STOPPED ring whose completion-queue size is valid to RUNNING, and with an invalid size sets BADCMD and
leaves the ring; STOP moves a RUNNING ring to STOPPED, and its operations in flight stay (R405). -/
def Obligations.RingResumeStop : Prop :=
  ∀ (m : BitVec 8) (src : BitVec 18) (r : BitVec 4) (s : State), s.Live → s.Canonical → m ≠ 0xE4 →
    s.ringParty r.toNat m.toNat src.toNat = true →
    let k := s.rdB (Reg.CMD_CQ_CFG r.toNat) 3 0
    (4 ≤ k → k ≤ 12 → s.ringState r.toNat = 1 → (s.ring r.toNat).closing = false →
      ∃ t, exec (.resume m src r) s = .next t ∧ t.ringState r.toNat = 2
        ∧ (∀ a, a ≠ Reg.CMD_RING_STATUS r.toNat → t.rd a = s.rd a) ∧ ∀ a, t.byte a = s.byte a)
    ∧ (k < 4 ∨ 12 < k →
      ∃ t, exec (.resume m src r) s = .next t ∧ bit (t.rd (Reg.CMD_RING_EVT r.toNat)) 2 = true
        ∧ ∀ a, a ≠ Reg.CMD_RING_EVT r.toNat → t.rd a = s.rd a)
    ∧ (s.ringState r.toNat = 2 →
      ∃ t, exec (.stop m src r) s = .next t ∧ t.ringState r.toNat = 1
        ∧ ((s.ring r.toNat).ops ≠ [] → (t.ring r.toNat).ops = (s.ring r.toNat).ops)
        ∧ (∀ a, a ≠ Reg.CMD_RING_STATUS r.toNat → t.rd a = s.rd a) ∧ ∀ a, t.byte a = s.byte a)

/-- Reads of `n` bytes at a key address meet no bad parity, now or by a fault that persists, and no flit of an access fails.
-/
def Sys2Proof.Claim.sound (s : State) (a n : Nat) : Prop :=
  (∀ b ∈ blocksOf a n, Tbl.get s.par b 0 = 0 ∧ Tbl.get s.glitch b [] = [] ∧ Tbl.get s.faults b 0 = 0) ∧ s.flits = []

/-- The same, and it stays so when a part of them is written. -/
def Sys2Proof.Claim.clean (s : State) (a n : Nat) : Prop := Tbl.wf (fun _ => (0 : Nat)) s.par = true ∧ Claim.sound s a n

/-- `n` bytes at `a` lie in LPDDR below the firmware region, the job is READY or RUNNING, and no access to them fails. -/
def Sys2Proof.Claim.plain (s : State) (a n : Nat) : Prop := 1 ≤ n ∧ a + n ≤ fwBase ∧ s.jobOn = true ∧ Claim.clean s a n

/-- The rings are fetched from in rotation: the ring whose turn it is is eligible, and no eligible ring stands between the
one that was served last and it; ENTRY_FETCH of another ring has no effect. ENTRY_FETCH of the ring whose turn it is, and
STAMP_REREAD once its interval has passed, read slot CI mod 32. With STAMP = CI an entry is accepted: CI advances by one
modulo 2³², and a well-formed entry that the ring may hold is in flight. A malformed one is done at once with MISALIGN and
sets BADCMD, and a job-control one on a ring without JOBCTL is done at once with DENIED (R391, R393); of a LOAD, LAST_STATUS
tells it (R62). With another STAMP the slot is read again after 10 ticks, then after intervals that double up to 640.
STAMP_TIMEOUT: STAMP_TMO ticks after the first read of a slot, the ring is STOPPED, the STAMP event is set, and a completion
with status STAMP waits to be written (R391). -/
def Obligations.EntryFetched : Prop :=
  (∀ (r : BitVec 4) (s : State), s.Live → s.Canonical →
     (s.ringTurn = some r.toNat → s.eligible r.toNat = true
       ∧ ∀ k < 16, s.eligible k = true → (r.toNat + 31 - s.turn % 16) % 16 ≤ (k + 31 - s.turn % 16) % 16)
     ∧ (s.ringTurn ≠ some r.toNat → exec (.entryFetch r) s = .next s))
  ∧ (∀ (r : BitVec 4) (s : State), s.Live → s.Canonical → Claim.sound s (slotAddr r.toNat (s.ringCI r.toNat)) 256 →
     let e := s.rawRead (slotAddr r.toNat (s.ringCI r.toNat)) 256
     let mine := leAt e 0 4 = s.ringCI r.toNat
     let good := mine ∧ entryOk e = true ∧ (jobctlOp (coOpcode e) = true → s.ringJobctl r.toNat = true)
     let taken (t : State) := t.ringCI r.toNat = (s.ringCI r.toNat + 1) % 2 ^ 32 ∧ (t.ring r.toNat).stamp = none
       ∧ ∀ a, t.byte a = s.byte a
     let new : CmdOp := { seq := s.nextId + 1, index := s.ringCI r.toNat, entry := e }
     let ends (t : State) (st : Nat) :=
       (t.ring r.toNat).ops.getLast? = some { new with started := true, done := some (st, 0, 0) }
         ∧ (t.ring r.toNat).ops.length = (s.ring r.toNat).ops.length + 1
         ∧ (coOpcode e = 0x10 → bits (t.rd Reg.ID_JOB_STATE) 15 8 = st)
     let held (t : State) := (good → (t.ring r.toNat).ops = (s.ring r.toNat).ops ++ [new])
       ∧ (entryOk e = false → ends t St.misalign ∧ bit (t.rd (Reg.CMD_RING_EVT r.toNat)) 2 = true)
       ∧ (entryOk e = true → jobctlOp (coOpcode e) = true → s.ringJobctl r.toNat = false → ends t St.denied)
     (s.ringTurn = some r.toNat →
       (mine → ∃ t, exec (.entryFetch r) s = .next t ∧ taken t ∧ t.turn = r.toNat ∧ held t)
       ∧ (¬mine → ∃ t, exec (.entryFetch r) s = .next t
         ∧ (t.ring r.toNat).stamp = some (s.now, s.now + 10, 20) ∧ t.turn = r.toNat ∧ (∀ a, t.rd a = s.rd a)
         ∧ ∀ a, t.byte a = s.byte a))
     ∧ ∀ t0 next iv, s.fetching r.toNat = true → (s.ring r.toNat).stamp = some (t0, next, iv) → next ≤ s.now →
       (mine → ∃ t, exec (.stampReread r) s = .next t ∧ taken t ∧ held t)
       ∧ (¬mine → ∃ t, exec (.stampReread r) s = .next t
         ∧ (t.ring r.toNat).stamp = some (t0, s.now + iv, min 640 (2 * iv)) ∧ t.ringCI r.toNat = s.ringCI r.toNat))
  ∧ (∀ (r : BitVec 4) (s : State) (t0 next iv : Nat), s.Live → s.Canonical → (s.ring r.toNat).stamp = some (t0, next, iv) →
     t0 + s.rdB Reg.CMD_CFG 31 0 ≤ s.now →
     ∃ t, exec (.stampTimeout r) s = .next t ∧ t.ringState r.toNat = 1 ∧ bit (t.rd (Reg.CMD_RING_EVT r.toNat)) 0 = true
       ∧ (t.ring r.toNat).stamp = none
       ∧ (t.ring r.toNat).ops = (s.ring r.toNat).ops
           ++ [{ seq := s.nextId + 1, index := s.ringCI r.toNat, entry := [], started := true, done := some (St.stamp, 0, 0) }]
       ∧ (∀ a, a ≠ Reg.CMD_RING_STATUS r.toNat → a ≠ Reg.CMD_RING_EVT r.toNat → t.rd a = s.rd a) ∧ ∀ a, t.byte a = s.byte a)

/-- The operation `o` is the next of ring r to start, with opcode `op`, and no other operation of the ring carries its
number. -/
def Sys2Proof.Claim.opReady (s : State) (r op : Nat) (o : CmdOp) : Prop := s.opNow r op = some o ∧ s.opOf r o.seq = some o

/-- The result of an operation of a ring. -/
def Sys2Proof.Claim.opResult (s : State) (r seq : Nat) : Option (Nat × Nat × Word) := (s.opOf r seq).bind CmdOp.done

/-- NOP completes with OK. WRITE_INLINE writes its payload, and READ8 reads 8 bytes, at ARG0 under master ID 0xD0, and each
completes with the access's status, READ8 with the value; in LPDDR below the firmware region, while the job is READY or
RUNNING and no parity is bad, that status is OK, the payload stands at ARG0 and nothing else changes in memory, and the value
is the eight bytes at ARG0. A COPY of which neither address names this device completes with MISALIGN; any other waits for a
channel, and the waiting copies stand in the order in which they were accepted (R393 to R395). Without QUIET the result stays
for the completion; with QUIET an operation that ends with OK is gone. DMA_CHANNEL_START: the waiting COPY that was accepted
first leaves the list for the lowest free channel, and its transfer starts. COPY_COMPLETE: the copy whose transfer has ended
with OK completes with OK, and its channel frees (R395). -/
def Obligations.RingOperations : Prop :=
  ((∀ (r : BitVec 4) (s : State) (o : CmdOp), s.Live → s.Canonical → Claim.opReady s r.toNat 0 o →
     ∃ t, exec (.nop r) s = .next t ∧ (coQuiet o.entry = false → Claim.opResult t r.toNat o.seq = some (St.ok, 0, 0))
       ∧ (coQuiet o.entry = true → t.opOf r.toNat o.seq = none) ∧ (∀ a, t.rd a = s.rd a) ∧ ∀ a, t.byte a = s.byte a)
   ∧ (∀ (r : BitVec 4) (s : State) (o : CmdOp), s.Live → s.Canonical → Claim.opReady s r.toNat 1 o →
     let q := (s.opStart r.toNat o.seq).busWrite 0xD0 s.devId (coArg0 o.entry) (coPayload o.entry)
     let a := coArg0 o.entry
     let n := (coPayload o.entry).length
     exec (.writeInline r) s = .next (s.commit (q.2.opDone r.toNat o.seq q.1 0 0))
     ∧ (1 ≤ n → a + n ≤ fwBase → s.jobOn = true → Claim.sound s a n → coQuiet o.entry = false →
       ∃ t, exec (.writeInline r) s = .next t ∧ Claim.opResult t r.toNat o.seq = some (St.ok, 0, 0)
         ∧ (∀ i (h : i < n), t.byte (a + i) = (coPayload o.entry)[i]) ∧ ∀ k, k < a ∨ a + n ≤ k → t.byte k = s.byte k))
   ∧ (∀ (r : BitVec 4) (s : State) (o : CmdOp), s.Live → s.Canonical → Claim.opReady s r.toNat 2 o →
     let q := (s.opStart r.toNat o.seq).busRead 0xD0 s.devId (coArg0 o.entry) 8
     let a := coArg0 o.entry
     exec (.read8 r) s = .next (s.commit (q.2.2.opDone r.toNat o.seq q.1 0 (w (ofBytes q.2.1))))
     ∧ (a + 8 ≤ fwBase → s.jobOn = true → Claim.sound s a 8 → coQuiet o.entry = false →
       ∃ t, exec (.read8 r) s = .next t ∧ Claim.opResult t r.toNat o.seq = some (St.ok, 0, w (s.rawNat a 8))
         ∧ ∀ k, t.byte k = s.byte k))
   ∧ ∀ (r : BitVec 4) (s : State) (o : CmdOp), s.Live → s.Canonical → Claim.opReady s r.toNat 3 o →
     (gaDev (coArg0 o.entry) = s.devId ∨ gaDev (coArg1 o.entry) = s.devId →
       ∃ t, exec (.copy r) s = .next t ∧ t.copies.Perm ((r.toNat, o.seq) :: s.copies)
         ∧ (s.copies.Pairwise (fun x y => x.2 ≤ y.2) → t.copies.Pairwise fun x y => x.2 ≤ y.2)
         ∧ (∀ a, t.rd a = s.rd a) ∧ ∀ a, t.byte a = s.byte a)
     ∧ (gaDev (coArg0 o.entry) ≠ s.devId → gaDev (coArg1 o.entry) ≠ s.devId →
       ∃ t, exec (.copy r) s = .next t ∧ Claim.opResult t r.toNat o.seq = some (St.misalign, 0, 0) ∧ t.copies = s.copies))
  ∧ ((∀ (s : State) (c r seq : Nat) (rest : List (Nat × Nat)) (o : CmdOp), s.Live → s.Canonical →
     s.freeChannel = some c → s.copies = (r, seq) :: rest → s.copyBefore seq = false → s.opOf r seq = some o →
     let x := ({ s with copies := rest } : State).xferStart ⟨.copy c, 0, 0xD1 + c,
       [(coArg0 o.entry, coArg1 o.entry, leAt (coPayload o.entry) 0 8)], false, [], none, none, 0⟩
     exec .dmaChannelStart s
       = .next (s.commit (({ x.2 with channels := x.2.channels.ins c (r, seq, x.1) } : State).xferCtl x.1)))
   ∧ (∀ (s : State) (r seq : Nat) (rest : List (Nat × Nat)), s.Live → s.Canonical → s.copies = (r, seq) :: rest →
     (s.freeChannel = none ∨ s.copyBefore seq = true) → exec .dmaChannelStart s = .next s)
   ∧ ∀ (s : State) (k : BitVec 2) (r seq id : Nat) (o : CmdOp), s.Live → s.Canonical →
     s.channels.find? (fun e => e.1 == k.toNat) = some (k.toNat, r, seq, id) → (s.xfer id).ended = some 0 →
     s.opOf r seq = some o →
     ∃ t, exec (.copyComplete k) s = .next t ∧ t.channels = Tbl.del s.channels k.toNat
       ∧ (coQuiet o.entry = false → Claim.opResult t r seq = some (St.ok, 0, 0))
       ∧ (coQuiet o.entry = true → t.opOf r seq = none) ∧ (∀ a, t.rd a = s.rd a) ∧ ∀ a, t.byte a = s.byte a)

/-- COMPLETION_WRITE of a finished operation takes the next position of the completion queue while one is free, and writes
the completion entry there; on this device, in LPDDR below the firmware region, while the job is READY or RUNNING and no
parity is bad, the entry stands in the queue and the operation is no longer in flight. A completion entry has 32 bytes,
begins with the operation's tag, and has PHASE 1 on the even passes through the queue. CQFAIL_RETRY writes it again at its
position 100 ticks after a write that failed, until the ring is disabled; then the operation ends (R397 to R399).
While the command processor's ports are masked neither has an effect (R299). -/
def Obligations.CompletionsWritten : Prop :=
  (∀ (r : BitVec 4) (i : BitVec 32) (s : State), s.Live → s.Canonical → s.isMasked 0xD0 = true →
    exec (.completionWrite r i) s = .next s ∧ exec (.cqfailRetry r i) s = .next s)
  ∧ (∀ (r : BitVec 4) (i : BitVec 32) (s : State) (o : CmdOp), s.Live → s.Canonical → s.isMasked 0xD0 = false →
    (s.ring r.toNat).ops.find? (fun o => o.index == i.toNat && o.done.isSome && o.slot.isNone) = some o →
    let wn := s.rdB (Reg.CMD_CQ_PTR r.toNat) 31 0
    let size := 2 ^ s.rdB (Reg.CMD_CQ_CFG r.toNat) 3 0
    let full := size ≤ ixDiff wn (s.rdB (Reg.CMD_CQ_PTR r.toNat) 63 32)
    let ga := (s.rd (Reg.CMD_CQ_BASE r.toNat)).toNat + wn % size * 32
    let a := gaLocal ga
    (¬full → exec (.completionWrite r i) s
      = .next (s.commit ((s.wrB (Reg.CMD_CQ_PTR r.toNat) 31 0 (wn + 1)).completionSend r.toNat o wn)))
    ∧ (¬full → gaDev ga = s.devId → a + 32 ≤ fwBase → s.jobOn = true → Claim.sound s a 32 →
      ∃ t, exec (.completionWrite r i) s = .next t ∧ t.opOf r.toNat o.seq = none
        ∧ t.rdB (Reg.CMD_CQ_PTR r.toNat) 31 0 = (wn + 1) % 2 ^ 32
        ∧ (∀ j (h : j < (s.completionBytes r.toNat o wn).length), t.byte (a + j) = (s.completionBytes r.toNat o wn)[j])
        ∧ ∀ k, k < a ∨ a + 32 ≤ k → t.byte k = s.byte k))
  ∧ (∀ (s : State) (r pos : Nat) (o : CmdOp), (s.completionBytes r o pos).length = 32
      ∧ leAt (s.completionBytes r o pos) 15 1 = (if pos / 2 ^ s.rdB (Reg.CMD_CQ_CFG r) 3 0 % 2 = 0 then 1 else 0)
      ∧ leAt (s.completionBytes r o pos) 0 8 = coTag o.entry % 2 ^ 64)
  ∧ ∀ (r : BitVec 4) (i : BitVec 32) (s : State) (o : CmdOp) (d p : Nat), s.Live → s.Canonical → s.isMasked 0xD0 = false →
    (s.ring r.toNat).ops.find? (fun o => o.index == i.toNat && o.due.isSome && !o.writing) = some o →
    o.due = some d → o.slot = some p →
    (d ≤ s.now → (s.ring r.toNat).closing = false → exec (.cqfailRetry r i) s = .next (s.commit (s.completionSend r.toNat o p)))
    ∧ (d ≤ s.now → (s.ring r.toNat).closing = true → ∃ t, exec (.cqfailRetry r i) s = .next t ∧ t.opOf r.toNat o.seq = none
        ∧ (∀ a, t.rd a = s.rd a) ∧ ∀ a, t.byte a = s.byte a)
    ∧ (s.now < d → exec (.cqfailRetry r i) s = .next s)

/-- CMD_MEMORY_ACCESS by the ring's owner or a management core, of any size within one ring's 8 KiB, where no parity is bad:
a write stores its bytes and no other, a read returns the bytes. One that leaves the ring's 8 KiB completes with MISALIGN,
and one by any other master with DENIED, and neither has an effect (R384, R385); one of the command processor or a DMA
channel that is not 4 or 8 aligned bytes completes with MISALIGN (R394). -/
def Obligations.CommandMemoryAccess : Prop :=
  ∀ (m : BitVec 8) (dev : BitVec 18) (a : BitVec 46) (off n : Nat) (data : List Byte) (s : State), s.Live → s.Canonical →
    placeOf a.toNat = .cmdMem off → 1 ≤ n → m ≠ 0xE4 →
    let inside := off % 0x2000 + n ≤ 0x2000
    let party := s.ringParty (off / 0x2000) m.toNat dev.toNat
    (inside → party = true → data.length = n → Claim.sound s a.toNat n →
      ∃ t, exec (.cmdMemoryAccess m dev true a n data) s = .next t ∧ t.out = s.out ++ [.data St.ok []]
        ∧ (∀ i (h : i < data.length), t.byte (a.toNat + i) = data[i])
        ∧ (∀ k, k < a.toNat ∨ a.toNat + n ≤ k → t.byte k = s.byte k) ∧ ∀ k, t.rd k = s.rd k)
    ∧ (inside → party = true → Claim.sound s a.toNat n →
      exec (.cmdMemoryAccess m dev false a n []) s = .next { s with out := s.out ++ [.data St.ok (s.rawRead a.toNat n)] })
    ∧ (¬inside → exec (.cmdMemoryAccess m dev false a n []) s = .next { s with out := s.out ++ [.data St.misalign []] }
      ∧ (data.length = n → exec (.cmdMemoryAccess m dev true a n data) s = .next { s with out := s.out ++ [.data St.misalign []] }))
    ∧ (inside → party = false → (0xD0 ≤ m.toNat → m.toNat ≤ 0xD3 → regAligned off n = true) →
      exec (.cmdMemoryAccess m dev false a n []) s = .next { s with out := s.out ++ [.data St.denied []] }
      ∧ (data.length = n → exec (.cmdMemoryAccess m dev true a n data) s = .next { s with out := s.out ++ [.data St.denied []] }))
    ∧ (inside → party = false → 0xD0 ≤ m.toNat → m.toNat ≤ 0xD3 → regAligned off n = false →
      exec (.cmdMemoryAccess m dev false a n []) s = .next { s with out := s.out ++ [.data St.misalign []] })

/-! ### Mailboxes -/

/-- MBX_SEND by the channel's sender with GO and 1 to 8 WORDS moves a channel that is not PENDING to PENDING, latches WORDS,
counts the message and sets the channel's bit of MBX_PEND; then the receiver is told, as `mbxTell` does: a general core's
domain is powered, and a management core takes its interrupt. MBX_ACK by the receiver moves a PENDING channel to ACKED,
latches RC and clears the bit; then the sender is told. Without GO, and an ACK of a channel that is not PENDING, nothing
happens; nor does it where GO comes with WORDS 0 or above 8, which completes with OK (the model's reading, log entry 47).
MBX_DATA_WRITE by the sender stores the word. A send or a data write while PENDING completes with QFULL and sets
BUSY (R401 to R403). A write of MBX_DATA or MBX_SEND by another master than the channel's sender, of MBX_ACK by another than
its receiver, a read of MBX_DATA by another than those two, and any access to a channel whose VALID is 0, set MBX_EVT.DENY
and complete with DENIED, or with QFULL where BUSY applies too (R13, R401; the debug path's own limits are R477's). Firmware
binds a channel while MBX_LOCK is 0, and sets MBX_LOCK; from then on writes of MBX_BIND and MBX_LOCK complete with DENIED and
have no effect. A master that is no management core is always denied (R400, R405). -/
def Obligations.Mailboxes : Prop :=
  (∀ (m : BitVec 8) (src : BitVec 18) (k : BitVec 6) (v : Word) (s : State), s.Live → s.Canonical → m ≠ 0xE4 →
     s.mbxValid k.toNat = true →
     let st := Reg.MBX_STATUS k.toNat
     let told (t : State) (party : Nat) := (party < 64 → bit (t.rd Reg.CLK_PD_GC0) party = true)
       ∧ (64 ≤ party → party < 128 → bit (t.rd Reg.CLK_PD_GC1) (party - 64) = true)
       ∧ (isMgmt party = true → .mbxIrq party k.toNat ∈ t.out) ∧ (party ≠ 0xE8 → ∀ a, t.byte a = s.byte a)
     (s.mbxIs k.toNat (s.mbxSender k.toNat) m.toNat src.toNat = true → s.mbxState k.toNat ≠ 1 →
       (bit v 63 = true → 1 ≤ bits v 3 0 → bits v 3 0 ≤ 8 →
         let u := ((s.wrB st 1 0 1).wrB st 11 8 (bits v 3 0)).addB st 63 32 1
         let u := u.wr Reg.MBX_PEND (setBit (u.rd Reg.MBX_PEND) k.toNat)
         exec (.mbxSend m src k v) s
           = .next (s.commit (((u.mbxTell k.toNat (s.mbxReceiver k.toNat)).mbxToken k.toNat).answer St.ok 0))
         ∧ ∃ t, exec (.mbxSend m src k v) s = .next t ∧ t.mbxState k.toNat = 1 ∧ bits (t.rd st) 11 8 = bits v 3 0
             ∧ bit (t.rd Reg.MBX_PEND) k.toNat = true ∧ told t (s.mbxReceiver k.toNat))
       ∧ (bit v 63 = false ∨ bits v 3 0 = 0 ∨ 8 < bits v 3 0 →
         exec (.mbxSend m src k v) s = .next { s with out := s.out ++ [.access St.ok 0] }))
     ∧ (s.mbxIs k.toNat (s.mbxReceiver k.toNat) m.toNat src.toNat = true →
       (s.mbxState k.toNat = 1 → bit v 63 = true →
         let u := (s.wrB st 1 0 2).wrB st 31 16 (bits v 15 0)
         let u := u.wr Reg.MBX_PEND (clrBit (u.rd Reg.MBX_PEND) k.toNat)
         exec (.mbxAck m src k v) s = .next (s.commit ((u.mbxTell k.toNat (s.mbxSender k.toNat)).answer St.ok 0))
         ∧ ∃ t, exec (.mbxAck m src k v) s = .next t ∧ t.mbxState k.toNat = 2 ∧ bits (t.rd st) 31 16 = bits v 15 0
             ∧ bit (t.rd Reg.MBX_PEND) k.toNat = false ∧ told t (s.mbxSender k.toNat))
       ∧ (s.mbxState k.toNat ≠ 1 ∨ bit v 63 = false →
         exec (.mbxAck m src k v) s = .next { s with out := s.out ++ [.access St.ok 0] }))
     ∧ (∀ i : BitVec 3, s.mbxIs k.toNat (s.mbxSender k.toNat) m.toNat src.toNat = true → s.mbxState k.toNat ≠ 1 →
       ∃ t, exec (.mbxDataWrite m src k i v) s = .next t ∧ t.rd (Reg.MBX_DATA k.toNat i.toNat) = v
         ∧ (∀ a, a ≠ Reg.MBX_DATA k.toNat i.toNat → t.rd a = s.rd a) ∧ ∀ a, t.byte a = s.byte a)
     ∧ (∀ c : Instr, (c = .mbxSend m src k v ∨ ∃ i, c = .mbxDataWrite m src k i v) →
       s.mbxIs k.toNat (s.mbxSender k.toNat) m.toNat src.toNat = true → s.mbxState k.toNat = 1 →
       ∃ t, exec c s = .next t ∧ bit (t.rd Reg.MBX_EVT) 1 = true ∧ (∀ a, a ≠ Reg.MBX_EVT → t.rd a = s.rd a)
         ∧ t.out = s.out ++ [.access St.qfull 0]))
  ∧ (∀ (k : BitVec 6) (m src : Nat) (s : State), m ≠ 0xE4 →
     let base := Reg.MBX_DATA k.toNat 0
     let sender := s.mbxValid k.toNat && s.mbxIs k.toNat (s.mbxSender k.toNat) m src
     let receiver := s.mbxValid k.toNat && s.mbxIs k.toNat (s.mbxReceiver k.toNat) m src
     let deny := s.mbxDeny m k.toNat
     let busy := (St.qfull, deny.2.mbxEvent 1 St.qfull m k.toNat)
     deny.1 = St.denied ∧ bit (deny.2.rd Reg.MBX_EVT) 0 = true ∧ bit (busy.2.rd Reg.MBX_EVT) 0 = true
     ∧ (∀ a bs, regAligned a bs.length = true →
       (sender = false → base ≤ a → a < base + 0x48 → s.regWrite m src a bs = if s.mbxState k.toNat = 1 then busy else deny)
       ∧ (receiver = false → base + 0x48 ≤ a → a < base + 0x50 → s.regWrite m src a bs = deny)
       ∧ (s.mbxValid k.toNat = false → base + 0x50 ≤ a → a < base + 0x58 → s.regWrite m src a bs = deny))
     ∧ ∀ a n, regAligned a n = true →
       (sender = false → receiver = false → base ≤ a → a < base + 0x40 → s.regRead m src a n = (deny.1, [], deny.2))
       ∧ (s.mbxValid k.toNat = false → base ≤ a → a < base + 0x58 → s.regRead m src a n = (deny.1, [], deny.2)))
  ∧ (∀ (m : BitVec 8) (k : BitVec 6) (v : Word) (s : State), s.Live → s.Canonical → m ≠ 0xE4 →
     (isMgmt m.toNat = true → s.rdB Reg.MBX_LOCK 0 0 = 0 →
       (∃ t, exec (.mbxBindWrite m k v) s = .next t ∧ bits (t.rd (Reg.MBX_BIND k.toNat)) 16 0 = bits v 16 0
         ∧ bits (t.rd (Reg.MBX_BIND k.toNat)) 41 24 = bits v 41 24
         ∧ (∀ a, a ≠ Reg.MBX_BIND k.toNat → t.rd a = s.rd a) ∧ ∀ a, t.byte a = s.byte a)
       ∧ ∃ t, exec (.mbxLockWrite m) s = .next t ∧ bits (t.rd Reg.MBX_LOCK) 0 0 = 1
         ∧ (∀ a, a ≠ Reg.MBX_LOCK → t.rd a = s.rd a) ∧ ∀ a, t.byte a = s.byte a)
     ∧ (isMgmt m.toNat = false ∨ s.rdB Reg.MBX_LOCK 0 0 = 1 →
       exec (.mbxBindWrite m k v) s = .next { s with out := s.out ++ [.access St.denied 0] }
       ∧ exec (.mbxLockWrite m) s = .next { s with out := s.out ++ [.access St.denied 0] }))

/-! ### The job -/

/-- LOAD in EMPTY or RETAINED with a length that is a multiple of 16 from 256 bytes to 2 GiB begins: the job state is
LOADING, the counters that a load clears are at their reset values (PKM_POWER's largest value, CAD_PERIODS and COL_LAST among
them), and the manifest is fetched under a management core's master ID. In any other job state, and with another length, it
is refused before anything is fetched, and the job state stays (R44, R54, R61). -/
def Obligations.LoadBegins : Prop :=
  ∀ (r : BitVec 4) (s : State) (o : CmdOp), s.Live → s.Canonical → Claim.opReady s r.toNat 0x10 o →
    let u := s.opStart r.toNat o.seq
    let len := coArg1 o.entry
    let p := coPayload o.entry
    let fits := len % 16 = 0 ∧ 256 ≤ len ∧ len ≤ 2 ^ 31
    (s.jobState = 0 ∨ s.jobState = 5 → fits →
      let g := ({ (u.setJob 1).revert false loadCleared with loadAt := s.now } : State).wrB Reg.PKM_POWER 31 16 0
      let v := g.xferStart ⟨.load, 0, 0xE0, [(coArg0 o.entry, g.globalOf mnfAddr, len)], false, [], none, none, 0⟩
      let j : LoadJob := { ring := r.toNat, seq := o.seq, buf := leAt p 0 8, bufSize := leAt p 8 8, options := leAt p 16 4
                           expect := slice p 24 32, from_ := s.jobState, xfer := v.1, len := len }
      exec (.load r) s = .next (s.commit (v.2.setLoad j))
      ∧ ∃ t, exec (.load r) s = .next t ∧ t.jobState = 1 ∧ t.loadJob = some j ∧ t.loadAt = s.now
        ∧ t.rdB Reg.PKM_POWER 31 16 = 0 ∧ t.rd Reg.COL_LAST = 0 ∧ t.rd Reg.COL_CNT_OPS = 0 ∧ (∀ n < 4, t.rd (Reg.LED_CACHE n) = 0)
        ∧ ∀ n < 4, ∀ x < 32, t.rd (Reg.CAD_PERIODS n x) = 0)
    ∧ (s.jobState ≠ 0 → s.jobState ≠ 5 →
      exec (.load r) s = .next (s.commit ((u.loadEarly r.toNat o Rs.jobloaded).earlySettle r.toNat))
      ∧ ∃ t, exec (.load r) s = .next t ∧ t.jobState = s.jobState ∧ t.loadJob = s.loadJob)
    ∧ (s.jobState = 0 ∨ s.jobState = 5 → ¬fits →
      exec (.load r) s = .next (s.commit ((u.loadEarly r.toNat o Rs.badlength).earlySettle r.toNat))
      ∧ ∃ t, exec (.load r) s = .next t ∧ t.jobState = s.jobState ∧ t.loadJob = s.loadJob)

/-- MANIFEST_FETCH_DONE: a fetch that failed ends the load with its status, and so does a manifest that cannot be
read back (log entry 101); a manifest that fails the fit check or that
cannot be placed ends it with NOFIT and the reason; any other is placed and installed. INITFETCH: a failed fetch of initial
contents ends the load with its status and the reason INITFETCH, and the job state is UNLOADING (R43 to R45). LOAD_COMPLETE:
the report of a load that succeeded is written. The job is READY, JOB_ID and the manifest's digest are in their registers,
the LAST fields are 0, the load is over, and its operation completes with OK and the number of placement records (R54, R62).
-/
def Obligations.LoadEnds : Prop :=
  ((∀ (s v : State) (j : LoadJob) (st sr : Nat) (bs : List Byte), s.Live → s.Canonical → s.loadJob = some j →
     (s.xfer j.xfer).ended = some st → j.phase = 0 → s.load 0xE0 mnfAddr j.len = (sr, bs, v) →
     let u := v.dropXfers .load
     let k := { j with digest := mnfDigest bs, jobId := if (headerReason bs).isSome then 0 else leAt bs 0x18 8 }
     (st ≠ 0 → exec .manifestFetchDone s = .next (s.commit (s.loadFail j st 0 0 0).loadSettle))
     ∧ (st = 0 → sr ≠ 0 → exec .manifestFetchDone s = .next (s.commit (v.loadFail j sr 0 0 0).loadSettle))
     ∧ (Claim.clean s mnfAddr j.len → 1 ≤ j.len → j.len ≤ 2 ^ 31 → sr = St.ok ∧ bs = s.rawRead mnfAddr j.len)
     ∧ (∀ f, st = 0 → sr = 0 → fitCheck bs (u.rdB Reg.CGT_STATUS 2 2 == 1) u.devId = some f →
       exec .manifestFetchDone s = .next (s.commit (u.loadFail k St.nofit f.reason f.sect f.entry).loadSettle))
     ∧ (∀ f, st = 0 → sr = 0 → fitCheck bs (u.rdB Reg.CGT_STATUS 2 2 == 1) u.devId = none → place (mnfOf bs) = .error f →
       exec .manifestFetchDone s = .next (s.commit (u.loadFail k St.nofit f.reason f.sect f.entry).loadSettle))
     ∧ ∀ p, st = 0 → sr = 0 → fitCheck bs (u.rdB Reg.CGT_STATUS 2 2 == 1) u.devId = none → place (mnfOf bs) = .ok p →
       exec .manifestFetchDone s = .next (s.commit (u.loadGo k (mnfOf bs) p)))
   ∧ ∀ (s : State) (j : LoadJob) (id sect ix st : Nat) (l : Option Nat), s.Live → s.Canonical → s.loadJob = some j → j.phase = 1 →
     j.inits.find? (fun i => (s.xfer i.1).ended.any fun st => st != 0) = some (id, sect, ix, l) → (s.xfer id).ended = some st →
     exec .initfetch s = .next (s.commit ((s.setJob 4).loadFail j st Rs.initfetch sect ix).loadSettle))
  ∧ (∀ (s : State) (j : LoadJob), s.Live → s.Canonical → s.loadJob = some j → j.phase = 2 → (s.xfer j.xfer).ended.isSome = true →
     j.result = (0, 0, 0, 0) → s.jobState = 1 →
     ∃ t, exec .loadComplete s = .next t ∧ t.jobState = 2 ∧ t.rd Reg.ID_JOB_ID = w j.jobId
       ∧ t.rd Reg.ID_MNF_DIGEST0 = w (leAt j.digest 0 8) ∧ t.rd Reg.ID_MNF_DIGEST3 = w (leAt j.digest 24 8)
       ∧ bits (t.rd Reg.ID_JOB_STATE) 39 8 = 0 ∧ t.loadJob = none
       ∧ (∀ o, s.opOf j.ring j.seq = some o → coQuiet o.entry = false → (j.ring, j.seq) ∉ s.unloads →
         Claim.opResult t j.ring j.seq = some (St.ok, 0, w j.recs.length)) ∧ ∀ a, t.byte a = s.byte a)

/-- START in READY, with no earlier LOAD to wait for: the job is RUNNING, every stage runs, and the operation completes with
OK. In RUNNING it completes with OK, in every other state with DENIED, and the job state stays; while an earlier LOAD has not
completed it waits (R55, R392). UNLOAD in READY or RUNNING, and during a load: the job is UNLOADING, but for a load that
began in RETAINED and has not passed the comparison, or was refused, which stops without unloading; either way the load ends
with INCOMPLETE and ABORTED; in READY, RUNNING and UNLOADING the operation waits for the zeroisation. In EMPTY and RETAINED
it completes with OK (R54 to R56). Without QUIET the result stays for the completion; with QUIET an operation that ends with
OK is gone. -/
def Obligations.StartAndUnload : Prop :=
  (∀ (r : BitVec 4) (s : State) (o : CmdOp), s.Live → s.Canonical → Claim.opReady s r.toNat 0x11 o →
    let ended (t : State) := (coQuiet o.entry = false → Claim.opResult t r.toNat o.seq = some (St.ok, 0, 0))
      ∧ (coQuiet o.entry = true → t.opOf r.toNat o.seq = none)
    (s.loadsBefore o.seq = true → exec (.start r) s = .next s)
    ∧ (s.loadsBefore o.seq = false → s.jobState = 2 → ∃ t, exec (.start r) s = .next t ∧ t.jobState = 3 ∧ ended t
        ∧ (Tbl.wf (fun _ => ({} : StageCtx)) s.stages = true → ∀ e ∈ s.stages, (t.stg (e.1 / 32) (e.1 % 32)).running = true))
    ∧ (s.loadsBefore o.seq = false → s.jobState = 3 → ∃ t, exec (.start r) s = .next t ∧ ended t
        ∧ (∀ a, t.rd a = s.rd a) ∧ ∀ a, t.byte a = s.byte a)
    ∧ (s.loadsBefore o.seq = false → s.jobState ≠ 2 → s.jobState ≠ 3 → ∃ t, exec (.start r) s = .next t
        ∧ Claim.opResult t r.toNat o.seq = some (St.denied, 0, 0) ∧ (∀ a, t.rd a = s.rd a) ∧ ∀ a, t.byte a = s.byte a))
  ∧ ∀ (r : BitVec 4) (s : State) (o : CmdOp), s.Live → s.Canonical →
    (s.ring r.toNat).ops.find? (fun o => !o.started && o.done.isNone && !o.entry.isEmpty && coOpcode o.entry == 0x12
      && s.unfenced r.toNat o) = some o → s.opOf r.toNat o.seq = some o →
    (s.jobState = 2 ∨ s.jobState = 3 ∨ s.jobState = 4 →
      ∃ t, exec (.unload r) s = .next t ∧ t.jobState = 4 ∧ t.unloads = s.unloads ++ [(r.toNat, o.seq)])
    ∧ (∀ j, s.jobState = 1 → s.loadJob = some j → ¬(j.phase = 2 ∧ j.result.1 = St.incomplete) → ∃ t, exec (.unload r) s = .next t
        ∧ let stays := j.from_ = 5 ∧ (j.phase = 0 ∨ j.phase = 2 ∧ j.result.1 ≠ 0)
          (¬stays → t.jobState = 4 ∧ (r.toNat, o.seq) ∈ t.unloads)
          ∧ ∀ i, t.loadJob = some i → i.result = (St.incomplete, Rs.aborted, 0, 0)
            ∧ (stays → t.jobState = 1 ∧ (r.toNat, o.seq) ∈ t.unloads))
    ∧ (s.jobState = 0 ∨ s.jobState = 5 → ∃ t, exec (.unload r) s = .next t
        ∧ (coQuiet o.entry = false → Claim.opResult t r.toNat o.seq = some (St.ok, 0, 0))
        ∧ (coQuiet o.entry = true → t.opOf r.toNat o.seq = none) ∧ (∀ a, t.rd a = s.rd a) ∧ ∀ a, t.byte a = s.byte a)

/-- ZEROISATION_COMPLETE in UNLOADING, once no LOAD is left to end: the job is EMPTY, JOB_ID is 0, every byte of LPDDR and of
the operand stores is zero, the fields that hold the job are empty, and the operations that waited for the unload complete
with OK. Before that it has no effect (R54, R60, R62). -/
def Obligations.UnloadZeroises : Prop :=
  (∀ s : State, s.Live → s.Canonical → s.jobState = 4 → s.loadJob = none →
    ∃ t, exec .zeroisationComplete s = .next t ∧ t.jobState = 0 ∧ t.rd Reg.ID_JOB_ID = 0
      ∧ (∀ a, a < lpddrBytes → t.byte a = 0)
      ∧ (∀ n < 4, ∀ a, sramBase n ≤ a → a < sramBase n + sramBytes → t.byte a = 0)
      ∧ t.stages = [] ∧ t.mbs = [] ∧ t.ledgers = [] ∧ t.engines = [] ∧ t.cores = [] ∧ t.tensors = [] ∧ t.remoteQs = []
      ∧ t.scratch = [] ∧ t.unloads = []
      ∧ ∀ r seq o, (r, seq) ∈ s.unloads → s.opOf r seq = some o → coQuiet o.entry = false →
        Claim.opResult t r seq = some (St.ok, 0, 0))
  ∧ ∀ s : State, s.Live → s.Canonical → s.jobState ≠ 4 ∨ s.loadJob.isSome = true → exec .zeroisationComplete s = .next s

/-- RESET_REQ that is authorised completes with OK and writes RETAIN from ARG1; the device is to reset 100 µs after the first
request that was accepted, or sooner, once that request's completion is acknowledged. One that is not authorised completes
with DENIED and sets RESETDENY. Either way the nonce is fresh: a free value (R437, R440). A quote has 384 bytes, begins with
its magic number, and carries the nonce of the request. QUOTE writes it to the buffer at ARG0 under master ID 0xD0, and with
CERT the certificate behind it; written to LPDDR of this device below the firmware region, while the job is READY or RUNNING
and no parity is bad, it completes with OK and the bytes written (R438). -/
def Obligations.ResetsAndQuotes : Prop :=
  (∀ (r : BitVec 4) (s : State) (o : CmdOp), s.Live → s.Canonical → Claim.opReady s r.toNat 0x20 o →
     let e := o.entry
     let p := coPayload e
     let allowed := s.ringJobctl r.toNat = true ∧ s.ctrlKey (s.ringOwner r.toNat) (p.take 64) = true
       ∧ coArg0 e = (s.rd Reg.SEC_NONCE).toNat
       ∧ sm2Verify (p.take 64) (s.resetMessage (coArg0 e) (coArg1 e)) (slice p 64 64) = true
     (allowed → ∃ t, exec (.resetReq r) s = .next t
         ∧ (coQuiet e = false → Claim.opResult t r.toNat o.seq = some (St.ok, 0, 0))
         ∧ (coQuiet e = true → t.opOf r.toNat o.seq = none)
         ∧ t.rd Reg.SEC_NONCE = Config.freeBits s.freeIx ∧ bits (t.rd Reg.RST_CFG) 0 0 = coArg1 e % 2
         ∧ t.resetReq = some (s.resetReq.getD (r.toNat, o.seq, s.now + 10000)))
     ∧ (¬allowed → ∃ t, exec (.resetReq r) s = .next t ∧ Claim.opResult t r.toNat o.seq = some (St.denied, 0, 0)
         ∧ t.rd Reg.SEC_NONCE = Config.freeBits s.freeIx ∧ bit (t.rd Reg.SEC_EVT) 0 = true
         ∧ t.rd Reg.RST_CFG = s.rd Reg.RST_CFG ∧ t.resetReq = s.resetReq))
  ∧ ((∀ (s : State) (nonce : List Byte), nonce.length = 32 →
     (s.quoteBody nonce).length = 256 ∧ slice (s.quoteBody nonce) 0 8 = ascii "LMVQUOTE" ∧ slice (s.quoteBody nonce) 48 32 = nonce)
   ∧ ∀ (r : BitVec 4) (s : State) (o : CmdOp), s.Live → s.Canonical → Claim.opReady s r.toNat 0x21 o →
     let q := (s.opStart r.toNat o.seq).quote (coPayload o.entry)
     let ga := coArg0 o.entry
     let c := if coArg1 o.entry % 2 = 1 then s.cert else []
     let moves := (0, ga, 384) :: (if c.isEmpty then [] else [(0, ga + 384, c.length)])
     let x := q.2.xferStart ⟨.quote r.toNat, o.seq * 256, 0xD0, moves, true, q.1 ++ c, none, none, 0⟩
     q.1.length = 384 ∧ q.1.take 256 = (s.opStart r.toNat o.seq).quoteBody (coPayload o.entry)
     ∧ exec (.quote r) s = .next (s.commit ((x.2.xferCtl x.1).quoteSettle r.toNat))
     ∧ (coArg1 o.entry % 2 = 0 → ga < 2 ^ 64 → gaDev ga = s.devId → gaLocal ga + 384 ≤ fwBase → s.jobOn = true →
       Claim.clean s (gaLocal ga) 384 → s.isMasked 0xD0 = false → s.xfers = [] → coQuiet o.entry = false →
       ∃ t, exec (.quote r) s = .next t ∧ Claim.opResult t r.toNat o.seq = some (St.ok, 0, 384)
         ∧ (∀ i (h : i < q.1.length), t.byte (gaLocal ga + i) = q.1[i])
         ∧ ∀ k, k < gaLocal ga ∨ gaLocal ga + 384 ≤ k → t.byte k = s.byte k))

/-! ### Cadence -/

/-- A master may write a register that job software writes while the job is READY or RUNNING (R486); the debug path's limits
are R477's. -/
def Sys2Proof.Claim.mayWrite (s : State) (m : BitVec 8) : Prop := m ≠ 0xE4 ∧ (isMgmt m.toNat = true ∨ s.jobOn = true)

/-- SLOT_START starts the next slot of a context that may start one and has no effect on any other. The register writes that
wait for the boundary come first (R89); the slot starts at the local cycle count, VOID shows whether it is void, and a void
slot runs as BACKHAUL in a hosting stage and as HOLD in any other (R71). HOLD waits only for its budget, BACKHAUL in a
hosting stage for the switch and otherwise for its budget; FWD is admitted and BWD looks for its descriptor, and each waits
without one; UPDATE waits for the updates, OFFLOAD and PREFETCH hand their request over or wait while the queue is full (R65,
R73). With lag, a BACKHAUL slot at level 1 and a HOLD slot at level 2 is shortened by min(L, BUDGET) and counted, and dropped
at zero, and any other slot at level 3 has its budget compressed (R80). -/
def Obligations.SlotStarts : Prop :=
  ∀ (die : BitVec 2) (ctx : BitVec 5) (s : State), s.Live → s.Canonical →
    let n := die.toNat
    let x := ctx.toNat
    let go := exec (.slotStart die ctx) s
    let p := s.applyPend n x
    let i := p.rdB (Reg.CAD_STATUS n x) 7 0
    let v := p.curSlot n x
    let k := p.slotRuns n x v
    let b := slotBudget v
    let l := if p.ctxBackhaul n x then 0 else p.lag n x
    let short := 0 < l ∧ (1 ≤ p.level n x ∧ k = 6 ∨ 2 ≤ p.level n x ∧ k = 0)
    let eff := if 0 < l ∧ p.level n x = 3 ∧ k ≠ 0 ∧ k ≠ 6 then max (slotFloor v) (b - l) else b
    let counted (t : State) := (k = 6 → t.rdB (Reg.CAD_DROPS n x) 31 0 = min (2 ^ 32 - 1) (p.rdB (Reg.CAD_DROPS n x) 31 0 + 1))
      ∧ (k = 0 → t.rdB (Reg.CAD_DROPS n x) 63 32 = min (2 ^ 32 - 1) (p.rdB (Reg.CAD_DROPS n x) 63 32 + 1))
      ∧ t.rdB (Reg.CAD_RECOVERED n x) 31 0 = min (2 ^ 32 - 1) (p.rdB (Reg.CAD_RECOVERED n x) 31 0 + min l b)
    let started (t : State) (ph : Phase) (st : Nat) := t.rd (Reg.CAD_SLOT_T0 n x) = w s.now ∧ (t.stg n x).phase = ph
      ∧ (short → (t.stg n x).budget = b - l ∧ counted t) ∧ (¬short → (t.stg n x).budget = eff)
      ∧ bits (t.rd (Reg.CAD_STATUS n x)) 10 8 = st ∧ bit (t.rd (Reg.CAD_STATUS n x)) 13 = p.slotVoid n x v
      ∧ ∀ a, t.byte a = s.byte a
    let empty := ∀ c < 256, p.mbc n x c = {}
    let pads := 0 < eff ∧ p.ctxBackhaul n x = false ∧ s.now < 2 ^ 64
    (s.mayStart n x = false → go = .next s)
    ∧ (s.mayStart n x = true → go = .next (s.commit (s.slotStarts n x))
      ∧ (short → b ≤ l → p.rdB (Reg.CAD_LAG_BOUND n x) 31 0 = 0 → ∃ t, go = .next t ∧ counted t ∧ t.lag n x = l - b
        ∧ (t.stg n x).phase = .idle
        ∧ (i + 1 < p.slotCount n x → t.rdB (Reg.CAD_STATUS n x) 7 0 = (i + 1) % 256 ∧ t.rd (Reg.CAD_FBASE n x) = p.rd (Reg.CAD_FBASE n x))
        ∧ (p.slotCount n x ≤ i + 1 → t.rdB (Reg.CAD_STATUS n x) 7 0 = 0
          ∧ t.rd (Reg.CAD_FBASE n x) = w ((p.rd (Reg.CAD_FBASE n x)).toNat + p.nfOf n x))
        ∧ ∀ a, t.byte a = s.byte a)
      ∧ (¬(short ∧ b ≤ l) → (k = 0 → ∃ t, go = .next t ∧ started t .pad 3)
        ∧ (k = 6 → p.ctxHosts n x = true → ∃ t, go = .next t ∧ started t .await 5)
        ∧ (k = 6 → p.ctxHosts n x = false → ∃ t, go = .next t ∧ started t .pad 3 ∧ (t.stg n x).backhaulIdle = true))
      ∧ (k = 1 → (∃ u, go = .next (s.commit (u.admitFwd n x)) ∧ started u .await 1)
        ∧ (empty → p.qReady (p.stg n x).inFwd = false → ∃ t, go = .next t ∧ started t .await 2))
      ∧ (k = 2 → (∃ u, go = .next (s.commit (u.bwdTry n x)) ∧ started u .await 1)
        ∧ (empty → (p.stg n x).inBwd = 0xFFFF ∨ p.qReady (p.stg n x).inBwd = false → ∃ t, go = .next t ∧ started t .await 2))
      ∧ (k = 3 → (p.updatesBusy n x = true → ∃ t, go = .next t ∧ started t .await 2)
        ∧ (p.updatesBusy n x = false → pads → ∃ t, go = .next t ∧ started t .pad 3))
      ∧ (k = 4 ∨ k = 5 → ((p.stg n x).ofl = none → pads → ∃ t, go = .next t ∧ started t .pad 3)
        ∧ ∀ o, (p.stg n x).ofl = some o →
          (64 ≤ s.oflQueue.length → ∃ t, go = .next t ∧ started t .await 2 ∧ t.oflQueue = s.oflQueue)
          ∧ (s.oflQueue.length < 64 → pads → ∃ t, go = .next t ∧ started t .pad 3
            ∧ t.oflQueue = s.oflQueue ++ [{ entry := o, n := n, x := x, pos := p.slotPos n x v, fetch := decide (k = 5) }])))

/-- SLOT_BUDGET_EXPIRE completes a padded slot of a primary stage whose budget has elapsed, d ticks after its start: L becomes
max(0, L + d − BUDGET), the next slot of the table follows, and at the table's end the forward base advances by NF (R70, R73,
R78; here no register write waits for the boundary, no lag bound is set and L does not saturate, so that no event is
delivered). Before the budget has elapsed, and for a
slot that does not pad, it has no effect. -/
def Obligations.PaddedSlotCompletes : Prop :=
  ∀ (die : BitVec 2) (ctx : BitVec 5) (s : State), s.Live → s.Canonical →
    let n := die.toNat
    let x := ctx.toNat
    let k := s.rdB (Reg.CAD_STATUS n x) 7 0
    let l := s.lag n x + (s.now - s.slotT0 n x) - slotBudget (s.curSlot n x)
    s.ctxValid n x = true → (s.stg n x).running = true → s.ctxBackhaul n x = false →
    ((s.stg n x).phase = .pad → s.slotT0 n x + (s.stg n x).budget ≤ s.now → (s.stg n x).regPend = [] →
      s.rdB (Reg.CAD_LAG_BOUND n x) 31 0 = 0 → l < 0xFFFFFFFF →
      ∃ t, exec (.slotBudgetExpire die ctx) s = .next t ∧ t.lag n x = l
        ∧ (k + 1 < s.slotCount n x → t.rdB (Reg.CAD_STATUS n x) 7 0 = (k + 1) % 256 ∧ t.rd (Reg.CAD_FBASE n x) = s.rd (Reg.CAD_FBASE n x))
        ∧ (s.slotCount n x ≤ k + 1 → t.rdB (Reg.CAD_STATUS n x) 7 0 = 0
            ∧ t.rd (Reg.CAD_FBASE n x) = w ((s.rd (Reg.CAD_FBASE n x)).toNat + s.nfOf n x))
        ∧ ∀ a, t.byte a = s.byte a)
    ∧ ((s.stg n x).phase ≠ .pad ∨ s.now < s.slotT0 n x + (s.stg n x).budget → exec (.slotBudgetExpire die ctx) s = .next s)

/-- SLOT_COMPLETE takes a slot as far as its work allows. An UPDATE slot that waits, with no update of the stage's owned
shards still writing and its budget not over, goes on to its padding (R73). BACKHAUL_SWITCH at the start of a BACKHAUL slot
of a host: the host's units follow the backhaul stage's three pointers, STATE shows 4 and the switch is counted.
BACKHAUL_RETURN, when the backhaul stage is between slots and its next one cannot start: the units follow the host's pointers
again, the switch is counted, and the host's slot waits for its budget, idle where no micro-batch is ready (R81, R84, R86).
Otherwise, in a context that holds no running stage, hosts none, is in another slot or phase, or whose backhaul stage is in a
slot or may start one, both have no effect. -/
def Obligations.BackhaulSwitches : Prop :=
  (∀ (die : BitVec 2) (ctx : BitVec 5) (s : State), s.Live → s.Canonical →
     let n := die.toNat
     let x := ctx.toNat
     exec (.slotComplete die ctx) s = .next (s.commit (s.slotProgress n x))
     ∧ (s.ctxValid n x = false ∨ (s.stg n x).running = false → exec (.slotComplete die ctx) s = .next s)
     ∧ (s.ctxValid n x = true → (s.stg n x).running = true → s.ctxBackhaul n x = false → (s.stg n x).phase = .await →
       s.slotRuns n x (s.curSlot n x) = 3 → s.updatesBusy n x = false → s.now < s.slotT0 n x + (s.stg n x).budget →
       ∃ t, exec (.slotComplete die ctx) s = .next t ∧ (t.stg n x).phase = .pad ∧ bits (t.rd (Reg.CAD_STATUS n x)) 10 8 = 3
         ∧ (∀ a, a ≠ Reg.CAD_STATUS n x → t.rd a = s.rd a) ∧ ∀ a, t.byte a = s.byte a))
  ∧ ((∀ (die : BitVec 2) (ctx : BitVec 5) (s : State), s.Live → s.Canonical →
     let n := die.toNat
     let x := ctx.toNat
     let ps := (s.stg n (s.ctxPartner n x)).ptrs
     s.ctxValid n x = true → (s.stg n x).running = true → (s.stg n x).phase = .await → s.ctxHosts n x = true →
     s.slotRuns n x (s.curSlot n x) = 6 →
     ∃ t, exec (.backhaulSwitch die ctx) s = .next t ∧ (t.stg n x).phase = .backhaul
       ∧ t.rd (Reg.CAD_PTR_QUEUE n x) = nth ps 0 0 ∧ t.rd (Reg.CAD_PTR_TABLE n x) = nth ps 1 0
       ∧ t.rd (Reg.CAD_PTR_LEDGER n x) = nth ps 2 0 ∧ bits (t.rd (Reg.CAD_STATUS n x)) 10 8 = 4
       ∧ bits (t.rd (Reg.CAD_SWITCHES n x)) 47 0 = min (2 ^ 48 - 1) (bits (s.rd (Reg.CAD_SWITCHES n x)) 47 0 + 1)
       ∧ ∀ a, t.byte a = s.byte a)
   ∧ ∀ (die : BitVec 2) (ctx : BitVec 5) (s : State), s.Live → s.Canonical →
     let n := die.toNat
     let x := ctx.toNat
     let b := s.ctxPartner n x
     s.ctxValid n x = true → (s.stg n x).running = true → (s.stg n x).phase = .backhaul → (s.stg n b).phase = .idle →
     s.mayStart n b = false →
     ∃ t, exec (.backhaulReturn die ctx) s = .next t ∧ (t.stg n x).phase = .pad
       ∧ (t.stg n x).backhaulIdle = !s.backhaulReady n b
       ∧ t.rd (Reg.CAD_PTR_QUEUE n x) = nth (s.stg n x).ptrs 0 0 ∧ t.rd (Reg.CAD_PTR_TABLE n x) = nth (s.stg n x).ptrs 1 0
       ∧ t.rd (Reg.CAD_PTR_LEDGER n x) = nth (s.stg n x).ptrs 2 0 ∧ bits (t.rd (Reg.CAD_STATUS n x)) 10 8 = 3
       ∧ bits (t.rd (Reg.CAD_SWITCHES n x)) 47 0 = min (2 ^ 48 - 1) (bits (s.rd (Reg.CAD_SWITCHES n x)) 47 0 + 1)
       ∧ ∀ a, t.byte a = s.byte a)
  ∧ ∀ (die : BitVec 2) (ctx : BitVec 5) (s : State), s.Live → s.Canonical →
    let n := die.toNat
    let x := ctx.toNat
    let b := s.ctxPartner n x
    (s.ctxValid n x = false ∨ (s.stg n x).running = false ∨ (s.stg n x).phase ≠ .await ∨ s.ctxHosts n x = false
      ∨ s.slotRuns n x (s.curSlot n x) ≠ 6 → exec (.backhaulSwitch die ctx) s = .next s)
    ∧ (s.ctxValid n x = false ∨ (s.stg n x).running = false ∨ (s.stg n x).phase ≠ .backhaul ∨ (s.stg n b).phase ≠ .idle
      ∨ s.mayStart n b = true → exec (.backhaulReturn die ctx) s = .next s)

/-! ### Micro-batches -/

/-- ADMISSION of a FWD slot that waits: releases that are due and prefetches that wait come first; then the head that matches
its position goes through the checks in order. The gate holds it while its counter is below the descriptor's STEP (WAIT 2),
then it waits for a free context (WAIT 3). A refused or empty descriptor, one that is too long and one whose predicate is
false pass through: the context is PASSED and the slot goes on to send. Any other waits for pool pages, for prefetches and
for the ledgers (WAIT 4), and is admitted for computing when all are there: the context is COMPUTING with its pages, and the
slot works (R76, R100, R104, R106, R113). A context that does not wait is left alone. -/
def Obligations.AdmissionChecks : Prop :=
  (∀ (die : BitVec 2) (ctx : BitVec 5) (s u : State) (d : List Byte), s.Live → s.Canonical →
    let n := die.toNat
    let x := ctx.toNat
    let v := (s.dueReleases n x).servePrefetch n x
    let p := v.slotPos n x (v.curSlot n x)
    let q := (v.stg n x).inFwd
    let gate := u.rd (Reg.MBQ_GATE n x)
    let held := bit gate 63 = true ∧ u.msVal (bits gate 13 0) < dStep d
    let shards := (u.stg n x).shards
    let pages := u.takePages n x (u.pagesFor n x (dLength d))
    let waits (k : Nat) := ∃ t, exec (.admission die ctx) s = .next t ∧ t.rdB (Reg.MBQ_STATUS n x) 4 2 = k
      ∧ bits (t.rd (Reg.CAD_STATUS n x)) 10 8 = 2
    s.ctxValid n x = true → (s.stg n x).running = true → (s.stg n x).phase = .await → s.slotRuns n x (s.curSlot n x) = 1 →
    v.headFor n x q p (v.qEntries q + 1) = (.found d, u) →
    (held → waits 2)
    ∧ (¬held → u.freeCtx n x = none → waits 3)
    ∧ ∀ c, ¬held → u.freeCtx n x = some c →
      exec (.admission die ctx) s = .next (s.commit (u.admitChecks n x c p d))
      ∧ (dRefused d = true ∨ dLength d = 0 ∨ u.rdB (Reg.MBQ_MAXLEN n x) 31 0 < dLength d
          ∨ predTrue (u.curSlot n x) (dMask d) = false →
        ∃ t, exec (.admission die ctx) s = .next t ∧ (t.mbc n x c).state = 4 ∧ (t.mbc n x c).pos = p
          ∧ (t.stg n x).phase = .send ∧ (t.stg n x).mb = some c)
      ∧ (dRefused d = false → dLength d ≠ 0 → dLength d ≤ u.rdB (Reg.MBQ_MAXLEN n x) 31 0 →
        predTrue (u.curSlot n x) (dMask d) = true → u.anyDamaged shards = false →
        (∀ ps, u.prefetchWaits n x = false → pages = some ps → u.ledRoom shards = true →
          ∃ t, exec (.admission die ctx) s = .next t ∧ (t.mbc n x c).state = 1 ∧ (t.mbc n x c).pos = p
            ∧ (t.mbc n x c).pages = ps ∧ (t.stg n x).phase = .work ∧ (t.stg n x).mb = some c)
        ∧ (u.prefetchWaits n x = true ∨ pages = none ∨ u.ledRoom shards = false → waits 4)))
  ∧ ∀ (die : BitVec 2) (ctx : BitVec 5) (s : State), s.Live → s.Canonical → (s.stg die.toNat ctx.toNat).phase ≠ .await →
    exec (.admission die ctx) s = .next s

/-- MBQ_ABORT with GO, by a master that may write it: a STASHED context of the SEQ without a transfer becomes ABORTED and its
pages are free; without such a context ABORTFAIL is set. ABORT_RELEASE does the same for an abort that waited, once the
transfer has finished (R109; a slot that waits for admission goes on with it, R114). MBQ_GATE takes EN and COUNTER at once. A
write of MBQ_CTX_SEL latches the selected context's state, SEQ, LENGTH, pages, version tag and admission time into the four
data registers, or zero when the context holds no stage, lies beyond MAX_CONTEXTS or is FREE (R114, R115). -/
def Obligations.MicrobatchControls : Prop :=
  ((∀ (m : BitVec 8) (die : BitVec 2) (ctx : BitVec 5) (v : Word) (s : State), s.Live → s.Canonical → Claim.mayWrite s m →
     let n := die.toNat
     let x := ctx.toNat
     let found := (List.range 256).find? fun c => (s.mbc n x c).state == 2 && dSeq (s.mbc n x c).desc == bits v 31 0
     s.ctxValid n x = true → (s.stg n x).phase ≠ .await → bit v 63 = true →
     (∀ c, found = some c → (s.mbc n x c).xfer = false →
       ∃ t, exec (.mbqAbort m die ctx v) s = .next t ∧ (t.mbc n x c).state = 5 ∧ (t.mbc n x c).pages = []
         ∧ (∀ a, t.rd a = s.rd a) ∧ ∀ a, t.byte a = s.byte a)
     ∧ (found = none → ∃ t, exec (.mbqAbort m die ctx v) s = .next t ∧ bit (t.rd (Reg.MBQ_EVT n x)) 4 = true
         ∧ t.mbs = s.mbs ∧ (∀ a, a ≠ Reg.MBQ_EVT n x → t.rd a = s.rd a) ∧ ∀ a, t.byte a = s.byte a))
   ∧ ∀ (die : BitVec 2) (ctx : BitVec 5) (mb : BitVec 8) (s : State), s.Live → s.Canonical →
     let b := s.mbc die.toNat ctx.toNat mb.toNat
     b.abortReq = true → b.xfer = false → b.state = 2 →
     ∃ t, exec (.abortRelease die ctx mb) s = .next t ∧ (t.mbc die.toNat ctx.toNat mb.toNat).state = 5
       ∧ (t.mbc die.toNat ctx.toNat mb.toNat).pages = [] ∧ (∀ a, t.rd a = s.rd a) ∧ ∀ a, t.byte a = s.byte a)
  ∧ ((∀ (m : BitVec 8) (die : BitVec 2) (ctx : BitVec 5) (v : Word) (s : State), s.Live → s.Canonical → Claim.mayWrite s m →
     let g := Reg.MBQ_GATE die.toNat ctx.toNat
     (s.ctxValid die.toNat ctx.toNat = true → (s.stg die.toNat ctx.toNat).phase ≠ .await →
       ∃ t, exec (.mbqGateWrite m die ctx v) s = .next t ∧ bit (t.rd g) 63 = bit v 63 ∧ bits (t.rd g) 13 0 = bits v 13 0
         ∧ (∀ a, a ≠ g → t.rd a = s.rd a) ∧ ∀ a, t.byte a = s.byte a)
     ∧ (s.ctxValid die.toNat ctx.toNat = false →
       exec (.mbqGateWrite m die ctx v) s = .next { s with out := s.out ++ [.access St.ok 0] }))
   ∧ ∀ (m : BitVec 8) (die : BitVec 2) (v : Word) (s : State), s.Live → s.Canonical → Claim.mayWrite s m →
     let n := die.toNat
     let x := bits v 4 0
     let c := bits v 15 8
     let b := s.mbc n x c
     let none := s.ctxValid n x = false ∨ s.maxCtx n x ≤ c ∨ b.state = 0
     ∃ t, exec (.mbqCtxSelWrite m die v) s = .next t
       ∧ (none → t.rd (Reg.MBQ_CTX_DATA0 n) = 0 ∧ t.rd (Reg.MBQ_CTX_DATA1 n) = 0 ∧ t.rd (Reg.MBQ_CTX_DATA2 n) = 0
         ∧ t.rd (Reg.MBQ_CTX_DATA3 n) = 0)
       ∧ (¬none → t.rd (Reg.MBQ_CTX_DATA0 n) = w (b.state + 2 ^ 32 * dSeq b.desc)
         ∧ t.rd (Reg.MBQ_CTX_DATA1 n) = w (dLength b.desc + 2 ^ 32 * b.pages.length)
         ∧ t.rd (Reg.MBQ_CTX_DATA2 n) = b.tag ∧ t.rd (Reg.MBQ_CTX_DATA3 n) = w b.admitted)
       ∧ t.mbs = s.mbs ∧ ∀ a, t.byte a = s.byte a)

/-! ### Ledgers -/

/-- REPLICA_REGISTER: without a loaded job, and to a device that is not admitted, the owner answers DENIED; it refuses a
shard it does not own and a registration beyond 512 replicas; it lists a new replica last and answers with its header's
address, its commit word and fingerprint. REGISTER_RETRY sends a registration again when its time has come, and
REGISTER_REPLY with DENIED sets that time 1 ms ahead; accepted, it stores the header's address; refused, it sets REGFAIL.
NOTICE_RELEASE drops the replica's notice and its reference (R136, R137). -/
def Obligations.ReplicaRegistration : Prop :=
  (∀ (dev : BitVec 18) (shard : BitVec 32) (s : State), s.Live → s.Canonical →
    (s.jobOn = false ∨ s.admitted dev.toNat = false →
      exec (.replicaRegister dev shard) s = .next { s with out := s.out ++ [.regReply dev.toNat 1 0 0 0] })
    ∧ (s.jobOn = true → s.admitted dev.toNat = true →
      (s.ledOfShard shard.toNat true = none →
        exec (.replicaRegister dev shard) s = .next { s with out := s.out ++ [.regReply dev.toNat 2 0 0 0] })
      ∧ ∀ l, s.ledOfShard shard.toNat true = some l →
        let yes := Out.regReply dev.toNat 0 (s.devId * 2 ^ 46 + (s.led l).hdr) (s.ledCommit l) (w (s.slotFprint l (s.ledSlot l)))
        (dev.toNat ∈ s.replicaList l → exec (.replicaRegister dev shard) s = .next { s with out := s.out ++ [yes] })
        ∧ (dev.toNat ∉ s.replicaList l → (s.replicaList l).length = 512 →
          exec (.replicaRegister dev shard) s = .next { s with out := s.out ++ [.regReply dev.toNat 2 0 0 0] })
        ∧ (dev.toNat ∉ s.replicaList l → (s.replicaList l).length < 512 → Claim.clean s (s.led l).hdr 4096 →
          ∃ t, exec (.replicaRegister dev shard) s = .next t ∧ t.replicaList l = s.replicaList l ++ [dev.toNat]
            ∧ t.out = s.out ++ [yes] ∧ t.ledgers = s.ledgers
            ∧ ∀ a, a < (s.led l).hdr ∨ (s.led l).hdr + 4096 ≤ a → t.byte a = s.byte a)))
  ∧ (∀ (l : BitVec 16) (s : State) (d : Nat), s.Live → s.Canonical → (s.led l.toNat).regDue = some d →
    (d ≤ s.now → exec (.registerRetry l) s = .next (s.commit (s.registerSend l.toNat))
      ∧ ∃ t, exec (.registerRetry l) s = .next t
        ∧ (s.mayOriginate = true → .register (s.led l.toNat).ownerDev (s.led l.toNat).shard ∈ t.out)
          ∧ (2 ≤ (s.led l.toNat).depth → (t.led l.toNat).regDue = none) ∧ ∀ a, t.byte a = s.byte a)
    ∧ (s.now < d → exec (.registerRetry l) s = .next s))
  ∧ (∀ (l : BitVec 16) (res : BitVec 2) (h : Word) (s : State), s.Live → s.Canonical → s.jobState = 3 → l.toNat < s.ledCount →
    let x := s.led l.toNat
    x.owner = false → 2 ≤ x.depth → x.registered = false → Claim.clean s x.hdr 4096 →
    ∃ t, exec (.registerReply l res h) s = .next t
      ∧ (res = 0 → (t.led l.toNat).registered = true ∧ t.rawNat (x.hdr + 0x30) 8 = h.toNat
          ∧ ∀ a, a < x.hdr + 0x30 ∨ x.hdr + 0x38 ≤ a → t.byte a = s.byte a)
      ∧ (res = 1 → t.led l.toNat = { x with regDue := some (s.now + 100000) } ∧ ∀ a, t.byte a = s.byte a)
      ∧ (2 ≤ res.toNat → bit (t.rd (Reg.LED_EVT 0)) 4 = true ∧ t.ledgers = s.ledgers ∧ ∀ a, t.byte a = s.byte a))
  ∧ ∀ (dev : BitVec 18) (shard : BitVec 32) (s : State) (l k st : Nat), s.Live → s.Canonical → s.ledOfShard shard.toNat true = some l →
    (s.led l).notices.filter (fun r => r.dev = dev.toNat) = [⟨dev.toNat, k, st⟩] → Claim.clean s (s.led l).hdr 4096 → k < 32 →
    ∃ t, exec (.noticeRelease dev shard) s = .next t
      ∧ (t.led l).notices = (s.led l).notices.filter (fun r => r.dev ≠ dev.toNat) ∧ t.slotRefs l k = s.slotRefs l k - 1
      ∧ (t.slotRefs l k = 0 → s.slotState l k = 4 → t.slotState l k = 0)
      ∧ (t.slotRefs l k ≠ 0 ∨ s.slotState l k ≠ 4 → ∀ a, t.byte a = s.byte a)

/-- COMMIT_NOTICE at a replica in READY or RUNNING: a notice whose STEP is not above the committed STEP is released at once;
one no newer than the fetch in progress changes nothing; a newer one abandons that fetch and starts a fetch into a FREE slot,
or waits for one with UPDWAIT. REPLICA_FETCH_DONE: a fetch that failed is given up; a matching fingerprint writes and commits
the version and releases the notice; a mismatch fetches again twice, then gives up with LED_EVT.FPRINT and releases (R122,
R126, R138). -/
def Obligations.CommitNotices : Prop :=
  (∀ (b : List Byte) (s : State) (l : Nat), s.Live → s.Canonical → s.jobOn = true → s.ledOfShard (leAt b 0 4) false = some l →
    2 ≤ (s.led l).depth → leAt b 4 4 = (s.led l).ownerDev →
    (leAt b 8 8 / 256 ≤ s.ledStep l →
      exec (.commitNotice b) s = .next (s.commit (s.noticeRelease l))
      ∧ ∃ t, exec (.commitNotice b) s = .next t ∧ (s.mayOriginate = true →
        .release (s.led l).ownerDev (s.led l).shard ∈ t.out) ∧ t.ledgers = s.ledgers
        ∧ ∀ a, t.byte a = s.byte a)
    ∧ (s.ledStep l < leAt b 8 8 / 256 → (s.led l).damaged = none →
      (s.fetchNewer l (leAt b 8 8 / 256) = true → exec (.commitNotice b) s = .next s)
      ∧ (s.fetchNewer l (leAt b 8 8 / 256) = false → exec (.commitNotice b) s
        = .next (s.commit ((s.fetchDrop l true).fetchClaim l ⟨0, w (leAt b 8 8), w (leAt b 16 8), w (leAt b 24 8), 0, false, 0⟩)))))
  ∧ (∀ (u : State) (l : Nat) (f : Fetch),
    (∀ k, u.pendSlot l = none → u.freeSlot l = some k →
      u.fetchClaim l f = (u.setSlotState l k 1).fetchRead l { f with slot := k })
    ∧ (u.pendSlot l ≠ none ∨ u.freeSlot l = none → ((u.fetchClaim l f).led l).fetch = some { f with waiting := true }
      ∧ ((u.led l).waiting = false → bit ((u.fetchClaim l f).rd (Reg.LED_EVT 0)) 3 = true)))
  ∧ ∀ (l : BitVec 16) (s : State) (f : Fetch), s.Live → s.Canonical → (s.led l.toNat).fetch = some f → f.waiting = false →
    2 ≤ (s.led l.toNat).depth →
    (∀ st, (s.xfer f.xfer).ended = some st → st ≠ 0 → exec (.replicaFetchDone l) s = .next (s.commit (s.fetchDrop l.toNat true)))
    ∧ ∀ bs u, (s.xfer f.xfer).ended = some 0 →
      s.load 0xE0 ((s.led l.toNat).slotAddr f.slot) (s.led l.toNat).bytes = (St.ok, bs, u) →
      (crc64 bs = f.fprint.toNat → exec (.replicaFetchDone l) s = .next (s.commit
        ((((u.slotWritten l.toNat f.slot (f.commit.toNat / 256) (crc64 bs)).commitSlot l.toNat f.slot).fetchDrop l.toNat
          false).noticeRelease l.toNat)))
      ∧ (crc64 bs ≠ f.fprint.toNat → f.tries < 2 → exec (.replicaFetchDone l) s = .next (s.commit
        (((u.addB (Reg.LED_FETCH 0) 47 32 1).dropXfers (.led l.toNat)).fetchRead l.toNat { f with tries := f.tries + 1 })))
      ∧ (crc64 bs ≠ f.fprint.toNat → 2 ≤ f.tries → ∃ t, exec (.replicaFetchDone l) s = .next t
        ∧ bit (t.rd (Reg.LED_EVT 0)) 1 = true
        ∧ (s.mayOriginate = true → .release (s.led l.toNat).ownerDev (s.led l.toNat).shard ∈ t.out))

/-- A commit replaces the commit word by slot and STEP; the slot becomes COMMITTED and the previous one FREE without
references, or RETIRED (R117, R121, R128). LEDGER_READ_FAULT logs the status, damages the ledger, ends its fetch and its
updates, and stops every stage whose slot holds a version of it (R488). LED_SEL_WRITE latches the selected ledger and slot,
or zero (R143). -/
def Obligations.LedgerRecords : Prop :=
  (∀ (s : State) (l k : Nat), k < 32 → Claim.clean s (s.led l).hdr 4096 →
    let u := s.commitSlot l k
    let old := s.ledSlot l
    u.ledCommit l = w (k + 256 * s.slotStep l k) ∧ u.slotState l k = 3
      ∧ (old ≠ k → u.slotState l old = if s.slotRefs l old = 0 then 0 else 4)
      ∧ ∀ j, j ≠ k → j ≠ old → u.slotState l j = s.slotState l j)
  ∧ (∀ (l : BitVec 16) (st : BitVec 8) (s : State), s.Live → s.Canonical → l.toNat < s.ledCount → st.toNat = St.parity ∨ st.toNat = St.poison →
    Tbl.wf (fun _ => ({} : UpdEngine)) s.updEngines = true →
    ∃ t, exec (.ledgerReadFault l st) s = .next t ∧ (t.led l.toNat).damaged = some st.toNat ∧ (t.led l.toNat).fetch = none
      ∧ (∃ e ∈ t.errBuf, e.block = Blk.led ∧ e.status = st.toNat ∧ e.info1 = w l.toNat)
      ∧ (Tbl.wf (fun _ => ({} : StageCtx)) s.stages = true →
        ∀ n < 4, ∀ x < 32, s.slotNeeds n x l.toNat = true → (t.stg n x).running = false)
      ∧ ∀ v < 16, ∀ g, (s.updEng v).trig = some g → g.led = l.toNat → (t.updEng v).trig = none)
  ∧ ∀ (m : BitVec 8) (v : Word) (s : State), s.Live → s.Canonical → Claim.mayWrite s m →
    let l := bits v 15 0
    let k := bits v 20 16
    ∃ t, exec (.ledSelWrite m v) s = .next t
      ∧ (s.ledCount ≤ l → t.rd (Reg.LED_DATA0 0) = 0 ∧ t.rd (Reg.LED_DATA1 0) = 0 ∧ t.rd (Reg.LED_DATA2 0) = 0
        ∧ t.rd (Reg.LED_DATA3 0) = 0 ∧ t.rd (Reg.LED_DATA4 0) = 0 ∧ t.rd (Reg.LED_DATA5 0) = 0)
      ∧ (l < s.ledCount → t.rd (Reg.LED_DATA0 0) = s.ledCommit l ∧ t.rd (Reg.LED_DATA1 0) = s.ledOccupancy l
        ∧ t.rd (Reg.LED_DATA3 0) = w (s.slotFprint l (s.ledSlot l))
        ∧ t.rd (Reg.LED_DATA4 0) = (if (s.led l).depth ≤ k then 0 else w (s.slotState l k + 2 ^ 16 * s.slotRefs l k))
        ∧ t.rd (Reg.LED_DATA5 0) = (if (s.led l).depth ≤ k then 0 else w (s.slotStep l k)))
      ∧ t.ledgers = s.ledgers ∧ ∀ a, t.byte a = s.byte a

/-- The value of COL_VOTE_RX that this device writes for a step: a vote, or an outcome (R372). -/
def Sys2Proof.Claim.voteWord (s : State) (step : Nat) (fin down : Bool) : Nat :=
  step + (if fin then 2 ^ 40 else 0) + (if down then 2 ^ 41 else 0) + 2 ^ 42 * s.devRole

/-- In `t` the collective engine of the device has written that value to COL_VOTE_RX of a device, and the write has not
ended. -/
def Sys2Proof.Claim.voteWrote (s t : State) (step dev : Nat) (fin down : Bool) : Prop :=
  ∃ id, t.remoteSends.get id noSend
    = ⟨.vote, step, 3, dev, Reg.COL_VOTE_RX, toBytes 8 (Claim.voteWord s step fin down), 0, none, none, false, false⟩

/-- A step's outcome: LED_STEP takes the step and whether it was finite, LED_PENDING the next step (0 when no ledger is
owned), and the counter that LED_OUTCOME names the value s + 1 (R134). STEP_VOTE_READY takes the vote of the owned shards;
alone in its group the device decides at once. Any other waits for its children: then role 0 decides, and any other role
writes its vote to COL_VOTE_RX of its parent, and the write leaves by the parent's route (R376, step 3). STEP_COMMIT and
STEP_DISCARD apply the outcome once every vote write of the step has completed (R132, R377). A write of LED_RESOLVE resolves
a held step, by job software in READY or RUNNING and by a management core in any job state (R486; log entry 29), and any
other sets RESFAIL (R142). VOTE_TIMEOUT holds the step (R377). UP_VOTE and VOTE_OUTCOME by an admitted device that is no
depot: a child's first up-vote for the running step is kept, and the last one that was missing ends the wait; the outcome of
the step that this device voted on decides it and is written to every child (R376, step 5); an unadmitted device is denied
(R342, R372). COL_VOTE_CFG_WRITE: with EN 0 the table counts as unread; in RUNNING a set EN reads it at once (R375). -/
def Obligations.StepVotes : Prop :=
  ((∀ (s : State) (step : Nat) (fin : Bool),
     let o := s.rd (Reg.LED_OUTCOME 0)
     let m := bits o 13 0
     let u := s.stepOutcome step fin
     u.rd (Reg.LED_STEP 0) = w (step % 2 ^ 32 + 2 ^ 32 + (if fin then 2 ^ 33 else 0))
       ∧ u.rdB (Reg.LED_PENDING 0) 39 0 = (if s.ownedIds = [] then 0 else (step + 1) % 2 ^ 40)
       ∧ (bit o 63 = true → s.msOk m = true → step + 1 < 2 ^ 64 → u.msVal m = max (s.msVal m) (step + 1)))
   ∧ (∀ (s : State), s.Live → s.Canonical → s.jobState = 3 → s.perShard = false → s.voteHeld = false → s.voteState ≠ 1 → s.voteState ≠ 2 →
     s.vote.outcome = none → (∀ l ∈ s.ownedIds, (s.ledEnd l s.voteStep).isSome = true) →
     let fin := s.ownedIds.all fun l => s.ledEnd l s.voteStep == some true
     (s.devCount ≤ 1 → s.ownedIds ≠ [] → ∃ t, exec .stepVoteReady s = .next t ∧ t.vote.outcome = some fin
       ∧ t.rdB Reg.COL_VOTE_STATUS 39 0 = s.voteStep ∧ t.voteState = 0 ∧ ∀ a, t.byte a = s.byte a)
     ∧ (1 < s.devCount → s.vote.known = false → ∃ t, exec .stepVoteReady s = .next t ∧ t.voteState = 1
       ∧ bit (t.rd Reg.COL_EVT) 4 = true)
     ∧ (1 < s.devCount → s.vote.known = true → s.devRole ≠ 0 →
       (∀ k ∈ s.vote.kids, ∃ u ∈ s.vote.ups, u.1 = k.1) → ∃ t, exec .stepVoteReady s = .next t ∧ t.voteState = 2
         ∧ Claim.voteWrote s t (s.voteStep % 2 ^ 40) s.vote.parent (fin && s.vote.ups.all (·.2)) false
         ∧ (s.mayOriginate = true → s.rdB Reg.FAB_TAG_CFG 13 0 < s.tagsFree → s.isMasked 0xD5 = false →
           ∀ q, s.routeOf s.devId s.vote.parent 2 = .port q → ∃ tag k, ⟨packetBytes 3 2 (s.rdB Reg.RTE_CFG 5 0) 0xD5 s.vote.parent s.devId k
             Reg.COL_VOTE_RX 8 0 (toBytes 8 (Claim.voteWord s (s.voteStep % 2 ^ 40) (fin && s.vote.ups.all (·.2)) false)), 3, some tag,
             false⟩ ∈ (t.port q).queue))
     ∧ (1 < s.devCount → s.vote.known = true → s.devRole = 0 → (∀ k ∈ s.vote.kids, ∃ u ∈ s.vote.ups, u.1 = k.1) →
       ∃ t, exec .stepVoteReady s = .next t ∧ t.voteState = 0 ∧ t.vote.outcome = some (fin && s.vote.ups.all (·.2))
         ∧ ∀ k ∈ s.vote.kids, Claim.voteWrote s t (s.voteStep % 2 ^ 40) k.2 (fin && s.vote.ups.all (·.2)) true))
   ∧ (∀ (s : State), s.Live → s.Canonical →
     let told (t : State) (fin : Bool) := t.vote.outcome = none ∧ t.vote.ups = s.vote.early
       ∧ t.rd (Reg.LED_STEP 0) = w (s.voteStep % 2 ^ 32 + 2 ^ 32 + (if fin then 2 ^ 33 else 0))
     (s.vote.outcome = some true → s.voteQuiet s.voteStep = true →
       exec .stepCommit s = .next (s.commit ((s.commitStep s.voteStep).voteNext s.voteStep))
       ∧ ∃ t, exec .stepCommit s = .next t ∧ told t true)
     ∧ (s.vote.outcome = some false → s.voteQuiet s.voteStep = true →
       exec .stepDiscard s = .next (s.commit ((s.discardStep s.voteStep).voteNext s.voteStep))
       ∧ ∃ t, exec .stepDiscard s = .next t ∧ told t false ∧ bit (t.rd (Reg.LED_EVT 0)) 0 = true)
     ∧ (s.vote.outcome ≠ some true ∨ s.voteQuiet s.voteStep = false → exec .stepCommit s = .next s)
     ∧ (s.vote.outcome ≠ some false ∨ s.voteQuiet s.voteStep = false → exec .stepDiscard s = .next s))
   ∧ (∀ (m : BitVec 8) (v : Word) (s : State), s.Live → s.Canonical → m ≠ 0xE4 → bit v 63 = true →
     let good := (isMgmt m.toNat = true ∨ s.jobOn = true) ∧ s.voteHeld = true ∧ bits v 39 0 = s.voteStep + 1
     let u := s.wrB (Reg.LED_PENDING 0) 41 40 0
     let told (t : State) (fin : Bool) := t.voteHeld = false
       ∧ t.rd (Reg.LED_STEP 0) = w (s.voteStep % 2 ^ 32 + 2 ^ 32 + (if fin then 2 ^ 33 else 0))
     let unfit (t : State) := bit (t.rd (Reg.LED_EVT 0)) 5 = true ∧ (∀ a, a ≠ Reg.LED_EVT 0 → t.rd a = s.rd a)
       ∧ ∀ a, t.byte a = s.byte a
     (good → exec (.ledResolveCommit m v) s
         = .next (s.commit (((u.commitStep s.voteStep).voteNext s.voteStep).answer St.ok 0))
       ∧ (∃ t, exec (.ledResolveCommit m v) s = .next t ∧ told t true)
       ∧ exec (.ledResolveDiscard m v) s
         = .next (s.commit (((u.discardHeld s.voteStep).voteNext s.voteStep).answer St.ok 0))
       ∧ ∃ t, exec (.ledResolveDiscard m v) s = .next t ∧ told t false)
     ∧ (¬good → (∃ t, exec (.ledResolveCommit m v) s = .next t ∧ unfit t)
       ∧ ∃ t, exec (.ledResolveDiscard m v) s = .next t ∧ unfit t))
   ∧ (∀ (s : State), s.Live → s.Canonical → s.voteState = 1 ∨ s.voteState = 2 →
     (s.vote.t0 + s.rdB Reg.COL_VOTE_CFG 63 32 ≤ s.now → ∃ t, exec .voteTimeout s = .next t ∧ t.voteState = 3 ∧ t.voteHeld = true
       ∧ t.ledgers = s.ledgers ∧ ∀ a, t.byte a = s.byte a)
     ∧ (s.now < s.vote.t0 + s.rdB Reg.COL_VOTE_CFG 63 32 → exec .voteTimeout s = .next s)))
  ∧ ((∀ (src : BitVec 18) (v : Word) (s : State), s.Live → s.Canonical →
     let role := bits v 59 42
     let fit := s.admitted src.toNat = true ∧ src.toNat ∉ s.depots
     let turned (t : State) := t.out = s.out ++ [.access St.denied 0] ∧ t.vote = s.vote ∧ bit (t.rd Reg.FAB_EVT) 2 = true
       ∧ (t.rd Reg.FAB_CNT_DENIED).toNat = min (2 ^ 64 - 1) ((s.rd Reg.FAB_CNT_DENIED).toNat + 1)
       ∧ (∀ a, a ≠ Reg.FAB_CNT_DENIED → a ≠ Reg.FAB_CNT_IN → a ≠ Reg.FAB_EVT → t.rd a = s.rd a) ∧ ∀ a, t.byte a = s.byte a
     (¬fit → (∃ t, exec (.upVote src v) s = .next t ∧ turned t) ∧ ∃ t, exec (.voteOutcome src v) s = .next t ∧ turned t)
     ∧ (fit → s.voteState = 0 → role ∈ childRoles s.devRole s.devCount → bits v 39 0 = s.voteStep →
       (∀ u ∈ s.vote.ups, u.1 ≠ role) → ∃ t, exec (.upVote src v) s = .next t ∧ t.vote.ups = s.vote.ups ++ [(role, bit v 40)]
         ∧ (∀ a, a ≠ Reg.COL_VOTE_STATUS → a ≠ Reg.FAB_CNT_IN → t.rd a = s.rd a) ∧ ∀ a, t.byte a = s.byte a)
     ∧ (fit → s.voteState = 1 → s.vote.known = true → role ∈ childRoles s.devRole s.devCount → bits v 39 0 = s.voteStep →
       (∀ u ∈ s.vote.ups, u.1 ≠ role) → (∀ k ∈ s.vote.kids, k.1 = role ∨ ∃ u ∈ s.vote.ups, u.1 = k.1) →
       let st := s.rdB Reg.COL_VOTE_STATUS 39 0
       let fin := s.rdB Reg.COL_VOTE_STATUS 43 43 == 1 && s.vote.ups.all (·.2) && bit v 40
       ∃ t, exec (.upVote src v) s = .next t
         ∧ (s.devRole ≠ 0 → t.voteState = 2 ∧ Claim.voteWrote s t st s.vote.parent fin false)
         ∧ (s.devRole = 0 → t.voteState = 0 ∧ t.vote.outcome = some fin ∧ ∀ k ∈ s.vote.kids, Claim.voteWrote s t st k.2 fin true))
     ∧ (fit → s.voteState = 2 → bits v 39 0 = s.rdB Reg.COL_VOTE_STATUS 39 0 →
       ∃ t, exec (.voteOutcome src v) s = .next t ∧ t.vote.outcome = some (bit v 40) ∧ t.voteState = 0
         ∧ ∀ k ∈ s.vote.kids, Claim.voteWrote s t (s.rdB Reg.COL_VOTE_STATUS 39 0) k.2 (bit v 40) true))
   ∧ ∀ (m : BitVec 8) (v : Word) (s : State), s.Live → s.Canonical → Claim.mayWrite s m → 1000 ≤ bits v 63 32 →
     (bit v 0 = false → ∃ t, exec (.colVoteCfgWrite m v) s = .next t ∧ bit (t.rd Reg.COL_VOTE_CFG) 0 = false
       ∧ bits (t.rd Reg.COL_VOTE_CFG) 63 32 = bits v 63 32 ∧ t.vote = { s.vote with known := false }
       ∧ (∀ a, a ≠ Reg.COL_VOTE_CFG → t.rd a = s.rd a) ∧ ∀ a, t.byte a = s.byte a)
     ∧ (bit v 0 = true → s.jobState = 3 → ∃ c, bit c 0 = true ∧ bits c 63 32 = bits v 63 32
       ∧ exec (.colVoteCfgWrite m v) s = .next (s.commit (((s.wr Reg.COL_VOTE_CFG c).voteRead.voteGo).answer St.ok 0))))

/-! ### Matrix engines -/

/-- The engine of a sequencer command. -/
def Sys2Proof.Claim.mxOf : Instr → Option (BitVec 6)
  | .nopMe e | .cfg e .. | .setx e .. | .addx e .. | .lea e .. | .addxx e .. | .lda e .. | .ldb e .. | .lds e .. | .mma e ..
  | .drnPlain e .. | .drnAmax e .. | .drnQuant e .. | .drnTopk e .. | .drnTopkEmit e .. | .waitm e .. | .advm e .. | .bar e ..
  | .loop e .. | .jmp e .. | .bnz e .. | .endOp e => some e
  | _ => none

/-- The word address of an engine (MX_STATUS.PC). -/
def Sys2Proof.Claim.mxPc (s : State) (e : Nat) : Nat := s.rdB (mxReg Reg.MX_STATUS e) 28 16

/-- The engine runs, and holds the index registers and loop counters that starting it gives it. -/
def Sys2Proof.Claim.mxUp (s : State) (e : Nat) : Prop :=
  s.mxState e = 1 ∧ (s.eng e).ix.length = 16 ∧ (s.eng e).ixTag.length = 16 ∧ (s.eng e).ixHandle.length = 16
    ∧ (s.eng e).loops.length = 4

/-- From `s` to `t` engine e went on to the word `pc` and counted the instruction; beside MX_STATUS, MX_CNT_INSTR and `ws` no
register, no other engine and no byte of memory changed. -/
def Sys2Proof.Claim.mxGoes (s t : State) (e pc : Nat) (ws : List Nat) : Prop :=
  t.mxState e = 1 ∧ Claim.mxPc t e = pc % 2 ^ 13
    ∧ (t.rd (mxReg Reg.MX_CNT_INSTR e)).toNat = min (2 ^ 64 - 1) ((s.rd (mxReg Reg.MX_CNT_INSTR e)).toNat + 1)
    ∧ (∀ a, a ≠ mxReg Reg.MX_STATUS e → a ≠ mxReg Reg.MX_CNT_INSTR e → a ∉ ws → t.rd a = s.rd a)
    ∧ (∀ j, j ≠ e → t.eng j = s.eng j) ∧ ∀ a, t.byte a = s.byte a

/-- From `s` to `t` the engine's instruction faulted (R171): code and PC are recorded, MX_EVT.FAULT is set, the stage
stopped, and the engine and memory are as they were. -/
def Sys2Proof.Claim.mxFaults (s t : State) (e code : Nat) : Prop :=
  t.mxState e = 4 ∧ bits (t.rd (mxReg Reg.MX_FAULT e)) 7 0 = code ∧ bits (t.rd (mxReg Reg.MX_FAULT e)) 28 16 = Claim.mxPc s e
    ∧ bit (t.rd (mxReg Reg.MX_EVT e)) 2 = true ∧ bits (t.rd (Reg.CAD_STATUS (s.mxStage e).1 (s.mxStage e).2)) 10 8 = 0
    ∧ t.engines = s.engines ∧ ∀ a, t.byte a = s.byte a

/-- Index register d of engine e took a value with its tag and handle; the other index registers and the rest of the engine
stayed. -/
def Sys2Proof.Claim.ixSet (s t : State) (e d : Nat) (v : Word) (tag h : Nat) : Prop :=
  (t.eng e).getIx d = v ∧ (t.eng e).getTag d = tag ∧ nth (t.eng e).ixHandle d 0 = h
    ∧ (∀ i, i ≠ d → (t.eng e).getIx i = (s.eng e).getIx i ∧ (t.eng e).getTag i = (s.eng e).getTag i
      ∧ nth (t.eng e).ixHandle i 0 = nth (s.eng e).ixHandle i 0)
    ∧ t.eng e = { s.eng e with ix := (t.eng e).ix, ixTag := (t.eng e).ixTag, ixHandle := (t.eng e).ixHandle, wait := .none }

/-- A sequencer command that is not the next instruction of its engine has no effect: the engine does not run, the word at
its PC is another one, its ports are masked, or the governor pauses issue (R148, R150, R299, R416). A started engine holds
its registers (R148). NOP goes on; CFG sets profile A, B or O; SETX, ADDX, LEA and ADDXX set one index register, with the
space tag of LEA or of the source (R150, R151). MX_IX_SEL_WRITE latches an index register's value and tag (R172). WAITM goes
on at once, or waits until the counter reaches its target; ADVM advances a counter, which saturates; BAR goes on when its
arrival completes the barrier, and waits otherwise; a counter or barrier that is not placed faults with SYNCREF (R153, R282,
R284, R487). LOOP, JMP and BNZ set the PC (R150). END clears the accumulator, sets UNDRAINED for a tile not drained, and
stops the engine (R149). In a stopped stage WAITM, BAR and END have no effect (R171), and while a write of an earlier drain
is not acknowledged ADVM, BAR and END have none (R153). -/
def Obligations.MatrixControl : Prop :=
  ((∀ (c : Instr) (s : State) (e : BitVec 6), s.Live → s.Canonical → Claim.mxOf c = some e → s.mxDue e.toNat c = false →
     exec c s = .next s)
   ∧ (∀ (s : State) (e rank cnt x : Nat) (bh bwd : Bool) (d : List Byte),
     (bwd = true → (if bh then (s.eng e).backhaul else (s.eng e).primary).entryBwd ≠ 0xFFFFFFFF) →
     Claim.mxUp (s.startEngine e rank cnt x bh bwd d) e)
   ∧ (∀ (e : BitVec 6) (s : State), s.Live → s.Canonical → Claim.mxUp s e.toNat →
     let n := e.toNat
     let g := s.eng n
     let pc := Claim.mxPc s n + 1
     let due (c : Instr) := s.mxDue n c = true
     (due (.nopMe e) → ∃ t, exec (.nopMe e) s = .next t ∧ Claim.mxGoes s t n pc [] ∧ t.eng n = { g with wait := .none })
     ∧ (∀ v,
       (due (.cfg e 0 v) → ∃ t, exec (.cfg e 0 v) s = .next t ∧ t.rd (mxReg Reg.MX_PROF_A n) = w v.toNat
         ∧ Claim.mxGoes s t n pc [mxReg Reg.MX_PROF_A n])
       ∧ (due (.cfg e 1 v) → ∃ t, exec (.cfg e 1 v) s = .next t ∧ t.rd (mxReg Reg.MX_PROF_B n) = w v.toNat
         ∧ Claim.mxGoes s t n pc [mxReg Reg.MX_PROF_B n])
       ∧ (due (.cfg e 2 v) → ∃ t, exec (.cfg e 2 v) s = .next t ∧ t.rd (mxReg Reg.MX_PROF_O n) = w v.toNat
         ∧ Claim.mxGoes s t n pc [mxReg Reg.MX_PROF_O n]))
     ∧ (∀ d imm, due (.setx e d imm) → ∃ t, exec (.setx e d imm) s = .next t
       ∧ Claim.ixSet s t n d.toNat (imm.zeroExtend 64) 0 0 ∧ Claim.mxGoes s t n pc [])
     ∧ (∀ d src imm, due (.addx e d src imm) → ∃ t, exec (.addx e d src imm) s = .next t
       ∧ Claim.ixSet s t n d.toNat (g.getIx src.toNat + imm.signExtend 64) (g.getTag src.toNat) (nth g.ixHandle src.toNat 0)
       ∧ Claim.mxGoes s t n pc [])
     ∧ (∀ d space h imm, due (.lea e d space h imm) → ∃ t, exec (.lea e d space h imm) s = .next t
       ∧ Claim.ixSet s t n d.toNat (imm.signExtend 64) (space.toNat + 1) h.toNat ∧ Claim.mxGoes s t n pc [])
     ∧ ∀ d src tx, due (.addxx e d src tx) → ∃ t, exec (.addxx e d src tx) s = .next t
       ∧ Claim.ixSet s t n d.toNat (g.getIx src.toNat + g.getIx tx.toNat) (g.getTag src.toNat) (nth g.ixHandle src.toNat 0)
       ∧ Claim.mxGoes s t n pc [])
   ∧ ∀ (m : BitVec 8) (e : BitVec 6) (v : Word) (s : State), s.Live → s.Canonical → Claim.mayWrite s m →
     ∃ t, exec (.mxIxSelWrite m e v) s = .next t ∧ t.rd (mxReg Reg.MX_IX_DATA e.toNat) = (s.eng e.toNat).getIx (bits v 3 0)
       ∧ t.rd (mxReg Reg.MX_IX_SEL e.toNat) = w (bits v 3 0 + 256 * (s.eng e.toNat).getTag (bits v 3 0))
       ∧ (∀ a, a ≠ mxReg Reg.MX_IX_DATA e.toNat → a ≠ mxReg Reg.MX_IX_SEL e.toNat → t.rd a = s.rd a) ∧ t.engines = s.engines
       ∧ ∀ a, t.byte a = s.byte a)
  ∧ (∀ (e : BitVec 6) (s : State), s.Live → s.Canonical → Claim.mxUp s e.toNat →
     let n := e.toNat
     let g := s.eng n
     let pc := Claim.mxPc s n
     let stopped := s.stageStopped (s.mxStage n)
     let due (c : Instr) := s.mxDue n c = true
     (stopped = true → ∀ c, (∃ m x, c = .waitm e m x) ∨ (∃ b, c = .bar e b) ∨ c = .endOp e → exec c s = .next s)
     ∧ (s.mxAcked n = false → ∀ c, (∃ m v, c = .advm e m v) ∨ (∃ b, c = .bar e b) ∨ c = .endOp e → exec c s = .next s)
     ∧ (∀ m x, stopped = false → due (.waitm e m x) →
       (s.msOk m.toNat = false → ∃ t, exec (.waitm e m x) s = .next t ∧ Claim.mxFaults s t n MxFault.syncref)
       ∧ (s.msOk m.toNat = true → (g.getIx x.toNat).toNat ≤ s.msVal m.toNat →
         ∃ t, exec (.waitm e m x) s = .next t ∧ Claim.mxGoes s t n (pc + 1) [])
       ∧ (s.msOk m.toNat = true → s.msVal m.toNat < (g.getIx x.toNat).toNat → ∃ t, exec (.waitm e m x) s = .next t
         ∧ t.mxState n = 2 ∧ (t.eng n).wait = .ms m.toNat (g.getIx x.toNat).toNat ∧ Claim.mxPc t n = pc
         ∧ ∀ a, t.byte a = s.byte a))
     ∧ (∀ m imm, s.mxAcked n = true → due (.advm e m imm) →
       (s.msOk m.toNat = false → ∃ t, exec (.advm e m imm) s = .next t ∧ Claim.mxFaults s t n MxFault.syncref)
       ∧ (s.msOk m.toNat = true → exec (.advm e m imm) s = .next (s.commit ((s.mxNext n).msAdd m.toNat imm.toNat))
         ∧ ∃ t, exec (.advm e m imm) s = .next t ∧ t.msVal m.toNat = min (2 ^ 64 - 1) (s.msVal m.toNat + imm.toNat)
           ∧ t.mxState n = 1 ∧ Claim.mxPc t n = (pc + 1) % 2 ^ 13 ∧ ∀ a, t.byte a = s.byte a))
     ∧ (∀ b, stopped = false → s.mxAcked n = true → due (.bar e b) →
       let r := Reg.SYN_BAR_STATE (b.toNat / 256) (b.toNat % 256)
       let full := s.rdB r 12 0 + 1 = s.rdB (Reg.SYN_BAR_CFG (b.toNat / 256) (b.toNat % 256)) 12 0
       (s.barOk b.toNat = false → ∃ t, exec (.bar e b) s = .next t ∧ Claim.mxFaults s t n MxFault.syncref)
       ∧ (s.barOk b.toNat = true → full → (∀ o ∈ s.barWaits, o.1 ≠ b.toNat) → ∃ t, exec (.bar e b) s = .next t
         ∧ Claim.mxGoes s t n (pc + 1) [r] ∧ t.rdB r 12 0 = 0 ∧ t.rdB r 47 16 = (s.rdB r 47 16 + 1) % 2 ^ 32)
       ∧ (s.barOk b.toNat = true → ¬full → ∃ t, exec (.bar e b) s = .next t ∧ t.mxState n = 2 ∧ (t.eng n).wait = .bar b.toNat
         ∧ t.rdB r 12 0 = (s.rdB r 12 0 + 1) % 2 ^ 13 ∧ (b.toNat, Owner.engine n) ∈ t.barWaits))
     ∧ (∀ l count target, 1 ≤ count.toNat → due (.loop e l count target) →
       (nth g.loops l.toNat 0 < count.toNat - 1 → ∃ t, exec (.loop e l count target) s = .next t
         ∧ Claim.mxGoes s t n target.toNat [] ∧ nth (t.eng n).loops l.toNat 0 = nth g.loops l.toNat 0 + 1)
       ∧ (count.toNat - 1 ≤ nth g.loops l.toNat 0 → ∃ t, exec (.loop e l count target) s = .next t
         ∧ Claim.mxGoes s t n (pc + 1) [] ∧ nth (t.eng n).loops l.toNat 0 = 0))
     ∧ (∀ target, due (.jmp e target) → ∃ t, exec (.jmp e target) s = .next t ∧ Claim.mxGoes s t n target.toNat [] ∧ t.eng n = g)
     ∧ (∀ x target, due (.bnz e x target) → ∃ t, exec (.bnz e x target) s = .next t
       ∧ Claim.mxGoes s t n (if g.getIx x.toNat = 0 then pc + 1 else target.toNat) [])
     ∧ (stopped = false → s.mxAcked n = true → due (.endOp e) → ∃ t, exec (.endOp e) s = .next t ∧ t.mxState n = 0 ∧ (t.eng n).acc = []
       ∧ (t.eng n).live = 0 ∧ (g.live ≠ 0 → bit (t.rd (mxReg Reg.MX_EVT n)) 3 = true)
       ∧ (g.live = 0 → t.rd (mxReg Reg.MX_EVT n) = s.rd (mxReg Reg.MX_EVT n)) ∧ ∀ a, t.byte a = s.byte a))

/-- IX[x] of engine e holds the device address `a - off` (no space tag), and `a` is aligned to 64 bytes. -/
def Sys2Proof.Claim.ixAt (s : State) (e : Nat) (x : BitVec 4) (off : BitVec 32) (a : Nat) : Prop :=
  (s.eng e).getTag x.toNat = 0 ∧ unsgn 64 (((s.eng e).getIx x.toNat).toNat + sgn 32 off.toNat) = a ∧ a % 64 = 0

/-- From `s` to `t` an instruction that is no branch completed: the engine runs on at the next word. -/
def Sys2Proof.Claim.mxNextPc (s t : State) (e : Nat) : Prop := t.mxState e = 1 ∧ Claim.mxPc t e = (Claim.mxPc s e + 1) % 2 ^ 13

/-- LDA, LDB and LDS, as the next instruction, read memory at IX[X] + OFFSET into one half: the loaded tile as the array sees
it, or sidecar data, from pages, tensors and slots as the address resolves, or at a device address from LPDDR. Whether a load
completes or faults, it changes no byte of memory and no accumulator. LDA and LDB fault with PROFILE under a profile that a
load may not use, or with T under a sparse one, and with BUFSIZE beyond 256 KiB (R159 to R162, R203, R204). -/
def Obligations.MatrixLoads : Prop :=
  ∀ (e : BitVec 6) (t h : Bool) (k : BitVec 2) (x : BitVec 4) (off : BitVec 32) (s : State), s.Live → s.Canonical →
    Claim.mxUp s e.toNat →
    let n := e.toNat
    let pa := s.mxProfA n
    let pb := s.mxProfB n
    let fits (p : OperandProf) (isB : Bool) := p.loadOk isB = true ∧ (t = true → p.sparse = 0) ∧ (tileBytes p isB).2 ≤ 262144
    let loaded (p : OperandProf) (isB : Bool) (bs : List Byte) (u : State) :=
      u.eng n = { (s.eng n).putHalf isB (bb h) (arrayView p isB t bs) t with wait := .none } ∧ Claim.mxNextPc s u n
    (∀ c ∈ [Instr.lda e t h x off, Instr.ldb e t h x off, Instr.lds e h k x off], ∃ u, exec c s = .next u
      ∧ (u.eng n).acc = (s.eng n).acc ∧ (∀ j, j ≠ n → u.eng j = s.eng j) ∧ ∀ a, u.byte a = s.byte a)
    ∧ (s.mxDue n (.lda e t h x off) = true →
      (pa.loadOk false = false ∨ t = true ∧ pa.sparse ≠ 0 →
        ∃ u, exec (.lda e t h x off) s = .next u ∧ Claim.mxFaults s u n MxFault.profile)
      ∧ (pa.loadOk false = true → (t = true → pa.sparse = 0) → 262144 < (tileBytes pa false).2 →
        ∃ u, exec (.lda e t h x off) s = .next u ∧ Claim.mxFaults s u n MxFault.bufsize)
      ∧ (∀ ps a bs v, fits pa false → s.mxResolve n x.toNat off.toNat (tileBytes pa false).2 = .pieces ps →
        s.mxRead n ps = (St.ok, a, bs, v) → ∃ u, exec (.lda e t h x off) s = .next u ∧ loaded pa false bs u)
      ∧ ∀ a, fits pa false → Claim.ixAt s n x off a → Claim.plain s a (tileBytes pa false).2 →
        ∃ u, exec (.lda e t h x off) s = .next u ∧ loaded pa false (s.rawRead a (tileBytes pa false).2) u)
    ∧ (s.mxDue n (.ldb e t h x off) = true →
      (pb.loadOk true = false ∨ t = true ∧ pb.sparse ≠ 0 →
        ∃ u, exec (.ldb e t h x off) s = .next u ∧ Claim.mxFaults s u n MxFault.profile)
      ∧ (pb.loadOk true = true → (t = true → pb.sparse = 0) → 262144 < (tileBytes pb true).2 →
        ∃ u, exec (.ldb e t h x off) s = .next u ∧ Claim.mxFaults s u n MxFault.bufsize)
      ∧ (∀ ps a bs v, fits pb true → s.mxResolve n x.toNat off.toNat (tileBytes pb true).2 = .pieces ps →
        s.mxRead n ps = (St.ok, a, bs, v) → ∃ u, exec (.ldb e t h x off) s = .next u ∧ loaded pb true bs u)
      ∧ ∀ a, fits pb true → Claim.ixAt s n x off a → Claim.plain s a (tileBytes pb true).2 →
        ∃ u, exec (.ldb e t h x off) s = .next u ∧ loaded pb true (s.rawRead a (tileBytes pb true).2) u)
    ∧ ∀ kind len o, (k, kind, len, o) ∈ [((1 : BitVec 2), 1, 64, 0x7F00), (2, 2, 16, 0x7F40)] →
      s.mxDue n (.lds e h k x off) = true →
      let put (bs : List Byte) (u : State) :=
        u.eng n = { s.eng n with side := setNth (s.eng n).side (bb h) (patch (nth (s.eng n).side (bb h) []) o bs), wait := .none }
          ∧ Claim.mxNextPc s u n
      (∀ ps a bs v, s.mxResolve n x.toNat off.toNat len = .pieces ps → s.mxRead n ps = (St.ok, a, bs, v) →
        ∃ u, exec (.lds e h k x off) s = .next u ∧ put bs u)
      ∧ ∀ a, Claim.ixAt s n x off a → Claim.plain s a len → ∃ u, exec (.lds e h k x off) s = .next u ∧ put (s.rawRead a len) u

/-- MMA as the next instruction: a combination that R155 and R170 do not allow faults with PROFILE, and a tile that is not
aligned or does not fit with TILE. Otherwise the accumulator takes the tile of products added to the old tile, or to zero
with CLR; the tile counts as live; the array's counters advance, and no byte of memory changes (R155 to R158, R189, R212). -/
def Obligations.MatrixMultiply : Prop :=
  ∀ (e : BitVec 6) (clr ah bh mask : Bool) (tile : BitVec 5) (s : State), s.Live → s.Canonical → Claim.mxUp s e.toNat →
    s.mxDue e.toNat (.mma e clr ah bh mask tile) = true →
    let n := e.toNat
    let g := s.eng n
    let a := s.mxProfA n
    let b := s.mxProfB n
    let o := s.mxProfO n
    let u := tileUnits o a.outer b.outer
    let old := readTile g.acc o tile.toNat a.outer b.outer
    let base := if clr then old.map fun r => r.map fun _ => (0, 0) else old
    let rows := mmaTile a b o mask (nth g.bufA (bb ah) {}) (nth g.bufB (bb bh) {}) (nth g.side (bb ah) []) (nth g.side (bb bh) []) base
    (mmaOk a b o mask = false → ∃ t, exec (.mma e clr ah bh mask tile) s = .next t ∧ Claim.mxFaults s t n MxFault.profile)
    ∧ (mmaOk a b o mask = true → tileOk tile.toNat u = false →
      ∃ t, exec (.mma e clr ah bh mask tile) s = .next t ∧ Claim.mxFaults s t n MxFault.tile)
    ∧ (mmaOk a b o mask = true → tileOk tile.toNat u = true → ∃ t, exec (.mma e clr ah bh mask tile) s = .next t
      ∧ (t.eng n).acc = writeTile g.acc o tile.toNat a.outer b.outer (rows.map fun r => r.map fun el => (el.1, el.2.1))
      ∧ (t.eng n).live = g.live.lor (unitMask tile.toNat u) ∧ (t.eng n).bufA = g.bufA ∧ (t.eng n).bufB = g.bufB
      ∧ (t.eng n).ix = g.ix
      ∧ (t.rd (mxReg Reg.MX_CNT_MAC n)).toNat
          = min (2 ^ 64 - 1) ((s.rd (mxReg Reg.MX_CNT_MAC n)).toNat + a.outer * b.outer * a.k / 65536)
      ∧ Claim.mxGoes s t n (Claim.mxPc s n + 1) [mxReg Reg.MX_CNT_ARRAY n, mxReg Reg.MX_CNT_SKIP n, mxReg Reg.MX_CNT_MAC n])

/-- Drains, as the next instruction, of a tile that profile O and the tile's units allow. TOPK keeps its candidates and
writes no memory; QUANT without its AMAX faults with ORDER; PLAIN, AMAX, QUANT and TOPK_EMIT write their bytes at the
addresses resolved beforehand and end the drain. The end of a drain clears the tile unless it is kept, reports mode, tile, NF
and SAT in MX_DRAIN_STAT, and goes on (R163 to R169, R186). -/
def Obligations.MatrixDrains : Prop :=
  (∀ (e : BitVec 6) (tile : BitVec 5) (keep : Bool) (x xs : BitVec 4) (off : BitVec 32) (s : State), s.Live → s.Canonical →
    Claim.mxUp s e.toNat →
    let n := e.toNat
    let g := s.eng n
    let o := s.mxProfO n
    let r := (s.mxProfA n).outer
    let c := (s.mxProfB n).outer
    let vals := (readTile g.acc o tile.toNat r c).map fun row => row.map (accVal o)
    let f := (fmtOf o.fmt).getD .fp32
    let pack (codes : List (List Nat)) : List Byte := (codes.map fun row => packElems (fmtWidth o.fmt) row).flatten
    let blocks := blocksOfTile o.bsize o.bdir r c vals
    let scales := blocks.map fun b => chooseScale f o.e4m3 b
    let q := drainCodes o c (scales.map (·.2)) vals
    let sb := (scales.zip blocks).map fun b => BitVec.ofNat 8 (writtenScale o.e4m3 b.1.1 b.2)
    let key := amaxKey tile.toNat r c (tileUnits o r c) (s.rd (mxReg Reg.MX_PROF_O n))
    let base := (g.getIx xs.toNat).toNat % 65536
    let top := s.topkMerge n o r c base vals
    let p := drainCodes o c (if o.bsize = 0 then [] else scales.map (·.2)) vals
    let pb := if o.bsize = 0 then [] else sb
    let z := drainCodes o c (g.scales.map fun k => scaleVal o.e4m3 k) vals
    let due (c : Instr) := s.mxDue n c = true
    let put (t : State) (a : Nat) (bs : List Byte) := Claim.mxNextPc s t n ∧ (∀ i (h : i < bs.length), t.byte (a + i) = bs[i])
      ∧ ∀ k, k < a ∨ a + bs.length ≤ k → t.byte k = s.byte k
    tileOk tile.toNat (tileUnits o r c) = true →
    (due (.drnPlain e tile keep x xs off) → drainOk o .plain r c = true →
      (∀ a b ps v, s.drainPlan n [(x.toNat, off.toNat, pack p.1), (xs.toNat, 0, pb)] = (0, a, ps) →
        s.mxWrite n ps (pack p.1 ++ pb) = (St.ok, b, v) →
        exec (.drnPlain e tile keep x xs off) s
          = .next (s.commit (v.drainEnd n .plain o tile.toNat r c keep p.2.1 p.2.2 none)))
      ∧ ∀ a, o.bsize = 0 → Claim.ixAt s n x off a → Claim.plain s a (pack p.1).length →
        ∃ t, exec (.drnPlain e tile keep x xs off) s = .next t ∧ put t a (pack p.1))
    ∧ (due (.drnAmax e tile keep x xs off) → drainOk o .amax r c = true → scaleCount o.bsize o.bdir r c ≤ 2048 → ∀ a b ps v,
      s.drainPlan n [(xs.toNat, 0, sb)] = (0, a, ps) → s.mxWrite n ps sb = (St.ok, b, v) →
      ∃ t, exec (.drnAmax e tile keep x xs off) s = .next t ∧ (t.eng n).scales = scales.map (·.1) ∧ (t.eng n).amax = some key
        ∧ (t.eng n).acc = g.acc ∧ bit (t.rd (mxReg Reg.MX_DRAIN_STAT n)) 0 = q.2.1.isSome)
    ∧ (due (.drnQuant e tile keep x xs off) → drainOk o .quant r c = true →
      (amaxMatches g.amax key = false → ∃ t, exec (.drnQuant e tile keep x xs off) s = .next t ∧ Claim.mxFaults s t n MxFault.order)
      ∧ (amaxMatches g.amax key = true → (∀ a b ps v, s.drainPlan n [(x.toNat, off.toNat, pack z.1)] = (0, a, ps) →
          s.mxWrite n ps (pack z.1) = (St.ok, b, v) → exec (.drnQuant e tile keep x xs off) s
            = .next (s.commit (v.drainEnd n .quant o tile.toNat r c keep z.2.1 z.2.2 none)))
        ∧ ∀ a, Claim.ixAt s n x off a → Claim.plain s a (pack z.1).length →
          ∃ t, exec (.drnQuant e tile keep x xs off) s = .next t ∧ put t a (pack z.1)))
    ∧ (due (.drnTopk e tile keep x xs off) → drainOk o .topk r c = true → base + (c - 1) ≤ 65534 →
      ∃ t, exec (.drnTopk e tile keep x xs off) s = .next t
      ∧ (t.eng n).cand = top.1 ∧ (t.eng n).candKey = (r, o.topk) ∧ t.mxState n = 1 ∧ ∀ a, t.byte a = s.byte a)
    ∧ (due (.drnTopkEmit e tile keep x xs off) → drainOk o .topkEmit r c = true → base + (c - 1) ≤ 65534 → ∀ a b ps v,
      let out := (top.1.map fun row => emitRow (o.acc == 1) o.topk row).flatten
      s.drainPlan n [(x.toNat, off.toNat, out)] = (0, a, ps) → s.mxWrite n ps out = (St.ok, b, v) →
      ∃ t, exec (.drnTopkEmit e tile keep x xs off) s = .next t ∧ (t.eng n).cand = [] ∧ (∀ k, t.byte k = v.byte k)))
  ∧ ∀ (u : State) (e tile rows cols : Nat) (m : DrainMode) (o : OutputProf) (keep sat : Bool) (nf : Option (Nat × Nat × Nat))
    (am : Option (Nat × Word)), e < 64 → tile < 32 → (∀ r c k, nf = some (r, c, k) → r < 128 ∧ c < 128 ∧ k < 4) →
    (u.eng e).ix.length = 16 →
    let d := u.drainEnd e m o tile rows cols keep nf sat am
    let st := d.rd (mxReg Reg.MX_DRAIN_STAT e)
    let um := unitMask tile (tileUnits o rows cols)
    (d.eng e).acc = (if keep then (u.eng e).acc else Tbl.clear (u.eng e).acc (tile * 4096) (tileUnits o rows cols * 4096))
      ∧ (d.eng e).live = bitsWithout (u.eng e).live um ∧ bits st 28 24 = tile ∧ bits st 31 29 = m.code
      ∧ bit st 0 = nf.isSome ∧ bit st 1 = (sat || (u.eng e).sat.land um != 0)
      ∧ (nf.isSome = true → bit (d.rd (mxReg Reg.MX_EVT e)) 0 = true)
      ∧ d.mxState e = 1 ∧ Claim.mxPc d e = (Claim.mxPc u e + 1) % 2 ^ 13 ∧ ∀ a, d.byte a = u.byte a

/-! ### Dispatch -/

/-- The requests that a dispatch unit holds (pass-throughs are no requests). -/
def Sys2Proof.Claim.dspHeld (s : State) (n : Nat) : Nat := ((s.dsp n).queue.filter fun r => r.pass.isNone).length

/-- DSP_SUBMIT queues a request behind those held, or sets SUBFULL when 64 are held. DISPATCH_RUN starts the oldest item when
none runs: a request with a field out of its range completes with BADREQ, and so does one without a table; a pass-through
without a table sets NOTABLE; a request whose table, lists and record can be read and written runs with its choices assigned.
No expert takes more tokens than its capacity, and every choice is placed or dropped. DISPATCH_NOTICES sends the notices
once; DISPATCH_COMPLETE counts and completes the request once all are accepted (R214 to R219). While the master's ports are
masked none of them has an effect (R299). An access to the guest window that a request's read, table, list or record needs is
sent to the guest, the unit waits for the answer, and the step is made again with it (log entry 98). -/
def Obligations.DispatchRequests : Prop :=
  (∀ (m : BitVec 8) (die : BitVec 2) (v : Word) (s : State), s.Live → s.Canonical → Claim.mayWrite s m → bit v 63 = true →
    let n := die.toNat
    (Claim.dspHeld s n < 64 → ∃ t, exec (.dspSubmit m die v) s = .next t
      ∧ (t.dsp n).queue = (s.dsp n).queue ++ [{ addr := bits v 45 0, ctx := bits v 52 48, master := m.toNat }]
      ∧ bits (t.rd (Reg.DSP_STATUS n)) 7 0 = 63 - Claim.dspHeld s n
      ∧ (∀ a, a ≠ Reg.DSP_STATUS n → t.rd a = s.rd a) ∧ ∀ a, t.byte a = s.byte a)
    ∧ (64 ≤ Claim.dspHeld s n → ∃ t, exec (.dspSubmit m die v) s = .next t ∧ t.dsps = s.dsps ∧ bit (t.rd (Reg.DSP_EVT n)) 0 = true
      ∧ (∀ a, a ≠ Reg.DSP_EVT n → t.rd a = s.rd a) ∧ ∀ a, t.byte a = s.byte a))
  ∧ (∀ (die : BitVec 2) (s : State), s.Live → s.Canonical →
    let n := die.toNat
    ((s.dsp n).queue = [] → exec (.dispatchRun die) s = .next s)
    ∧ ∀ r rs, (s.dsp n).queue = r :: rs →
      let g : State := { s with guestRun := some (s.dsp n).replies }
      ((s.dsp n).run ≠ none ∨ s.isMasked r.master = true ∨ (s.dsp n).asked = true → exec (.dispatchRun die) s = .next s)
      ∧ ((s.dsp n).run = none → s.isMasked r.master = false → (s.dsp n).asked = false → s.guestAsk = none →
        Tbl.wf (fun _ => ({} : Dsp)) s.dsps = true →
        (r.pass = none → exec (.dispatchRun die) s = .next (s.commit (s.dspGuest n fun s => s.dspRunReq n r)))
        ∧ (∀ q, r.pass = none → (g.dspRunReq n r).guestAsk = some q → exec (.dispatchRun die) s
          = .next (s.commit ((s.setDsp n { s.dsp n with asked := true }).guestSend (.dispatch n) q)))
        ∧ (r.pass = none → (g.dspRunReq n r).guestAsk = none →
          (g.dspBad n r = true ∨ ∃ b u, g.load r.master r.addr 128 = (St.ok, b, u) ∧ dspReqOk b = false) →
          ∃ t, exec (.dispatchRun die) s = .next t ∧ bit (t.rd (Reg.DSP_EVT n)) 1 = true ∧ (t.dsp n).queue = rs ∧ (t.dsp n).run = none)
        ∧ (∀ b u k p es v ls y z, r.pass = none → (g.dspRunReq n r).guestAsk = none → g.dspBad n r = false →
          g.load r.master r.addr 128 = (St.ok, b, u) → dspReqOk b = true → u.expertTable r.master n r.ctx = (St.ok, k, p, es, v) →
          (if leAt b 0 4 = 0 then (St.ok, [], v) else v.load r.master (leAt b 8 8) (128 * leAt b 0 4)) = (St.ok, ls, y) →
          let plan := assign (es.map fun e => e.2.2.2) k (leAt b 4 1) (leAt b 5 1) (p == 1) (listRows (leAt b 4 1) ls)
          y.store r.master (leAt b 0x20 8) (routingRecord plan.lists) = (St.ok, z) →
          ∃ t x, exec (.dispatchRun die) s = .next t ∧ (t.dsp n).run = some x ∧ x.req = r ∧ x.issued = false
            ∧ x.dropped = plan.dropped ∧ x.spilled = plan.spilled ∧ x.done = leAt b 0x1C 2 % 2 ^ 14 ∧ (t.dsp n).queue = r :: rs)
        ∧ ∀ d, r.pass = some d → s.rdB (Reg.DSP_CTX_TABLE n r.ctx) 63 63 = 0 →
          ∃ t, exec (.dispatchRun die) s = .next t ∧ bit (t.rd (Reg.DSP_EVT n)) 5 = true ∧ (t.dsp n).queue = rs ∧ t.out = s.out))
  ∧ (∀ (caps : List Nat) (experts k kUse : Nat) (spill : Bool) (rows : List DspRow),
    let p := assign caps experts k kUse spill rows
    (∀ e, (nth p.lists e []).length ≤ nth caps e 0) ∧ (p.lists.map (·.length)).sum + p.dropped = kUse * rows.length)
  ∧ ∀ (die : BitVec 2) (s : State) (r : DspRun), s.Live → s.Canonical → (s.dsp die.toNat).run = some r →
    let n := die.toNat
    let ends (s : State) := (((s.addB (Reg.DSP_CHOICES n) 63 0 r.placed).addB (Reg.DSP_DROPS n) 63 0 r.dropped).addB
      (Reg.DSP_SPILLS n) 63 0 r.spilled).dspFinish n r.req St.ok r.dropped r.spilled r.done
    let g : State := { s with guestRun := some (s.dsp n).replies }
    (s.isMasked r.req.master = true → exec (.dispatchNotices die) s = .next s ∧ exec (.dispatchComplete die) s = .next s)
    ∧ (s.isMasked r.req.master = false →
      (r.issued = false → exec (.dispatchNotices die) s = .next (s.commit (r.notices.foldl (fun s e => s.dspSend n e)
          (s.setDsp n { s.dsp n with run := some { r with issued := true }, accepted := 0 })))
        ∧ ∃ t, exec (.dispatchNotices die) s = .next t ∧ (t.dsp n).run = some { r with issued := true })
      ∧ (r.issued = true → exec (.dispatchNotices die) s = .next s)
      ∧ (r.issued = true → (s.dsp n).accepted = r.notices.length → r.req.pass = none →
        exec (.dispatchComplete die) s = .next (s.commit (s.dspGuest n ends)))
      ∧ (r.issued = true → (s.dsp n).accepted = r.notices.length → r.req.pass ≠ none →
        exec (.dispatchComplete die) s = .next (s.commit (s.dspPassDone n r.req)))
      ∧ (r.issued = true → (s.dsp n).accepted = r.notices.length → Tbl.wf (fun _ => ({} : Dsp)) s.dsps = true →
        (r.req.pass = none → (s.dsp n).asked = false ∧ (ends g).guestAsk = none) → ∃ t, exec (.dispatchComplete die) s
          = .next t ∧ (t.dsp n).run = none ∧ (t.dsp n).queue = (s.dsp n).queue.tail
          ∧ (r.req.pass = none → (t.rd (Reg.DSP_REQS n)).toNat = min (2 ^ 64 - 1) ((s.rd (Reg.DSP_REQS n)).toNat + 1)))
      ∧ (r.issued = false ∨ (s.dsp n).accepted ≠ r.notices.length → exec (.dispatchComplete die) s = .next s))

/-- INBOX_NOTICE takes the head of the inbox's queue: a bad notice is removed with BADNOTICE, one whose slot is not free
waits with WAITSLOT, any other is written to its slot and held. INBOX_EMIT gathers the next position once it holds the
notices of every source and is ready; from the one source of a position without rows, the descriptor goes to the OUT queue.
READFAIL does the same for a position whose reads fail, and sets READFAIL. While the inbox's master is masked, before the
position is complete, or for another position than the next, they have no effect (R221 to R224, R299). An access to the guest
window that they need is sent to the guest, and they act again with its answer (log entry 98). No row is placed beyond the
room of its slot. -/
def Obligations.Inboxes : Prop :=
  (∀ (die : BitVec 2) (inbox : BitVec 6) (s : State), s.Live → s.Canonical →
    let n := die.toNat
    let i := inbox.toNat
    let q := s.rdB (Reg.DSP_IBX_QUEUE n i) 12 0
    let b := s.ibx n i
    let g : State := { s with guestRun := some b.replies }
    let asks (c : Instr) (z : State) := b.asked = false ∧ ∃ p, z.guestAsk = some p
      ∧ exec c s = .next (s.commit ((s.setIbx n i { b with asked := true }).guestSend (.inbox n i) p))
    let whole (z : State) := b.asked = false ∧ s.guestAsk = none ∧ z.guestAsk = none
    (s.ibxOn n i = false ∨ s.qReady q = false ∨ s.isMasked b.master = true ∨ b.asked = true → Tbl.wf (fun _ => ({} : Inbox)) s.inboxes = true →
      s.guestRun = none → s.guestAsk = none → exec (.inboxNotice die inbox) s = .next s)
    ∧ (s.ibxOn n i = true → s.qReady q = true → s.isMasked b.master = false → Tbl.wf (fun _ => ({} : Inbox)) s.inboxes = true →
      exec (.inboxNotice die inbox) s = .next (s.commit (s.ibxGuest n i fun s => s.ibxNotice n i))
      ∧ (b.asked = false → (g.ibxNotice n i).guestAsk ≠ none → asks (.inboxNotice die inbox) (g.ibxNotice n i))
      ∧ (∀ st bs u, whole (g.ibxNotice n i) → g.qHeadRead q = (st, bs, u) → st ≠ 0 →
        ∃ t, exec (.inboxNotice die inbox) s = .next t ∧ t.qCons q = s.qCons q ∧ (t.ibx n i).held = b.held)
      ∧ ∀ bs u, whole (g.ibxNotice n i) → g.qHeadRead q = (St.ok, bs, u) →
        let d := unsgn 32 ((leAt bs 0 4 : Int) - b.next)
        let bad := s.qHeadLen q ≠ 96 ∨ s.ibxSources n i ≤ leAt bs 4 2 ∨ (leAt bs 12 4 ≠ 0 ∧ leAt bs 12 4 ≠ s.ibxTokenBytes n i)
          ∨ 2 ^ 31 ≤ d ∨ (b.next + d, leAt bs 4 2) ∈ b.held
        let x := u.store b.master (u.ibxSlot n i (b.next + d) + 96 * leAt bs 4 2) bs
        (bad → ∃ t, exec (.inboxNotice die inbox) s = .next t ∧ bit (t.rd (Reg.DSP_EVT n)) 4 = true
          ∧ ((∀ e ∈ s.sendWaits, e.q ≠ q) → (t.ibx n i).held = b.held))
        ∧ (¬bad → u.ibxSlotFree n i (b.next + d) = false → b.held.length < 2 ^ 16 → ∃ t, exec (.inboxNotice die inbox) s = .next t
          ∧ t.rdB (Reg.DSP_IBX_STATUS n i) 48 48 = 1 ∧ t.qCons q = s.qCons q ∧ (t.ibx n i).held = b.held ∧ ∀ a, t.byte a = s.byte a)
        ∧ (¬bad → u.ibxSlotFree n i (b.next + d) = true → (∀ e ∈ s.sendWaits, e.q ≠ q) →
          ∃ t, exec (.inboxNotice die inbox) s = .next t ∧ (t.ibx n i).held = b.held ++ [(b.next + d, leAt bs 4 2)]
            ∧ (t.ibx n i).bad = if x.1 = 0 then b.bad else (b.next + d) :: b.bad))
    ∧ (∀ pos : BitVec 32, s.ibxReady n i = false ∨ pos.toNat ≠ b.next % 2 ^ 32 →
      exec (.inboxEmit die inbox pos) s = .next s ∧ exec (.readfail die inbox pos) s = .next s)
    ∧ (∀ pos : BitVec 32, s.ibxReady n i = true → pos.toNat = b.next % 2 ^ 32 → Tbl.wf (fun _ => ({} : Inbox)) s.inboxes = true →
      let z := g.ibxEmit n i
      let u := g.setIbx n i { b with work := some {}, failed := false }
      exec (.inboxEmit die inbox pos) s = .next (s.commit (s.ibxGuest n i fun s => s.ibxEmit n i))
      ∧ (b.asked = true → exec (.inboxEmit die inbox pos) s = .next s)
      ∧ (b.asked = false → z.guestAsk ≠ none → asks (.inboxEmit die inbox pos) z)
      ∧ (b.asked = true ∨ z.guestAsk ≠ none → exec (.readfail die inbox pos) s = .next s)
      ∧ (whole z → (z.ibx n i).failed = true → exec (.readfail die inbox pos) s = exec (.inboxEmit die inbox pos) s)
      ∧ (whole z → (z.ibx n i).failed = false → exec (.readfail die inbox pos) s = .next s)
      ∧ (whole z → (∀ e ∈ s.xfers, e.2.owner ≠ .inbox n i) →
        (∀ nt v, s.ibxSources n i = 1 → u.load b.master (s.ibxSlot n i b.next) 96 = (St.ok, nt, v) → leAt nt 8 4 = 0 →
          ∃ t, exec (.inboxEmit die inbox pos) s = .next t ∧ (t.ibx n i).work = none
            ∧ ((t.ibx n i).sending = true ∨ (t.ibx n i).next = b.next + 1))
        ∧ ∀ st nt v, u.load b.master (s.ibxSlot n i b.next) 96 = (st, nt, v) → st ≠ 0 →
          ∃ t, exec (.readfail die inbox pos) s = .next t ∧ bit (t.rd (Reg.DSP_EVT n)) 2 = true ∧ (t.ibx n i).work = none)))
  ∧ ∀ (s : State) (n i : Nat) (k : IbxWork) (bs : List Byte),
    let rows := (pieces 8 bs).map fun e => leAt e 0 4
    let room := s.rdB (Reg.DSP_IBX_GEOM n i) 47 16
    let tb := s.ibxTokenBytes n i
    let take := min rows.length (room - k.rows)
    let dst := s.devId * 2 ^ 46 + s.ibxBase n i + roundUp (s.ibxSources n i * 96) 64
    let moves := ((List.range take).zip rows).map fun e => (k.tokens + e.2 * tb, dst + (k.rows + e.1) * tb, tb)
    (take ≠ 0 → s.ibxList n i k bs
      = (s.ibxSet n i fun k => { k with take := take, left := k.left + (rows.length - take) }).ibxXfer n i 1 moves)
    ∧ moves.length = take ∧ ∀ m ∈ moves, dst ≤ m.2.1 ∧ m.2.1 + m.2.2 ≤ dst + room * tb

/-! ### Updates -/

/-- A trigger that its die may queue: the ledger is owned and updated on die n, and the step is neither stale nor known. -/
def Sys2Proof.Claim.trigNew (s : State) (n l step : Nat) : Prop :=
  l < s.ledCount ∧ (s.led l).owner = true ∧ (s.led l).updCtx.isSome = true ∧ (s.led l).updDie = n ∧ s.ledStep l ≤ step
    ∧ (∀ t ∈ s.trigQ n, ¬(t.led = l ∧ t.step = step)) ∧ s.trigRuns l step = false

/-- UPD_TRIGGER in RUNNING: a new trigger is queued last and counted, or dropped with the event of a full queue; one for a
ledger that the die does not update, a stale one and a duplicate set their events and are not queued. UPD_SKIP and
UPD_SKIP_FAIL end the shard's step at once, as finite and as not finite (R233, R235). -/
def Obligations.UpdateTriggers : Prop :=
  ∀ (m : BitVec 8) (die : BitVec 2) (v : Word) (s : State), s.Live → s.Canonical → Claim.mayWrite s m → bit v 63 = true →
    let n := die.toNat
    let l := bits v 15 0
    let step := bits v 55 16
    let own := l < s.ledCount ∧ (s.led l).owner = true ∧ (s.led l).updCtx.isSome = true ∧ (s.led l).updDie = n
    (s.jobState ≠ 3 → exec (.updTrigger m die v) s = .next { s with out := s.out ++ [.access St.ok 0] })
    ∧ (s.jobState = 3 →
      (Claim.trigNew s n l step → (s.trigQ n).length < 1024 → ∃ t, exec (.updTrigger m die v) s = .next t
        ∧ t.trigQ n = s.trigQ n ++ [⟨l, step, 0⟩]
        ∧ (t.rd (Reg.UPD_TRIGGERS n)).toNat = min (2 ^ 64 - 1) ((s.rd (Reg.UPD_TRIGGERS n)).toNat + 1) ∧ t.ledgers = s.ledgers
        ∧ (∀ a, a ≠ Reg.UPD_TRIGGERS n → t.rd a = s.rd a) ∧ ∀ a, t.byte a = s.byte a)
      ∧ (Claim.trigNew s n l step → 1024 ≤ (s.trigQ n).length → ∃ t, exec (.updTrigger m die v) s = .next t
        ∧ bit (t.rd (Reg.UPD_DIE_EVT n)) 0 = true ∧ t.trigQueues = s.trigQueues ∧ ∀ a, t.byte a = s.byte a)
      ∧ (¬own → ∃ t, exec (.updTrigger m die v) s = .next t ∧ bit (t.rd (Reg.UPD_DIE_EVT n)) 3 = true ∧ t.trigQueues = s.trigQueues
        ∧ ∀ a, t.byte a = s.byte a)
      ∧ (own → step < s.ledStep l → ∃ t, exec (.updTrigger m die v) s = .next t
        ∧ bit (t.rd (Reg.UPD_DIE_EVT n)) 1 = true ∧ t.trigQueues = s.trigQueues ∧ t.ledgers = s.ledgers)
      ∧ (own → s.ledStep l ≤ step → (∃ t ∈ s.trigQ n, t.led = l ∧ t.step = step) ∨ s.trigRuns l step = true →
        ∃ t, exec (.updTrigger m die v) s = .next t ∧ bit (t.rd (Reg.UPD_DIE_EVT n)) 2 = true ∧ t.trigQueues = s.trigQueues
          ∧ ∀ a, t.byte a = s.byte a)
      ∧ (Claim.trigNew s n l step → s.perShard = false →
        (∃ t, exec (.updSkip m die v) s = .next t ∧ s.trigQueues = t.trigQueues
          ∧ (t.led l).ends = ((s.led l).ends.filter fun e => e.1 ≠ step) ++ [(step, true)] ∧ ∀ a, t.byte a = s.byte a)
        ∧ ∃ t, exec (.updSkipFail m die v) s = .next t ∧ s.trigQueues = t.trigQueues
          ∧ (t.led l).ends = ((s.led l).ends.filter fun e => e.1 ≠ step) ++ [(step, false)] ∧ ∀ a, t.byte a = s.byte a))

/-- UPDATE_START starts the oldest runnable trigger on the lowest idle engine of its stage whose ports are not masked; with a
hyperparameter block that is good, and no ring of learning rates, the engine claims the lowest FREE slot. UPDATE_SLOT_CLAIM
claims it for an update that waits. UPDATE_WRITTEN makes the slot WRITTEN with STEP and FPRINT, and in per-step scope the
shard's step ends as finite; UPDATE_NONFINITE latches the first value found and UPDATE_ACCESS_FAIL ends with the access's
status: in per-step scope the shard's step ends as not finite. A non-finite update writes no byte. Each of the three has an
effect only when the update ends so, and while the engine is masked none has (R126, R128, R130, R132, R234, R242, R243,
R299). -/
def Obligations.UpdatesRun : Prop :=
  (∀ (die : BitVec 2) (s : State), s.Live → s.Canonical →
    let n := die.toNat
    let idle (l : Nat) := (sortBy id (s.stg n ((s.led l).updCtx.getD 0)).updaters).find? fun v =>
      (s.updEng v).trig.isNone && !s.isMasked (0xC0 + v)
    let next := (s.trigQ n).find? fun t => s.trigRunnable n t && (idle t.led).isSome
    (∀ g v, next = some g → idle g.led = some v → exec (.updateStart die) s = .next (s.commit (s.updStart v g))
      ∧ ∀ b k, v < 16 → k < 32 → g.status = 0 → (s.led g.led).damaged = none → (s.led g.led).bind = some b → Claim.plain s b.hyper 64 →
        let hd := s.rawRead b.hyper 64
        (leAt hd 0x1C 4).testBit 3 = false → hyperOk b hd (hyperOf hd (leAt (hd.take 4) 0 4)) = true → s.freeSlot g.led = some k →
        Claim.clean s (s.led g.led).hdr 4096 →
        ∃ t, exec (.updateStart die) s = .next t ∧ (t.updEng v).trig = some g ∧ (t.updEng v).slot = some k ∧ t.slotState g.led k = 1
          ∧ t.rdB (updReg Reg.UPD_STATUS v) 2 0 = 3)
    ∧ (next = none → exec (.updateStart die) s = .next s))
  ∧ (∀ (e : BitVec 4) (s : State) (g : Trig) (k : Nat), s.Live → s.Canonical → (s.updEng e.toNat).trig = some g →
    (s.updEng e.toNat).slot = none → (s.led g.led).waiting = true →
    (s.freeSlot g.led = some k → k < 32 → Claim.clean s (s.led g.led).hdr 4096 → ∃ t, exec (.updateSlotClaim e) s = .next t
      ∧ (t.updEng e.toNat).slot = some k ∧ t.slotState g.led k = 1 ∧ t.rdB (updReg Reg.UPD_STATUS e.toNat) 2 0 = 3)
    ∧ (s.freeSlot g.led = none → exec (.updateSlotClaim e) s = .next s))
  ∧ ∀ (e : BitVec 4) (s : State) (g : Trig) (k : Nat), s.Live → s.Canonical → (s.updEng e.toNat).trig = some g →
    (s.updEng e.toNat).slot = some k →
    let v := e.toNat
    (s.isMasked (0xC0 + v) = true →
      exec (.updateWritten e) s = .next s ∧ exec (.updateNonfinite e) s = .next s ∧ exec (.updateAccessFail e) s = .next s)
    ∧ (s.isMasked (0xC0 + v) = false →
      (∀ step fp u, s.updRun v = (.written step fp, u) → s.perShard = false → k < 32 → Claim.clean u (s.led g.led).hdr 4096 →
        ∃ t, exec (.updateWritten e) s = .next t ∧ t.slotState g.led k = 2 ∧ t.slotStep g.led k = step % 2 ^ 56
          ∧ t.slotFprint g.led k = fp % 2 ^ 64 ∧ (g.step, true) ∈ (t.led g.led).ends ∧ t.ledCommit g.led = u.ledCommit g.led)
      ∧ (∀ i pl cls u, s.updRun v = (.nonfinite i pl cls, u) → (∀ a, u.byte a = s.byte a)
        ∧ ∃ t, exec (.updateNonfinite e) s = .next t ∧ bit (t.rd (updReg Reg.UPD_EVT v)) 0 = true
          ∧ (bit (s.rd (updReg Reg.UPD_EVT v)) 0 = false →
            t.rd (updReg Reg.UPD_NF_FIRST v) = w (i + 2 ^ 40 * pl + 2 ^ 43 * cls + 2 ^ 48 * g.led))
          ∧ (s.perShard = false → (g.step, false) ∈ (t.led g.led).ends))
      ∧ ∀ st u, s.updRun v = (.access st, u) →
        exec (.updateAccessFail e) s = .next (s.commit ((u.updAdvance v).updFail v st 2))
        ∧ ∃ t, exec (.updateAccessFail e) s = .next t ∧ bit (t.rd (updReg Reg.UPD_EVT v)) 2 = true
          ∧ (s.perShard = false → (g.step, false) ∈ (t.led g.led).ends))
    ∧ ((∀ st u, s.updRun v ≠ (.access st, u)) → exec (.updateAccessFail e) s = .next s)
    ∧ ((∀ i pl cls u, s.updRun v ≠ (.nonfinite i pl cls, u)) → exec (.updateNonfinite e) s = .next s)
    ∧ ((∀ step fp u, s.updRun v ≠ (.written step fp, u)) → exec (.updateWritten e) s = .next s)

/-! ### General cores -/

/-- The core runs, waits for nothing, and holds the registers that starting it gives it. -/
def Sys2Proof.Claim.gcUp (s : State) (c : Nat) : Prop :=
  s.coreReady c = true ∧ (s.core c).x.length = 32 ∧ (s.core c).sel.length = 16

/-- The 4-byte instruction at the core's PC, and the state after its fetch. -/
def Sys2Proof.Claim.fetched (s u : State) (c raw : Nat) : Prop := s.fetch c (s.gcPc c) = (.ins raw 4, u)

/-- A 4-byte instruction as its meaning sees it. -/
def Sys2Proof.Claim.ins (s u : State) (c raw : Nat) : Ins := ⟨c, u, s.gcPc c, 4, raw, raw⟩

/-- From `s` to `t` core c went on to the instruction at `pc`. -/
def Sys2Proof.Claim.gcGoes (t : State) (c pc : Nat) : Prop :=
  t.gcState c = 1 ∧ t.rd (gcReg Reg.GC_PC c) = w pc ∧ (t.core c).wait = .none

/-- The core went on to the next 4-byte instruction with `v` in the destination register; x0 stays zero. -/
def Sys2Proof.Claim.gcPut (s t : State) (c raw v : Nat) : Prop :=
  Claim.gcGoes t c (s.gcPc c + 4) ∧ (iRd raw ≠ 0 → (t.core c).getX (iRd raw) = w v) ∧ (t.core c).getX 0 = 0

/-- The instruction took an exception (R265): cause, PC and mtval are recorded, GC_EVT.FAULT is set, the core and its stage
stop. -/
def Sys2Proof.Claim.gcFaults (s t : State) (c cause : Nat) (val : Word) : Prop :=
  t.gcState c = 3 ∧ bits (t.rd (gcReg Reg.GC_FAULT c)) 7 0 = cause ∧ t.rd (gcReg Reg.GC_FAULT_PC c) = s.rd (gcReg Reg.GC_PC c)
    ∧ t.rd (gcReg Reg.GC_FAULT_VAL c) = val ∧ bit (t.rd (gcReg Reg.GC_EVT c)) 0 = true
    ∧ bits (t.rd (Reg.CAD_STATUS (s.gcStage c).1 (s.gcStage c).2)) 10 8 = 0

/-- From `s` to `t` the bytes at `a` became `bs`, and no other byte of memory changed. -/
def Sys2Proof.Claim.wrote (s t : State) (a : Nat) (bs : List Byte) : Prop :=
  t.rawRead a bs.length = bs ∧ ∀ b, b < a ∨ a + bs.length ≤ b → t.byte b = s.byte b

/-- The address `a` of core c is `l` in LPDDR, and its 64-byte line is read there without error, since the data cache does not
hold it. -/
def Sys2Proof.Claim.reaches (u : State) (c a l : Nat) : Prop :=
  u.corePlace a = .here l ∧ Claim.plain u (l / 64 * 64) 64 ∧ ∀ e ∈ (u.core c).dcache, e.1 ≠ l / 64 * 64

/-- RISCV_INSTRUCTION executes the instruction at the PC of a running core, unless it is one of the extension. ADDI writes
the sum, JAL the return address, BEQ branches on equality; ECALL takes exception 8 and an encoding outside the extensions
exception 2; none of these changes a byte of memory. A load of a core's LPDDR writes the bytes, extended, to the register, a
store writes the register's bytes and no other; one that is not naturally aligned takes exception 4 or 6, and a load that
completes with a status exception 5. FLD, FLW, FSD and FSW move the same bytes to and from the f registers, an FP32 number
boxed; FADD writes the rounded sum and accrues its flags in fcsr. CSRRW of fcsr exchanges it; GCID reads as the core's index,
and a write of it takes exception 2. VSETVLI sets vl and vtype, VADD adds the elements below vl. LR holds a reservation of the
bytes it reads. SC without one that covers its bytes stores nothing and writes a nonzero code; with one it stores and writes
zero, or fails all the same, which RISC-V leaves open (log entry 37) (R249, R250, R251, R253, R265). -/
def Obligations.CoreInstructions : Prop :=
  (∀ (c : BitVec 7) (s : State), s.Live → s.Canonical → s.coreReady c.toNat = false → exec (.riscvInstruction c) s = .next s)
  ∧ (∀ (s : State) (c rank cnt x : Nat) (bh bwd : Bool) (d : List Byte), c < 128 →
    s.isMasked c = false → (s.core c).sel = [] → (bwd = true → (if bh then (s.core c).backhaul else (s.core c).primary).entryBwd ≠ 0xFFFFFFFF) →
    Claim.gcUp (s.startCore c rank cnt x bh bwd d) c)
  ∧ (∀ (c : BitVec 7) (s u : State) (raw i : Nat), s.Live → s.Canonical → s.coreReady c.toNat = true →
    s.fetch c.toNat (s.gcPc c.toNat) = (.ins raw 2, u) →
    (expandC raw = some i →
      exec (.riscvInstruction c) s = .next (s.commit (s.coreEnd c.toNat (Ins.base ⟨c.toNat, u, s.gcPc c.toNat, 2, raw, i⟩))))
    ∧ (expandC raw = none → (s.core c.toNat).x.length = 32 → ∃ t, exec (.riscvInstruction c) s = .next t
      ∧ Claim.gcFaults s t c.toNat 2 (w raw)))
  ∧ ∀ (c : BitVec 7) (s u : State) (raw : Nat), s.Live → s.Canonical → Claim.gcUp s c.toNat → Claim.fetched s u c.toNat raw →
    let n := c.toNat
    let x := Claim.ins s u n raw
    let go := exec (.riscvInstruction c) s
    let pc := s.gcPc n
    ((extOf raw).isSome = true → go = .next s)
    ∧ (extOf raw = none → go = .next (s.commit (s.coreEnd n x.base)))
    ∧ (iOp raw = 0x13 → iF3 raw = 0 → ∃ t, go = .next t ∧ Claim.gcPut s t n raw (s.gx n (iRs1 raw) + sext 12 (iImm raw))
      ∧ (∀ r, r ≠ iRd raw → (t.core n).getX r = (s.core n).getX r) ∧ ∀ a, t.byte a = s.byte a)
    ∧ (iOp raw = 0x6F → ∃ t, go = .next t ∧ Claim.gcGoes t n (pc + immJ raw) ∧ (iRd raw ≠ 0 → (t.core n).getX (iRd raw) = w (pc + 4))
      ∧ ∀ a, t.byte a = s.byte a)
    ∧ (iOp raw = 0x63 → iF3 raw = 0 → ∃ t, go = .next t
      ∧ Claim.gcGoes t n (if s.gx n (iRs1 raw) = s.gx n (iRs2 raw) then pc + immB raw else pc + 4) ∧ (t.core n).x = (s.core n).x
      ∧ ∀ a, t.byte a = s.byte a)
    ∧ (raw = 0x73 → ∃ t, go = .next t ∧ Claim.gcFaults s t n 8 (w (s.gx n 10)) ∧ (t.core n).x = (s.core n).x
      ∧ ∀ a, t.byte a = s.byte a)
    ∧ (iOp raw = 0x5B → ∃ t, go = .next t ∧ Claim.gcFaults s t n 2 (w raw) ∧ (t.core n).x = (s.core n).x ∧ ∀ a, t.byte a = s.byte a)
    ∧ (iOp raw = 0x23 → iF3 raw = 3 → (s.gx n (iRs1 raw) + immS raw) % 8 ≠ 0 → ∃ t, go = .next t
      ∧ Claim.gcFaults s t n 6 (w (s.gx n (iRs1 raw) + immS raw)) ∧ (t.core n).x = (s.core n).x ∧ ∀ a, t.byte a = s.byte a)
    ∧ (iOp raw = 0x03 → iF3 raw ≠ 7 →
      let k := 2 ^ (iF3 raw % 4)
      let a := (s.gx n (iRs1 raw) + immI raw) % 2 ^ 64
      let val (bs : List Byte) := if iF3 raw < 4 then sext (8 * k) (ofBytes bs) else ofBytes bs
      (a % k ≠ 0 → ∃ t, go = .next t ∧ Claim.gcFaults s t n 4 (w a) ∧ (t.core n).x = (s.core n).x)
      ∧ (a % k = 0 → ∀ st v, u.coreRead n a k false = (.fault st, v) →
        ∃ t, go = .next t ∧ Claim.gcFaults s t n 5 (w a) ∧ (t.core n).x = (s.core n).x)
      ∧ (a % k = 0 → ∀ bs v, u.coreRead n a k false = (.ok bs, v) →
        go = .next (s.commit (s.coreEnd n (.done (pc + 4) (v.setGx n (iRd raw) (val bs))))))
      ∧ (a % k = 0 → ∀ l, Claim.reaches u n a l → ∃ t, go = .next t ∧ Claim.gcPut s t n raw (val (s.rawRead l k))
        ∧ (∀ r, r ≠ iRd raw → (t.core n).getX r = (s.core n).getX r) ∧ ∀ b, t.byte b = s.byte b))
    ∧ (iOp raw = 0x23 → iF3 raw ≤ 3 →
      let k := 2 ^ iF3 raw
      let a := (s.gx n (iRs1 raw) + immS raw) % 2 ^ 64
      a % k = 0 → ∀ l, u.corePlace a = .here l → Claim.plain u l k → ∃ t, go = .next t ∧ Claim.gcGoes t n (pc + 4)
        ∧ Claim.wrote s t l (toBytes k (s.gx n (iRs2 raw))) ∧ (t.core n).x = (s.core n).x)
    ∧ ((s.core n).f.length = 32 →
      (∀ dbl : Bool, iOp raw = 0x07 → iF3 raw = (if dbl then 3 else 2) →
        let k := if dbl then 8 else 4
        let a := (s.gx n (iRs1 raw) + immI raw) % 2 ^ 64
        (a % k ≠ 0 → ∃ t, go = .next t ∧ Claim.gcFaults s t n 4 (w a) ∧ (t.core n).f = (s.core n).f)
        ∧ (a % k = 0 → ∀ l, Claim.reaches u n a l → ∃ t, go = .next t ∧ Claim.gcGoes t n (pc + 4)
          ∧ t.gf n (iRd raw) = (if dbl then ofBytes (s.rawRead l 8) else box32 (ofBytes (s.rawRead l 4)))
          ∧ (∀ r, r ≠ iRd raw → t.gf n r = s.gf n r) ∧ (t.core n).x = (s.core n).x ∧ ∀ b, t.byte b = s.byte b))
      ∧ (∀ dbl : Bool, iOp raw = 0x27 → iF3 raw = (if dbl then 3 else 2) →
        let k := if dbl then 8 else 4
        let a := (s.gx n (iRs1 raw) + immS raw) % 2 ^ 64
        a % k = 0 → ∀ l, u.corePlace a = .here l → Claim.plain u l k → ∃ t, go = .next t ∧ Claim.gcGoes t n (pc + 4)
          ∧ Claim.wrote s t l (toBytes k (s.gf n (iRs2 raw))) ∧ (t.core n).f = (s.core n).f)
      ∧ (∀ dbl : Bool, iOp raw = 0x53 → iF7 raw = (if dbl then 1 else 0) →
        (s.rmMode n (iF3 raw) = none → ∃ t, go = .next t ∧ Claim.gcFaults s t n 2 (w raw))
        ∧ ∀ m, s.rmMode n (iF3 raw) = some m →
          let r := (fmtF dbl).fpAdd m (s.gfF n (iRs1 raw) dbl) (s.gfF n (iRs2 raw) dbl)
          ∃ t, go = .next t ∧ Claim.gcGoes t n (pc + 4) ∧ (nth (t.core n).f (iRd raw) 0) = w (if dbl then r.1 else box32 r.1)
            ∧ (t.core n).fcsr = (s.core n).fcsr / 32 * 32 + ((s.core n).fcsr % 32).lor r.2
            ∧ (∀ i, i ≠ iRd raw → t.gf n i = s.gf n i) ∧ (t.core n).x = (s.core n).x ∧ ∀ b, t.byte b = s.byte b))
    ∧ (iOp raw = 0x73 →
      (iF3 raw = 1 → iImm raw = 3 → ∃ t, go = .next t ∧ Claim.gcPut s t n raw ((s.core n).fcsr % 256)
        ∧ (t.core n).fcsr = s.gx n (iRs1 raw) % 256)
      ∧ (iF3 raw = 2 → iImm raw = 0xCC0 → (iRs1 raw = 0 → ∃ t, go = .next t ∧ Claim.gcPut s t n raw n)
        ∧ (iRs1 raw ≠ 0 → ∃ t, go = .next t ∧ Claim.gcFaults s t n 2 (w raw)))
      ∧ (iF3 raw % 4 ≠ 0 → s.csrRead n (iImm raw) = none → ∃ t, go = .next t ∧ Claim.gcFaults s t n 2 (w raw)))
    ∧ (iOp raw = 0x57 → iF3 raw = 7 → nbits raw 31 31 = 0 → iRs1 raw ≠ 0 →
      let vt := nbits raw 30 20
      let avl := s.gx n (iRs1 raw)
      (vtypeOk vt = true → avl ≤ vlmaxOf (8 * 2 ^ nbits vt 5 3) (lmul8Of (nbits vt 2 0)) → ∃ t, go = .next t
        ∧ Claim.gcPut s t n raw avl ∧ (t.core n).vl = avl ∧ (t.core n).vtype = w vt ∧ (t.core n).vstart = 0)
      ∧ (vtypeOk vt = false → ∃ t, go = .next t
        ∧ Claim.gcPut s t n raw 0 ∧ (t.core n).vl = 0 ∧ (t.core n).vtype = w (2 ^ 63) ∧ (t.core n).vstart = 0))
    ∧ (iOp raw = 0x57 → iF3 raw = 0 → vF6 raw = 0 → vVm raw = true →
      let g := s.core n
      let e := g.vcfg.sew
      (g.vcfg.vill = true → ∃ t, go = .next t ∧ Claim.gcFaults s t n 2 (w raw))
      ∧ (g.vcfg.vill = false → g.vcfg.lmul8 = 8 → e ≤ 64 → g.vstart = 0 → 1 ≤ g.vl → g.vl ≤ 512 / e → g.v.length = 32 →
        ∃ t, go = .next t ∧ Claim.gcGoes t n (pc + 4)
          ∧ (∀ i < g.vl, vElem (t.core n).v e (iRd raw) i = (vElem g.v e (iRs2 raw) i + vElem g.v e (iRs1 raw) i) % 2 ^ e)
          ∧ (∀ r, r ≠ iRd raw → nth (t.core n).v r 0 = nth g.v r 0) ∧ (t.core n).x = g.x ∧ ∀ b, t.byte b = s.byte b))
    ∧ (iOp raw = 0x2F → iF3 raw = 2 ∨ iF3 raw = 3 →
      let k := 2 ^ iF3 raw
      let a := s.gx n (iRs1 raw)
      (iF7 raw / 4 = 2 → iRs2 raw = 0 → a % k = 0 → ∀ l, Claim.reaches u n a l → ∃ t, go = .next t
        ∧ Claim.gcPut s t n raw (sext (8 * k) (ofBytes (s.rawRead l k))) ∧ (t.core n).resv = some (l, k)
        ∧ ∀ b, t.byte b = s.byte b)
      ∧ (iF7 raw / 4 = 3 → a % k = 0 → ∀ l, u.corePlace a = .here l → Claim.plain u l k →
        let fails (t : State) := Claim.gcGoes t n (pc + 4) ∧ (t.core n).resv = none
          ∧ (iRd raw ≠ 0 → (t.core n).getX (iRd raw) ≠ 0) ∧ ∀ b, t.byte b = s.byte b
        ((∀ b j, (s.core n).resv = some (b, j) → ¬(b ≤ l ∧ l + k ≤ b + j)) → ∃ t, go = .next t ∧ fails t)
        ∧ ∀ b j, (s.core n).resv = some (b, j) → b ≤ l → l + k ≤ b + j → ∃ t, go = .next t
          ∧ (fails t ∨ Claim.gcPut s t n raw 0 ∧ (t.core n).resv = none ∧ Claim.wrote s t l (toBytes k (s.gx n (iRs2 raw))))))

/-- The command of an extension instruction. -/
def Sys2Proof.Claim.extCmd : ExtOp → BitVec 7 → Instr
  | .qsend, c => .qsend c
  | .qtry, c => .qtry c
  | .qrecv, c => .qrecv c
  | .qtryrecv, c => .qtryrecv c
  | .qsel, c => .qsel c
  | .qscfg, c => .qscfg c
  | .madv, c => .madv c
  | .mwait, c => .mwait c
  | .mread, c => .mread c
  | .barr, c => .barr c
  | .dget, c => .dget c
  | .dset, c => .dset c
  | .dmask, c => .dmask c
  | .hres, c => .hres c
  | .slotend, c => .slotend c

/-- The queue instructions at the PC. QSEND of 16 to 256 bytes to a queue of this device goes on when the queue accepts the
message, waits when it has no room, and takes exception 7 with any other status; QTRY writes the status instead. QRECV and
QTRYRECV of a receivable head write its length; without one QTRYRECV writes 0 and QRECV waits; a denied receive takes
exception 5 with BADRECV. QSEL writes the position chosen, or waits. QFULL ends a stalled send at the queue's limit with
exception 24, of a queue of this device or of another; in a stopped stage it has no effect. The command of another
instruction than the one at the PC has no effect (R259, R261, R273, R275, R278). -/
def Obligations.CoreQueues : Prop :=
  (∀ (c : BitVec 7) (s u : State) (raw : Nat) (op : ExtOp), s.Live → s.Canonical → s.coreReady c.toNat = true →
    Claim.fetched s u c.toNat raw → extOf raw ≠ some op → exec (Claim.extCmd op c) s = .next s)
  ∧ (∀ (c : BitVec 7) (s u : State) (raw : Nat), s.Live → s.Canonical → Claim.gcUp s c.toNat → Claim.fetched s u c.toNat raw →
    s.stageStopped (s.gcStage c.toNat) = false →
    let n := c.toNat
    let x := Claim.ins s u n raw
    let len := nbits x.r1 20 16
    (∀ q bs v y, x.queue (nbits x.r1 9 0) = some q → q < 0x10000 → x.r1 = nbits x.r1 9 0 + len * 65536 → 1 ≤ len → len ≤ 16 →
      x.r2 % 16 = 0 → u.coreReadRun n 32 x.r2 (16 * len) = (.ok bs, v) →
      (extOf raw = some .qsend →
        (v.qAccept q bs false = (.ok, y) → ∃ t, exec (.qsend c) s = .next t ∧ Claim.gcGoes t n (s.gcPc n + 4) ∧ t.sendWaits = s.sendWaits)
        ∧ (v.qAccept q bs false = (.noRoom, y) → ∃ t, exec (.qsend c) s = .next t ∧ t.gcState n = 2 ∧ (t.core n).wait = .send q
          ∧ t.sendWaits = s.sendWaits ++ [⟨q, .core n, bs, s.now⟩])
        ∧ ∀ st, v.qAccept q bs false = (.refused st, y) → ∃ t, exec (.qsend c) s = .next t ∧ Claim.gcFaults s t n 7 (w x.r2))
      ∧ (extOf raw = some .qtry →
        (v.qAccept q bs false = (.ok, y) → ∃ t, exec (.qtry c) s = .next t ∧ Claim.gcPut s t n raw St.ok)
        ∧ (v.qAccept q bs false = (.noRoom, y) → ∃ t, exec (.qtry c) s = .next t ∧ Claim.gcPut s t n raw St.qfull)
        ∧ ∀ st, v.qAccept q bs false = (.refused st, y) → ∃ t, exec (.qtry c) s = .next t ∧ Claim.gcPut s t n raw st))
    ∧ (∀ q, x.queue x.r1 = some q →
      (u.recvDenied q = true → q < 4352 →
        (extOf raw = some .qrecv → ∃ t, exec (.qrecv c) s = .next t ∧ Claim.gcFaults s t n 5 (w x.r2)
          ∧ bit (t.rd (Reg.QU_EVT (qDie q))) 3 = true)
        ∧ (extOf raw = some .qtryrecv → ∃ t, exec (.qtryrecv c) s = .next t ∧ Claim.gcFaults s t n 5 (w x.r2)))
      ∧ (u.recvDenied q = false → x.r2 % 16 = 0 → u.qReady q = false →
        (extOf raw = some .qrecv → ∃ t, exec (.qrecv c) s = .next t ∧ t.gcState n = 2 ∧ (t.core n).wait = .recv
          ∧ ∀ a, t.byte a = s.byte a)
        ∧ (extOf raw = some .qtryrecv → ∃ t, exec (.qtryrecv c) s = .next t ∧ Claim.gcPut s t n raw 0 ∧ ∀ a, t.byte a = s.byte a))
      ∧ ∀ bs v r y, u.recvDenied q = false → x.r2 % 16 = 0 → u.qReady q = true →
        u.qHeadRead q = (St.ok, bs, v) → v.coreWriteRun n 32 x.r2 bs = (.ok r, y) →
        ((y.qPop q).core n).x.length = 32 →
        (extOf raw = some .qrecv → ∃ t, exec (.qrecv c) s = .next t ∧ Claim.gcPut s t n raw (u.qHeadLen q))
        ∧ (extOf raw = some .qtryrecv → ∃ t, exec (.qtryrecv c) s = .next t ∧ Claim.gcPut s t n raw (u.qHeadLen q)))
    ∧ (extOf raw = some .qsel →
      (∀ p, u.selPick (nth (u.core n).sel (x.r1 % 16) {}) = some p → ∃ t, exec (.qsel c) s = .next t ∧ Claim.gcPut s t n raw p
        ∧ (t.core n).dcache = [] ∧ (nth (t.core n).sel (x.r1 % 16) {}).last = p ∧ ∀ a, t.byte a = s.byte a)
      ∧ (u.selPick (nth (u.core n).sel (x.r1 % 16) {}) = none → ∃ t, exec (.qsel c) s = .next t ∧ t.gcState n = 2
        ∧ (t.core n).wait = .sel ∧ ∀ a, t.byte a = s.byte a))
    ∧ (extOf raw = some .qscfg → ∀ bs v, x.r2 % 8 = 0 → u.coreReadRun n 8 x.r2 40 = (.ok bs, v) →
      let k := leAt bs 32 1
      let qs := (List.range k).map fun j => x.queue (leAt bs (2 * j) 2)
      1 ≤ k → k ≤ 16 → leAt bs 33 1 ≤ 1 → leAt bs 34 6 = 0 → (∀ q ∈ qs, ∃ p, q = some p ∧ v.recvDenied p = false) →
      ∃ t, exec (.qscfg c) s = .next t ∧ Claim.gcGoes t n (s.gcPc n + 4)
        ∧ nth (t.core n).sel (x.r1 % 16) {} = { queues := qs.filterMap id, policy := leAt bs 33 1, last := k - 1 }
        ∧ ∀ a, t.byte a = s.byte a))
  ∧ (∀ (c : BitVec 7) (s : State) (id f d : Nat) (g : RemoteSend), s.Live → s.Canonical → (s.core c.toNat).wait = .remote →
    s.stageStopped (s.gcStage c.toNat) = false →
    s.remoteSends.find? (fun e => e.2.owner == .core c.toNat) = some (id, g) → g.refused = some f → g.due = some d →
    g.limit ≠ 0xFFFFFFFF → f + g.limit ≤ s.now → ∃ t, exec (.qfull c) s = .next t
      ∧ Claim.gcFaults s t c.toNat 24 (s.core c.toNat).waitVal ∧ t.remoteSends = Tbl.del s.remoteSends id ∧ ∀ a, t.byte a = s.byte a)
  ∧ ∀ (c : BitVec 7) (s : State) (q : Nat) (g : SendWait), s.Live → s.Canonical → (s.core c.toNat).x.length = 32 →
    (s.core c.toNat).wait = .send q → s.sendWaits.find? (fun t => t.owner == .core c.toNat && t.q == q) = some g →
    let limit := s.rdB (Reg.QU_CFG q) 63 32
    let stopped := s.stageStopped (s.gcStage c.toNat)
    (stopped = false → limit ≠ 0xFFFFFFFF → g.since + limit ≤ s.now → ∃ t, exec (.qfull c) s = .next t
      ∧ Claim.gcFaults s t c.toNat 24 (s.core c.toNat).waitVal ∧ bit (t.rd (gcReg Reg.GC_EVT c.toNat)) 1 = true
      ∧ (∀ e ∈ t.sendWaits, e.owner ≠ .core c.toNat) ∧ ∀ a, t.byte a = s.byte a)
    ∧ (stopped = true ∨ limit = 0xFFFFFFFF ∨ s.now < g.since + limit → exec (.qfull c) s = .next s)

/-- The other extension instructions at the PC. MADV advances a counter and writes its value; MWAIT goes on at the target, or
waits; MREAD writes the value; BARR goes on when it completes the barrier, or waits; each takes exception 25 for a handle of
another kind. DGET writes a field of a descriptor, DSET and DMASK write the outgoing one, and a field outside the table, or
one that DSET may not write, takes exception 2. HRES writes what a handle names, which is a free value where the spec states
none (log entry 39). SLOTEND makes the core idle. In a stopped stage the waiting instructions and SLOTEND have no effect
(R258 to R263, R265, R282, R284). -/
def Obligations.CoreSynchronisation : Prop :=
  ∀ (c : BitVec 7) (s u : State) (raw : Nat), s.Live → s.Canonical → Claim.gcUp s c.toNat → Claim.fetched s u c.toNat raw →
    let n := c.toNat
    let x := Claim.ins s u n raw
    let nx := s.gcStage n
    let stopped := s.stageStopped nx
    let goes (t : State) := Claim.gcGoes t n (s.gcPc n + 4)
    (stopped = true → ∀ op ∈ [ExtOp.qsend, .qrecv, .qsel, .mwait, .barr, .slotend], exec (Claim.extCmd op c) s = .next s)
    ∧ (stopped = false → extOf raw = some .slotend → ∃ t, exec (.slotend c) s = .next t ∧ t.gcState n = 0
      ∧ t.rd (gcReg Reg.GC_PC n) = w (s.gcPc n + 4) ∧ ∀ a, t.byte a = s.byte a)
    ∧ (∀ m, x.handle x.r1 = some (.ms m) →
      (extOf raw = some .madv → ∃ t, exec (.madv c) s = .next t ∧ Claim.gcPut s t n raw ((u.msAdd m x.r2).msVal m)
        ∧ ∀ a, t.byte a = s.byte a)
      ∧ (extOf raw = some .mread → ∃ t, exec (.mread c) s = .next t ∧ Claim.gcPut s t n raw (s.msVal m) ∧ ∀ a, t.byte a = s.byte a)
      ∧ (extOf raw = some .mwait → stopped = false →
        (x.r2 ≤ s.msVal m → ∃ t, exec (.mwait c) s = .next t ∧ goes t ∧ (t.core n).dcache = [] ∧ ∀ a, t.byte a = s.byte a)
        ∧ (s.msVal m < x.r2 → ∃ t, exec (.mwait c) s = .next t ∧ t.gcState n = 2 ∧ (t.core n).wait = .ms m x.r2
          ∧ ∀ a, t.byte a = s.byte a)))
    ∧ ((∀ m, x.handle x.r1 ≠ some (.ms m)) → ∀ op ∈ [ExtOp.madv, .mwait, .mread], extOf raw = some op →
      (op = .mwait → stopped = false) → ∃ t, exec (Claim.extCmd op c) s = .next t ∧ Claim.gcFaults s t n 25 (w raw)
        ∧ (t.core n).x = (s.core n).x ∧ ∀ a, t.byte a = s.byte a)
    ∧ ((∀ b, x.handle x.r1 ≠ some (.bar b)) → extOf raw = some .barr → stopped = false → ∃ t, exec (.barr c) s = .next t
      ∧ Claim.gcFaults s t n 25 (w raw) ∧ (t.core n).x = (s.core n).x ∧ ∀ a, t.byte a = s.byte a)
    ∧ (∀ b, x.handle x.r1 = some (.bar b) → extOf raw = some .barr → stopped = false →
      let r := Reg.SYN_BAR_STATE (b / 256) (b % 256)
      let full := s.rdB r 12 0 + 1 = s.rdB (Reg.SYN_BAR_CFG (b / 256) (b % 256)) 12 0
      (full → (∀ o ∈ s.barWaits, o.1 ≠ b) → b < 1024 → ∃ t, exec (.barr c) s = .next t ∧ goes t ∧ t.rdB r 12 0 = 0
        ∧ ∀ a, t.byte a = s.byte a)
      ∧ (¬full → ∃ t, exec (.barr c) s = .next t ∧ t.gcState n = 2 ∧ (t.core n).wait = .bar b ∧ (b, Owner.core n) ∈ t.barWaits
        ∧ ∀ a, t.byte a = s.byte a))
    ∧ (extOf raw = some .dget →
      (∀ o k, dField (iImm raw % 16) = some (o, k) → ∃ t, exec (.dget c) s = .next t ∧ Claim.gcPut s t n raw
        (leAt (if iImm raw / 16 % 2 = 1 then (s.stg nx.1 nx.2).outDesc else (s.stg nx.1 nx.2).inDesc) o k) ∧ ∀ a, t.byte a = s.byte a)
      ∧ (dField (iImm raw % 16) = none → ∃ t, exec (.dget c) s = .next t ∧ Claim.gcFaults s t n 2 (w raw)))
    ∧ (extOf raw = some .dset →
      (∀ o k, dField (iImm raw % 16) = some (o, k) → dWritable (iImm raw % 16) = true → ∃ t, exec (.dset c) s = .next t ∧ goes t
        ∧ t.stg nx.1 nx.2 = { s.stg nx.1 nx.2 with outDesc := putLe (s.stg nx.1 nx.2).outDesc o k x.r1 } ∧ ∀ a, t.byte a = s.byte a)
      ∧ (dWritable (iImm raw % 16) = false → ∃ t, exec (.dset c) s = .next t ∧ Claim.gcFaults s t n 2 (w raw)))
    ∧ (extOf raw = some .dmask → (s.stg nx.1 nx.2).outDesc.length = 64 → ∃ t, exec (.dmask c) s = .next t ∧ goes t
      ∧ dMask (t.stg nx.1 nx.2).outDesc
        = (dMask (s.stg nx.1 nx.2).outDesc - (dMask (s.stg nx.1 nx.2).outDesc).land x.r2).lor x.r1
      ∧ dLength (t.stg nx.1 nx.2).outDesc = dLength (s.stg nx.1 nx.2).outDesc ∧ ∀ a, t.byte a = s.byte a)
    ∧ (extOf raw = some .hres →
      (∀ g, x.handle x.r1 = some (.tensor g) →
        let k := iImm raw % 8
        let named := if k < 4 then (s.hresSpace n g (k % 4)).1 else (s.hresSpace n g (k % 4)).2
        (k = 0 → (s.tensors.get g {}).ledger = none → named = some (s.tensors.get g {}).addr)
        ∧ (k = 4 → named = some (s.tensors.get g {}).bytes)
        ∧ (∀ v, named = some v → ∃ t, exec (.hres c) s = .next t ∧ Claim.gcPut s t n raw v ∧ ∀ a, t.byte a = s.byte a)
        ∧ (named = none → ∃ t, exec (.hres c) s = .next t ∧ goes t ∧ ∀ a, t.byte a = s.byte a))
      ∧ (iImm raw % 8 = 0 →
        (∀ q, x.handle x.r1 = some (.queue q) → (q < 0x10000 → ∃ t, exec (.hres c) s = .next t ∧ Claim.gcPut s t n raw q)
          ∧ (0x10000 ≤ q → ∃ t, exec (.hres c) s = .next t ∧ goes t))
        ∧ (∀ m, x.handle x.r1 = some (.ms m) → ∃ t, exec (.hres c) s = .next t ∧ Claim.gcPut s t n raw m)
        ∧ ∀ b, x.handle x.r1 = some (.bar b) → ∃ t, exec (.hres c) s = .next t ∧ Claim.gcPut s t n raw b)
      ∧ (x.handle x.r1 = none ∨ iImm raw % 8 ≠ 0 ∧ (∀ g, x.handle x.r1 ≠ some (.tensor g)) → ∃ t, exec (.hres c) s = .next t
        ∧ Claim.gcFaults s t n 25 (w raw)))

/-! ### Memory, queues and offload -/

/-- The replay windows of a stack run back to back, each of 2^WIN memory-controller cycles of 0.8 ns: REPLAYRATE_WINDOW once
the window is past makes way for the one that runs now. A write of MEM_PAR_THRESH whose WIN is in its range starts a new
window of the stack at once (R306). HOLDCUT counts the cut, records the master and sets the event (R298). PORT_MASK discards
the queued requests of a masked master, which is granted no tag; on release the priorities of its ports are 0, and its
requests, transfers and collectives go on (R299). SYN_MADV with GO adds to the counter it names, which saturates (R282,
R288). QU_PEEK_SEL latches the head entry of the queue it names (R289), and zeros for a value that names none (the model's
choice, log entry 78). -/
def Obligations.MemoryControls : Prop :=
  (∀ (k : BitVec 3) (s : State), s.Live → s.Canonical → Tbl.wf (fun _ => ({} : ReplayWin)) s.stackWin = true →
    let len := 2 ^ (s.rdB (Reg.MEM_PAR_THRESH k.toNat) 20 16 + 1)
    let start := (s.stackWin.get k.toNat {}).start
    (25 * s.now < start + len → exec (.replayrateWindow k) s = .next s)
    ∧ (∀ i, 1 ≤ i → start + i * len ≤ 25 * s.now → 25 * s.now < start + (i + 1) * len → ∃ t, exec (.replayrateWindow k) s = .next t
      ∧ t.stackWin.get k.toNat {} = { start := start + i * len, count := 0, raised := false }
      ∧ (∀ j, j ≠ k.toNat → t.stackWin.get j {} = s.stackWin.get j {}) ∧ (∀ a, t.rd a = s.rd a) ∧ ∀ a, t.byte a = s.byte a)
    ∧ ∀ (m : BitVec 8) (v : Word), isMgmt m.toNat = true →
      let r := Reg.MEM_PAR_THRESH k.toNat
      (10 ≤ bits v 20 16 → ∃ t, exec (.memParThreshWrite m k v) s = .next t ∧ bits (t.rd r) 20 0 = bits v 20 0
        ∧ t.stackWin.get k.toNat {} = { start := 25 * s.now, count := 0, raised := false } ∧ (∀ a, a ≠ r → t.rd a = s.rd a)
        ∧ ∀ a, t.byte a = s.byte a)
      ∧ (bits v 20 16 < 10 → exec (.memParThreshWrite m k v) s = .next { s with out := s.out ++ [.access St.ok 0] }))
  ∧ (∀ (sram : Bool) (k : BitVec 3) (m : BitVec 8) (s : State), s.Live → s.Canonical →
    let i := if sram then k.toNat % 4 else k.toNat
    let cut := if sram then Reg.MEM_OS_CUT i else Reg.MEM_ARB_CUT i
    let evt := if sram then Reg.MEM_OS_EVT i else Reg.MEM_EVT i
    ∃ t, exec (.holdcut sram k m) s = .next t ∧ bits (t.rd cut) 63 32 = min (2 ^ 32 - 1) (bits (s.rd cut) 63 32 + 1)
      ∧ bits (t.rd cut) 7 0 = m.toNat ∧ bit (t.rd evt) (if sram then 2 else 3) = true
      ∧ (∀ a, a ≠ cut → a ≠ evt → t.rd a = s.rd a) ∧ ∀ a, t.byte a = s.byte a)
  ∧ (∀ (m : BitVec 8) (s : State), s.Live → s.Canonical → Tbl.wf (fun _ => (0 : Nat)) s.tagPrio = true →
    (∃ t, exec (.portMask m true) s = .next t ∧ m.toNat ∈ t.masked ∧ t.tagWaits = s.tagWaits.filter (fun r => r.master ≠ m.toNat)
      ∧ (∀ r, t.nextWaiting t.tagWaits = some r → r.master ≠ m.toNat) ∧ ∀ a, t.byte a = s.byte a)
    ∧ (let prio := (s.portsOf m.toNat).foldl (fun (t : Tbl Nat) p => t.set p 0 0) s.tagPrio
       let v : State := { s with masked := s.masked.filter (fun k => k ≠ m.toNat), tagPrio := prio }
       exec (.portMask m false) s
         = .next (s.commit (((v.serveTags v.tagWaits.length).xfersResume m.toNat).colsResume m.toNat))
       ∧ (s.tagWaits = [] → (∀ e ∈ s.xfers, e.2.master ≠ m.toNat) → m ≠ 0xD5 →
         ∃ t, exec (.portMask m false) s = .next t ∧ m.toNat ∉ t.masked ∧ (∀ p ∈ s.portsOf m.toNat, t.tagPrio.get p 0 = 0)
           ∧ (∀ p, p ∉ s.portsOf m.toNat → t.tagPrio.get p 0 = s.tagPrio.get p 0) ∧ ∀ a, t.byte a = s.byte a)))
  ∧ ∀ (m : BitVec 8) (die : BitVec 2) (v : Word) (s : State), s.Live → s.Canonical → Claim.mayWrite s m →
    (let c := bits v 13 0
     (bit v 63 = true → s.msOk c = true → ∃ t, exec (.synMadv m die v) s = .next t
        ∧ t.msVal c = min (2 ^ 64 - 1) (s.msVal c + bits v 47 16) ∧ t.out = s.out ++ [.access St.ok 0] ∧ ∀ a, t.byte a = s.byte a)
      ∧ (bit v 63 = false → exec (.synMadv m die v) s = .next { s with out := s.out ++ [.access St.ok 0] }))
    ∧ (let n := die.toNat
       let q := bits v 12 0
       ∃ t, exec (.quPeekSel m die v) s = .next t
        ∧ (q < 4352 → t.rd (Reg.QU_PEEK_INFO n) = s.qHeadWord q true
          ∧ ∀ k < 32, t.rd (Reg.QU_PEEK_DATA n k) = w (leAt (fitBytes 256 (s.qHeadBytes q)) (8 * k) 8))
        ∧ (4352 ≤ q → t.rd (Reg.QU_PEEK_INFO n) = 0 ∧ ∀ k < 32, t.rd (Reg.QU_PEEK_DATA n k) = 0)
        ∧ (∀ a, a ≠ Reg.QU_PEEK_SEL n → a ≠ Reg.QU_PEEK_INFO n → (∀ k < 32, a ≠ Reg.QU_PEEK_DATA n k) → t.rd a = s.rd a)
        ∧ ∀ a, t.byte a = s.byte a)

/-- Sends that are made again. REMOTE_SEND_RETRY repeats a message and COL_RX_RETRY a write of COL_RX once its attempt is
due, LINKDOWN_RESEND a send that met LINKDOWN; each takes a tag, or waits for one, and before that time it has no effect
(R274, R332, R354, R372). A refusal, LINKDOWN of a stage controller's or a dispatch unit's send, and QFULL of a collective's
write of COL_RX plan the next attempt 100 ticks later; OK ends the send, and so does every other status of another unit. -/
def Obligations.RepeatedSends : Prop :=
  (∀ (id : Nat) (s : State) (x : RemoteSend) (d : Nat), s.Live → s.Canonical → s.remoteSends.get id noSend = x → x.due = some d →
    x.owner ≠ .none →
    let v : State := { s with remoteSends := s.remoteSends.set id { x with down := false } noSend }
    let r : FabReq := ⟨0, id, x.owner, x.typ, ownerTc x.owner, s.ownerMaster x.owner, x.dev, x.addr, x.bytes.length, 0, x.bytes⟩
    let taken := s.tagFor r = true ∧ s.isMasked r.master = false
    let again (t : State) := t.remoteSends.get id noSend = { x with due := none, down := false } ∧ (∀ a, t.byte a = s.byte a)
      ∧ (s.mayOriginate = true → (¬taken → t.tagWaits = s.tagWaits ++ [r])
        ∧ (taken → (t.rd Reg.FAB_CNT_REQ).toNat = min (2 ^ 64 - 1) ((s.rd Reg.FAB_CNT_REQ).toNat + 1)))
    (x.down = false → x.typ = 5 → d ≤ s.now → exec (.remoteSendRetry id) s = .next (s.commit (v.sendIssue id))
      ∧ ∃ t, exec (.remoteSendRetry id) s = .next t ∧ again t)
    ∧ (x.down = true ∨ x.typ ≠ 5 ∨ s.now < d → exec (.remoteSendRetry id) s = .next s)
    ∧ (x.down = true → d ≤ s.now → exec (.linkdownResend id) s = .next (s.commit (v.sendIssue id))
      ∧ ∃ t, exec (.linkdownResend id) s = .next t ∧ again t)
    ∧ (x.down = false ∨ s.now < d → exec (.linkdownResend id) s = .next s)
    ∧ (x.down = false → x.typ = 3 → d ≤ s.now → exec (.colRxRetry id) s = .next (s.commit (v.sendIssue id))
      ∧ ∃ t, exec (.colRxRetry id) s = .next t ∧ again t)
    ∧ (x.down = true ∨ x.typ ≠ 3 ∨ s.now < d → exec (.colRxRetry id) s = .next s))
  ∧ ∀ (id st : Nat) (s : State) (x : RemoteSend), s.remoteSends.get id noSend = x → x.owner ≠ .none →
    (x.limit = noLimit → (s.sendReply id 0 true).1 = none
      ∧ ((s.sendReply id 0 true).2.remoteSends.get id noSend).due = some (s.now + 100))
    ∧ (∀ f, x.refused = some f → x.limit ≠ noLimit → f + x.limit ≤ s.now → (s.sendReply id 0 true).1 = some St.qfull)
    ∧ ((∃ n y, x.owner = .stage n y) ∨ (∃ n, x.owner = .dispatch n) → (s.sendReply id St.linkdown false).1 = none
      ∧ ((s.sendReply id St.linkdown false).2.remoteSends.get id noSend).due = some (s.now + 100)
      ∧ ((s.sendReply id St.linkdown false).2.remoteSends.get id noSend).down = true)
    ∧ ((∃ c, x.owner = .col c) → (s.sendReply id St.qfull false).1 = none
      ∧ ((s.sendReply id St.qfull false).2.remoteSends.get id noSend).due = some (s.now + 100))
    ∧ (s.sendReply id St.ok false).1 = some St.ok
    ∧ ((∀ n y, x.owner ≠ .stage n y) → (∀ n, x.owner ≠ .dispatch n) → (∀ c, x.owner ≠ .col c) → (s.sendReply id st false).1 = some st)

/-- OFFLOAD_START takes the next request: a micro-batch that is STASHED, holds pages and is not offloaded is copied to the
lowest free frames, or skipped and counted when there are too few; any other request ends with no effect. OFFLOAD_DONE
releases the pages and marks the context; PREFETCH_START reserves pages and copies back; PREFETCH_DONE frees the frames. A
failed offload keeps the pages and sets OFLFAIL; a failed prefetch leaves the context ABORTED and sets FETCHFAIL (R309 to
R311). -/
def Obligations.ActivationOffload : Prop :=
  (∀ (s : State) (r : OflReq) (rs : List OflReq), s.Live → s.Canonical → s.oflQueue = r :: rs → r.entry < 128 →
    (r.fetch = true → (s.fetchable r = none → exec .offloadStart s = .next { s with oflQueue := rs })
      ∧ (s.fetchable r ≠ none → exec .offloadStart s = .next s))
    ∧ (r.fetch = false → (s.ctxAt r.n r.x r.pos = none → exec .offloadStart s = .next { s with oflQueue := rs })
      ∧ ∀ c, s.ctxAt r.n r.x r.pos = some c →
        let m := s.mbc r.n r.x c
        let can := m.state = 2 ∧ m.pages ≠ [] ∧ m.offloaded = false ∧ m.xfer = false ∧ m.abortReq = false
        (¬can → exec .offloadStart s = .next { s with oflQueue := rs })
        ∧ (can → s.takeFrames r.n r.x r.entry m.pages.length = none → ∃ t, exec .offloadStart s = .next t ∧ t.mbs = s.mbs ∧ t.oflQueue = rs
          ∧ t.rdB (Reg.OFL_CNT_SKIP r.entry) 31 0 = min (2 ^ 32 - 1) (s.rdB (Reg.OFL_CNT_SKIP r.entry) 31 0 + 1)
          ∧ ∀ a, t.byte a = s.byte a)
        ∧ ∀ fs, can → s.takeFrames r.n r.x r.entry m.pages.length = some fs → ∃ t, exec .offloadStart s = .next t ∧ t.oflQueue = rs
          ∧ (t.mbc r.n r.x c).frames = fs ∧ (t.mbc r.n r.x c).xfer = true ∧ (t.mbc r.n r.x c).pages = m.pages))
  ∧ ∀ (die : BitVec 2) (ctx : BitVec 5) (mb : BitVec 8) (s : State), s.Live → s.Canonical →
    let n := die.toNat
    let x := ctx.toNat
    let c := mb.toNat
    let m := s.mbc n x c
    let o := (s.stg n x).ofl.getD 0
    (s.oflQueue = [] → m.prefWait = false → exec (.prefetchStart die ctx mb) s = .next s)
    ∧ (∀ ps, s.oflQueue = [] → m.prefWait = true → s.takePages n x m.npages = some ps → ∃ t, exec (.prefetchStart die ctx mb) s = .next t
      ∧ (t.mbc n x c).pages = ps ∧ (t.mbc n x c).xfer = true ∧ (t.mbc n x c).prefWait = false)
    ∧ (∀ r rs, s.oflQueue = r :: rs → r.fetch = true → r.n = n → r.x = x → s.fetchable r = some c →
      ∃ t, exec (.prefetchStart die ctx mb) s = .next t ∧ t.oflQueue = rs
        ∧ ((t.mbc n x c).prefWait = true ∨ (t.mbc n x c).xfer = true))
    ∧ (s.oflEnded n x c false = some 0 → ∃ t, exec (.offloadDone die ctx mb) s = .next t
      ∧ t.mbc n x c = { m with xfer := false, pages := [], offloaded := true }
      ∧ (t.rd (Reg.OFL_CNT_OUT o)).toNat = min (2 ^ 64 - 1) ((s.rd (Reg.OFL_CNT_OUT o)).toNat + m.npages)
      ∧ (∀ a, a ≠ Reg.OFL_CNT_OUT o → t.rd a = s.rd a) ∧ ∀ a, t.byte a = s.byte a)
    ∧ (s.oflEnded n x c true = some 0 → ∃ t, exec (.prefetchDone die ctx mb) s = .next t
      ∧ t.mbc n x c = { m with xfer := false, frames := [], offloaded := false }
      ∧ (t.rd (Reg.OFL_CNT_IN o)).toNat = min (2 ^ 64 - 1) ((s.rd (Reg.OFL_CNT_IN o)).toNat + m.npages)
      ∧ (∀ a, a ≠ Reg.OFL_CNT_IN o → t.rd a = s.rd a) ∧ ∀ a, t.byte a = s.byte a)
    ∧ (∀ st, st ≠ 0 → s.oflEnded n x c false = some st → ∃ t, exec (.oflfail die ctx mb) s = .next t
      ∧ t.mbc n x c = { m with xfer := false, frames := [] } ∧ bit (t.rd Reg.OFL_EVT) 0 = true
      ∧ t.rd Reg.OFL_LAST = w (st + 2 ^ 8 * o + 2 ^ 32 * dSeq m.desc)
      ∧ (∀ a, a ≠ Reg.OFL_LAST → a ≠ Reg.OFL_EVT → t.rd a = s.rd a) ∧ ∀ a, t.byte a = s.byte a)
    ∧ (∀ st, st ≠ 0 → s.oflEnded n x c true = some st → ∃ t, exec (.fetchfail die ctx mb) s = .next t
      ∧ t.mbc n x c = { m with xfer := false, pages := [], frames := [], offloaded := false, state := 5, abortReq := false }
      ∧ bit (t.rd Reg.OFL_EVT) 1 = true ∧ t.rd Reg.OFL_LAST = w (st + 2 ^ 8 * o + 2 ^ 15 + 2 ^ 32 * dSeq m.desc)
      ∧ (∀ a, a ≠ Reg.OFL_LAST → a ≠ Reg.OFL_EVT → t.rd a = s.rd a) ∧ ∀ a, t.byte a = s.byte a)
    ∧ (s.oflEnded n x c false = none → exec (.offloadDone die ctx mb) s = .next s ∧ exec (.oflfail die ctx mb) s = .next s)
    ∧ (s.oflEnded n x c true = none → exec (.prefetchDone die ctx mb) s = .next s ∧ exec (.fetchfail die ctx mb) s = .next s)

/-! ### Links -/

/-- A port's link as tables hold it. -/
def Sys2Proof.Claim.portsWf (s : State) : Prop := Tbl.wf (fun _ => ({} : Port)) s.ports = true

/-- From `s` to `t` the link of port p went down with a cause: the cause, the local time and the count are recorded,
LNK_EVT.DOWN is set, and the port is in `st` (R328, R329). No byte of memory changed. -/
def Sys2Proof.Claim.wentDown (s t : State) (p cause st : Nat) : Prop :=
  t.lnkState p = st ∧ t.rd (Reg.LNK_DOWN_CAUSE p) = w cause ∧ t.rd (Reg.LNK_DOWN_TIME p) = w s.now
    ∧ t.rdB (Reg.LNK_CNT_DOWN p) 15 0 = min 65535 (s.rdB (Reg.LNK_CNT_DOWN p) 15 0 + 1) ∧ bit (t.rd (Reg.LNK_EVT p)) 0 = true
    ∧ ∀ a, t.byte a = s.byte a

/-- A flit has 256 bytes, its fields where R315 places them, and a good CRC. A flit with a bad CRC is counted in every state
and is otherwise discarded, and an ACTIVE port asks for a NAK (R316, R321). DATA_FLIT at an ACTIVE port: NEXT_RX advances for
the flit it names, a flit ahead asks for a NAK, and one behind is counted as a duplicate (R319, R321). ACKSEQ frees the flits
that it acknowledges, is ignored when it is old, and takes the link down when it is ahead; of a flit of a reserved kind
nothing else is read (R320). IDLE_FLIT with a gap asks for a NAK; DOWN_FLIT takes the link down. REPLAY_TIMEOUT starts a
replay pass, or takes the link down beyond the threshold, and has no effect while the pass it started has not sent the flit
at U again; REPLAY_WINDOW_END clears the window's count once 2^20 flits have been transmitted, and not before (R322, R327). A
full replay buffer starts no flit (R318). A port that is not ACTIVE takes no good flit of these. -/
def Obligations.LinkFlits : Prop :=
  (∀ (seq ack kind flags cc first cr : Nat) (pl : List Byte),
    let b := flitBytes seq ack kind flags cc first cr pl
    b.length = 256 ∧ flSeq b = seq % 2 ^ 16 ∧ flAck b = ack % 2 ^ 16 ∧ flKind b = kind % 256 ∧ flCredit b = cr % 2 ^ 32
      ∧ (pl.length = 236 → flPayload b = pl) ∧ flCrcOk b = true)
  ∧ (∀ (port : BitVec 4) (b : List Byte) (s : State), s.Live → s.Canonical → Claim.portsWf s →
    let p := port.toNat
    let x := s.port p
    let v := s.lnkAck p b
    let d := unsgn 16 ((flSeq b : Int) - x.nextRx)
    let miscounted (t : State) := (t.rd (Reg.LNK_CNT_CRC p)).toNat = min (2 ^ 64 - 1) ((s.rd (Reg.LNK_CNT_CRC p)).toNat + 1)
      ∧ (s.lnkState p = 4 → (t.port p).nak = true ∨ x.nakDone = true) ∧ (s.lnkState p ≠ 4 → t.port p = x)
      ∧ (t.port p).nextRx = x.nextRx ∧ (∀ a, a ≠ Reg.LNK_CNT_CRC p → t.rd a = s.rd a) ∧ ∀ a, t.byte a = s.byte a
    (flCrcOk b = false → (∃ t, exec (.dataFlit port b) s = .next t ∧ miscounted t)
      ∧ (∃ t, exec (.idleFlit port b) s = .next t ∧ miscounted t) ∧ ∃ t, exec (.downFlit port b) s = .next t ∧ miscounted t)
    ∧ (s.lnkState p ≠ 4 → flCrcOk b = true →
      exec (.dataFlit port b) s = .next s ∧ exec (.idleFlit port b) s = .next s ∧ exec (.downFlit port b) s = .next s)
    ∧ (s.lnkState p = 4 → flCrcOk b = true → flKind b < 4 → (flKind b ≠ 1 → exec (.dataFlit port b) s = .next s)
      ∧ (flKind b ≠ 0 → exec (.idleFlit port b) s = .next s) ∧ (flKind b ≠ 3 → exec (.downFlit port b) s = .next s))
    ∧ (s.lnkState p = 4 → flCrcOk b = true → 4 ≤ flKind b → exec (.dataFlit port b) s = .next (s.commit v)
      ∧ exec (.idleFlit port b) s = .next (s.commit v) ∧ exec (.downFlit port b) s = .next (s.commit v))
    ∧ (s.lnkState p = 4 → flCrcOk b = true → v.lnkState p ≠ 4 → (flKind b = 1 → exec (.dataFlit port b) s = .next (s.commit v))
      ∧ (flKind b = 0 → exec (.idleFlit port b) s = .next (s.commit v))
      ∧ (flKind b = 3 → exec (.downFlit port b) s = .next (s.commit v)))
    ∧ (s.lnkState p = 4 → flCrcOk b = true → flKind b = 1 → v.lnkState p = 4 →
      (d = 0 → ∃ t, exec (.dataFlit port b) s = .next t ∧ (t.port p).nextRx = (x.nextRx + 1) % 65536
        ∧ (t.rd (Reg.LNK_CNT_RX p)).toNat = min (2 ^ 64 - 1) ((s.rd (Reg.LNK_CNT_RX p)).toNat + 1) ∧ ∀ a, t.byte a = s.byte a)
      ∧ (0 < d → d < 2 ^ 15 → ∃ t, exec (.dataFlit port b) s = .next t ∧ ((t.port p).nak = true ∨ x.nakDone = true)
        ∧ (t.port p).nextRx = x.nextRx ∧ (t.port p).inq = x.inq ∧ ∀ a, t.byte a = s.byte a)
      ∧ (2 ^ 15 ≤ d → ∃ t, exec (.dataFlit port b) s = .next t ∧ (t.port p).nextRx = x.nextRx ∧ (t.port p).inq = x.inq
        ∧ (t.rd (Reg.LNK_CNT_DUP p)).toNat = min (2 ^ 64 - 1) ((s.rd (Reg.LNK_CNT_DUP p)).toNat + 1) ∧ ∀ a, t.byte a = s.byte a))
    ∧ (s.lnkState p = 4 → flCrcOk b = true → flKind b = 0 → v.lnkState p = 4 →
      (0 < d → d < 2 ^ 15 → ∃ t, exec (.idleFlit port b) s = .next t ∧ ((t.port p).nak = true ∨ x.nakDone = true))
      ∧ (d = 0 ∨ 2 ^ 15 ≤ d → exec (.idleFlit port b) s = .next (s.commit v)))
    ∧ (s.lnkState p = 4 → flCrcOk b = true → flKind b = 3 → v.lnkState p = 4 → ∃ t, exec (.downFlit port b) s = .next t
      ∧ Claim.wentDown s t p 4 1)
    ∧ (flAckv b = true →
      let e := unsgn 16 ((flAck b : Int) - x.u + 1)
      (2 ^ 15 ≤ e → (v.port p).u = x.u ∧ (v.port p).buf = x.buf)
      ∧ (e < 2 ^ 15 → x.buf.length < e → Claim.wentDown s v p 5 1)
      ∧ (e < 2 ^ 15 → e ≤ x.buf.length → flNak b = false → (v.port p).u = (x.u + e) % 65536 ∧ (v.port p).buf = x.buf.drop e)))
  ∧ (∀ (port : BitVec 4) (s : State), s.Live → s.Canonical → Claim.portsWf s →
    let p := port.toNat
    let x := s.port p
    (∀ f fs, x.buf = f :: fs → s.lnkState p = 4 → f.sentAt + s.rdB (Reg.LNK_TMO p) 15 0 ≤ s.now → ¬(x.replay = some x.u ∧ x.passAck = none) →
      let k := s.rdB (Reg.LNK_CNT_REPLAY p) 15 0 + 1
      (k ≤ s.rdB (Reg.LNK_DOWN_THRESH p) 15 0 → ∃ t, exec (.replayTimeout port) s = .next t ∧ (t.port p).replay = some x.u
        ∧ t.lnkState p = 4 ∧ t.rdB (Reg.LNK_CNT_REPLAY p) 15 0 = min 65535 k ∧ ∀ a, t.byte a = s.byte a)
      ∧ (s.rdB (Reg.LNK_DOWN_THRESH p) 15 0 < k → ∃ t, exec (.replayTimeout port) s = .next t ∧ Claim.wentDown s t p 1 1))
    ∧ (x.buf = [] ∨ s.lnkState p ≠ 4 ∨ (x.replay = some x.u ∧ x.passAck = none) → exec (.replayTimeout port) s = .next s)
    ∧ (s.lnkState p = 4 → 2 ^ 20 ≤ x.slots → ∃ t, exec (.replayWindowEnd port) s = .next t
      ∧ (t.port p).slots = x.slots - 2 ^ 20 ∧ t.rdB (Reg.LNK_CNT_REPLAY p) 15 0 = 0 ∧ (t.port p).hi = false
      ∧ (∀ a, a ≠ Reg.LNK_CNT_REPLAY p → t.rd a = s.rd a) ∧ ∀ a, t.byte a = s.byte a)
    ∧ (s.lnkState p ≠ 4 ∨ x.slots < 2 ^ 20 → exec (.replayWindowEnd port) s = .next s))
  ∧ ∀ (s : State) (p : Nat), (s.port p).replay = none → 4096 ≤ (s.port p).buf.length →
    ((s.lnkSend p).port p).n = (s.port p).n ∧ ((s.lnkSend p).port p).buf = (s.port p).buf

/-- A link goes down: the requests that left by the port, and whose responses have not arrived, complete with LINKDOWN when
no request waits for a tag (R330, R356). RXTIMEOUT, LANE_SIGNAL_LOSS of a lane that the port trained on, a TRAIN flit at an
ACTIVE port, and RESET and DISABLE of LNK_CTL each take the link down with their cause (R328, R335). TRAIN_FLIT trains a
lane; with every lane trained and both ends' second exchange done the port is ACTIVE, with fresh sequence numbers and the
peer's credits, and a skew above 40 ns fails the training. LANE_LOCK, HOLDOFF_EXPIRE, TRAIN_TIMEOUT, DOWN_FLIT_END and ENABLE
move a port only as R333 says; a port without its reference clock does not train (R318, R323, R329, R333, R334, R407).
LNK_CTL of a master other than a management core and the debug path with its permission is DENIED. -/
def Obligations.LinkStates : Prop :=
  (∀ (s : State) (p cause st : Nat), p < 16 → st < 8 → Claim.wentDown s (s.linkDown p cause st) p cause st
    ∧ (s.tagWaits = [] → Tbl.wf (fun _ => ({} : Tag)) s.tags = true → ∀ g r, (s.tagOf g).req = some r → (s.tagOf g).port = p →
      s.responseHere g = false → ∃ d ∈ (s.linkDown p cause st).fabDone, d.req = r ∧ d.status = St.linkdown))
  ∧ ∀ (port : BitVec 4) (s : State), s.Live → s.Canonical → Claim.portsWf s →
    let p := port.toNat
    let x := s.port p
    let q := s.lnkState p
    let chosen := bitsSet 2 (s.rdB (Reg.LNK_CFG p) 1 0)
    let detects (t : State) := (t.lnkState p = 2 ∨ t.lnkState p = 3) ∧ ∀ a, t.byte a = s.byte a
    let fails (t : State) := t.lnkState p = 1 ∧ bit (t.rd (Reg.LNK_EVT p)) 2 = true
      ∧ t.rdB (Reg.LNK_STATUS p) 31 16 = min 65535 (s.rdB (Reg.LNK_STATUS p) 31 16 + 1) ∧ ∀ a, t.byte a = s.byte a
    (q = 4 → x.lastGood + s.rdB (Reg.LNK_TMO p) 47 32 ≤ s.now → ∃ t, exec (.rxtimeout port) s = .next t ∧ Claim.wentDown s t p 2 1)
    ∧ (q ≠ 4 ∨ s.now < x.lastGood + s.rdB (Reg.LNK_TMO p) 47 32 → exec (.rxtimeout port) s = .next s)
    ∧ (∀ (l : BitVec 1) (lost : BitVec 3),
      (q = 4 → l.toNat ∈ s.lnkLanes p → lost ≠ 0 → ∃ t, exec (.laneSignalLoss port l lost) s = .next t ∧ Claim.wentDown s t p 3 1)
      ∧ (q = 3 → l.toNat ∈ s.lnkLanes p → lost ≠ 0 → ∃ t, exec (.laneSignalLoss port l lost) s = .next t ∧ fails t)
      ∧ ((q ≠ 3 ∧ q ≠ 4) ∨ l.toNat ∉ s.lnkLanes p ∨ lost = 0 →
        ∃ t, exec (.laneSignalLoss port l lost) s = .next t ∧ t.lnkState p = q ∧ t.port p = x
          ∧ t.rdB (lnkLane p l.toNat) 2 0 = (s.rdB (lnkLane p l.toNat) 2 0).land (7 - lost.toNat)
          ∧ (∀ a, a ≠ lnkLane p l.toNat → t.rd a = s.rd a) ∧ ∀ a, t.byte a = s.byte a))
    ∧ (∀ (l : BitVec 1) (pw : BitVec 8),
      let held := bit (s.rd Reg.RTE_SELF) 63 = true ∧ s.refLost.testBit (p / 8) = false
      (q = 2 → l.toNat ∈ chosen → (∀ k ∈ chosen, k ≠ l.toNat → s.rdB (lnkLane p k) 1 0 = 3) → held →
        ∃ t, exec (.laneLock port l pw) s = .next t ∧ t.lnkState p = 3 ∧ (t.port p).cfg = s.rdB (Reg.LNK_CFG p) 2 0
          ∧ (t.port p).sizes = s.rd (Reg.LNK_CR_SIZE p) ∧ ∀ a, t.byte a = s.byte a)
      ∧ (q ≠ 2 ∨ ¬held → ∃ t, exec (.laneLock port l pw) s = .next t ∧ t.lnkState p = q ∧ t.rdB (lnkLane p l.toNat) 2 0 = 7
        ∧ t.rdB (lnkLane p l.toNat) 15 8 = pw.toNat ∧ (∀ a, a ≠ lnkLane p l.toNat → t.rd a = s.rd a) ∧ ∀ a, t.byte a = s.byte a))
    ∧ (q = 3 → x.since + 500000 ≤ s.now → ∃ t, exec (.trainTimeout port) s = .next t ∧ fails t)
    ∧ (q ≠ 3 ∨ s.now < x.since + 500000 → exec (.trainTimeout port) s = .next s)
    ∧ (let auto := s.rdB (Reg.LNK_CFG p) 3 3 = 1 ∨ x.retrain = true
       (q = 1 → auto → x.since + s.rdB (Reg.LNK_CFG p) 47 32 ≤ s.now → ∃ t, exec (.holdoffExpire port) s = .next t ∧ detects t)
       ∧ (q ≠ 1 ∨ ¬auto ∨ s.now < x.since + s.rdB (Reg.LNK_CFG p) 47 32 → exec (.holdoffExpire port) s = .next s))
    ∧ (x.downTx = true → x.downAt + 1000 ≤ s.now → ∃ t, exec (.downFlitEnd port) s = .next t ∧ t.port p = { x with downTx := false }
      ∧ (∀ a, t.rd a = s.rd a) ∧ ∀ a, t.byte a = s.byte a)
    ∧ (x.downTx = false ∨ s.now < x.downAt + 1000 → exec (.downFlitEnd port) s = .next s)
    ∧ (∀ m : BitVec 8,
      let kept := Host.Outcome.next { s with out := s.out ++ [.access St.ok 0] }
      let denied := Host.Outcome.next { s with out := s.out ++ [.access St.denied 0] }
      let may := isMgmt m.toNat = true ∨ m = 0xE4 ∧ s.perm 2 = true
      (¬may → exec (.lnkReset m port) s = denied ∧ exec (.lnkDisable m port) s = denied
        ∧ exec (.lnkEnable m port) s = denied)
      ∧ (may →
        (2 ≤ q → ∃ t, exec (.lnkReset m port) s = .next t ∧ Claim.wentDown s t p 6 1 ∧ (t.port p).retrain = true)
        ∧ (q = 1 → (∃ t, exec (.lnkReset m port) s = .next t ∧ detects t) ∧ ∃ t, exec (.lnkDisable m port) s = .next t ∧ t.lnkState p = 0)
        ∧ (q = 0 → exec (.lnkReset m port) s = kept ∧ exec (.lnkDisable m port) s = kept)
        ∧ (2 ≤ q → ∃ t, exec (.lnkDisable m port) s = .next t ∧ Claim.wentDown s t p 7 0)
        ∧ (q ≤ 1 → ∃ t, exec (.lnkEnable m port) s = .next t ∧ detects t)
        ∧ (2 ≤ q → exec (.lnkEnable m port) s = kept)))
    ∧ ∀ (l : BitVec 1) (skew : BitVec 8) (b : List Byte),
      let r := flPayload b
      let sizes := (List.range 4).map fun c => leAt r (8 + 2 * c) 2
      let v := s.lnkAck p b
      (q ≠ 3 → q ≠ 4 → flCrcOk b = true → exec (.trainFlit port l skew b) s = .next s)
      ∧ (q ≠ 3 → q ≠ 4 → flCrcOk b = false → ∃ t, exec (.trainFlit port l skew b) s = .next t ∧ t.lnkState p = q ∧ t.port p = x
        ∧ (t.rd (Reg.LNK_CNT_CRC p)).toNat = min (2 ^ 64 - 1) ((s.rd (Reg.LNK_CNT_CRC p)).toNat + 1))
      ∧ (q = 4 → flCrcOk b = true → flKind b = 2 → v.lnkState p = 4 → ∃ t, exec (.trainFlit port l skew b) s = .next t
        ∧ Claim.wentDown s t p 5 1)
      ∧ (q = 3 → flCrcOk b = false → x.trained.length = 2 → ∃ t, exec (.trainFlit port l skew b) s = .next t
        ∧ nth (t.port p).trained l.toNat 0 = 0 ∧ t.lnkState p = 3)
      ∧ (q = 3 → flCrcOk b = true → flKind b = 2 → leAt r 16 1 = 1 → x.final = false → x.trained.length = 2 → nth x.trained l.toNat 0 < 2 →
        l.toNat ∈ s.lnkLanes p → ∃ t, exec (.trainFlit port l skew b) s = .next t ∧ t.lnkState p = 3
          ∧ nth (t.port p).trained l.toNat 0 = nth x.trained l.toNat 0 + 1 ∧ (t.port p).peerSize = sizes
          ∧ bits (t.rd (Reg.LNK_PEER p)) 17 0 = leAt r 0 4 % 2 ^ 18)
      ∧ (q = 3 → flCrcOk b = true → flKind b = 2 → leAt r 16 1 = 2 → x.final = true → x.trained.length = 2 → 2 ≤ nth x.trained l.toNat 0 →
        (∀ k ∈ s.lnkLanes p, k ≠ l.toNat → 3 ≤ nth x.trained k 0) → popcount 2 (leAt r 6 1) = (s.lnkLanes p).length →
        (s.crSizes p).sum ≤ 4096 →
        (skew.toNat ≤ 40 → ∃ t, exec (.trainFlit port l skew b) s = .next t ∧ t.lnkState p = 4 ∧ (t.port p).u = 0 ∧ (t.port p).n = 0
          ∧ (t.port p).nextRx = 0 ∧ (t.port p).buf = [] ∧ (t.port p).limit = sizes ∧ (t.port p).used = [0, 0, 0, 0]
          ∧ (t.port p).rxLimit = s.crSizes p ∧ bit (t.rd (Reg.LNK_EVT p)) 1 = true ∧ ∀ a, t.byte a = s.byte a)
        ∧ (40 < skew.toNat → ∃ t, exec (.trainFlit port l skew b) s = .next t ∧ fails t))

/-! ### The fabric -/

/-- A packet is a request of a TYPE, and for an ATOMIC of an OP; an ATOMIC with a reserved OP counts with OP 0. -/
def Sys2Proof.Claim.asks (typ op : Nat) (b : List Byte) : Bool :=
  if typ = 4 then atomicOf op b || (op == 0 && pkType b == 4 && decide (9 < pkOp b)) else pkType b == typ

/-- The next request of a TYPE and OP to this device in a port's input: the first of its credit class (R346). While fabric
ingress's ports are masked, a request to memory or to a queue is none (R299). -/
def Sys2Proof.Claim.next (s : State) (p typ op : Nat) : Option (List Byte) := s.nextRequest p (Claim.asks typ op)

/-- From `s` to `t` request `b` was answered: where a port takes the response, it is the last in that port's queue. -/
def Sys2Proof.Claim.replies (s t : State) (b : List Byte) (st : Nat) (refused : Bool) (d : List Byte) : Prop :=
  ∀ q, s.routeOf (pkDst b) (pkSrc b) (pkTc b) = .port q →
    (t.port q).queue = (s.port q).queue ++ [⟨s.responseTo b st refused d, 0, none, false⟩]

/-- No completion, transfer, register write or reset request waits to be settled. -/
def Sys2Proof.Claim.calm (s : State) : Prop := s.fabDone = [] ∧ s.xfers = [] ∧ s.busLate = [] ∧ s.resetReq = none

/-- The command that serves a request's TYPE and OP. -/
def Sys2Proof.Claim.serves (p : BitVec 4) (typ op : Nat) (c : Instr) : Prop :=
  (typ = 1 ∧ c = .read p) ∨ (typ = 2 ∧ c = .readSnoop p) ∨ (typ = 3 ∧ c = .write p) ∨ (typ = 5 ∧ c = .message p)
    ∨ (typ = 4 ∧ ((op = 0 ∧ c = .swap p) ∨ (op = 1 ∧ c = .cas p) ∨ (op = 2 ∧ c = .add p) ∨ (op = 3 ∧ c = .andOp p) ∨ (op = 4 ∧ c = .orOp p)
      ∨ (op = 5 ∧ c = .xorOp p) ∨ (op = 6 ∧ c = .minOp p) ∨ (op = 7 ∧ c = .maxOp p) ∨ (op = 8 ∧ c = .minu p) ∨ (op = 9 ∧ c = .maxu p)))

/-- `n` bytes at local address `a` lie in one granule of LPDDR or of an operand store, and no access to them fails. -/
def Sys2Proof.Claim.plainMem (s : State) (a n : Nat) : Prop :=
  ((∃ k, placeOf a = .lpddr k) ∨ ∃ d k, placeOf a = .sram d k) ∧ 1 ≤ n ∧ a % 2048 + n ≤ 2048 ∧ Claim.clean s a n

/-- READ, READ_SNOOP, WRITE, the ten ATOMICs and MESSAGE serve the next request of their kind to this device in a port's
input, the first of its credit class, and have no effect without one (R346); while the ports of fabric ingress are masked,
one to memory or to a queue waits (R299). A request that fails a check is answered with its status and touches no byte; a
source that may not send it is counted (R13, R342). A READ answers the bytes; a WRITE stores its data and no other byte; an
ATOMIC stores its result and answers the old value (R341, R343); a MESSAGE is accepted, refused for room, or answered with
its status (R274). DOORBELL of the ring's owner is applied, and any other is discarded and counted (R344). -/
def Obligations.FabricRequests : Prop :=
  (∀ (port : BitVec 4) (c : Instr) (typ op : Nat) (s : State), s.Live → s.Canonical → Claim.serves port typ op c →
    Claim.next s port.toNat typ op = none → exec c s = .next s)
  ∧ (∀ (port : BitVec 4) (c : Instr) (typ op : Nat) (b : List Byte) (s : State), s.Live → s.Canonical → Claim.portsWf s →
    Claim.serves port typ op c → Claim.next s port.toNat typ op = some b →
    let u := s.takePkt port.toNat b
    let v := u.addB Reg.FAB_CNT_IN 63 0 1
    let st := v.requestStatus b
    exec c s = .next (s.commit (u.serveRequest b))
    ∧ (st ≠ 0 → ∃ t, exec c s = .next t ∧ (∀ k, t.byte k = s.byte k) ∧ Claim.replies s t b st false []
      ∧ (st ≠ St.denied → t = s.commit (v.sendResponse (v.responseTo b st false []))))
    ∧ (v.sourceDenied b = true → requestFormed b = true → v.accessStatus (pkSrc b) b = 0 → ∃ t, exec c s = .next t
      ∧ (t.rd Reg.FAB_CNT_DENIED).toNat = min (2 ^ 64 - 1) ((s.rd Reg.FAB_CNT_DENIED).toNat + 1) ∧ bit (t.rd Reg.FAB_EVT) 2 = true
      ∧ ∀ k, t.byte k = s.byte k))
  ∧ (∀ (port : BitVec 4) (b : List Byte) (s : State), s.Live → s.Canonical → Claim.portsWf s →
    let p := port.toNat
    let v := (s.takePkt p b).addB Reg.FAB_CNT_IN 63 0 1
    let a := pkAddr b
    let n := pkLen b
    let told (t : State) := Claim.replies s t b St.ok false (s.rawRead a n) ∧ ∀ k, t.byte k = s.byte k
    let made (op : Nat) (t : State) :=
      let arg := atomicArgs op n (pkData b)
      Claim.replies s t b St.ok false (s.rawRead a n)
        ∧ t.rawNat a n = atomicNew op n (s.rawNat a n) arg.1 arg.2 % 2 ^ (8 * n) ∧ ∀ k, k < a ∨ a + n ≤ k → t.byte k = s.byte k
    v.requestStatus b = 0 →
    (Claim.plainMem s a n →
      (Claim.next s p 1 0 = some b → ∃ t, exec (.read port) s = .next t ∧ told t)
      ∧ (Claim.next s p 2 0 = some b → ∃ t, exec (.readSnoop port) s = .next t ∧ told t)
      ∧ (Claim.next s p 3 0 = some b → (pkData b).length = n → ∃ t, exec (.write port) s = .next t ∧ Claim.replies s t b St.ok false []
        ∧ (∀ i (h : i < (pkData b).length), t.byte (a + i) = (pkData b)[i]) ∧ ∀ k, k < a ∨ a + n ≤ k → t.byte k = s.byte k)
      ∧ (Claim.next s p 4 0 = some b → ∃ t, exec (.swap port) s = .next t ∧ made 0 t)
      ∧ (Claim.next s p 4 1 = some b → ∃ t, exec (.cas port) s = .next t ∧ made 1 t)
      ∧ (Claim.next s p 4 2 = some b → ∃ t, exec (.add port) s = .next t ∧ made 2 t)
      ∧ (Claim.next s p 4 3 = some b → ∃ t, exec (.andOp port) s = .next t ∧ made 3 t)
      ∧ (Claim.next s p 4 4 = some b → ∃ t, exec (.orOp port) s = .next t ∧ made 4 t)
      ∧ (Claim.next s p 4 5 = some b → ∃ t, exec (.xorOp port) s = .next t ∧ made 5 t)
      ∧ (Claim.next s p 4 6 = some b → ∃ t, exec (.minOp port) s = .next t ∧ made 6 t)
      ∧ (Claim.next s p 4 7 = some b → ∃ t, exec (.maxOp port) s = .next t ∧ made 7 t)
      ∧ (Claim.next s p 4 8 = some b → ∃ t, exec (.minu port) s = .next t ∧ made 8 t)
      ∧ (Claim.next s p 4 9 = some b → ∃ t, exec (.maxu port) s = .next t ∧ made 9 t))
    ∧ (∀ y, Claim.next s p 5 0 = some b →
      (v.qAccept a (pkData b) false = (.ok, y) → exec (.message port) s = .next (s.commit (y.sendResponse (y.responseTo b St.ok false []))))
      ∧ (v.qAccept a (pkData b) false = (.noRoom, y) →
        exec (.message port) s = .next (s.commit (y.sendResponse (y.responseTo b St.ok true []))))
      ∧ ∀ e, v.qAccept a (pkData b) false = (.refused e, y) →
        exec (.message port) s = .next (s.commit (y.sendResponse (y.responseTo b e false [])))))
  ∧ (∀ (n old v c : Nat), n = 4 ∨ n = 8 → old < 2 ^ (8 * n) → v < 2 ^ (8 * n) →
    atomicNew 2 n old v c = (old + v) % 2 ^ (8 * n) ∧ atomicNew 1 n old v old = v ∧ (old ≠ c → atomicNew 1 n old v c = old)
      ∧ sgn (8 * n) (atomicNew 6 n old v c) = min (sgn (8 * n) old) (sgn (8 * n) v)
      ∧ sgn (8 * n) (atomicNew 7 n old v c) = max (sgn (8 * n) old) (sgn (8 * n) v)
      ∧ atomicNew 8 n old v c = min old v ∧ atomicNew 9 n old v c = max old v)
  ∧ ∀ (port : BitVec 4) (s : State), s.Live → s.Canonical →
    let here := s.nextPkt port.toNat fun b => pkDst b == s.devId && pkType b == 6
    (here = none → exec (.doorbell port) s = .next s)
    ∧ ∀ b, here = some b →
      let v := (s.takePkt port.toNat b).addB Reg.FAB_CNT_IN 63 0 1
      (∀ r d, doorbellOf (pkAddr b) = some (r, d) → v.admitted (pkSrc b) = true → requestFormed b = true → v.ringOwner r = pkSrc b →
        exec (.doorbell port) s = .next (s.commit (v.busWrite 0xE8 (pkSrc b) (pkAddr b) (pkData b)).2))
      ∧ (doorbellOf (pkAddr b) = none ∨ v.admitted (pkSrc b) = false ∨ requestFormed b = false
          ∨ (∃ r d, doorbellOf (pkAddr b) = some (r, d) ∧ v.ringOwner r ≠ pkSrc b) → ∃ t, exec (.doorbell port) s = .next t
        ∧ t.rdB Reg.FAB_CNT_DISCARD 63 32 = min (2 ^ 32 - 1) (s.rdB Reg.FAB_CNT_DISCARD 63 32 + 1)
        ∧ (∀ a, a ≠ Reg.FAB_CNT_IN → a ≠ Reg.FAB_CNT_DISCARD → t.rd a = s.rd a) ∧ ∀ a, t.byte a = s.byte a)

/-- A packet carries its header's fields where R339 places them. The tag allocated is the lowest free one (R354).
PACKET_FORWARD sends the next packet for another device on with one hop less; without hops, a route or a usable port it sets
the event of R350. RESPONSE takes the next response, which never waits for a request (R346): it completes the request of its
tag and generation, and a stale one is counted (R355). RESPONSE_TIMEOUT completes a request whose response has not arrived
with LINKDOWN and retires its tag; QUARANTINE_END frees a retired tag (R356, R357). -/
def Obligations.FabricResponses : Prop :=
  (∀ (typ flags hops master dst src tag addr len op : Nat) (data : List Byte),
    let b := packetBytes typ flags hops master dst src tag addr len op data
    pkType b = typ % 2 ^ 8 ∧ pkTc b = flags % 4 ∧ pkHops b = hops % 2 ^ 8 ∧ pkMaster b = master % 2 ^ 8 ∧ pkDst b = dst % 2 ^ 32
      ∧ pkSrc b = src % 2 ^ 32 ∧ pkTag b = tag % 2 ^ 32 ∧ pkAddr b = addr % 2 ^ 64 ∧ pkLen b = len % 2 ^ 16 ∧ pkOp b = op % 2 ^ 8
      ∧ pkRsv b = 0 ∧ b.length = 32 + roundUp data.length 16)
  ∧ (∀ s : State, Tbl.wf (fun _ => ({} : Tag)) s.tags = true → (s.tagOf (lowestTag s.tags 0)).free = true
    ∧ ∀ k < lowestTag s.tags 0, (s.tagOf k).free = false)
  ∧ (∀ (port : BitVec 4) (s : State), s.Live → s.Canonical → Claim.portsWf s →
    let here := s.nextPkt port.toNat fun b => pkDst b != s.devId
    (here = none → exec (.packetForward port) s = .next s)
    ∧ ∀ b, here = some b →
      let u := s.takePkt port.toNat b
      let route := s.routeOf (pkSrc b) (pkDst b) (pkTc b)
      exec (.packetForward port) s = .next (s.commit (u.forward b).settle)
      ∧ (Claim.calm s → ∀ q, pkHops b ≠ 0 → route = .port q → ∃ t, exec (.packetForward port) s = .next t
        ∧ (t.port q).queue = (s.port q).queue ++ [⟨putLe b 2 1 (pkHops b - 1), pkClass (putLe b 2 1 (pkHops b - 1)), none, true⟩]
        ∧ (t.rd Reg.RTE_CNT_FWD).toNat = min (2 ^ 64 - 1) ((s.rd Reg.RTE_CNT_FWD).toNat + 1)
        ∧ (∀ a, a ≠ Reg.RTE_CNT_FWD → t.rd a = s.rd a) ∧ ∀ a, t.byte a = s.byte a)
      ∧ (Claim.calm s → pkSrc b ≠ s.devId →
        (pkHops b = 0 → ∃ t, exec (.packetForward port) s = .next t ∧ bit (t.rd Reg.RTE_EVT) 1 = true ∧ ∀ a, t.byte a = s.byte a)
        ∧ (pkHops b ≠ 0 → route = .noRoute → ∃ t, exec (.packetForward port) s = .next t
          ∧ bit (t.rd Reg.RTE_EVT) 0 = true ∧ ∀ a, t.byte a = s.byte a)
        ∧ ∀ q, pkHops b ≠ 0 → route = .noPort q → ∃ t, exec (.packetForward port) s = .next t
          ∧ bit (t.rd Reg.RTE_EVT) 2 = true ∧ ∀ a, t.byte a = s.byte a))
  ∧ (∀ (port : BitVec 4) (s : State), s.Live → s.Canonical →
    let here := s.nextPkt port.toNat fun b => pkDst b == s.devId && pkType b == 8
    (here = none → exec (.response port) s = .next s)
    ∧ ∀ b, here = some b →
      let u := s.takePkt port.toNat b
      let g := s.tagOf (pkTag b % 2 ^ 14)
      let fits (r : FabReq) := pkTag b / 2 ^ 14 = g.gen ∧ pkSrc b = r.dst ∧ responseFits r b = true
      (∀ r, g.req = some r → fits r → exec (.response port) s
        = .next (s.commit (u.fabComplete (pkTag b % 2 ^ 14) (pkOp b) (pkRefused b) (pkData b) false).settle))
      ∧ (∀ r, g.req = some r → fits r → r.kind = 2 → Claim.calm s → s.tagWaits = [] → Tbl.wf (fun _ => ({} : Tag)) s.tags = true →
        ∃ t, exec (.response port) s = .next t ∧ (t.tagOf (pkTag b % 2 ^ 14)).req = none ∧ (t.tagOf (pkTag b % 2 ^ 14)).quar = none
          ∧ (t.core r.ref).replies = (s.core r.ref).replies ++ [(pkOp b, pkData b)] ∧ ∀ a, t.byte a = s.byte a)
      ∧ ((∀ r, g.req = some r → ¬fits r) → exec (.response port) s = .next (s.commit (u.response b).settle)
        ∧ (u.response b).tags = s.tags ∧ (u.response b).fabDone = s.fabDone ∧ bit ((u.response b).rd Reg.FAB_EVT) 0 = true
        ∧ ((u.response b).rd Reg.FAB_CNT_STALE).toNat = min (2 ^ 64 - 1) ((s.rd Reg.FAB_CNT_STALE).toNat + 1)))
  ∧ ∀ (tag : BitVec 14) (s : State), s.Live → s.Canonical →
    let t := tag.toNat
    let g := s.tagOf t
    (∀ r, g.req = some r →
      let late := g.since + s.rdB Reg.FAB_TMO 31 0 ≤ s.now ∧ s.responseHere t = false
      (late → exec (.responseTimeout tag) s = .next (s.commit
        (((s.addB Reg.FAB_CNT_TIMEOUT 63 0 1).fabEvent 1 St.linkdown r.master r.addr).fabComplete t St.linkdown false [] true).settle))
      ∧ (late → r.kind = 2 → Claim.calm s → s.tagWaits = [] → Tbl.wf (fun _ => ({} : Tag)) s.tags = true →
        ∃ u, exec (.responseTimeout tag) s = .next u ∧ (u.tagOf t).req = none
          ∧ (u.core r.ref).replies = (s.core r.ref).replies ++ [(St.linkdown, [])] ∧ bit (u.rd Reg.FAB_EVT) 1 = true
          ∧ (u.rd Reg.FAB_CNT_TIMEOUT).toNat = min (2 ^ 64 - 1) ((s.rd Reg.FAB_CNT_TIMEOUT).toNat + 1) ∧ ∀ a, u.byte a = s.byte a)
      ∧ (¬late → exec (.responseTimeout tag) s = .next s)
      ∧ ∀ st ref d retire, s.tagWaits = [] → Tbl.wf (fun _ => ({} : Tag)) s.tags = true →
        let v := s.fabComplete t st ref d retire
        v.fabDone = s.fabDone ++ [⟨r, st, ref, d⟩] ∧ (v.tagOf t).req = none ∧ (v.tagOf t).gen = g.gen
          ∧ (v.tagOf t).quar = if retire = true ∧ 0 < s.rdB Reg.FAB_TMO 63 32 then some (s.now + s.rdB Reg.FAB_TMO 63 32) else none)
    ∧ (g.req = none → exec (.responseTimeout tag) s = .next s)
    ∧ (∀ q, g.quar = some q →
      (q ≤ s.now → exec (.quarantineEnd tag) s = .next (s.commit ((s.setTag t { g with quar := none }).serveTags s.tagWaits.length)))
      ∧ (q ≤ s.now → s.tagWaits = [] → g.req = none → Tbl.wf (fun _ => ({} : Tag)) s.tags = true →
        ∃ u, exec (.quarantineEnd tag) s = .next u ∧ (u.tagOf t).free = true ∧ (∀ a, u.rd a = s.rd a) ∧ ∀ a, u.byte a = s.byte a)
      ∧ (s.now < q → exec (.quarantineEnd tag) s = .next s))
    ∧ (g.quar = none → exec (.quarantineEnd tag) s = .next s)

/-! ### Collectives -/

/-- COL_SUBMIT in RUNNING holds a descriptor whose fields, alignment and group entry are right, refuses any other with
BADDESC, and sets SUBFULL when 256 are held (R365). A descriptor, or a group entry, that cannot be read is refused with the
status of the read and sets BADDESC too (the model's reading, log entry 105). While the engine's ports are masked the read of
the descriptor is discarded, and nothing is submitted (R299). SEGMENT_WRITTEN, SLOT_FREED and PERMUTE_SENT, by an admitted
device that is no depot: a notice for a running collective is applied to it; any other is held, or completes with QFULL when
256 are held; a source that is a depot or not admitted is denied and counted (R342, R371, R372). -/
def Obligations.CollectiveNotices : Prop :=
  (∀ (m : BitVec 8) (v : Word) (s : State), s.Live → s.Canonical → Claim.mayWrite s m →
    let a := bits v 45 0
    (bit v 63 = false ∨ s.jobState ≠ 3 ∨ s.isMasked 0xD5 = true → exec (.colSubmit m v) s = .next { s with out := s.out ++ [.access St.ok 0] })
    ∧ (bit v 63 = true → s.jobState = 3 → s.isMasked 0xD5 = false → 256 ≤ s.cols.length → ∃ t, exec (.colSubmit m v) s
      = .next t ∧ bit (t.rd Reg.COL_EVT) 6 = true
      ∧ t.cols = s.cols ∧ (∀ k, k ≠ Reg.COL_EVT → t.rd k = s.rd k) ∧ ∀ k, t.byte k = s.byte k)
    ∧ ∀ st b u, bit v 63 = true → s.jobState = 3 → s.isMasked 0xD5 = false → s.cols.length < 256 → s.load 0xD5 a 128 = (st, b, u) →
      let c : Col := { addr := a, desc := b }
      (st ≠ 0 → ∃ t, exec (.colSubmit m v) s = .next t ∧ bit (t.rd Reg.COL_EVT) 1 = true ∧ t.cols = s.cols)
      ∧ (st = 0 → a % 128 ≠ 0 ∨ c.fieldsOk = false ∨ (s.findCol c.id).isSome = true →
        exec (.colSubmit m v) s = .next (s.commit ((u.colRefuse c St.misalign).answer St.ok 0)))
      ∧ ∀ gs dev work y, st = 0 → a % 128 = 0 → c.fieldsOk = true → s.findCol c.id = none →
        u.groupEntry c c.rank = (gs, dev, work, y) →
        let here := dev = s.devId ∧ (c.op = 5 ∨ work % 2048 = 0)
        (gs = 0 → here → ∃ t, exec (.colSubmit m v) s = .next t ∧ t.cols = s.cols ++ [{ c with self := work }]
          ∧ t.out = s.out ++ [.access St.ok 0])
        ∧ (gs = 0 → ¬here → exec (.colSubmit m v) s = .next (s.commit ((y.colRefuse c St.misalign).answer St.ok 0)))
        ∧ (gs ≠ 0 → exec (.colSubmit m v) s = .next (s.commit ((y.colRefuse c gs).answer St.ok 0))))
  ∧ (∀ (src : BitVec 18) (v : Word) (s : State), s.Live → s.Canonical →
    let id := bits v 31 0
    let fit := s.admitted src.toNat = true ∧ src.toNat ∉ s.depots
    let u := s.addB Reg.FAB_CNT_IN 63 0 1
    let turned (t : State) := t.out = s.out ++ [.access St.denied 0] ∧ bit (t.rd Reg.FAB_EVT) 2 = true
      ∧ (t.rd Reg.FAB_CNT_DENIED).toNat = min (2 ^ 64 - 1) ((s.rd Reg.FAB_CNT_DENIED).toNat + 1)
      ∧ (∀ k, k ≠ Reg.FAB_CNT_DENIED → k ≠ Reg.FAB_CNT_IN → k ≠ Reg.FAB_EVT → t.rd k = s.rd k)
      ∧ t.cols = s.cols ∧ t.colEarly = s.colEarly ∧ ∀ k, t.byte k = s.byte k
    let kept (kind : Nat) (t : State) := t.colEarly = s.colEarly ++ [putBits v 59 58 kind] ∧ t.out = s.out ++ [.access St.ok 0]
      ∧ t.cols = s.cols ∧ (∀ k, k ≠ Reg.FAB_CNT_IN → t.rd k = s.rd k) ∧ ∀ k, t.byte k = s.byte k
    let full (t : State) := t.out = s.out ++ [.access St.qfull 0] ∧ t.cols = s.cols ∧ t.colEarly = s.colEarly
      ∧ ∀ k, t.byte k = s.byte k
    (¬fit → (∃ t, exec (.segmentWritten src v) s = .next t ∧ turned t) ∧ (∃ t, exec (.slotFreed src v) s = .next t ∧ turned t)
      ∧ ∃ t, exec (.permuteSent src v) s = .next t ∧ turned t)
    ∧ (∀ c, fit → s.findCol id = some c → c.running = true →
      let told (kind : Nat) := s.commit (((u.putCol (c.notice (putBits v 59 58 kind))).colProgress id).answer St.ok 0)
      exec (.segmentWritten src v) s = .next (told 0) ∧ exec (.slotFreed src v) s = .next (told 1)
        ∧ exec (.permuteSent src v) s = .next (told 2))
    ∧ (fit → (∀ c, s.findCol id = some c → c.running = false) →
      (s.colEarly.length < 256 → (∃ t, exec (.segmentWritten src v) s = .next t ∧ kept 0 t)
        ∧ (∃ t, exec (.slotFreed src v) s = .next t ∧ kept 1 t) ∧ ∃ t, exec (.permuteSent src v) s = .next t ∧ kept 2 t)
      ∧ (256 ≤ s.colEarly.length → (∃ t, exec (.segmentWritten src v) s = .next t ∧ full t)
        ∧ (∃ t, exec (.slotFreed src v) s = .next t ∧ full t) ∧ ∃ t, exec (.permuteSent src v) s = .next t ∧ full t)))
  ∧ ∀ (c : Col) (v : Word),
    (bits v 59 58 = 0 → c.notice v = { c with arrived := c.arrived ++ [(bits v 55 32, bits v 57 56)] })
    ∧ (bits v 59 58 = 1 → c.notice v = { c with freed := c.freed + 1 })
    ∧ (bits v 59 58 = 2 → bits v 49 32 ∈ (c.notice v).senders ∧ ∀ r ∈ c.senders, r ∈ (c.notice v).senders)

/-- In one pass round a ring every chunk is at this rank exactly once (R367), and the segments that a rank sends are those
that its successor expects, in the same order (R371; the order itself is the model's choice, log entry 30). COLLECTIVE_START
starts the oldest held descriptor when fewer than 16 run and the engine's ports are not masked, and one without elements has
then finished (R299, R365). COLLECTIVE_COMPLETE, once the engine's ports are not masked, gives a
finished descriptor up, counts it and advances its milestone;
RING_TMO ends a ring collective that has awaited a segment too long with LINKDOWN, and PERMUTE_TIMEOUT a permute with
INCOMPLETE (R374, R380, R382). PERMUTE_SEND_DONE tells the receiving ranks and begins phase 2; PERMUTE_LAND_DONE clears the
journal and finishes (R379). -/
def Obligations.CollectivesRun : Prop :=
  (∀ (c : Col) (phase : Nat), c.rank < c.ranks → ((c.ringPass phase).1 :: (c.ringPass phase).2).Perm (List.range c.ranks))
  ∧ (∀ c d : Col, c.rank < c.ranks → c.root < c.ranks → d.rank = (c.rank + 1) % c.ranks → d.ranks = c.ranks → d.op = c.op →
    d.count = c.count → d.outFmt = c.outFmt → d.root = c.root → d.plan.2.map (·.1) = c.plan.1.map (·.1))
  ∧ (∀ s : State, s.Live → s.Canonical →
    let next := s.cols.find? fun c => !c.running && c.status.isNone
    let room := (s.cols.filter (·.running)).length < 16 ∧ s.jobState = 3 ∧ s.isMasked 0xD5 = false
    (¬room ∨ next = none → exec .collectiveStart s = .next s)
    ∧ ∀ c, room → next = some c → exec .collectiveStart s = .next (s.commit (s.colStart c))
      ∧ (({ addr := c.addr, desc := c.desc, self := c.self } : Col) = c → c.op ≤ 4 → c.count = 0 → (∀ v ∈ s.colEarly, bits v 31 0 ≠ c.id) →
        Claim.plain s (c.groupAddr + 16 * ((c.rank + 1) % c.ranks)) 16 →
        Claim.plain s (c.groupAddr + 16 * ((c.rank + c.ranks - 1) % c.ranks)) 16 →
        ∃ t, exec .collectiveStart s = .next t ∧ (t.findCol c.id).bind Col.status = some St.ok ∧ ∀ a, t.byte a = s.byte a))
  ∧ (∀ (coll : BitVec 32) (s : State), s.Live → s.Canonical →
    let id := coll.toNat
    (s.findCol id = none → exec (.ringTmo coll) s = .next s ∧ exec (.permuteSendDone coll) s = .next s
      ∧ exec (.permuteTimeout coll) s = .next s ∧ exec (.permuteLandDone coll) s = .next s
      ∧ (s.colTrigs = [] → exec (.collectiveComplete coll) s = .next s))
    ∧ ∀ c, s.findCol id = some c →
      let ended (t : State) (st : Nat) := t.cols = s.cols.filter (fun d => d.id ≠ id)
        ∧ (c.trigger = false → (t.rd Reg.COL_CNT_OPS).toNat = min (2 ^ 64 - 1) ((s.rd Reg.COL_CNT_OPS).toNat + 1)
          ∧ (s.msOk c.doneMs = true → t.msVal c.doneMs = min (2 ^ 64 - 1) (s.msVal c.doneMs + 1))
          ∧ (st ≠ 0 → bit (t.rd Reg.COL_EVT) 0 = true ∧ bits (t.rd Reg.COL_LAST) 31 0 = id ∧ bits (t.rd Reg.COL_LAST) 39 32 = st % 256))
      (∀ st, s.colTrigs = [] → c.status = some st → (s.isMasked 0xD5 = true → exec (.collectiveComplete coll) s = .next s)
        ∧ (s.isMasked 0xD5 = false → ∃ t, exec (.collectiveComplete coll) s = .next t ∧ ended t st))
      ∧ (s.colTrigs = [] → c.status = none → exec (.collectiveComplete coll) s = .next s)
      ∧ (c.running = true → c.status = none → c.op ≠ 5 → c.awaits = true →
        (c.waitAt + s.rdB Reg.COL_CFG 31 0 ≤ s.now → ∃ t, exec (.ringTmo coll) s = .next t ∧ ended t St.linkdown)
        ∧ (s.now < c.waitAt + s.rdB Reg.COL_CFG 31 0 → exec (.ringTmo coll) s = .next s))
      ∧ (c.running = true → c.status = none → c.op = 5 → c.phase = 2 →
        (c.t0 + s.rdB Reg.COL_CFG 63 32 ≤ s.now → ∃ t, exec (.permuteTimeout coll) s = .next t ∧ ended t St.incomplete
          ∧ t.permJournal = s.permJournal)
        ∧ (s.now < c.t0 + s.rdB Reg.COL_CFG 63 32 → exec (.permuteTimeout coll) s = .next s))
      ∧ (∀ x m u ds y, c.running = true → c.op = 5 → c.phase = 1 → c.work = some x → (s.xfer x).ended = some 0 → s.isMasked 0xD5 = false →
        s.permMap c = (St.ok, m, u) → u.rankDevs c ((m.outs.map fun e => e.2.1).dedup) = (St.ok, ds, y) →
        let z := (y.dropXfers (.col id)).permNotify c ds
        ∀ d, z.findCol id = some d → exec (.permuteSendDone coll) s
          = .next (s.commit (({ z with permJournal := some (id, 2) }.putCol { d with phase := 2, work := none }).colProgress id)))
      ∧ (∀ x k u, c.running = true → c.op = 5 → c.phase = 1 → c.work = some x → (s.xfer x).ended = some 0 → s.isMasked 0xD5 = false →
        c.status = none → s.permMap c = (St.ok, ⟨[], k, []⟩, u) → Claim.plain s c.map 64 → c.senders.length < k →
        ∃ t, exec (.permuteSendDone coll) s = .next t ∧ (t.findCol id).map Col.phase = some 2 ∧ t.permJournal = some (id, 2)
          ∧ ∀ a, t.byte a = s.byte a)
      ∧ (∀ x, c.running = true → c.op = 5 → c.phase = 3 → c.work = some x → (s.xfer x).ended = some 0 →
        ∃ t, exec (.permuteLandDone coll) s = .next t ∧ t.permJournal = none ∧ (t.findCol id).bind Col.status = some St.ok
          ∧ (∀ a, t.rd a = s.rd a) ∧ ∀ a, t.byte a = s.byte a)
      ∧ (c.op ≠ 5 ∨ c.running = false ∨ c.phase ≠ 1 → exec (.permuteSendDone coll) s = .next s)
      ∧ (c.op ≠ 5 ∨ c.running = false ∨ c.phase ≠ 2 → exec (.permuteTimeout coll) s = .next s)
      ∧ (c.op ≠ 5 ∨ c.running = false ∨ c.phase ≠ 3 → exec (.permuteLandDone coll) s = .next s)
      ∧ (c.op = 5 ∨ c.running = false ∨ c.awaits = false → exec (.ringTmo coll) s = .next s))
  ∧ ∀ (a b : Nat), colAdd 0x12 a b = (unsgn 32 (satInt 32 (sgn 32 a + sgn 32 b)), decide (satInt 32 (sgn 32 a + sgn 32 b) ≠ sgn 32 a + sgn 32 b))

/-! ### Power and clocks -/

/-- PERIOD_START at a multiple of 100,000: the pool is the budget less the guest's and the measured powers, which are free
values, the package's within what R470 lets the device draw over 1 ms and 100 ms; each die's grant is its weighted share up
to its ceiling, and OVERBUDGET is set when the measured power is above the budget (R413, R417). TARIFF_ROUND at a multiple of
10,000 offers or requests the difference of demand and budget (R414). BID_RECEIVE keeps the first bid of each die that comes
within 50 µs of the start of its round, and GRANT_RECEIVE raises the budget up to the ceiling by a grant that comes within
100 µs of it; the package manager hears of the die's running round only. GRANT_COMPUTE grants the shares of R415, at most the
offer in sum. ROUND_END commands a point at most four higher and at most OPP_MAX, and pauses the matrix engines where not
even point 0 fits; the temperature, which is below the limit of R484, the point that fits and the pause are free values (log
entries 5, 94). AVS_SETTLE switches the clock to the point commanded and stops it for at most 1 µs, and AVSFAIL stays and
rewrites the voltage (R411, R412, R416). REFCLK_LOSS takes the active ports of the reference down with cause SIGNAL and ends
their training, and REFCLK_RETURN shows the reference present (R407). -/
def Obligations.PowerAndClocks : Prop :=
  (∀ s : State, s.Live → s.Canonical →
    let free (k : Nat) := bits (Config.freeBits (s.freeIx + k)) 15 0
    let budget := 8 * s.rdB Reg.PKM_BUDGET 11 0
    let pool := budget - 8 * s.rdB Reg.PKM_GUEST 11 0 - (free 0 + free 1 + free 2)
    let pow := free 3 % (s.powerCap + 1)
    let ws := s.pkmWeight 0 + s.pkmWeight 1 + s.pkmWeight 2 + s.pkmWeight 3
    (s.now % 100000 = 0 → bit (s.rd Reg.RST_STATUS) 12 = true → ∃ t, exec .periodStart s = .next t
      ∧ (∀ n < 4, t.govB n = min (s.pkmCeil n) (if ws = 0 then 0 else pool * s.pkmWeight n / ws)
        ∧ t.rdB Reg.PKM_GRANT (16 * n + 15) (16 * n) = t.govB n)
      ∧ (t.rd Reg.PKM_PERIODS).toNat = min (2 ^ 64 - 1) ((s.rd Reg.PKM_PERIODS).toNat + 1) ∧ t.rdB Reg.PKM_POWER 15 0 = pow
      ∧ pow ≤ 23200 ∧ pow ≤ 100 * (s.pkmPast.map (·.2)).foldl max budget - (s.pkmPast.map (·.1)).sum
      ∧ (budget < pow → bit (t.rd Reg.PKM_EVT) 0 = true) ∧ ∀ a, t.byte a = s.byte a)
    ∧ (s.now % 100000 ≠ 0 ∨ bit (s.rd Reg.RST_STATUS) 12 = false → exec .periodStart s = .next s))
  ∧ (∀ (die : BitVec 2) (s : State), s.Live → s.Canonical →
    let n := die.toNat
    let d := max (bits (Config.freeBits s.freeIx) 15 0) (bits (Config.freeBits (s.freeIx + 1)) 15 0)
    let offer := s.govB n - d - s.rdB (Reg.GOV_CFG n) 15 0
    let request := if offer = 0 then min (d - s.govB n) (s.pkmCeil n - s.govB n) else 0
    (s.now % 10000 = 0 → bit (s.rd Reg.RST_STATUS) 12 = true → ∃ t, exec (.tariffRound die) s = .next t ∧ (t.gov n).t0 = s.now
      ∧ (t.gov n).offer = offer ∧ (t.gov n).request = request ∧ (t.gov n).bids = [⟨n, offer, request⟩]
      ∧ t.pkmBids = s.pkmBids.filter (fun k => k ≠ n) ∧ t.out = s.out ++ [.bid n offer request d]
        ∧ (∀ a, a ≠ Reg.GOV_DEMAND n → t.rd a = s.rd a) ∧ ∀ a, t.byte a = s.byte a)
    ∧ (s.now % 10000 ≠ 0 ∨ bit (s.rd Reg.RST_STATUS) 12 = false → exec (.tariffRound die) s = .next s))
  ∧ (∀ (die src : BitVec 2) (round : Word) (offer request : BitVec 16) (s : State), s.Live → s.Canonical →
    let n := die.toNat
    let g := s.gov n
    let at' : BitVec 3 := die.zeroExtend 3
    let late := round.toNat + 5000 < s.now ∨ round.toNat = g.t0 ∧ g.computed = true
    let fresh := round.toNat = g.t0 ∧ ∀ b ∈ g.bids, b.die ≠ src.toNat
    (n ≠ src.toNat → ¬late → fresh → ∃ t, exec (.bidReceive at' src round (offer, request)) s = .next t
      ∧ t.gov n = { g with bids := g.bids ++ [⟨src.toNat, offer.toNat, request.toNat⟩] } ∧ (∀ a, t.rd a = s.rd a)
      ∧ ∀ a, t.byte a = s.byte a)
    ∧ (n ≠ src.toNat → late → ∃ t, exec (.bidReceive at' src round (offer, request)) s = .next t
      ∧ bit (t.rd (Reg.GOV_EVT n)) 0 = true ∧ t.govs = s.govs ∧ ∀ a, t.byte a = s.byte a)
    ∧ (n = src.toNat ∨ ¬late ∧ ¬fresh → exec (.bidReceive at' src round (offer, request)) s = .next s)
    ∧ (round.toNat = (s.gov src.toNat).t0 → ∃ t, exec (.bidReceive 4 src round (offer, request)) s = .next t
      ∧ src.toNat ∈ t.pkmBids ∧ ∀ a, t.rd a = s.rd a)
    ∧ (round.toNat ≠ (s.gov src.toNat).t0 → exec (.bidReceive 4 src round (offer, request)) s = .next s)
    ∧ ∀ k : BitVec 3, 5 ≤ k.toNat → exec (.bidReceive k src round (offer, request)) s = .next s)
  ∧ (∀ (die : BitVec 2) (s : State), s.Live → s.Canonical →
    let n := die.toNat
    let g := s.gov n
    let o := (g.bids.map fun b => b.offer).sum
    let q := (g.bids.map fun b => b.request).sum
    let share (b : Bid) := if max o q = 0 then 0 else g.offer * b.request / max o q
    let total := (g.bids.map share).sum
    total ≤ g.offer
    ∧ (g.t0 + 5000 ≤ s.now → g.computed = false → g.bids ≠ [] → ∃ t, exec (.grantCompute die) s = .next t
      ∧ (t.gov n).computed = true ∧ (t.gov n).out_ = total ∧ t.govB n = s.govB n - total
      ∧ (∀ b ∈ g.bids, share b ≠ 0 → .grant n b.die (share b) ∈ t.out)
      ∧ (∀ a, a ≠ Reg.GOV_BUDGET n → t.rd a = s.rd a) ∧ ∀ a, t.byte a = s.byte a)
    ∧ (s.now < g.t0 + 5000 ∨ g.computed = true ∨ g.bids = [] → exec (.grantCompute die) s = .next s)
    ∧ ∀ (round : Word) (amount : BitVec 16),
      let t0 := round.toNat
      (t0 ≤ s.now → s.now ≤ t0 + 10000 → ∃ t, exec (.grantReceive die (round, amount)) s = .next t
        ∧ t.govB n = max (s.govB n) (min (s.pkmCeil n) (s.govB n + amount.toNat))
        ∧ (s.pkmCeil n < s.govB n + amount.toNat → bit (t.rd (Reg.GOV_EVT n)) 3 = true) ∧ ∀ a, t.byte a = s.byte a)
      ∧ (t0 + 10000 < s.now → ∃ t, exec (.grantReceive die (round, amount)) s = .next t ∧ t.govB n = s.govB n
        ∧ bit (t.rd (Reg.GOV_EVT n)) 0 = true ∧ ∀ a, t.byte a = s.byte a)
      ∧ (s.now < t0 → exec (.grantReceive die (round, amount)) s = .next s))
  ∧ (∀ (die : BitVec 2) (s : State), s.Live → s.Canonical → Tbl.wf (fun _ => ({} : Gov)) s.govs = true →
    let n := die.toNat
    let g := s.gov n
    let fit := bits (Config.freeBits (s.freeIx + 1)) 7 0 % 26
    (g.t0 + 10000 ≤ s.now → bit (s.rd Reg.RST_STATUS) 12 = true → ∃ t, exec (.roundEnd die) s = .next t ∧ (t.gov n).t0 = s.now
      ∧ bits (t.rd (Reg.GOV_TARIFF n)) 63 32 = (bits (s.rd (Reg.GOV_TARIFF n)) 63 32 + 1) % 2 ^ 32 ∧ t.opp n ≤ s.opp n
      ∧ (g.change.isSome = true → t.opp n = s.opp n ∧ (t.gov n).change = g.change)
      ∧ (g.change = none → ∀ i t0, (t.gov n).change = some (i, t0) → s.opp n < i ∧ i ≤ s.opp n + 4 ∧ i ≤ bits (s.rd (Reg.GOV_CFG n)) 28 24
        ∧ t0 = s.now)
      ∧ bits (t.rd (Reg.GOV_STATUS n)) 55 48 < 115 ∧ (fit = 25 → bit (t.rd (Reg.GOV_EVT n)) 2 = true ∧ 0 < (t.gov n).pause)
        ∧ (fit ≠ 25 → (t.gov n).pause = 0)
      ∧ ∀ a, t.byte a = s.byte a)
    ∧ (s.now < g.t0 + 10000 ∨ bit (s.rd Reg.RST_STATUS) 12 = false → exec (.roundEnd die) s = .next s)
    ∧ (∀ i t0, g.change = some (i, t0) → i < 25 →
      (s.now ≤ t0 + 5000 → ∃ t, exec (.avsSettle die) s = .next t ∧ t.opp n = i ∧ bits (t.rd (Reg.GOV_STATUS n)) 27 16 = 1200 + 100 * i
        ∧ bits (t.rd (Reg.GOV_STATUS n)) 41 32 = bits (s.rd (Reg.GOV_VF n i)) 9 0 ∧ (t.gov n).change = none
        ∧ s.now ≤ (t.gov n).halt ∧ (t.gov n).halt ≤ s.now + 100 ∧ (∀ a, a ≠ Reg.GOV_STATUS n → t.rd a = s.rd a) ∧ ∀ a, t.byte a = s.byte a)
      ∧ (t0 + 5000 < s.now → exec (.avsSettle die) s = .next s)
      ∧ (t0 + 5000 ≤ s.now → ∃ t, exec (.avsfail die) s = .next t ∧ t.opp n = s.opp n ∧ (t.gov n).change = none
        ∧ bit (t.rd (Reg.GOV_EVT n)) 4 = true ∧ t.out = s.out ++ [.avs n (s.rdB (Reg.GOV_VF n (s.opp n)) 15 0)]
        ∧ ∀ a, t.byte a = s.byte a)
      ∧ (s.now < t0 + 5000 → exec (.avsfail die) s = .next s))
    ∧ (g.change = none → exec (.avsSettle die) s = .next s ∧ exec (.avsfail die) s = .next s))
  ∧ ∀ (r : BitVec 1) (s : State), s.tripped = false → s.Canonical →
    let c := 8 * r.toNat
    (∃ t, exec (.refclkLoss r) s = .next t ∧ bit (t.rd Reg.CLK_STATUS) (21 + r.toNat) = false ∧ t.refLost.testBit r.toNat = true
      ∧ (s.held = false → ∀ p < 8, (s.lnkState (c + p) = 4 → t.lnkState (c + p) = 1 ∧ t.rd (Reg.LNK_DOWN_CAUSE (c + p)) = 3)
        ∧ (s.lnkState (c + p) = 3 → t.lnkState (c + p) = 1) ∧ (s.lnkState (c + p) < 3 → t.lnkState (c + p) = s.lnkState (c + p)))
      ∧ ∀ a, t.byte a = s.byte a)
    ∧ ∃ t, exec (.refclkReturn r) s = .next t ∧ bit (t.rd Reg.CLK_STATUS) (21 + r.toNat) = true ∧ t.refLost.testBit r.toNat = false
      ∧ (s.held = true ∨ (∀ p < 8, s.lnkState (c + p) ≠ 2) → ∀ a, a ≠ Reg.CLK_STATUS → t.rd a = s.rd a) ∧ ∀ a, t.byte a = s.byte a

/-! ### Resets, boot, the test port and the sideband -/

/-- After a reset the operand stores and command memory are zero, and the gate is isolated (R423, R444). -/
def Sys2Proof.Claim.cleared (t : State) : Prop :=
  (∀ n < 4, ∀ a, sramBase n ≤ a → a < sramBase n + sramBytes → t.byte a = 0)
    ∧ (∀ a, cmdMemBase ≤ a → a < cmdMemBase + cmdMemBytes → t.byte a = 0) ∧ t.gateOpen = false
    ∧ t.stages = [] ∧ t.engines = [] ∧ t.cores = [] ∧ t.ledgers = []

/-- A copy of the two images passes every check in a state. -/
def Sys2Proof.Claim.copyGood (s : State) (a1 a2 : List Byte) : Prop := (s.copyCause a1 a2).1 = 0

/-- POR_N_ASSERT resets everything but the fuses, and ends a trip. RESET_N_ASSERT resets the device and keeps LPDDR, the
local count and, when RETAIN is set and the job is READY, RUNNING or RETAINED, the job as RETAINED. POR_N_DEASSERT starts the
local count at 0, samples the straps and boots; RESET_N_DEASSERT boots. A good copy, B where A fails, takes the boot to step
6, with LPDDR zero unless a retained job's stacks come back; when both copies fail it stops in step 2, where only pins and
the JTAG instructions without a token act. BOOT_COMPLETE raises the anti-rollback count to the image's SVN, sets MBX_LOCK and
makes the device READY, which the READY pin shows until the next reset; memory that persists in failing goes on to fail
(R307), and a full reset takes EXTEST's permission; while the board owns the flash, enrolment fails. THERMAL_TRIP trips and
keeps the cause; FLASH_OWN_N and its release show the pin (R409, R422 to R426, R432, R434, R473 to R475, R484). -/
def Obligations.ResetsAndBoot : Prop :=
  (∀ s : State, s.Canonical → ∃ t, exec .porNAssert s = .next t ∧ t.faults = s.faults
    ∧ (s.readyPin = true → .ready false ∈ t.out) ∧ t.held = true ∧ t.resetLow = false ∧ t.tripped = false ∧ t.jobState = 0
    ∧ t.now = 0 ∧ Claim.cleared t ∧ ∀ a h, regFind a = some h → h.row.name ∉ fusedRegs → t.rd a = regReset a)
  ∧ (∀ s : State, s.Canonical → s.tripped = false →
    let porLow := s.held = true ∧ s.resetLow = false ∧ s.stuck = false
    (porLow → exec .resetNAssert s = .next s)
    ∧ (¬porLow → ∃ t, exec .resetNAssert s = .next t ∧ t.faults = s.faults ∧ (s.readyPin = true → .ready false ∈ t.out)
      ∧ (s.tapIr = 3 → t.tapIr = 0xFF) ∧ (s.tapIr ≠ 3 → t.tapIr = s.tapIr) ∧ t.lands = none ∧ t.held = true ∧ t.resetLow = true ∧ t.now = s.now
      ∧ t.jobState = (if s.retains then 5 else 0) ∧ bits (t.rd Reg.RST_STATUS) 2 0 = 2 ∧ t.rd Reg.RST_TIME = w s.now
      ∧ bits (t.rd Reg.RST_STATUS) 63 32 = min (2 ^ 32 - 1) (bits (s.rd Reg.RST_STATUS) 63 32 + 1) ∧ Claim.cleared t
      ∧ (s.retains = true → t.rd Reg.ID_JOB_ID = s.rd Reg.ID_JOB_ID) ∧ (s.retains = false → t.rd Reg.ID_JOB_ID = 0)
      ∧ (s.errBuf = [] → ∀ a, a < lpddrBytes → t.byte a = s.byte a)))
  ∧ (∀ (straps : BitVec 2) (a1 a2 b1 b2 : List Byte) (ok : Bool) (s : State), s.Canonical → s.tripped = false →
    let pv := (({ s with held := false, now := 0, straps := straps.toNat } : State).wrB Reg.CLK_STATUS 22 20 (7 - 2 * (s.refLost % 4))).freshNonce
    let rv := ({ s with held := false, resetLow := false } : State).freshNonce
    let booted (t : State) := t.held = false ∧ t.rdB Reg.RST_STATUS 11 8 = 6 ∧ bit (t.rd Reg.SEC_BOOT) 16 = true
      ∧ t.rd Reg.SEC_NONCE = Config.freeBits s.freeIx
    let stuck (t : State) := t.held = true ∧ t.stuck = true ∧ t.rdB Reg.RST_STATUS 11 8 = 2 ∧ bits (t.rd Reg.SEC_BOOT) 5 0 ≠ 0
      ∧ bits (t.rd Reg.SEC_BOOT) 13 8 ≠ 0 ∧ (∀ a, t.byte a = s.byte a)
      ∧ (s.rdB Reg.SEC_BOOT 16 16 = 0 → bit (t.rd Reg.SEC_BOOT) 16 = false)
    let waits := s.held = true ∧ s.resetLow = false ∧ s.stuck = false ∨ s.held = false ∧ s.rdB Reg.RST_STATUS 11 8 = 1
    (waits →
      (Claim.copyGood pv a1 a2 → ∃ t, exec (.porNDeassert straps a1 a2 b1 b2) s = .next t ∧ booted t
        ∧ bits (t.rd Reg.SEC_BOOT) 5 0 = 0 ∧ t.now = 0 ∧ t.straps = straps.toNat
        ∧ (s.rdB Reg.RST_STATUS 3 3 = 0 → ∀ a, a < lpddrBytes → t.byte a = 0))
      ∧ (¬Claim.copyGood pv a1 a2 → Claim.copyGood pv b1 b2 → ∃ t, exec (.porNDeassert straps a1 a2 b1 b2) s = .next t ∧ booted t
        ∧ bits (t.rd Reg.SEC_BOOT) 5 0 ≠ 0 ∧ bits (t.rd Reg.SEC_BOOT) 13 8 = 0)
      ∧ (¬Claim.copyGood pv a1 a2 → ¬Claim.copyGood pv b1 b2 → ∃ t, exec (.porNDeassert straps a1 a2 b1 b2) s = .next t ∧ stuck t
        ∧ t.now = 0))
    ∧ (¬waits → exec (.porNDeassert straps a1 a2 b1 b2) s = .next s)
    ∧ (s.held = true → s.resetLow = true →
      (Claim.copyGood rv a1 a2 → ∃ t, exec (.resetNDeassert a1 a2 b1 b2 ok) s = .next t ∧ booted t ∧ t.resetLow = false ∧ t.now = s.now
        ∧ (s.rdB Reg.RST_STATUS 3 3 = 1 → ok = true → t.jobState = s.jobState ∧ ∀ a, a < lpddrBytes → t.byte a = s.byte a)
        ∧ (s.rdB Reg.RST_STATUS 3 3 = 1 → ok = false → t.jobState = 0 ∧ bit (t.rd Reg.RST_STATUS) 4 = true ∧ t.rd Reg.ID_JOB_ID = 0)
        ∧ (s.rdB Reg.RST_STATUS 3 3 = 0 ∨ ok = false → ∀ a, a < lpddrBytes → t.byte a = 0))
      ∧ (¬Claim.copyGood rv a1 a2 → Claim.copyGood rv b1 b2 → ∃ t, exec (.resetNDeassert a1 a2 b1 b2 ok) s = .next t ∧ booted t)
      ∧ (¬Claim.copyGood rv a1 a2 → ¬Claim.copyGood rv b1 b2 → ∃ t, exec (.resetNDeassert a1 a2 b1 b2 ok) s = .next t ∧ stuck t))
    ∧ (s.held = false ∨ s.resetLow = false → exec (.resetNDeassert a1 a2 b1 b2 ok) s = .next s))
  ∧ (∀ (cert : List Byte) (enrol : List (List Byte)) (cfg : List (BitVec 46 × Word)) (s : State), s.Live → s.Canonical →
    (s.rdB Reg.RST_STATUS 11 8 = 6 → ∃ t, exec (.bootComplete (cert, enrol) cfg) s = .next t ∧ bit (t.rd Reg.RST_STATUS) 12 = true
      ∧ .ready true ∈ t.out
      ∧ t.rdB Reg.RST_STATUS 11 8 = 7 ∧ t.rd Reg.MBX_LOCK = 1)
    ∧ (s.rdB Reg.RST_STATUS 11 8 = 6 → s.svnTarget ≤ 64 → ∃ t, exec (.bootComplete (cert, enrol) []) s = .next t
      ∧ (∀ a, t.byte a = s.byte a) ∧ t.rdB Reg.SEC_STATUS 10 4 = max (s.rdB Reg.SEC_STATUS 10 4) s.svnTarget
      ∧ (s.flashOwn = false → t.cert = cert.take 4096)
      ∧ (s.flashOwn = true → bit (t.rd Reg.SEC_EVT) 3 = true ∧ t.cert = s.cert
        ∧ bits (t.rd Reg.SEC_STATUS) 63 11 = bits (s.rd Reg.SEC_STATUS) 63 11))
    ∧ (s.rdB Reg.RST_STATUS 11 8 ≠ 6 → exec (.bootComplete (cert, enrol) cfg) s = .next s))
  ∧ ∀ (cause : BitVec 2) (s : State), s.Canonical → s.tripped = false →
    (cause ≠ 0 → exec (.thermalTrip cause) s = .next { s with tripped := true, trip := cause.toNat })
    ∧ (cause = 0 → exec (.thermalTrip cause) s = .next s)
    ∧ exec .flashOwnN s = .next { s with flashOwn := true }
    ∧ exec .flashOwnNRelease s = .next { s with flashOwn := false }

/-- While TRST_N is low the TAP is in reset and its instructions have no effect. An instruction shifts the instruction
register's capture, 0b0000_0001, out. BYPASS shifts 1 bit; IDCODE shifts the part's number; SAMPLE/PRELOAD shifts the lands
and loads the cells. EXTEST drives the lands with its permission, first with what PRELOAD left in the cells and then with
what is shifted in, and acts as BYPASS without (R441, R476). DBG_TOKEN shows SEC_DBG_STATUS; an accepted token opens its
permissions, any other counts and sets its event, and the nonce is fresh either way (R437, R442). DBG_ACCESS is an access of
master 0xE4 (R477). It acts as BYPASS in reset and while none of PERMS[2:0] is set, and a misaligned address completes with
MISALIGN whatever it names: the model's readings (log entry 59). -/
def Obligations.TestPort : Prop :=
  ∀ s : State, s.Canonical → s.tripped = false →
    (∃ t, exec (.trstN true) s = .next t ∧ t.tapReset = true ∧ t.tapIr = 1 ∧ t.lands = none ∧ (∀ a, t.rd a = s.rd a) ∧ ∀ a, t.byte a = s.byte a)
    ∧ exec (.trstN false) s = .next { s with tapReset := false }
    ∧ (∀ (p d : BitVec 42) (tok : List Byte) (a : BitVec 46) (wr : Bool) (v : Word), s.tapReset = true →
      ∀ c ∈ [Instr.bypass, .idcode, .samplePreload p d, .extest p d, .dbgToken tok, .dbgAccess a wr v], exec c s = .next s)
    ∧ (s.tapReset = false → ∀ p d : BitVec 42,
      let byp : State := { s with tapIr := 0xFF, lands := none, out := s.out ++ [.tap 8 1, .tap 1 0] }
      exec .bypass s = .next byp
      ∧ exec .idcode s = .next { s with tapIr := 1, lands := none, out := s.out ++ [.tap 8 1, .tap 32 (1 + 2 ^ 12 * bits (s.rd Reg.ID_PART) 15 0 + 2 ^ 28 * 0xB)] }
      ∧ exec (.samplePreload p d) s = .next { s with tapIr := 2, lands := none, tapData := d.toNat, out := s.out ++ [.tap 8 1, .tap 42 p.toNat] }
      ∧ (bit (s.rd Reg.SEC_DBG_STATUS) 3 = true →
        exec (.extest p d) s = .next { s with
          tapIr := 3, lands := some d.toNat, tapData := d.toNat
          out := s.out ++ [.tap 8 1, .lands s.tapData, .tap 42 p.toNat, .lands d.toNat] })
      ∧ (bit (s.rd Reg.SEC_DBG_STATUS) 3 = false → exec (.extest p d) s = .next byp)
      ∧ (∀ tok : List Byte,
        let cap := s.out ++ [.tap 8 1, .tap 1344 (s.rd Reg.SEC_DBG_STATUS).toNat]
        let k := fitBytes 168 tok
        (s.held = true ∨ s.rdB Reg.SEC_BOOT 16 16 = 0 → exec (.dbgToken tok) s = .next { s with tapIr := 0x20, lands := none, out := cap })
        ∧ (s.held = false → s.rdB Reg.SEC_BOOT 16 16 = 1 → ∃ t, exec (.dbgToken tok) s = .next t ∧ t.out = cap
          ∧ t.rd Reg.SEC_NONCE = Config.freeBits s.freeIx ∧ (∀ b, t.byte b = s.byte b)
          ∧ (s.tokenOk k = true → (∀ i < 4, bit (t.rd Reg.SEC_DBG_STATUS) i = (bit (s.rd Reg.SEC_DBG_STATUS) i || (leAt k 0x20 4).testBit i))
            ∧ bit (t.rd Reg.SEC_DBG_STATUS) 4 = true ∧ bit (t.rd Reg.SEC_EVT) 2 = true)
          ∧ (s.tokenOk k = false → bits (t.rd Reg.SEC_DBG_STATUS) 15 0 = bits (s.rd Reg.SEC_DBG_STATUS) 15 0
            ∧ bits (t.rd Reg.SEC_DBG_STATUS) 31 16 = min 65535 (bits (s.rd Reg.SEC_DBG_STATUS) 31 16 + 1) ∧ bit (t.rd Reg.SEC_EVT) 1 = true)))
      ∧ ∀ (a : BitVec 46) (wr : Bool) (v : Word),
        let u : State := { s with tapIr := 0x22, lands := none, out := s.out ++ [.tap 8 1] }
        let reg (st d : Nat) := a.toNat + (if wr then 2 ^ 46 else 0) + 2 ^ 48 * st + 2 ^ 64 * d
        let can := s.held = false ∧ (bit (s.rd Reg.SEC_DBG_STATUS) 0 = true ∨ bit (s.rd Reg.SEC_DBG_STATUS) 1 = true
          ∨ bit (s.rd Reg.SEC_DBG_STATUS) 2 = true)
        (¬can → exec (.dbgAccess a wr v) s = .next byp)
        ∧ (can → a.toNat % 8 ≠ 0 → exec (.dbgAccess a wr v) s = .next { u with out := u.out ++ [.tap 128 (reg St.misalign 0)] })
        ∧ (can → a.toNat % 8 = 0 → wr = true →
          let q := u.busWrite 0xE4 u.devId a.toNat (toBytes 8 v.toNat)
          exec (.dbgAccess a wr v) s = .next (s.commit (q.2.emit (.tap 128 (reg q.1 v.toNat)))))
        ∧ (can → a.toNat % 8 = 0 → wr = false →
          let q := u.busRead 0xE4 u.devId a.toNat 8
          exec (.dbgAccess a wr v) s = .next (s.commit (q.2.2.emit (.tap 128 (reg q.1 (ofBytes q.2.1)))))))

/-- The sideband answers at the address 0x58 + ADDR, each answer with the packet error code of the SMBus (R478; its bytes:
log entry 100). It refuses a command with a NACK before boot step 1, and those marked READY until the device is READY (R478);
that it does so too while a reset holds the device, and ignores DYNAMIC_ADDRESS then, is the model's choice (log entry 13).
PART, RESET, POWER and BUDGET answer their registers' bytes; TEMPS answers seven temperatures, free values below the limits
of R484, and a zero byte (log entry 5). A BUDGET write whose packet error code is wrong is refused; any other is
acknowledged: one of 600 to 2,400 W sets PKM_BUDGET, and another leaves it (log entry 58). Of an I3C and an SMBus write in
one cycle the I3C write is applied first. ERRORS answers the hub log's count and releases SMBALERT_N (R479); TRIP answers the
cause of the last trip, after a trip too (R484). DYNAMIC_ADDRESS keeps the address (R478). -/
def Obligations.Sideband : Prop :=
  (∀ s : State, s.Canonical →
    let at' := 0x58 + s.straps % 4
    let up := s.held = false ∧ s.rdB Reg.RST_STATUS 11 8 ≠ 0
    let ready := up ∧ bit (s.rd Reg.RST_STATUS) 12 = true
    let no := Out.sideband at' none 0
    let nack := Host.Outcome.next { s with out := s.out ++ [no] }
    let told (code : Nat) (bs : List Byte) :=
      Out.sideband at' (some bs) (crc8 ([BitVec.ofNat 8 (2 * at'), BitVec.ofNat 8 code, BitVec.ofNat 8 (2 * at' + 1)] ++ bs))
    let tells (code : Nat) (bs : List Byte) := Host.Outcome.next { s with out := s.out ++ [told code bs] }
    let budget (old v : Nat) := if 600 ≤ v ∧ v ≤ 2400 then v else old
    (up → exec .trip s = tells 7 (toBytes 1 s.trip)) ∧ (¬up → exec .trip s = nack)
    ∧ (s.tripped = false →
      (∀ v : BitVec 16 × Option (BitVec 8), ∀ c ∈ [Instr.temps, .power, .budgetRead, .budgetWrite v, .errors], ¬ready → exec c s = nack)
      ∧ (∀ c ∈ [Instr.sidebandPart, .sidebandReset], ¬up → exec c s = nack)
      ∧ (up → exec .sidebandPart s = tells 1 (toBytes 8 (s.rd Reg.ID_PART).toNat)
        ∧ exec .sidebandReset s = tells 2 (toBytes 8 (s.rd Reg.RST_STATUS).toNat))
      ∧ (ready → exec .power s = tells 4 (toBytes 8 (s.rd Reg.PKM_POWER).toNat)
        ∧ exec .budgetRead s = tells 5 (toBytes 2 (s.rdB Reg.PKM_BUDGET 11 0))
        ∧ (∃ ts : List Byte, ts.length = 7 ∧ (∀ i < 5, leAt ts i 1 < 115) ∧ leAt ts 5 1 < 105
          ∧ exec .temps s = .next { s with freeIx := s.freeIx + 7, out := s.out ++ [told 3 (ts ++ [0])] })
        ∧ exec .errors s = .next { s with
            smbAlert := false, out := s.out ++ [told 6 (toBytes 8 (s.rd (Reg.ERR_PROD 4)).toNat)] }
        ∧ (∀ (v : BitVec 16) (p : BitVec 8), p.toNat ≠ crc8 (toBytes 1 (2 * at') ++ [5] ++ toBytes 2 v.toNat) →
          exec (.budgetWrite (v, some p)) s = nack)
        ∧ ∀ (v : BitVec 16) (p : Option (BitVec 8)),
          (∀ q, p = some q → q.toNat = crc8 (toBytes 1 (2 * at') ++ [5] ++ toBytes 2 v.toNat)) →
          ∃ t, exec (.budgetWrite (v, p)) s = .next t ∧ t.out = s.out ++ [.sideband at' (some []) 0]
            ∧ (p.isSome = true ∨ (∀ u k, s.sbBudget = some (u, k) → k ≠ s.now) →
              t.rdB Reg.PKM_BUDGET 11 0 = budget (s.rdB Reg.PKM_BUDGET 11 0) v.toNat)
            ∧ (p = none → ∀ u, s.sbBudget = some (u, s.now) →
              t.rdB Reg.PKM_BUDGET 11 0 = budget (budget (s.rdB Reg.PKM_BUDGET 11 0) v.toNat) u)
            ∧ (p.isSome = true → t.sbBudget = some (v.toNat, s.now))
            ∧ (∀ a, a ≠ Reg.PKM_BUDGET → t.rd a = s.rd a) ∧ ∀ a, t.byte a = s.byte a)))
  ∧ ∀ (a : BitVec 7) (s : State), s.Canonical → s.tripped = false →
    (s.held = false → exec (.dynamicAddress a) s = .next { s with dynAddr := some a.toNat })
    ∧ (s.held = true → exec (.dynamicAddress a) s = .next s)

/-! ### The guest gate, the error logs and demurrage -/

/-- From `s` to `t` a violation was recorded with its cause, TYPE, LEN and address, and the guest isolated: the gate is
closed, VIOLATED is set, no response is left, and no byte of memory changed (R445, R446). -/
def Sys2Proof.Claim.violated (s t : State) (cause typ len addr : Nat) : Prop :=
  t.gateOpen = false ∧ bit (t.rd Reg.CGT_STATUS) 3 = true ∧ bit (t.rd Reg.CGT_EVT) 0 = true
    ∧ t.rd Reg.CGT_VIOL = w (cause + 2 ^ 8 * typ + 2 ^ 16 + 2 ^ 32 * len) ∧ t.rd Reg.CGT_VIOL_ADDR = w (addr % 2 ^ 46)
    ∧ t.rd Reg.CGT_VIOL_TIME = w s.now ∧ t.guestResp = [] ∧ t.guestOut = [] ∧ ∀ a, t.byte a = s.byte a

/-- SEC_LOCK_WRITE locks the controllers' registers: from then on SEC_CTRL_ID and SEC_CTRL_KEY ignore writes, and LOCKED
stays set after any write of SEC_LOCK (R439, R448). CGT_OPEN opens a closed gate when a guest die is present, its link is
trained and every VALID window fits, and sets OPENFAIL otherwise (R444); a VALID window with BASE above LIMIT fits nowhere
(the model's reading, log entry 60). GUEST_READ, GUEST_WRITE and GUEST_ATOMIC pass the checks in order: a closed gate and a
job that is not on refuse the request, a malformed request, one outside every window and one of a TYPE that its window does
not allow are violations, and any other is issued, or held back beyond the limit (R445) or while the gate's ports are masked
(R299). GUEST_RESPONSE completes the request of its TAG or is a violation; GUEST_TIMEOUT is one; GUEST_LINK_DOWN isolates
without one; GUEST_LINK_TRAINED shows the link (R443, R446, R447). -/
def Obligations.GuestGate : Prop :=
  (∀ (m : BitVec 8) (s : State), s.Live → s.Canonical → m ≠ 0xE4 →
    (isMgmt m.toNat = true → ∃ t, exec (.secLockWrite m) s = .next t ∧ bits (t.rd Reg.SEC_LOCK) 0 0 = 1
      ∧ (∀ a, a ≠ Reg.SEC_LOCK → t.rd a = s.rd a) ∧ ∀ a, t.byte a = s.byte a)
    ∧ (isMgmt m.toNat = true → s.rdB Reg.SEC_LOCK 0 0 = 1 → ∀ (j : BitVec 3) (v : Word),
      exec (.registerWrite m (BitVec.ofNat 46 (Reg.SEC_CTRL_ID j.toNat)) 8 v) s = .next { s with out := s.out ++ [.access St.ok 0] }
      ∧ ∀ k : BitVec 2, exec (.registerWrite m (BitVec.ofNat 46 (Reg.SEC_CTRL_KEY j.toNat k.toNat)) 8 v) s
        = .next { s with out := s.out ++ [.access St.ok 0] })
    ∧ (s.rdB Reg.SEC_LOCK 0 0 = 1 → ∀ (n : Nat) (v : Word), ∃ t,
      exec (.registerWrite m (BitVec.ofNat 46 Reg.SEC_LOCK) n v) s = .next t ∧ bits (t.rd Reg.SEC_LOCK) 0 0 = 1)
    ∧ (isMgmt m.toNat = true →
      let can := s.gateOpen = false ∧ s.rdB Reg.CGT_STATUS 2 1 = 3 ∧ ∀ k < 16, s.cgtValid k = true → windowFits (s.cgtLo k) (s.cgtHi k) = true
      (can → ∃ t, exec (.cgtOpen m) s = .next t ∧ t.gateOpen = true ∧ bit (t.rd Reg.CGT_STATUS) 3 = false
        ∧ (∀ a, a ≠ Reg.CGT_STATUS → t.rd a = s.rd a) ∧ ∀ a, t.byte a = s.byte a)
      ∧ (¬can → ∃ t, exec (.cgtOpen m) s = .next t ∧ t.gateOpen = s.gateOpen ∧ bit (t.rd Reg.CGT_EVT) 2 = true
        ∧ (∀ a, a ≠ Reg.CGT_EVT → t.rd a = s.rd a) ∧ ∀ a, t.byte a = s.byte a))
    ∧ (isMgmt m.toNat = false → exec (.secLockWrite m) s = .next { s with out := s.out ++ [.access St.denied 0] }
      ∧ exec (.cgtOpen m) s = .next { s with out := s.out ++ [.access St.denied 0] }))
  ∧ (∀ (b : List Byte) (s : State) (c : Instr), s.Live → s.Canonical →
    (c = .guestRead b ∧ pkType b ≠ 3 ∧ pkType b ≠ 4 ∧ pkType b ≠ 8) ∨ (c = .guestWrite b ∧ pkType b = 3) ∨ (c = .guestAtomic b ∧ pkType b = 4) →
    let no := Out.guest (s.responseTo b St.gatedeny false [])
    (s.guestLink = false → exec c s = .next s)
    ∧ (s.guestLink = true → s.gateOpen = false → ∃ t, exec c s = .next t ∧ t.out = s.out ++ [no]
      ∧ (t.rd Reg.CGT_CNT_DENY).toNat = min (2 ^ 64 - 1) ((s.rd Reg.CGT_CNT_DENY).toNat + 1)
      ∧ (∀ a, a ≠ Reg.CGT_CNT_DENY → t.rd a = s.rd a) ∧ ∀ a, t.byte a = s.byte a)
    ∧ (s.guestLink = true → s.gateOpen = true → s.jobOn = false → ∃ t, exec c s = .next t ∧ t.out = s.out ++ [no]
      ∧ bit (t.rd Reg.CGT_EVT) 1 = true ∧ t.gateOpen = true ∧ ∀ a, t.byte a = s.byte a)
    ∧ (s.guestLink = true → s.gateOpen = true → s.jobOn = true →
      (guestFormed b = false → ∃ t, exec c s = .next t ∧ Claim.violated s t 1 (pkType b) (pkLen b) (pkAddr b))
      ∧ (guestFormed b = true → s.guestWindow b = none → ∃ t, exec c s = .next t ∧ Claim.violated s t 2 (pkType b) (pkLen b) (pkAddr b))
      ∧ ∀ k, guestFormed b = true → s.guestWindow b = some k →
        (s.guestClass k (pkType b) = false → ∃ t, exec c s = .next t ∧ Claim.violated s t 3 (pkType b) (pkLen b) (pkAddr b))
        ∧ (s.guestClass k (pkType b) = true → s.rdB Reg.CGT_CFG 8 0 ≤ s.guestResp.length ∨ s.isMasked 0xF0 = true →
          exec c s = .next { s with guestWait := s.guestWait ++ [⟨b, 0xF0, s.now, none⟩] })
        ∧ (s.guestClass k (pkType b) = true → s.guestResp.length < s.rdB Reg.CGT_CFG 8 0 → s.isMasked 0xF0 = false →
          exec c s = .next (s.commit (s.guestServe b)))))
  ∧ (∀ (b : List Byte) (k : Nat) (s : State), s.Live → s.Canonical →
    let a := pkAddr b
    let n := pkLen b
    let answers (t : State) (d : List Byte) := t.guestResp = s.guestResp ++ [s.responseTo b St.ok false d]
      ∧ (t.rd Reg.CGT_CNT_REQ).toNat = min (2 ^ 64 - 1) ((s.rd Reg.CGT_CNT_REQ).toNat + 1)
    (s.guestLink = true → s.gateOpen = true → s.jobOn = true → guestFormed b = true → s.guestWindow b = some k →
      s.guestClass k (pkType b) = true → s.guestResp.length < s.rdB Reg.CGT_CFG 8 0 → s.isMasked 0xF0 = false →
      Claim.plainMem s a n → s.memCheck 0xF0 a n = 0 →
      (pkType b = 1 → ∃ t, exec (.guestRead b) s = .next t ∧ answers t (s.rawRead a n) ∧ ∀ i, t.byte i = s.byte i)
      ∧ (pkType b = 3 → (pkData b).length = n → ∃ t, exec (.guestWrite b) s = .next t ∧ answers t []
        ∧ (∀ i (h : i < (pkData b).length), t.byte (a + i) = (pkData b)[i]) ∧ ∀ i, i < a ∨ a + n ≤ i → t.byte i = s.byte i)
      ∧ (pkType b = 4 → pkOp b ≤ 9 → let arg := atomicArgs (pkOp b) n (pkData b)
        ∃ t, exec (.guestAtomic b) s = .next t ∧ answers t (s.rawRead a n)
          ∧ t.rawNat a n = atomicNew (pkOp b) n (s.rawNat a n) arg.1 arg.2 % 2 ^ (8 * n) ∧ ∀ i, i < a ∨ a + n ≤ i → t.byte i = s.byte i))
    ∧ (pkType b = 3 ∨ pkType b = 4 ∨ pkType b = 8 → exec (.guestRead b) s = .next s)
    ∧ (pkType b ≠ 3 → exec (.guestWrite b) s = .next s) ∧ (pkType b ≠ 4 → exec (.guestAtomic b) s = .next s))
  ∧ ∀ (b : List Byte) (s : State), s.Live → s.Canonical →
    (∀ g, s.guestLink = true → pkType b = 8 → s.guestOut.find? (fun g => pkTag g.packet == pkTag b) = some g →
      exec (.guestResponse b) s = .next (s.commit
        (({ s with guestOut := s.guestOut.filter fun h => pkTag h.packet != pkTag b } : State).guestDone g (pkOp b) (pkData b))))
    ∧ (∀ g, s.guestLink = true → pkType b = 8 → s.guestOut.find? (fun g => pkTag g.packet == pkTag b) = some g → g.req = none →
      (s.core g.master).wait = .fabric → ∃ t, exec (.guestResponse b) s = .next t
        ∧ (t.core g.master).replies = (s.core g.master).replies ++ [(pkOp b, pkData b)]
        ∧ ∀ a, t.byte a = s.byte a)
    ∧ (s.guestLink = true → pkType b = 8 → (∀ g ∈ s.guestOut, pkTag g.packet ≠ pkTag b) → ∃ t, exec (.guestResponse b) s = .next t
      ∧ Claim.violated s t 4 8 (pkLen b) (pkAddr b))
    ∧ (s.guestLink = false ∨ pkType b ≠ 8 → exec (.guestResponse b) s = .next s)
    ∧ (∀ g gs, s.guestOut = g :: gs →
      (g.since + s.rdB Reg.CGT_CFG 63 32 ≤ s.now → ∃ t, exec .guestTimeout s = .next t
        ∧ Claim.violated s t 5 (pkType g.packet) (pkLen g.packet) (pkAddr g.packet))
      ∧ (s.now < g.since + s.rdB Reg.CGT_CFG 63 32 → exec .guestTimeout s = .next s))
    ∧ (s.guestOut = [] → exec .guestTimeout s = .next s)
    ∧ (s.guestLink = true → ∃ t, exec .guestLinkDown s = .next t ∧ t.guestLink = false ∧ t.gateOpen = false ∧ t.guestOut = []
      ∧ t.guestWait = [] ∧ bit (t.rd Reg.CGT_EVT) 3 = true ∧ bit (t.rd Reg.CGT_STATUS) 3 = bit (s.rd Reg.CGT_STATUS) 3
      ∧ ∀ a, t.byte a = s.byte a)
    ∧ (s.guestLink = false → exec .guestLinkDown s = .next s)
    ∧ (bit (s.rd Reg.CGT_STATUS) 2 = true → ∃ t, exec .guestLinkTrained s = .next t ∧ t.guestLink = true ∧ t.gateOpen = s.gateOpen
      ∧ (∀ a, a ≠ Reg.CGT_STATUS → t.rd a = s.rd a) ∧ ∀ a, t.byte a = s.byte a)
    ∧ (bit (s.rd Reg.CGT_STATUS) 2 = false → exec .guestLinkTrained s = .next s)

/-- A log entry k is written at index k mod 256 and counted, and the oldest is given up when 256 are held (R454); the entries
of a tick are written in ascending BLOCK (R455), with the registers that R453 names as they are then. ERR_CONS takes a value
from ERR_PROD − 256 to ERR_PROD and no other (R463); ERR_FIRST_CLR frees the first entry (R454). Demurrage counts units of 16
cycles and keeps the rest; DEM_CLEAR zeroes every counter of the context; DEMURRAGE_OVERFLOW sets the bit of a counter at its
end, once (R461). -/
def Obligations.LogsAndDemurrage : Prop :=
  (∀ (s : State) (e : LogEnt), e.log < 5 → (s.rd (Reg.ERR_PROD e.log)).toNat < 2 ^ 64 - 1 →
    let k := (s.rd (Reg.ERR_PROD e.log)).toNat
    let u := s.errWrite e
    let ws := (s.infoNow e).words k
    u.rd (Reg.ERR_PROD e.log) = w (k + 1)
      ∧ (∀ i (h : i < ws.length), u.rd (Reg.ERR_ENTRY e.log (k % 256) i) = ws[i])
      ∧ (s.errHeld e.log = 256 → u.rd (Reg.ERR_CONS e.log) = w ((s.rd (Reg.ERR_CONS e.log)).toNat + 1)
        ∧ bit (u.rd (Reg.ERR_EVT e.log)) 0 = true)
      ∧ (s.errHeld e.log < 256 → u.rd (Reg.ERR_CONS e.log) = s.rd (Reg.ERR_CONS e.log)))
  ∧ (∀ es : List LogEnt, (sortBy (fun (e : LogEnt) => e.block) es).Pairwise (fun a b => a.block ≤ b.block)
    ∧ (sortBy (fun (e : LogEnt) => e.block) es).Perm es)
  ∧ (∀ (m : BitVec 8) (log : BitVec 3) (v : Word) (s : State), s.Live → s.Canonical → Claim.mayWrite s m → log.toNat < 5 →
    let p := (s.rd (Reg.ERR_PROD log.toNat)).toNat
    let r := Reg.ERR_CONS log.toNat
    (p - 256 ≤ v.toNat → v.toNat ≤ p → ∃ t, exec (.errConsWrite m log v) s = .next t ∧ t.rd r = v
      ∧ (∀ a, a ≠ r → t.rd a = s.rd a) ∧ ∀ a, t.byte a = s.byte a)
    ∧ (v.toNat < p - 256 ∨ p < v.toNat → exec (.errConsWrite m log v) s = .next { s with out := s.out ++ [.access St.ok 0] })
    ∧ ∃ t, exec (.errFirstClr m log) s = .next t ∧ t.rd (Reg.ERR_FIRST_INFO log.toNat) = 0
      ∧ (∀ a, a ≠ Reg.ERR_FIRST_INFO log.toNat → t.rd a = s.rd a) ∧ ∀ a, t.byte a = s.byte a)
  ∧ (∀ (m : BitVec 8) (die : BitVec 2) (ctx : BitVec 5) (s : State), s.Live → s.Canonical → Claim.mayWrite s m →
    let n := die.toNat
    let x := ctx.toNat
    ∃ t, exec (.demClear m die ctx) s = .next t ∧ (∀ c < 8, t.rd (Reg.DEM_CAUSE n x c) = 0) ∧ t.rd (Reg.DEM_ELAPSED n x) = 0
      ∧ t.rd (Reg.DEM_OVF n x) = 0 ∧ (Tbl.wf (fun _ => ({} : StageCtx)) s.stages = true → (t.stg n x).demRem = [])
      ∧ (∀ a, (∀ c < 9, a ≠ demReg n x c) → a ≠ Reg.DEM_OVF n x → t.rd a = s.rd a) ∧ ∀ a, t.byte a = s.byte a)
  ∧ (∀ (s : State) (n x c cy : Nat), n < 4 → x < 32 → c < 9 → (s.stg n x).demRem = [] ∨ (s.stg n x).demRem.length = 9 →
    let r := nth (s.stg n x).demRem c 0 + cy
    let u := s.demCount n x c cy
    u.rdB (demReg n x c) 47 0 = min (2 ^ 48 - 1) (s.rdB (demReg n x c) 47 0 + r / 16) ∧ nth (u.stg n x).demRem c 0 = r % 16)
  ∧ ∀ (die : BitVec 2) (ctx : BitVec 5) (k : BitVec 4) (s : State), s.Live → s.Canonical →
    let n := die.toNat
    let x := ctx.toNat
    let c := k.toNat
    let full := c ≤ 8 ∧ s.rdB (demReg n x c) 47 0 = 2 ^ 48 - 1 ∧ bit (s.rd (Reg.DEM_OVF n x)) c = false
    (full → ∃ t, exec (.demurrageOverflow die ctx k) s = .next t ∧ bit (t.rd (Reg.DEM_OVF n x)) c = true
      ∧ (bit (s.rd (Reg.DEM_EVT_EN n)) 0 = true → t.errBuf = s.errBuf ++ [⟨n, w s.now, 7, 0, Blk.dem, c, 0xFF, x, 0, 0, none, none, false⟩])
      ∧ (∀ a, a ≠ Reg.DEM_OVF n x → t.rd a = s.rd a) ∧ ∀ a, t.byte a = s.byte a)
    ∧ (¬full → exec (.demurrageOverflow die ctx k) s = .next s)
end

