-- ==== Sys2Proof/Laws/Bits.lean ====
section
/-!
SUPPORT. Bit fields and byte strings: what a field reads after a field is written, and that bytes spell the number they were made of.
-/

namespace Sys2Proof.Laws

open Sys2Proof Sys2Proof.Machine

theorem nbits_lt (v hi lo : Nat) : nbits v hi lo < 2 ^ (hi + 1 - lo) := Nat.mod_lt _ (Nat.two_pow_pos _)

theorem nbits_testBit (v hi lo i : Nat) : (nbits v hi lo).testBit i = (decide (i < hi + 1 - lo) && v.testBit (lo + i)) := by
  simp [nbits, Nat.testBit_mod_two_pow, Nat.testBit_div_two_pow, Nat.add_comm]

/-- What `putBits` puts together, as a natural number. -/
theorem putBits_split (v hi lo n : Nat) :
    v - nbits v hi lo * 2 ^ lo + n % 2 ^ (hi + 1 - lo) * 2 ^ lo
      = v % 2 ^ lo + 2 ^ lo * (n % 2 ^ (hi + 1 - lo) + 2 ^ (hi + 1 - lo) * (v / 2 ^ lo / 2 ^ (hi + 1 - lo))) := by
  have h1 := Nat.mod_add_div v (2 ^ lo)
  have h2 := Nat.mod_add_div (v / 2 ^ lo) (2 ^ (hi + 1 - lo))
  unfold nbits
  generalize hq : v / 2 ^ lo / 2 ^ (hi + 1 - lo) = q at *
  generalize hm : v / 2 ^ lo % 2 ^ (hi + 1 - lo) = m at *
  have h3 : v = v % 2 ^ lo + 2 ^ lo * (m + 2 ^ (hi + 1 - lo) * q) := by rw [h2]; exact h1.symm
  have h4 : v - m * 2 ^ lo = v % 2 ^ lo + 2 ^ lo * (2 ^ (hi + 1 - lo) * q) := by
    have : 2 ^ lo * (m + 2 ^ (hi + 1 - lo) * q) = m * 2 ^ lo + 2 ^ lo * (2 ^ (hi + 1 - lo) * q) := by ring
    omega
  rw [h4]
  ring

theorem nbits_split (v hi lo n : Nat) :
    nbits (v % 2 ^ lo + 2 ^ lo * (n % 2 ^ (hi + 1 - lo) + 2 ^ (hi + 1 - lo) * (v / 2 ^ lo / 2 ^ (hi + 1 - lo)))) hi lo
      = n % 2 ^ (hi + 1 - lo) := by
  have h0 : v % 2 ^ lo < 2 ^ lo := Nat.mod_lt _ (Nat.two_pow_pos _)
  unfold nbits
  rw [Nat.add_mul_div_left _ _ (Nat.two_pow_pos lo), Nat.div_eq_of_lt h0, Nat.zero_add, Nat.add_mul_mod_self_left,
    Nat.mod_mod]

/-- A number that a field of a 64-bit word holds stays below 2⁶⁴ when the field is replaced. -/
theorem putBits_lt {v hi lo : Nat} (n : Nat) (hv : v < 2 ^ 64) (hhi : hi < 64) (hl : lo ≤ hi) :
    v % 2 ^ lo + 2 ^ lo * (n % 2 ^ (hi + 1 - lo) + 2 ^ (hi + 1 - lo) * (v / 2 ^ lo / 2 ^ (hi + 1 - lo))) < 2 ^ 64 := by
  have hk : lo + (hi + 1 - lo) = hi + 1 := by omega
  have hd : v / 2 ^ lo / 2 ^ (hi + 1 - lo) < 2 ^ (64 - (hi + 1)) := by
    rw [Nat.div_div_eq_div_mul, ← pow_add, hk]
    apply Nat.div_lt_of_lt_mul
    rw [← pow_add]; convert hv using 2; omega
  have h0 : v % 2 ^ lo < 2 ^ lo := Nat.mod_lt _ (Nat.two_pow_pos _)
  have h1 : n % 2 ^ (hi + 1 - lo) < 2 ^ (hi + 1 - lo) := Nat.mod_lt _ (Nat.two_pow_pos _)
  generalize hq : v / 2 ^ lo / 2 ^ (hi + 1 - lo) = q at *
  have h2 : n % 2 ^ (hi + 1 - lo) + 2 ^ (hi + 1 - lo) * q < 2 ^ (hi + 1 - lo) * 2 ^ (64 - (hi + 1)) := by
    have : 2 ^ (hi + 1 - lo) * q + 2 ^ (hi + 1 - lo) ≤ 2 ^ (hi + 1 - lo) * 2 ^ (64 - (hi + 1)) := by
      rw [← Nat.mul_succ]; exact Nat.mul_le_mul_left _ hd
    omega
  have h3 : 2 ^ lo * (2 ^ (hi + 1 - lo) * 2 ^ (64 - (hi + 1))) = 2 ^ 64 := by
    rw [← pow_add, ← pow_add]; congr 1; omega
  calc _ < 2 ^ lo + 2 ^ lo * (n % 2 ^ (hi + 1 - lo) + 2 ^ (hi + 1 - lo) * q) := by omega
    _ = 2 ^ lo * (n % 2 ^ (hi + 1 - lo) + 2 ^ (hi + 1 - lo) * q + 1) := by ring
    _ ≤ 2 ^ lo * (2 ^ (hi + 1 - lo) * 2 ^ (64 - (hi + 1))) := Nat.mul_le_mul_left _ h2
    _ = 2 ^ 64 := h3

theorem putBits_toNat {hi lo : Nat} (v : Word) (n : Nat) (hhi : hi < 64) (hl : lo ≤ hi) :
    (putBits v hi lo n).toNat = v.toNat % 2 ^ lo
      + 2 ^ lo * (n % 2 ^ (hi + 1 - lo) + 2 ^ (hi + 1 - lo) * (v.toNat / 2 ^ lo / 2 ^ (hi + 1 - lo))) := by
  unfold putBits
  rw [putBits_split, BitVec.toNat_ofNat, Nat.mod_eq_of_lt (putBits_lt n v.isLt hhi hl)]

/-- A field reads what was put into it. -/
theorem bits_putBits {hi lo : Nat} (v : Word) (n : Nat) (hhi : hi < 64) (hl : lo ≤ hi) :
    bits (putBits v hi lo n) hi lo = n % 2 ^ (hi + 1 - lo) := by
  unfold bits
  rw [putBits_toNat v n hhi hl, nbits_split]

/-- Bit i of a word in which a field was replaced. -/
theorem putBits_testBit {hi lo : Nat} (v : Word) (n i : Nat) (hhi : hi < 64) (hl : lo ≤ hi) :
    (putBits v hi lo n).toNat.testBit i =
      if lo ≤ i ∧ i ≤ hi then n.testBit (i - lo) else v.toNat.testBit i := by
  rw [putBits_toNat v n hhi hl, Nat.add_comm, Nat.testBit_two_pow_mul_add _ (Nat.mod_lt _ (Nat.two_pow_pos _)),
    Nat.add_comm (n % _), ]
  by_cases h1 : i < lo
  · rw [if_pos h1, if_neg (by omega), Nat.testBit_mod_two_pow]; simp [h1]
  · rw [if_neg h1, Nat.testBit_two_pow_mul_add _ (Nat.mod_lt _ (Nat.two_pow_pos _))]
    by_cases h2 : i ≤ hi
    · rw [if_pos (by omega), if_pos (by omega), Nat.testBit_mod_two_pow]; simp; omega
    · rw [if_neg (by omega), if_neg (by omega), Nat.testBit_div_two_pow, Nat.testBit_div_two_pow]
      congr 1; omega

/-- A field that does not meet the one replaced reads as before. -/
theorem bits_putBits_other {hi lo hi' lo' : Nat} (v : Word) (n : Nat) (hhi : hi < 64) (hl : lo ≤ hi) (hd : hi' < lo ∨ hi < lo') :
    bits (putBits v hi lo n) hi' lo' = bits v hi' lo' := by
  unfold bits
  apply Nat.eq_of_testBit_eq
  intro i
  rw [nbits_testBit, nbits_testBit, putBits_testBit v n _ hhi hl]
  by_cases h : i < hi' + 1 - lo'
  · rw [if_neg (by omega)]
  · simp [h]

theorem bit_eq_testBit (v : Word) (i : Nat) : bit v i = v.toNat.testBit i := by
  unfold bit
  rw [Nat.testBit_eq_decide_div_mod_eq]
  cases h : decide (v.toNat / 2 ^ i % 2 = 1) <;> simp_all

@[simp] theorem bit_setBit {i : Nat} (v : Word) (hi : i < 64) : bit (setBit v i) i = true := by
  rw [bit_eq_testBit, setBit, BitVec.toNat_or, Nat.testBit_or, BitVec.toNat_ofNat,
    Nat.mod_eq_of_lt (Nat.pow_lt_pow_right (by omega) hi), Nat.testBit_two_pow_self, Bool.or_true]

theorem bit_setBit_other {i j : Nat} (v : Word) (hi : i < 64) (h : i ≠ j) : bit (setBit v i) j = bit v j := by
  rw [bit_eq_testBit, bit_eq_testBit, setBit, BitVec.toNat_or, Nat.testBit_or, BitVec.toNat_ofNat,
    Nat.mod_eq_of_lt (Nat.pow_lt_pow_right (by omega) hi), Nat.testBit_two_pow_of_ne h, Bool.or_false]

@[simp] theorem length_toBytes (n v : Nat) : (toBytes n v).length = n := by
  induction n generalizing v with
  | zero => rfl
  | succ n ih => simp [toBytes, ih]

/-- Bytes spell the number they were made of. -/
theorem ofBytes_toBytes (n v : Nat) : ofBytes (toBytes n v) = v % 2 ^ (8 * n) := by
  induction n generalizing v with
  | zero => simp [toBytes, ofBytes, Nat.mod_one]
  | succ n ih =>
    have hp : 2 ^ (8 * (n + 1)) = 256 * 2 ^ (8 * n) := by rw [show 8 * (n + 1) = 8 + 8 * n by ring, pow_add]; norm_num
    simp only [toBytes, ofBytes, ih, BitVec.toNat_ofNat]
    rw [hp, Nat.mod_mul]

theorem ofBytes_toBytes_word (v : Word) : ofBytes (toBytes 8 v.toNat) = v.toNat := by
  rw [ofBytes_toBytes]; exact Nat.mod_eq_of_lt v.isLt

end Sys2Proof.Laws
end

