-- ==== Sys2Proof/Laws/Tbl.lean ====
section
/-!
SUPPORT. Sparse tables: what a read after a write gives, and that every operation keeps the canonical form.
-/

namespace Sys2Proof.Laws

open Sys2Proof.Machine

variable {α : Type} [DecidableEq α] {d : Nat → α}

@[simp] theorem wfFrom_nil (lo : Nat) : Tbl.wfFrom d lo [] = true := rfl

theorem wfFrom_cons (lo k : Nat) (v : α) (t : Tbl α) :
    Tbl.wfFrom d lo ((k, v) :: t) = true ↔ lo ≤ k ∧ v ≠ d k ∧ Tbl.wfFrom d (k + 1) t = true := by
  simp [Tbl.wfFrom, and_assoc]

/-- A table that starts at `lo` also starts at every lower key. -/
theorem wfFrom_mono {lo lo' : Nat} {t : Tbl α} (h : Tbl.wfFrom d lo t = true) (hl : lo' ≤ lo) :
    Tbl.wfFrom d lo' t = true := by
  cases t with
  | nil => rfl
  | cons e t => obtain ⟨k, v⟩ := e; rw [wfFrom_cons] at h ⊢; exact ⟨le_trans hl h.1, h.2⟩

/-- A key below the first one reads as unlisted. -/
theorem get_below {lo k : Nat} {t : Tbl α} (x : α) (h : Tbl.wfFrom d lo t = true) (hk : k < lo) : Tbl.get t k x = x := by
  cases t with
  | nil => rfl
  | cons e t =>
    obtain ⟨k', v⟩ := e
    rw [wfFrom_cons] at h
    simp only [Tbl.get]
    rw [if_neg (by omega), if_pos (by omega)]

theorem wfFrom_ins {lo k : Nat} {x : α} {t : Tbl α} (h : Tbl.wfFrom d lo t = true) (hl : lo ≤ k) (hx : x ≠ d k) :
    Tbl.wfFrom d lo (Tbl.ins t k x) = true := by
  induction t generalizing lo with
  | nil => simp [Tbl.ins, wfFrom_cons, hl, hx]
  | cons e t ih =>
    obtain ⟨k', v⟩ := e
    rw [wfFrom_cons] at h
    simp only [Tbl.ins]
    split
    · subst ‹k' = k›; rw [wfFrom_cons]; exact ⟨h.1, hx, h.2.2⟩
    · split
      · rw [wfFrom_cons, wfFrom_cons]; exact ⟨hl, hx, by omega, h.2.1, h.2.2⟩
      · rw [wfFrom_cons]; exact ⟨h.1, h.2.1, ih h.2.2 (by omega)⟩

theorem wfFrom_del {lo k : Nat} {t : Tbl α} (h : Tbl.wfFrom d lo t = true) : Tbl.wfFrom d lo (Tbl.del t k) = true := by
  induction t generalizing lo with
  | nil => rfl
  | cons e t ih =>
    obtain ⟨k', v⟩ := e
    have h' := h
    rw [wfFrom_cons] at h
    simp only [Tbl.del]
    split
    · exact wfFrom_mono h.2.2 (by omega)
    · split
      · exact h'
      · rw [wfFrom_cons]; exact ⟨h.1, h.2.1, ih h.2.2⟩

/-- Writing a key keeps the canonical form. -/
theorem wf_set {k : Nat} {x : α} {t : Tbl α} (h : Tbl.wf d t = true) : Tbl.wf d (Tbl.set t k x (d k)) = true := by
  unfold Tbl.set
  split
  · exact wfFrom_del h
  · exact wfFrom_ins h (Nat.zero_le _) ‹_›

/-- A read after a key was put in: the value at its key, and what was there at every other. -/
theorem get_ins {β : Type} (t : Tbl β) (k j : Nat) (x y : β) :
    Tbl.get (Tbl.ins t k x) j y = if j = k then x else Tbl.get t j y := by
  induction t with
  | nil => simp only [Tbl.ins, Tbl.get]; split_ifs <;> first | rfl | omega
  | cons e t ih =>
    obtain ⟨k', v⟩ := e
    simp only [Tbl.ins]
    split
    · simp only [Tbl.get]; split_ifs <;> first | rfl | omega
    · split
      · simp only [Tbl.get]; split_ifs <;> first | rfl | omega
      · simp only [Tbl.get, ih]; split_ifs <;> first | rfl | omega

/-- A read after a write of a value that is no default, whatever the form of the table. -/
theorem get_set_ne {x y : α} (t : Tbl α) (k j : Nat) (hx : x ≠ y) :
    Tbl.get (Tbl.set t k x y) j y = if j = k then x else Tbl.get t j y := by
  rw [Tbl.set, if_neg hx, get_ins]

theorem get_del {lo k j : Nat} {y : α} {t : Tbl α} (h : Tbl.wfFrom d lo t = true) :
    Tbl.get (Tbl.del t k) j y = if j = k then y else Tbl.get t j y := by
  induction t generalizing lo with
  | nil => simp [Tbl.del, Tbl.get]
  | cons e t ih =>
    obtain ⟨k', v⟩ := e
    rw [wfFrom_cons] at h
    simp only [Tbl.del]
    split
    · simp only [Tbl.get]
      by_cases hj : j = k
      · rw [if_pos hj]; exact get_below y h.2.2 (by omega)
      · rw [if_neg hj, if_neg (by omega)]
        split_ifs
        · exact get_below y h.2.2 (by omega)
        · rfl
    · split
      · simp only [Tbl.get]; split_ifs <;> first | rfl | omega
      · simp only [Tbl.get, ih h.2.2]; split_ifs <;> first | rfl | omega

/-- A read after a write: the value written at its key, and what was there at every other. -/
theorem get_set {k j : Nat} {x : α} {t : Tbl α} (h : Tbl.wf d t = true) :
    Tbl.get (Tbl.set t k x (d k)) j (d j) = if j = k then x else Tbl.get t j (d j) := by
  unfold Tbl.set
  split
  · rw [get_del h]; split_ifs with hj
    · subst hj; exact ‹x = _›.symm
    · rfl
  · exact get_ins t k j x (d j)

theorem wfFrom_filter {lo : Nat} {t : Tbl α} (p : Nat × α → Bool) (h : Tbl.wfFrom d lo t = true) :
    Tbl.wfFrom d lo (t.filter p) = true := by
  induction t generalizing lo with
  | nil => rfl
  | cons e t ih =>
    obtain ⟨k', v⟩ := e
    rw [wfFrom_cons] at h
    rw [List.filter_cons]
    split
    · rw [wfFrom_cons]; exact ⟨h.1, h.2.1, ih h.2.2⟩
    · exact wfFrom_mono (ih h.2.2) (by omega)

/-- Leaving out entries keeps the canonical form. -/
theorem wf_filter {t : Tbl α} (p : Nat × α → Bool) (h : Tbl.wf d t = true) : Tbl.wf d (t.filter p) = true :=
  wfFrom_filter p h

theorem get_filterFrom {lo j : Nat} {y : α} {t : Tbl α} (p : Nat → Bool) (h : Tbl.wfFrom d lo t = true) :
    Tbl.get (t.filter fun e => p e.1) j y = if p j then Tbl.get t j y else y := by
  induction t generalizing lo with
  | nil => simp [Tbl.get]
  | cons e t ih =>
    obtain ⟨k', v⟩ := e
    rw [wfFrom_cons] at h
    rw [List.filter_cons]
    by_cases hp : p k' = true
    · rw [if_pos hp]
      simp only [Tbl.get]
      by_cases hk : k' = j
      · subst hk; simp [hp]
      · rw [if_neg hk, if_neg hk]
        by_cases hlt : j < k'
        · rw [if_pos hlt, if_pos hlt]; simp
        · rw [if_neg hlt, if_neg hlt, ih h.2.2]
    · rw [if_neg hp, ih h.2.2]
      simp only [Tbl.get]
      by_cases hk : k' = j
      · subst hk; simp [hp]
      · rw [if_neg hk]
        by_cases hlt : j < k'
        · rw [if_pos hlt, get_below (d := d) y h.2.2 (by omega)]
        · rw [if_neg hlt]

/-- A read of a table of which some keys were left out. -/
theorem get_filter {j : Nat} {y : α} {t : Tbl α} (p : Nat → Bool) (h : Tbl.wf d t = true) :
    Tbl.get (t.filter fun e => p e.1) j y = if p j then Tbl.get t j y else y := get_filterFrom p h

/-- Clearing a run of keys keeps the canonical form. -/
theorem wf_clear {lo n : Nat} {t : Tbl α} (h : Tbl.wf d t = true) : Tbl.wf d (Tbl.clear t lo n) = true := wf_filter _ h

/-- A read after a run of keys was cleared. -/
theorem get_clear {lo n j : Nat} {y : α} {t : Tbl α} (h : Tbl.wf d t = true) :
    Tbl.get (Tbl.clear t lo n) j y = if lo ≤ j ∧ j < lo + n then y else Tbl.get t j y := by
  unfold Tbl.clear
  rw [get_filter (fun k => decide (k < lo) || decide (lo + n ≤ k)) h]
  simp only [Bool.or_eq_true, decide_eq_true_eq]
  split_ifs <;> first | rfl | omega

end Sys2Proof.Laws
end

