-- ==== Sys2Proof/Laws/Ops.lean ====
section
/-!
SUPPORT. The register store, memory and the journal of a command: what a read after a write gives, what `commit` leaves, and that
memory and the register store stay canonical. A command that may run answers `live`'s next state and nothing else.
-/

namespace Sys2Proof.Laws

open Sys2Proof.Machine

/-! ### Reads within a command -/

@[simp] theorem rd_wr_same (s : State) (a : Nat) (v : Word) : (s.wr a v).rd a = v := by
  simp [State.rd, State.wr, jnlReg]

theorem rd_wr (s : State) (a b : Nat) (v : Word) : (s.wr a v).rd b = if a = b then v else s.rd b := by
  by_cases h : a = b <;> simp [State.rd, State.wr, jnlReg, h]

@[simp] theorem rd_rawWrite (s : State) (a b : Nat) (bs : List Byte) : (s.rawWrite a bs).rd b = s.rd b := rfl

@[simp] theorem rd_rawZero (s : State) (a n b : Nat) : (s.rawZero a n).rd b = s.rd b := rfl

@[simp] theorem byte_wr (s : State) (a b : Nat) (v : Word) : (s.wr a v).byte b = s.byte b := rfl

@[simp] theorem byte_revert (s : State) (k : Bool) (ns : List RegName) (b : Nat) : (s.revert k ns).byte b = s.byte b := rfl

theorem byte_rawWrite (s : State) (a b : Nat) (bs : List Byte) :
    (s.rawWrite a bs).byte b = if h : a ≤ b ∧ b < a + bs.length then bs[b - a] else s.byte b := by
  by_cases h : a ≤ b ∧ b < a + bs.length
  · have hb : bs[b - a]? = some bs[b - a] := List.getElem?_eq_getElem (by omega)
    simp [State.byte, State.rawWrite, jnlByte, h, hb]
  · simp [State.byte, State.rawWrite, jnlByte, h]

theorem byte_rawZero (s : State) (a n b : Nat) :
    (s.rawZero a n).byte b = if a ≤ b ∧ b < a + n then 0 else s.byte b := by
  by_cases h : a ≤ b ∧ b < a + n <;> simp [State.byte, State.rawZero, jnlByte, h]

theorem rd_revert (s : State) (k : Bool) (ns : List RegName) (a : Nat) :
    (s.revert k ns).rd a = if reverts k ns a then regReset a else s.rd a := by
  by_cases h : reverts k ns a = true <;> simp [State.rd, State.revert, jnlReg, h]

/-- A state whose journal is empty reads its stores. -/
theorem rd_of_jnl_nil {s : State} (h : s.jnl = []) (a : Nat) : s.rd a = Tbl.get s.regs a (regReset a) := by
  simp [State.rd, h, jnlReg]

theorem byte_of_jnl_nil {s : State} (h : s.jnl = []) (a : Nat) : s.byte a = Tbl.get s.mem a 0 := by
  simp [State.byte, h, jnlByte]

/-! ### The canonical form -/

theorem memWrite_wf {m : List Host.Cell} (h : Memory.wf m = true) (a : Nat) (bs : List Byte) :
    Memory.wf (memWrite m a bs) = true := by
  induction bs generalizing m a with
  | nil => exact h
  | cons b bs ih => exact ih (wf_set (d := fun _ => (0 : Byte)) h) (a + 1)

/-- A read after a run of byte writes. -/
theorem get_memWrite {m : List Host.Cell} (h : Memory.wf m = true) (a k : Nat) (bs : List Byte) :
    Tbl.get (memWrite m a bs) k 0 = if hk : a ≤ k ∧ k < a + bs.length then bs[k - a] else Tbl.get m k 0 := by
  induction bs generalizing m a with
  | nil => simp [memWrite]
  | cons b bs ih =>
    have hs := wf_set (d := fun _ => (0 : Byte)) (k := a) (x := b) h
    simp only [memWrite]
    rw [ih hs, get_set (d := fun _ => (0 : Byte)) h]
    by_cases hka : k = a
    · subst hka; simp
    · by_cases hk : a + 1 ≤ k ∧ k < a + 1 + bs.length
      · rw [dif_pos hk, dif_pos (by simp only [List.length_cons]; omega)]
        have he : k - a = (k - (a + 1)) + 1 := by omega
        simp [he]
      · rw [dif_neg hk, if_neg hka, dif_neg (by simp only [List.length_cons]; omega)]

/-- Every write of a journal keeps memory canonical. -/
theorem memApply_wf {m : List Host.Cell} (h : Memory.wf m = true) (u : Upd) : Memory.wf (memApply m u) = true := by
  cases u with
  | reg a v => exact h
  | bytes a bs => exact memWrite_wf h a bs
  | zero a n => exact wf_clear (d := fun _ => (0 : Byte)) h
  | revert b ns => exact h

/-- The writes of a journal keep memory canonical. -/
theorem memCommit_wf {m : List Host.Cell} (h : Memory.wf m = true) (us : List Upd) : Memory.wf (memCommit m us) = true := by
  induction us with
  | nil => exact h
  | cons u us ih => exact memApply_wf ih u

/-- Every write of a journal keeps the register store canonical. -/
theorem regsApply_wf {r : Tbl Word} (h : Regs.wf r = true) (u : Upd) : Regs.wf (regsApply r u) = true := by
  cases u with
  | reg a v => exact wf_set (d := regReset) h
  | bytes a bs => exact h
  | zero a n => exact h
  | revert b ns => exact wf_filter (d := regReset) _ h

/-- The writes of a journal keep the register store canonical. -/
theorem regsCommit_wf {r : Tbl Word} (h : Regs.wf r = true) (us : List Upd) : Regs.wf (regsCommit r us) = true := by
  induction us with
  | nil => exact h
  | cons u us ih => exact regsApply_wf ih u

/-- Whatever a command does, its next state is canonical where the state before it was. -/
theorem commit_canonical {s0 : State} (h : s0.Canonical) (s : State) : (s0.commit s).Canonical :=
  ⟨memCommit_wf h.1 _, regsCommit_wf h.2.1 _, rfl⟩

/-! ### What a command's writes leave -/

/-- A register read after the writes of a journal. -/
theorem get_regsCommit {r : Tbl Word} (h : Regs.wf r = true) (us : List Upd) (a : Nat) :
    Tbl.get (regsCommit r us) a (regReset a) = (jnlReg us a).getD (Tbl.get r a (regReset a)) := by
  induction us with
  | nil => rfl
  | cons u us ih =>
    cases u with
    | reg k v =>
      have hw : Regs.wf (regsCommit r us) = true := regsCommit_wf h us
      simp only [regsCommit, regsApply, jnlReg]
      rw [get_set (d := regReset) hw, ih]
      by_cases hk : k = a
      · subst hk; simp
      · rw [if_neg (Ne.symm hk), if_neg hk]
    | bytes k bs => exact ih
    | zero k n => exact ih
    | revert b ns =>
      have hw : Regs.wf (regsCommit r us) = true := regsCommit_wf h us
      simp only [regsCommit, regsApply, jnlReg]
      rw [get_filter (d := regReset) (fun k => !reverts b ns k) hw, ih]
      by_cases hr : reverts b ns a = true <;> simp [hr]

/-- A byte read after the writes of a journal. -/
theorem get_memCommit {m : List Host.Cell} (h : Memory.wf m = true) (us : List Upd) (a : Nat) :
    Tbl.get (memCommit m us) a 0 = (jnlByte us a).getD (Tbl.get m a 0) := by
  induction us with
  | nil => rfl
  | cons u us ih =>
    have hw : Memory.wf (memCommit m us) = true := memCommit_wf h us
    cases u with
    | reg k v => exact ih
    | revert b ns => exact ih
    | bytes k bs =>
      simp only [memCommit, memApply, jnlByte]
      rw [get_memWrite hw, ih]
      by_cases hk : k ≤ a ∧ a < k + bs.length
      · have hb : bs[a - k]? = some bs[a - k] := List.getElem?_eq_getElem (by omega)
        simp [hk, hb]
      · simp [hk]
    | zero k n =>
      simp only [memCommit, memApply, jnlByte]
      rw [get_clear (d := fun _ => (0 : Byte)) hw, ih]
      by_cases hk : k ≤ a ∧ a < k + n <;> simp [hk]

/-- A register after a command: the command's newest write of it, or what it was. -/
theorem commit_rd {s0 : State} (h : s0.Canonical) (s : State) (a : Nat) :
    (s0.commit s).rd a = (jnlReg s.jnl a).getD (s0.rd a) := by
  rw [rd_of_jnl_nil (s := s0.commit s) rfl, rd_of_jnl_nil h.2.2]
  exact get_regsCommit h.2.1 s.jnl a

/-- A byte of memory after a command: the command's newest write of it, or what it was. -/
theorem commit_byte {s0 : State} (h : s0.Canonical) (s : State) (a : Nat) :
    (s0.commit s).byte a = (jnlByte s.jnl a).getD (s0.byte a) := by
  rw [byte_of_jnl_nil (s := s0.commit s) rfl, byte_of_jnl_nil h.2.2]
  exact get_memCommit h.1 s.jnl a

/-- A command's effect that left the register store alone reads after `commit` as it read before. -/
theorem commit_rd_eq {s0 s : State} (h : s0.Canonical) (hr : s.regs = s0.regs) (a : Nat) : (s0.commit s).rd a = s.rd a := by
  rw [commit_rd h, rd_of_jnl_nil h.2.2]
  simp only [State.rd, hr]; cases jnlReg s.jnl a <;> rfl

/-- A command's effect that left memory alone reads after `commit` as it read before. -/
theorem commit_byte_eq {s0 s : State} (h : s0.Canonical) (hm : s.mem = s0.mem) (a : Nat) : (s0.commit s).byte a = s.byte a := by
  rw [commit_byte h, byte_of_jnl_nil h.2.2]
  simp only [State.byte, hm]; cases jnlByte s.jnl a <;> rfl

@[simp] theorem commit_pending (s0 s : State) : (s0.commit s).pending = s0.pending := rfl

@[simp] theorem commit_jnl (s0 s : State) : (s0.commit s).jnl = [] := rfl

@[simp] theorem commit_out (s0 s : State) : (s0.commit s).out = s.out := rfl

@[simp] theorem commit_now (s0 s : State) : (s0.commit s).now = s.now := rfl

/-! ### Cores after a command -/

@[simp] theorem afterWrites_x (g : Core) (us : List Upd) : (g.afterWrites us).x = g.x := by
  unfold Core.afterWrites; split <;> try split
  all_goals rfl

@[simp] theorem afterWrites_f (g : Core) (us : List Upd) : (g.afterWrites us).f = g.f := by
  unfold Core.afterWrites; split <;> try split
  all_goals rfl

@[simp] theorem afterWrites_v (g : Core) (us : List Upd) : (g.afterWrites us).v = g.v := by
  unfold Core.afterWrites; split <;> try split
  all_goals rfl

@[simp] theorem afterWrites_fcsr (g : Core) (us : List Upd) : (g.afterWrites us).fcsr = g.fcsr := by
  unfold Core.afterWrites; split <;> try split
  all_goals rfl

@[simp] theorem afterWrites_wait (g : Core) (us : List Upd) : (g.afterWrites us).wait = g.wait := by
  unfold Core.afterWrites; split <;> try split
  all_goals rfl

/-- A reservation outlives the writes that do not reach it (R253). -/
theorem afterWrites_resv {g : Core} {us : List Upd} {a n : Nat} (h : g.resv = some (a, n)) :
    (g.afterWrites us).resv = if us.any (Upd.reaches a n) then none else some (a, n) := by
  unfold Core.afterWrites
  rw [h]
  simp only
  split <;> simp_all

theorem get_map_cores (cs : Tbl Core) (us : List Upd) (c : Nat) :
    Tbl.get (cs.map fun e => (e.1, e.2.afterWrites us)) c {} = (Tbl.get cs c {}).afterWrites us := by
  induction cs with
  | nil => rfl
  | cons e es ih =>
    obtain ⟨k, v⟩ := e
    simp only [List.map_cons, Tbl.get]
    split
    · rfl
    · split
      · rfl
      · exact ih

/-- All that the end of a command does to a core: a reservation that a write reached is lost. -/
theorem commit_core (s0 s : State) (c : Nat) : (s0.commit s).core c = (s.core c).afterWrites s.jnl := get_map_cores _ _ _

/-! ### Running a command -/

/-- A command of a running block completes. -/
theorem live_next {s : State} (h : s.Live) (f : State → State) : live s f = .next (s.commit (f { s with jnl := [] })) := by
  simp [live, h.1, h.2]

/-- All that `live` can answer with a next state: the state as it was, in reset, or the command's effect. -/
theorem live_cases {s t : State} {f : State → State} (h : live s f = .next t) :
    s.tripped = false ∧ ((s.held = true ∧ t = s) ∨ (s.held = false ∧ t = s.commit (f { s with jnl := [] }))) := by
  unfold live at h
  split at h
  · cases h
  · split at h
    · exact ⟨by simp_all, .inl ⟨‹_›, by injection h with h; exact h.symm⟩⟩
    · exact ⟨by simp_all, .inr ⟨by simp_all, by injection h with h; exact h.symm⟩⟩

/-- The next state of `live` is canonical where the state before it was. -/
theorem live_canonical {s t : State} {f : State → State} (hc : s.Canonical) (h : live s f = .next t) : t.Canonical := by
  obtain ⟨-, ⟨-, rfl⟩ | ⟨-, rfl⟩⟩ := live_cases h
  · exact hc
  · exact commit_canonical hc _

/-- `live` leaves the queue of commands. -/
theorem live_pending {s t : State} {f : State → State} (h : live s f = .next t) : t.pending = s.pending := by
  obtain ⟨-, ⟨-, rfl⟩ | ⟨-, rfl⟩⟩ := live_cases h <;> rfl

end Sys2Proof.Laws
end

