-- ==== Sys2Proof/Laws/State.lean ====
section
/-!
SUPPORT. What the shared updates of State leave: one lemma per field per update.
-/

namespace Sys2Proof.Laws

open Sys2Proof.Machine

/-! ### wr -/

@[simp] theorem wr_pending (s : State) (a : Nat) (v : Word) : (s.wr a v).pending = s.pending := rfl
@[simp] theorem wr_out (s : State) (a : Nat) (v : Word) : (s.wr a v).out = s.out := rfl
@[simp] theorem wr_now (s : State) (a : Nat) (v : Word) : (s.wr a v).now = s.now := rfl
@[simp] theorem wr_freeIx (s : State) (a : Nat) (v : Word) : (s.wr a v).freeIx = s.freeIx := rfl
@[simp] theorem wr_refLost (s : State) (a : Nat) (v : Word) : (s.wr a v).refLost = s.refLost := rfl
@[simp] theorem wr_jnl (s : State) (a : Nat) (v : Word) : (s.wr a v).jnl = .reg a v :: s.jnl := rfl
@[simp] theorem wr_errBuf (s : State) (a : Nat) (v : Word) : (s.wr a v).errBuf = s.errBuf := rfl
@[simp] theorem wr_regs (s : State) (a : Nat) (v : Word) : (s.wr a v).regs = s.regs := rfl
@[simp] theorem wr_mem (s : State) (a : Nat) (v : Word) : (s.wr a v).mem = s.mem := rfl
@[simp] theorem wr_par (s : State) (a : Nat) (v : Word) : (s.wr a v).par = s.par := rfl
@[simp] theorem wr_glitch (s : State) (a : Nat) (v : Word) : (s.wr a v).glitch = s.glitch := rfl
@[simp] theorem wr_faults (s : State) (a : Nat) (v : Word) : (s.wr a v).faults = s.faults := rfl
@[simp] theorem wr_flits (s : State) (a : Nat) (v : Word) : (s.wr a v).flits = s.flits := rfl
@[simp] theorem wr_stackWin (s : State) (a : Nat) (v : Word) : (s.wr a v).stackWin = s.stackWin := rfl
@[simp] theorem wr_held (s : State) (a : Nat) (v : Word) : (s.wr a v).held = s.held := rfl
@[simp] theorem wr_tripped (s : State) (a : Nat) (v : Word) : (s.wr a v).tripped = s.tripped := rfl
@[simp] theorem wr_stages (s : State) (a : Nat) (v : Word) : (s.wr a v).stages = s.stages := rfl
@[simp] theorem wr_mbs (s : State) (a : Nat) (v : Word) : (s.wr a v).mbs = s.mbs := rfl
@[simp] theorem wr_ledgers (s : State) (a : Nat) (v : Word) : (s.wr a v).ledgers = s.ledgers := rfl
@[simp] theorem wr_qConsumer (s : State) (a : Nat) (v : Word) : (s.wr a v).qConsumer = s.qConsumer := rfl
@[simp] theorem wr_remoteQs (s : State) (a : Nat) (v : Word) : (s.wr a v).remoteQs = s.remoteQs := rfl
@[simp] theorem wr_msPlaced (s : State) (a : Nat) (v : Word) : (s.wr a v).msPlaced = s.msPlaced := rfl
@[simp] theorem wr_sendWaits (s : State) (a : Nat) (v : Word) : (s.wr a v).sendWaits = s.sendWaits := rfl
@[simp] theorem wr_remoteSends (s : State) (a : Nat) (v : Word) : (s.wr a v).remoteSends = s.remoteSends := rfl
@[simp] theorem wr_tags (s : State) (a : Nat) (v : Word) : (s.wr a v).tags = s.tags := rfl
@[simp] theorem wr_tagWaits (s : State) (a : Nat) (v : Word) : (s.wr a v).tagWaits = s.tagWaits := rfl
@[simp] theorem wr_tagPrio (s : State) (a : Nat) (v : Word) : (s.wr a v).tagPrio = s.tagPrio := rfl
@[simp] theorem wr_masked (s : State) (a : Nat) (v : Word) : (s.wr a v).masked = s.masked := rfl
@[simp] theorem wr_fabDone (s : State) (a : Nat) (v : Word) : (s.wr a v).fabDone = s.fabDone := rfl
@[simp] theorem wr_xfers (s : State) (a : Nat) (v : Word) : (s.wr a v).xfers = s.xfers := rfl
@[simp] theorem wr_ports (s : State) (a : Nat) (v : Word) : (s.wr a v).ports = s.ports := rfl
@[simp] theorem wr_depots (s : State) (a : Nat) (v : Word) : (s.wr a v).depots = s.depots := rfl
@[simp] theorem wr_devRole (s : State) (a : Nat) (v : Word) : (s.wr a v).devRole = s.devRole := rfl
@[simp] theorem wr_devCount (s : State) (a : Nat) (v : Word) : (s.wr a v).devCount = s.devCount := rfl
@[simp] theorem wr_permJournal (s : State) (a : Nat) (v : Word) : (s.wr a v).permJournal = s.permJournal := rfl
@[simp] theorem wr_cols (s : State) (a : Nat) (v : Word) : (s.wr a v).cols = s.cols := rfl
@[simp] theorem wr_colEarly (s : State) (a : Nat) (v : Word) : (s.wr a v).colEarly = s.colEarly := rfl
@[simp] theorem wr_colTrigs (s : State) (a : Nat) (v : Word) : (s.wr a v).colTrigs = s.colTrigs := rfl
@[simp] theorem wr_vote (s : State) (a : Nat) (v : Word) : (s.wr a v).vote = s.vote := rfl
@[simp] theorem wr_rings (s : State) (a : Nat) (v : Word) : (s.wr a v).rings = s.rings := rfl
@[simp] theorem wr_copies (s : State) (a : Nat) (v : Word) : (s.wr a v).copies = s.copies := rfl
@[simp] theorem wr_turn (s : State) (a : Nat) (v : Word) : (s.wr a v).turn = s.turn := rfl
@[simp] theorem wr_channels (s : State) (a : Nat) (v : Word) : (s.wr a v).channels = s.channels := rfl
@[simp] theorem wr_barWaits (s : State) (a : Nat) (v : Word) : (s.wr a v).barWaits = s.barWaits := rfl
@[simp] theorem wr_journal (s : State) (a : Nat) (v : Word) : (s.wr a v).journal = s.journal := rfl
@[simp] theorem wr_oflQueue (s : State) (a : Nat) (v : Word) : (s.wr a v).oflQueue = s.oflQueue := rfl
@[simp] theorem wr_tensors (s : State) (a : Nat) (v : Word) : (s.wr a v).tensors = s.tensors := rfl
@[simp] theorem wr_engines (s : State) (a : Nat) (v : Word) : (s.wr a v).engines = s.engines := rfl
@[simp] theorem wr_cores (s : State) (a : Nat) (v : Word) : (s.wr a v).cores = s.cores := rfl
@[simp] theorem wr_scratch (s : State) (a : Nat) (v : Word) : (s.wr a v).scratch = s.scratch := rfl
@[simp] theorem wr_nextId (s : State) (a : Nat) (v : Word) : (s.wr a v).nextId = s.nextId := rfl
@[simp] theorem wr_dsps (s : State) (a : Nat) (v : Word) : (s.wr a v).dsps = s.dsps := rfl
@[simp] theorem wr_trigQueues (s : State) (a : Nat) (v : Word) : (s.wr a v).trigQueues = s.trigQueues := rfl
@[simp] theorem wr_updEngines (s : State) (a : Nat) (v : Word) : (s.wr a v).updEngines = s.updEngines := rfl
@[simp] theorem wr_inboxes (s : State) (a : Nat) (v : Word) : (s.wr a v).inboxes = s.inboxes := rfl
@[simp] theorem wr_loadJob (s : State) (a : Nat) (v : Word) : (s.wr a v).loadJob = s.loadJob := rfl
@[simp] theorem wr_unloads (s : State) (a : Nat) (v : Word) : (s.wr a v).unloads = s.unloads := rfl
@[simp] theorem wr_baseRoutes (s : State) (a : Nat) (v : Word) : (s.wr a v).baseRoutes = s.baseRoutes := rfl
@[simp] theorem wr_govs (s : State) (a : Nat) (v : Word) : (s.wr a v).govs = s.govs := rfl
@[simp] theorem wr_pkmBids (s : State) (a : Nat) (v : Word) : (s.wr a v).pkmBids = s.pkmBids := rfl
@[simp] theorem wr_pkmPast (s : State) (a : Nat) (v : Word) : (s.wr a v).pkmPast = s.pkmPast := rfl
@[simp] theorem wr_resetReq (s : State) (a : Nat) (v : Word) : (s.wr a v).resetReq = s.resetReq := rfl
@[simp] theorem wr_guestOut (s : State) (a : Nat) (v : Word) : (s.wr a v).guestOut = s.guestOut := rfl
@[simp] theorem wr_guestWait (s : State) (a : Nat) (v : Word) : (s.wr a v).guestWait = s.guestWait := rfl
@[simp] theorem wr_guestResp (s : State) (a : Nat) (v : Word) : (s.wr a v).guestResp = s.guestResp := rfl
@[simp] theorem wr_guestRun (s : State) (a : Nat) (v : Word) : (s.wr a v).guestRun = s.guestRun := rfl
@[simp] theorem wr_guestAsk (s : State) (a : Nat) (v : Word) : (s.wr a v).guestAsk = s.guestAsk := rfl
@[simp] theorem wr_cert (s : State) (a : Nat) (v : Word) : (s.wr a v).cert = s.cert := rfl
@[simp] theorem wr_flashOwn (s : State) (a : Nat) (v : Word) : (s.wr a v).flashOwn = s.flashOwn := rfl
@[simp] theorem wr_resetLow (s : State) (a : Nat) (v : Word) : (s.wr a v).resetLow = s.resetLow := rfl
@[simp] theorem wr_stuck (s : State) (a : Nat) (v : Word) : (s.wr a v).stuck = s.stuck := rfl
@[simp] theorem wr_svnTarget (s : State) (a : Nat) (v : Word) : (s.wr a v).svnTarget = s.svnTarget := rfl
@[simp] theorem wr_tokenIn (s : State) (a : Nat) (v : Word) : (s.wr a v).tokenIn = s.tokenIn := rfl
@[simp] theorem wr_smbAlert (s : State) (a : Nat) (v : Word) : (s.wr a v).smbAlert = s.smbAlert := rfl
@[simp] theorem wr_dynAddr (s : State) (a : Nat) (v : Word) : (s.wr a v).dynAddr = s.dynAddr := rfl
@[simp] theorem wr_sbBudget (s : State) (a : Nat) (v : Word) : (s.wr a v).sbBudget = s.sbBudget := rfl
@[simp] theorem wr_straps (s : State) (a : Nat) (v : Word) : (s.wr a v).straps = s.straps := rfl
@[simp] theorem wr_trip (s : State) (a : Nat) (v : Word) : (s.wr a v).trip = s.trip := rfl
@[simp] theorem wr_tapReset (s : State) (a : Nat) (v : Word) : (s.wr a v).tapReset = s.tapReset := rfl
@[simp] theorem wr_tapIr (s : State) (a : Nat) (v : Word) : (s.wr a v).tapIr = s.tapIr := rfl
@[simp] theorem wr_tapData (s : State) (a : Nat) (v : Word) : (s.wr a v).tapData = s.tapData := rfl
@[simp] theorem wr_lands (s : State) (a : Nat) (v : Word) : (s.wr a v).lands = s.lands := rfl
@[simp] theorem wr_busLate (s : State) (a : Nat) (v : Word) : (s.wr a v).busLate = s.busLate := rfl
@[simp] theorem wr_cntAt (s : State) (a : Nat) (v : Word) : (s.wr a v).cntAt = s.cntAt := rfl
@[simp] theorem wr_loadAt (s : State) (a : Nat) (v : Word) : (s.wr a v).loadAt = s.loadAt := rfl
@[simp] theorem wr_bootAt (s : State) (a : Nat) (v : Word) : (s.wr a v).bootAt = s.bootAt := rfl

/-! ### rawWrite -/

@[simp] theorem rawWrite_pending (s : State) (a : Nat) (bs : List Byte) : (s.rawWrite a bs).pending = s.pending := rfl
@[simp] theorem rawWrite_out (s : State) (a : Nat) (bs : List Byte) : (s.rawWrite a bs).out = s.out := rfl
@[simp] theorem rawWrite_now (s : State) (a : Nat) (bs : List Byte) : (s.rawWrite a bs).now = s.now := rfl
@[simp] theorem rawWrite_freeIx (s : State) (a : Nat) (bs : List Byte) : (s.rawWrite a bs).freeIx = s.freeIx := rfl
@[simp] theorem rawWrite_refLost (s : State) (a : Nat) (bs : List Byte) : (s.rawWrite a bs).refLost = s.refLost := rfl
@[simp] theorem rawWrite_jnl (s : State) (a : Nat) (bs : List Byte) : (s.rawWrite a bs).jnl = .bytes a bs :: s.jnl := rfl
@[simp] theorem rawWrite_errBuf (s : State) (a : Nat) (bs : List Byte) : (s.rawWrite a bs).errBuf = s.errBuf := rfl
@[simp] theorem rawWrite_regs (s : State) (a : Nat) (bs : List Byte) : (s.rawWrite a bs).regs = s.regs := rfl
@[simp] theorem rawWrite_mem (s : State) (a : Nat) (bs : List Byte) : (s.rawWrite a bs).mem = s.mem := rfl
@[simp] theorem rawWrite_par (s : State) (a : Nat) (bs : List Byte) : (s.rawWrite a bs).par = s.par := rfl
@[simp] theorem rawWrite_glitch (s : State) (a : Nat) (bs : List Byte) : (s.rawWrite a bs).glitch = s.glitch := rfl
@[simp] theorem rawWrite_faults (s : State) (a : Nat) (bs : List Byte) : (s.rawWrite a bs).faults = s.faults := rfl
@[simp] theorem rawWrite_flits (s : State) (a : Nat) (bs : List Byte) : (s.rawWrite a bs).flits = s.flits := rfl
@[simp] theorem rawWrite_stackWin (s : State) (a : Nat) (bs : List Byte) : (s.rawWrite a bs).stackWin = s.stackWin := rfl
@[simp] theorem rawWrite_held (s : State) (a : Nat) (bs : List Byte) : (s.rawWrite a bs).held = s.held := rfl
@[simp] theorem rawWrite_tripped (s : State) (a : Nat) (bs : List Byte) : (s.rawWrite a bs).tripped = s.tripped := rfl
@[simp] theorem rawWrite_stages (s : State) (a : Nat) (bs : List Byte) : (s.rawWrite a bs).stages = s.stages := rfl
@[simp] theorem rawWrite_mbs (s : State) (a : Nat) (bs : List Byte) : (s.rawWrite a bs).mbs = s.mbs := rfl
@[simp] theorem rawWrite_ledgers (s : State) (a : Nat) (bs : List Byte) : (s.rawWrite a bs).ledgers = s.ledgers := rfl
@[simp] theorem rawWrite_qConsumer (s : State) (a : Nat) (bs : List Byte) : (s.rawWrite a bs).qConsumer = s.qConsumer := rfl
@[simp] theorem rawWrite_remoteQs (s : State) (a : Nat) (bs : List Byte) : (s.rawWrite a bs).remoteQs = s.remoteQs := rfl
@[simp] theorem rawWrite_msPlaced (s : State) (a : Nat) (bs : List Byte) : (s.rawWrite a bs).msPlaced = s.msPlaced := rfl
@[simp] theorem rawWrite_sendWaits (s : State) (a : Nat) (bs : List Byte) : (s.rawWrite a bs).sendWaits = s.sendWaits := rfl
@[simp] theorem rawWrite_remoteSends (s : State) (a : Nat) (bs : List Byte) : (s.rawWrite a bs).remoteSends = s.remoteSends := rfl
@[simp] theorem rawWrite_tags (s : State) (a : Nat) (bs : List Byte) : (s.rawWrite a bs).tags = s.tags := rfl
@[simp] theorem rawWrite_tagWaits (s : State) (a : Nat) (bs : List Byte) : (s.rawWrite a bs).tagWaits = s.tagWaits := rfl
@[simp] theorem rawWrite_tagPrio (s : State) (a : Nat) (bs : List Byte) : (s.rawWrite a bs).tagPrio = s.tagPrio := rfl
@[simp] theorem rawWrite_masked (s : State) (a : Nat) (bs : List Byte) : (s.rawWrite a bs).masked = s.masked := rfl
@[simp] theorem rawWrite_fabDone (s : State) (a : Nat) (bs : List Byte) : (s.rawWrite a bs).fabDone = s.fabDone := rfl
@[simp] theorem rawWrite_xfers (s : State) (a : Nat) (bs : List Byte) : (s.rawWrite a bs).xfers = s.xfers := rfl
@[simp] theorem rawWrite_ports (s : State) (a : Nat) (bs : List Byte) : (s.rawWrite a bs).ports = s.ports := rfl
@[simp] theorem rawWrite_depots (s : State) (a : Nat) (bs : List Byte) : (s.rawWrite a bs).depots = s.depots := rfl
@[simp] theorem rawWrite_devRole (s : State) (a : Nat) (bs : List Byte) : (s.rawWrite a bs).devRole = s.devRole := rfl
@[simp] theorem rawWrite_devCount (s : State) (a : Nat) (bs : List Byte) : (s.rawWrite a bs).devCount = s.devCount := rfl
@[simp] theorem rawWrite_permJournal (s : State) (a : Nat) (bs : List Byte) : (s.rawWrite a bs).permJournal = s.permJournal := rfl
@[simp] theorem rawWrite_cols (s : State) (a : Nat) (bs : List Byte) : (s.rawWrite a bs).cols = s.cols := rfl
@[simp] theorem rawWrite_colEarly (s : State) (a : Nat) (bs : List Byte) : (s.rawWrite a bs).colEarly = s.colEarly := rfl
@[simp] theorem rawWrite_colTrigs (s : State) (a : Nat) (bs : List Byte) : (s.rawWrite a bs).colTrigs = s.colTrigs := rfl
@[simp] theorem rawWrite_vote (s : State) (a : Nat) (bs : List Byte) : (s.rawWrite a bs).vote = s.vote := rfl
@[simp] theorem rawWrite_rings (s : State) (a : Nat) (bs : List Byte) : (s.rawWrite a bs).rings = s.rings := rfl
@[simp] theorem rawWrite_copies (s : State) (a : Nat) (bs : List Byte) : (s.rawWrite a bs).copies = s.copies := rfl
@[simp] theorem rawWrite_turn (s : State) (a : Nat) (bs : List Byte) : (s.rawWrite a bs).turn = s.turn := rfl
@[simp] theorem rawWrite_channels (s : State) (a : Nat) (bs : List Byte) : (s.rawWrite a bs).channels = s.channels := rfl
@[simp] theorem rawWrite_barWaits (s : State) (a : Nat) (bs : List Byte) : (s.rawWrite a bs).barWaits = s.barWaits := rfl
@[simp] theorem rawWrite_journal (s : State) (a : Nat) (bs : List Byte) : (s.rawWrite a bs).journal = s.journal := rfl
@[simp] theorem rawWrite_oflQueue (s : State) (a : Nat) (bs : List Byte) : (s.rawWrite a bs).oflQueue = s.oflQueue := rfl
@[simp] theorem rawWrite_tensors (s : State) (a : Nat) (bs : List Byte) : (s.rawWrite a bs).tensors = s.tensors := rfl
@[simp] theorem rawWrite_engines (s : State) (a : Nat) (bs : List Byte) : (s.rawWrite a bs).engines = s.engines := rfl
@[simp] theorem rawWrite_cores (s : State) (a : Nat) (bs : List Byte) : (s.rawWrite a bs).cores = s.cores := rfl
@[simp] theorem rawWrite_scratch (s : State) (a : Nat) (bs : List Byte) : (s.rawWrite a bs).scratch = s.scratch := rfl
@[simp] theorem rawWrite_nextId (s : State) (a : Nat) (bs : List Byte) : (s.rawWrite a bs).nextId = s.nextId := rfl
@[simp] theorem rawWrite_dsps (s : State) (a : Nat) (bs : List Byte) : (s.rawWrite a bs).dsps = s.dsps := rfl
@[simp] theorem rawWrite_trigQueues (s : State) (a : Nat) (bs : List Byte) : (s.rawWrite a bs).trigQueues = s.trigQueues := rfl
@[simp] theorem rawWrite_updEngines (s : State) (a : Nat) (bs : List Byte) : (s.rawWrite a bs).updEngines = s.updEngines := rfl
@[simp] theorem rawWrite_inboxes (s : State) (a : Nat) (bs : List Byte) : (s.rawWrite a bs).inboxes = s.inboxes := rfl
@[simp] theorem rawWrite_loadJob (s : State) (a : Nat) (bs : List Byte) : (s.rawWrite a bs).loadJob = s.loadJob := rfl
@[simp] theorem rawWrite_unloads (s : State) (a : Nat) (bs : List Byte) : (s.rawWrite a bs).unloads = s.unloads := rfl
@[simp] theorem rawWrite_baseRoutes (s : State) (a : Nat) (bs : List Byte) : (s.rawWrite a bs).baseRoutes = s.baseRoutes := rfl
@[simp] theorem rawWrite_govs (s : State) (a : Nat) (bs : List Byte) : (s.rawWrite a bs).govs = s.govs := rfl
@[simp] theorem rawWrite_pkmBids (s : State) (a : Nat) (bs : List Byte) : (s.rawWrite a bs).pkmBids = s.pkmBids := rfl
@[simp] theorem rawWrite_pkmPast (s : State) (a : Nat) (bs : List Byte) : (s.rawWrite a bs).pkmPast = s.pkmPast := rfl
@[simp] theorem rawWrite_resetReq (s : State) (a : Nat) (bs : List Byte) : (s.rawWrite a bs).resetReq = s.resetReq := rfl
@[simp] theorem rawWrite_guestOut (s : State) (a : Nat) (bs : List Byte) : (s.rawWrite a bs).guestOut = s.guestOut := rfl
@[simp] theorem rawWrite_guestWait (s : State) (a : Nat) (bs : List Byte) : (s.rawWrite a bs).guestWait = s.guestWait := rfl
@[simp] theorem rawWrite_guestResp (s : State) (a : Nat) (bs : List Byte) : (s.rawWrite a bs).guestResp = s.guestResp := rfl
@[simp] theorem rawWrite_guestRun (s : State) (a : Nat) (bs : List Byte) : (s.rawWrite a bs).guestRun = s.guestRun := rfl
@[simp] theorem rawWrite_guestAsk (s : State) (a : Nat) (bs : List Byte) : (s.rawWrite a bs).guestAsk = s.guestAsk := rfl
@[simp] theorem rawWrite_cert (s : State) (a : Nat) (bs : List Byte) : (s.rawWrite a bs).cert = s.cert := rfl
@[simp] theorem rawWrite_flashOwn (s : State) (a : Nat) (bs : List Byte) : (s.rawWrite a bs).flashOwn = s.flashOwn := rfl
@[simp] theorem rawWrite_resetLow (s : State) (a : Nat) (bs : List Byte) : (s.rawWrite a bs).resetLow = s.resetLow := rfl
@[simp] theorem rawWrite_stuck (s : State) (a : Nat) (bs : List Byte) : (s.rawWrite a bs).stuck = s.stuck := rfl
@[simp] theorem rawWrite_svnTarget (s : State) (a : Nat) (bs : List Byte) : (s.rawWrite a bs).svnTarget = s.svnTarget := rfl
@[simp] theorem rawWrite_tokenIn (s : State) (a : Nat) (bs : List Byte) : (s.rawWrite a bs).tokenIn = s.tokenIn := rfl
@[simp] theorem rawWrite_smbAlert (s : State) (a : Nat) (bs : List Byte) : (s.rawWrite a bs).smbAlert = s.smbAlert := rfl
@[simp] theorem rawWrite_dynAddr (s : State) (a : Nat) (bs : List Byte) : (s.rawWrite a bs).dynAddr = s.dynAddr := rfl
@[simp] theorem rawWrite_sbBudget (s : State) (a : Nat) (bs : List Byte) : (s.rawWrite a bs).sbBudget = s.sbBudget := rfl
@[simp] theorem rawWrite_straps (s : State) (a : Nat) (bs : List Byte) : (s.rawWrite a bs).straps = s.straps := rfl
@[simp] theorem rawWrite_trip (s : State) (a : Nat) (bs : List Byte) : (s.rawWrite a bs).trip = s.trip := rfl
@[simp] theorem rawWrite_tapReset (s : State) (a : Nat) (bs : List Byte) : (s.rawWrite a bs).tapReset = s.tapReset := rfl
@[simp] theorem rawWrite_tapIr (s : State) (a : Nat) (bs : List Byte) : (s.rawWrite a bs).tapIr = s.tapIr := rfl
@[simp] theorem rawWrite_tapData (s : State) (a : Nat) (bs : List Byte) : (s.rawWrite a bs).tapData = s.tapData := rfl
@[simp] theorem rawWrite_lands (s : State) (a : Nat) (bs : List Byte) : (s.rawWrite a bs).lands = s.lands := rfl
@[simp] theorem rawWrite_busLate (s : State) (a : Nat) (bs : List Byte) : (s.rawWrite a bs).busLate = s.busLate := rfl
@[simp] theorem rawWrite_cntAt (s : State) (a : Nat) (bs : List Byte) : (s.rawWrite a bs).cntAt = s.cntAt := rfl
@[simp] theorem rawWrite_loadAt (s : State) (a : Nat) (bs : List Byte) : (s.rawWrite a bs).loadAt = s.loadAt := rfl
@[simp] theorem rawWrite_bootAt (s : State) (a : Nat) (bs : List Byte) : (s.rawWrite a bs).bootAt = s.bootAt := rfl

/-! ### rawZero -/

@[simp] theorem rawZero_pending (s : State) (a n : Nat) : (s.rawZero a n).pending = s.pending := rfl
@[simp] theorem rawZero_out (s : State) (a n : Nat) : (s.rawZero a n).out = s.out := rfl
@[simp] theorem rawZero_now (s : State) (a n : Nat) : (s.rawZero a n).now = s.now := rfl
@[simp] theorem rawZero_freeIx (s : State) (a n : Nat) : (s.rawZero a n).freeIx = s.freeIx := rfl
@[simp] theorem rawZero_refLost (s : State) (a n : Nat) : (s.rawZero a n).refLost = s.refLost := rfl
@[simp] theorem rawZero_jnl (s : State) (a n : Nat) : (s.rawZero a n).jnl = .zero a n :: s.jnl := rfl
@[simp] theorem rawZero_errBuf (s : State) (a n : Nat) : (s.rawZero a n).errBuf = s.errBuf := rfl
@[simp] theorem rawZero_regs (s : State) (a n : Nat) : (s.rawZero a n).regs = s.regs := rfl
@[simp] theorem rawZero_mem (s : State) (a n : Nat) : (s.rawZero a n).mem = s.mem := rfl
@[simp] theorem rawZero_par (s : State) (a n : Nat) : (s.rawZero a n).par = s.par := rfl
@[simp] theorem rawZero_glitch (s : State) (a n : Nat) : (s.rawZero a n).glitch = s.glitch := rfl
@[simp] theorem rawZero_faults (s : State) (a n : Nat) : (s.rawZero a n).faults = s.faults := rfl
@[simp] theorem rawZero_flits (s : State) (a n : Nat) : (s.rawZero a n).flits = s.flits := rfl
@[simp] theorem rawZero_stackWin (s : State) (a n : Nat) : (s.rawZero a n).stackWin = s.stackWin := rfl
@[simp] theorem rawZero_held (s : State) (a n : Nat) : (s.rawZero a n).held = s.held := rfl
@[simp] theorem rawZero_tripped (s : State) (a n : Nat) : (s.rawZero a n).tripped = s.tripped := rfl
@[simp] theorem rawZero_stages (s : State) (a n : Nat) : (s.rawZero a n).stages = s.stages := rfl
@[simp] theorem rawZero_mbs (s : State) (a n : Nat) : (s.rawZero a n).mbs = s.mbs := rfl
@[simp] theorem rawZero_ledgers (s : State) (a n : Nat) : (s.rawZero a n).ledgers = s.ledgers := rfl
@[simp] theorem rawZero_qConsumer (s : State) (a n : Nat) : (s.rawZero a n).qConsumer = s.qConsumer := rfl
@[simp] theorem rawZero_remoteQs (s : State) (a n : Nat) : (s.rawZero a n).remoteQs = s.remoteQs := rfl
@[simp] theorem rawZero_msPlaced (s : State) (a n : Nat) : (s.rawZero a n).msPlaced = s.msPlaced := rfl
@[simp] theorem rawZero_sendWaits (s : State) (a n : Nat) : (s.rawZero a n).sendWaits = s.sendWaits := rfl
@[simp] theorem rawZero_remoteSends (s : State) (a n : Nat) : (s.rawZero a n).remoteSends = s.remoteSends := rfl
@[simp] theorem rawZero_tags (s : State) (a n : Nat) : (s.rawZero a n).tags = s.tags := rfl
@[simp] theorem rawZero_tagWaits (s : State) (a n : Nat) : (s.rawZero a n).tagWaits = s.tagWaits := rfl
@[simp] theorem rawZero_tagPrio (s : State) (a n : Nat) : (s.rawZero a n).tagPrio = s.tagPrio := rfl
@[simp] theorem rawZero_masked (s : State) (a n : Nat) : (s.rawZero a n).masked = s.masked := rfl
@[simp] theorem rawZero_fabDone (s : State) (a n : Nat) : (s.rawZero a n).fabDone = s.fabDone := rfl
@[simp] theorem rawZero_xfers (s : State) (a n : Nat) : (s.rawZero a n).xfers = s.xfers := rfl
@[simp] theorem rawZero_ports (s : State) (a n : Nat) : (s.rawZero a n).ports = s.ports := rfl
@[simp] theorem rawZero_depots (s : State) (a n : Nat) : (s.rawZero a n).depots = s.depots := rfl
@[simp] theorem rawZero_devRole (s : State) (a n : Nat) : (s.rawZero a n).devRole = s.devRole := rfl
@[simp] theorem rawZero_devCount (s : State) (a n : Nat) : (s.rawZero a n).devCount = s.devCount := rfl
@[simp] theorem rawZero_permJournal (s : State) (a n : Nat) : (s.rawZero a n).permJournal = s.permJournal := rfl
@[simp] theorem rawZero_cols (s : State) (a n : Nat) : (s.rawZero a n).cols = s.cols := rfl
@[simp] theorem rawZero_colEarly (s : State) (a n : Nat) : (s.rawZero a n).colEarly = s.colEarly := rfl
@[simp] theorem rawZero_colTrigs (s : State) (a n : Nat) : (s.rawZero a n).colTrigs = s.colTrigs := rfl
@[simp] theorem rawZero_vote (s : State) (a n : Nat) : (s.rawZero a n).vote = s.vote := rfl
@[simp] theorem rawZero_rings (s : State) (a n : Nat) : (s.rawZero a n).rings = s.rings := rfl
@[simp] theorem rawZero_copies (s : State) (a n : Nat) : (s.rawZero a n).copies = s.copies := rfl
@[simp] theorem rawZero_turn (s : State) (a n : Nat) : (s.rawZero a n).turn = s.turn := rfl
@[simp] theorem rawZero_channels (s : State) (a n : Nat) : (s.rawZero a n).channels = s.channels := rfl
@[simp] theorem rawZero_barWaits (s : State) (a n : Nat) : (s.rawZero a n).barWaits = s.barWaits := rfl
@[simp] theorem rawZero_journal (s : State) (a n : Nat) : (s.rawZero a n).journal = s.journal := rfl
@[simp] theorem rawZero_oflQueue (s : State) (a n : Nat) : (s.rawZero a n).oflQueue = s.oflQueue := rfl
@[simp] theorem rawZero_tensors (s : State) (a n : Nat) : (s.rawZero a n).tensors = s.tensors := rfl
@[simp] theorem rawZero_engines (s : State) (a n : Nat) : (s.rawZero a n).engines = s.engines := rfl
@[simp] theorem rawZero_cores (s : State) (a n : Nat) : (s.rawZero a n).cores = s.cores := rfl
@[simp] theorem rawZero_scratch (s : State) (a n : Nat) : (s.rawZero a n).scratch = s.scratch := rfl
@[simp] theorem rawZero_nextId (s : State) (a n : Nat) : (s.rawZero a n).nextId = s.nextId := rfl
@[simp] theorem rawZero_dsps (s : State) (a n : Nat) : (s.rawZero a n).dsps = s.dsps := rfl
@[simp] theorem rawZero_trigQueues (s : State) (a n : Nat) : (s.rawZero a n).trigQueues = s.trigQueues := rfl
@[simp] theorem rawZero_updEngines (s : State) (a n : Nat) : (s.rawZero a n).updEngines = s.updEngines := rfl
@[simp] theorem rawZero_inboxes (s : State) (a n : Nat) : (s.rawZero a n).inboxes = s.inboxes := rfl
@[simp] theorem rawZero_loadJob (s : State) (a n : Nat) : (s.rawZero a n).loadJob = s.loadJob := rfl
@[simp] theorem rawZero_unloads (s : State) (a n : Nat) : (s.rawZero a n).unloads = s.unloads := rfl
@[simp] theorem rawZero_baseRoutes (s : State) (a n : Nat) : (s.rawZero a n).baseRoutes = s.baseRoutes := rfl
@[simp] theorem rawZero_govs (s : State) (a n : Nat) : (s.rawZero a n).govs = s.govs := rfl
@[simp] theorem rawZero_pkmBids (s : State) (a n : Nat) : (s.rawZero a n).pkmBids = s.pkmBids := rfl
@[simp] theorem rawZero_pkmPast (s : State) (a n : Nat) : (s.rawZero a n).pkmPast = s.pkmPast := rfl
@[simp] theorem rawZero_resetReq (s : State) (a n : Nat) : (s.rawZero a n).resetReq = s.resetReq := rfl
@[simp] theorem rawZero_guestOut (s : State) (a n : Nat) : (s.rawZero a n).guestOut = s.guestOut := rfl
@[simp] theorem rawZero_guestWait (s : State) (a n : Nat) : (s.rawZero a n).guestWait = s.guestWait := rfl
@[simp] theorem rawZero_guestResp (s : State) (a n : Nat) : (s.rawZero a n).guestResp = s.guestResp := rfl
@[simp] theorem rawZero_guestRun (s : State) (a n : Nat) : (s.rawZero a n).guestRun = s.guestRun := rfl
@[simp] theorem rawZero_guestAsk (s : State) (a n : Nat) : (s.rawZero a n).guestAsk = s.guestAsk := rfl
@[simp] theorem rawZero_cert (s : State) (a n : Nat) : (s.rawZero a n).cert = s.cert := rfl
@[simp] theorem rawZero_flashOwn (s : State) (a n : Nat) : (s.rawZero a n).flashOwn = s.flashOwn := rfl
@[simp] theorem rawZero_resetLow (s : State) (a n : Nat) : (s.rawZero a n).resetLow = s.resetLow := rfl
@[simp] theorem rawZero_stuck (s : State) (a n : Nat) : (s.rawZero a n).stuck = s.stuck := rfl
@[simp] theorem rawZero_svnTarget (s : State) (a n : Nat) : (s.rawZero a n).svnTarget = s.svnTarget := rfl
@[simp] theorem rawZero_tokenIn (s : State) (a n : Nat) : (s.rawZero a n).tokenIn = s.tokenIn := rfl
@[simp] theorem rawZero_smbAlert (s : State) (a n : Nat) : (s.rawZero a n).smbAlert = s.smbAlert := rfl
@[simp] theorem rawZero_dynAddr (s : State) (a n : Nat) : (s.rawZero a n).dynAddr = s.dynAddr := rfl
@[simp] theorem rawZero_sbBudget (s : State) (a n : Nat) : (s.rawZero a n).sbBudget = s.sbBudget := rfl
@[simp] theorem rawZero_straps (s : State) (a n : Nat) : (s.rawZero a n).straps = s.straps := rfl
@[simp] theorem rawZero_trip (s : State) (a n : Nat) : (s.rawZero a n).trip = s.trip := rfl
@[simp] theorem rawZero_tapReset (s : State) (a n : Nat) : (s.rawZero a n).tapReset = s.tapReset := rfl
@[simp] theorem rawZero_tapIr (s : State) (a n : Nat) : (s.rawZero a n).tapIr = s.tapIr := rfl
@[simp] theorem rawZero_tapData (s : State) (a n : Nat) : (s.rawZero a n).tapData = s.tapData := rfl
@[simp] theorem rawZero_lands (s : State) (a n : Nat) : (s.rawZero a n).lands = s.lands := rfl
@[simp] theorem rawZero_busLate (s : State) (a n : Nat) : (s.rawZero a n).busLate = s.busLate := rfl
@[simp] theorem rawZero_cntAt (s : State) (a n : Nat) : (s.rawZero a n).cntAt = s.cntAt := rfl
@[simp] theorem rawZero_loadAt (s : State) (a n : Nat) : (s.rawZero a n).loadAt = s.loadAt := rfl
@[simp] theorem rawZero_bootAt (s : State) (a n : Nat) : (s.rawZero a n).bootAt = s.bootAt := rfl

/-! ### revert -/

@[simp] theorem revert_pending (s : State) (b : Bool) (ns : List RegName) : (s.revert b ns).pending = s.pending := rfl
@[simp] theorem revert_out (s : State) (b : Bool) (ns : List RegName) : (s.revert b ns).out = s.out := rfl
@[simp] theorem revert_now (s : State) (b : Bool) (ns : List RegName) : (s.revert b ns).now = s.now := rfl
@[simp] theorem revert_freeIx (s : State) (b : Bool) (ns : List RegName) : (s.revert b ns).freeIx = s.freeIx := rfl
@[simp] theorem revert_refLost (s : State) (b : Bool) (ns : List RegName) : (s.revert b ns).refLost = s.refLost := rfl
@[simp] theorem revert_jnl (s : State) (b : Bool) (ns : List RegName) : (s.revert b ns).jnl = .revert b ns :: s.jnl := rfl
@[simp] theorem revert_errBuf (s : State) (b : Bool) (ns : List RegName) : (s.revert b ns).errBuf = s.errBuf := rfl
@[simp] theorem revert_regs (s : State) (b : Bool) (ns : List RegName) : (s.revert b ns).regs = s.regs := rfl
@[simp] theorem revert_mem (s : State) (b : Bool) (ns : List RegName) : (s.revert b ns).mem = s.mem := rfl
@[simp] theorem revert_par (s : State) (b : Bool) (ns : List RegName) : (s.revert b ns).par = s.par := rfl
@[simp] theorem revert_glitch (s : State) (b : Bool) (ns : List RegName) : (s.revert b ns).glitch = s.glitch := rfl
@[simp] theorem revert_faults (s : State) (b : Bool) (ns : List RegName) : (s.revert b ns).faults = s.faults := rfl
@[simp] theorem revert_flits (s : State) (b : Bool) (ns : List RegName) : (s.revert b ns).flits = s.flits := rfl
@[simp] theorem revert_stackWin (s : State) (b : Bool) (ns : List RegName) : (s.revert b ns).stackWin = s.stackWin := rfl
@[simp] theorem revert_held (s : State) (b : Bool) (ns : List RegName) : (s.revert b ns).held = s.held := rfl
@[simp] theorem revert_tripped (s : State) (b : Bool) (ns : List RegName) : (s.revert b ns).tripped = s.tripped := rfl
@[simp] theorem revert_stages (s : State) (b : Bool) (ns : List RegName) : (s.revert b ns).stages = s.stages := rfl
@[simp] theorem revert_mbs (s : State) (b : Bool) (ns : List RegName) : (s.revert b ns).mbs = s.mbs := rfl
@[simp] theorem revert_ledgers (s : State) (b : Bool) (ns : List RegName) : (s.revert b ns).ledgers = s.ledgers := rfl
@[simp] theorem revert_qConsumer (s : State) (b : Bool) (ns : List RegName) : (s.revert b ns).qConsumer = s.qConsumer := rfl
@[simp] theorem revert_remoteQs (s : State) (b : Bool) (ns : List RegName) : (s.revert b ns).remoteQs = s.remoteQs := rfl
@[simp] theorem revert_msPlaced (s : State) (b : Bool) (ns : List RegName) : (s.revert b ns).msPlaced = s.msPlaced := rfl
@[simp] theorem revert_sendWaits (s : State) (b : Bool) (ns : List RegName) : (s.revert b ns).sendWaits = s.sendWaits := rfl
@[simp] theorem revert_remoteSends (s : State) (b : Bool) (ns : List RegName) : (s.revert b ns).remoteSends = s.remoteSends := rfl
@[simp] theorem revert_tags (s : State) (b : Bool) (ns : List RegName) : (s.revert b ns).tags = s.tags := rfl
@[simp] theorem revert_tagWaits (s : State) (b : Bool) (ns : List RegName) : (s.revert b ns).tagWaits = s.tagWaits := rfl
@[simp] theorem revert_tagPrio (s : State) (b : Bool) (ns : List RegName) : (s.revert b ns).tagPrio = s.tagPrio := rfl
@[simp] theorem revert_masked (s : State) (b : Bool) (ns : List RegName) : (s.revert b ns).masked = s.masked := rfl
@[simp] theorem revert_fabDone (s : State) (b : Bool) (ns : List RegName) : (s.revert b ns).fabDone = s.fabDone := rfl
@[simp] theorem revert_xfers (s : State) (b : Bool) (ns : List RegName) : (s.revert b ns).xfers = s.xfers := rfl
@[simp] theorem revert_ports (s : State) (b : Bool) (ns : List RegName) : (s.revert b ns).ports = s.ports := rfl
@[simp] theorem revert_depots (s : State) (b : Bool) (ns : List RegName) : (s.revert b ns).depots = s.depots := rfl
@[simp] theorem revert_devRole (s : State) (b : Bool) (ns : List RegName) : (s.revert b ns).devRole = s.devRole := rfl
@[simp] theorem revert_devCount (s : State) (b : Bool) (ns : List RegName) : (s.revert b ns).devCount = s.devCount := rfl
@[simp] theorem revert_permJournal (s : State) (b : Bool) (ns : List RegName) : (s.revert b ns).permJournal = s.permJournal := rfl
@[simp] theorem revert_cols (s : State) (b : Bool) (ns : List RegName) : (s.revert b ns).cols = s.cols := rfl
@[simp] theorem revert_colEarly (s : State) (b : Bool) (ns : List RegName) : (s.revert b ns).colEarly = s.colEarly := rfl
@[simp] theorem revert_colTrigs (s : State) (b : Bool) (ns : List RegName) : (s.revert b ns).colTrigs = s.colTrigs := rfl
@[simp] theorem revert_vote (s : State) (b : Bool) (ns : List RegName) : (s.revert b ns).vote = s.vote := rfl
@[simp] theorem revert_rings (s : State) (b : Bool) (ns : List RegName) : (s.revert b ns).rings = s.rings := rfl
@[simp] theorem revert_copies (s : State) (b : Bool) (ns : List RegName) : (s.revert b ns).copies = s.copies := rfl
@[simp] theorem revert_turn (s : State) (b : Bool) (ns : List RegName) : (s.revert b ns).turn = s.turn := rfl
@[simp] theorem revert_channels (s : State) (b : Bool) (ns : List RegName) : (s.revert b ns).channels = s.channels := rfl
@[simp] theorem revert_barWaits (s : State) (b : Bool) (ns : List RegName) : (s.revert b ns).barWaits = s.barWaits := rfl
@[simp] theorem revert_journal (s : State) (b : Bool) (ns : List RegName) : (s.revert b ns).journal = s.journal := rfl
@[simp] theorem revert_oflQueue (s : State) (b : Bool) (ns : List RegName) : (s.revert b ns).oflQueue = s.oflQueue := rfl
@[simp] theorem revert_tensors (s : State) (b : Bool) (ns : List RegName) : (s.revert b ns).tensors = s.tensors := rfl
@[simp] theorem revert_engines (s : State) (b : Bool) (ns : List RegName) : (s.revert b ns).engines = s.engines := rfl
@[simp] theorem revert_cores (s : State) (b : Bool) (ns : List RegName) : (s.revert b ns).cores = s.cores := rfl
@[simp] theorem revert_scratch (s : State) (b : Bool) (ns : List RegName) : (s.revert b ns).scratch = s.scratch := rfl
@[simp] theorem revert_nextId (s : State) (b : Bool) (ns : List RegName) : (s.revert b ns).nextId = s.nextId := rfl
@[simp] theorem revert_dsps (s : State) (b : Bool) (ns : List RegName) : (s.revert b ns).dsps = s.dsps := rfl
@[simp] theorem revert_trigQueues (s : State) (b : Bool) (ns : List RegName) : (s.revert b ns).trigQueues = s.trigQueues := rfl
@[simp] theorem revert_updEngines (s : State) (b : Bool) (ns : List RegName) : (s.revert b ns).updEngines = s.updEngines := rfl
@[simp] theorem revert_inboxes (s : State) (b : Bool) (ns : List RegName) : (s.revert b ns).inboxes = s.inboxes := rfl
@[simp] theorem revert_loadJob (s : State) (b : Bool) (ns : List RegName) : (s.revert b ns).loadJob = s.loadJob := rfl
@[simp] theorem revert_unloads (s : State) (b : Bool) (ns : List RegName) : (s.revert b ns).unloads = s.unloads := rfl
@[simp] theorem revert_baseRoutes (s : State) (b : Bool) (ns : List RegName) : (s.revert b ns).baseRoutes = s.baseRoutes := rfl
@[simp] theorem revert_govs (s : State) (b : Bool) (ns : List RegName) : (s.revert b ns).govs = s.govs := rfl
@[simp] theorem revert_pkmBids (s : State) (b : Bool) (ns : List RegName) : (s.revert b ns).pkmBids = s.pkmBids := rfl
@[simp] theorem revert_pkmPast (s : State) (b : Bool) (ns : List RegName) : (s.revert b ns).pkmPast = s.pkmPast := rfl
@[simp] theorem revert_resetReq (s : State) (b : Bool) (ns : List RegName) : (s.revert b ns).resetReq = s.resetReq := rfl
@[simp] theorem revert_guestOut (s : State) (b : Bool) (ns : List RegName) : (s.revert b ns).guestOut = s.guestOut := rfl
@[simp] theorem revert_guestWait (s : State) (b : Bool) (ns : List RegName) : (s.revert b ns).guestWait = s.guestWait := rfl
@[simp] theorem revert_guestResp (s : State) (b : Bool) (ns : List RegName) : (s.revert b ns).guestResp = s.guestResp := rfl
@[simp] theorem revert_guestRun (s : State) (b : Bool) (ns : List RegName) : (s.revert b ns).guestRun = s.guestRun := rfl
@[simp] theorem revert_guestAsk (s : State) (b : Bool) (ns : List RegName) : (s.revert b ns).guestAsk = s.guestAsk := rfl
@[simp] theorem revert_cert (s : State) (b : Bool) (ns : List RegName) : (s.revert b ns).cert = s.cert := rfl
@[simp] theorem revert_flashOwn (s : State) (b : Bool) (ns : List RegName) : (s.revert b ns).flashOwn = s.flashOwn := rfl
@[simp] theorem revert_resetLow (s : State) (b : Bool) (ns : List RegName) : (s.revert b ns).resetLow = s.resetLow := rfl
@[simp] theorem revert_stuck (s : State) (b : Bool) (ns : List RegName) : (s.revert b ns).stuck = s.stuck := rfl
@[simp] theorem revert_svnTarget (s : State) (b : Bool) (ns : List RegName) : (s.revert b ns).svnTarget = s.svnTarget := rfl
@[simp] theorem revert_tokenIn (s : State) (b : Bool) (ns : List RegName) : (s.revert b ns).tokenIn = s.tokenIn := rfl
@[simp] theorem revert_smbAlert (s : State) (b : Bool) (ns : List RegName) : (s.revert b ns).smbAlert = s.smbAlert := rfl
@[simp] theorem revert_dynAddr (s : State) (b : Bool) (ns : List RegName) : (s.revert b ns).dynAddr = s.dynAddr := rfl
@[simp] theorem revert_sbBudget (s : State) (b : Bool) (ns : List RegName) : (s.revert b ns).sbBudget = s.sbBudget := rfl
@[simp] theorem revert_straps (s : State) (b : Bool) (ns : List RegName) : (s.revert b ns).straps = s.straps := rfl
@[simp] theorem revert_trip (s : State) (b : Bool) (ns : List RegName) : (s.revert b ns).trip = s.trip := rfl
@[simp] theorem revert_tapReset (s : State) (b : Bool) (ns : List RegName) : (s.revert b ns).tapReset = s.tapReset := rfl
@[simp] theorem revert_tapIr (s : State) (b : Bool) (ns : List RegName) : (s.revert b ns).tapIr = s.tapIr := rfl
@[simp] theorem revert_tapData (s : State) (b : Bool) (ns : List RegName) : (s.revert b ns).tapData = s.tapData := rfl
@[simp] theorem revert_lands (s : State) (b : Bool) (ns : List RegName) : (s.revert b ns).lands = s.lands := rfl
@[simp] theorem revert_busLate (s : State) (b : Bool) (ns : List RegName) : (s.revert b ns).busLate = s.busLate := rfl
@[simp] theorem revert_cntAt (s : State) (b : Bool) (ns : List RegName) : (s.revert b ns).cntAt = s.cntAt := rfl
@[simp] theorem revert_loadAt (s : State) (b : Bool) (ns : List RegName) : (s.revert b ns).loadAt = s.loadAt := rfl
@[simp] theorem revert_bootAt (s : State) (b : Bool) (ns : List RegName) : (s.revert b ns).bootAt = s.bootAt := rfl

/-! ### emit -/

@[simp] theorem emit_pending (s : State) (o : Out) : (s.emit o).pending = s.pending := rfl
@[simp] theorem emit_out (s : State) (o : Out) : (s.emit o).out = s.out ++ [o] := rfl
@[simp] theorem emit_now (s : State) (o : Out) : (s.emit o).now = s.now := rfl
@[simp] theorem emit_freeIx (s : State) (o : Out) : (s.emit o).freeIx = s.freeIx := rfl
@[simp] theorem emit_refLost (s : State) (o : Out) : (s.emit o).refLost = s.refLost := rfl
@[simp] theorem emit_jnl (s : State) (o : Out) : (s.emit o).jnl = s.jnl := rfl
@[simp] theorem emit_errBuf (s : State) (o : Out) : (s.emit o).errBuf = s.errBuf := rfl
@[simp] theorem emit_regs (s : State) (o : Out) : (s.emit o).regs = s.regs := rfl
@[simp] theorem emit_mem (s : State) (o : Out) : (s.emit o).mem = s.mem := rfl
@[simp] theorem emit_par (s : State) (o : Out) : (s.emit o).par = s.par := rfl
@[simp] theorem emit_glitch (s : State) (o : Out) : (s.emit o).glitch = s.glitch := rfl
@[simp] theorem emit_faults (s : State) (o : Out) : (s.emit o).faults = s.faults := rfl
@[simp] theorem emit_flits (s : State) (o : Out) : (s.emit o).flits = s.flits := rfl
@[simp] theorem emit_stackWin (s : State) (o : Out) : (s.emit o).stackWin = s.stackWin := rfl
@[simp] theorem emit_held (s : State) (o : Out) : (s.emit o).held = s.held := rfl
@[simp] theorem emit_tripped (s : State) (o : Out) : (s.emit o).tripped = s.tripped := rfl
@[simp] theorem emit_stages (s : State) (o : Out) : (s.emit o).stages = s.stages := rfl
@[simp] theorem emit_mbs (s : State) (o : Out) : (s.emit o).mbs = s.mbs := rfl
@[simp] theorem emit_ledgers (s : State) (o : Out) : (s.emit o).ledgers = s.ledgers := rfl
@[simp] theorem emit_qConsumer (s : State) (o : Out) : (s.emit o).qConsumer = s.qConsumer := rfl
@[simp] theorem emit_remoteQs (s : State) (o : Out) : (s.emit o).remoteQs = s.remoteQs := rfl
@[simp] theorem emit_msPlaced (s : State) (o : Out) : (s.emit o).msPlaced = s.msPlaced := rfl
@[simp] theorem emit_sendWaits (s : State) (o : Out) : (s.emit o).sendWaits = s.sendWaits := rfl
@[simp] theorem emit_remoteSends (s : State) (o : Out) : (s.emit o).remoteSends = s.remoteSends := rfl
@[simp] theorem emit_tags (s : State) (o : Out) : (s.emit o).tags = s.tags := rfl
@[simp] theorem emit_tagWaits (s : State) (o : Out) : (s.emit o).tagWaits = s.tagWaits := rfl
@[simp] theorem emit_tagPrio (s : State) (o : Out) : (s.emit o).tagPrio = s.tagPrio := rfl
@[simp] theorem emit_masked (s : State) (o : Out) : (s.emit o).masked = s.masked := rfl
@[simp] theorem emit_fabDone (s : State) (o : Out) : (s.emit o).fabDone = s.fabDone := rfl
@[simp] theorem emit_xfers (s : State) (o : Out) : (s.emit o).xfers = s.xfers := rfl
@[simp] theorem emit_ports (s : State) (o : Out) : (s.emit o).ports = s.ports := rfl
@[simp] theorem emit_depots (s : State) (o : Out) : (s.emit o).depots = s.depots := rfl
@[simp] theorem emit_devRole (s : State) (o : Out) : (s.emit o).devRole = s.devRole := rfl
@[simp] theorem emit_devCount (s : State) (o : Out) : (s.emit o).devCount = s.devCount := rfl
@[simp] theorem emit_permJournal (s : State) (o : Out) : (s.emit o).permJournal = s.permJournal := rfl
@[simp] theorem emit_cols (s : State) (o : Out) : (s.emit o).cols = s.cols := rfl
@[simp] theorem emit_colEarly (s : State) (o : Out) : (s.emit o).colEarly = s.colEarly := rfl
@[simp] theorem emit_colTrigs (s : State) (o : Out) : (s.emit o).colTrigs = s.colTrigs := rfl
@[simp] theorem emit_vote (s : State) (o : Out) : (s.emit o).vote = s.vote := rfl
@[simp] theorem emit_rings (s : State) (o : Out) : (s.emit o).rings = s.rings := rfl
@[simp] theorem emit_copies (s : State) (o : Out) : (s.emit o).copies = s.copies := rfl
@[simp] theorem emit_turn (s : State) (o : Out) : (s.emit o).turn = s.turn := rfl
@[simp] theorem emit_channels (s : State) (o : Out) : (s.emit o).channels = s.channels := rfl
@[simp] theorem emit_barWaits (s : State) (o : Out) : (s.emit o).barWaits = s.barWaits := rfl
@[simp] theorem emit_journal (s : State) (o : Out) : (s.emit o).journal = s.journal := rfl
@[simp] theorem emit_oflQueue (s : State) (o : Out) : (s.emit o).oflQueue = s.oflQueue := rfl
@[simp] theorem emit_tensors (s : State) (o : Out) : (s.emit o).tensors = s.tensors := rfl
@[simp] theorem emit_engines (s : State) (o : Out) : (s.emit o).engines = s.engines := rfl
@[simp] theorem emit_cores (s : State) (o : Out) : (s.emit o).cores = s.cores := rfl
@[simp] theorem emit_scratch (s : State) (o : Out) : (s.emit o).scratch = s.scratch := rfl
@[simp] theorem emit_nextId (s : State) (o : Out) : (s.emit o).nextId = s.nextId := rfl
@[simp] theorem emit_dsps (s : State) (o : Out) : (s.emit o).dsps = s.dsps := rfl
@[simp] theorem emit_trigQueues (s : State) (o : Out) : (s.emit o).trigQueues = s.trigQueues := rfl
@[simp] theorem emit_updEngines (s : State) (o : Out) : (s.emit o).updEngines = s.updEngines := rfl
@[simp] theorem emit_inboxes (s : State) (o : Out) : (s.emit o).inboxes = s.inboxes := rfl
@[simp] theorem emit_loadJob (s : State) (o : Out) : (s.emit o).loadJob = s.loadJob := rfl
@[simp] theorem emit_unloads (s : State) (o : Out) : (s.emit o).unloads = s.unloads := rfl
@[simp] theorem emit_baseRoutes (s : State) (o : Out) : (s.emit o).baseRoutes = s.baseRoutes := rfl
@[simp] theorem emit_govs (s : State) (o : Out) : (s.emit o).govs = s.govs := rfl
@[simp] theorem emit_pkmBids (s : State) (o : Out) : (s.emit o).pkmBids = s.pkmBids := rfl
@[simp] theorem emit_pkmPast (s : State) (o : Out) : (s.emit o).pkmPast = s.pkmPast := rfl
@[simp] theorem emit_resetReq (s : State) (o : Out) : (s.emit o).resetReq = s.resetReq := rfl
@[simp] theorem emit_guestOut (s : State) (o : Out) : (s.emit o).guestOut = s.guestOut := rfl
@[simp] theorem emit_guestWait (s : State) (o : Out) : (s.emit o).guestWait = s.guestWait := rfl
@[simp] theorem emit_guestResp (s : State) (o : Out) : (s.emit o).guestResp = s.guestResp := rfl
@[simp] theorem emit_guestRun (s : State) (o : Out) : (s.emit o).guestRun = s.guestRun := rfl
@[simp] theorem emit_guestAsk (s : State) (o : Out) : (s.emit o).guestAsk = s.guestAsk := rfl
@[simp] theorem emit_cert (s : State) (o : Out) : (s.emit o).cert = s.cert := rfl
@[simp] theorem emit_flashOwn (s : State) (o : Out) : (s.emit o).flashOwn = s.flashOwn := rfl
@[simp] theorem emit_resetLow (s : State) (o : Out) : (s.emit o).resetLow = s.resetLow := rfl
@[simp] theorem emit_stuck (s : State) (o : Out) : (s.emit o).stuck = s.stuck := rfl
@[simp] theorem emit_svnTarget (s : State) (o : Out) : (s.emit o).svnTarget = s.svnTarget := rfl
@[simp] theorem emit_tokenIn (s : State) (o : Out) : (s.emit o).tokenIn = s.tokenIn := rfl
@[simp] theorem emit_smbAlert (s : State) (o : Out) : (s.emit o).smbAlert = s.smbAlert := rfl
@[simp] theorem emit_dynAddr (s : State) (o : Out) : (s.emit o).dynAddr = s.dynAddr := rfl
@[simp] theorem emit_sbBudget (s : State) (o : Out) : (s.emit o).sbBudget = s.sbBudget := rfl
@[simp] theorem emit_straps (s : State) (o : Out) : (s.emit o).straps = s.straps := rfl
@[simp] theorem emit_trip (s : State) (o : Out) : (s.emit o).trip = s.trip := rfl
@[simp] theorem emit_tapReset (s : State) (o : Out) : (s.emit o).tapReset = s.tapReset := rfl
@[simp] theorem emit_tapIr (s : State) (o : Out) : (s.emit o).tapIr = s.tapIr := rfl
@[simp] theorem emit_tapData (s : State) (o : Out) : (s.emit o).tapData = s.tapData := rfl
@[simp] theorem emit_lands (s : State) (o : Out) : (s.emit o).lands = s.lands := rfl
@[simp] theorem emit_busLate (s : State) (o : Out) : (s.emit o).busLate = s.busLate := rfl
@[simp] theorem emit_cntAt (s : State) (o : Out) : (s.emit o).cntAt = s.cntAt := rfl
@[simp] theorem emit_loadAt (s : State) (o : Out) : (s.emit o).loadAt = s.loadAt := rfl
@[simp] theorem emit_bootAt (s : State) (o : Out) : (s.emit o).bootAt = s.bootAt := rfl

/-! ### answer -/

@[simp] theorem answer_pending (s : State) (st : Nat) (v : Word) : (s.answer st v).pending = s.pending := rfl
@[simp] theorem answer_out (s : State) (st : Nat) (v : Word) : (s.answer st v).out = s.out ++ [.access st v] := rfl
@[simp] theorem answer_now (s : State) (st : Nat) (v : Word) : (s.answer st v).now = s.now := rfl
@[simp] theorem answer_freeIx (s : State) (st : Nat) (v : Word) : (s.answer st v).freeIx = s.freeIx := rfl
@[simp] theorem answer_refLost (s : State) (st : Nat) (v : Word) : (s.answer st v).refLost = s.refLost := rfl
@[simp] theorem answer_jnl (s : State) (st : Nat) (v : Word) : (s.answer st v).jnl = s.jnl := rfl
@[simp] theorem answer_errBuf (s : State) (st : Nat) (v : Word) : (s.answer st v).errBuf = s.errBuf := rfl
@[simp] theorem answer_regs (s : State) (st : Nat) (v : Word) : (s.answer st v).regs = s.regs := rfl
@[simp] theorem answer_mem (s : State) (st : Nat) (v : Word) : (s.answer st v).mem = s.mem := rfl
@[simp] theorem answer_par (s : State) (st : Nat) (v : Word) : (s.answer st v).par = s.par := rfl
@[simp] theorem answer_glitch (s : State) (st : Nat) (v : Word) : (s.answer st v).glitch = s.glitch := rfl
@[simp] theorem answer_faults (s : State) (st : Nat) (v : Word) : (s.answer st v).faults = s.faults := rfl
@[simp] theorem answer_flits (s : State) (st : Nat) (v : Word) : (s.answer st v).flits = s.flits := rfl
@[simp] theorem answer_stackWin (s : State) (st : Nat) (v : Word) : (s.answer st v).stackWin = s.stackWin := rfl
@[simp] theorem answer_held (s : State) (st : Nat) (v : Word) : (s.answer st v).held = s.held := rfl
@[simp] theorem answer_tripped (s : State) (st : Nat) (v : Word) : (s.answer st v).tripped = s.tripped := rfl
@[simp] theorem answer_stages (s : State) (st : Nat) (v : Word) : (s.answer st v).stages = s.stages := rfl
@[simp] theorem answer_mbs (s : State) (st : Nat) (v : Word) : (s.answer st v).mbs = s.mbs := rfl
@[simp] theorem answer_ledgers (s : State) (st : Nat) (v : Word) : (s.answer st v).ledgers = s.ledgers := rfl
@[simp] theorem answer_qConsumer (s : State) (st : Nat) (v : Word) : (s.answer st v).qConsumer = s.qConsumer := rfl
@[simp] theorem answer_remoteQs (s : State) (st : Nat) (v : Word) : (s.answer st v).remoteQs = s.remoteQs := rfl
@[simp] theorem answer_msPlaced (s : State) (st : Nat) (v : Word) : (s.answer st v).msPlaced = s.msPlaced := rfl
@[simp] theorem answer_sendWaits (s : State) (st : Nat) (v : Word) : (s.answer st v).sendWaits = s.sendWaits := rfl
@[simp] theorem answer_remoteSends (s : State) (st : Nat) (v : Word) : (s.answer st v).remoteSends = s.remoteSends := rfl
@[simp] theorem answer_tags (s : State) (st : Nat) (v : Word) : (s.answer st v).tags = s.tags := rfl
@[simp] theorem answer_tagWaits (s : State) (st : Nat) (v : Word) : (s.answer st v).tagWaits = s.tagWaits := rfl
@[simp] theorem answer_tagPrio (s : State) (st : Nat) (v : Word) : (s.answer st v).tagPrio = s.tagPrio := rfl
@[simp] theorem answer_masked (s : State) (st : Nat) (v : Word) : (s.answer st v).masked = s.masked := rfl
@[simp] theorem answer_fabDone (s : State) (st : Nat) (v : Word) : (s.answer st v).fabDone = s.fabDone := rfl
@[simp] theorem answer_xfers (s : State) (st : Nat) (v : Word) : (s.answer st v).xfers = s.xfers := rfl
@[simp] theorem answer_ports (s : State) (st : Nat) (v : Word) : (s.answer st v).ports = s.ports := rfl
@[simp] theorem answer_depots (s : State) (st : Nat) (v : Word) : (s.answer st v).depots = s.depots := rfl
@[simp] theorem answer_devRole (s : State) (st : Nat) (v : Word) : (s.answer st v).devRole = s.devRole := rfl
@[simp] theorem answer_devCount (s : State) (st : Nat) (v : Word) : (s.answer st v).devCount = s.devCount := rfl
@[simp] theorem answer_permJournal (s : State) (st : Nat) (v : Word) : (s.answer st v).permJournal = s.permJournal := rfl
@[simp] theorem answer_cols (s : State) (st : Nat) (v : Word) : (s.answer st v).cols = s.cols := rfl
@[simp] theorem answer_colEarly (s : State) (st : Nat) (v : Word) : (s.answer st v).colEarly = s.colEarly := rfl
@[simp] theorem answer_colTrigs (s : State) (st : Nat) (v : Word) : (s.answer st v).colTrigs = s.colTrigs := rfl
@[simp] theorem answer_vote (s : State) (st : Nat) (v : Word) : (s.answer st v).vote = s.vote := rfl
@[simp] theorem answer_rings (s : State) (st : Nat) (v : Word) : (s.answer st v).rings = s.rings := rfl
@[simp] theorem answer_copies (s : State) (st : Nat) (v : Word) : (s.answer st v).copies = s.copies := rfl
@[simp] theorem answer_turn (s : State) (st : Nat) (v : Word) : (s.answer st v).turn = s.turn := rfl
@[simp] theorem answer_channels (s : State) (st : Nat) (v : Word) : (s.answer st v).channels = s.channels := rfl
@[simp] theorem answer_barWaits (s : State) (st : Nat) (v : Word) : (s.answer st v).barWaits = s.barWaits := rfl
@[simp] theorem answer_journal (s : State) (st : Nat) (v : Word) : (s.answer st v).journal = s.journal := rfl
@[simp] theorem answer_oflQueue (s : State) (st : Nat) (v : Word) : (s.answer st v).oflQueue = s.oflQueue := rfl
@[simp] theorem answer_tensors (s : State) (st : Nat) (v : Word) : (s.answer st v).tensors = s.tensors := rfl
@[simp] theorem answer_engines (s : State) (st : Nat) (v : Word) : (s.answer st v).engines = s.engines := rfl
@[simp] theorem answer_cores (s : State) (st : Nat) (v : Word) : (s.answer st v).cores = s.cores := rfl
@[simp] theorem answer_scratch (s : State) (st : Nat) (v : Word) : (s.answer st v).scratch = s.scratch := rfl
@[simp] theorem answer_nextId (s : State) (st : Nat) (v : Word) : (s.answer st v).nextId = s.nextId := rfl
@[simp] theorem answer_dsps (s : State) (st : Nat) (v : Word) : (s.answer st v).dsps = s.dsps := rfl
@[simp] theorem answer_trigQueues (s : State) (st : Nat) (v : Word) : (s.answer st v).trigQueues = s.trigQueues := rfl
@[simp] theorem answer_updEngines (s : State) (st : Nat) (v : Word) : (s.answer st v).updEngines = s.updEngines := rfl
@[simp] theorem answer_inboxes (s : State) (st : Nat) (v : Word) : (s.answer st v).inboxes = s.inboxes := rfl
@[simp] theorem answer_loadJob (s : State) (st : Nat) (v : Word) : (s.answer st v).loadJob = s.loadJob := rfl
@[simp] theorem answer_unloads (s : State) (st : Nat) (v : Word) : (s.answer st v).unloads = s.unloads := rfl
@[simp] theorem answer_baseRoutes (s : State) (st : Nat) (v : Word) : (s.answer st v).baseRoutes = s.baseRoutes := rfl
@[simp] theorem answer_govs (s : State) (st : Nat) (v : Word) : (s.answer st v).govs = s.govs := rfl
@[simp] theorem answer_pkmBids (s : State) (st : Nat) (v : Word) : (s.answer st v).pkmBids = s.pkmBids := rfl
@[simp] theorem answer_pkmPast (s : State) (st : Nat) (v : Word) : (s.answer st v).pkmPast = s.pkmPast := rfl
@[simp] theorem answer_resetReq (s : State) (st : Nat) (v : Word) : (s.answer st v).resetReq = s.resetReq := rfl
@[simp] theorem answer_guestOut (s : State) (st : Nat) (v : Word) : (s.answer st v).guestOut = s.guestOut := rfl
@[simp] theorem answer_guestWait (s : State) (st : Nat) (v : Word) : (s.answer st v).guestWait = s.guestWait := rfl
@[simp] theorem answer_guestResp (s : State) (st : Nat) (v : Word) : (s.answer st v).guestResp = s.guestResp := rfl
@[simp] theorem answer_guestRun (s : State) (st : Nat) (v : Word) : (s.answer st v).guestRun = s.guestRun := rfl
@[simp] theorem answer_guestAsk (s : State) (st : Nat) (v : Word) : (s.answer st v).guestAsk = s.guestAsk := rfl
@[simp] theorem answer_cert (s : State) (st : Nat) (v : Word) : (s.answer st v).cert = s.cert := rfl
@[simp] theorem answer_flashOwn (s : State) (st : Nat) (v : Word) : (s.answer st v).flashOwn = s.flashOwn := rfl
@[simp] theorem answer_resetLow (s : State) (st : Nat) (v : Word) : (s.answer st v).resetLow = s.resetLow := rfl
@[simp] theorem answer_stuck (s : State) (st : Nat) (v : Word) : (s.answer st v).stuck = s.stuck := rfl
@[simp] theorem answer_svnTarget (s : State) (st : Nat) (v : Word) : (s.answer st v).svnTarget = s.svnTarget := rfl
@[simp] theorem answer_tokenIn (s : State) (st : Nat) (v : Word) : (s.answer st v).tokenIn = s.tokenIn := rfl
@[simp] theorem answer_smbAlert (s : State) (st : Nat) (v : Word) : (s.answer st v).smbAlert = s.smbAlert := rfl
@[simp] theorem answer_dynAddr (s : State) (st : Nat) (v : Word) : (s.answer st v).dynAddr = s.dynAddr := rfl
@[simp] theorem answer_sbBudget (s : State) (st : Nat) (v : Word) : (s.answer st v).sbBudget = s.sbBudget := rfl
@[simp] theorem answer_straps (s : State) (st : Nat) (v : Word) : (s.answer st v).straps = s.straps := rfl
@[simp] theorem answer_trip (s : State) (st : Nat) (v : Word) : (s.answer st v).trip = s.trip := rfl
@[simp] theorem answer_tapReset (s : State) (st : Nat) (v : Word) : (s.answer st v).tapReset = s.tapReset := rfl
@[simp] theorem answer_tapIr (s : State) (st : Nat) (v : Word) : (s.answer st v).tapIr = s.tapIr := rfl
@[simp] theorem answer_tapData (s : State) (st : Nat) (v : Word) : (s.answer st v).tapData = s.tapData := rfl
@[simp] theorem answer_lands (s : State) (st : Nat) (v : Word) : (s.answer st v).lands = s.lands := rfl
@[simp] theorem answer_busLate (s : State) (st : Nat) (v : Word) : (s.answer st v).busLate = s.busLate := rfl
@[simp] theorem answer_cntAt (s : State) (st : Nat) (v : Word) : (s.answer st v).cntAt = s.cntAt := rfl
@[simp] theorem answer_loadAt (s : State) (st : Nat) (v : Word) : (s.answer st v).loadAt = s.loadAt := rfl
@[simp] theorem answer_bootAt (s : State) (st : Nat) (v : Word) : (s.answer st v).bootAt = s.bootAt := rfl

/-! ### logEnt -/

@[simp] theorem logEnt_pending (s : State) (lg blk ev : Nat) (e : EvInfo) : (s.logEnt lg blk ev e).pending = s.pending := rfl
@[simp] theorem logEnt_out (s : State) (lg blk ev : Nat) (e : EvInfo) : (s.logEnt lg blk ev e).out = s.out := rfl
@[simp] theorem logEnt_now (s : State) (lg blk ev : Nat) (e : EvInfo) : (s.logEnt lg blk ev e).now = s.now := rfl
@[simp] theorem logEnt_freeIx (s : State) (lg blk ev : Nat) (e : EvInfo) : (s.logEnt lg blk ev e).freeIx = s.freeIx := rfl
@[simp] theorem logEnt_refLost (s : State) (lg blk ev : Nat) (e : EvInfo) : (s.logEnt lg blk ev e).refLost = s.refLost := rfl
@[simp] theorem logEnt_jnl (s : State) (lg blk ev : Nat) (e : EvInfo) : (s.logEnt lg blk ev e).jnl = s.jnl := rfl
@[simp] theorem logEnt_regs (s : State) (lg blk ev : Nat) (e : EvInfo) : (s.logEnt lg blk ev e).regs = s.regs := rfl
@[simp] theorem logEnt_mem (s : State) (lg blk ev : Nat) (e : EvInfo) : (s.logEnt lg blk ev e).mem = s.mem := rfl
@[simp] theorem logEnt_par (s : State) (lg blk ev : Nat) (e : EvInfo) : (s.logEnt lg blk ev e).par = s.par := rfl
@[simp] theorem logEnt_glitch (s : State) (lg blk ev : Nat) (e : EvInfo) : (s.logEnt lg blk ev e).glitch = s.glitch := rfl
@[simp] theorem logEnt_faults (s : State) (lg blk ev : Nat) (e : EvInfo) : (s.logEnt lg blk ev e).faults = s.faults := rfl
@[simp] theorem logEnt_flits (s : State) (lg blk ev : Nat) (e : EvInfo) : (s.logEnt lg blk ev e).flits = s.flits := rfl
@[simp] theorem logEnt_stackWin (s : State) (lg blk ev : Nat) (e : EvInfo) : (s.logEnt lg blk ev e).stackWin = s.stackWin := rfl
@[simp] theorem logEnt_held (s : State) (lg blk ev : Nat) (e : EvInfo) : (s.logEnt lg blk ev e).held = s.held := rfl
@[simp] theorem logEnt_tripped (s : State) (lg blk ev : Nat) (e : EvInfo) : (s.logEnt lg blk ev e).tripped = s.tripped := rfl
@[simp] theorem logEnt_stages (s : State) (lg blk ev : Nat) (e : EvInfo) : (s.logEnt lg blk ev e).stages = s.stages := rfl
@[simp] theorem logEnt_mbs (s : State) (lg blk ev : Nat) (e : EvInfo) : (s.logEnt lg blk ev e).mbs = s.mbs := rfl
@[simp] theorem logEnt_ledgers (s : State) (lg blk ev : Nat) (e : EvInfo) : (s.logEnt lg blk ev e).ledgers = s.ledgers := rfl
@[simp] theorem logEnt_qConsumer (s : State) (lg blk ev : Nat) (e : EvInfo) : (s.logEnt lg blk ev e).qConsumer = s.qConsumer := rfl
@[simp] theorem logEnt_remoteQs (s : State) (lg blk ev : Nat) (e : EvInfo) : (s.logEnt lg blk ev e).remoteQs = s.remoteQs := rfl
@[simp] theorem logEnt_msPlaced (s : State) (lg blk ev : Nat) (e : EvInfo) : (s.logEnt lg blk ev e).msPlaced = s.msPlaced := rfl
@[simp] theorem logEnt_sendWaits (s : State) (lg blk ev : Nat) (e : EvInfo) : (s.logEnt lg blk ev e).sendWaits = s.sendWaits := rfl
@[simp] theorem logEnt_remoteSends (s : State) (lg blk ev : Nat) (e : EvInfo) : (s.logEnt lg blk ev e).remoteSends = s.remoteSends := rfl
@[simp] theorem logEnt_tags (s : State) (lg blk ev : Nat) (e : EvInfo) : (s.logEnt lg blk ev e).tags = s.tags := rfl
@[simp] theorem logEnt_tagWaits (s : State) (lg blk ev : Nat) (e : EvInfo) : (s.logEnt lg blk ev e).tagWaits = s.tagWaits := rfl
@[simp] theorem logEnt_tagPrio (s : State) (lg blk ev : Nat) (e : EvInfo) : (s.logEnt lg blk ev e).tagPrio = s.tagPrio := rfl
@[simp] theorem logEnt_masked (s : State) (lg blk ev : Nat) (e : EvInfo) : (s.logEnt lg blk ev e).masked = s.masked := rfl
@[simp] theorem logEnt_fabDone (s : State) (lg blk ev : Nat) (e : EvInfo) : (s.logEnt lg blk ev e).fabDone = s.fabDone := rfl
@[simp] theorem logEnt_xfers (s : State) (lg blk ev : Nat) (e : EvInfo) : (s.logEnt lg blk ev e).xfers = s.xfers := rfl
@[simp] theorem logEnt_ports (s : State) (lg blk ev : Nat) (e : EvInfo) : (s.logEnt lg blk ev e).ports = s.ports := rfl
@[simp] theorem logEnt_depots (s : State) (lg blk ev : Nat) (e : EvInfo) : (s.logEnt lg blk ev e).depots = s.depots := rfl
@[simp] theorem logEnt_devRole (s : State) (lg blk ev : Nat) (e : EvInfo) : (s.logEnt lg blk ev e).devRole = s.devRole := rfl
@[simp] theorem logEnt_devCount (s : State) (lg blk ev : Nat) (e : EvInfo) : (s.logEnt lg blk ev e).devCount = s.devCount := rfl
@[simp] theorem logEnt_permJournal (s : State) (lg blk ev : Nat) (e : EvInfo) : (s.logEnt lg blk ev e).permJournal = s.permJournal := rfl
@[simp] theorem logEnt_cols (s : State) (lg blk ev : Nat) (e : EvInfo) : (s.logEnt lg blk ev e).cols = s.cols := rfl
@[simp] theorem logEnt_colEarly (s : State) (lg blk ev : Nat) (e : EvInfo) : (s.logEnt lg blk ev e).colEarly = s.colEarly := rfl
@[simp] theorem logEnt_colTrigs (s : State) (lg blk ev : Nat) (e : EvInfo) : (s.logEnt lg blk ev e).colTrigs = s.colTrigs := rfl
@[simp] theorem logEnt_vote (s : State) (lg blk ev : Nat) (e : EvInfo) : (s.logEnt lg blk ev e).vote = s.vote := rfl
@[simp] theorem logEnt_rings (s : State) (lg blk ev : Nat) (e : EvInfo) : (s.logEnt lg blk ev e).rings = s.rings := rfl
@[simp] theorem logEnt_copies (s : State) (lg blk ev : Nat) (e : EvInfo) : (s.logEnt lg blk ev e).copies = s.copies := rfl
@[simp] theorem logEnt_turn (s : State) (lg blk ev : Nat) (e : EvInfo) : (s.logEnt lg blk ev e).turn = s.turn := rfl
@[simp] theorem logEnt_channels (s : State) (lg blk ev : Nat) (e : EvInfo) : (s.logEnt lg blk ev e).channels = s.channels := rfl
@[simp] theorem logEnt_barWaits (s : State) (lg blk ev : Nat) (e : EvInfo) : (s.logEnt lg blk ev e).barWaits = s.barWaits := rfl
@[simp] theorem logEnt_journal (s : State) (lg blk ev : Nat) (e : EvInfo) : (s.logEnt lg blk ev e).journal = s.journal := rfl
@[simp] theorem logEnt_oflQueue (s : State) (lg blk ev : Nat) (e : EvInfo) : (s.logEnt lg blk ev e).oflQueue = s.oflQueue := rfl
@[simp] theorem logEnt_tensors (s : State) (lg blk ev : Nat) (e : EvInfo) : (s.logEnt lg blk ev e).tensors = s.tensors := rfl
@[simp] theorem logEnt_engines (s : State) (lg blk ev : Nat) (e : EvInfo) : (s.logEnt lg blk ev e).engines = s.engines := rfl
@[simp] theorem logEnt_cores (s : State) (lg blk ev : Nat) (e : EvInfo) : (s.logEnt lg blk ev e).cores = s.cores := rfl
@[simp] theorem logEnt_scratch (s : State) (lg blk ev : Nat) (e : EvInfo) : (s.logEnt lg blk ev e).scratch = s.scratch := rfl
@[simp] theorem logEnt_nextId (s : State) (lg blk ev : Nat) (e : EvInfo) : (s.logEnt lg blk ev e).nextId = s.nextId := rfl
@[simp] theorem logEnt_dsps (s : State) (lg blk ev : Nat) (e : EvInfo) : (s.logEnt lg blk ev e).dsps = s.dsps := rfl
@[simp] theorem logEnt_trigQueues (s : State) (lg blk ev : Nat) (e : EvInfo) : (s.logEnt lg blk ev e).trigQueues = s.trigQueues := rfl
@[simp] theorem logEnt_updEngines (s : State) (lg blk ev : Nat) (e : EvInfo) : (s.logEnt lg blk ev e).updEngines = s.updEngines := rfl
@[simp] theorem logEnt_inboxes (s : State) (lg blk ev : Nat) (e : EvInfo) : (s.logEnt lg blk ev e).inboxes = s.inboxes := rfl
@[simp] theorem logEnt_loadJob (s : State) (lg blk ev : Nat) (e : EvInfo) : (s.logEnt lg blk ev e).loadJob = s.loadJob := rfl
@[simp] theorem logEnt_unloads (s : State) (lg blk ev : Nat) (e : EvInfo) : (s.logEnt lg blk ev e).unloads = s.unloads := rfl
@[simp] theorem logEnt_baseRoutes (s : State) (lg blk ev : Nat) (e : EvInfo) : (s.logEnt lg blk ev e).baseRoutes = s.baseRoutes := rfl
@[simp] theorem logEnt_govs (s : State) (lg blk ev : Nat) (e : EvInfo) : (s.logEnt lg blk ev e).govs = s.govs := rfl
@[simp] theorem logEnt_pkmBids (s : State) (lg blk ev : Nat) (e : EvInfo) : (s.logEnt lg blk ev e).pkmBids = s.pkmBids := rfl
@[simp] theorem logEnt_pkmPast (s : State) (lg blk ev : Nat) (e : EvInfo) : (s.logEnt lg blk ev e).pkmPast = s.pkmPast := rfl
@[simp] theorem logEnt_resetReq (s : State) (lg blk ev : Nat) (e : EvInfo) : (s.logEnt lg blk ev e).resetReq = s.resetReq := rfl
@[simp] theorem logEnt_guestOut (s : State) (lg blk ev : Nat) (e : EvInfo) : (s.logEnt lg blk ev e).guestOut = s.guestOut := rfl
@[simp] theorem logEnt_guestWait (s : State) (lg blk ev : Nat) (e : EvInfo) : (s.logEnt lg blk ev e).guestWait = s.guestWait := rfl
@[simp] theorem logEnt_guestResp (s : State) (lg blk ev : Nat) (e : EvInfo) : (s.logEnt lg blk ev e).guestResp = s.guestResp := rfl
@[simp] theorem logEnt_guestRun (s : State) (lg blk ev : Nat) (e : EvInfo) : (s.logEnt lg blk ev e).guestRun = s.guestRun := rfl
@[simp] theorem logEnt_guestAsk (s : State) (lg blk ev : Nat) (e : EvInfo) : (s.logEnt lg blk ev e).guestAsk = s.guestAsk := rfl
@[simp] theorem logEnt_cert (s : State) (lg blk ev : Nat) (e : EvInfo) : (s.logEnt lg blk ev e).cert = s.cert := rfl
@[simp] theorem logEnt_flashOwn (s : State) (lg blk ev : Nat) (e : EvInfo) : (s.logEnt lg blk ev e).flashOwn = s.flashOwn := rfl
@[simp] theorem logEnt_resetLow (s : State) (lg blk ev : Nat) (e : EvInfo) : (s.logEnt lg blk ev e).resetLow = s.resetLow := rfl
@[simp] theorem logEnt_stuck (s : State) (lg blk ev : Nat) (e : EvInfo) : (s.logEnt lg blk ev e).stuck = s.stuck := rfl
@[simp] theorem logEnt_svnTarget (s : State) (lg blk ev : Nat) (e : EvInfo) : (s.logEnt lg blk ev e).svnTarget = s.svnTarget := rfl
@[simp] theorem logEnt_tokenIn (s : State) (lg blk ev : Nat) (e : EvInfo) : (s.logEnt lg blk ev e).tokenIn = s.tokenIn := rfl
@[simp] theorem logEnt_smbAlert (s : State) (lg blk ev : Nat) (e : EvInfo) : (s.logEnt lg blk ev e).smbAlert = s.smbAlert := rfl
@[simp] theorem logEnt_dynAddr (s : State) (lg blk ev : Nat) (e : EvInfo) : (s.logEnt lg blk ev e).dynAddr = s.dynAddr := rfl
@[simp] theorem logEnt_sbBudget (s : State) (lg blk ev : Nat) (e : EvInfo) : (s.logEnt lg blk ev e).sbBudget = s.sbBudget := rfl
@[simp] theorem logEnt_straps (s : State) (lg blk ev : Nat) (e : EvInfo) : (s.logEnt lg blk ev e).straps = s.straps := rfl
@[simp] theorem logEnt_trip (s : State) (lg blk ev : Nat) (e : EvInfo) : (s.logEnt lg blk ev e).trip = s.trip := rfl
@[simp] theorem logEnt_tapReset (s : State) (lg blk ev : Nat) (e : EvInfo) : (s.logEnt lg blk ev e).tapReset = s.tapReset := rfl
@[simp] theorem logEnt_tapIr (s : State) (lg blk ev : Nat) (e : EvInfo) : (s.logEnt lg blk ev e).tapIr = s.tapIr := rfl
@[simp] theorem logEnt_tapData (s : State) (lg blk ev : Nat) (e : EvInfo) : (s.logEnt lg blk ev e).tapData = s.tapData := rfl
@[simp] theorem logEnt_lands (s : State) (lg blk ev : Nat) (e : EvInfo) : (s.logEnt lg blk ev e).lands = s.lands := rfl
@[simp] theorem logEnt_busLate (s : State) (lg blk ev : Nat) (e : EvInfo) : (s.logEnt lg blk ev e).busLate = s.busLate := rfl
@[simp] theorem logEnt_cntAt (s : State) (lg blk ev : Nat) (e : EvInfo) : (s.logEnt lg blk ev e).cntAt = s.cntAt := rfl
@[simp] theorem logEnt_loadAt (s : State) (lg blk ev : Nat) (e : EvInfo) : (s.logEnt lg blk ev e).loadAt = s.loadAt := rfl
@[simp] theorem logEnt_bootAt (s : State) (lg blk ev : Nat) (e : EvInfo) : (s.logEnt lg blk ev e).bootAt = s.bootAt := rfl

/-! ### free -/

@[simp] theorem free_pending (s : State) : (s.free.2).pending = s.pending := rfl
@[simp] theorem free_out (s : State) : (s.free.2).out = s.out := rfl
@[simp] theorem free_now (s : State) : (s.free.2).now = s.now := rfl
@[simp] theorem free_freeIx (s : State) : (s.free.2).freeIx = s.freeIx + 1 := rfl
@[simp] theorem free_refLost (s : State) : (s.free.2).refLost = s.refLost := rfl
@[simp] theorem free_jnl (s : State) : (s.free.2).jnl = s.jnl := rfl
@[simp] theorem free_errBuf (s : State) : (s.free.2).errBuf = s.errBuf := rfl
@[simp] theorem free_regs (s : State) : (s.free.2).regs = s.regs := rfl
@[simp] theorem free_mem (s : State) : (s.free.2).mem = s.mem := rfl
@[simp] theorem free_par (s : State) : (s.free.2).par = s.par := rfl
@[simp] theorem free_glitch (s : State) : (s.free.2).glitch = s.glitch := rfl
@[simp] theorem free_faults (s : State) : (s.free.2).faults = s.faults := rfl
@[simp] theorem free_flits (s : State) : (s.free.2).flits = s.flits := rfl
@[simp] theorem free_stackWin (s : State) : (s.free.2).stackWin = s.stackWin := rfl
@[simp] theorem free_held (s : State) : (s.free.2).held = s.held := rfl
@[simp] theorem free_tripped (s : State) : (s.free.2).tripped = s.tripped := rfl
@[simp] theorem free_stages (s : State) : (s.free.2).stages = s.stages := rfl
@[simp] theorem free_mbs (s : State) : (s.free.2).mbs = s.mbs := rfl
@[simp] theorem free_ledgers (s : State) : (s.free.2).ledgers = s.ledgers := rfl
@[simp] theorem free_qConsumer (s : State) : (s.free.2).qConsumer = s.qConsumer := rfl
@[simp] theorem free_remoteQs (s : State) : (s.free.2).remoteQs = s.remoteQs := rfl
@[simp] theorem free_msPlaced (s : State) : (s.free.2).msPlaced = s.msPlaced := rfl
@[simp] theorem free_sendWaits (s : State) : (s.free.2).sendWaits = s.sendWaits := rfl
@[simp] theorem free_remoteSends (s : State) : (s.free.2).remoteSends = s.remoteSends := rfl
@[simp] theorem free_tags (s : State) : (s.free.2).tags = s.tags := rfl
@[simp] theorem free_tagWaits (s : State) : (s.free.2).tagWaits = s.tagWaits := rfl
@[simp] theorem free_tagPrio (s : State) : (s.free.2).tagPrio = s.tagPrio := rfl
@[simp] theorem free_masked (s : State) : (s.free.2).masked = s.masked := rfl
@[simp] theorem free_fabDone (s : State) : (s.free.2).fabDone = s.fabDone := rfl
@[simp] theorem free_xfers (s : State) : (s.free.2).xfers = s.xfers := rfl
@[simp] theorem free_ports (s : State) : (s.free.2).ports = s.ports := rfl
@[simp] theorem free_depots (s : State) : (s.free.2).depots = s.depots := rfl
@[simp] theorem free_devRole (s : State) : (s.free.2).devRole = s.devRole := rfl
@[simp] theorem free_devCount (s : State) : (s.free.2).devCount = s.devCount := rfl
@[simp] theorem free_permJournal (s : State) : (s.free.2).permJournal = s.permJournal := rfl
@[simp] theorem free_cols (s : State) : (s.free.2).cols = s.cols := rfl
@[simp] theorem free_colEarly (s : State) : (s.free.2).colEarly = s.colEarly := rfl
@[simp] theorem free_colTrigs (s : State) : (s.free.2).colTrigs = s.colTrigs := rfl
@[simp] theorem free_vote (s : State) : (s.free.2).vote = s.vote := rfl
@[simp] theorem free_rings (s : State) : (s.free.2).rings = s.rings := rfl
@[simp] theorem free_copies (s : State) : (s.free.2).copies = s.copies := rfl
@[simp] theorem free_turn (s : State) : (s.free.2).turn = s.turn := rfl
@[simp] theorem free_channels (s : State) : (s.free.2).channels = s.channels := rfl
@[simp] theorem free_barWaits (s : State) : (s.free.2).barWaits = s.barWaits := rfl
@[simp] theorem free_journal (s : State) : (s.free.2).journal = s.journal := rfl
@[simp] theorem free_oflQueue (s : State) : (s.free.2).oflQueue = s.oflQueue := rfl
@[simp] theorem free_tensors (s : State) : (s.free.2).tensors = s.tensors := rfl
@[simp] theorem free_engines (s : State) : (s.free.2).engines = s.engines := rfl
@[simp] theorem free_cores (s : State) : (s.free.2).cores = s.cores := rfl
@[simp] theorem free_scratch (s : State) : (s.free.2).scratch = s.scratch := rfl
@[simp] theorem free_nextId (s : State) : (s.free.2).nextId = s.nextId := rfl
@[simp] theorem free_dsps (s : State) : (s.free.2).dsps = s.dsps := rfl
@[simp] theorem free_trigQueues (s : State) : (s.free.2).trigQueues = s.trigQueues := rfl
@[simp] theorem free_updEngines (s : State) : (s.free.2).updEngines = s.updEngines := rfl
@[simp] theorem free_inboxes (s : State) : (s.free.2).inboxes = s.inboxes := rfl
@[simp] theorem free_loadJob (s : State) : (s.free.2).loadJob = s.loadJob := rfl
@[simp] theorem free_unloads (s : State) : (s.free.2).unloads = s.unloads := rfl
@[simp] theorem free_baseRoutes (s : State) : (s.free.2).baseRoutes = s.baseRoutes := rfl
@[simp] theorem free_govs (s : State) : (s.free.2).govs = s.govs := rfl
@[simp] theorem free_pkmBids (s : State) : (s.free.2).pkmBids = s.pkmBids := rfl
@[simp] theorem free_pkmPast (s : State) : (s.free.2).pkmPast = s.pkmPast := rfl
@[simp] theorem free_resetReq (s : State) : (s.free.2).resetReq = s.resetReq := rfl
@[simp] theorem free_guestOut (s : State) : (s.free.2).guestOut = s.guestOut := rfl
@[simp] theorem free_guestWait (s : State) : (s.free.2).guestWait = s.guestWait := rfl
@[simp] theorem free_guestResp (s : State) : (s.free.2).guestResp = s.guestResp := rfl
@[simp] theorem free_guestRun (s : State) : (s.free.2).guestRun = s.guestRun := rfl
@[simp] theorem free_guestAsk (s : State) : (s.free.2).guestAsk = s.guestAsk := rfl
@[simp] theorem free_cert (s : State) : (s.free.2).cert = s.cert := rfl
@[simp] theorem free_flashOwn (s : State) : (s.free.2).flashOwn = s.flashOwn := rfl
@[simp] theorem free_resetLow (s : State) : (s.free.2).resetLow = s.resetLow := rfl
@[simp] theorem free_stuck (s : State) : (s.free.2).stuck = s.stuck := rfl
@[simp] theorem free_svnTarget (s : State) : (s.free.2).svnTarget = s.svnTarget := rfl
@[simp] theorem free_tokenIn (s : State) : (s.free.2).tokenIn = s.tokenIn := rfl
@[simp] theorem free_smbAlert (s : State) : (s.free.2).smbAlert = s.smbAlert := rfl
@[simp] theorem free_dynAddr (s : State) : (s.free.2).dynAddr = s.dynAddr := rfl
@[simp] theorem free_sbBudget (s : State) : (s.free.2).sbBudget = s.sbBudget := rfl
@[simp] theorem free_straps (s : State) : (s.free.2).straps = s.straps := rfl
@[simp] theorem free_trip (s : State) : (s.free.2).trip = s.trip := rfl
@[simp] theorem free_tapReset (s : State) : (s.free.2).tapReset = s.tapReset := rfl
@[simp] theorem free_tapIr (s : State) : (s.free.2).tapIr = s.tapIr := rfl
@[simp] theorem free_tapData (s : State) : (s.free.2).tapData = s.tapData := rfl
@[simp] theorem free_lands (s : State) : (s.free.2).lands = s.lands := rfl
@[simp] theorem free_busLate (s : State) : (s.free.2).busLate = s.busLate := rfl
@[simp] theorem free_cntAt (s : State) : (s.free.2).cntAt = s.cntAt := rfl
@[simp] theorem free_loadAt (s : State) : (s.free.2).loadAt = s.loadAt := rfl
@[simp] theorem free_bootAt (s : State) : (s.free.2).bootAt = s.bootAt := rfl

/-! ### setStg -/

@[simp] theorem setStg_jnl (s : State) (n x : Nat) (g : StageCtx) : (s.setStg n x g).jnl = s.jnl := rfl
@[simp] theorem setStg_regs (s : State) (n x : Nat) (g : StageCtx) : (s.setStg n x g).regs = s.regs := rfl
@[simp] theorem setStg_mem (s : State) (n x : Nat) (g : StageCtx) : (s.setStg n x g).mem = s.mem := rfl
@[simp] theorem setStg_out (s : State) (n x : Nat) (g : StageCtx) : (s.setStg n x g).out = s.out := rfl
@[simp] theorem setStg_now (s : State) (n x : Nat) (g : StageCtx) : (s.setStg n x g).now = s.now := rfl
@[simp] theorem setStg_pending (s : State) (n x : Nat) (g : StageCtx) : (s.setStg n x g).pending = s.pending := rfl
@[simp] theorem setStg_held (s : State) (n x : Nat) (g : StageCtx) : (s.setStg n x g).held = s.held := rfl
@[simp] theorem setStg_tripped (s : State) (n x : Nat) (g : StageCtx) : (s.setStg n x g).tripped = s.tripped := rfl
@[simp] theorem setStg_errBuf (s : State) (n x : Nat) (g : StageCtx) : (s.setStg n x g).errBuf = s.errBuf := rfl
@[simp] theorem setStg_freeIx (s : State) (n x : Nat) (g : StageCtx) : (s.setStg n x g).freeIx = s.freeIx := rfl
@[simp] theorem setStg_nextId (s : State) (n x : Nat) (g : StageCtx) : (s.setStg n x g).nextId = s.nextId := rfl
@[simp] theorem setStg_mbs (s : State) (n x : Nat) (g : StageCtx) : (s.setStg n x g).mbs = s.mbs := rfl
@[simp] theorem setStg_engines (s : State) (n x : Nat) (g : StageCtx) : (s.setStg n x g).engines = s.engines := rfl
@[simp] theorem setStg_cores (s : State) (n x : Nat) (g : StageCtx) : (s.setStg n x g).cores = s.cores := rfl
@[simp] theorem setStg_ledgers (s : State) (n x : Nat) (g : StageCtx) : (s.setStg n x g).ledgers = s.ledgers := rfl
@[simp] theorem setStg_xfers (s : State) (n x : Nat) (g : StageCtx) : (s.setStg n x g).xfers = s.xfers := rfl
@[simp] theorem setStg_rings (s : State) (n x : Nat) (g : StageCtx) : (s.setStg n x g).rings = s.rings := rfl
@[simp] theorem setStg_ports (s : State) (n x : Nat) (g : StageCtx) : (s.setStg n x g).ports = s.ports := rfl
@[simp] theorem setStg_rd (s : State) (n x : Nat) (g : StageCtx) (k' : Nat) : (s.setStg n x g).rd k' = s.rd k' := rfl
@[simp] theorem setStg_byte (s : State) (n x : Nat) (g : StageCtx) (k' : Nat) : (s.setStg n x g).byte k' = s.byte k' := rfl

/-! ### setMbc -/

@[simp] theorem setMbc_jnl (s : State) (n x c : Nat) (m : MbCtx) : (s.setMbc n x c m).jnl = s.jnl := rfl
@[simp] theorem setMbc_regs (s : State) (n x c : Nat) (m : MbCtx) : (s.setMbc n x c m).regs = s.regs := rfl
@[simp] theorem setMbc_mem (s : State) (n x c : Nat) (m : MbCtx) : (s.setMbc n x c m).mem = s.mem := rfl
@[simp] theorem setMbc_out (s : State) (n x c : Nat) (m : MbCtx) : (s.setMbc n x c m).out = s.out := rfl
@[simp] theorem setMbc_now (s : State) (n x c : Nat) (m : MbCtx) : (s.setMbc n x c m).now = s.now := rfl
@[simp] theorem setMbc_pending (s : State) (n x c : Nat) (m : MbCtx) : (s.setMbc n x c m).pending = s.pending := rfl
@[simp] theorem setMbc_held (s : State) (n x c : Nat) (m : MbCtx) : (s.setMbc n x c m).held = s.held := rfl
@[simp] theorem setMbc_tripped (s : State) (n x c : Nat) (m : MbCtx) : (s.setMbc n x c m).tripped = s.tripped := rfl
@[simp] theorem setMbc_errBuf (s : State) (n x c : Nat) (m : MbCtx) : (s.setMbc n x c m).errBuf = s.errBuf := rfl
@[simp] theorem setMbc_freeIx (s : State) (n x c : Nat) (m : MbCtx) : (s.setMbc n x c m).freeIx = s.freeIx := rfl
@[simp] theorem setMbc_nextId (s : State) (n x c : Nat) (m : MbCtx) : (s.setMbc n x c m).nextId = s.nextId := rfl
@[simp] theorem setMbc_stages (s : State) (n x c : Nat) (m : MbCtx) : (s.setMbc n x c m).stages = s.stages := rfl
@[simp] theorem setMbc_engines (s : State) (n x c : Nat) (m : MbCtx) : (s.setMbc n x c m).engines = s.engines := rfl
@[simp] theorem setMbc_cores (s : State) (n x c : Nat) (m : MbCtx) : (s.setMbc n x c m).cores = s.cores := rfl
@[simp] theorem setMbc_ledgers (s : State) (n x c : Nat) (m : MbCtx) : (s.setMbc n x c m).ledgers = s.ledgers := rfl
@[simp] theorem setMbc_xfers (s : State) (n x c : Nat) (m : MbCtx) : (s.setMbc n x c m).xfers = s.xfers := rfl
@[simp] theorem setMbc_rings (s : State) (n x c : Nat) (m : MbCtx) : (s.setMbc n x c m).rings = s.rings := rfl
@[simp] theorem setMbc_ports (s : State) (n x c : Nat) (m : MbCtx) : (s.setMbc n x c m).ports = s.ports := rfl
@[simp] theorem setMbc_rd (s : State) (n x c : Nat) (m : MbCtx) (k' : Nat) : (s.setMbc n x c m).rd k' = s.rd k' := rfl
@[simp] theorem setMbc_byte (s : State) (n x c : Nat) (m : MbCtx) (k' : Nat) : (s.setMbc n x c m).byte k' = s.byte k' := rfl

/-! ### setEng -/

@[simp] theorem setEng_jnl (s : State) (e : Nat) (g : Engine) : (s.setEng e g).jnl = s.jnl := rfl
@[simp] theorem setEng_regs (s : State) (e : Nat) (g : Engine) : (s.setEng e g).regs = s.regs := rfl
@[simp] theorem setEng_mem (s : State) (e : Nat) (g : Engine) : (s.setEng e g).mem = s.mem := rfl
@[simp] theorem setEng_out (s : State) (e : Nat) (g : Engine) : (s.setEng e g).out = s.out := rfl
@[simp] theorem setEng_now (s : State) (e : Nat) (g : Engine) : (s.setEng e g).now = s.now := rfl
@[simp] theorem setEng_pending (s : State) (e : Nat) (g : Engine) : (s.setEng e g).pending = s.pending := rfl
@[simp] theorem setEng_held (s : State) (e : Nat) (g : Engine) : (s.setEng e g).held = s.held := rfl
@[simp] theorem setEng_tripped (s : State) (e : Nat) (g : Engine) : (s.setEng e g).tripped = s.tripped := rfl
@[simp] theorem setEng_errBuf (s : State) (e : Nat) (g : Engine) : (s.setEng e g).errBuf = s.errBuf := rfl
@[simp] theorem setEng_freeIx (s : State) (e : Nat) (g : Engine) : (s.setEng e g).freeIx = s.freeIx := rfl
@[simp] theorem setEng_nextId (s : State) (e : Nat) (g : Engine) : (s.setEng e g).nextId = s.nextId := rfl
@[simp] theorem setEng_stages (s : State) (e : Nat) (g : Engine) : (s.setEng e g).stages = s.stages := rfl
@[simp] theorem setEng_mbs (s : State) (e : Nat) (g : Engine) : (s.setEng e g).mbs = s.mbs := rfl
@[simp] theorem setEng_cores (s : State) (e : Nat) (g : Engine) : (s.setEng e g).cores = s.cores := rfl
@[simp] theorem setEng_ledgers (s : State) (e : Nat) (g : Engine) : (s.setEng e g).ledgers = s.ledgers := rfl
@[simp] theorem setEng_xfers (s : State) (e : Nat) (g : Engine) : (s.setEng e g).xfers = s.xfers := rfl
@[simp] theorem setEng_rings (s : State) (e : Nat) (g : Engine) : (s.setEng e g).rings = s.rings := rfl
@[simp] theorem setEng_ports (s : State) (e : Nat) (g : Engine) : (s.setEng e g).ports = s.ports := rfl
@[simp] theorem setEng_rd (s : State) (e : Nat) (g : Engine) (k' : Nat) : (s.setEng e g).rd k' = s.rd k' := rfl
@[simp] theorem setEng_byte (s : State) (e : Nat) (g : Engine) (k' : Nat) : (s.setEng e g).byte k' = s.byte k' := rfl

/-! ### setCore -/

@[simp] theorem setCore_jnl (s : State) (c : Nat) (g : Core) : (s.setCore c g).jnl = s.jnl := rfl
@[simp] theorem setCore_regs (s : State) (c : Nat) (g : Core) : (s.setCore c g).regs = s.regs := rfl
@[simp] theorem setCore_mem (s : State) (c : Nat) (g : Core) : (s.setCore c g).mem = s.mem := rfl
@[simp] theorem setCore_out (s : State) (c : Nat) (g : Core) : (s.setCore c g).out = s.out := rfl
@[simp] theorem setCore_now (s : State) (c : Nat) (g : Core) : (s.setCore c g).now = s.now := rfl
@[simp] theorem setCore_pending (s : State) (c : Nat) (g : Core) : (s.setCore c g).pending = s.pending := rfl
@[simp] theorem setCore_held (s : State) (c : Nat) (g : Core) : (s.setCore c g).held = s.held := rfl
@[simp] theorem setCore_tripped (s : State) (c : Nat) (g : Core) : (s.setCore c g).tripped = s.tripped := rfl
@[simp] theorem setCore_errBuf (s : State) (c : Nat) (g : Core) : (s.setCore c g).errBuf = s.errBuf := rfl
@[simp] theorem setCore_freeIx (s : State) (c : Nat) (g : Core) : (s.setCore c g).freeIx = s.freeIx := rfl
@[simp] theorem setCore_nextId (s : State) (c : Nat) (g : Core) : (s.setCore c g).nextId = s.nextId := rfl
@[simp] theorem setCore_stages (s : State) (c : Nat) (g : Core) : (s.setCore c g).stages = s.stages := rfl
@[simp] theorem setCore_mbs (s : State) (c : Nat) (g : Core) : (s.setCore c g).mbs = s.mbs := rfl
@[simp] theorem setCore_engines (s : State) (c : Nat) (g : Core) : (s.setCore c g).engines = s.engines := rfl
@[simp] theorem setCore_ledgers (s : State) (c : Nat) (g : Core) : (s.setCore c g).ledgers = s.ledgers := rfl
@[simp] theorem setCore_xfers (s : State) (c : Nat) (g : Core) : (s.setCore c g).xfers = s.xfers := rfl
@[simp] theorem setCore_rings (s : State) (c : Nat) (g : Core) : (s.setCore c g).rings = s.rings := rfl
@[simp] theorem setCore_ports (s : State) (c : Nat) (g : Core) : (s.setCore c g).ports = s.ports := rfl
@[simp] theorem setCore_rd (s : State) (c : Nat) (g : Core) (k' : Nat) : (s.setCore c g).rd k' = s.rd k' := rfl
@[simp] theorem setCore_byte (s : State) (c : Nat) (g : Core) (k' : Nat) : (s.setCore c g).byte k' = s.byte k' := rfl

/-! ### setPort -/

@[simp] theorem setPort_jnl (s : State) (p : Nat) (x : Port) : (s.setPort p x).jnl = s.jnl := rfl
@[simp] theorem setPort_regs (s : State) (p : Nat) (x : Port) : (s.setPort p x).regs = s.regs := rfl
@[simp] theorem setPort_mem (s : State) (p : Nat) (x : Port) : (s.setPort p x).mem = s.mem := rfl
@[simp] theorem setPort_out (s : State) (p : Nat) (x : Port) : (s.setPort p x).out = s.out := rfl
@[simp] theorem setPort_now (s : State) (p : Nat) (x : Port) : (s.setPort p x).now = s.now := rfl
@[simp] theorem setPort_pending (s : State) (p : Nat) (x : Port) : (s.setPort p x).pending = s.pending := rfl
@[simp] theorem setPort_held (s : State) (p : Nat) (x : Port) : (s.setPort p x).held = s.held := rfl
@[simp] theorem setPort_tripped (s : State) (p : Nat) (x : Port) : (s.setPort p x).tripped = s.tripped := rfl
@[simp] theorem setPort_errBuf (s : State) (p : Nat) (x : Port) : (s.setPort p x).errBuf = s.errBuf := rfl
@[simp] theorem setPort_freeIx (s : State) (p : Nat) (x : Port) : (s.setPort p x).freeIx = s.freeIx := rfl
@[simp] theorem setPort_nextId (s : State) (p : Nat) (x : Port) : (s.setPort p x).nextId = s.nextId := rfl
@[simp] theorem setPort_stages (s : State) (p : Nat) (x : Port) : (s.setPort p x).stages = s.stages := rfl
@[simp] theorem setPort_mbs (s : State) (p : Nat) (x : Port) : (s.setPort p x).mbs = s.mbs := rfl
@[simp] theorem setPort_engines (s : State) (p : Nat) (x : Port) : (s.setPort p x).engines = s.engines := rfl
@[simp] theorem setPort_cores (s : State) (p : Nat) (x : Port) : (s.setPort p x).cores = s.cores := rfl
@[simp] theorem setPort_ledgers (s : State) (p : Nat) (x : Port) : (s.setPort p x).ledgers = s.ledgers := rfl
@[simp] theorem setPort_xfers (s : State) (p : Nat) (x : Port) : (s.setPort p x).xfers = s.xfers := rfl
@[simp] theorem setPort_rings (s : State) (p : Nat) (x : Port) : (s.setPort p x).rings = s.rings := rfl
@[simp] theorem setPort_rd (s : State) (p : Nat) (x : Port) (k' : Nat) : (s.setPort p x).rd k' = s.rd k' := rfl
@[simp] theorem setPort_byte (s : State) (p : Nat) (x : Port) (k' : Nat) : (s.setPort p x).byte k' = s.byte k' := rfl

/-! ### setTag -/

@[simp] theorem setTag_jnl (s : State) (k : Nat) (x : Tag) : (s.setTag k x).jnl = s.jnl := rfl
@[simp] theorem setTag_regs (s : State) (k : Nat) (x : Tag) : (s.setTag k x).regs = s.regs := rfl
@[simp] theorem setTag_mem (s : State) (k : Nat) (x : Tag) : (s.setTag k x).mem = s.mem := rfl
@[simp] theorem setTag_out (s : State) (k : Nat) (x : Tag) : (s.setTag k x).out = s.out := rfl
@[simp] theorem setTag_now (s : State) (k : Nat) (x : Tag) : (s.setTag k x).now = s.now := rfl
@[simp] theorem setTag_pending (s : State) (k : Nat) (x : Tag) : (s.setTag k x).pending = s.pending := rfl
@[simp] theorem setTag_held (s : State) (k : Nat) (x : Tag) : (s.setTag k x).held = s.held := rfl
@[simp] theorem setTag_tripped (s : State) (k : Nat) (x : Tag) : (s.setTag k x).tripped = s.tripped := rfl
@[simp] theorem setTag_errBuf (s : State) (k : Nat) (x : Tag) : (s.setTag k x).errBuf = s.errBuf := rfl
@[simp] theorem setTag_freeIx (s : State) (k : Nat) (x : Tag) : (s.setTag k x).freeIx = s.freeIx := rfl
@[simp] theorem setTag_nextId (s : State) (k : Nat) (x : Tag) : (s.setTag k x).nextId = s.nextId := rfl
@[simp] theorem setTag_stages (s : State) (k : Nat) (x : Tag) : (s.setTag k x).stages = s.stages := rfl
@[simp] theorem setTag_mbs (s : State) (k : Nat) (x : Tag) : (s.setTag k x).mbs = s.mbs := rfl
@[simp] theorem setTag_engines (s : State) (k : Nat) (x : Tag) : (s.setTag k x).engines = s.engines := rfl
@[simp] theorem setTag_cores (s : State) (k : Nat) (x : Tag) : (s.setTag k x).cores = s.cores := rfl
@[simp] theorem setTag_ledgers (s : State) (k : Nat) (x : Tag) : (s.setTag k x).ledgers = s.ledgers := rfl
@[simp] theorem setTag_xfers (s : State) (k : Nat) (x : Tag) : (s.setTag k x).xfers = s.xfers := rfl
@[simp] theorem setTag_rings (s : State) (k : Nat) (x : Tag) : (s.setTag k x).rings = s.rings := rfl
@[simp] theorem setTag_ports (s : State) (k : Nat) (x : Tag) : (s.setTag k x).ports = s.ports := rfl
@[simp] theorem setTag_rd (s : State) (k : Nat) (x : Tag) (k' : Nat) : (s.setTag k x).rd k' = s.rd k' := rfl
@[simp] theorem setTag_byte (s : State) (k : Nat) (x : Tag) (k' : Nat) : (s.setTag k x).byte k' = s.byte k' := rfl

/-! ### setXfer -/

@[simp] theorem setXfer_jnl (s : State) (i : Nat) (x : Xfer) : (s.setXfer i x).jnl = s.jnl := rfl
@[simp] theorem setXfer_regs (s : State) (i : Nat) (x : Xfer) : (s.setXfer i x).regs = s.regs := rfl
@[simp] theorem setXfer_mem (s : State) (i : Nat) (x : Xfer) : (s.setXfer i x).mem = s.mem := rfl
@[simp] theorem setXfer_out (s : State) (i : Nat) (x : Xfer) : (s.setXfer i x).out = s.out := rfl
@[simp] theorem setXfer_now (s : State) (i : Nat) (x : Xfer) : (s.setXfer i x).now = s.now := rfl
@[simp] theorem setXfer_pending (s : State) (i : Nat) (x : Xfer) : (s.setXfer i x).pending = s.pending := rfl
@[simp] theorem setXfer_held (s : State) (i : Nat) (x : Xfer) : (s.setXfer i x).held = s.held := rfl
@[simp] theorem setXfer_tripped (s : State) (i : Nat) (x : Xfer) : (s.setXfer i x).tripped = s.tripped := rfl
@[simp] theorem setXfer_errBuf (s : State) (i : Nat) (x : Xfer) : (s.setXfer i x).errBuf = s.errBuf := rfl
@[simp] theorem setXfer_freeIx (s : State) (i : Nat) (x : Xfer) : (s.setXfer i x).freeIx = s.freeIx := rfl
@[simp] theorem setXfer_nextId (s : State) (i : Nat) (x : Xfer) : (s.setXfer i x).nextId = s.nextId := rfl
@[simp] theorem setXfer_stages (s : State) (i : Nat) (x : Xfer) : (s.setXfer i x).stages = s.stages := rfl
@[simp] theorem setXfer_mbs (s : State) (i : Nat) (x : Xfer) : (s.setXfer i x).mbs = s.mbs := rfl
@[simp] theorem setXfer_engines (s : State) (i : Nat) (x : Xfer) : (s.setXfer i x).engines = s.engines := rfl
@[simp] theorem setXfer_cores (s : State) (i : Nat) (x : Xfer) : (s.setXfer i x).cores = s.cores := rfl
@[simp] theorem setXfer_ledgers (s : State) (i : Nat) (x : Xfer) : (s.setXfer i x).ledgers = s.ledgers := rfl
@[simp] theorem setXfer_rings (s : State) (i : Nat) (x : Xfer) : (s.setXfer i x).rings = s.rings := rfl
@[simp] theorem setXfer_ports (s : State) (i : Nat) (x : Xfer) : (s.setXfer i x).ports = s.ports := rfl
@[simp] theorem setXfer_rd (s : State) (i : Nat) (x : Xfer) (k' : Nat) : (s.setXfer i x).rd k' = s.rd k' := rfl
@[simp] theorem setXfer_byte (s : State) (i : Nat) (x : Xfer) (k' : Nat) : (s.setXfer i x).byte k' = s.byte k' := rfl

/-! ### setLed -/

@[simp] theorem setLed_jnl (s : State) (l : Nat) (x : Ledger) : (s.setLed l x).jnl = s.jnl := rfl
@[simp] theorem setLed_regs (s : State) (l : Nat) (x : Ledger) : (s.setLed l x).regs = s.regs := rfl
@[simp] theorem setLed_mem (s : State) (l : Nat) (x : Ledger) : (s.setLed l x).mem = s.mem := rfl
@[simp] theorem setLed_out (s : State) (l : Nat) (x : Ledger) : (s.setLed l x).out = s.out := rfl
@[simp] theorem setLed_now (s : State) (l : Nat) (x : Ledger) : (s.setLed l x).now = s.now := rfl
@[simp] theorem setLed_pending (s : State) (l : Nat) (x : Ledger) : (s.setLed l x).pending = s.pending := rfl
@[simp] theorem setLed_held (s : State) (l : Nat) (x : Ledger) : (s.setLed l x).held = s.held := rfl
@[simp] theorem setLed_tripped (s : State) (l : Nat) (x : Ledger) : (s.setLed l x).tripped = s.tripped := rfl
@[simp] theorem setLed_errBuf (s : State) (l : Nat) (x : Ledger) : (s.setLed l x).errBuf = s.errBuf := rfl
@[simp] theorem setLed_freeIx (s : State) (l : Nat) (x : Ledger) : (s.setLed l x).freeIx = s.freeIx := rfl
@[simp] theorem setLed_nextId (s : State) (l : Nat) (x : Ledger) : (s.setLed l x).nextId = s.nextId := rfl
@[simp] theorem setLed_stages (s : State) (l : Nat) (x : Ledger) : (s.setLed l x).stages = s.stages := rfl
@[simp] theorem setLed_mbs (s : State) (l : Nat) (x : Ledger) : (s.setLed l x).mbs = s.mbs := rfl
@[simp] theorem setLed_engines (s : State) (l : Nat) (x : Ledger) : (s.setLed l x).engines = s.engines := rfl
@[simp] theorem setLed_cores (s : State) (l : Nat) (x : Ledger) : (s.setLed l x).cores = s.cores := rfl
@[simp] theorem setLed_xfers (s : State) (l : Nat) (x : Ledger) : (s.setLed l x).xfers = s.xfers := rfl
@[simp] theorem setLed_rings (s : State) (l : Nat) (x : Ledger) : (s.setLed l x).rings = s.rings := rfl
@[simp] theorem setLed_ports (s : State) (l : Nat) (x : Ledger) : (s.setLed l x).ports = s.ports := rfl
@[simp] theorem setLed_rd (s : State) (l : Nat) (x : Ledger) (k' : Nat) : (s.setLed l x).rd k' = s.rd k' := rfl
@[simp] theorem setLed_byte (s : State) (l : Nat) (x : Ledger) (k' : Nat) : (s.setLed l x).byte k' = s.byte k' := rfl

/-! ### setRing -/

@[simp] theorem setRing_jnl (s : State) (r : Nat) (x : Ring) : (s.setRing r x).jnl = s.jnl := rfl
@[simp] theorem setRing_regs (s : State) (r : Nat) (x : Ring) : (s.setRing r x).regs = s.regs := rfl
@[simp] theorem setRing_mem (s : State) (r : Nat) (x : Ring) : (s.setRing r x).mem = s.mem := rfl
@[simp] theorem setRing_out (s : State) (r : Nat) (x : Ring) : (s.setRing r x).out = s.out := rfl
@[simp] theorem setRing_now (s : State) (r : Nat) (x : Ring) : (s.setRing r x).now = s.now := rfl
@[simp] theorem setRing_pending (s : State) (r : Nat) (x : Ring) : (s.setRing r x).pending = s.pending := rfl
@[simp] theorem setRing_held (s : State) (r : Nat) (x : Ring) : (s.setRing r x).held = s.held := rfl
@[simp] theorem setRing_tripped (s : State) (r : Nat) (x : Ring) : (s.setRing r x).tripped = s.tripped := rfl
@[simp] theorem setRing_errBuf (s : State) (r : Nat) (x : Ring) : (s.setRing r x).errBuf = s.errBuf := rfl
@[simp] theorem setRing_freeIx (s : State) (r : Nat) (x : Ring) : (s.setRing r x).freeIx = s.freeIx := rfl
@[simp] theorem setRing_nextId (s : State) (r : Nat) (x : Ring) : (s.setRing r x).nextId = s.nextId := rfl
@[simp] theorem setRing_stages (s : State) (r : Nat) (x : Ring) : (s.setRing r x).stages = s.stages := rfl
@[simp] theorem setRing_mbs (s : State) (r : Nat) (x : Ring) : (s.setRing r x).mbs = s.mbs := rfl
@[simp] theorem setRing_engines (s : State) (r : Nat) (x : Ring) : (s.setRing r x).engines = s.engines := rfl
@[simp] theorem setRing_cores (s : State) (r : Nat) (x : Ring) : (s.setRing r x).cores = s.cores := rfl
@[simp] theorem setRing_ledgers (s : State) (r : Nat) (x : Ring) : (s.setRing r x).ledgers = s.ledgers := rfl
@[simp] theorem setRing_xfers (s : State) (r : Nat) (x : Ring) : (s.setRing r x).xfers = s.xfers := rfl
@[simp] theorem setRing_ports (s : State) (r : Nat) (x : Ring) : (s.setRing r x).ports = s.ports := rfl
@[simp] theorem setRing_rd (s : State) (r : Nat) (x : Ring) (k' : Nat) : (s.setRing r x).rd k' = s.rd k' := rfl
@[simp] theorem setRing_byte (s : State) (r : Nat) (x : Ring) (k' : Nat) : (s.setRing r x).byte k' = s.byte k' := rfl

/-! ### setDsp -/

@[simp] theorem setDsp_jnl (s : State) (n : Nat) (d : Dsp) : (s.setDsp n d).jnl = s.jnl := rfl
@[simp] theorem setDsp_regs (s : State) (n : Nat) (d : Dsp) : (s.setDsp n d).regs = s.regs := rfl
@[simp] theorem setDsp_mem (s : State) (n : Nat) (d : Dsp) : (s.setDsp n d).mem = s.mem := rfl
@[simp] theorem setDsp_out (s : State) (n : Nat) (d : Dsp) : (s.setDsp n d).out = s.out := rfl
@[simp] theorem setDsp_now (s : State) (n : Nat) (d : Dsp) : (s.setDsp n d).now = s.now := rfl
@[simp] theorem setDsp_pending (s : State) (n : Nat) (d : Dsp) : (s.setDsp n d).pending = s.pending := rfl
@[simp] theorem setDsp_held (s : State) (n : Nat) (d : Dsp) : (s.setDsp n d).held = s.held := rfl
@[simp] theorem setDsp_tripped (s : State) (n : Nat) (d : Dsp) : (s.setDsp n d).tripped = s.tripped := rfl
@[simp] theorem setDsp_errBuf (s : State) (n : Nat) (d : Dsp) : (s.setDsp n d).errBuf = s.errBuf := rfl
@[simp] theorem setDsp_freeIx (s : State) (n : Nat) (d : Dsp) : (s.setDsp n d).freeIx = s.freeIx := rfl
@[simp] theorem setDsp_nextId (s : State) (n : Nat) (d : Dsp) : (s.setDsp n d).nextId = s.nextId := rfl
@[simp] theorem setDsp_stages (s : State) (n : Nat) (d : Dsp) : (s.setDsp n d).stages = s.stages := rfl
@[simp] theorem setDsp_mbs (s : State) (n : Nat) (d : Dsp) : (s.setDsp n d).mbs = s.mbs := rfl
@[simp] theorem setDsp_engines (s : State) (n : Nat) (d : Dsp) : (s.setDsp n d).engines = s.engines := rfl
@[simp] theorem setDsp_cores (s : State) (n : Nat) (d : Dsp) : (s.setDsp n d).cores = s.cores := rfl
@[simp] theorem setDsp_ledgers (s : State) (n : Nat) (d : Dsp) : (s.setDsp n d).ledgers = s.ledgers := rfl
@[simp] theorem setDsp_xfers (s : State) (n : Nat) (d : Dsp) : (s.setDsp n d).xfers = s.xfers := rfl
@[simp] theorem setDsp_rings (s : State) (n : Nat) (d : Dsp) : (s.setDsp n d).rings = s.rings := rfl
@[simp] theorem setDsp_ports (s : State) (n : Nat) (d : Dsp) : (s.setDsp n d).ports = s.ports := rfl
@[simp] theorem setDsp_rd (s : State) (n : Nat) (d : Dsp) (k' : Nat) : (s.setDsp n d).rd k' = s.rd k' := rfl
@[simp] theorem setDsp_byte (s : State) (n : Nat) (d : Dsp) (k' : Nat) : (s.setDsp n d).byte k' = s.byte k' := rfl

/-! ### setIbx -/

@[simp] theorem setIbx_jnl (s : State) (n i : Nat) (b : Inbox) : (s.setIbx n i b).jnl = s.jnl := rfl
@[simp] theorem setIbx_regs (s : State) (n i : Nat) (b : Inbox) : (s.setIbx n i b).regs = s.regs := rfl
@[simp] theorem setIbx_mem (s : State) (n i : Nat) (b : Inbox) : (s.setIbx n i b).mem = s.mem := rfl
@[simp] theorem setIbx_out (s : State) (n i : Nat) (b : Inbox) : (s.setIbx n i b).out = s.out := rfl
@[simp] theorem setIbx_now (s : State) (n i : Nat) (b : Inbox) : (s.setIbx n i b).now = s.now := rfl
@[simp] theorem setIbx_pending (s : State) (n i : Nat) (b : Inbox) : (s.setIbx n i b).pending = s.pending := rfl
@[simp] theorem setIbx_held (s : State) (n i : Nat) (b : Inbox) : (s.setIbx n i b).held = s.held := rfl
@[simp] theorem setIbx_tripped (s : State) (n i : Nat) (b : Inbox) : (s.setIbx n i b).tripped = s.tripped := rfl
@[simp] theorem setIbx_errBuf (s : State) (n i : Nat) (b : Inbox) : (s.setIbx n i b).errBuf = s.errBuf := rfl
@[simp] theorem setIbx_freeIx (s : State) (n i : Nat) (b : Inbox) : (s.setIbx n i b).freeIx = s.freeIx := rfl
@[simp] theorem setIbx_nextId (s : State) (n i : Nat) (b : Inbox) : (s.setIbx n i b).nextId = s.nextId := rfl
@[simp] theorem setIbx_stages (s : State) (n i : Nat) (b : Inbox) : (s.setIbx n i b).stages = s.stages := rfl
@[simp] theorem setIbx_mbs (s : State) (n i : Nat) (b : Inbox) : (s.setIbx n i b).mbs = s.mbs := rfl
@[simp] theorem setIbx_engines (s : State) (n i : Nat) (b : Inbox) : (s.setIbx n i b).engines = s.engines := rfl
@[simp] theorem setIbx_cores (s : State) (n i : Nat) (b : Inbox) : (s.setIbx n i b).cores = s.cores := rfl
@[simp] theorem setIbx_ledgers (s : State) (n i : Nat) (b : Inbox) : (s.setIbx n i b).ledgers = s.ledgers := rfl
@[simp] theorem setIbx_xfers (s : State) (n i : Nat) (b : Inbox) : (s.setIbx n i b).xfers = s.xfers := rfl
@[simp] theorem setIbx_rings (s : State) (n i : Nat) (b : Inbox) : (s.setIbx n i b).rings = s.rings := rfl
@[simp] theorem setIbx_ports (s : State) (n i : Nat) (b : Inbox) : (s.setIbx n i b).ports = s.ports := rfl
@[simp] theorem setIbx_rd (s : State) (n i : Nat) (b : Inbox) (k' : Nat) : (s.setIbx n i b).rd k' = s.rd k' := rfl
@[simp] theorem setIbx_byte (s : State) (n i : Nat) (b : Inbox) (k' : Nat) : (s.setIbx n i b).byte k' = s.byte k' := rfl

/-! ### setUpdEng -/

@[simp] theorem setUpdEng_jnl (s : State) (v : Nat) (e : UpdEngine) : (s.setUpdEng v e).jnl = s.jnl := rfl
@[simp] theorem setUpdEng_regs (s : State) (v : Nat) (e : UpdEngine) : (s.setUpdEng v e).regs = s.regs := rfl
@[simp] theorem setUpdEng_mem (s : State) (v : Nat) (e : UpdEngine) : (s.setUpdEng v e).mem = s.mem := rfl
@[simp] theorem setUpdEng_out (s : State) (v : Nat) (e : UpdEngine) : (s.setUpdEng v e).out = s.out := rfl
@[simp] theorem setUpdEng_now (s : State) (v : Nat) (e : UpdEngine) : (s.setUpdEng v e).now = s.now := rfl
@[simp] theorem setUpdEng_pending (s : State) (v : Nat) (e : UpdEngine) : (s.setUpdEng v e).pending = s.pending := rfl
@[simp] theorem setUpdEng_held (s : State) (v : Nat) (e : UpdEngine) : (s.setUpdEng v e).held = s.held := rfl
@[simp] theorem setUpdEng_tripped (s : State) (v : Nat) (e : UpdEngine) : (s.setUpdEng v e).tripped = s.tripped := rfl
@[simp] theorem setUpdEng_errBuf (s : State) (v : Nat) (e : UpdEngine) : (s.setUpdEng v e).errBuf = s.errBuf := rfl
@[simp] theorem setUpdEng_freeIx (s : State) (v : Nat) (e : UpdEngine) : (s.setUpdEng v e).freeIx = s.freeIx := rfl
@[simp] theorem setUpdEng_nextId (s : State) (v : Nat) (e : UpdEngine) : (s.setUpdEng v e).nextId = s.nextId := rfl
@[simp] theorem setUpdEng_stages (s : State) (v : Nat) (e : UpdEngine) : (s.setUpdEng v e).stages = s.stages := rfl
@[simp] theorem setUpdEng_mbs (s : State) (v : Nat) (e : UpdEngine) : (s.setUpdEng v e).mbs = s.mbs := rfl
@[simp] theorem setUpdEng_engines (s : State) (v : Nat) (e : UpdEngine) : (s.setUpdEng v e).engines = s.engines := rfl
@[simp] theorem setUpdEng_cores (s : State) (v : Nat) (e : UpdEngine) : (s.setUpdEng v e).cores = s.cores := rfl
@[simp] theorem setUpdEng_ledgers (s : State) (v : Nat) (e : UpdEngine) : (s.setUpdEng v e).ledgers = s.ledgers := rfl
@[simp] theorem setUpdEng_xfers (s : State) (v : Nat) (e : UpdEngine) : (s.setUpdEng v e).xfers = s.xfers := rfl
@[simp] theorem setUpdEng_rings (s : State) (v : Nat) (e : UpdEngine) : (s.setUpdEng v e).rings = s.rings := rfl
@[simp] theorem setUpdEng_ports (s : State) (v : Nat) (e : UpdEngine) : (s.setUpdEng v e).ports = s.ports := rfl
@[simp] theorem setUpdEng_rd (s : State) (v : Nat) (e : UpdEngine) (k' : Nat) : (s.setUpdEng v e).rd k' = s.rd k' := rfl
@[simp] theorem setUpdEng_byte (s : State) (v : Nat) (e : UpdEngine) (k' : Nat) : (s.setUpdEng v e).byte k' = s.byte k' := rfl

/-! ### setTrigQ -/

@[simp] theorem setTrigQ_jnl (s : State) (n : Nat) (q : List Trig) : (s.setTrigQ n q).jnl = s.jnl := rfl
@[simp] theorem setTrigQ_regs (s : State) (n : Nat) (q : List Trig) : (s.setTrigQ n q).regs = s.regs := rfl
@[simp] theorem setTrigQ_mem (s : State) (n : Nat) (q : List Trig) : (s.setTrigQ n q).mem = s.mem := rfl
@[simp] theorem setTrigQ_out (s : State) (n : Nat) (q : List Trig) : (s.setTrigQ n q).out = s.out := rfl
@[simp] theorem setTrigQ_now (s : State) (n : Nat) (q : List Trig) : (s.setTrigQ n q).now = s.now := rfl
@[simp] theorem setTrigQ_pending (s : State) (n : Nat) (q : List Trig) : (s.setTrigQ n q).pending = s.pending := rfl
@[simp] theorem setTrigQ_held (s : State) (n : Nat) (q : List Trig) : (s.setTrigQ n q).held = s.held := rfl
@[simp] theorem setTrigQ_tripped (s : State) (n : Nat) (q : List Trig) : (s.setTrigQ n q).tripped = s.tripped := rfl
@[simp] theorem setTrigQ_errBuf (s : State) (n : Nat) (q : List Trig) : (s.setTrigQ n q).errBuf = s.errBuf := rfl
@[simp] theorem setTrigQ_freeIx (s : State) (n : Nat) (q : List Trig) : (s.setTrigQ n q).freeIx = s.freeIx := rfl
@[simp] theorem setTrigQ_nextId (s : State) (n : Nat) (q : List Trig) : (s.setTrigQ n q).nextId = s.nextId := rfl
@[simp] theorem setTrigQ_stages (s : State) (n : Nat) (q : List Trig) : (s.setTrigQ n q).stages = s.stages := rfl
@[simp] theorem setTrigQ_mbs (s : State) (n : Nat) (q : List Trig) : (s.setTrigQ n q).mbs = s.mbs := rfl
@[simp] theorem setTrigQ_engines (s : State) (n : Nat) (q : List Trig) : (s.setTrigQ n q).engines = s.engines := rfl
@[simp] theorem setTrigQ_cores (s : State) (n : Nat) (q : List Trig) : (s.setTrigQ n q).cores = s.cores := rfl
@[simp] theorem setTrigQ_ledgers (s : State) (n : Nat) (q : List Trig) : (s.setTrigQ n q).ledgers = s.ledgers := rfl
@[simp] theorem setTrigQ_xfers (s : State) (n : Nat) (q : List Trig) : (s.setTrigQ n q).xfers = s.xfers := rfl
@[simp] theorem setTrigQ_rings (s : State) (n : Nat) (q : List Trig) : (s.setTrigQ n q).rings = s.rings := rfl
@[simp] theorem setTrigQ_ports (s : State) (n : Nat) (q : List Trig) : (s.setTrigQ n q).ports = s.ports := rfl
@[simp] theorem setTrigQ_rd (s : State) (n : Nat) (q : List Trig) (k' : Nat) : (s.setTrigQ n q).rd k' = s.rd k' := rfl
@[simp] theorem setTrigQ_byte (s : State) (n : Nat) (q : List Trig) (k' : Nat) : (s.setTrigQ n q).byte k' = s.byte k' := rfl

/-! ### setGov -/

@[simp] theorem setGov_jnl (s : State) (n : Nat) (g : Gov) : (s.setGov n g).jnl = s.jnl := rfl
@[simp] theorem setGov_regs (s : State) (n : Nat) (g : Gov) : (s.setGov n g).regs = s.regs := rfl
@[simp] theorem setGov_mem (s : State) (n : Nat) (g : Gov) : (s.setGov n g).mem = s.mem := rfl
@[simp] theorem setGov_out (s : State) (n : Nat) (g : Gov) : (s.setGov n g).out = s.out := rfl
@[simp] theorem setGov_now (s : State) (n : Nat) (g : Gov) : (s.setGov n g).now = s.now := rfl
@[simp] theorem setGov_pending (s : State) (n : Nat) (g : Gov) : (s.setGov n g).pending = s.pending := rfl
@[simp] theorem setGov_held (s : State) (n : Nat) (g : Gov) : (s.setGov n g).held = s.held := rfl
@[simp] theorem setGov_tripped (s : State) (n : Nat) (g : Gov) : (s.setGov n g).tripped = s.tripped := rfl
@[simp] theorem setGov_errBuf (s : State) (n : Nat) (g : Gov) : (s.setGov n g).errBuf = s.errBuf := rfl
@[simp] theorem setGov_freeIx (s : State) (n : Nat) (g : Gov) : (s.setGov n g).freeIx = s.freeIx := rfl
@[simp] theorem setGov_nextId (s : State) (n : Nat) (g : Gov) : (s.setGov n g).nextId = s.nextId := rfl
@[simp] theorem setGov_stages (s : State) (n : Nat) (g : Gov) : (s.setGov n g).stages = s.stages := rfl
@[simp] theorem setGov_mbs (s : State) (n : Nat) (g : Gov) : (s.setGov n g).mbs = s.mbs := rfl
@[simp] theorem setGov_engines (s : State) (n : Nat) (g : Gov) : (s.setGov n g).engines = s.engines := rfl
@[simp] theorem setGov_cores (s : State) (n : Nat) (g : Gov) : (s.setGov n g).cores = s.cores := rfl
@[simp] theorem setGov_ledgers (s : State) (n : Nat) (g : Gov) : (s.setGov n g).ledgers = s.ledgers := rfl
@[simp] theorem setGov_xfers (s : State) (n : Nat) (g : Gov) : (s.setGov n g).xfers = s.xfers := rfl
@[simp] theorem setGov_rings (s : State) (n : Nat) (g : Gov) : (s.setGov n g).rings = s.rings := rfl
@[simp] theorem setGov_ports (s : State) (n : Nat) (g : Gov) : (s.setGov n g).ports = s.ports := rfl
@[simp] theorem setGov_rd (s : State) (n : Nat) (g : Gov) (k' : Nat) : (s.setGov n g).rd k' = s.rd k' := rfl
@[simp] theorem setGov_byte (s : State) (n : Nat) (g : Gov) (k' : Nat) : (s.setGov n g).byte k' = s.byte k' := rfl

/-! ### setLoad -/

@[simp] theorem setLoad_jnl (s : State) (j : LoadJob) : (s.setLoad j).jnl = s.jnl := rfl
@[simp] theorem setLoad_regs (s : State) (j : LoadJob) : (s.setLoad j).regs = s.regs := rfl
@[simp] theorem setLoad_mem (s : State) (j : LoadJob) : (s.setLoad j).mem = s.mem := rfl
@[simp] theorem setLoad_out (s : State) (j : LoadJob) : (s.setLoad j).out = s.out := rfl
@[simp] theorem setLoad_now (s : State) (j : LoadJob) : (s.setLoad j).now = s.now := rfl
@[simp] theorem setLoad_pending (s : State) (j : LoadJob) : (s.setLoad j).pending = s.pending := rfl
@[simp] theorem setLoad_held (s : State) (j : LoadJob) : (s.setLoad j).held = s.held := rfl
@[simp] theorem setLoad_tripped (s : State) (j : LoadJob) : (s.setLoad j).tripped = s.tripped := rfl
@[simp] theorem setLoad_errBuf (s : State) (j : LoadJob) : (s.setLoad j).errBuf = s.errBuf := rfl
@[simp] theorem setLoad_freeIx (s : State) (j : LoadJob) : (s.setLoad j).freeIx = s.freeIx := rfl
@[simp] theorem setLoad_nextId (s : State) (j : LoadJob) : (s.setLoad j).nextId = s.nextId := rfl
@[simp] theorem setLoad_stages (s : State) (j : LoadJob) : (s.setLoad j).stages = s.stages := rfl
@[simp] theorem setLoad_mbs (s : State) (j : LoadJob) : (s.setLoad j).mbs = s.mbs := rfl
@[simp] theorem setLoad_engines (s : State) (j : LoadJob) : (s.setLoad j).engines = s.engines := rfl
@[simp] theorem setLoad_cores (s : State) (j : LoadJob) : (s.setLoad j).cores = s.cores := rfl
@[simp] theorem setLoad_ledgers (s : State) (j : LoadJob) : (s.setLoad j).ledgers = s.ledgers := rfl
@[simp] theorem setLoad_xfers (s : State) (j : LoadJob) : (s.setLoad j).xfers = s.xfers := rfl
@[simp] theorem setLoad_rings (s : State) (j : LoadJob) : (s.setLoad j).rings = s.rings := rfl
@[simp] theorem setLoad_ports (s : State) (j : LoadJob) : (s.setLoad j).ports = s.ports := rfl
@[simp] theorem setLoad_rd (s : State) (j : LoadJob) (k' : Nat) : (s.setLoad j).rd k' = s.rd k' := rfl
@[simp] theorem setLoad_byte (s : State) (j : LoadJob) (k' : Nat) : (s.setLoad j).byte k' = s.byte k' := rfl
@[simp] theorem emit_rd (s : State) (o : Out) (k' : Nat) : (s.emit o).rd k' = s.rd k' := rfl
@[simp] theorem emit_byte (s : State) (o : Out) (k' : Nat) : (s.emit o).byte k' = s.byte k' := rfl
@[simp] theorem answer_rd (s : State) (st : Nat) (v : Word) (k' : Nat) : (s.answer st v).rd k' = s.rd k' := rfl
@[simp] theorem answer_byte (s : State) (st : Nat) (v : Word) (k' : Nat) : (s.answer st v).byte k' = s.byte k' := rfl
@[simp] theorem logEnt_rd (s : State) (lg blk ev : Nat) (e : EvInfo) (k' : Nat) : (s.logEnt lg blk ev e).rd k' = s.rd k' := rfl
@[simp] theorem logEnt_byte (s : State) (lg blk ev : Nat) (e : EvInfo) (k' : Nat) : (s.logEnt lg blk ev e).byte k' = s.byte k' := rfl
@[simp] theorem free_rd (s : State) (k' : Nat) : (s.free.2).rd k' = s.rd k' := rfl
@[simp] theorem free_byte (s : State) (k' : Nat) : (s.free.2).byte k' = s.byte k' := rfl

end Sys2Proof.Laws
end

