-- ==== Sys2Proof/Laws/Bus.lean ====
section
/-!
SUPPORT. The register bus: all that a write of a register can do, and the answer of the commands that are such writes.
-/

namespace Sys2Proof.Laws

open Sys2Proof Sys2Proof.Machine

/-- A state without outstanding writes is the state that a command starts from. -/
theorem no_jnl {s : State} (h : s.jnl = []) : { s with jnl := [] } = s := by cases s; simp_all

/-- A command of a running block in canonical form answers the commit of its effect. -/
theorem live_eq {s : State} (h : s.Live) (hc : s.Canonical) (f : State → State) : live s f = .next (s.commit (f s)) := by
  rw [live_next h, no_jnl hc.2.2]

/-- A pin's effect in canonical form. -/
theorem pinAct_eq {s : State} (hc : s.Canonical) (f : State → State) : pinAct s f = .next (s.commit (f s)) := by
  rw [pinAct, no_jnl hc.2.2]

/-- An address of a control space that is no command memory. -/
def isCtl (a : Nat) : Bool :=
  match placeOf a with
  | .ctl _ _ => true
  | _ => false

/-- A write of a whole register that its master may make: the register's own effect, and the answer (R7, R9, R486). -/
theorem write_register {s : State} {master src a : Nat} {v : Word} {h : RegHit} (hp : isCtl a = true) (ha : a % 8 = 0)
    (hf : regFind a = some h) (hb : h.byte = 0) (hm : master ≠ 0xE4) (hw : s.writeAdmit master src h = .yes)
    (hs : (stageReg h.row.name && !s.ctxValid (h.i 0) (h.i 1)) = false) :
    fxWriteFrom master src a v s = (s.regEffect master src h (h.addr a) 0 v).2.answer (s.regEffect master src h (h.addr a) 0 v).1 0 := by
  unfold isCtl at hp
  have hlen : (toBytes 8 v.toNat).length = 8 := length_toBytes 8 _
  unfold fxWriteFrom State.busWrite
  split at hp
  · rename_i n off hpl
    rw [hpl]
    simp only [State.regWrite, regAligned, hlen, ha, hm, hf, hw, hs, hb]
    simp [ofBytes_toBytes_word, w]
  · cases hp

/-- A write that its master may not make is denied and has no effect (R405, R439, R443). -/
theorem write_denied {s : State} {master src a : Nat} {v : Word} {h : RegHit} (hp : isCtl a = true) (ha : a % 8 = 0)
    (hf : regFind a = some h) (hm : master ≠ 0xE4) (hw : s.writeAdmit master src h = .denied) :
    fxWriteFrom master src a v s = s.answer St.denied 0 := by
  unfold isCtl at hp
  have hlen : (toBytes 8 v.toNat).length = 8 := length_toBytes 8 _
  unfold fxWriteFrom State.busWrite
  split at hp
  · rename_i n off hpl
    rw [hpl]
    simp [State.regWrite, regAligned, hlen, ha, hm, hf, hw]
  · cases hp

/-- A register access that is not naturally aligned, or narrower than 4 or wider than 8 bytes, ends with MISALIGN and has no
effect (R7). -/
theorem write_misaligned {s : State} {master src a : Nat} {bs : List Byte} (h : regAligned a bs.length = false) :
    s.regWrite master src a bs = (St.misalign, s) := by
  simp [State.regWrite, h]

/-- The bits of a whole-register write. -/
@[simp] theorem halfMask_zero : halfMask 0 = 0xFFFFFFFFFFFFFFFF := by decide

theorem and_ones (v : Word) : v &&& 0xFFFFFFFFFFFFFFFF = v := by
  have : (0xFFFFFFFFFFFFFFFF : Word) = BitVec.allOnes 64 := by decide
  rw [this, BitVec.and_allOnes]

/-! ### What the block sends -/

/-- A ledger's send shows at most its own record (R338). -/
theorem emitNet_cases (s : State) (o : Out) :
    s.emitNet o = s ∧ s.mayOriginate = false ∨ s.emitNet o = s.emit o ∧ s.mayOriginate = true := by
  unfold State.emitNet
  cases s.mayOriginate
  · exact .inl ⟨rfl, rfl⟩
  · exact .inr ⟨rfl, rfl⟩

/-- The READY pin is shown only where it has changed (R473). -/
theorem showReady_cases (s : State) (was : Bool) : s.showReady was = s ∨ s.showReady was = s.emit (.ready (!was)) := by
  unfold State.showReady
  split
  · exact .inl rfl
  · rename_i h
    refine .inr ?_
    cases hr : s.readyPin <;> cases was <;> simp_all

@[simp] theorem emitNet_rd (s : State) (o : Out) (a : Nat) : (s.emitNet o).rd a = s.rd a := by
  rcases emitNet_cases s o with h | h <;> rw [h.1]; rfl

@[simp] theorem emitNet_byte (s : State) (o : Out) (a : Nat) : (s.emitNet o).byte a = s.byte a := by
  rcases emitNet_cases s o with h | h <;> rw [h.1]; rfl

/-- A step of a dispatch unit or an inbox is done, or it asks the guest and nothing else has changed. -/
theorem guestTry_cases (s : State) (rs : List GuestReply) (f : State → State) :
    (s.guestTry rs f).1 = none ∨ ∃ q, s.guestTry rs f = (some q, rs, s) := by
  unfold State.guestTry
  simp only
  split
  · exact .inl rfl
  · exact .inr ⟨_, rfl⟩

/-- An access in control space never waits for a port (R296). -/
theorem portLost_ctl {s : State} {m a : Nat} (h : isCtl a = true) : s.portLost m a = false := by
  unfold isCtl at h
  unfold State.portLost dataPlace
  split at h
  · rename_i hp; rw [hp]; simp
  · cases h

end Sys2Proof.Laws
end

