-- ==== Sys2Proof/Laws/Exec.lean ====
section
/-!
SUPPORT. All that a command can do: the form of every meaning, and what each form can answer.
-/

namespace Sys2Proof.Laws

open Sys2Proof Sys2Proof.Machine

/-- A pin that a tripped block no longer takes. -/
def pinLive (s : State) (f : State → State) : Host.Outcome State Fault Refusal :=
  if s.tripped then .fault .afterTrip else pinAct s f

/-- A pin that a held block ignores. -/
def pinHeld (s : State) (f : State → State) : Host.Outcome State Fault Refusal :=
  if s.tripped then .fault .afterTrip else if s.held then .next s else pinAct s f

/-! ### The arms -/

theorem exec_registerWrite (master : BitVec 8) (addr : BitVec 46) (size : Nat) (value : Word) (s : State) : exec (.registerWrite master addr size value) s = live s (fxRegisterWrite master.toNat addr.toNat size value) := rfl

theorem exec_cmdMemoryAccess (master : BitVec 8) (dev : BitVec 18) (write : Bool) (addr : BitVec 46) (size : Nat) (data : List Byte) (s : State) : exec (.cmdMemoryAccess master dev write addr size data) s = live s (fxCmdMemoryAccess master.toNat dev.toNat write addr.toNat size data) := rfl

theorem exec_nop (ring : BitVec 4) (s : State) : exec (.nop ring) s = live s (fxNop ring.toNat) := rfl

theorem exec_writeInline (ring : BitVec 4) (s : State) : exec (.writeInline ring) s = live s (fxWriteInline ring.toNat) := rfl

theorem exec_read8 (ring : BitVec 4) (s : State) : exec (.read8 ring) s = live s (fxRead8 ring.toNat) := rfl

theorem exec_copy (ring : BitVec 4) (s : State) : exec (.copy ring) s = live s (fxCopy ring.toNat) := rfl

theorem exec_dmaChannelStart (s : State) : exec (.dmaChannelStart) s = live s fxDmaChannelStart := rfl

theorem exec_copyComplete (channel : BitVec 2) (s : State) : exec (.copyComplete channel) s = live s (fxCopyComplete channel.toNat) := rfl

theorem exec_load (ring : BitVec 4) (s : State) : exec (.load ring) s = live s (fxLoad ring.toNat) := rfl

theorem exec_manifestFetchDone (s : State) : exec (.manifestFetchDone) s = live s fxManifestFetchDone := rfl

theorem exec_initfetch (s : State) : exec (.initfetch) s = live s fxInitfetch := rfl

theorem exec_loadComplete (s : State) : exec (.loadComplete) s = live s fxLoadComplete := rfl

theorem exec_start (ring : BitVec 4) (s : State) : exec (.start ring) s = live s (fxStart ring.toNat) := rfl

theorem exec_unload (ring : BitVec 4) (s : State) : exec (.unload ring) s = live s (fxUnload ring.toNat) := rfl

theorem exec_zeroisationComplete (s : State) : exec (.zeroisationComplete) s = live s fxZeroisationComplete := rfl

theorem exec_resetReq (ring : BitVec 4) (s : State) : exec (.resetReq ring) s = live s (fxResetReq ring.toNat) := rfl

theorem exec_quote (ring : BitVec 4) (s : State) : exec (.quote ring) s = live s (fxQuote ring.toNat) := rfl

theorem exec_cmdDbPi (master : BitVec 8) (src : BitVec 18) (ring : BitVec 4) (value : Word) (s : State) : exec (.cmdDbPi master src ring value) s = live s (fxWriteFrom master.toNat src.toNat (Reg.CMD_DB_PI ring.toNat) (value)) := rfl

theorem exec_cmdDbCqh (master : BitVec 8) (src : BitVec 18) (ring : BitVec 4) (value : Word) (s : State) : exec (.cmdDbCqh master src ring value) s = live s (fxWriteFrom master.toNat src.toNat (Reg.CMD_DB_CQH ring.toNat) (value)) := rfl

theorem exec_ringEnable (master : BitVec 8) (ring : BitVec 4) (value : Word) (s : State) : exec (.ringEnable master ring value) s = live s fun s => fxWriteFrom master.toNat s.devId (Reg.CMD_RING_CFG ring.toNat) (setBit value 63) s := rfl

theorem exec_ringDisable (master : BitVec 8) (ring : BitVec 4) (value : Word) (s : State) : exec (.ringDisable master ring value) s = live s fun s => fxWriteFrom master.toNat s.devId (Reg.CMD_RING_CFG ring.toNat) (clrBit value 63) s := rfl

theorem exec_ringDisabled (ring : BitVec 4) (s : State) : exec (.ringDisabled ring) s = live s (fxRingDisabled ring.toNat) := rfl

theorem exec_resume (master : BitVec 8) (src : BitVec 18) (ring : BitVec 4) (s : State) : exec (.resume master src ring) s = live s (fxWriteFrom master.toNat src.toNat (Reg.CMD_RING_CTL ring.toNat) (1)) := rfl

theorem exec_stop (master : BitVec 8) (src : BitVec 18) (ring : BitVec 4) (s : State) : exec (.stop master src ring) s = live s (fxWriteFrom master.toNat src.toNat (Reg.CMD_RING_CTL ring.toNat) (2)) := rfl

theorem exec_entryFetch (ring : BitVec 4) (s : State) : exec (.entryFetch ring) s = live s (fxEntryFetch ring.toNat) := rfl

theorem exec_stampReread (ring : BitVec 4) (s : State) : exec (.stampReread ring) s = live s (fxStampReread ring.toNat) := rfl

theorem exec_stampTimeout (ring : BitVec 4) (s : State) : exec (.stampTimeout ring) s = live s (fxStampTimeout ring.toNat) := rfl

theorem exec_completionWrite (ring : BitVec 4) (index : BitVec 32) (s : State) : exec (.completionWrite ring index) s = live s (fxCompletionWrite ring.toNat index.toNat) := rfl

theorem exec_cqfailRetry (ring : BitVec 4) (index : BitVec 32) (s : State) : exec (.cqfailRetry ring index) s = live s (fxCqfailRetry ring.toNat index.toNat) := rfl

theorem exec_mbxSend (master : BitVec 8) (src : BitVec 18) (channel : BitVec 6) (value : Word) (s : State) : exec (.mbxSend master src channel value) s = live s (fxWriteFrom master.toNat src.toNat (Reg.MBX_SEND channel.toNat) (value)) := rfl

theorem exec_mbxAck (master : BitVec 8) (src : BitVec 18) (channel : BitVec 6) (value : Word) (s : State) : exec (.mbxAck master src channel value) s = live s (fxWriteFrom master.toNat src.toNat (Reg.MBX_ACK channel.toNat) (value)) := rfl

theorem exec_mbxDataWrite (master : BitVec 8) (src : BitVec 18) (channel : BitVec 6) (word : BitVec 3) (value : Word) (s : State) : exec (.mbxDataWrite master src channel word value) s = live s (fxWriteFrom master.toNat src.toNat (Reg.MBX_DATA channel.toNat word.toNat) (value)) := rfl

theorem exec_mbxBindWrite (master : BitVec 8) (channel : BitVec 6) (value : Word) (s : State) : exec (.mbxBindWrite master channel value) s = live s fun s => fxWriteFrom master.toNat s.devId (Reg.MBX_BIND channel.toNat) (value) s := rfl

theorem exec_mbxLockWrite (master : BitVec 8) (s : State) : exec (.mbxLockWrite master) s = live s fun s => fxWriteFrom master.toNat s.devId (Reg.MBX_LOCK) (1) s := rfl

theorem exec_slotStart (die : BitVec 2) (ctx : BitVec 5) (s : State) : exec (.slotStart die ctx) s = live s (fxSlotStart die.toNat ctx.toNat) := rfl

theorem exec_slotBudgetExpire (die : BitVec 2) (ctx : BitVec 5) (s : State) : exec (.slotBudgetExpire die ctx) s = live s (fxSlotBudgetExpire die.toNat ctx.toNat) := rfl

theorem exec_slotComplete (die : BitVec 2) (ctx : BitVec 5) (s : State) : exec (.slotComplete die ctx) s = live s (fxSlotComplete die.toNat ctx.toNat) := rfl

theorem exec_backhaulSwitch (die : BitVec 2) (ctx : BitVec 5) (s : State) : exec (.backhaulSwitch die ctx) s = live s (fxBackhaulSwitch die.toNat ctx.toNat) := rfl

theorem exec_backhaulReturn (die : BitVec 2) (ctx : BitVec 5) (s : State) : exec (.backhaulReturn die ctx) s = live s (fxBackhaulReturn die.toNat ctx.toNat) := rfl

theorem exec_admission (die : BitVec 2) (ctx : BitVec 5) (s : State) : exec (.admission die ctx) s = live s (fxAdmission die.toNat ctx.toNat) := rfl

theorem exec_mbqAbort (master : BitVec 8) (die : BitVec 2) (ctx : BitVec 5) (value : Word) (s : State) : exec (.mbqAbort master die ctx value) s = live s fun s => fxWriteFrom master.toNat s.devId (Reg.MBQ_ABORT die.toNat ctx.toNat) (value) s := rfl

theorem exec_abortRelease (die : BitVec 2) (ctx : BitVec 5) (mb : BitVec 8) (s : State) : exec (.abortRelease die ctx mb) s = live s (fxAbortRelease die.toNat ctx.toNat mb.toNat) := rfl

theorem exec_mbqGateWrite (master : BitVec 8) (die : BitVec 2) (ctx : BitVec 5) (value : Word) (s : State) : exec (.mbqGateWrite master die ctx value) s = live s fun s => fxWriteFrom master.toNat s.devId (Reg.MBQ_GATE die.toNat ctx.toNat) (value) s := rfl

theorem exec_mbqCtxSelWrite (master : BitVec 8) (die : BitVec 2) (value : Word) (s : State) : exec (.mbqCtxSelWrite master die value) s = live s fun s => fxWriteFrom master.toNat s.devId (Reg.MBQ_CTX_SEL die.toNat) (value) s := rfl

theorem exec_ledgerReadFault (ledger : BitVec 16) (status : BitVec 8) (s : State) : exec (.ledgerReadFault ledger status) s = live s (fxLedgerReadFault ledger.toNat status.toNat) := rfl

theorem exec_stepVoteReady (s : State) : exec (.stepVoteReady) s = live s fxStepVoteReady := rfl

theorem exec_stepCommit (s : State) : exec (.stepCommit) s = live s fxStepCommit := rfl

theorem exec_stepDiscard (s : State) : exec (.stepDiscard) s = live s fxStepDiscard := rfl

theorem exec_ledResolveCommit (master : BitVec 8) (value : Word) (s : State) : exec (.ledResolveCommit master value) s = live s fun s => fxWriteFrom master.toNat s.devId (Reg.LED_RESOLVE 0) (clrBit value 62) s := rfl

theorem exec_ledResolveDiscard (master : BitVec 8) (value : Word) (s : State) : exec (.ledResolveDiscard master value) s = live s fun s => fxWriteFrom master.toNat s.devId (Reg.LED_RESOLVE 0) (setBit value 62) s := rfl

theorem exec_ledSelWrite (master : BitVec 8) (value : Word) (s : State) : exec (.ledSelWrite master value) s = live s fun s => fxWriteFrom master.toNat s.devId (Reg.LED_SEL 0) (value) s := rfl

theorem exec_replicaRegister (src : BitVec 18) (shard : BitVec 32) (s : State) : exec (.replicaRegister src shard) s = live s (fxReplicaRegister src.toNat shard.toNat) := rfl

theorem exec_registerRetry (ledger : BitVec 16) (s : State) : exec (.registerRetry ledger) s = live s (fxRegisterRetry ledger.toNat) := rfl

theorem exec_registerReply (ledger : BitVec 16) (result : BitVec 2) (header : Word) (s : State) : exec (.registerReply ledger result header) s = live s (fxRegisterReply ledger.toNat result.toNat header.toNat) := rfl

theorem exec_commitNotice (notice : List Byte) (s : State) : exec (.commitNotice notice) s = live s (fxCommitNotice notice) := rfl

theorem exec_replicaFetchDone (ledger : BitVec 16) (s : State) : exec (.replicaFetchDone ledger) s = live s (fxReplicaFetchDone ledger.toNat) := rfl

theorem exec_noticeRelease (src : BitVec 18) (shard : BitVec 32) (s : State) : exec (.noticeRelease src shard) s = live s (fxNoticeRelease src.toNat shard.toNat) := rfl

theorem exec_nopMe (engine : BitVec 6) (s : State) : exec (.nopMe engine) s = live s (mxRun engine.toNat (.nopMe engine) (fxNopMe engine.toNat)) := rfl

theorem exec_cfg (engine : BitVec 6) (sel : BitVec 2) (value : BitVec 48) (s : State) : exec (.cfg engine sel value) s = live s (mxRun engine.toNat (.cfg engine sel value) (fxCfg engine.toNat sel.toNat value.toNat)) := rfl

theorem exec_setx (engine : BitVec 6) (d : BitVec 4) (imm : BitVec 48) (s : State) : exec (.setx engine d imm) s = live s (mxRun engine.toNat (.setx engine d imm) (fxSetx engine.toNat d.toNat imm.toNat)) := rfl

theorem exec_addx (engine : BitVec 6) (d src : BitVec 4) (imm : BitVec 32) (s : State) : exec (.addx engine d src imm) s = live s (mxRun engine.toNat (.addx engine d src imm) (fxAddx engine.toNat d.toNat src.toNat imm)) := rfl

theorem exec_lea (engine : BitVec 6) (d : BitVec 4) (space : BitVec 2) (handle : BitVec 16) (imm : BitVec 32) (s : State) : exec (.lea engine d space handle imm) s = live s (mxRun engine.toNat (.lea engine d space handle imm) (fxLea engine.toNat d.toNat space.toNat handle.toNat imm)) := rfl

theorem exec_addxx (engine : BitVec 6) (d src tx : BitVec 4) (s : State) : exec (.addxx engine d src tx) s = live s (mxRun engine.toNat (.addxx engine d src tx) (fxAddxx engine.toNat d.toNat src.toNat tx.toNat)) := rfl

theorem exec_lda (engine : BitVec 6) (t half : Bool) (x : BitVec 4) (offset : BitVec 32) (s : State) : exec (.lda engine t half x offset) s = live s (mxRun engine.toNat (.lda engine t half x offset) (fxLoadTile false engine.toNat t (bb half) x.toNat offset.toNat)) := rfl

theorem exec_ldb (engine : BitVec 6) (t half : Bool) (x : BitVec 4) (offset : BitVec 32) (s : State) : exec (.ldb engine t half x offset) s = live s (mxRun engine.toNat (.ldb engine t half x offset) (fxLoadTile true engine.toNat t (bb half) x.toNat offset.toNat)) := rfl

theorem exec_lds (engine : BitVec 6) (half : Bool) (kind : BitVec 2) (x : BitVec 4) (offset : BitVec 32) (s : State) : exec (.lds engine half kind x offset) s = live s (mxRun engine.toNat (.lds engine half kind x offset) (fxLds engine.toNat (bb half) kind.toNat x.toNat offset.toNat)) := rfl

theorem exec_mma (engine : BitVec 6) (clr ah bh mask : Bool) (tile : BitVec 5) (s : State) : exec (.mma engine clr ah bh mask tile) s = live s (mxRun engine.toNat (.mma engine clr ah bh mask tile) (fxMma engine.toNat clr (bb ah) (bb bh) mask tile.toNat)) := rfl

theorem exec_drnPlain (engine : BitVec 6) (tile : BitVec 5) (keep : Bool) (x xs : BitVec 4) (offset : BitVec 32) (s : State) : exec (.drnPlain engine tile keep x xs offset) s = live s (mxRun engine.toNat (.drnPlain engine tile keep x xs offset) (fxDrn .plain engine.toNat tile.toNat keep x.toNat xs.toNat offset.toNat)) := rfl

theorem exec_drnAmax (engine : BitVec 6) (tile : BitVec 5) (keep : Bool) (x xs : BitVec 4) (offset : BitVec 32) (s : State) : exec (.drnAmax engine tile keep x xs offset) s = live s (mxRun engine.toNat (.drnAmax engine tile keep x xs offset) (fxDrn .amax engine.toNat tile.toNat keep x.toNat xs.toNat offset.toNat)) := rfl

theorem exec_drnQuant (engine : BitVec 6) (tile : BitVec 5) (keep : Bool) (x xs : BitVec 4) (offset : BitVec 32) (s : State) : exec (.drnQuant engine tile keep x xs offset) s = live s (mxRun engine.toNat (.drnQuant engine tile keep x xs offset) (fxDrn .quant engine.toNat tile.toNat keep x.toNat xs.toNat offset.toNat)) := rfl

theorem exec_drnTopk (engine : BitVec 6) (tile : BitVec 5) (keep : Bool) (x xs : BitVec 4) (offset : BitVec 32) (s : State) : exec (.drnTopk engine tile keep x xs offset) s = live s (mxRun engine.toNat (.drnTopk engine tile keep x xs offset) (fxDrn .topk engine.toNat tile.toNat keep x.toNat xs.toNat offset.toNat)) := rfl

theorem exec_drnTopkEmit (engine : BitVec 6) (tile : BitVec 5) (keep : Bool) (x xs : BitVec 4) (offset : BitVec 32) (s : State) : exec (.drnTopkEmit engine tile keep x xs offset) s = live s (mxRun engine.toNat (.drnTopkEmit engine tile keep x xs offset) (fxDrn .topkEmit engine.toNat tile.toNat keep x.toNat xs.toNat offset.toNat)) := rfl

theorem exec_waitm (engine : BitVec 6) (counter : BitVec 14) (x : BitVec 4) (s : State) : exec (.waitm engine counter x) s = live s (mxRun engine.toNat (.waitm engine counter x) (fxWaitm engine.toNat counter.toNat x.toNat)) := rfl

theorem exec_advm (engine : BitVec 6) (counter : BitVec 14) (imm : BitVec 32) (s : State) : exec (.advm engine counter imm) s = live s (mxRun engine.toNat (.advm engine counter imm) (fxAdvm engine.toNat counter.toNat imm.toNat)) := rfl

theorem exec_bar (engine : BitVec 6) (barrier : BitVec 10) (s : State) : exec (.bar engine barrier) s = live s (mxRun engine.toNat (.bar engine barrier) (fxBar engine.toNat barrier.toNat)) := rfl

theorem exec_loop (engine : BitVec 6) (l : BitVec 2) (count : BitVec 16) (target : BitVec 32) (s : State) : exec (.loop engine l count target) s = live s (mxRun engine.toNat (.loop engine l count target) (fxLoop engine.toNat l.toNat count.toNat target.toNat)) := rfl

theorem exec_jmp (engine : BitVec 6) (target : BitVec 32) (s : State) : exec (.jmp engine target) s = live s (mxRun engine.toNat (.jmp engine target) (fxJmp engine.toNat target.toNat)) := rfl

theorem exec_bnz (engine : BitVec 6) (x : BitVec 4) (target : BitVec 32) (s : State) : exec (.bnz engine x target) s = live s (mxRun engine.toNat (.bnz engine x target) (fxBnz engine.toNat x.toNat target.toNat)) := rfl

theorem exec_endOp (engine : BitVec 6) (s : State) : exec (.endOp engine) s = live s (mxRun engine.toNat (.endOp engine) (fxEndOp engine.toNat)) := rfl

theorem exec_mxIxSelWrite (master : BitVec 8) (engine : BitVec 6) (value : Word) (s : State) : exec (.mxIxSelWrite master engine value) s = live s fun s => fxWriteFrom master.toNat s.devId (mxReg Reg.MX_IX_SEL engine.toNat) (value) s := rfl

theorem exec_dspSubmit (master : BitVec 8) (die : BitVec 2) (value : Word) (s : State) : exec (.dspSubmit master die value) s = live s fun s => fxWriteFrom master.toNat s.devId (Reg.DSP_SUBMIT die.toNat) (value) s := rfl

theorem exec_dispatchRun (die : BitVec 2) (s : State) : exec (.dispatchRun die) s = live s (fxDispatchRun die.toNat) := rfl

theorem exec_dispatchNotices (die : BitVec 2) (s : State) : exec (.dispatchNotices die) s = live s (fxDispatchNotices die.toNat) := rfl

theorem exec_dispatchComplete (die : BitVec 2) (s : State) : exec (.dispatchComplete die) s = live s (fxDispatchComplete die.toNat) := rfl

theorem exec_inboxNotice (die : BitVec 2) (inbox : BitVec 6) (s : State) : exec (.inboxNotice die inbox) s = live s (fxInboxNotice die.toNat inbox.toNat) := rfl

theorem exec_inboxEmit (die : BitVec 2) (inbox : BitVec 6) (position : BitVec 32) (s : State) : exec (.inboxEmit die inbox position) s = live s (fxInboxEmit die.toNat inbox.toNat position.toNat) := rfl

theorem exec_readfail (die : BitVec 2) (inbox : BitVec 6) (position : BitVec 32) (s : State) : exec (.readfail die inbox position) s = live s (fxReadfail die.toNat inbox.toNat position.toNat) := rfl

theorem exec_updTrigger (master : BitVec 8) (die : BitVec 2) (value : Word) (s : State) : exec (.updTrigger master die value) s = live s fun s => fxWriteFrom master.toNat s.devId (Reg.UPD_TRIGGER die.toNat) (clrBit value 62) s := rfl

theorem exec_updSkip (master : BitVec 8) (die : BitVec 2) (value : Word) (s : State) : exec (.updSkip master die value) s = live s fun s => fxWriteFrom master.toNat s.devId (Reg.UPD_TRIGGER die.toNat) (clrBit (setBit value 62) 61) s := rfl

theorem exec_updSkipFail (master : BitVec 8) (die : BitVec 2) (value : Word) (s : State) : exec (.updSkipFail master die value) s = live s fun s => fxWriteFrom master.toNat s.devId (Reg.UPD_TRIGGER die.toNat) (setBit (setBit value 61) 62) s := rfl

theorem exec_updateStart (die : BitVec 2) (s : State) : exec (.updateStart die) s = live s (fxUpdateStart die.toNat) := rfl

theorem exec_updateSlotClaim (engine : BitVec 4) (s : State) : exec (.updateSlotClaim engine) s = live s (fxUpdateSlotClaim engine.toNat) := rfl

theorem exec_updateWritten (engine : BitVec 4) (s : State) : exec (.updateWritten engine) s = live s (updLive engine.toNat (fxUpdateWritten engine.toNat)) := rfl

theorem exec_updateNonfinite (engine : BitVec 4) (s : State) : exec (.updateNonfinite engine) s = live s (updLive engine.toNat (fxUpdateNonfinite engine.toNat)) := rfl

theorem exec_updateAccessFail (engine : BitVec 4) (s : State) : exec (.updateAccessFail engine) s = live s (updLive engine.toNat (fxUpdateAccessFail engine.toNat)) := rfl

theorem exec_riscvInstruction (core : BitVec 7) (s : State) : exec (.riscvInstruction core) s = live s (fxRiscvInstruction core.toNat) := rfl

theorem exec_qsend (core : BitVec 7) (s : State) : exec (.qsend core) s = live s (fxExt core.toNat .qsend .none true fun x => x.send false) := rfl

theorem exec_qtry (core : BitVec 7) (s : State) : exec (.qtry core) s = live s (fxExt core.toNat .qtry .none false fun x => x.send true) := rfl

theorem exec_qfull (core : BitVec 7) (s : State) : exec (.qfull core) s = live s (fxQfull core.toNat) := rfl

theorem exec_qrecv (core : BitVec 7) (s : State) : exec (.qrecv core) s = live s (fxExt core.toNat .qrecv .recv true fun x => x.recv false) := rfl

theorem exec_qtryrecv (core : BitVec 7) (s : State) : exec (.qtryrecv core) s = live s (fxExt core.toNat .qtryrecv .none false fun x => x.recv true) := rfl

theorem exec_qsel (core : BitVec 7) (s : State) : exec (.qsel core) s = live s (fxExt core.toNat .qsel .sel true fun x => x.qsel) := rfl

theorem exec_qscfg (core : BitVec 7) (s : State) : exec (.qscfg core) s = live s (fxExt core.toNat .qscfg .none false fun x => x.qscfg) := rfl

theorem exec_madv (core : BitVec 7) (s : State) : exec (.madv core) s = live s (fxExt core.toNat .madv .none false fun x => x.madv) := rfl

theorem exec_mwait (core : BitVec 7) (s : State) : exec (.mwait core) s = live s (fxExt core.toNat .mwait .none true fun x => x.mwait) := rfl

theorem exec_mread (core : BitVec 7) (s : State) : exec (.mread core) s = live s (fxExt core.toNat .mread .none false fun x => x.mread) := rfl

theorem exec_barr (core : BitVec 7) (s : State) : exec (.barr core) s = live s (fxExt core.toNat .barr .none true fun x => x.barr) := rfl

theorem exec_dget (core : BitVec 7) (s : State) : exec (.dget core) s = live s (fxExt core.toNat .dget .none false fun x => x.dget) := rfl

theorem exec_dset (core : BitVec 7) (s : State) : exec (.dset core) s = live s (fxExt core.toNat .dset .none false fun x => x.dset) := rfl

theorem exec_dmask (core : BitVec 7) (s : State) : exec (.dmask core) s = live s (fxExt core.toNat .dmask .none false fun x => x.dmask) := rfl

theorem exec_hres (core : BitVec 7) (s : State) : exec (.hres core) s = live s (fxExt core.toNat .hres .none false fun x => x.hres) := rfl

theorem exec_slotend (core : BitVec 7) (s : State) : exec (.slotend core) s = live s (fxExt core.toNat .slotend .none true fun x => x.slotend) := rfl

theorem exec_remoteSendRetry (send : Nat) (s : State) : exec (.remoteSendRetry send) s = live s (fxResend send fun x => !x.down && x.typ == 5) := rfl

theorem exec_synMadv (master : BitVec 8) (die : BitVec 2) (value : Word) (s : State) : exec (.synMadv master die value) s = live s fun s => fxWriteFrom master.toNat s.devId (Reg.SYN_MADV die.toNat) (value) s := rfl

theorem exec_quPeekSel (master : BitVec 8) (die : BitVec 2) (value : Word) (s : State) : exec (.quPeekSel master die value) s = live s fun s => fxWriteFrom master.toNat s.devId (Reg.QU_PEEK_SEL die.toNat) (value) s := rfl

theorem exec_replayrateWindow (stack : BitVec 3) (s : State) : exec (.replayrateWindow stack) s = live s (fxReplayrateWindow stack.toNat) := rfl

theorem exec_memParThreshWrite (master : BitVec 8) (stack : BitVec 3) (value : Word) (s : State) : exec (.memParThreshWrite master stack value) s = live s fun s => fxWriteFrom master.toNat s.devId (Reg.MEM_PAR_THRESH stack.toNat) (value) s := rfl

theorem exec_holdcut (sram : Bool) (index : BitVec 3) (master : BitVec 8) (s : State) : exec (.holdcut sram index master) s = live s (fun s => s.holdCut sram (if sram then index.toNat % 4 else index.toNat) master.toNat) := rfl

theorem exec_portMask (master : BitVec 8) (masked : Bool) (s : State) : exec (.portMask master masked) s = live s (fxPortMask master.toNat masked) := rfl

theorem exec_offloadStart (s : State) : exec (.offloadStart) s = live s fxOffloadStart := rfl

theorem exec_offloadDone (die : BitVec 2) (ctx : BitVec 5) (mb : BitVec 8) (s : State) : exec (.offloadDone die ctx mb) s = live s (fxOffloadDone die.toNat ctx.toNat mb.toNat) := rfl

theorem exec_prefetchStart (die : BitVec 2) (ctx : BitVec 5) (mb : BitVec 8) (s : State) : exec (.prefetchStart die ctx mb) s = live s (fxPrefetchStart die.toNat ctx.toNat mb.toNat) := rfl

theorem exec_prefetchDone (die : BitVec 2) (ctx : BitVec 5) (mb : BitVec 8) (s : State) : exec (.prefetchDone die ctx mb) s = live s (fxPrefetchDone die.toNat ctx.toNat mb.toNat) := rfl

theorem exec_oflfail (die : BitVec 2) (ctx : BitVec 5) (mb : BitVec 8) (s : State) : exec (.oflfail die ctx mb) s = live s (fxOflfail die.toNat ctx.toNat mb.toNat) := rfl

theorem exec_fetchfail (die : BitVec 2) (ctx : BitVec 5) (mb : BitVec 8) (s : State) : exec (.fetchfail die ctx mb) s = live s (fxFetchfail die.toNat ctx.toNat mb.toNat) := rfl

theorem exec_dataFlit (port : BitVec 4) (flit : List Byte) (s : State) : exec (.dataFlit port flit) s = live s (fxDataFlit port.toNat flit) := rfl

theorem exec_idleFlit (port : BitVec 4) (flit : List Byte) (s : State) : exec (.idleFlit port flit) s = live s (fxIdleFlit port.toNat flit) := rfl

theorem exec_trainFlit (port : BitVec 4) (lane : BitVec 1) (skew : BitVec 8) (flit : List Byte) (s : State) : exec (.trainFlit port lane skew flit) s = live s (fxTrainFlit port.toNat lane.toNat skew.toNat flit) := rfl

theorem exec_downFlit (port : BitVec 4) (flit : List Byte) (s : State) : exec (.downFlit port flit) s = live s (fxDownFlit port.toNat flit) := rfl

theorem exec_replayTimeout (port : BitVec 4) (s : State) : exec (.replayTimeout port) s = live s (fxReplayTimeout port.toNat) := rfl

theorem exec_replayWindowEnd (port : BitVec 4) (s : State) : exec (.replayWindowEnd port) s = live s (fxReplayWindowEnd port.toNat) := rfl

theorem exec_rxtimeout (port : BitVec 4) (s : State) : exec (.rxtimeout port) s = live s (fxRxtimeout port.toNat) := rfl

theorem exec_laneSignalLoss (port : BitVec 4) (lane : BitVec 1) (lost : BitVec 3) (s : State) : exec (.laneSignalLoss port lane lost) s = live s (fun s => s.laneLost port.toNat lane.toNat lost.toNat) := rfl

theorem exec_laneLock (port : BitVec 4) (lane : BitVec 1) (power : BitVec 8) (s : State) : exec (.laneLock port lane power) s = live s (fxLaneLock port.toNat lane.toNat power.toNat) := rfl

theorem exec_trainTimeout (port : BitVec 4) (s : State) : exec (.trainTimeout port) s = live s (fxTrainTimeout port.toNat) := rfl

theorem exec_holdoffExpire (port : BitVec 4) (s : State) : exec (.holdoffExpire port) s = live s (fxHoldoffExpire port.toNat) := rfl

theorem exec_downFlitEnd (port : BitVec 4) (s : State) : exec (.downFlitEnd port) s = live s (fxDownFlitEnd port.toNat) := rfl

theorem exec_lnkReset (master : BitVec 8) (port : BitVec 4) (s : State) : exec (.lnkReset master port) s = live s fun s => fxWriteFrom master.toNat s.devId (Reg.LNK_CTL port.toNat) (1) s := rfl

theorem exec_lnkDisable (master : BitVec 8) (port : BitVec 4) (s : State) : exec (.lnkDisable master port) s = live s fun s => fxWriteFrom master.toNat s.devId (Reg.LNK_CTL port.toNat) (2) s := rfl

theorem exec_lnkEnable (master : BitVec 8) (port : BitVec 4) (s : State) : exec (.lnkEnable master port) s = live s fun s => fxWriteFrom master.toNat s.devId (Reg.LNK_CTL port.toNat) (4) s := rfl

theorem exec_linkdownResend (send : Nat) (s : State) : exec (.linkdownResend send) s = live s (fxResend send fun x => x.down) := rfl

theorem exec_read (port : BitVec 4) (s : State) : exec (.read port) s = live s (fxServe port.toNat fun b => pkType b == 1) := rfl

theorem exec_readSnoop (port : BitVec 4) (s : State) : exec (.readSnoop port) s = live s (fxServe port.toNat fun b => pkType b == 2) := rfl

theorem exec_write (port : BitVec 4) (s : State) : exec (.write port) s = live s (fxServe port.toNat fun b => pkType b == 3) := rfl

theorem exec_swap (port : BitVec 4) (s : State) : exec (.swap port) s = live s (fxServe port.toNat fun b => atomicOf 0 b || (pkType b == 4 && decide (9 < pkOp b))) := rfl

theorem exec_cas (port : BitVec 4) (s : State) : exec (.cas port) s = live s (fxServe port.toNat (atomicOf 1)) := rfl

theorem exec_add (port : BitVec 4) (s : State) : exec (.add port) s = live s (fxServe port.toNat (atomicOf 2)) := rfl

theorem exec_andOp (port : BitVec 4) (s : State) : exec (.andOp port) s = live s (fxServe port.toNat (atomicOf 3)) := rfl

theorem exec_orOp (port : BitVec 4) (s : State) : exec (.orOp port) s = live s (fxServe port.toNat (atomicOf 4)) := rfl

theorem exec_xorOp (port : BitVec 4) (s : State) : exec (.xorOp port) s = live s (fxServe port.toNat (atomicOf 5)) := rfl

theorem exec_minOp (port : BitVec 4) (s : State) : exec (.minOp port) s = live s (fxServe port.toNat (atomicOf 6)) := rfl

theorem exec_maxOp (port : BitVec 4) (s : State) : exec (.maxOp port) s = live s (fxServe port.toNat (atomicOf 7)) := rfl

theorem exec_minu (port : BitVec 4) (s : State) : exec (.minu port) s = live s (fxServe port.toNat (atomicOf 8)) := rfl

theorem exec_maxu (port : BitVec 4) (s : State) : exec (.maxu port) s = live s (fxServe port.toNat (atomicOf 9)) := rfl

theorem exec_message (port : BitVec 4) (s : State) : exec (.message port) s = live s (fxServe port.toNat fun b => pkType b == 5) := rfl

theorem exec_doorbell (port : BitVec 4) (s : State) : exec (.doorbell port) s = live s (fxDoorbell port.toNat) := rfl

theorem exec_response (port : BitVec 4) (s : State) : exec (.response port) s = live s (fxResponse port.toNat) := rfl

theorem exec_packetForward (port : BitVec 4) (s : State) : exec (.packetForward port) s = live s (fxPacketForward port.toNat) := rfl

theorem exec_responseTimeout (tag : BitVec 14) (s : State) : exec (.responseTimeout tag) s = live s (fxResponseTimeout tag.toNat) := rfl

theorem exec_quarantineEnd (tag : BitVec 14) (s : State) : exec (.quarantineEnd tag) s = live s (fxQuarantineEnd tag.toNat) := rfl

theorem exec_colSubmit (master : BitVec 8) (value : Word) (s : State) : exec (.colSubmit master value) s = live s fun s => fxWriteFrom master.toNat s.devId (Reg.COL_SUBMIT) (value) s := rfl

theorem exec_collectiveStart (s : State) : exec (.collectiveStart) s = live s fxCollectiveStart := rfl

theorem exec_segmentWritten (source : BitVec 18) (value : Word) (s : State) : exec (.segmentWritten source value) s = live s (fxFabricWrite source.toNat Reg.COL_RX (putBits value 59 58 0)) := rfl

theorem exec_slotFreed (source : BitVec 18) (value : Word) (s : State) : exec (.slotFreed source value) s = live s (fxFabricWrite source.toNat Reg.COL_RX (putBits value 59 58 1)) := rfl

theorem exec_permuteSent (source : BitVec 18) (value : Word) (s : State) : exec (.permuteSent source value) s = live s (fxFabricWrite source.toNat Reg.COL_RX (putBits value 59 58 2)) := rfl

theorem exec_colRxRetry (send : Nat) (s : State) : exec (.colRxRetry send) s = live s (fxResend send fun x => !x.down && x.typ == 3) := rfl

theorem exec_collectiveComplete (coll : BitVec 32) (s : State) : exec (.collectiveComplete coll) s = live s (fxCollectiveComplete coll.toNat) := rfl

theorem exec_ringTmo (coll : BitVec 32) (s : State) : exec (.ringTmo coll) s = live s (fxRingTmo coll.toNat) := rfl

theorem exec_permuteSendDone (coll : BitVec 32) (s : State) : exec (.permuteSendDone coll) s = live s (fxPermuteSendDone coll.toNat) := rfl

theorem exec_permuteTimeout (coll : BitVec 32) (s : State) : exec (.permuteTimeout coll) s = live s (fxPermuteTimeout coll.toNat) := rfl

theorem exec_permuteLandDone (coll : BitVec 32) (s : State) : exec (.permuteLandDone coll) s = live s (fxPermuteLandDone coll.toNat) := rfl

theorem exec_upVote (source : BitVec 18) (value : Word) (s : State) : exec (.upVote source value) s = live s (fxFabricWrite source.toNat Reg.COL_VOTE_RX (clrBit value 41)) := rfl

theorem exec_voteOutcome (source : BitVec 18) (value : Word) (s : State) : exec (.voteOutcome source value) s = live s (fxFabricWrite source.toNat Reg.COL_VOTE_RX (setBit value 41)) := rfl

theorem exec_voteTimeout (s : State) : exec (.voteTimeout) s = live s fxVoteTimeout := rfl

theorem exec_colVoteCfgWrite (master : BitVec 8) (value : Word) (s : State) : exec (.colVoteCfgWrite master value) s = live s fun s => fxWriteFrom master.toNat s.devId (Reg.COL_VOTE_CFG) (value) s := rfl

theorem exec_periodStart (s : State) : exec (.periodStart) s = live s fxPeriodStart := rfl

theorem exec_tariffRound (die : BitVec 2) (s : State) : exec (.tariffRound die) s = live s (fxTariffRound die.toNat) := rfl

theorem exec_bidReceive (receiver : BitVec 3) (src : BitVec 2) (round : Word) (bid : BitVec 16 × BitVec 16) (s : State) : exec (.bidReceive receiver src round bid) s = live s (fxBidReceive receiver.toNat src.toNat round.toNat bid.1.toNat bid.2.toNat) := rfl

theorem exec_grantCompute (die : BitVec 2) (s : State) : exec (.grantCompute die) s = live s (fxGrantCompute die.toNat) := rfl

theorem exec_grantReceive (die : BitVec 2) (grant : Word × BitVec 16) (s : State) : exec (.grantReceive die grant) s = live s (fxGrantReceive die.toNat grant.1.toNat grant.2.toNat) := rfl

theorem exec_roundEnd (die : BitVec 2) (s : State) : exec (.roundEnd die) s = live s (fxRoundEnd die.toNat) := rfl

theorem exec_avsSettle (die : BitVec 2) (s : State) : exec (.avsSettle die) s = live s (fxAvsSettle die.toNat) := rfl

theorem exec_avsfail (die : BitVec 2) (s : State) : exec (.avsfail die) s = live s (fxAvsfail die.toNat) := rfl

theorem exec_porNAssert (s : State) : exec (.porNAssert) s = pinAct s State.powerOn := rfl

theorem exec_porNDeassert (straps : BitVec 2) (a1 a2 b1 b2 : List Byte) (s : State) : exec (.porNDeassert straps a1 a2 b1 b2) s = pinLive s (fxPorNDeassert straps.toNat a1 a2 b1 b2) := rfl

theorem exec_resetNAssert (s : State) : exec (.resetNAssert) s = pinLive s fxResetNAssert := rfl

theorem exec_resetNDeassert (a1 a2 b1 b2 : List Byte) (stacksOk : Bool) (s : State) : exec (.resetNDeassert a1 a2 b1 b2 stacksOk) s = pinLive s (fxResetNDeassert a1 a2 b1 b2 stacksOk) := rfl

theorem exec_bootComplete (flash : List Byte × List (List Byte)) (cfg : List (BitVec 46 × Word)) (s : State) : exec (.bootComplete flash cfg) s = live s (fxBootComplete flash.1 flash.2 cfg) := rfl

theorem exec_thermalTrip (cause : BitVec 2) (s : State) : exec (.thermalTrip cause) s = pinLive s (fxThermalTrip cause.toNat) := rfl

theorem exec_refclkLoss (ref : BitVec 1) (s : State) : exec (.refclkLoss ref) s = pinLive s (fxRefclkLoss ref.toNat) := rfl

theorem exec_flashOwnN (s : State) : exec (.flashOwnN) s = pinLive s (fun s => { s with flashOwn := true }) := rfl

theorem exec_secLockWrite (master : BitVec 8) (s : State) : exec (.secLockWrite master) s = live s fun s => fxWriteFrom master.toNat s.devId (Reg.SEC_LOCK) (1) s := rfl

theorem exec_bypass (s : State) : exec (.bypass) s = tapDo s State.tapBypass := rfl

theorem exec_idcode (s : State) : exec (.idcode) s = tapDo s fxIdcode := rfl

theorem exec_samplePreload (pins preload : BitVec 42) (s : State) : exec (.samplePreload pins preload) s = tapDo s (fxSamplePreload pins.toNat preload.toNat) := rfl

theorem exec_extest (pins drive : BitVec 42) (s : State) : exec (.extest pins drive) s = tapDo s (fxExtest pins.toNat drive.toNat) := rfl

theorem exec_dbgToken (token : List Byte) (s : State) : exec (.dbgToken token) s = tapDo s (fxDbgToken token) := rfl

theorem exec_dbgAccess (addr : BitVec 46) (write : Bool) (data : Word) (s : State) : exec (.dbgAccess addr write data) s = tapDo s (fxDbgAccess addr.toNat write data.toNat) := rfl

theorem exec_cgtOpen (master : BitVec 8) (s : State) : exec (.cgtOpen master) s = live s fun s => fxWriteFrom master.toNat s.devId (Reg.CGT_CTL) (1) s := rfl

theorem exec_guestRead (packet : List Byte) (s : State) : exec (.guestRead packet) s = live s (fxGuestRead packet) := rfl

theorem exec_guestWrite (packet : List Byte) (s : State) : exec (.guestWrite packet) s = live s (fxGuestWrite packet) := rfl

theorem exec_guestAtomic (packet : List Byte) (s : State) : exec (.guestAtomic packet) s = live s (fxGuestAtomic packet) := rfl

theorem exec_guestResponse (packet : List Byte) (s : State) : exec (.guestResponse packet) s = live s (fxGuestResponse packet) := rfl

theorem exec_guestTimeout (s : State) : exec (.guestTimeout) s = live s fxGuestTimeout := rfl

theorem exec_guestLinkDown (s : State) : exec (.guestLinkDown) s = live s fxGuestLinkDown := rfl

theorem exec_errConsWrite (master : BitVec 8) (log : BitVec 3) (value : Word) (s : State) : exec (.errConsWrite master log value) s = live s fun s => fxWriteFrom master.toNat s.devId (Reg.ERR_CONS log.toNat) (value) s := rfl

theorem exec_errFirstClr (master : BitVec 8) (log : BitVec 3) (s : State) : exec (.errFirstClr master log) s = live s fun s => fxWriteFrom master.toNat s.devId (Reg.ERR_FIRST_CLR log.toNat) (1) s := rfl

theorem exec_demClear (master : BitVec 8) (die : BitVec 2) (ctx : BitVec 5) (s : State) : exec (.demClear master die ctx) s = live s fun s => fxWriteFrom master.toNat s.devId (Reg.DEM_CTL die.toNat ctx.toNat) (1) s := rfl

theorem exec_sidebandPart (s : State) : exec (.sidebandPart) s = sideband 1 (fun s => s.sbReply 1 8 (s.rd Reg.ID_PART).toNat) s := rfl

theorem exec_sidebandReset (s : State) : exec (.sidebandReset) s = sideband 2 (fun s => s.sbReply 2 8 (s.rd Reg.RST_STATUS).toNat) s := rfl

theorem exec_temps (s : State) : exec (.temps) s = sideband 3 fxTemps s := rfl

theorem exec_power (s : State) : exec (.power) s = sideband 4 (fun s => s.sbReply 4 8 (s.rd Reg.PKM_POWER).toNat) s := rfl

theorem exec_budgetRead (s : State) : exec (.budgetRead) s = sideband 5 (fun s => s.sbReply 5 2 (s.rdB Reg.PKM_BUDGET 11 0)) s := rfl

theorem exec_budgetWrite (value : BitVec 16 × Option (BitVec 8)) (s : State) : exec (.budgetWrite value) s = sideband 5 (fxBudgetWrite value.1.toNat (value.2.map (·.toNat))) s := rfl

theorem exec_errors (s : State) : exec (.errors) s = sideband 6 fxErrors s := rfl

theorem exec_trip (s : State) : exec (.trip) s = execTrip s := rfl

theorem exec_guestLinkTrained (s : State) : exec (.guestLinkTrained) s = live s fxGuestLinkTrained := rfl

theorem exec_refclkReturn (ref : BitVec 1) (s : State) : exec (.refclkReturn ref) s = pinLive s (fxRefclkReturn ref.toNat) := rfl

theorem exec_flashOwnNRelease (s : State) : exec (.flashOwnNRelease) s = pinLive s (fun s => { s with flashOwn := false }) := rfl

theorem exec_demurrageOverflow (die : BitVec 2) (ctx : BitVec 5) (counter : BitVec 4) (s : State) : exec (.demurrageOverflow die ctx counter) s = live s (fxDemurrageOverflow die.toNat ctx.toNat counter.toNat) := rfl

theorem exec_trstN (low : Bool) (s : State) : exec (.trstN low) s = pinLive s (fxTrstN low) := rfl

theorem exec_dynamicAddress (addr : BitVec 7) (s : State) : exec (.dynamicAddress addr) s = pinHeld s (fun s => { s with dynAddr := some addr.toNat }) := rfl

set_option maxRecDepth 20000 in
/-- Every meaning has one of these forms: it runs on a live block, through the TAP or the sideband, or it is a pin's. -/
theorem exec_form (c : Instr) (s : State) :
    (∃ f, exec c s = live s f) ∨ (∃ f, exec c s = tapDo s f) ∨ (∃ k f, exec c s = sideband k f s)
      ∨ (∃ f, exec c s = pinAct s f) ∨ (∃ f, exec c s = pinLive s f) ∨ (∃ f, exec c s = pinHeld s f)
      ∨ exec c s = execTrip s :=
  match c with
  | .registerWrite master addr size value => .inl ⟨_, exec_registerWrite master addr size value s⟩
  | .cmdMemoryAccess master dev write addr size data => .inl ⟨_, exec_cmdMemoryAccess master dev write addr size data s⟩
  | .nop ring => .inl ⟨_, exec_nop ring s⟩
  | .writeInline ring => .inl ⟨_, exec_writeInline ring s⟩
  | .read8 ring => .inl ⟨_, exec_read8 ring s⟩
  | .copy ring => .inl ⟨_, exec_copy ring s⟩
  | .dmaChannelStart => .inl ⟨_, exec_dmaChannelStart s⟩
  | .copyComplete channel => .inl ⟨_, exec_copyComplete channel s⟩
  | .load ring => .inl ⟨_, exec_load ring s⟩
  | .manifestFetchDone => .inl ⟨_, exec_manifestFetchDone s⟩
  | .initfetch => .inl ⟨_, exec_initfetch s⟩
  | .loadComplete => .inl ⟨_, exec_loadComplete s⟩
  | .start ring => .inl ⟨_, exec_start ring s⟩
  | .unload ring => .inl ⟨_, exec_unload ring s⟩
  | .zeroisationComplete => .inl ⟨_, exec_zeroisationComplete s⟩
  | .resetReq ring => .inl ⟨_, exec_resetReq ring s⟩
  | .quote ring => .inl ⟨_, exec_quote ring s⟩
  | .cmdDbPi master src ring value => .inl ⟨_, exec_cmdDbPi master src ring value s⟩
  | .cmdDbCqh master src ring value => .inl ⟨_, exec_cmdDbCqh master src ring value s⟩
  | .ringEnable master ring value => .inl ⟨_, exec_ringEnable master ring value s⟩
  | .ringDisable master ring value => .inl ⟨_, exec_ringDisable master ring value s⟩
  | .ringDisabled ring => .inl ⟨_, exec_ringDisabled ring s⟩
  | .resume master src ring => .inl ⟨_, exec_resume master src ring s⟩
  | .stop master src ring => .inl ⟨_, exec_stop master src ring s⟩
  | .entryFetch ring => .inl ⟨_, exec_entryFetch ring s⟩
  | .stampReread ring => .inl ⟨_, exec_stampReread ring s⟩
  | .stampTimeout ring => .inl ⟨_, exec_stampTimeout ring s⟩
  | .completionWrite ring index => .inl ⟨_, exec_completionWrite ring index s⟩
  | .cqfailRetry ring index => .inl ⟨_, exec_cqfailRetry ring index s⟩
  | .mbxSend master src channel value => .inl ⟨_, exec_mbxSend master src channel value s⟩
  | .mbxAck master src channel value => .inl ⟨_, exec_mbxAck master src channel value s⟩
  | .mbxDataWrite master src channel word value => .inl ⟨_, exec_mbxDataWrite master src channel word value s⟩
  | .mbxBindWrite master channel value => .inl ⟨_, exec_mbxBindWrite master channel value s⟩
  | .mbxLockWrite master => .inl ⟨_, exec_mbxLockWrite master s⟩
  | .slotStart die ctx => .inl ⟨_, exec_slotStart die ctx s⟩
  | .slotBudgetExpire die ctx => .inl ⟨_, exec_slotBudgetExpire die ctx s⟩
  | .slotComplete die ctx => .inl ⟨_, exec_slotComplete die ctx s⟩
  | .backhaulSwitch die ctx => .inl ⟨_, exec_backhaulSwitch die ctx s⟩
  | .backhaulReturn die ctx => .inl ⟨_, exec_backhaulReturn die ctx s⟩
  | .admission die ctx => .inl ⟨_, exec_admission die ctx s⟩
  | .mbqAbort master die ctx value => .inl ⟨_, exec_mbqAbort master die ctx value s⟩
  | .abortRelease die ctx mb => .inl ⟨_, exec_abortRelease die ctx mb s⟩
  | .mbqGateWrite master die ctx value => .inl ⟨_, exec_mbqGateWrite master die ctx value s⟩
  | .mbqCtxSelWrite master die value => .inl ⟨_, exec_mbqCtxSelWrite master die value s⟩
  | .ledgerReadFault ledger status => .inl ⟨_, exec_ledgerReadFault ledger status s⟩
  | .stepVoteReady => .inl ⟨_, exec_stepVoteReady s⟩
  | .stepCommit => .inl ⟨_, exec_stepCommit s⟩
  | .stepDiscard => .inl ⟨_, exec_stepDiscard s⟩
  | .ledResolveCommit master value => .inl ⟨_, exec_ledResolveCommit master value s⟩
  | .ledResolveDiscard master value => .inl ⟨_, exec_ledResolveDiscard master value s⟩
  | .ledSelWrite master value => .inl ⟨_, exec_ledSelWrite master value s⟩
  | .replicaRegister src shard => .inl ⟨_, exec_replicaRegister src shard s⟩
  | .registerRetry ledger => .inl ⟨_, exec_registerRetry ledger s⟩
  | .registerReply ledger result header => .inl ⟨_, exec_registerReply ledger result header s⟩
  | .commitNotice notice => .inl ⟨_, exec_commitNotice notice s⟩
  | .replicaFetchDone ledger => .inl ⟨_, exec_replicaFetchDone ledger s⟩
  | .noticeRelease src shard => .inl ⟨_, exec_noticeRelease src shard s⟩
  | .nopMe engine => .inl ⟨_, exec_nopMe engine s⟩
  | .cfg engine sel value => .inl ⟨_, exec_cfg engine sel value s⟩
  | .setx engine d imm => .inl ⟨_, exec_setx engine d imm s⟩
  | .addx engine d src imm => .inl ⟨_, exec_addx engine d src imm s⟩
  | .lea engine d space handle imm => .inl ⟨_, exec_lea engine d space handle imm s⟩
  | .addxx engine d src tx => .inl ⟨_, exec_addxx engine d src tx s⟩
  | .lda engine t half x offset => .inl ⟨_, exec_lda engine t half x offset s⟩
  | .ldb engine t half x offset => .inl ⟨_, exec_ldb engine t half x offset s⟩
  | .lds engine half kind x offset => .inl ⟨_, exec_lds engine half kind x offset s⟩
  | .mma engine clr ah bh mask tile => .inl ⟨_, exec_mma engine clr ah bh mask tile s⟩
  | .drnPlain engine tile keep x xs offset => .inl ⟨_, exec_drnPlain engine tile keep x xs offset s⟩
  | .drnAmax engine tile keep x xs offset => .inl ⟨_, exec_drnAmax engine tile keep x xs offset s⟩
  | .drnQuant engine tile keep x xs offset => .inl ⟨_, exec_drnQuant engine tile keep x xs offset s⟩
  | .drnTopk engine tile keep x xs offset => .inl ⟨_, exec_drnTopk engine tile keep x xs offset s⟩
  | .drnTopkEmit engine tile keep x xs offset => .inl ⟨_, exec_drnTopkEmit engine tile keep x xs offset s⟩
  | .waitm engine counter x => .inl ⟨_, exec_waitm engine counter x s⟩
  | .advm engine counter imm => .inl ⟨_, exec_advm engine counter imm s⟩
  | .bar engine barrier => .inl ⟨_, exec_bar engine barrier s⟩
  | .loop engine l count target => .inl ⟨_, exec_loop engine l count target s⟩
  | .jmp engine target => .inl ⟨_, exec_jmp engine target s⟩
  | .bnz engine x target => .inl ⟨_, exec_bnz engine x target s⟩
  | .endOp engine => .inl ⟨_, exec_endOp engine s⟩
  | .mxIxSelWrite master engine value => .inl ⟨_, exec_mxIxSelWrite master engine value s⟩
  | .dspSubmit master die value => .inl ⟨_, exec_dspSubmit master die value s⟩
  | .dispatchRun die => .inl ⟨_, exec_dispatchRun die s⟩
  | .dispatchNotices die => .inl ⟨_, exec_dispatchNotices die s⟩
  | .dispatchComplete die => .inl ⟨_, exec_dispatchComplete die s⟩
  | .inboxNotice die inbox => .inl ⟨_, exec_inboxNotice die inbox s⟩
  | .inboxEmit die inbox position => .inl ⟨_, exec_inboxEmit die inbox position s⟩
  | .readfail die inbox position => .inl ⟨_, exec_readfail die inbox position s⟩
  | .updTrigger master die value => .inl ⟨_, exec_updTrigger master die value s⟩
  | .updSkip master die value => .inl ⟨_, exec_updSkip master die value s⟩
  | .updSkipFail master die value => .inl ⟨_, exec_updSkipFail master die value s⟩
  | .updateStart die => .inl ⟨_, exec_updateStart die s⟩
  | .updateSlotClaim engine => .inl ⟨_, exec_updateSlotClaim engine s⟩
  | .updateWritten engine => .inl ⟨_, exec_updateWritten engine s⟩
  | .updateNonfinite engine => .inl ⟨_, exec_updateNonfinite engine s⟩
  | .updateAccessFail engine => .inl ⟨_, exec_updateAccessFail engine s⟩
  | .riscvInstruction core => .inl ⟨_, exec_riscvInstruction core s⟩
  | .qsend core => .inl ⟨_, exec_qsend core s⟩
  | .qtry core => .inl ⟨_, exec_qtry core s⟩
  | .qfull core => .inl ⟨_, exec_qfull core s⟩
  | .qrecv core => .inl ⟨_, exec_qrecv core s⟩
  | .qtryrecv core => .inl ⟨_, exec_qtryrecv core s⟩
  | .qsel core => .inl ⟨_, exec_qsel core s⟩
  | .qscfg core => .inl ⟨_, exec_qscfg core s⟩
  | .madv core => .inl ⟨_, exec_madv core s⟩
  | .mwait core => .inl ⟨_, exec_mwait core s⟩
  | .mread core => .inl ⟨_, exec_mread core s⟩
  | .barr core => .inl ⟨_, exec_barr core s⟩
  | .dget core => .inl ⟨_, exec_dget core s⟩
  | .dset core => .inl ⟨_, exec_dset core s⟩
  | .dmask core => .inl ⟨_, exec_dmask core s⟩
  | .hres core => .inl ⟨_, exec_hres core s⟩
  | .slotend core => .inl ⟨_, exec_slotend core s⟩
  | .remoteSendRetry send => .inl ⟨_, exec_remoteSendRetry send s⟩
  | .synMadv master die value => .inl ⟨_, exec_synMadv master die value s⟩
  | .quPeekSel master die value => .inl ⟨_, exec_quPeekSel master die value s⟩
  | .replayrateWindow stack => .inl ⟨_, exec_replayrateWindow stack s⟩
  | .memParThreshWrite master stack value => .inl ⟨_, exec_memParThreshWrite master stack value s⟩
  | .holdcut sram index master => .inl ⟨_, exec_holdcut sram index master s⟩
  | .portMask master masked => .inl ⟨_, exec_portMask master masked s⟩
  | .offloadStart => .inl ⟨_, exec_offloadStart s⟩
  | .offloadDone die ctx mb => .inl ⟨_, exec_offloadDone die ctx mb s⟩
  | .prefetchStart die ctx mb => .inl ⟨_, exec_prefetchStart die ctx mb s⟩
  | .prefetchDone die ctx mb => .inl ⟨_, exec_prefetchDone die ctx mb s⟩
  | .oflfail die ctx mb => .inl ⟨_, exec_oflfail die ctx mb s⟩
  | .fetchfail die ctx mb => .inl ⟨_, exec_fetchfail die ctx mb s⟩
  | .dataFlit port flit => .inl ⟨_, exec_dataFlit port flit s⟩
  | .idleFlit port flit => .inl ⟨_, exec_idleFlit port flit s⟩
  | .trainFlit port lane skew flit => .inl ⟨_, exec_trainFlit port lane skew flit s⟩
  | .downFlit port flit => .inl ⟨_, exec_downFlit port flit s⟩
  | .replayTimeout port => .inl ⟨_, exec_replayTimeout port s⟩
  | .replayWindowEnd port => .inl ⟨_, exec_replayWindowEnd port s⟩
  | .rxtimeout port => .inl ⟨_, exec_rxtimeout port s⟩
  | .laneSignalLoss port lane lost => .inl ⟨_, exec_laneSignalLoss port lane lost s⟩
  | .laneLock port lane power => .inl ⟨_, exec_laneLock port lane power s⟩
  | .trainTimeout port => .inl ⟨_, exec_trainTimeout port s⟩
  | .holdoffExpire port => .inl ⟨_, exec_holdoffExpire port s⟩
  | .downFlitEnd port => .inl ⟨_, exec_downFlitEnd port s⟩
  | .lnkReset master port => .inl ⟨_, exec_lnkReset master port s⟩
  | .lnkDisable master port => .inl ⟨_, exec_lnkDisable master port s⟩
  | .lnkEnable master port => .inl ⟨_, exec_lnkEnable master port s⟩
  | .linkdownResend send => .inl ⟨_, exec_linkdownResend send s⟩
  | .read port => .inl ⟨_, exec_read port s⟩
  | .readSnoop port => .inl ⟨_, exec_readSnoop port s⟩
  | .write port => .inl ⟨_, exec_write port s⟩
  | .swap port => .inl ⟨_, exec_swap port s⟩
  | .cas port => .inl ⟨_, exec_cas port s⟩
  | .add port => .inl ⟨_, exec_add port s⟩
  | .andOp port => .inl ⟨_, exec_andOp port s⟩
  | .orOp port => .inl ⟨_, exec_orOp port s⟩
  | .xorOp port => .inl ⟨_, exec_xorOp port s⟩
  | .minOp port => .inl ⟨_, exec_minOp port s⟩
  | .maxOp port => .inl ⟨_, exec_maxOp port s⟩
  | .minu port => .inl ⟨_, exec_minu port s⟩
  | .maxu port => .inl ⟨_, exec_maxu port s⟩
  | .message port => .inl ⟨_, exec_message port s⟩
  | .doorbell port => .inl ⟨_, exec_doorbell port s⟩
  | .response port => .inl ⟨_, exec_response port s⟩
  | .packetForward port => .inl ⟨_, exec_packetForward port s⟩
  | .responseTimeout tag => .inl ⟨_, exec_responseTimeout tag s⟩
  | .quarantineEnd tag => .inl ⟨_, exec_quarantineEnd tag s⟩
  | .colSubmit master value => .inl ⟨_, exec_colSubmit master value s⟩
  | .collectiveStart => .inl ⟨_, exec_collectiveStart s⟩
  | .segmentWritten source value => .inl ⟨_, exec_segmentWritten source value s⟩
  | .slotFreed source value => .inl ⟨_, exec_slotFreed source value s⟩
  | .permuteSent source value => .inl ⟨_, exec_permuteSent source value s⟩
  | .colRxRetry send => .inl ⟨_, exec_colRxRetry send s⟩
  | .collectiveComplete coll => .inl ⟨_, exec_collectiveComplete coll s⟩
  | .ringTmo coll => .inl ⟨_, exec_ringTmo coll s⟩
  | .permuteSendDone coll => .inl ⟨_, exec_permuteSendDone coll s⟩
  | .permuteTimeout coll => .inl ⟨_, exec_permuteTimeout coll s⟩
  | .permuteLandDone coll => .inl ⟨_, exec_permuteLandDone coll s⟩
  | .upVote source value => .inl ⟨_, exec_upVote source value s⟩
  | .voteOutcome source value => .inl ⟨_, exec_voteOutcome source value s⟩
  | .voteTimeout => .inl ⟨_, exec_voteTimeout s⟩
  | .colVoteCfgWrite master value => .inl ⟨_, exec_colVoteCfgWrite master value s⟩
  | .periodStart => .inl ⟨_, exec_periodStart s⟩
  | .tariffRound die => .inl ⟨_, exec_tariffRound die s⟩
  | .bidReceive receiver src round bid => .inl ⟨_, exec_bidReceive receiver src round bid s⟩
  | .grantCompute die => .inl ⟨_, exec_grantCompute die s⟩
  | .grantReceive die grant => .inl ⟨_, exec_grantReceive die grant s⟩
  | .roundEnd die => .inl ⟨_, exec_roundEnd die s⟩
  | .avsSettle die => .inl ⟨_, exec_avsSettle die s⟩
  | .avsfail die => .inl ⟨_, exec_avsfail die s⟩
  | .porNAssert => .inr (.inr (.inr (.inl ⟨_, exec_porNAssert s⟩)))
  | .porNDeassert straps a1 a2 b1 b2 => .inr (.inr (.inr (.inr (.inl ⟨_, exec_porNDeassert straps a1 a2 b1 b2 s⟩))))
  | .resetNAssert => .inr (.inr (.inr (.inr (.inl ⟨_, exec_resetNAssert s⟩))))
  | .resetNDeassert a1 a2 b1 b2 stacksOk => .inr (.inr (.inr (.inr (.inl ⟨_, exec_resetNDeassert a1 a2 b1 b2 stacksOk s⟩))))
  | .bootComplete flash cfg => .inl ⟨_, exec_bootComplete flash cfg s⟩
  | .thermalTrip cause => .inr (.inr (.inr (.inr (.inl ⟨_, exec_thermalTrip cause s⟩))))
  | .refclkLoss ref => .inr (.inr (.inr (.inr (.inl ⟨_, exec_refclkLoss ref s⟩))))
  | .flashOwnN => .inr (.inr (.inr (.inr (.inl ⟨_, exec_flashOwnN s⟩))))
  | .secLockWrite master => .inl ⟨_, exec_secLockWrite master s⟩
  | .bypass => .inr (.inl ⟨_, exec_bypass s⟩)
  | .idcode => .inr (.inl ⟨_, exec_idcode s⟩)
  | .samplePreload pins preload => .inr (.inl ⟨_, exec_samplePreload pins preload s⟩)
  | .extest pins drive => .inr (.inl ⟨_, exec_extest pins drive s⟩)
  | .dbgToken token => .inr (.inl ⟨_, exec_dbgToken token s⟩)
  | .dbgAccess addr write data => .inr (.inl ⟨_, exec_dbgAccess addr write data s⟩)
  | .cgtOpen master => .inl ⟨_, exec_cgtOpen master s⟩
  | .guestRead packet => .inl ⟨_, exec_guestRead packet s⟩
  | .guestWrite packet => .inl ⟨_, exec_guestWrite packet s⟩
  | .guestAtomic packet => .inl ⟨_, exec_guestAtomic packet s⟩
  | .guestResponse packet => .inl ⟨_, exec_guestResponse packet s⟩
  | .guestTimeout => .inl ⟨_, exec_guestTimeout s⟩
  | .guestLinkDown => .inl ⟨_, exec_guestLinkDown s⟩
  | .errConsWrite master log value => .inl ⟨_, exec_errConsWrite master log value s⟩
  | .errFirstClr master log => .inl ⟨_, exec_errFirstClr master log s⟩
  | .demClear master die ctx => .inl ⟨_, exec_demClear master die ctx s⟩
  | .sidebandPart => .inr (.inr (.inl ⟨_, _, exec_sidebandPart s⟩))
  | .sidebandReset => .inr (.inr (.inl ⟨_, _, exec_sidebandReset s⟩))
  | .temps => .inr (.inr (.inl ⟨_, _, exec_temps s⟩))
  | .power => .inr (.inr (.inl ⟨_, _, exec_power s⟩))
  | .budgetRead => .inr (.inr (.inl ⟨_, _, exec_budgetRead s⟩))
  | .budgetWrite value => .inr (.inr (.inl ⟨_, _, exec_budgetWrite value s⟩))
  | .errors => .inr (.inr (.inl ⟨_, _, exec_errors s⟩))
  | .trip => .inr (.inr (.inr (.inr (.inr (.inr rfl)))))
  | .guestLinkTrained => .inl ⟨_, exec_guestLinkTrained s⟩
  | .refclkReturn ref => .inr (.inr (.inr (.inr (.inl ⟨_, exec_refclkReturn ref s⟩))))
  | .flashOwnNRelease => .inr (.inr (.inr (.inr (.inl ⟨_, exec_flashOwnNRelease s⟩))))
  | .demurrageOverflow die ctx counter => .inl ⟨_, exec_demurrageOverflow die ctx counter s⟩
  | .trstN low => .inr (.inr (.inr (.inr (.inl ⟨_, exec_trstN low s⟩))))
  | .dynamicAddress addr => .inr (.inr (.inr (.inr (.inr (.inl ⟨_, exec_dynamicAddress addr s⟩)))))

/-- The next state of a pin is canonical. -/
theorem pinAct_canonical {s t : State} {f : State → State} (hc : s.Canonical) (h : pinAct s f = .next t) : t.Canonical := by
  unfold pinAct at h; cases h; exact commit_canonical hc _

theorem pinAct_pending {s t : State} {f : State → State} (h : pinAct s f = .next t) : t.pending = s.pending := by
  unfold pinAct at h; cases h; rfl

/-- All that a TAP command can answer with a next state. -/
theorem tapDo_cases {s t : State} {f : State → State} (h : tapDo s f = .next t) : t = s ∨ pinAct s f = .next t := by
  unfold tapDo at h
  split at h
  · cases h
  · split at h
    · cases h; exact .inl rfl
    · exact .inr h

/-- All that a sideband command can answer with a next state: a NACK, or its effect. -/
theorem sideband_cases {s t : State} {k : Nat} {f : State → State} (h : sideband k f s = .next t) :
    t = s.sbNack ∨ pinAct s f = .next t := by
  unfold sideband at h
  split at h
  · cases h
  · split at h
    · exact .inr h
    · cases h; exact .inl rfl

theorem pinLive_cases {s t : State} {f : State → State} (h : pinLive s f = .next t) : pinAct s f = .next t := by
  unfold pinLive at h
  split at h
  · cases h
  · exact h

theorem pinHeld_cases {s t : State} {f : State → State} (h : pinHeld s f = .next t) : t = s ∨ pinAct s f = .next t := by
  unfold pinHeld at h
  split at h
  · cases h
  · split at h
    · cases h; exact .inl rfl
    · exact .inr h

theorem execTrip_cases {s t : State} (h : execTrip s = .next t) : ∃ o, t = s.emit o := by
  unfold execTrip at h
  split at h <;> (cases h; exact ⟨_, rfl⟩)

end Sys2Proof.Laws
end

