-- ==== Sys2Proof/Tests/Slice0.lean ====
section
/-!
SUPPORT. Tests of the model. `test_…` checks a value that the spec gives; `witness_<Name>` shows, clause by clause, concrete states
and operands that meet the hypotheses of the statement of that name.
-/

namespace Sys2Proof.Tests

set_option Elab.async false

open Sys2Proof Sys2Proof.Machine

/-- Registers with the values listed. -/
def regsOf (rs : List (Nat × Word)) : Tbl Word := rs.foldl (fun t (e : Nat × Word) => Tbl.set t e.1 e.2 (regReset e.1)) []

/-- The state after reset with the registers listed. -/
def up (rs : List (Nat × Word)) : State := { State.reset with regs := regsOf rs }

/-- The state after reset and boot (bit 12 of RST_STATUS) with a job running and the registers listed. -/
def run (rs : List (Nat × Word)) : State := up ([(Reg.RST_STATUS, 0x1101), (Reg.ID_JOB_STATE, 3)] ++ rs)

/-- Bytes in memory from an address. -/
def bytesAt (s : State) (a : Nat) (bs : List Byte) : State := s.commit { s with jnl := [.bytes a bs] }


/-- The hypothesis `sound`, as a value. -/
def soundB (s : State) (a n : Nat) : Bool :=
  (blocksOf a n).all (fun b => Tbl.get s.par b 0 == 0 && Tbl.get s.glitch b [] == [] && Tbl.get s.faults b 0 == 0) && s.flits == []

theorem soundB_spec {s : State} {a n : Nat} (h : soundB s a n = true) : Claim.sound s a n := by
  simpa [soundB, Claim.sound, and_assoc] using h

/-- The hypothesis `plain`, as a value. -/
def plainB (s : State) (a n : Nat) : Bool :=
  decide (1 ≤ n) && decide (a + n ≤ fwBase) && s.jobOn && Tbl.wf (fun _ => (0 : Nat)) s.par && soundB s a n

theorem plainB_spec {s : State} {a n : Nat} (h : plainB s a n = true) : Claim.plain s a n := by
  simp only [plainB, Bool.and_eq_true, decide_eq_true_eq] at h
  exact ⟨h.1.1.1.1, h.1.1.1.2, h.1.1.2, h.1.2, soundB_spec h.2⟩

/-- The hypothesis `clean`, as a value. -/
def cleanB (s : State) (a n : Nat) : Bool := Tbl.wf (fun _ => (0 : Nat)) s.par && soundB s a n

theorem cleanB_spec {s : State} {a n : Nat} (h : cleanB s a n = true) : Claim.clean s a n := by
  simp only [cleanB, Bool.and_eq_true] at h
  exact ⟨h.1, soundB_spec h.2⟩

theorem test_reset_canonical : State.reset.Canonical := by decide

/-- Ring 3 enabled for device 5, RUNNING, PI 40, CI 20, 17 completions written of which 9 are consumed. -/
def ringUp : State := run [(Reg.CMD_RING_CFG 3, 0x8000000000000005), (Reg.CMD_RING_STATUS 3, 2), (Reg.CMD_RING_IDX 3, 0x1400000028),
  (Reg.CMD_CQ_PTR 3, 0x900000011), (Reg.CMD_CQ_CFG 3, 4)]

theorem ringUp_sound : ringUp.Live ∧ ringUp.Canonical ∧ ringUp.ringParty 3 0xE8 5 = true ∧ ringUp.ringParty 3 0xE0 0 = true
    ∧ bit (ringUp.rd (Reg.CMD_RING_CFG 3)) 63 = true := by decide +kernel

theorem witness_StepRunsFront : ({ State.reset with pending := [.idcode] } : State).pending = .idcode :: [] := rfl

/-- An entry that waits to be written to the hub's log. -/
def entryDue : LogEnt := ⟨4, 0, 7, 0, 12, 0, 0xFF, 0xFF, 0, 0, none, none, false⟩

theorem witness_IdleStepTicks : State.reset.pending = []
    ∧ (let s := { run [] with guestResp := [[1]] }; s.pending = [] ∧ s.Live ∧ s.Canonical ∧ s.stuck = false ∧ s.resetReq = none
        ∧ [1] ∈ s.guestResp)
    ∧ (let s := { run [] with resetReq := some (3, 7, 1), now := 0 }; s.pending = [] ∧ s.Live ∧ s.Canonical ∧ s.stuck = false
        ∧ s.resetReq = some (3, 7, 1) ∧ 1 ≤ s.now + 1)
    ∧ (let s := { run [] with errBuf := [entryDue] }; (s.rd (Reg.ERR_PROD 4)).toNat + s.errBuf.length < 2 ^ 64)
    ∧ (let s := { State.reset with held := true }; s.pending = [] ∧ s.held = true ∧ s.resetLow = false)
    ∧ (let s := { State.reset with held := true, resetLow := true }; s.pending = [] ∧ s.held = true ∧ s.resetLow = true)
    ∧ (let s := { State.reset with tripped := true }; s.pending = [] ∧ s.tripped = true ∧ s.held = false) := by decide +kernel

theorem witness_StepKeepsCanonical : ({ State.reset with pending := [.idcode] } : State).Canonical
    ∧ ∃ t, step { State.reset with pending := [.idcode] } = .next t := ⟨by decide, _, rfl⟩

theorem witness_CommandsKeepQueue : ∃ t, exec .idcode State.reset = .next t := ⟨_, rfl⟩

theorem witness_CommandOutcomes : ({ State.reset with tripped := true } : State).tripped = true ∧ Instr.idcode ≠ .porNAssert
    ∧ Instr.idcode ≠ .trip ∧ State.reset.tripped = false := by decide

theorem witness_ResetHoldsCommands : let s := { State.reset with held := true }; s.tripped = false ∧ s.held = true
    ∧ Claim.actsInReset (.entryFetch 0) = false := by decide

theorem witness_MisalignedRegisterAccess : State.reset.Live ∧ State.reset.Canonical
    ∧ placeOf (BitVec.ofNat 46 (Reg.FAB_TMO + 2)).toNat = .ctl 4 (Reg.FAB_TMO + 2 - ctlBase 4)
    ∧ ¬((4 = 4 ∨ 4 = 8) ∧ (BitVec.ofNat 46 (Reg.FAB_TMO + 2)).toNat % 4 = 0) ∧ ¬((16 = 4 ∨ 16 = 8) ∧ Reg.FAB_TMO % 16 = 0)
    ∧ placeOf Reg.FAB_TMO = .ctl 4 (Reg.FAB_TMO - ctlBase 4) := by decide +kernel

theorem witness_UnmappedAccess : State.reset.Live ∧ State.reset.Canonical ∧ placeOf (0x300005000000 : BitVec 46).toNat = .none
    ∧ placeOf (BitVec.ofNat 46 (ctlBase 4 + 0xFFFFF8)).toNat = .ctl 4 0xFFFFF8 ∧ regFind (ctlBase 4 + 0xFFFFF8) = none
    ∧ (ctlBase 4 + 0xFFFFF8) % 8 = 0
    ∧ inGuest ((0x300005000000 : BitVec 46).toNat + (8 - 1)) = false ∧ placeOf (0x3EFFFFFFFFFC : BitVec 46).toNat = .none
    ∧ inGuest ((0x3EFFFFFFFFFC : BitVec 46).toNat + (8 - 1)) = true ∧ State.reset.guestReach (0xE0 : BitVec 8).toNat = false := by
  decide +kernel

/-- The register at an address is one with a property. -/
def hits (a : Nat) (p : RegHit → Bool) : Bool :=
  match regFind a with
  | some h => p h
  | none => false

/-- Management may write it; its writes only store fields. -/
def storesOnly (h : RegHit) : Bool := decide (h.row.writer ≠ .ro) && decide (h.row.writer ≠ .colRx) && !Claim.ownEffect h.row.name

theorem witness_RegisterWrites : State.reset.Live ∧ State.reset.Canonical ∧ isMgmt (0xE0 : BitVec 8).toNat = true
    ∧ isMgmt (0xE8 : BitVec 8).toNat = false ∧ placeOf (BitVec.ofNat 46 Reg.FAB_TMO).toNat = .ctl 4 (Reg.FAB_TMO - ctlBase 4)
    ∧ (BitVec.ofNat 46 Reg.FAB_TMO).toNat % 8 = 0 ∧ (BitVec.ofNat 46 (Reg.FAB_TMO + 4)).toNat % 4 = 0
    ∧ hits Reg.FAB_TMO (fun h => storesOnly h && !stageReg h.row.name) = true
    ∧ hits (Reg.FAB_TMO + 4) (fun h => storesOnly h && h.byte == 4) = true
    ∧ hits (Reg.MBQ_GATE 0 0) (fun h => stageReg h.row.name && !State.reset.ctxValid (h.i 0) (h.i 1)) = true
    ∧ (run []).jobOn = true ∧ State.reset.jobOn = false
    ∧ hits (Reg.UPD_EVT 0 0) (fun h => h.row.writer == .jobRR && decide (h.row.name ≠ .LED_RESOLVE)) = true
    ∧ hits Reg.PKM_POWER (fun h => h.row.writer == .ro && h.row.name == .PKM_POWER) = true
    ∧ (hits (Reg.MBX_STATUS 0) (fun h => h.row.name == .MBX_STATUS) = true ∧ (up [(Reg.MBX_BIND 0, 0x10000)]).mbxValid 0 = true)
    ∧ hits Reg.SEC_LOCK (fun h => h.row.name == .SEC_LOCK) = true
    ∧ (hits Reg.MBX_LOCK (fun h => h.row.name == .MBX_LOCK) = true ∧ bit (State.reset.rd Reg.MBX_LOCK) 0 = false
        ∧ bit ((up [(Reg.MBX_LOCK, 1)]).rd Reg.MBX_LOCK) 0 = true)
    ∧ hits (Reg.DSP_SUBMIT 0) (fun h => writeOnly h.row.name) = true ∧ hits (Reg.MBX_SEND 0) (fun h => writeOnly h.row.name) = true
    ∧ hits Reg.FAB_TMO (fun h => h.row.writer == .mgmt) = true := by decide +kernel

theorem witness_RingEnableDisable :
    (let s := run []; s.Live ∧ s.Canonical ∧ isMgmt 0xE3 = true ∧ bit (s.rd (Reg.CMD_RING_CFG 15)) 63 = false)
    ∧ ringUp.ringState 3 ≠ 0
    ∧ (let s := { ringUp with rings := [(3, { closing := true })] }; s.Live ∧ s.Canonical ∧ (s.ring 3).closing = true
        ∧ (s.ring 3).ops = []) := by decide +kernel

/-- The two ends of the range that is taken (1, and CI + 32), and both refusals. -/
theorem witness_DoorbellProducer : (0xE8 : BitVec 8) ≠ 0xE4 ∧ ringUp.ringPI 3 = 40 ∧ ringUp.ringCI 3 = 20
    ∧ (ixDiff 41 40 = 1 ∧ ixDiff 41 20 ≤ 32) ∧ (1 ≤ ixDiff 52 40 ∧ ixDiff 52 40 < 2 ^ 31 ∧ ixDiff 52 20 ≤ 32)
    ∧ ixDiff 40 40 = 0 ∧ 2 ^ 31 ≤ ixDiff 39 40
    ∧ (1 ≤ ixDiff 53 40 ∧ ixDiff 53 40 < 2 ^ 31 ∧ 32 < ixDiff 53 20) := by decide +kernel

/-- An operation of a ring, finished with OK. -/
def opDone : CmdOp := { seq := 1, index := 20, entry := List.replicate 256 0, started := true, done := some (0, 0, 0) }

theorem witness_DoorbellCompletionHead : ringUp.rdB (Reg.CMD_CQ_PTR 3) 63 32 = 9
    ∧ (let held := ixDiff (ringUp.rdB (Reg.CMD_CQ_PTR 3) 31 0) 9; ixDiff 10 9 = 1 ∧ ixDiff 17 9 ≤ held
        ∧ ixDiff 9 9 = 0 ∧ 2 ^ 31 ≤ ixDiff 8 9 ∧ held < ixDiff 18 9 ∧ ixDiff 18 9 < 2 ^ 31)
    ∧ (let s := { run [(Reg.CMD_CQ_PTR 3, 0x100000011), (Reg.CMD_CQ_CFG 3, 4)] with rings := [(3, { ops := [opDone] })] }
       s.Live ∧ s.Canonical ∧ s.isMasked 0xD0 = false
        ∧ (s.ring 3).ops.find? (fun o => o.index == (20 : BitVec 32).toNat && o.done.isSome && o.slot.isNone) = some opDone
        ∧ ixDiff (s.rdB (Reg.CMD_CQ_PTR 3) 31 0) (s.rdB (Reg.CMD_CQ_PTR 3) 63 32) = 2 ^ s.rdB (Reg.CMD_CQ_CFG 3) 3 0
        ∧ opDone.waited = false ∧ ({ opDone with waited := true } : CmdOp).waited = true) := by decide +kernel

theorem witness_RingResumeStop : (4 ≤ ringUp.rdB (Reg.CMD_CQ_CFG 3) 3 0 ∧ ringUp.rdB (Reg.CMD_CQ_CFG 3) 3 0 ≤ 12)
    ∧ (let s := run [(Reg.CMD_RING_STATUS 3, 1), (Reg.CMD_CQ_CFG 3, 12)]; s.Live ∧ s.Canonical ∧ s.ringParty 3 0xE0 0 = true
        ∧ s.rdB (Reg.CMD_CQ_CFG 3) 3 0 = 12 ∧ s.ringState 3 = 1 ∧ (s.ring 3).closing = false)
    ∧ (run []).rdB (Reg.CMD_CQ_CFG 3) 3 0 < 4 ∧ ringUp.ringState 3 = 2 := by decide +kernel

/-- An entry of a command ring (R387). -/
def entry (stamp op flags tag a0 a1 : Nat) (p : List Byte) : List Byte :=
  toBytes 4 stamp ++ toBytes 1 op ++ toBytes 1 flags ++ toBytes 2 p.length ++ toBytes 8 tag ++ toBytes 8 a0 ++ toBytes 8 a1 ++ p
    ++ zeroBytes (224 - p.length)

/-- Ring 3 holds the operations. -/
def ops (s : State) (os : List CmdOp) : State := { s with rings := [(3, { ops := os })] }

/-- An operation that has not started. -/
def op (code : Nat) (a0 a1 : Nat) (p : List Byte) : CmdOp := { seq := 7, index := 20, entry := entry 20 code 0 99 a0 a1 p }

/-- Ring 3 RUNNING with CI 0 and PI 1: its slot 0 holds zeros, an entry NOP with STAMP 0. With CI 20 that slot's STAMP is not CI. -/
def fetchAt (ci : Nat) (x : Ring) : State :=
  { run [(Reg.CMD_RING_STATUS 3, 2), (Reg.CMD_RING_IDX 3, w (ci * 2 ^ 32 + ci + 1))] with rings := [(3, x)], now := 20000 }

theorem witness_EntryFetched :
    (∀ ci ∈ [0, 20], let s := fetchAt ci {}; s.Live ∧ s.Canonical ∧ s.ringTurn = some 3 ∧ s.fetching 3 = true
      ∧ soundB s (slotAddr 3 (s.ringCI 3)) 256 = true)
    ∧ (run []).ringTurn ≠ some 3
    ∧ (let e := (fetchAt 0 {}).rawRead (slotAddr 3 0) 256
       leAt e 0 4 = (fetchAt 0 {}).ringCI 3 ∧ entryOk e = true ∧ jobctlOp (coOpcode e) = false)
    ∧ (let s := bytesAt (fetchAt 0 {}) (slotAddr 3 0) (entry 0 0xFE 0 0 0 0 []); s.Live ∧ s.Canonical ∧ s.ringTurn = some 3
       ∧ leAt (s.rawRead (slotAddr 3 0) 256) 0 4 = s.ringCI 3 ∧ entryOk (s.rawRead (slotAddr 3 0) 256) = false
       ∧ soundB s (slotAddr 3 0) 256 = true)
    ∧ (let s := bytesAt (fetchAt 0 {}) (slotAddr 3 0) (entry 0 0x10 0 0 0 256 (zeroBytes 56)); s.Live ∧ s.Canonical ∧ s.ringTurn = some 3
       ∧ (let e := s.rawRead (slotAddr 3 0) 256; leAt e 0 4 = s.ringCI 3 ∧ entryOk e = true ∧ jobctlOp (coOpcode e) = true
         ∧ coOpcode e = 0x10)
       ∧ s.ringJobctl 3 = false ∧ soundB s (slotAddr 3 0) 256 = true)
    ∧ leAt ((fetchAt 20 {}).rawRead (slotAddr 3 20) 256) 0 4 ≠ (fetchAt 20 {}).ringCI 3
    ∧ (∀ ci ∈ [0, 20], let s := fetchAt ci { stamp := some (10000, 20000, 640) }; s.Live ∧ s.Canonical ∧ s.fetching 3 = true
      ∧ (s.ring 3).stamp = some (10000, 20000, 640) ∧ 20000 ≤ s.now ∧ 10000 + s.rdB Reg.CMD_CFG 31 0 ≤ s.now) := by
  decide +kernel

/-- The hypothesis `opReady` for ring 3, as its two parts. -/
def ready (s : State) (code : Nat) (o : CmdOp) : Bool := s.opNow 3 code == some o && s.opOf 3 o.seq == some o

theorem ready_opReady {s : State} {code : Nat} {o : CmdOp} (h : ready s code o = true) : Claim.opReady s 3 code o := by
  simpa [ready, Claim.opReady] using h

/-- A copy on channel 2 whose transfer has ended with OK. -/
def copied : State := { ops (run []) [{ op 3 0 4096 (toBytes 8 64) with started := true }] with
  channels := [(2, 3, 7, 11)], xfers := [(11, ⟨.copy 2, 0, 0xD3, [], false, [], none, some 0, 0⟩)] }

theorem witness_RingOperations :
    (∀ o ∈ [op 0 0 0 [], op 1 4096 0 [1, 2], op 2 4096 0 [], op 3 0 4096 (toBytes 8 64), op 3 (5 * 2 ^ 46) (6 * 2 ^ 46) (toBytes 8 64)],
      let s := ops (run []) [o]; s.Live ∧ s.Canonical ∧ ready s (coOpcode o.entry) o = true ∧ coQuiet o.entry = false)
    ∧ (let o := { op 0 0 0 [] with entry := entry 20 0 2 99 0 0 [] }
       ready (ops (run []) [o]) 0 o = true ∧ coQuiet o.entry = true)
    ∧ (∀ n ∈ [2, 8], (run []).jobOn = true ∧ 4096 + n ≤ fwBase ∧ soundB (ops (run []) [op 2 4096 0 []]) 4096 n = true)
    ∧ gaDev (coArg0 (op 3 0 4096 []).entry) = (run []).devId
    ∧ gaDev (coArg0 (op 3 (5 * 2 ^ 46) (6 * 2 ^ 46) []).entry) ≠ (run []).devId
    ∧ gaDev (coArg1 (op 3 (5 * 2 ^ 46) (6 * 2 ^ 46) []).entry) ≠ (run []).devId := by decide +kernel

theorem witness_RingOperations_channels :
    (let s := { ops (run []) [op 3 0 4096 (toBytes 8 64)] with copies := [(3, 7)], channels := [(0, 3, 5, 9), (1, 3, 6, 10)] };
       s.Live ∧ s.Canonical ∧ s.freeChannel = some 2 ∧ s.copies = (3, 7) :: [] ∧ s.copyBefore 7 = false ∧ (s.opOf 3 7).isSome = true)
    ∧ (let s := { ops (run []) [op 3 0 4096 (toBytes 8 64)] with copies := [(3, 7)], channels := [(0, 3, 5, 9), (1, 3, 6, 10), (2, 3, 4, 8)] };
       s.Live ∧ s.Canonical ∧ s.freeChannel = none)
    ∧ copied.Live ∧ copied.Canonical ∧ copied.channels.find? (fun e => e.1 == (2 : BitVec 2).toNat) = some (2, 3, 7, 11)
    ∧ (copied.xfer 11).ended = some 0 ∧ (copied.opOf 3 7).isSome = true
    ∧ coQuiet ((copied.opOf 3 7).getD opDone).entry = false := by decide +kernel

/-- A finished operation whose completion write at position 17 failed; the next attempt is due at tick 500. -/
def opDue : CmdOp := { opDone with slot := some 17, due := some 500 }

theorem witness_CompletionsWritten :
    (let s := { run [] with masked := [0xD0] }; s.Live ∧ s.Canonical ∧ s.isMasked 0xD0 = true)
    ∧ (let s := ops ringUp [opDone]; s.Live ∧ s.Canonical ∧ s.isMasked 0xD0 = false
      ∧ (s.ring 3).ops.find? (fun o => o.index == (20 : BitVec 32).toNat && o.done.isSome && o.slot.isNone) = some opDone
      ∧ ¬2 ^ s.rdB (Reg.CMD_CQ_CFG 3) 3 0 ≤ ixDiff (s.rdB (Reg.CMD_CQ_PTR 3) 31 0) (s.rdB (Reg.CMD_CQ_PTR 3) 63 32)
      ∧ (let ga := (s.rd (Reg.CMD_CQ_BASE 3)).toNat + s.rdB (Reg.CMD_CQ_PTR 3) 31 0 % 2 ^ s.rdB (Reg.CMD_CQ_CFG 3) 3 0 * 32
         gaDev ga = s.devId ∧ gaLocal ga + 32 ≤ fwBase ∧ s.jobOn = true ∧ soundB s (gaLocal ga) 32 = true))
    ∧ (∀ n ∈ [499, 500], ∀ shut ∈ [false, true],
      let s : State := { ringUp with rings := [(3, { ops := [opDue], closing := shut })], now := n }
      s.Live ∧ s.Canonical ∧ s.isMasked 0xD0 = false
      ∧ (s.ring 3).ops.find? (fun o => o.index == (20 : BitVec 32).toNat && o.due.isSome && !o.writing) = some opDue
      ∧ opDue.due = some 500 ∧ opDue.slot = some 17 ∧ (s.ring 3).closing = shut) := by decide +kernel

/-- The last byte of ring 3's command memory; one byte more leaves it. -/
theorem witness_CommandMemoryAccess : ringUp.Live ∧ ringUp.Canonical
    ∧ placeOf (0x300004397FFF : BitVec 46).toNat = .cmdMem 0x7FFF ∧ 0x7FFF % 0x2000 + 1 ≤ 0x2000 ∧ ¬0x7FFF % 0x2000 + 2 ≤ 0x2000
    ∧ ringUp.ringParty (0x7FFF / 0x2000) 0xE8 5 = true ∧ ringUp.ringParty (0x7FFF / 0x2000) 0xE8 6 = false
    ∧ ringUp.ringParty 3 0xD0 0 = false ∧ regAligned 0x7FFF 1 = false ∧ regAligned 0x7FFC 4 = true ∧ placeOf 0x300004397FFC = .cmdMem 0x7FFC
    ∧ soundB ringUp 0x300004397FFF 1 = true := by decide +kernel

/-- Channel 63 bound from core 0x80 to controller 0xE8 of device 5, in a state of R402. -/
def mbx (st : Nat) : State := run [(Reg.MBX_BIND 63, 0x501E880), (Reg.MBX_STATUS 63, w st)]

theorem witness_Mailboxes : (0x80 : BitVec 8) ≠ 0xE4
    ∧ (∀ st ∈ [0, 1, 2], (mbx st).Live ∧ (mbx st).Canonical ∧ (mbx st).mbxValid 63 = true
        ∧ (mbx st).mbxIs 63 ((mbx st).mbxSender 63) 0x80 0 = true ∧ (mbx st).mbxIs 63 ((mbx st).mbxReceiver 63) 0xE8 5 = true)
    ∧ (mbx 0).mbxState 63 ≠ 1 ∧ (mbx 1).mbxState 63 = 1 ∧ (mbx 0).mbxSender 63 ≠ 0xE8
    ∧ (let s := run [(Reg.MBX_BIND 63, 0x18081)]; s.mbxReceiver 63 ≠ 0xE8 ∧ s.mbxValid 63 = true)
    ∧ (bit 0x8000000000000008 63 = true ∧ bits 0x8000000000000008 3 0 = 8 ∧ bits 0x8000000000000001 3 0 = 1)
    ∧ ((mbx 0).mbxIs 63 ((mbx 0).mbxSender 63) 0x81 0 = false ∧ (mbx 0).mbxIs 63 ((mbx 0).mbxReceiver 63) 0xE8 6 = false
        ∧ (run []).mbxValid 63 = false ∧ regAligned (Reg.MBX_DATA 63 7) 8 = true ∧ regAligned (Reg.MBX_DATA 63 0 + 0x54) 4 = true)
    ∧ (run []).rdB Reg.MBX_LOCK 0 0 = 0 ∧ (run [(Reg.MBX_LOCK, 1)]).rdB Reg.MBX_LOCK 0 0 = 1
    ∧ (run [(Reg.MBX_LOCK, 1)]).Canonical ∧ isMgmt 0xE0 = true ∧ isMgmt 0x80 = false := by decide +kernel

/-! ### The job -/

/-- SM3 of "abc" and of the empty string, the values of the standard that R32 cites. -/
theorem test_sm3_abc : sm3 (ascii "abc")
    = (toBytes 32 0x66c7f0f462eeedd9d1f2d46bdc10e4e24167c4875cf2f7a2297da02b8f4ba8e0).reverse := by decide +kernel

/-- A manifest with the sections PROGRAMS, STAGES, CADENCE and TENSORS, of which only TENSORS may hold entries. -/
def mnf (digest : Nat) (tensors : List Byte) : List Byte :=
  let dir (t c n z : Nat) : List Byte := toBytes 4 t ++ toBytes 4 c ++ toBytes 8 0x180 ++ toBytes 8 n ++ toBytes 8 z
  toBytes 8 0x5453464E4D564D4C ++ toBytes 8 0x10000010000 ++ toBytes 8 (384 + tensors.length) ++ toBytes 8 0x77 ++ toBytes 8 4
    ++ toBytes 8 0x100000000 ++ zeroBytes 16 ++ (toBytes 32 digest).reverse ++ zeroBytes 160
    ++ dir 1 0 0 16 ++ dir 2 0 0 64 ++ dir 6 0 0 0 ++ dir 7 (tensors.length / 64) tensors.length 64 ++ tensors

/-- A manifest without stages; its digest is that of SM3. -/
def mnfGood : List Byte := mnf 0x7e6e79c999503ef06852a296857e6bc0915efe9d0a0ee62dafd639cb59f1711e []

/-- A tensor of 2 TiB, which no device can place. -/
def mnfBig : List Byte := mnf 0x3aae2880d86475b02334888ff680831cd21b97baa370a6ae6b4ec754b8bd7166
  (toBytes 4 9 ++ toBytes 4 0x10003 ++ toBytes 8 (2 ^ 41) ++ toBytes 8 0xFFFF ++ zeroBytes 40)

/-- A placement error. -/
def placeErr (m : Mnf) : Option Refuse := match place m with
  | .error f => some f
  | .ok _ => none

theorem test_mnf_good : fitCheck mnfGood false 0 = none ∧ placeErr (mnfOf mnfGood) = none := by decide +kernel
theorem test_mnf_digest : fitCheck (mnf 0 []) false 0 = some ⟨Rs.baddigest, 0, noEntry⟩ := by decide +kernel
theorem test_mnf_big : fitCheck mnfBig false 0 = none ∧ (placeErr (mnfOf mnfBig)).map (·.reason) = some Rs.lpddr := by decide +kernel

/-- Booted, in a job state, with the registers listed. -/
def inState (k : Nat) (rs : List (Nat × Word)) : State := up ([(Reg.RST_STATUS, 0x1101), (Reg.ID_JOB_STATE, w k)] ++ rs)

/-- A LOAD of a manifest of a length. -/
def opLoad (len : Nat) : CmdOp := op 0x10 0 len (zeroBytes 56)

theorem witness_LoadBegins :
    (∀ k ∈ [0, 5], ∀ len ∈ [256, 2 ^ 31], let s := ops (inState k []) [opLoad len]; s.Live ∧ s.Canonical
      ∧ ready s 0x10 (opLoad len) = true ∧ s.jobState = k ∧ coArg1 (opLoad len).entry = len ∧ len % 16 = 0)
    ∧ (∀ k ∈ [1, 2, 3, 4], let s := ops (inState k []) [opLoad 256]; s.Live ∧ s.Canonical ∧ ready s 0x10 (opLoad 256) = true
      ∧ s.jobState = k)
    ∧ ∀ len ∈ [240, 257, 2 ^ 31 + 16], let s := ops (inState 0 []) [opLoad len]
      s.Live ∧ s.Canonical ∧ ready s 0x10 (opLoad len) = true ∧ s.jobState = 0 ∧ coArg1 (opLoad len).entry = len
        ∧ (len % 16 ≠ 0 ∨ len < 256 ∨ 2 ^ 31 < len) := by decide +kernel

/-- A load in a phase, its transfer 4 ended with a status, with a manifest in place. -/
def loading (phase st : Nat) (inits : List (Nat × Nat × Nat × Option Nat)) (m : List Byte) : State :=
  bytesAt { inState 1 [] with
    loadJob := some { ring := 3, seq := 7, buf := 0, bufSize := 0, options := 0, expect := [], from_ := 0, phase := phase, xfer := 4
                      len := m.length, inits := inits }
    xfers := [(4, ⟨.load, 0, 0xE0, [], false, [], none, some st, 0⟩)] } mnfAddr m

/-- The checks of the manifest in place. -/
def loadChecks (s : State) : Option Refuse × Option Refuse :=
  let bs := s.rawRead mnfAddr ((s.loadJob.map (·.len)).getD 0)
  (fitCheck bs ((s.dropXfers .load).rdB Reg.CGT_STATUS 2 2 == 1) (s.dropXfers .load).devId, placeErr (mnfOf bs))

theorem witness_LoadEnds :
    (let s := loading 0 0 [] mnfGood; cleanB s mnfAddr mnfGood.length = true ∧ 1 ≤ mnfGood.length ∧ mnfGood.length ≤ 2 ^ 31
      ∧ (s.load 0xE0 mnfAddr mnfGood.length).1 = St.ok)
    ∧ (let s := { loading 0 0 [] mnfGood with par := [(mnfAddr, 0xFFFF)] }; s.Live ∧ s.Canonical ∧ s.loadJob.map (·.phase) = some 0
      ∧ (s.xfer 4).ended = some 0 ∧ (s.load 0xE0 mnfAddr mnfGood.length).1 = St.poison)
    ∧ (∀ st ∈ [0, 1], let s := loading 0 st [] mnfGood; s.Live ∧ s.Canonical ∧ s.loadJob.map (·.phase) = some 0
      ∧ s.loadJob.map (·.xfer) = some 4 ∧ (s.xfer 4).ended = some st)
    ∧ loadChecks (loading 0 0 [] mnfGood) = (none, none) ∧ (loadChecks (loading 0 0 [] (mnf 0 []))).1.isSome = true
    ∧ (loadChecks (loading 0 0 [] mnfBig)).1 = none ∧ (loadChecks (loading 0 0 [] mnfBig)).2.isSome = true
    ∧ (let s := loading 1 1 [(4, 7, 2, none)] []; s.Live ∧ s.Canonical ∧ s.loadJob.map (·.phase) = some 1
        ∧ (s.loadJob.map (·.inits)).getD [] = [(4, 7, 2, none)] ∧ (s.xfer 4).ended = some 1 ∧ (1 : Nat) ≠ 0)
    ∧ (let s := loading 2 0 [] []; s.Live ∧ s.Canonical ∧ s.loadJob.map (·.phase) = some 2 ∧ (s.xfer 4).ended.isSome = true
        ∧ s.loadJob.map (·.result) = some (0, 0, 0, 0) ∧ s.jobState = 1) := by
  refine ⟨?_, ?_, ?_, ?_, ?_, ?_, ?_, ?_, ?_⟩ <;> decide +kernel

theorem witness_LoadEnds_operation : (ops (loading 2 0 [] []) [opLoad 256]).Live ∧ (ops (loading 2 0 [] []) [opLoad 256]).Canonical
    ∧ (ops (loading 2 0 [] []) [opLoad 256]).opOf 3 7 = some (opLoad 256) ∧ coQuiet (opLoad 256).entry = false
    ∧ (ops (loading 2 0 [] []) [opLoad 256]).unloads = [] := by decide +kernel

/-- An earlier LOAD that runs. -/
def waitingLoad : CmdOp := { opLoad 256 with seq := 5, started := true }

theorem witness_StartAndUnload :
    (∀ k ∈ [0, 1, 2, 3, 4, 5], ∀ fl ∈ [0, 2],
      let o := { op 0 0 0 [] with entry := entry 20 0x11 fl 99 0 0 [] }; let s := ops (inState k []) [o]
      s.Live ∧ s.Canonical ∧ ready s 0x11 o = true ∧ s.loadsBefore 7 = false ∧ coQuiet o.entry = (fl == 2) ∧ s.jobState = k)
    ∧ (let s := ops (inState 2 []) [waitingLoad, op 0x11 0 0 []]; s.Live ∧ s.Canonical ∧ ready s 0x11 (op 0x11 0 0 []) = true
      ∧ s.loadsBefore 7 = true)
    ∧ Tbl.wf (fun _ => ({} : StageCtx)) [(63, { running := false, budget := 4 })] = true
    ∧ (∀ k ∈ [0, 2, 3, 4, 5], ∀ fl ∈ [0, 2],
      let o := { op 0 0 0 [] with entry := entry 20 0x12 fl 99 0 0 [] }; let s := ops (inState k []) [o]; s.Live ∧ s.Canonical
      ∧ (s.ring 3).ops.find? (fun o => !o.started && o.done.isNone && !o.entry.isEmpty && coOpcode o.entry == 0x12
        && s.unfenced 3 o) = some o
      ∧ s.opOf 3 7 = some o ∧ coQuiet o.entry = (fl == 2) ∧ s.jobState = k)
    ∧ (let s := ops (loading 0 0 [] []) [op 0x12 0 0 []]; s.Live ∧ s.Canonical
      ∧ (s.ring 3).ops.find? (fun o => !o.started && o.done.isNone && !o.entry.isEmpty && coOpcode o.entry == 0x12
        && s.unfenced 3 o) = some (op 0x12 0 0 [])
      ∧ s.opOf 3 7 = some (op 0x12 0 0 []) ∧ s.jobState = 1 ∧ s.loadJob.map (·.from_) = some 0
      ∧ s.loadJob.map (fun (j : LoadJob) => decide (j.phase = 2 ∧ j.result.1 = St.incomplete)) = some false)
    ∧ (∀ e ∈ [((0, 0) : Nat × Nat), (2, 0), (2, 2)], let s := { ops (loading e.1 0 [] []) [op 0x12 0 0 []] with
          loadJob := (loading e.1 0 [] []).loadJob.map fun (j : LoadJob) => { j with from_ := 5, result := (e.2, 0, 0, 0) } }
       s.Live ∧ s.Canonical ∧ s.jobState = 1 ∧ s.loadJob.map (·.from_) = some 5
        ∧ s.loadJob.map (fun (j : LoadJob) => decide (j.phase = 2 ∧ j.result.1 = St.incomplete)) = some false) := by decide +kernel

theorem witness_UnloadZeroises :
    (let s := { ops (inState 4 []) [op 0x12 0 0 []] with unloads := [(3, 7)] }; s.Live ∧ s.Canonical ∧ s.jobState = 4
      ∧ s.loadJob = none ∧ s.opOf 3 7 = some (op 0x12 0 0 []) ∧ coQuiet (op 0x12 0 0 []).entry = false)
    ∧ (inState 3 []).Live ∧ (inState 3 []).Canonical ∧ (inState 3 []).jobState ≠ 4
    ∧ (loading 0 0 [] []).Live ∧ (loading 0 0 [] []).Canonical ∧ (loading 0 0 [] []).loadJob.isSome = true := by decide +kernel

/-! ### Keys and signatures -/

/-- Bytes of a number, most significant first. -/
def hex (n v : Nat) : List Byte := (toBytes n v).reverse

/-- The public key of the private key 1: the generator of the curve. -/
def keyG : List Byte := hex 32 Sm2.gx ++ hex 32 Sm2.gy

/-- The digest of `keyG`, as four registers. -/
def keyDigest : List Byte := hex 32 0x37231d911f9017b110c6d046e321dedcc72761be1bbf16159f679ffd98183a69
def keyRegs (r : Nat → Nat) : List (Nat × Word) := (List.range 4).map fun i => (r i, w (leAt keyDigest (8 * i) 8))

theorem test_keyDigest : sm3 keyG = keyDigest := by decide +kernel

/-- A signature of the request to reset with RETAIN, made outside the model with the private key 1 (nonce and serial 0). -/
def resetSig : List Byte := hex 32 0x6c51dd7558841ecd6e145ad42ceee383eb27560ede374927c2a741f782f3179f
  ++ hex 32 0xc9d7114453bdf09948f5d295e9888e3d7c703463b2aa60977268530d785bcd70


/-- A request to reset with RETAIN, under a nonce. -/
def opReset (nonce : Nat) : CmdOp := op 0x20 nonce 1 (keyG ++ resetSig)

/-- Ring 3 belongs to device 5, whose key is `keyG`. -/
def keyed (o : CmdOp) : State :=
  ops (run ([(Reg.CMD_RING_CFG 3, 0x8000000000040005), (Reg.SEC_CTRL_ID 0, 0x8000000000000005)] ++ keyRegs (Reg.SEC_CTRL_KEY 0))) [o]

theorem witness_ResetsAndQuotes :
    (∀ nonce ∈ [0, 1], let s := keyed (opReset nonce); s.Live ∧ s.Canonical ∧ ready s 0x20 (opReset nonce) = true
      ∧ coQuiet (opReset nonce).entry = false ∧ (s.opStart 3 7).resetAllowed 3 (opReset nonce).entry = (nonce == 0))
    ∧ (zeroBytes 32).length = 32
    ∧ (let o := op 0x21 4096 0 (zeroBytes 32); let s := ops (run []) [o]; s.Live ∧ s.Canonical ∧ ready s 0x21 o = true
        ∧ coArg1 o.entry % 2 = 0 ∧ gaDev 4096 = s.devId ∧ gaLocal 4096 + 384 ≤ fwBase ∧ s.jobOn = true ∧ soundB s 4096 384 = true
        ∧ s.isMasked 0xD0 = false ∧ s.xfers = [] ∧ coQuiet o.entry = false) := by decide +kernel

theorem witness_ResetsAndQuotes_clean : Claim.clean (ops (run []) [op 0x21 4096 0 (zeroBytes 32)]) 4096 384 :=
  cleanB_spec (by decide +kernel)

/-! ### Stages -/

/-- A job runs on stage context 5 of die 1 with two slots, of which slot 0 is `slot`; slot 1 pads 100 ticks. -/
def stage (cfg : Nat) (slot : Word) (g : StageCtx) (rs : List (Nat × Word)) : State :=
  { run ([(Reg.CAD_CTX_CFG 1 5, w (cfg + 1 + 2 * 2 ^ 8)), (Reg.CAD_SLOT 1 5 0, slot), (Reg.CAD_SLOT 1 5 1, w (100 * 2 ^ 32))] ++ rs)
    with stages := [(sk 1 5, { g with running := true })] }

/-- A slot of a kind, FLOOR 16 (but for HOLD and BACKHAUL), with a budget of 100 ticks. -/
def slot (k : Nat) : Word := w (k + (if k = 0 ∨ k = 6 then 0 else 16 * 2 ^ 24) + 100 * 2 ^ 32)

theorem witness_SlotStarts :
    (let s := stage 0 (slot 0) {} []; s.Live ∧ s.Canonical ∧ s.mayStart 1 5 = true ∧ (s.stg 1 5).regPend = []
      ∧ (s.stg 1 5).ofl = none ∧ s.ctxBackhaul 1 5 = false ∧ s.lag 1 5 = 0 ∧ s.slotRuns 1 5 (s.curSlot 1 5) = 0)
    ∧ (let s := stage 0 (slot 0) { phase := .pad } []; s.Live ∧ s.Canonical ∧ s.mayStart 1 5 = false) := by decide +kernel

/-- The stage before slot `i` of kind `k`, at catch-up level `l` with `lag` ticks of lag. -/
def before (cfg k : Nat) (g : StageCtx) (i l lag : Nat) : State :=
  stage cfg (slot k) g [(Reg.CAD_STATUS 1 5, w (i + l * 2 ^ 11)), (Reg.CAD_LAG 1 5, w lag)]

/-- What every clause of SlotStarts asks, on the state after the writes that wait. -/
def starts (s : State) (k : Nat) : Prop :=
  s.Live ∧ s.Canonical ∧ s.mayStart 1 5 = true ∧ (s.applyPend 1 5).slotRuns 1 5 ((s.applyPend 1 5).curSlot 1 5) = k

theorem witness_SlotStarts_short :
    (∀ i ∈ [0, 1], let s := before 0 0 {} i 2 140; let p := s.applyPend 1 5
      starts s 0 ∧ p.ctxBackhaul 1 5 = false ∧ p.lag 1 5 = 140 ∧ p.level 1 5 = 2 ∧ slotBudget (p.curSlot 1 5) = 100
      ∧ p.rdB (Reg.CAD_LAG_BOUND 1 5) 31 0 = 0 ∧ p.rdB (Reg.CAD_STATUS 1 5) 7 0 = i ∧ p.slotCount 1 5 = 2)
    ∧ (let s := before 0 6 {} 0 1 100; let p := s.applyPend 1 5
       starts s 6 ∧ p.lag 1 5 = 100 ∧ p.level 1 5 = 1 ∧ slotBudget (p.curSlot 1 5) = 100)
    ∧ (let s := before 0 0 {} 0 2 99; let p := s.applyPend 1 5; starts s 0 ∧ p.lag 1 5 = 99 ∧ p.level 1 5 = 2)
    ∧ (let s := before (4 + 6 * 8) 6 {} 0 1 40; starts s 6 ∧ (s.applyPend 1 5).ctxHosts 1 5 = true ∧ s.level 1 5 = 1) := by
  unfold starts; refine ⟨?_, ?_, ?_, ?_⟩ <;> decide +kernel

theorem witness_SlotStarts_pads :
    (let s := before 0 0 {} 0 0 0; starts s 0 ∧ s.lag 1 5 = 0)
    ∧ (let s := before (4 + 6 * 8) 6 {} 0 0 0; starts s 6 ∧ (s.applyPend 1 5).ctxHosts 1 5 = true)
    ∧ (let s := before 0 6 {} 0 0 0; starts s 6 ∧ (s.applyPend 1 5).ctxHosts 1 5 = false)
    ∧ (let s := before 0 1 { regPend := [(Reg.CAD_CTL 1 5, 1)] } 0 0 0
       starts s 0 ∧ (s.applyPend 1 5).slotVoid 1 5 ((s.applyPend 1 5).curSlot 1 5) = true) := by
  unfold starts; refine ⟨?_, ?_, ?_, ?_⟩ <;> decide +kernel

theorem witness_SlotStarts_works :
    (let s := before 0 1 { inFwd := 1029 } 0 3 40; starts s 1 ∧ s.mbs = [] ∧ (s.applyPend 1 5).qReady 1029 = false)
    ∧ (let s := before 0 2 {} 0 3 40; starts s 2 ∧ ((s.applyPend 1 5).stg 1 5).inBwd = 0xFFFF)
    ∧ (let s := before 0 3 {} 0 3 40; let p := s.applyPend 1 5
       starts s 3 ∧ p.updatesBusy 1 5 = false ∧ p.ctxBackhaul 1 5 = false ∧ s.now < 2 ^ 64
        ∧ 0 < max (slotFloor (p.curSlot 1 5)) (slotBudget (p.curSlot 1 5) - p.lag 1 5))
    ∧ (let s := before 0 4 {} 0 0 0; starts s 4 ∧ ((s.applyPend 1 5).stg 1 5).ofl = none) := by
  unfold starts; refine ⟨?_, ?_, ?_, ?_⟩ <;> decide +kernel

theorem witness_SlotStarts_transfers :
    (let s := before 0 5 { ofl := some 3 } 0 0 0
     starts s 5 ∧ ((s.applyPend 1 5).stg 1 5).ofl = some 3 ∧ s.oflQueue.length < 64)
    ∧ (let s := { before 0 4 { ofl := some 3 } 0 0 0 with oflQueue := List.replicate 64 { entry := 3, n := 1, x := 6, pos := 0, fetch := true } }
       starts s 4 ∧ 64 ≤ s.oflQueue.length) := by
  unfold starts; refine ⟨?_, ?_⟩ <;> decide +kernel

/-- A stage that owns shard ledger 3, on whose update engine an update runs. -/
def updateRuns : State :=
  { before 0 3 { shards := [3] } 0 0 0 with
    ledgers := [(3, { owner := true })], updEngines := [(0, { trig := some { led := 3, step := 1 } })] }

theorem witness_SlotStarts_updates : let s := updateRuns
    starts s 3 ∧ (s.applyPend 1 5).updatesBusy 1 5 = true := by unfold starts; decide +kernel

theorem witness_PaddedSlotCompletes :
    (∀ i ∈ [0, 1], let s := { stage 0 (slot 0) { phase := .pad, budget := 100 } [(Reg.CAD_STATUS 1 5, w i)] with now := 100 }
      s.Live ∧ s.Canonical ∧ s.ctxValid 1 5 = true ∧ (s.stg 1 5).running = true ∧ s.ctxBackhaul 1 5 = false
      ∧ (s.stg 1 5).phase = .pad ∧ (s.stg 1 5).regPend = [] ∧ s.slotT0 1 5 + (s.stg 1 5).budget ≤ s.now ∧ s.rdB (Reg.CAD_LAG_BOUND 1 5) 31 0 = 0
      ∧ s.lag 1 5 + (s.now - s.slotT0 1 5) - slotBudget (s.curSlot 1 5) < 0xFFFFFFFF
      ∧ s.rdB (Reg.CAD_STATUS 1 5) 7 0 = i ∧ s.slotCount 1 5 = 2)
    ∧ (let s := { stage 0 (slot 0) { phase := .pad, budget := 100 } [] with now := 99 }
       s.Live ∧ s.Canonical ∧ s.ctxBackhaul 1 5 = false ∧ s.now < s.slotT0 1 5 + (s.stg 1 5).budget)
    ∧ (stage 0 (slot 1) { phase := .work } []).Canonical ∧ Phase.work ≠ .pad := by decide +kernel

theorem witness_BackhaulSwitches :
    (let s := { stage 0 (slot 3) { phase := .await, budget := 100 } [] with now := 99 }
     s.Live ∧ s.Canonical ∧ s.ctxValid 1 5 = true ∧ (s.stg 1 5).running = true ∧ s.ctxBackhaul 1 5 = false
      ∧ (s.stg 1 5).phase = .await ∧ s.slotRuns 1 5 (s.curSlot 1 5) = 3 ∧ s.updatesBusy 1 5 = false
      ∧ s.now < s.slotT0 1 5 + (s.stg 1 5).budget)
    ∧ (let s := stage (4 + 6 * 8) (slot 6) { phase := .await } []
       s.Live ∧ s.Canonical ∧ s.ctxValid 1 5 = true ∧ (s.stg 1 5).running = true ∧ (s.stg 1 5).phase = .await
        ∧ s.ctxHosts 1 5 = true ∧ s.slotRuns 1 5 (s.curSlot 1 5) = 6)
    ∧ (let s := stage (4 + 6 * 8) (slot 6) { phase := .backhaul } []
       s.Live ∧ s.Canonical ∧ s.ctxPartner 1 5 = 6 ∧ (s.stg 1 5).phase = .backhaul ∧ (s.stg 1 6).phase = .idle
        ∧ s.mayStart 1 6 = false)
    ∧ ((run []).stg 1 5).phase = .idle ∧ (run []).Live ∧ (run []).Canonical := by decide +kernel

theorem witness_BackhaulSwitches_none :
    (let s := run []; s.ctxValid 1 5 = false ∧ (s.stg 1 5).running = false)
    ∧ (let s := stage 0 (slot 6) { phase := .await } []
       s.Live ∧ s.Canonical ∧ s.ctxValid 1 5 = true ∧ (s.stg 1 5).running = true ∧ s.ctxHosts 1 5 = false)
    ∧ (let s := stage (4 + 6 * 8) (slot 3) { phase := .await } []
       s.Live ∧ s.Canonical ∧ s.ctxHosts 1 5 = true ∧ s.slotRuns 1 5 (s.curSlot 1 5) ≠ 6)
    ∧ (let s := { stage (4 + 6 * 8) (slot 6) {} [] with
         stages := [(sk 1 5, { running := true, phase := .backhaul }), (sk 1 6, { running := true, phase := .pad })] }
       s.Live ∧ s.Canonical ∧ (s.stg 1 5).phase = .backhaul ∧ (s.stg 1 (s.ctxPartner 1 5)).phase ≠ .idle)
    ∧ (let s := { stage (4 + 6 * 8) (slot 6) {} [(Reg.CAD_CTX_CFG 1 6, w (1 + 2 + 5 * 8 + 2 ^ 8)), (Reg.CAD_SLOT 1 6 0, w (50 * 2 ^ 32))] with
         stages := [(sk 1 5, { running := true, phase := .backhaul, budget := 100 }), (sk 1 6, { running := true })] }
       s.Live ∧ s.Canonical ∧ (s.stg 1 5).phase = .backhaul ∧ (s.stg 1 6).phase = .idle ∧ s.mayStart 1 6 = true) := by
  refine ⟨?_, ?_, ?_, ?_, ?_⟩ <;> decide +kernel

/-- Queue 1029 (die 1) of a kind with a ring of 4 KiB. -/
def queueRegs (kind : Nat) : List (Nat × Word) :=
  [(Reg.QU_CFG 1029, w (1 + 2 * kind + 4096 * 2 ^ 8)), (Reg.QU_RING 1029, 0x400000)]

/-- The queue has accepted a message. -/
def put (s : State) (b : List Byte) : State := s.commit (s.qAccept 1029 b false).2

/-- A micro-batch descriptor of position 0. -/
def desc (len step flags : Nat) : List Byte := toBytes 4 0 ++ toBytes 4 len ++ toBytes 4 step ++ toBytes 2 flags ++ zeroBytes 50

/-- A FWD slot waits, with a descriptor of STEP 1 in its queue; the gate, the contexts and their configuration as given. -/
def waits (gate cfg : Word) (mbs : Tbl MbCtx) : State :=
  put { stage 0 (slot 1) { phase := .await, inFwd := 1029 } (queueRegs 0 ++ [(Reg.MBQ_GATE 1 5, gate), (Reg.MBQ_CFG 1 5, cfg)])
    with mbs := mbs } (desc 3 1 0)

/-- What the waiting slot finds. -/
def found (s : State) : Head × State :=
  let v := (s.dueReleases 1 5).servePrefetch 1 5
  v.headFor 1 5 1029 (v.slotPos 1 5 (v.curSlot 1 5)) (v.qEntries 1029 + 1)

theorem witness_AdmissionChecks :
    (let s := waits 0x8000000000000003 1 []; s.Live ∧ s.Canonical ∧ s.ctxValid 1 5 = true ∧ (s.stg 1 5).running = true
      ∧ (s.stg 1 5).phase = .await ∧ s.slotRuns 1 5 (s.curSlot 1 5) = 1
      ∧ (((s.dueReleases 1 5).servePrefetch 1 5).stg 1 5).inFwd = 1029
      ∧ (found s).1 = .found (desc 3 1 0) ∧ bit ((found s).2.rd (Reg.MBQ_GATE 1 5)) 63 = true
      ∧ (found s).2.msVal (bits ((found s).2.rd (Reg.MBQ_GATE 1 5)) 13 0) < dStep (desc 3 1 0))
    ∧ (let s := waits 0 0 []; (found s).1 = .found (desc 3 1 0) ∧ bit ((found s).2.rd (Reg.MBQ_GATE 1 5)) 63 = false
        ∧ (found s).2.freeCtx 1 5 = none)
    ∧ (let s := waits 0 1 []; (found s).1 = .found (desc 3 1 0) ∧ (found s).2.freeCtx 1 5 = some 0
        ∧ (found s).2.prefetchWaits 1 5 = false ∧ ((found s).2.stg 1 5).shards = [] ∧ (found s).2.anyDamaged [] = false
        ∧ (found s).2.ledRoom [] = true ∧ (found s).2.takePages 1 5 ((found s).2.pagesFor 1 5 3) = some [])
    ∧ (let s := waits 0 2 [(mbKey 1 5 0, { state := 2, pos := -1, prefWait := true, npages := 1 })]
       (found s).1 = .found (desc 3 1 0) ∧ (found s).2.freeCtx 1 5 = some 1 ∧ (found s).2.prefetchWaits 1 5 = true)
    ∧ dRefused (desc 3 1 2) = true ∧ dLength (desc 0 1 0) = 0 ∧ dRefused (desc 3 1 0) = false
    ∧ dLength (desc 3 1 0) ≤ (run [(Reg.MBQ_MAXLEN 1 5, 3)]).rdB (Reg.MBQ_MAXLEN 1 5) 31 0
    ∧ predTrue (w (1 + 16)) (dMask (desc 3 1 0)) = false ∧ predTrue (slot 1) (dMask (desc 3 1 0)) = true
    ∧ ((run []).stg 1 5).phase ≠ .await := by decide +kernel

theorem test_mayWrite : isMgmt (0xE0 : BitVec 8).toNat = true ∧ (0xE0 : BitVec 8) ≠ 0xE4 ∧ (run []).jobOn = true := by decide +kernel

theorem witness_MicrobatchControls : Claim.mayWrite (run []) 0x80
    ∧ (let s := { stage 0 (slot 1) {} [(Reg.MBQ_CFG 1 5, 256)] with mbs := [(mbKey 1 5 255, { state := 2, desc := desc 3 1 0 })] }
       s.Live ∧ s.Canonical ∧ s.ctxValid 1 5 = true ∧ (s.stg 1 5).phase ≠ .await ∧ bit 0x8000000000000000 63 = true
        ∧ ((List.range 256).find? fun c => (s.mbc 1 5 c).state == 2 && dSeq (s.mbc 1 5 c).desc == 0) = some 255
        ∧ (s.mbc 1 5 255).xfer = false
        ∧ ((List.range 256).find? fun c => (s.mbc 1 5 c).state == 2 && dSeq (s.mbc 1 5 c).desc == 1) = none
        ∧ bits 0x8000000000000001 31 0 = 1
        ∧ bits 0xFF05 4 0 = 5 ∧ bits 0xFF05 15 8 = 255 ∧ ¬(s.ctxValid 1 5 = false ∨ s.maxCtx 1 5 ≤ 255 ∨ (s.mbc 1 5 255).state = 0))
    ∧ (let s := { run [] with mbs := [(mbKey 1 5 255, { state := 2, abortReq := true })] }
       s.Live ∧ s.Canonical ∧ (s.mbc 1 5 255).abortReq = true ∧ (s.mbc 1 5 255).xfer = false ∧ (s.mbc 1 5 255).state = 2)
    ∧ (run []).ctxValid 1 5 = false := by
  refine ⟨⟨by decide, Or.inr (by decide +kernel)⟩, ?_⟩
  decide +kernel

/-! ### Ledgers -/

/-- CRC-64 of the check string of ECMA-182, whose polynomial R130 names. -/
theorem test_crc64 : crc64 (ascii "123456789") = 0x6C40DF5F0B497347 := by decide +kernel

/-- One ledger, of shard 7, with its header at 8 MiB; device 9 is admitted. -/
def oneLed (k : Nat) (x : Ledger) (rs : List (Nat × Word)) : State :=
  { inState k ([(Reg.LED_CFG 0, 1), (Reg.RTE_ADMIT 0, 0x200)] ++ rs) with ledgers := [(0, { x with hdr := 0x800000, shard := 7 })] }

/-- An owned ledger of 32 slots of 16 bytes. -/
def owned : Ledger := { owner := true, depth := 32, bytes := 16, stride := 2048 }

/-- A replica of device 9's ledger. -/
def replica : Ledger := { depth := 32, bytes := 16, stride := 2048, ownerDev := 9 }

/-- The list of replicas with a count, device 0 in every place. -/
def listed (n : Nat) : State := bytesAt (oneLed 3 owned []) 0x800028 (toBytes 4 n)

theorem witness_ReplicaRegistration :
    (inState 0 []).Live ∧ (inState 0 []).Canonical ∧ (inState 0 []).jobOn = false
    ∧ (let s := oneLed 3 owned []; s.Live ∧ s.Canonical ∧ s.jobOn = true ∧ s.admitted 9 = true ∧ s.admitted 8 = false
        ∧ s.ledOfShard 8 true = none ∧ s.ledOfShard 7 true = some 0 ∧ 9 ∉ s.replicaList 0 ∧ (s.replicaList 0).length < 512
        ∧ cleanB s 0x800000 4096 = true)
    ∧ (let s := listed 1; s.Canonical ∧ s.jobOn = true ∧ s.ledOfShard 7 true = some 0 ∧ 0 ∈ s.replicaList 0)
    ∧ (let s := listed 512; 9 ∉ s.replicaList 0 ∧ (s.replicaList 0).length = 512)
    ∧ (∀ n ∈ [99999, 100000], let s := { oneLed 3 { replica with regDue := some 100000 } [] with now := n }
       s.Live ∧ s.Canonical ∧ (s.led 0).regDue = some 100000 ∧ 2 ≤ (s.led 0).depth)
    ∧ ({ oneLed 3 replica [(Reg.RTE_SELF, 0x8000000000000000)] with now := 0 } : State).mayOriginate = true
    ∧ (let s := oneLed 3 replica []; s.Live ∧ s.Canonical ∧ s.jobState = 3 ∧ 0 < s.ledCount ∧ (s.led 0).owner = false
        ∧ 2 ≤ (s.led 0).depth ∧ (s.led 0).registered = false ∧ cleanB s 0x800000 4096 = true)
    ∧ (let s := oneLed 3 { owned with notices := [⟨9, 31, 5⟩], refs := List.replicate 31 0 ++ [1] } []; s.Live ∧ s.Canonical
        ∧ s.ledOfShard 7 true = some 0 ∧ (s.led 0).notices.filter (fun r => r.dev = (9 : BitVec 18).toNat) = [⟨9, 31, 5⟩]
        ∧ cleanB s 0x800000 4096 = true ∧ s.slotRefs 0 31 = 1) := by
  decide +kernel

/-- A commit notice of a STEP from device 9. -/
def notice (step : Nat) : List Byte := toBytes 4 7 ++ toBytes 4 9 ++ toBytes 8 (256 * step) ++ zeroBytes 16

/-- A replica fetch into slot 0 whose transfer 4 ended with a status. -/
def fetching (st tries : Nat) (fp : Word) : State :=
  { oneLed 3 { replica with fetch := some ⟨0, 0x100, 0, fp, tries, false, 4⟩ } [] with
    xfers := [(4, ⟨.led 0, 0, 0xE0, [], false, [], none, some st, 0⟩)] }

theorem witness_CommitNotices :
    (let s := oneLed 3 replica []; s.Live ∧ s.Canonical ∧ s.jobOn = true ∧ s.ledOfShard (leAt (notice 0) 0 4) false = some 0
      ∧ 2 ≤ (s.led 0).depth ∧ leAt (notice 0) 4 4 = (s.led 0).ownerDev ∧ leAt (notice 0) 8 8 / 256 ≤ s.ledStep 0
      ∧ s.ledStep 0 < leAt (notice 1) 8 8 / 256 ∧ (s.led 0).damaged = none ∧ s.pendSlot 0 = none ∧ s.freeSlot 0 = some 0
      ∧ s.fetchNewer 0 1 = false)
    ∧ (fetching 0 0 0).fetchNewer 0 1 = true ∧ (fetching 0 0 0).Live ∧ (fetching 0 0 0).Canonical
    ∧ (let s := oneLed 3 {} []; s.freeSlot 0 = none ∧ (s.led 0).waiting = false)
    ∧ (let s := fetching 1 0 0; s.Live ∧ s.Canonical ∧ (s.xfer 4).ended = some 1)
    ∧ (∀ tries ∈ [1, 2], ∀ fp ∈ [0, 1], let s := fetching 0 tries (w fp); s.Live ∧ s.Canonical
        ∧ ((s.led 0).fetch.map fun f => (f.waiting, f.tries)) = some (false, tries) ∧ 2 ≤ (s.led 0).depth ∧ (s.xfer 4).ended = some 0
        ∧ (s.load 0xE0 ((s.led 0).slotAddr 0) 16).1 = St.ok
        ∧ (crc64 (s.load 0xE0 ((s.led 0).slotAddr 0) 16).2.1 = fp ↔ fp = 0)) := by decide +kernel

theorem witness_LedgerRecords :
    (let s := oneLed 3 owned []; 31 < 32 ∧ cleanB s 0x800000 4096 = true ∧ s.ledSlot 0 ≠ 31)
    ∧ (let s := { oneLed 3 owned [] with updEngines := [(3, { trig := some ⟨0, 1, 0⟩ })] }; s.Live ∧ s.Canonical ∧ 0 < s.ledCount
        ∧ (0x15 : BitVec 8).toNat ≠ 0 ∧ Tbl.wf (fun _ => ({} : UpdEngine)) s.updEngines = true
        ∧ ((s.updEng 3).trig.map (·.led)) = some 0)
    ∧ (BitVec.ofNat 8 St.parity).toNat = St.parity ∧ (BitVec.ofNat 8 St.poison).toNat = St.poison
    ∧ (oneLed 3 owned []).jobOn = true ∧ (oneLed 3 owned []).ledCount = 1
    ∧ (let s := { oneLed 3 owned [] with
         stages := [(sk 1 5, { running := true, shards := [0], phase := .work, mb := some 2 })]
         mbs := [(mbKey 1 5 2, { state := 1, refs := [(0, 3)] })] };
       Tbl.wf (fun _ => ({} : StageCtx)) s.stages = true ∧ s.slotNeeds 1 5 0 = true) := by decide +kernel

/-! ### The vote -/

/-- A device in a group of `count` with a role, its vote and state as given; the owned ledger's step 0 ended as finite. -/
def voting (count role state : Nat) (v : Vote) : State :=
  { oneLed 3 { owned with ends := [(0, true)] } [(Reg.COL_VOTE_STATUS, w (state * 2 ^ 40)), (Reg.COL_VOTE_CFG, w (1000 * 2 ^ 32 + 1))]
    with devCount := count, devRole := role, vote := v }

theorem witness_StepVotes :
    (let s := { run [(Reg.LED_OUTCOME 0, 0x8000000000003FFF)] with msPlaced := [(16383, true)] }
     bit (s.rd (Reg.LED_OUTCOME 0)) 63 = true ∧ s.msOk 16383 = true ∧ bits (s.rd (Reg.LED_OUTCOME 0)) 13 0 = 16383)
    ∧ (∀ e ∈ [(1, 0, false), (2, 1, false), (17, 1, true)], let s := voting e.1 e.2.1 0 { known := e.2.2, ups := [(17, true)] }
       s.Live ∧ s.Canonical ∧ s.jobState = 3 ∧ s.perShard = false ∧ s.voteHeld = false ∧ s.voteState ≠ 1 ∧ s.voteState ≠ 2
        ∧ s.vote.outcome = none ∧ (∀ l ∈ s.ownedIds, (s.ledEnd l s.voteStep).isSome = true) ∧ s.ownedIds ≠ []
        ∧ (s.vote.kids.all fun k => s.vote.ups.any fun u => u.1 == k.1) = true)
    ∧ (let s := run [(Reg.LED_PENDING 0, 0x10000000004)]; s.Live ∧ s.Canonical ∧ bit 0x8000000000000005 63 = true ∧ s.jobOn = true
        ∧ s.voteHeld = true ∧ bits 0x8000000000000005 39 0 = s.voteStep + 1 ∧ ¬bits 0x8000000000000004 39 0 = s.voteStep + 1)
    ∧ (∀ n ∈ [999, 1000], ∀ st ∈ [1, 2], let s := { voting 2 1 st {} with now := n }; s.Live ∧ s.Canonical ∧ s.voteState = st
        ∧ s.vote.t0 + s.rdB Reg.COL_VOTE_CFG 63 32 = 1000)
    ∧ (let s := voting 17 0 0 {}; s.Live ∧ s.Canonical ∧ 9 ∉ s.depots ∧ s.admitted 9 = true ∧ s.admitted 8 = false ∧ s.voteState = 0
        ∧ bits (w (16 * 2 ^ 42)) 59 42 = 16 ∧ 16 ∈ childRoles s.devRole s.devCount ∧ bits (w (16 * 2 ^ 42)) 39 0 = s.voteStep
        ∧ s.vote.ups = [])
    ∧ (let s := voting 17 1 2 {}; s.Live ∧ s.Canonical ∧ s.voteState = 2 ∧ bits (w (2 ^ 40)) 39 0 = s.rdB Reg.COL_VOTE_STATUS 39 0)
    ∧ 1000 ≤ bits (w (1000 * 2 ^ 32)) 63 32 ∧ bit (w (1000 * 2 ^ 32)) 0 = false ∧ bit (w (1000 * 2 ^ 32 + 1)) 0 = true :=
  ⟨by decide +kernel, by decide +kernel, by decide +kernel⟩

/-- Device 5, whose route to every device of its group, device 9 among them, is the active port 2. -/
def routed (v : Vote) (role state : Nat) : State :=
  let s := voting 18 role state v
  let rs : List (Nat × Word) := [(Reg.RTE_SELF, 0x8000000000000005), (Reg.RTE_MEMBER 9, 0x10004), (Reg.RTE_PORT_EN, 4), (Reg.LNK_STATUS 2, 4)]
  { s with regs := rs.foldl (fun (t : Tbl Word) e => t.set e.1 e.2 (regReset e.1)) s.regs }

/-- A vote that goes to the parent, device 9, and votes and outcomes that go on to it. -/
theorem witness_StepVotes_sent :
    (let s := routed { known := true, parent := 9 } 1 0; s.Live ∧ s.Canonical ∧ s.jobState = 3 ∧ s.perShard = false ∧ s.voteHeld = false
        ∧ s.voteState = 0 ∧ s.vote.outcome = none ∧ (∀ l ∈ s.ownedIds, (s.ledEnd l s.voteStep).isSome = true) ∧ 1 < s.devCount
        ∧ s.mayOriginate = true ∧ s.rdB Reg.FAB_TAG_CFG 13 0 < s.tagsFree ∧ s.isMasked 0xD5 = false
        ∧ s.routeOf s.devId s.vote.parent 2 = .port 2)
    ∧ (∀ e ∈ [(0, 1), (1, 17)], let s := routed { known := true, parent := 9, kids := [(e.2, 9)] } e.1 1; s.Live ∧ s.Canonical
        ∧ s.admitted 9 = true ∧ 9 ∉ s.depots ∧ s.voteState = 1 ∧ s.vote.known = true ∧ s.vote.ups = []
        ∧ bits (w (e.2 * 2 ^ 42)) 59 42 = e.2 ∧ e.2 ∈ childRoles s.devRole s.devCount ∧ bits (w (e.2 * 2 ^ 42)) 39 0 = s.voteStep
        ∧ (s.vote.kids.all fun k => k.1 == e.2) = true) := by decide +kernel

theorem witness_StepVotes_outcome :
    (let s := voting 2 1 0 {}; s.vote.known = false ∧ s.devCount = 2)
    ∧ (∀ f ∈ [true, false], ∀ n ∈ [[], [0]],
       let s := { voting 17 1 0 { outcome := some f } with
         remoteSends := n.map fun i => (i, ⟨.vote, 0, 5, 9, 0x400, [1], noLimit, none, some 100, false, false⟩) };
       s.Live ∧ s.Canonical ∧ s.vote.outcome = some f ∧ s.voteQuiet s.voteStep = (n == [])) := by decide +kernel

/-! ### Matrix engines -/

/-- Engine 0 runs for stage context 5 of die 0; its index register 1 holds 4096, without a tag. -/
def mx (run' : Bool) (g : Engine) (rs : List (Nat × Word)) : State :=
  { run ([(mxReg Reg.MX_STATUS 0, 0x501)] ++ rs) with
    stages := [(sk 0 5, { running := run', mb := some 0 })]
    engines := [(0, { g with ix := setNth (List.replicate 16 0) 1 4096, ixTag := List.replicate 16 0, ixHandle := List.replicate 16 0
                             loops := [0, 6, 0, 0] })] }

/-- The hypotheses that every clause shares. -/
def mxSound (s : State) : Bool :=
  decide s.Live && decide s.Canonical && s.mxState 0 == 1 && (s.eng 0).ix.length == 16 && (s.eng 0).ixTag.length == 16
    && (s.eng 0).ixHandle.length == 16 && (s.eng 0).loops.length == 4

theorem mxSound_spec {s : State} (h : mxSound s = true) : s.Live ∧ s.Canonical ∧ Claim.mxUp s 0 := by
  simpa [mxSound, Claim.mxUp, and_assoc] using h

/-- Instruction words written out from the table of R150. -/
theorem test_sequencer_words :
    [seqWord (.nopMe 0), seqWord (.cfg 0 2 0xABCDEF012345), seqWord (.setx 0 15 1), seqWord (.addx 0 1 2 0xFFFFFFFF),
      seqWord (.lea 0 3 2 0x1234 5), seqWord (.addxx 0 1 2 3), seqWord (.lda 0 true true 4 0x40), seqWord (.ldb 0 false true 4 0x40),
      seqWord (.lds 0 true 2 1 0), seqWord (.mma 0 true true true true 31), seqWord (.drnTopk 0 31 true 2 3 0xFFFFFFFF)].map
        (fun v => v.getD 0)
    = [0x00, 0xABCDEF0123450201, 0x10F02, 0xFFFFFFFF00002103, 0x512342304, 0x32105, 0x4000004310, 0x4000004211, 0x1A12, 0x1FF20,
      0xFFFFFFFF03217F30]
    ∧ [seqWord (.waitm 0 16383 15), seqWord (.advm 0 16383 1), seqWord (.bar 0 1023), seqWord (.loop 0 3 65535 8191),
      seqWord (.jmp 0 5), seqWord (.bnz 0 9 5), seqWord (.endOp 0), seqWord (.drnPlain 0 0 false 0 0 0),
      seqWord (.drnTopkEmit 0 0 false 0 0 0)].map (fun v => v.getD 0)
    = [0xF3FFF40, 0x1003FFF41, 0x3FF42, 0x1FFFFFFF0350, 0x500000051, 0x500000952, 0x5F, 0x30, 0x8030] := by decide +kernel

/-- The state with an instruction as the next one of engine 0. -/
def next (s : State) (c : Instr) : State :=
  s.setEng 0 { s.eng 0 with primary := { (s.eng 0).primary with words := (seqWord c).toList } }

/-- That state meets the hypotheses that every clause shares, and the instruction is due. -/
def due (s : State) (c : Instr) : Bool := mxSound (next s c) && (next s c).mxDue 0 c

/-- Barrier 1023 placed with a number of participants. -/
def barrier (n : Nat) : Nat × Word := (Reg.SYN_BAR_CFG 3 255, w (n + 2 ^ 13))

/-- Instructions that only set registers of the engine. -/
def setters : List Instr :=
  [.nopMe 0, .cfg 0 0 1, .cfg 0 1 1, .cfg 0 2 1, .setx 0 15 1, .addx 0 1 1 0xFFFFFFFF, .lea 0 1 3 5 64, .addxx 0 1 1 15]

theorem witness_MatrixControl :
    ((run []).Live ∧ (run []).Canonical ∧ Claim.mxOf (.nopMe 0) = some 0 ∧ (run []).mxDue 0 (.nopMe 0) = false
      ∧ (next (mx true {} []) (.jmp 0 0)).mxDue 0 (.nopMe 0) = false
      ∧ ({ next (mx true {} []) (.nopMe 0) with masked := [0x80] } : State).mxDue 0 (.nopMe 0) = false
      ∧ ({ next (mx true {} []) (.nopMe 0) with govs := [(0, { pause := 1 })] } : State).mxDue 0 (.nopMe 0) = false
      ∧ ({} : Engine).primary.entryBwd = 0xFFFFFFFF ∧ ({ primary := { entryBwd := 0 } } : Engine).primary.entryBwd ≠ 0xFFFFFFFF)
    ∧ ((∀ c ∈ setters, due (mx true {} []) c = true) ∧ Claim.mayWrite (mx true {} []) 0x80)
    ∧ (mxSound (mx true {} []) = true ∧ (mx true {} []).stageStopped ((mx true {} []).mxStage 0) = false)
    ∧ (mxSound (mx false {} []) = true ∧ (mx false {} []).stageStopped ((mx false {} []).mxStage 0) = true) :=
  ⟨by decide +kernel, ⟨by decide +kernel, by decide, Or.inr (by decide +kernel)⟩, by decide +kernel, by decide +kernel⟩

theorem witness_MatrixControl_waits :
    (let s := next (mx true {} []) (.waitm 0 16383 1)
     due (mx true {} []) (.waitm 0 16383 1) = true ∧ s.stageStopped (s.mxStage 0) = false ∧ s.msOk 16383 = false)
    ∧ (∀ v ∈ [4095, 4096], let u := { mx true {} [(msReg 16383, w v)] with msPlaced := [(16383, true)] };
       let s := next u (.waitm 0 16383 1)
       due u (.waitm 0 16383 1) = true ∧ due u (.advm 0 16383 1) = true ∧ s.stageStopped (s.mxStage 0) = false ∧ s.msOk 16383 = true
         ∧ s.msVal 16383 = v ∧ ((s.eng 0).getIx 1).toNat = 4096)
    ∧ (due (mx true {} []) (.advm 0 16383 1) = true ∧ (next (mx true {} []) (.advm 0 16383 1)).msOk 16383 = false)
    ∧ (due (mx true {} []) (.bar 0 1023) = true ∧ (next (mx true {} []) (.bar 0 1023)).barOk 1023 = false)
    ∧ (∀ n ∈ [1, 2], let s := next (mx true {} [barrier n]) (.bar 0 1023)
       due (mx true {} [barrier n]) (.bar 0 1023) = true ∧ s.stageStopped (s.mxStage 0) = false ∧ s.barOk 1023 = true ∧ s.barWaits = []
       ∧ (s.rdB (Reg.SYN_BAR_STATE 3 255) 12 0 + 1 = s.rdB (Reg.SYN_BAR_CFG 3 255) 12 0 ↔ n = 1)) := by decide +kernel

theorem witness_MatrixControl_drained :
    (let u := mx true {} [(msReg 16383, 5), barrier 1]
     let s : State := { u with msPlaced := [(16383, true)], busLate := [(0x80, 0x300000000000, zeroBytes 8)] }
     s.Live ∧ s.Canonical ∧ Claim.mxUp s 0 ∧ s.mxAcked 0 = false ∧ due s (.advm 0 16383 1) = true ∧ due s (.bar 0 1023) = true
      ∧ due s (.endOp 0) = true)
    ∧ (∀ c ∈ [Instr.advm 0 16383 1, .bar 0 1023, .endOp 0], (next (mx true {} []) c).mxAcked 0 = true) := by
  refine ⟨⟨?_, ?_, ?_⟩, ?_⟩ <;> first | (exact (mxSound_spec (by decide +kernel)).2.2) | decide +kernel | skip
  refine ⟨?_, ?_⟩
  · exact (mxSound_spec (by decide +kernel)).2.2
  · decide +kernel

/-- The loops of a count, the branches of index register 0 (zero) and 1, and the end with tiles live or not. -/
def branches : List Instr := [.loop 0 1 7 5, .loop 0 1 8 5, .jmp 0 8191, .bnz 0 1 5, .bnz 0 0 5, .endOp 0]

theorem witness_MatrixControl_branches :
    (∀ c ∈ branches, due (mx true {} []) c = true)
    ∧ (nth ((mx true {} []).eng 0).loops 1 0 = 6 ∧ (6 < 8 - 1) ∧ (7 - 1 ≤ 6))
    ∧ ((mx true {} []).eng 0).getIx 0 = 0 ∧ ((mx true {} []).eng 0).getIx 1 ≠ 0
    ∧ (let s := next (mx true { live := 1 } []) (.endOp 0)
       due (mx true { live := 1 } []) (.endOp 0) = true ∧ s.stageStopped (s.mxStage 0) = false ∧ (s.eng 0).live = 1)
    ∧ ((mx true {} []).eng 0).live = 0 := by decide +kernel

/-- Profile of a 64 × 64 tile of a format: A, B or O. -/
def prof (f : Nat → Nat → Nat) (v : Nat) : Nat × Word := (mxReg f 0, w v)

/-- The loads of index register 1, as the next instruction of the state. -/
def ldA (t : Bool) : Instr := .lda 0 t true 1 0
def ldB (t : Bool) : Instr := .ldb 0 t true 1 0
def ldS (k : BitVec 2) : Instr := .lds 0 true k 1 0

theorem witness_MatrixLoads :
    (let u := mx true {} [prof Reg.MX_PROF_A 1, prof Reg.MX_PROF_B 1]; let s := next u (ldA false)
     due u (ldA false) = true ∧ due u (ldB false) = true ∧ (s.mxProfA 0).loadOk false = true ∧ (s.mxProfB 0).loadOk true = true
      ∧ (s.mxProfA 0).sparse = 0 ∧ (tileBytes (s.mxProfA 0) false).2 = 2048 ∧ (tileBytes (s.mxProfB 0) true).2 = 2048
      ∧ s.mxResolve 0 1 0 2048 = .pieces [(4096, 2048)] ∧ (s.mxRead 0 [(4096, 2048)]).1 = St.ok
      ∧ (s.eng 0).getTag 1 = 0 ∧ unsgn 64 (((s.eng 0).getIx 1).toNat + sgn 32 0) = 4096 ∧ plainB s 4096 2048 = true)
    ∧ (∀ e ∈ [((1 : BitVec 2), 64), (2, 16)], let s := next (mx true {} []) (ldS e.1)
       due (mx true {} []) (ldS e.1) = true ∧ s.mxResolve 0 1 0 e.2 = .pieces [(4096, e.2)] ∧ (s.mxRead 0 [(4096, e.2)]).1 = St.ok
        ∧ plainB s 4096 e.2 = true)
    ∧ (let u := mx true {} []; due u (ldA false) = true ∧ due u (ldB false) = true
        ∧ (u.mxProfA 0).loadOk false = false ∧ (u.mxProfB 0).loadOk true = false)
    ∧ (let u := mx true {} [prof Reg.MX_PROF_A (1 + 2 ^ 21), prof Reg.MX_PROF_B (1 + 2 ^ 21)]
       due u (ldA true) = true ∧ due u (ldB true) = true ∧ (u.mxProfA 0).sparse ≠ 0 ∧ (u.mxProfB 0).sparse ≠ 0)
    ∧ (let big := 8 + 2 ^ 19 + 2 ^ 8 + 0xF * 2 ^ 9; let u := mx true {} [prof Reg.MX_PROF_A big, prof Reg.MX_PROF_B big]
       due u (ldA false) = true ∧ due u (ldB false) = true ∧ (u.mxProfA 0).loadOk false = true ∧ (u.mxProfA 0).sparse = 0
        ∧ 262144 < (tileBytes (u.mxProfA 0) false).2 ∧ (u.mxProfB 0).loadOk true = true ∧ 262144 < (tileBytes (u.mxProfB 0) true).2) := by
  decide +kernel

theorem witness_MatrixMultiply :
    (let u := mx true {} [prof Reg.MX_PROF_A 1, prof Reg.MX_PROF_B 1, prof Reg.MX_PROF_O 1]
     due u (.mma 0 true true false false 31) = true ∧ mmaOk (u.mxProfA 0) (u.mxProfB 0) (u.mxProfO 0) false = true
      ∧ tileOk 31 (tileUnits (u.mxProfO 0) (u.mxProfA 0).outer (u.mxProfB 0).outer) = true)
    ∧ (let u := mx true {} [prof Reg.MX_PROF_A 1, prof Reg.MX_PROF_B 0x101, prof Reg.MX_PROF_O 1]
       due u (.mma 0 true true false false 31) = true ∧ mmaOk (u.mxProfA 0) (u.mxProfB 0) (u.mxProfO 0) false = true
        ∧ tileOk 31 (tileUnits (u.mxProfO 0) (u.mxProfA 0).outer (u.mxProfB 0).outer) = false)
    ∧ due (mx true {} []) (.mma 0 true true false false 31) = true
    ∧ mmaOk ((mx true {} []).mxProfA 0) ((mx true {} []).mxProfB 0) ((mx true {} []).mxProfO 0) false = false := by decide +kernel

/-- Tile 31 as a drain sees it: its values and what each mode writes (the names of MatrixDrains). -/
structure Drain where
  pack : List Byte
  sb : List Byte
  quant : List Byte
  out : List Byte
  key : Nat × Word
  base : Nat
  cols : Nat

def drain (s : State) : Drain :=
  let g := s.eng 0
  let o := s.mxProfO 0
  let r := (s.mxProfA 0).outer
  let c := (s.mxProfB 0).outer
  let vals := (readTile g.acc o 31 r c).map fun row => row.map (accVal o)
  let f := (fmtOf o.fmt).getD .fp32
  let pack (codes : List (List Nat)) : List Byte := (codes.map fun row => packElems (fmtWidth o.fmt) row).flatten
  let blocks := blocksOfTile o.bsize o.bdir r c vals
  let scales := blocks.map fun b => chooseScale f o.e4m3 b
  let base := (g.getIx 0).toNat % 65536
  { pack := pack (drainCodes o c [] vals).1
    sb := (scales.zip blocks).map fun b => BitVec.ofNat 8 (writtenScale o.e4m3 b.1.1 b.2)
    quant := pack (drainCodes o c (g.scales.map fun k => scaleVal o.e4m3 k) vals).1
    out := ((s.topkMerge 0 o r c base vals).1.map fun row => emitRow (o.acc == 1) o.topk row).flatten
    key := amaxKey 31 r c (tileUnits o r c) (s.rd (mxReg Reg.MX_PROF_O 0)), base := base, cols := c }

/-- The addresses resolve and the write completes with OK. -/
def lands (s : State) (parts : List (Nat × Nat × List Byte)) : Bool :=
  let q := s.drainPlan 0 parts
  q.1 == 0 && (s.mxWrite 0 q.2.2 (parts.map (·.2.2)).flatten).1 == St.ok

/-- A 64 × 64 tile under a profile O. -/
def tiled (o : Nat) (g : Engine) : State := mx true g [prof Reg.MX_PROF_A 1, prof Reg.MX_PROF_B 1, prof Reg.MX_PROF_O o]

/-- The drain of tile 31 in a mode, from index register 1 with the scales at index register 0. -/
def drn : DrainMode → Instr
  | .plain => .drnPlain 0 31 false 1 0 0
  | .amax => .drnAmax 0 31 false 0 1 0
  | .quant => .drnQuant 0 31 false 1 0 0
  | .topk => .drnTopk 0 31 false 1 0 0
  | .topkEmit => .drnTopkEmit 0 31 false 1 0 0

/-- The drain in a mode is the next instruction, and tile 31 is one that it may name. -/
def drainable (s : State) (m : DrainMode) : Bool :=
  let r := (s.mxProfA 0).outer
  let c := (s.mxProfB 0).outer
  due s (drn m) && tileOk 31 (tileUnits (s.mxProfO 0) r c) && drainOk (s.mxProfO 0) m r c

/-- Profile O with block scales, one for the whole tile. -/
def blocked : Nat := 1 + 4 * 2 ^ 12 + 2 * 2 ^ 15

theorem witness_MatrixDrains :
    (let s := tiled 1 {}; drainable s .plain = true ∧ (s.mxProfO 0).bsize = 0
      ∧ lands s [(1, 0, (drain s).pack), (0, 0, [])] = true
      ∧ (s.eng 0).getTag 1 = 0 ∧ unsgn 64 (((s.eng 0).getIx 1).toNat + sgn 32 0) = 4096 ∧ plainB s 4096 (drain s).pack.length = true)
    ∧ (let s := tiled blocked {}; drainable s .amax = true
      ∧ scaleCount (s.mxProfO 0).bsize (s.mxProfO 0).bdir 64 64 ≤ 2048 ∧ lands s [(1, 0, (drain s).sb)] = true
      ∧ drainable s .quant = true ∧ amaxMatches (s.eng 0).amax (drain s).key = false)
    ∧ (let s := tiled blocked { amax := some (drain (tiled blocked {})).key, scales := [127] }; drainable s .quant = true
      ∧ amaxMatches (s.eng 0).amax (drain s).key = true ∧ lands s [(1, 0, (drain s).quant)] = true ∧ plainB s 4096 (drain s).quant.length = true)
    ∧ (let s := tiled (1 + 2 ^ 18) {}; drainable s .topk = true ∧ drainable s .topkEmit = true
      ∧ (drain s).base + ((drain s).cols - 1) ≤ 65534 ∧ lands s [(1, 0, (drain s).out)] = true)
    ∧ ((tiled 1 {}).eng 0).ix.length = 16 := by decide +kernel

/-! ### Dispatch -/

/-- Dispatch unit 2 with its items and the one that runs. -/
def dsp (q : List DspReq) (r : Option DspRun) (acc : Nat) : State := { run [] with dsps := [(2, { queue := q, run := r, accepted := acc })] }

/-- A running item with one notice. -/
def dspItem (issued : Bool) (pass : Option (List Byte)) : DspRun := ⟨{ addr := 4096, pass := pass }, [(0, 5, [])], issued, 0, 0, 0, 0⟩

/-- A request at 4096 of one token with one choice: its list row at 8192, its tokens at 16384, its record at 32768. -/
def dspReq : List Byte :=
  toBytes 4 1 ++ [1, 1, 0, 0] ++ toBytes 8 8192 ++ toBytes 8 16384 ++ toBytes 4 64 ++ zeroBytes 4 ++ toBytes 8 32768 ++ zeroBytes 88

/-- That request is held by unit 2, whose context 0 has a table of one expert at 12288. -/
def dspWhole : State :=
  let s := { dsp [{ addr := 4096, master := 0x80 }] none 0 with regs := (run [(Reg.DSP_CTX_TABLE 2 0, w (2 ^ 63 + 12288))]).regs }
  bytesAt (bytesAt s 4096 dspReq) 12288 (toBytes 4 1 ++ zeroBytes 60 ++ toBytes 4 5 ++ zeroBytes 4 ++ toBytes 4 1 ++ zeroBytes 4)

/-- Unit 2 runs on the guest's answers so far. -/
def dspRunning (s : State) : State := { s with guestRun := some (s.dsp 2).replies }

/-- Every read and the write of the record end with OK, and the guest is not asked. -/
def dspGood (s : State) : Bool :=
  let g := dspRunning s
  let a := g.load 0x80 4096 128
  let e := a.2.2.expertTable 0x80 2 0
  let l := e.2.2.2.2.load 0x80 (leAt a.2.1 8 8) (128 * leAt a.2.1 0 4)
  let plan := assign (e.2.2.2.1.map fun x => x.2.2.2) e.2.1 (leAt a.2.1 4 1) (leAt a.2.1 5 1) (e.2.2.1 == 1) (listRows (leAt a.2.1 4 1) l.2.1)
  (g.dspRunReq 2 { addr := 4096, master := 0x80 }).guestAsk == none && !g.dspBad 2 { addr := 4096, master := 0x80 }
    && a.1 == St.ok && dspReqOk a.2.1 && e.1 == St.ok
    && leAt a.2.1 0 4 == 1 && l.1 == St.ok && (l.2.2.store 0x80 (leAt a.2.1 0x20 8) (routingRecord plan.lists)).1 == St.ok

/-- What unit 2 does at the end of its item. -/
def dspEnds (r : DspRun) (s : State) : State :=
  (((s.addB (Reg.DSP_CHOICES 2) 63 0 r.placed).addB (Reg.DSP_DROPS 2) 63 0 r.dropped).addB (Reg.DSP_SPILLS 2) 63 0 r.spilled).dspFinish
    2 r.req St.ok r.dropped r.spilled r.done

theorem witness_DispatchRequests : Claim.mayWrite (run []) 0x80
    ∧ (bit 0x8000000000000000 63 = true ∧ (run []).jobOn = true
      ∧ (∀ n ∈ [63, 64], let s := dsp (List.replicate n { addr := 128 }) none 0; s.Live ∧ s.Canonical ∧ Claim.dspHeld s 2 = n)
      ∧ ((run []).dsp 2).queue = []
      ∧ (let s := dsp [{ addr := 4096, master := 0x80 }] none 0; (s.dsp 2).queue = [{ addr := 4096, master := 0x80 }] ∧ (s.dsp 2).run = none
        ∧ s.isMasked 0x80 = false ∧ (s.dsp 2).asked = false ∧ s.guestAsk = none ∧ Tbl.wf (fun _ => ({} : Dsp)) s.dsps = true
        ∧ ((dspRunning s).dspRunReq 2 { addr := 4096, master := 0x80 }).guestAsk = none
        ∧ (dspRunning s).dspBad 2 { addr := 4096, master := 0x80 } = true)
      ∧ (let s := dsp [{ pass := some [] }] none 0; s.Live ∧ s.Canonical ∧ (s.dsp 2).run = none ∧ s.isMasked 0 = false
        ∧ s.rdB (Reg.DSP_CTX_TABLE 2 0) 63 63 = 0 ∧ Tbl.wf (fun _ => ({} : Dsp)) s.dsps = true)
      ∧ (let s := dsp [{}] (some (dspItem false none)) 0; s.Live ∧ s.Canonical ∧ (s.dsp 2).run ≠ none)
      ∧ (∀ b ∈ [true, false], ∀ k ∈ [0, 1], let s := dsp [] (some (dspItem b none)) k; s.Live ∧ s.Canonical
        ∧ (s.dsp 2).run = some (dspItem b none) ∧ (s.dsp 2).accepted = k ∧ (dspItem b none).notices.length = 1
        ∧ (s.dsp 2).asked = false ∧ (dspEnds (dspItem b none) (dspRunning s)).guestAsk = none)
      ∧ (dsp [] (some (dspItem true (some []))) 1).Canonical ∧ (dspItem true (some [])).req.pass ≠ none) := by
  refine ⟨⟨by decide, Or.inr (by decide +kernel)⟩, ?_, ?_, ?_, ?_, ?_, ?_, ?_, ?_, ?_⟩ <;> decide +kernel

/-- A table that is there and a request of zeros; a request in the guest window, which a general core may reach; a unit that
waits for the guest. -/
theorem witness_DispatchRequests_guest :
    (let s := { dsp [{ addr := 4096, master := 0x80 }] none 0 with regs := (run [(Reg.DSP_CTX_TABLE 2 0, w (2 ^ 63))]).regs }
       let g := dspRunning s
       s.Live ∧ s.Canonical ∧ (g.dspRunReq 2 { addr := 4096, master := 0x80 }).guestAsk = none ∧ (g.load 0x80 4096 128).1 = St.ok
        ∧ dspReqOk (g.load 0x80 4096 128).2.1 = false)
    ∧ (let r : DspReq := { addr := 0x3F0000000000, master := 5 }
       let s := { dsp [r] none 0 with regs := (run [(Reg.CGT_STATUS, 1), (Reg.CGT_CFG, 0x10000)]).regs }
       s.Live ∧ s.Canonical ∧ (s.dsp 2).run = none ∧ s.isMasked 5 = false ∧ (s.dsp 2).asked = false ∧ s.guestAsk = none
        ∧ Tbl.wf (fun _ => ({} : Dsp)) s.dsps = true
        ∧ ((dspRunning s).dspRunReq 2 r).guestAsk = some ⟨5, 1, 0x3F0000000000, 128, []⟩)
    ∧ (let s := { run [] with dsps := [(2, { queue := [{}], asked := true })] }; s.Live ∧ s.Canonical ∧ (s.dsp 2).asked = true) := by decide +kernel

theorem witness_DispatchRequests_assigned :
    (dspWhole.Live ∧ dspWhole.Canonical ∧ (dspWhole.dsp 2).queue = [{ addr := 4096, master := 0x80 }] ∧ (dspWhole.dsp 2).run = none
      ∧ dspWhole.isMasked 0x80 = false ∧ dspGood dspWhole = true)
    ∧ (let s := { dsp [{}] none 0 with masked := [0] }; s.Live ∧ s.Canonical ∧ s.isMasked 0 = true)
    ∧ (let s := { dsp [] (some (dspItem true none)) 1 with masked := [0] }; s.Live ∧ s.Canonical
      ∧ s.isMasked (dspItem true none).req.master = true) := by decide +kernel

/-- Inbox 63 of die 1 reads queue 1029: two sources, tokens of 64 bytes, one slot with room for a row; `held` notices. -/
def inbox (held : List (Nat × Nat)) (msg : List Byte) : State :=
  put { run (queueRegs 1 ++ [(Reg.DSP_IBX_CFG 1 63, w (2 ^ 63 + 2 + 2 ^ 16)), (Reg.DSP_IBX_QUEUE 1 63, w (1029 + 1030 * 2 ^ 16)),
      (Reg.DSP_IBX_BUF 1 63, 0x600000), (Reg.DSP_IBX_GEOM 1 63, w (1 + 2 ^ 16))]) with
    inboxes := [(1 * 64 + 63, { master := 0x40, held := held })] } msg

/-- A notice of a position from a source, with tokens of 64 bytes. -/
def ibxNotice (p src : Nat) : List Byte := toBytes 4 p ++ toBytes 4 src ++ toBytes 4 0 ++ toBytes 4 64 ++ zeroBytes 80

/-- The inbox runs on the guest's answers so far. -/
def ibxRunning (s : State) : State := { s with guestRun := some (s.ibx 1 63).replies }

/-- What the meaning computes for the head. -/
def ibxHead (s : State) : Nat × List Byte × State := (ibxRunning s).qHeadRead 1029

/-- The inbox waits for no answer of the guest, and what it does next asks for none (`whole`). -/
def ibxWhole (s z : State) : Bool :=
  !(s.ibx 1 63).asked && s.guestAsk == none && z.guestAsk == none && Tbl.wf (fun _ => ({} : Inbox)) s.inboxes && s.guestRun == none

/-- The whole notice, and its position. -/
def ibxTaken (s : State) : Bool := ibxWhole s ((ibxRunning s).ibxNotice 1 63)
def ibxOut (s : State) : State := (ibxRunning s).ibxEmit 1 63

/-- Inbox 63 of die 1 with one source, which holds its notice of position 0. -/
def ibxLast (par : Tbl Nat) : State :=
  { inbox [(0, 0)] [] with
    regs := (inbox [] []).regs.set (Reg.DSP_IBX_CFG 1 63) (w (2 ^ 63 + 1 + 2 ^ 16)) 0, par := par }

/-- Its slots lie in the guest window, which the job's cores may reach. -/
def ibxAway (s : State) : State :=
  { s with regs := (((s.regs.set (Reg.DSP_IBX_BUF 1 63) 0x3F0000000000 0).set Reg.CGT_STATUS 1 0).set Reg.CGT_CFG 0x10000 0) }

/-- The position's gathering has begun. -/
def ibxBegun (s : State) : State := (ibxRunning s).setIbx 1 63 { s.ibx 1 63 with work := some {}, failed := false }

theorem witness_Inboxes :
    (let s := run []; s.Live ∧ s.Canonical ∧ s.ibxOn 1 63 = false ∧ s.ibxReady 1 63 = false ∧ ibxTaken s = true)
    ∧ (let s := { inbox [] (ibxNotice 0 1) with masked := [0x40] }; s.Live ∧ s.Canonical ∧ s.isMasked (s.ibx 1 63).master = true ∧ ibxTaken s = true)
    ∧ (let s := { inbox [] (ibxNotice 0 1) with par := [(0x400000, 0xFFFF)] }; s.Live ∧ s.Canonical ∧ s.ibxOn 1 63 = true
        ∧ s.qReady 1029 = true ∧ s.isMasked (s.ibx 1 63).master = false ∧ ibxTaken s = true ∧ (ibxHead s).1 ≠ 0)
    ∧ (let s := inbox [] (ibxNotice 0 1); s.Live ∧ s.Canonical ∧ s.rdB (Reg.DSP_IBX_QUEUE 1 63) 12 0 = 1029 ∧ s.ibxOn 1 63 = true
        ∧ s.qReady 1029 = true ∧ s.isMasked (s.ibx 1 63).master = false ∧ (ibxHead s).1 = St.ok ∧ s.qHeadLen 1029 = 96
        ∧ s.ibxSources 1 63 = 2 ∧ s.ibxTokenBytes 1 63 = 64 ∧ (s.ibx 1 63).next = 0 ∧ (s.ibx 1 63).held = []
        ∧ leAt (ibxHead s).2.1 0 4 = 0 ∧ leAt (ibxHead s).2.1 4 2 = 1 ∧ leAt (ibxHead s).2.1 12 4 = 64
        ∧ (ibxHead s).2.2.ibxSlotFree 1 63 0 = true ∧ s.sendWaits = [] ∧ ibxTaken s = true)
    ∧ (let s := inbox [] (ibxNotice 1 1); ibxTaken s = true ∧ (s.ibx 1 63).held.length < 2 ^ 16 ∧ (ibxHead s).1 = St.ok ∧ leAt (ibxHead s).2.1 0 4 = 1 ∧ (ibxHead s).2.2.ibxSlotFree 1 63 1 = false)
    ∧ (let s := inbox [] (ibxNotice 0 2); ibxTaken s = true ∧ (ibxHead s).1 = St.ok ∧ s.ibxSources 1 63 ≤ leAt (ibxHead s).2.1 4 2) := by decide +kernel

theorem witness_Inboxes_gathered :
    (let s := inbox [(0, 0), (0, 1)] []; s.Live ∧ s.Canonical ∧ s.ibxReady 1 63 = true ∧ (0 : BitVec 32).toNat = (s.ibx 1 63).next % 2 ^ 32
        ∧ (1 : BitVec 32).toNat ≠ (s.ibx 1 63).next % 2 ^ 32)
    ∧ (∀ p ∈ [[], [(0x600000, 0xFFFF)]], let s := ibxLast p; let x := (ibxBegun s).load 0x40 (s.ibxSlot 1 63 0) 96
       s.Live ∧ s.Canonical ∧ s.ibxReady 1 63 = true ∧ (s.ibx 1 63).next = 0 ∧ (s.ibx 1 63).master = 0x40 ∧ s.ibxSources 1 63 = 1
        ∧ s.xfers = [] ∧ (x.1 = St.ok ↔ p = []) ∧ (p = [] → leAt x.2.1 8 4 = 0)
        ∧ ibxWhole s (ibxOut s) = true ∧ (((ibxOut s).ibx 1 63).failed = true ↔ p ≠ [])) := by decide +kernel

theorem witness_Inboxes_guest :
    (let s := ibxAway (inbox [] (ibxNotice 0 1)); s.Live ∧ s.Canonical ∧ s.ibxOn 1 63 = true ∧ s.qReady 1029 = true
        ∧ s.isMasked (s.ibx 1 63).master = false ∧ Tbl.wf (fun _ => ({} : Inbox)) s.inboxes = true ∧ (s.ibx 1 63).asked = false
        ∧ ((ibxRunning s).ibxNotice 1 63).guestAsk ≠ none)
    ∧ (let s := ibxAway (ibxLast []); s.Live ∧ s.Canonical ∧ s.ibxReady 1 63 = true ∧ (s.ibx 1 63).next = 0
        ∧ Tbl.wf (fun _ => ({} : Inbox)) s.inboxes = true ∧ (s.ibx 1 63).asked = false ∧ (ibxOut s).guestAsk ≠ none)
    ∧ (let s := (ibxLast []).setIbx 1 63 { (ibxLast []).ibx 1 63 with asked := true }; s.Live ∧ s.Canonical ∧ s.ibxReady 1 63 = true
        ∧ (s.ibx 1 63).next = 0 ∧ Tbl.wf (fun _ => ({} : Inbox)) s.inboxes = true ∧ (s.ibx 1 63).asked = true ∧ s.guestRun = none
        ∧ s.guestAsk = none) := by decide +kernel

/-! ### Updates -/

/-- Ledger 0 is updated on die 0 by context 5, whose engine is 3. -/
def upd (k : Nat) (rs : List (Nat × Word)) (q : List Trig) (e : UpdEngine) (x : Ledger) : State :=
  { oneLed k { x with updDie := 0, updCtx := some 5 } rs with
    trigQueues := if q.isEmpty then [] else [(0, q)], updEngines := if e.trig.isNone then [] else [(3, e)]
    stages := [(sk 0 5, { running := true, updaters := [3], shards := [0] })] }

/-- The hypothesis `trigNew` on ledger 0 of die 0, as a test. -/
def isNew (s : State) (step : Nat) : Bool :=
  decide (0 < s.ledCount) && (s.led 0).owner && (s.led 0).updCtx.isSome && (s.led 0).updDie == 0 && decide (s.ledStep 0 ≤ step)
    && (s.trigQ 0).all (fun t => !(t.led == 0 && t.step == step)) && !s.trigRuns 0 step

theorem isNew_spec {s : State} {step : Nat} (h : isNew s step = true) : Claim.trigNew s 0 0 step := by
  simpa [isNew, Claim.trigNew, and_assoc, imp_iff_not_or] using h

theorem witness_UpdateTriggers :
    (∀ k ∈ [2, 3], let s := upd k [] [] {} owned; s.Live ∧ s.Canonical ∧ s.jobOn = true ∧ s.jobState = k)
    ∧ bit (w (2 ^ 63 + 2 ^ 16)) 63 = true ∧ bits (w (2 ^ 63 + 2 ^ 16)) 15 0 = 0 ∧ bits (w (2 ^ 63 + 2 ^ 16)) 55 16 = 1
    ∧ (let s := upd 3 [] [] {} owned; isNew s 1 = true ∧ (s.trigQ 0).length < 1024 ∧ s.perShard = false)
    ∧ (let s := upd 3 [] (List.replicate 1024 ⟨1, 0, 0⟩) {} owned; isNew s 1 = true ∧ 1024 ≤ (s.trigQ 0).length)
    ∧ (let s := upd 3 [] [⟨0, 1, 0⟩] {} owned; s.Live ∧ s.Canonical ∧ s.ledStep 0 ≤ 1 ∧ (s.trigQ 0).any (fun t => t.led == 0 && t.step == 1) = true)
    ∧ (let s := bytesAt (upd 3 [] [] {} owned) 0x800000 (toBytes 8 (2 * 256)); s.Live ∧ s.Canonical ∧ 1 < s.ledStep 0
        ∧ (s.led 0).owner = true)
    ∧ ((upd 3 [] [] {} replica).led 0).owner = false := by decide +kernel

/-- A bound ledger of four FP32 elements with its gradients at 9 MiB. -/
def bound : Ledger := { owned with bind := some { rule := 1, copy := 8, grad := 0x900000, gradFmt := 8, count := 4 } }

/-- Engine 3 updates ledger 0 into a slot. -/
def updating (slot' : Option Nat) (x : Ledger) : State :=
  upd 3 [] [] { trig := some ⟨0, 1, 0⟩, slot := slot', hyper := zeroBytes 64 } x

/-- The bound ledger with a hyperparameter block whose gradient scale is 1.0, at 0x910000. -/
def scaled : State :=
  bytesAt (upd 3 [] [⟨0, 1, 0⟩] {} { owned with bind := some { rule := 1, copy := 8, grad := 0x900000, gradFmt := 8, count := 4, hyper := 0x910000 } })
    0x910014 (toBytes 4 0x3F800000)

/-- Its hyperparameter block and binding are good. -/
def scaledOk : Bool :=
  let hd := scaled.rawRead 0x910000 64
  match (scaled.led 0).bind with
  | some b => !(leAt hd 0x1C 4).testBit 3 && hyperOk b hd (hyperOf hd (leAt (hd.take 4) 0 4))
  | none => false

theorem witness_UpdatesRun_started : scaled.Live ∧ scaled.Canonical ∧ scaled.trigQ 0 = [⟨0, 1, 0⟩]
    ∧ (scaled.trigQ 0).find? (fun t => scaled.trigRunnable 0 t && ((sortBy id (scaled.stg 0 ((scaled.led t.led).updCtx.getD 0)).updaters).find?
        fun v => (scaled.updEng v).trig.isNone && !scaled.isMasked (0xC0 + v)).isSome) = some ⟨0, 1, 0⟩
    ∧ ((sortBy id (scaled.stg 0 ((scaled.led 0).updCtx.getD 0)).updaters).find? fun v =>
        (scaled.updEng v).trig.isNone && !scaled.isMasked (0xC0 + v)) = some 3
    ∧ (scaled.led 0).damaged = none ∧ plainB scaled 0x910000 64 = true ∧ scaledOk = true ∧ scaled.freeSlot 0 = some 0
    ∧ cleanB scaled 0x800000 4096 = true := by decide +kernel

theorem witness_UpdatesRun :
    (let s := upd 3 [] [] {} bound; s.Canonical ∧ s.trigQ 0 = [])
    ∧ (∀ depth ∈ [0, 32], let s := updating none { bound with waiting := true, depth := depth }; s.Live ∧ s.Canonical
        ∧ (s.updEng 3).trig = some ⟨0, 1, 0⟩ ∧ (s.updEng 3).slot = none ∧ (s.led 0).waiting = true ∧ cleanB s 0x800000 4096 = true
        ∧ s.freeSlot 0 = (if depth = 0 then none else some 0))
    ∧ (let s := updating (some 31) bound; s.Live ∧ s.Canonical ∧ (s.updEng 3).slot = some 31 ∧ s.perShard = false
        ∧ (s.updRun 3).1 = .written 2 0 ∧ s.isMasked 0xC3 = false ∧ cleanB (s.updRun 3).2 0x800000 4096 = true)
    ∧ (let s := { updating (some 31) bound with masked := [0xC3] }; s.Live ∧ s.Canonical ∧ (s.updEng 3).slot = some 31 ∧ s.isMasked 0xC3 = true)
    ∧ (let s := bytesAt (updating (some 31) bound) 0x90000C [0, 0, 0xC0, 0x7F]; s.Live ∧ s.Canonical
        ∧ (match (s.updRun 3).1 with | .nonfinite i _ _ => i | _ => 99) = 3 ∧ bit (s.rd (updReg Reg.UPD_EVT 3)) 0 = false)
    ∧ (let s := { updating (some 31) bound with par := [(0x900000, 0xFFFF)] }; s.Live ∧ s.Canonical
        ∧ (s.updRun 3).1 = .access St.poison) := by decide +kernel

/-! ### General cores -/

/-- An R-type word of the extension, with rs1 = x11 and rs2 = x12 as given, and an I-type word (R258). -/
def extR (f3 f7 rd rs1 rs2 : Nat) : Nat := 0x0B + rd * 2 ^ 7 + f3 * 2 ^ 12 + rs1 * 2 ^ 15 + rs2 * 2 ^ 20 + f7 * 2 ^ 25
def extI (f3 rd rs1 imm : Nat) : Nat := 0x0B + rd * 2 ^ 7 + f3 * 2 ^ 12 + rs1 * 2 ^ 15 + imm * 2 ^ 20

/-- Core 0 runs the word `raw` for stage context 5 of die 0, with x11, x12, handles and select set 0 as given. The word lies over the
end of a line, so that no half of it can hit in the instruction cache. -/
def core (raw x1 x2 : Nat) (hs : List HandleRef) (set : SelSet) (run' : Bool) (rs : List (Nat × Word)) : State :=
  bytesAt { run ([(gcReg Reg.GC_STATUS 0, 0x501), (gcReg Reg.GC_PC 0, 0x70003E)] ++ rs) with
    stages := [(sk 0 5, { running := run', outDesc := zeroBytes 64 })]
    cores := [(0, { x := setNth (setNth (List.replicate 32 0) 11 (w x1)) 12 (w x2), sel := setNth (List.replicate 16 {}) 0 set
                    primary := { handles := hs } })] } 0x70003E (toBytes 4 raw)

/-- The hypotheses that the clauses of a core share, but for the stage. -/
def coreSound (s : State) (raw : Nat) : Bool :=
  decide s.Live && decide s.Canonical && s.coreReady 0 && (s.core 0).x.length == 32 && (s.core 0).sel.length == 16
    && (s.fetch 0 (s.gcPc 0)).1 == .ins raw 4

/-- The instruction of the fetched word, as the meanings see it. -/
def insOf (s : State) (raw : Nat) : Ins := Claim.ins s (s.fetch 0 (s.gcPc 0)).2 0 raw

theorem coreSound_spec {s : State} {raw : Nat} (h : coreSound s raw = true) :
    s.Live ∧ s.Canonical ∧ Claim.gcUp s 0 ∧ Claim.fetched s (insOf s raw).s 0 raw := by
  simp only [coreSound, Bool.and_eq_true, beq_iff_eq, decide_eq_true_eq] at h
  refine ⟨h.1.1.1.1.1, h.1.1.1.1.2, ⟨h.1.1.1.2, h.1.1.2, h.1.2⟩, ?_⟩
  simp only [Claim.fetched, insOf, Claim.ins]
  rw [← h.2]

/-- A plain core. -/
def plain (raw x1 x2 : Nat) : State := core raw x1 x2 [] {} true []

theorem witness_CoreInstructions :
    ((run []).Live ∧ (run []).Canonical ∧ (run []).coreReady 127 = false ∧ ((run []).core 127).sel = []
      ∧ ({ entryBwd := 0 } : Image).entryBwd ≠ 0xFFFFFFFF)
    ∧ (∀ h ∈ [0x4501, 0x0000], let s := plain h 0 0; s.Live ∧ s.Canonical ∧ s.coreReady 0 = true
        ∧ (s.fetch 0 (s.gcPc 0)).1 = .ins h 2 ∧ (expandC h).isSome = (h != 0) ∧ (s.core 0).x.length = 32)
    ∧ (let s := plain (extR 0 0 0 11 12) 0 0; coreSound s (extR 0 0 0 11 12) = true ∧ (extOf (extR 0 0 0 11 12)).isSome = true)
    ∧ (let raw := 0xFFF58513; coreSound (plain raw 1 0) raw = true ∧ extOf raw = none ∧ iOp raw = 0x13 ∧ iF3 raw = 0)
    ∧ (let raw := 0x008000EF; coreSound (plain raw 0 0) raw = true ∧ iOp raw = 0x6F)
    ∧ (let raw := 0x00C58463; coreSound (plain raw 7 7) raw = true ∧ iOp raw = 0x63 ∧ iF3 raw = 0)
    ∧ coreSound (plain 0x73 0 0) 0x73 = true
    ∧ (coreSound (plain 0x5B 0 0) 0x5B = true ∧ iOp 0x5B = 0x5B)
    ∧ (let raw := 0x00C5B023; coreSound (plain raw 4 0) raw = true ∧ iOp raw = 0x23 ∧ iF3 raw = 3
        ∧ ((plain raw 4 0).gx 0 (iRs1 raw) + immS raw) % 8 ≠ 0) := by decide +kernel

/-- An I-type word of an opcode, and an S-type one with offset 0. -/
def wordI (op f3 rd rs1 imm : Nat) : Nat := op + rd * 2 ^ 7 + f3 * 2 ^ 12 + rs1 * 2 ^ 15 + imm * 2 ^ 20

/-- A plain core with vector and floating-point registers, x11 and x12 as given; `g` gives the rest of the core. -/
def fullCore (raw x1 x2 : Nat) (g : Core) : State :=
  let s := plain raw x1 x2
  { s with cores := [(0, { g with x := (s.core 0).x, sel := (s.core 0).sel, f := List.replicate 32 0, v := List.replicate 32 0 })] }

/-- The hypothesis `reaches`, as a value. -/
def reachesB (u : State) (a l : Nat) : Bool :=
  (match u.corePlace a with
   | .here k => k == l
   | _ => false) && plainB u (l / 64 * 64) 64 && (u.core 0).dcache.all (fun e => e.1 != l / 64 * 64)

/-- A store's place, as a value. -/
def storesB (u : State) (a l k : Nat) : Bool :=
  (match u.corePlace a with
   | .here j => j == l
   | _ => false) && plainB u l k

theorem reachesB_spec {u : State} {a l : Nat} (h : reachesB u a l = true) : Claim.reaches u 0 a l := by
  simp only [reachesB, Bool.and_eq_true, List.all_eq_true, bne_iff_ne, ne_eq] at h
  refine ⟨?_, plainB_spec h.1.2, h.2⟩
  have h1 := h.1.1
  split at h1
  · next k e => rw [e]; simpa using h1
  · cases h1

theorem storesB_spec {u : State} {a l k : Nat} (h : storesB u a l k = true) : u.corePlace a = .here l ∧ Claim.plain u l k := by
  simp only [storesB, Bool.and_eq_true] at h
  refine ⟨?_, plainB_spec h.2⟩
  have h1 := h.1
  split at h1
  · next k e => rw [e]; simpa using h1
  · cases h1

/-- LD of every width, at an address that it reads, one that is not aligned, and one that no memory answers for; SD. -/
theorem witness_CoreInstructions_memory :
    (∀ f3 ∈ [0, 1, 2, 3, 4, 5, 6], let raw := wordI 0x03 f3 10 11 0; let s := plain raw 0x80000 0; let u := (insOf s raw).s
      coreSound s raw = true ∧ iOp raw = 0x03 ∧ iF3 raw = f3 ∧ s.gx 0 (iRs1 raw) = 0x80000 ∧ immI raw = 0
        ∧ reachesB u 0x80000 0x80000 = true ∧ (match u.coreRead 0 0x80000 (2 ^ (f3 % 4)) false with
          | (.ok _, _) => true
          | _ => false) = true)
    ∧ (let raw := wordI 0x03 3 10 11 0; coreSound (plain raw 0x80004 0) raw = true ∧ 0x80004 % 8 ≠ 0)
    ∧ (let raw := wordI 0x03 3 10 11 0; let s := plain raw 0x3F0000000000 0
       coreSound s raw = true ∧ (match (insOf s raw).s.coreRead 0 0x3F0000000000 8 false with
          | (.fault _, _) => true
          | _ => false) = true)
    ∧ (∀ f3 ∈ [0, 3], let raw := wordI 0x23 f3 0 11 (12 : Nat); let s := plain raw 0x80000 0x55; let u := (insOf s raw).s
       coreSound s raw = true ∧ iOp raw = 0x23 ∧ iF3 raw = f3 ∧ iRs2 raw = 12 ∧ immS raw = 0 ∧ storesB u 0x80000 0x80000 (2 ^ f3) = true) := by
  refine ⟨?_, ?_, ?_, ?_⟩ <;> decide +kernel

/-- FLD and FLW, FSD and FSW, FADD. -/
theorem witness_CoreInstructions_floats :
    (∀ f3 ∈ [2, 3], let raw := wordI 0x07 f3 10 11 0; let s := fullCore raw 0x80000 0 {}
      coreSound s raw = true ∧ (s.core 0).f.length = 32 ∧ iOp raw = 0x07 ∧ iF3 raw = f3 ∧ reachesB (insOf s raw).s 0x80000 0x80000 = true
        ∧ coreSound (fullCore raw 0x80002 0 {}) raw = true ∧ 0x80002 % 4 ≠ 0)
    ∧ (∀ f3 ∈ [2, 3], let raw := wordI 0x27 f3 0 11 12; let s := fullCore raw 0x80000 0 {}
      coreSound s raw = true ∧ iOp raw = 0x27 ∧ iF3 raw = f3 ∧ immS raw = 0 ∧ storesB (insOf s raw).s 0x80000 0x80000 (2 ^ f3) = true)
    ∧ (∀ d ∈ [0, 1], let raw := wordI 0x53 0 10 11 (12 + d * 2 ^ 5); let s := fullCore raw 0 0 {}
      coreSound s raw = true ∧ iOp raw = 0x53 ∧ iF7 raw = d ∧ (s.rmMode 0 (iF3 raw)).isSome = true)
    ∧ (let raw := wordI 0x53 5 10 11 12; let s := fullCore raw 0 0 {}
      coreSound s raw = true ∧ iF7 raw = 0 ∧ s.rmMode 0 (iF3 raw) = none) := by
  refine ⟨?_, ?_, ?_, ?_⟩ <;> decide +kernel

/-- CSRRW of fcsr, CSRRS of GCID without and with a write, an unreadable CSR; VSETVLI; VADD.VV. -/
theorem witness_CoreInstructions_csrs :
    (let raw := wordI 0x73 1 10 11 3; coreSound (plain raw 0xFF 0) raw = true ∧ iOp raw = 0x73 ∧ iF3 raw = 1 ∧ iImm raw = 3)
    ∧ (∀ r ∈ [0, 11], let raw := wordI 0x73 2 10 r 0xCC0; coreSound (plain raw 0 0) raw = true ∧ iF3 raw = 2 ∧ iImm raw = 0xCC0 ∧ iRs1 raw = r)
    ∧ (let raw := wordI 0x73 2 10 0 0x300; coreSound (plain raw 0 0) raw = true ∧ iF3 raw % 4 ≠ 0 ∧ (plain raw 0 0).csrRead 0 (iImm raw) = none)
    ∧ (let raw := wordI 0x57 7 10 11 (3 * 2 ^ 3); let s := plain raw 8 0
       coreSound s raw = true ∧ iOp raw = 0x57 ∧ iF3 raw = 7 ∧ nbits raw 31 31 = 0 ∧ vtypeOk (nbits raw 30 20) = true
        ∧ s.gx 0 (iRs1 raw) ≤ vlmaxOf (8 * 2 ^ nbits (nbits raw 30 20) 5 3) (lmul8Of (nbits (nbits raw 30 20) 2 0)))
    ∧ (let raw := wordI 0x57 7 10 11 4; coreSound (plain raw 8 0) raw = true ∧ vtypeOk (nbits raw 30 20) = false)
    ∧ (let raw := wordI 0x57 0 1 2 (3 + 32); let s := fullCore raw 0 0 { vtype := 0x18, vl := 8 }
       coreSound s raw = true ∧ vF6 raw = 0 ∧ vVm raw = true ∧ (s.core 0).vcfg.vill = false ∧ (s.core 0).vcfg.lmul8 = 8
        ∧ (s.core 0).vcfg.sew = 64 ∧ (s.core 0).vstart = 0 ∧ (s.core 0).vl ≤ 512 / 64 ∧ (s.core 0).v.length = 32)
    ∧ (let raw := wordI 0x57 0 1 2 (3 + 32); let s := fullCore raw 0 0 { vtype := w (2 ^ 63) }
       coreSound s raw = true ∧ (s.core 0).vcfg.vill = true) := by
  refine ⟨?_, ?_, ?_, ?_, ?_, ?_, ?_⟩ <;> decide +kernel

/-- LR; SC without a reservation that covers its bytes, and with one. -/
theorem witness_CoreInstructions_reservation :
    (∀ f3 ∈ [2, 3], let raw := wordI 0x2F f3 10 11 (2 * 2 ^ 7); let s := plain raw 0x80000 0
      coreSound s raw = true ∧ iOp raw = 0x2F ∧ iF7 raw / 4 = 2 ∧ iRs2 raw = 0 ∧ reachesB (insOf s raw).s 0x80000 0x80000 = true)
    ∧ (∀ f3 ∈ [2, 3], ∀ r ∈ [none, some (0x80008, 8), some (0x80000, 8)], let raw := wordI 0x2F f3 10 11 (12 + 3 * 2 ^ 7)
      let s := fullCore raw 0x80000 5 { resv := r }
      coreSound s raw = true ∧ iF7 raw / 4 = 3 ∧ storesB (insOf s raw).s 0x80000 0x80000 (2 ^ f3) = true ∧ (s.core 0).resv = r) := by
  refine ⟨?_, ?_⟩ <;> decide +kernel

/-- A core that handles queue 1029 of a kind, into which a message was sent; buffers lie in its scratch. -/
def queueCore (raw kind x1 prod : Nat) (consumer : Bool) (msgs : List (List Byte)) : State :=
  let s := core raw x1 0x3E0000000040 [.queue 1029] { queues := [1029], last := 0 } true (queueRegs kind ++ [(Reg.QU_PROD 1029, w prod)])
  msgs.foldl put { s with qConsumer := if consumer then [(1029, 1)] else [] }

def sendResIs (r : SendRes) (k : Nat) : Bool := match r, k with
  | .ok, 0 => true
  | .noRoom, 1 => true
  | .refused _, 2 => true
  | _, _ => false

/-- The send of `len` × 16 bytes by QSEND or QTRY meets a result. -/
def sendMeets (s : State) (raw len k : Nat) : Bool :=
  let x := insOf s raw
  match x.s.coreReadRun 0 32 x.r2 (16 * len) with
  | (.ok bs, v) => x.queue 0 == some 1029 && x.r1 == len * 65536 && x.r2 % 16 == 0 && sendResIs (v.qAccept 1029 bs false).1 k
  | _ => false

/-- A core running, in a stage that runs. -/
def coreLive (s : State) (raw : Nat) : Bool := coreSound s raw && !s.stageStopped (s.gcStage 0)

theorem witness_CoreQueues :
    (∀ f7 ∈ [0, 1], let raw := extR 0 f7 0 11 12
      extOf raw = (if f7 = 0 then some .qsend else some .qtry)
      ∧ (let s := queueCore raw 1 (16 * 65536) 0 false []; coreLive s raw = true ∧ sendMeets s raw 16 0 = true)
      ∧ (let s := queueCore raw 1 65536 4096 false []; coreLive s raw = true ∧ sendMeets s raw 1 1 = true)
      ∧ (let s := queueCore raw 0 65536 0 false []; coreLive s raw = true ∧ sendMeets s raw 1 2 = true))
    ∧ (∀ f7 ∈ [2, 3], let raw := extR 0 f7 10 11 12
      extOf raw = (if f7 = 2 then some .qrecv else some .qtryrecv)
      ∧ (let s := queueCore raw 0 0 0 true []; coreLive s raw = true ∧ (insOf s raw).queue (insOf s raw).r1 = some 1029
        ∧ (insOf s raw).s.recvDenied 1029 = true)
      ∧ (let s := queueCore raw 1 0 0 false []; coreLive s raw = true ∧ (insOf s raw).queue (insOf s raw).r1 = some 1029
        ∧ (insOf s raw).s.recvDenied 1029 = false ∧ (insOf s raw).r2 % 16 = 0 ∧ (insOf s raw).s.qReady 1029 = false)
      ∧ (let s := queueCore raw 1 0 0 false [zeroBytes 16]
         let u := (insOf s raw).s
         let m := u.qHeadRead 1029
         coreLive s raw = true ∧ u.recvDenied 1029 = false ∧ u.qReady 1029 = true ∧ m.1 = St.ok
          ∧ (match m.2.2.coreWriteRun 0 32 (insOf s raw).r2 m.2.1 with
             | (.ok _, y) => ((y.qPop 1029).core 0).x.length == 32
             | _ => false) = true))
    ∧ (let raw := extR 0 4 10 11 0; extOf raw = some .qsel
      ∧ (let s := queueCore raw 1 0 0 false [zeroBytes 16]; coreLive s raw = true
        ∧ (insOf s raw).s.selPick (nth ((insOf s raw).s.core 0).sel 0 {}) = some 0)
      ∧ (let s := queueCore raw 1 0 0 false []; coreLive s raw = true
        ∧ (insOf s raw).s.selPick (nth ((insOf s raw).s.core 0).sel 0 {}) = none))
    ∧ (let raw := extR 0 5 0 11 12
       let s := { queueCore raw 1 0 0 false [] with scratch := [(0x60, 1)] }
       extOf raw = some .qscfg ∧ coreLive s raw = true ∧ (insOf s raw).r2 % 8 = 0
        ∧ (match (insOf s raw).s.coreReadRun 0 8 (insOf s raw).r2 40 with
           | (.ok bs, v) => leAt bs 32 1 == 1 && leAt bs 33 1 == 0 && leAt bs 34 6 == 0 && leAt bs 0 2 == 0 && !v.recvDenied 1029
           | _ => false) = true)
    ∧ (∀ n ∈ [99, 100], let s := { run [(Reg.QU_CFG 1029, w (100 * 2 ^ 32 + 1))] with
         now := n, cores := [(0, { x := List.replicate 32 0, wait := .send 1029 })], sendWaits := [⟨1029, .core 0, [], 0⟩] }
       s.Live ∧ s.Canonical ∧ (s.core 0).x.length = 32 ∧ (s.core 0).wait = .send 1029
        ∧ s.sendWaits.find? (fun t => t.owner == .core 0 && t.q == 1029) = some ⟨1029, .core 0, [], 0⟩
        ∧ s.rdB (Reg.QU_CFG 1029) 63 32 = 100)
    ∧ (let raw := extR 0 1 0 11 12; coreSound (queueCore raw 1 65536 0 false []) raw = true ∧ extOf raw ≠ some .qsend) := by decide +kernel

/-- Core 0 waits in QSEND for a queue of device 9, which first answered QFULL at tick 70; the stage runs or has stopped. -/
def sendFar (run' : Bool) (now : Nat) : State :=
  { run [(gcReg Reg.GC_STATUS 0, 0x502)] with
    now := now, stages := [(sk 0 5, { running := run' })], cores := [(0, { x := List.replicate 32 0, wait := .remote })]
    remoteSends := [(4, ⟨.core 0, 0, 5, 9, 0x400, [], 30, some 70, some 90, false, false⟩)] }

theorem witness_CoreQueues_limits :
    ((sendFar true 100).Live ∧ (sendFar true 100).Canonical ∧ ((sendFar true 100).core 0).wait = .remote
      ∧ (sendFar true 100).stageStopped ((sendFar true 100).gcStage 0) = false ∧ 70 + 30 ≤ (sendFar true 100).now
      ∧ ((sendFar true 100).remoteSends.find? (fun e => e.2.owner == .core 0)).isSome = true)
    ∧ (let s := { run [(gcReg Reg.GC_STATUS 0, 0x502), (Reg.QU_CFG 1029, w (100 * 2 ^ 32 + 1))] with
         now := 100, stages := [(sk 0 5, { running := true })]
         cores := [(0, { x := List.replicate 32 0, wait := .send 1029 })], sendWaits := [⟨1029, .core 0, [], 0⟩] };
       s.Live ∧ s.Canonical ∧ s.stageStopped (s.gcStage 0) = false ∧ s.rdB (Reg.QU_CFG 1029) 63 32 = 100)
    ∧ (let s := { run [(gcReg Reg.GC_STATUS 0, 0x502), (Reg.QU_CFG 1029, w (0xFFFFFFFF * 2 ^ 32 + 1))] with
         stages := [(sk 0 5, { running := false })]
         cores := [(0, { x := List.replicate 32 0, wait := .send 1029 })], sendWaits := [⟨1029, .core 0, [], 0⟩] };
       s.Live ∧ s.Canonical ∧ s.stageStopped (s.gcStage 0) = true ∧ s.rdB (Reg.QU_CFG 1029) 63 32 = 0xFFFFFFFF) := by decide +kernel

/-- A core whose image has one handle, milestone counter 3 at 5, and barrier 7 of one party or two. -/
def syncCore (raw x1 x2 : Nat) (hs : List HandleRef) (parties : Nat) (run' : Bool) : State :=
  { core raw x1 x2 hs {} run' [(Reg.SYN_MS 0 3, 5), (Reg.SYN_BAR_CFG 0 7, w parties)] with
    msPlaced := [(3, true)], tensors := [(2, { addr := 0x80000, bytes := 64 })] }

theorem witness_CoreSynchronisation :
    (∀ e ∈ [(extR 0 0 0 11 12, ExtOp.qsend), (extR 0 2 10 11 12, .qrecv), (extR 0 4 10 11 0, .qsel), (extR 1 1 0 11 12, .mwait),
        (extR 1 3 0 11 0, .barr), (0x700B, .slotend)], let s := syncCore e.1 0 0 [] 1 false
      extOf e.1 = some e.2 ∧ coreSound s e.1 = true ∧ s.stageStopped (s.gcStage 0) = true)
    ∧ coreLive (syncCore 0x700B 0 0 [] 1 true) 0x700B = true
    ∧ (∀ e ∈ [(extR 1 0 10 11 12, ExtOp.madv), (extR 1 2 10 11 12, .mread), (extR 1 1 0 11 12, .mwait)], ∀ x2 ∈ [5, 6],
      let s := syncCore e.1 0 x2 [.ms 3] 1 true
      extOf e.1 = some e.2 ∧ coreLive s e.1 = true ∧ (insOf s e.1).handle (insOf s e.1).r1 = some (.ms 3) ∧ (insOf s e.1).r2 = x2 ∧ s.msVal 3 = 5)
    ∧ (let raw := extR 1 2 10 11 0; let s := syncCore raw 0 0 [] 1 true
       coreSound s raw = true ∧ (insOf s raw).handle (insOf s raw).r1 = none)
    ∧ (let raw := extR 1 3 0 11 0; ∀ k ∈ [1, 2], let s := syncCore raw 0 0 [.bar 7] k true
       coreLive s raw = true ∧ (insOf s raw).handle (insOf s raw).r1 = some (.bar 7) ∧ s.barWaits = []
        ∧ (s.rdB (Reg.SYN_BAR_STATE 0 7) 12 0 + 1 = s.rdB (Reg.SYN_BAR_CFG 0 7) 12 0 ↔ k = 1))
    ∧ (∀ imm ∈ [0, 17, 15], let raw := extI 2 10 0 imm
      coreSound (syncCore raw 0 0 [] 1 true) raw = true ∧ extOf raw = some .dget ∧ iImm raw = imm ∧ (dField (imm % 16)).isSome = (imm != 15))
    ∧ (∀ imm ∈ [4, 0], let raw := extI 3 0 11 imm
      coreSound (syncCore raw 9 0 [] 1 true) raw = true ∧ extOf raw = some .dset ∧ iImm raw = imm ∧ dWritable (imm % 16) = (imm == 4)
        ∧ (dField (imm % 16)).isSome = true)
    ∧ (let raw := extR 4 0 0 11 12; let s := syncCore raw 1 2 [] 1 true
       coreSound s raw = true ∧ extOf raw = some .dmask ∧ (s.stg 0 5).outDesc.length = 64 ∧ s.gcStage 0 = (0, 5))
    ∧ ∀ e ∈ [([HandleRef.tensor 2], 0), ([.tensor 2], 4), ([.queue 1029], 0), ([.ms 3], 0), ([.ms 3], 1), ([.bar 7], 0), ([], 0)], let raw := extI 5 10 11 e.2
       let s := syncCore raw 0 0 e.1 1 true
       coreSound s raw = true ∧ extOf raw = some .hres ∧ (insOf s raw).handle (insOf s raw).r1 = e.1[0]? ∧ iImm raw = e.2 := by
  refine ⟨?_, ?_, ?_, ?_, ?_, ?_, ?_, ?_, ?_⟩ <;> decide +kernel

theorem witness_CoreSynchronisation_kinds :
    (∀ e ∈ [(extR 1 0 10 11 12, ExtOp.madv), (extR 1 1 0 11 12, .mwait), (extR 1 2 10 11 12, .mread)], let s := syncCore e.1 0 5 [.bar 7] 1 true
      extOf e.1 = some e.2 ∧ coreLive s e.1 = true ∧ (insOf s e.1).handle (insOf s e.1).r1 = some (.bar 7))
    ∧ (let raw := extR 1 3 0 11 0; let s := syncCore raw 0 0 [.ms 3] 1 true
       extOf raw = some .barr ∧ coreLive s raw = true ∧ (insOf s raw).handle (insOf s raw).r1 = some (.ms 3)) := by decide +kernel

/-! ### Memory, queues and offload -/

theorem witness_MemoryControls : Claim.mayWrite (run []) 0x80
    ∧ (∀ n ∈ [101, 102], let s := { run [(Reg.MEM_PAR_THRESH 7, 0xA0001)] with now := n, stackWin := [(7, { start := 500, count := 3 })] }
       s.Live ∧ s.Canonical ∧ Tbl.wf (fun _ => ({} : ReplayWin)) s.stackWin = true
        ∧ (let len := 2 ^ (s.rdB (Reg.MEM_PAR_THRESH 7) 20 16 + 1); let start := (s.stackWin.get 7 {}).start
           25 * s.now < start + 2 * len ∧ (start + 1 * len ≤ 25 * s.now ↔ n = 102)))
    ∧ (isMgmt (0xE0 : BitVec 8).toNat = true ∧ bits 0xA0001 20 16 = 10 ∧ bits 0x90001 20 16 = 9)
    ∧ (let s := { run [] with masked := [0x80], tagPrio := [(5, 1)] }; s.Live ∧ s.Canonical ∧ Tbl.wf (fun _ => (0 : Nat)) s.tagPrio = true
      ∧ s.tagWaits = [] ∧ s.xfers = [] ∧ (0x80 : BitVec 8) ≠ 0xD5)
    ∧ (let s := { run [(Reg.SYN_MS 3 4095, 7)] with msPlaced := [(16383, true)] }
       s.Live ∧ s.Canonical ∧ bit 0x8000000000013FFF 63 = true ∧ bits 0x8000000000013FFF 13 0 = 16383 ∧ s.msOk 16383 = true ∧ s.msVal 16383 = 7
        ∧ bit 0x3FFF 63 = false)
    ∧ bits 4351 12 0 = 4351 ∧ bits 4352 12 0 = 4352 := by
  refine ⟨⟨by decide, Or.inr (by decide +kernel)⟩, ?_⟩
  decide +kernel

/-- A send of an owner, due at tick 100, in a state at a tick; one tag is held, and `reserve` tags are kept from sends. -/
def sends (o : Owner) (typ limit : Nat) (refused : Option Nat) (down : Bool) (now reserve : Nat) : State :=
  { run [(Reg.FAB_TAG_CFG, w reserve), (Reg.RTE_SELF, 0x8000000000000005)] with
    now := now, remoteSends := [(4, ⟨o, 0, typ, 9, 0x400, [1], limit, refused, some 100, down, false⟩)]
    tags := [(0, { req := some ⟨0, 0, .core 0, 5, 1, 0, 9, 0, 0, 0, []⟩ })] }

theorem witness_RepeatedSends :
    (∀ e ∈ [(5, false), (3, false), (5, true)], ∀ n ∈ [99, 100], ∀ k ∈ [0, 16383], let s := sends (.core 3) e.1 noLimit none e.2 n k
      s.Live ∧ s.Canonical ∧ (s.remoteSends.get 4 noSend).due = some 100 ∧ (s.remoteSends.get 4 noSend).typ = e.1
        ∧ (s.remoteSends.get 4 noSend).down = e.2 ∧ (s.remoteSends.get 4 noSend).owner = .core 3 ∧ s.mayOriginate = true
        ∧ s.tagFor ⟨0, 4, .core 3, e.1, 1, 3, 9, 0x400, 1, 0, [1]⟩ = (k == 0) ∧ s.isMasked 3 = false)
    ∧ (let s := sends (.stage 1 5) 5 noLimit none false 7 0
       (s.remoteSends.get 4 noSend).owner = .stage 1 5 ∧ (s.remoteSends.get 4 noSend).limit = noLimit)
    ∧ (let s := sends (.core 3) 5 30 (some 70) false 100 0
       (s.remoteSends.get 4 noSend).refused = some 70 ∧ (s.remoteSends.get 4 noSend).limit = 30 ∧ (30 : Nat) ≠ noLimit ∧ 70 + 30 ≤ s.now)
    ∧ (∀ o ∈ [Owner.dispatch 2, .col 1], ((sends o 5 30 none false 100 0).remoteSends.get 4 noSend).owner = o)
    ∧ St.ok ≠ St.linkdown ∧ St.ok ≠ St.qfull := by decide +kernel

/-- Stage context 5 of die 1 offloads by entry 2, with `frames` frames; its context 255 is `m`; the engine's queue is `q`. -/
def offl (m : MbCtx) (frames : Nat) (q : List OflReq) (xs : Tbl Xfer) : State :=
  { stage 0 (slot 1) { ofl := some 2 } [(Reg.MBQ_POOL 1 5, 2), (Reg.OFL_CFG 2, w (1 + 2 ^ 11 + 5 * 2 ^ 13)), (Reg.OFL_FRAMES 2, w frames)] with
    mbs := [(mbKey 1 5 255, m)], oflQueue := q, xfers := xs }

def stashed : MbCtx := { state := 2, desc := desc 3 1 0, pages := [0, 1], npages := 2, xid := 7 }

theorem witness_ActivationOffload :
    (∀ f ∈ [2, 1], let r : OflReq := ⟨2, 1, 5, 0, false⟩; let s := offl stashed f [r] []
      s.Live ∧ s.Canonical ∧ s.oflQueue = [r] ∧ r.entry < 128 ∧ s.ctxAt 1 5 0 = some 255 ∧ (s.mbc 1 5 255) = stashed
        ∧ s.takeFrames 1 5 2 2 = (if f = 2 then some [0, 1] else none))
    ∧ (let s := offl { stashed with pages := [] } 2 [⟨2, 1, 5, 0, false⟩] []; s.ctxAt 1 5 0 = some 255 ∧ (s.mbc 1 5 255).pages = [])
    ∧ (let s := offl stashed 2 [⟨2, 1, 5, 1, false⟩] []; s.Live ∧ s.Canonical ∧ s.ctxAt 1 5 1 = none)
    ∧ (let r : OflReq := ⟨2, 1, 5, 0, true⟩
       (let s := offl stashed 2 [r] []; s.Live ∧ s.Canonical ∧ s.fetchable r = none)
        ∧ (let s := offl { stashed with pages := [], offloaded := true, frames := [0, 1] } 2 [r] []
           s.Live ∧ s.Canonical ∧ s.oflQueue = [r] ∧ s.fetchable r = some 255))
    ∧ (let s := offl { stashed with pages := [], offloaded := true, prefWait := true } 2 [] []
       s.Live ∧ s.Canonical ∧ s.oflQueue = [] ∧ (s.mbc 1 5 255).prefWait = true ∧ s.takePages 1 5 2 = some [0, 1])
    ∧ (let s := offl stashed 2 [] []; s.Live ∧ s.Canonical ∧ (s.mbc 1 5 255).prefWait = false ∧ s.oflEnded 1 5 255 false = none
        ∧ s.oflEnded 1 5 255 true = none)
    ∧ ∀ fetch ∈ [false, true], ∀ st ∈ [0, St.poison],
        let s := offl { stashed with xfer := true, frames := [0, 1], offloaded := fetch } 2 [] [(7, { noXfer with ended := some st })]
        s.Live ∧ s.Canonical ∧ s.oflEnded 1 5 255 fetch = some st := by
  refine ⟨?_, ?_, ?_, ?_, ?_, ?_, ?_⟩ <;> decide +kernel

/-! ### Links -/

theorem test_crc32 : crc32 (ascii "123456789") = 0xCBF43926 := by decide +kernel

/-- Port 15 in a link state, at a tick, trained on both lanes with 1,024 units a class, and the port and registers as given. -/
def link (st now : Nat) (x : Port) (rs : List (Nat × Word)) : State :=
  { run ([(Reg.LNK_STATUS 15, w st), (Reg.LNK_CFG 15, 0x3)] ++ rs) with
    now := now, ports := [(15, { x with cfg := 3, sizes := 0x400040004000400 })] }

def linkSound (s : State) : Bool := decide s.Live && decide s.Canonical && Tbl.wf (fun _ => ({} : Port)) s.ports

/-- A flit with a sequence number, ACKSEQ, KIND, flags and payload. -/
def flit (seq ack kind flags : Nat) (pl : List Byte) : List Byte := flitBytes seq ack kind flags 0 255 0 pl

def badFlit (kind : Nat) : List Byte := putLe (flit 0 0 kind 0 []) 20 1 7

/-- A port that waits for flit 65535, with flits 100 and 101 of its own in the replay buffer. -/
def flying : Port := { nextRx := 65535, u := 100, n := 102, buf := [⟨[], 255, 5⟩, ⟨[], 255, 6⟩] }

theorem witness_LinkFlits :
    (fitBytes 236 ([] : List Byte)).length = 236
    ∧ (let s := link 3 9 flying []; linkSound s = true ∧ s.lnkState 15 ≠ 4)
    ∧ (∀ k ∈ [0, 1, 3], linkSound (link 4 9 flying []) = true ∧ (link 4 9 flying []).lnkState 15 = 4 ∧ flCrcOk (badFlit k) = false)
    ∧ (∀ e ∈ [(65535, 0), (4, 5), (65534, 65535)], ∀ k ∈ [0, 1], let b := flit e.1 0 k 0 []; let s := link 4 9 flying []
      flCrcOk b = true ∧ flKind b = k ∧ (s.lnkAck 15 b).lnkState 15 = 4 ∧ unsgn 16 ((flSeq b : Int) - (s.port 15).nextRx) = e.2)
    ∧ (flCrcOk (flit 0 0 3 0 []) = true ∧ flKind (flit 0 0 3 0 []) = 3)
    ∧ (∀ e ∈ [(98, 65535), (102, 3), (101, 2), (99, 0)], let b := flit 0 e.1 0 1 []
      flAckv b = true ∧ flNak b = false ∧ unsgn 16 ((flAck b : Int) - ((link 4 9 flying []).port 15).u + 1) = e.2)
    ∧ (∀ k ∈ [1, 0], let s := link 4 105 flying [(Reg.LNK_TMO 15, 100), (Reg.LNK_CNT_REPLAY 15, 0), (Reg.LNK_DOWN_THRESH 15, w k)]
      linkSound s = true ∧ s.lnkState 15 = 4 ∧ (s.port 15).buf = ⟨[], 255, 5⟩ :: [⟨[], 255, 6⟩] ∧ 5 + s.rdB (Reg.LNK_TMO 15) 15 0 ≤ s.now
        ∧ min 65535 (s.rdB (Reg.LNK_CNT_REPLAY 15) 15 0 + 1) = 1 ∧ s.rdB (Reg.LNK_DOWN_THRESH 15) 15 0 = k
        ∧ ¬((s.port 15).replay = some (s.port 15).u ∧ (s.port 15).passAck = none))
    ∧ (let s := link 4 105 { flying with replay := some 100 } []; linkSound s = true ∧ (s.port 15).replay = some (s.port 15).u ∧ (s.port 15).passAck = none)
    ∧ (let s := link 4 9 {} []; linkSound s = true ∧ (s.port 15).buf = []) := by
  refine ⟨?_, ?_, ?_, ?_, ?_, ?_, ?_, ?_, ?_⟩ <;> decide +kernel

theorem witness_LinkFlits_other :
    (∀ q ∈ [3, 4], linkSound (link q 9 flying []) = true ∧ flCrcOk (badFlit 1) = false)
    ∧ (let b := flit 0 0 4 0 []; flCrcOk b = true ∧ flKind b = 4)
    ∧ (∀ k ∈ [0, 1, 3], let b := flit 0 102 k 1 []; let s := link 4 9 flying []
       flCrcOk b = true ∧ flKind b = k ∧ (s.lnkAck 15 b).lnkState 15 ≠ 4)
    ∧ (let b := flit 0 0 3 0 []; ((link 4 9 flying []).lnkAck 15 b).lnkState 15 = 4 ∧ flCrcOk b = true ∧ flKind b = 3)
    ∧ ∀ n ∈ [2 ^ 20, 2 ^ 20 - 1], let s := link 4 9 { slots := n } []; linkSound s = true ∧ s.lnkState 15 = 4 ∧ (s.port 15).slots = n := by
  decide +kernel

theorem full_buffer (k : Nat) (f : BufFlit) :
    let t : State := { State.reset with ports := [(15, { buf := List.replicate k f, n := 1 })] }
    (t.port 15).replay = none ∧ (t.port 15).buf.length = k := by
  simp [State.port, Tbl.get]

theorem witness_LinkFlits_full (f : BufFlit) : ∃ t : State, (t.port 15).replay = none ∧ 4096 ≤ (t.port 15).buf.length :=
  ⟨_, (full_buffer 4096 f).1, (full_buffer 4096 f).2.ge⟩

/-- The payload of a TRAIN flit: identifier, lanes, class sizes and exchange. -/
def trainPl (lanes phase : Nat) : List Byte := toBytes 4 77 ++ zeroBytes 2 ++ toBytes 2 lanes ++ (toBytes 2 9 ++ toBytes 2 8 ++ toBytes 2 7 ++ toBytes 2 6)
  ++ toBytes 1 phase

theorem witness_LinkStates :
    (let r : FabReq := ⟨0, 0, .core 0, 5, 1, 0, 9, 0, 0, 0, []⟩
     let s : State := { link 4 9 flying [] with tags := [(3, { req := some r, port := 15 })] }
     s.tagWaits = [] ∧ Tbl.wf (fun _ => ({} : Tag)) s.tags = true ∧ (s.tagOf 3).req = some r ∧ (s.tagOf 3).port = 15 ∧ s.responseHere 3 = false)
    ∧ (∀ q < 5, linkSound (link q 9 flying []) = true ∧ (link q 9 flying []).lnkState 15 = q ∧ (link q 9 flying []).lnkLanes 15 = [0, 1])
    ∧ (∀ n ∈ [10, 9], let s := link 4 n { flying with lastGood := 7 } [(Reg.LNK_TMO 15, w (3 * 2 ^ 32))]
      (s.port 15).lastGood + s.rdB (Reg.LNK_TMO 15) 47 32 = 10)
    ∧ (let s := link 2 9 {} [(Reg.LNK_LANE1 15, 3), (Reg.RTE_SELF, 0x8000000000000009)]
       linkSound s = true ∧ s.lnkState 15 = 2 ∧ s.rdB (lnkLane 15 1) 1 0 = 3 ∧ bit (s.rd Reg.RTE_SELF) 63 = true
        ∧ bitsSet 2 (s.rdB (Reg.LNK_CFG 15) 1 0) = [0, 1] ∧ s.refLost.testBit (15 / 8) = false
        ∧ ({ s with refLost := 2 } : State).refLost.testBit (15 / 8) = true ∧ bit ((link 2 9 {} []).rd Reg.RTE_SELF) 63 = false)
    ∧ (∀ n ∈ [500007, 500006], let s := link 3 n { since := 7 } []; linkSound s = true ∧ s.lnkState 15 = 3 ∧ (s.port 15).since = 7)
    ∧ (∀ n ∈ [12, 11], let s := link 1 n { since := 7, retrain := true } [(Reg.LNK_CFG 15, w (3 + 5 * 2 ^ 32))]
       linkSound s = true ∧ s.lnkState 15 = 1 ∧ (s.port 15).retrain = true ∧ (s.port 15).since + s.rdB (Reg.LNK_CFG 15) 47 32 = 12)
    ∧ (link 1 12 { since := 7 } [(Reg.LNK_CFG 15, w (11 + 5 * 2 ^ 32))]).rdB (Reg.LNK_CFG 15) 3 3 = 1
    ∧ (∀ n ∈ [1007, 1006], let s := link 1 n { downAt := 7, downTx := true } []; linkSound s = true ∧ (s.port 15).downTx = true ∧ (s.port 15).downAt = 7)
    ∧ isMgmt (0xE0 : BitVec 8).toNat = true
    ∧ (flCrcOk (flit 0 0 2 0 []) = true ∧ flKind (flit 0 0 2 0 []) = 2 ∧ flCrcOk (badFlit 2) = false
      ∧ ((link 4 9 flying []).lnkAck 15 (flit 0 0 2 0 [])).lnkState 15 = 4)
    ∧ (let b := flit 0 0 2 0 (trainPl 3 1); let s := link 3 9 { since := 7 } []
       linkSound s = true ∧ flCrcOk b = true ∧ flKind b = 2 ∧ leAt (flPayload b) 16 1 = 1 ∧ (s.port 15).final = false
        ∧ (s.port 15).trained = [0, 0])
    ∧ (let b := flit 0 0 2 0 (trainPl 3 2); let s := link 3 9 { since := 7, final := true, trained := [3, 2] } [(Reg.LNK_CR_SIZE 15, 0x0400040004000400)]
       linkSound s = true ∧ flCrcOk b = true ∧ leAt (flPayload b) 16 1 = 2 ∧ (s.port 15).final = true ∧ nth (s.port 15).trained 1 0 = 2
        ∧ nth (s.port 15).trained 0 0 = 3 ∧ 0 ∈ s.lnkLanes 15 ∧ popcount 2 (leAt (flPayload b) 6 1) = (s.lnkLanes 15).length ∧ (s.crSizes 15).sum = 4096) := by
  refine ⟨?_, ?_, ?_, ?_, ?_, ?_, ?_, ?_, ?_, ?_, ?_, ?_⟩ <;> decide +kernel

/-! ### The fabric -/

/-- Device 5, with device 9 admitted, has a packet at the head of port 15's input. -/
def fab (b : List Byte) (rs : List (Nat × Word)) : State :=
  link 4 9 { inq := [b] } ([(Reg.RTE_SELF, 0x8000000000000005), (Reg.RTE_ADMIT 0, 0x200)] ++ rs)

/-- A packet of device 9 for device 5. -/
def pkt (typ addr len op : Nat) (data : List Byte) : List Byte := packetBytes typ 0 4 0xE8 5 9 7 addr len op data

def sent (typ op : Nat) (b : List Byte) : Bool :=
  let s := fab b []
  linkSound s && Claim.next s 15 typ op == some b

/-- The state that the checks of a request see. -/
def seen (s : State) (b : List Byte) : State := (s.takePkt 15 b).addB Reg.FAB_CNT_IN 63 0 1

theorem witness_FabricRequests_serves :
    Claim.serves 15 1 0 (.read 15) ∧ Claim.serves 15 2 0 (.readSnoop 15) ∧ Claim.serves 15 3 0 (.write 15) ∧ Claim.serves 15 5 0 (.message 15)
    ∧ Claim.serves 15 4 0 (.swap 15) ∧ Claim.serves 15 4 1 (.cas 15) ∧ Claim.serves 15 4 2 (.add 15) ∧ Claim.serves 15 4 3 (.andOp 15)
    ∧ Claim.serves 15 4 4 (.orOp 15) ∧ Claim.serves 15 4 5 (.xorOp 15) ∧ Claim.serves 15 4 6 (.minOp 15) ∧ Claim.serves 15 4 7 (.maxOp 15)
    ∧ Claim.serves 15 4 8 (.minu 15) ∧ Claim.serves 15 4 9 (.maxu 15) := by
  simp [Claim.serves]

theorem witness_FabricRequests_memory : Claim.plainMem (fab (pkt 1 0x400000 4 0 []) []) 0x400000 4 :=
  ⟨Or.inl ⟨0x400000, by decide⟩, by decide, by decide, cleanB_spec (by decide +kernel)⟩

theorem witness_FabricRequests :
    (let s := run []; s.Live ∧ s.Canonical ∧ Claim.next s 15 1 0 = none ∧ (s.nextPkt 15 fun b => pkDst b == s.devId && pkType b == 6) = none)
    ∧ (∀ e ∈ [(1, 0, []), (2, 0, []), (3, 0, zeroBytes 4)] ++ (List.range 10).map fun o => (4, o, zeroBytes (if o = 1 then 8 else 4)), let b := pkt e.1 0x400000 4 e.2.1 e.2.2
       sent e.1 e.2.1 b = true ∧ pkLen b = 4 ∧ pkAddr b = 0x400000 ∧ (seen (fab b []) b).requestStatus b = 0)
    ∧ (pkData (pkt 3 0x400000 4 0 (zeroBytes 4))).length = 4
    ∧ (let b := pkt 1 0x400000 0 0 []; sent 1 0 b = true ∧ (seen (fab b []) b).requestStatus b ≠ 0 ∧ (seen (fab b []) b).requestStatus b ≠ St.denied)
    ∧ (let b := packetBytes 1 0 4 0xE8 5 8 7 0x400000 4 0 []; sent 1 0 b = true ∧ (seen (fab b []) b).requestStatus b = St.denied
        ∧ (seen (fab b []) b).sourceDenied b = true ∧ requestFormed b = true ∧ (seen (fab b []) b).accessStatus (pkSrc b) b = 0)
    ∧ (∀ e ∈ [(1, 0, 0), (1, 4096, 1), (0, 0, 2)], let b := pkt 5 1029 16 0 (zeroBytes 16)
       let s := fab b (queueRegs e.1 ++ [(Reg.QU_PROD 1029, w e.2.1)])
       linkSound s = true ∧ Claim.next s 15 5 0 = some b ∧ (seen s b).requestStatus b = 0
        ∧ sendResIs ((seen s b).qAccept (pkAddr b) (pkData b) false).1 e.2.2 = true)
    ∧ (let b := packetBytes 6 0 4 0xE8 5 9 0 (Reg.CMD_DB_PI 15) 8 0 (zeroBytes 8)
       let s := fab b [(Reg.CMD_RING_CFG 15, 0x8000000000000009)]
       linkSound s = true ∧ (s.nextPkt 15 fun b => pkDst b == s.devId && pkType b == 6) = some b ∧ doorbellOf (pkAddr b) = some (15, true)
        ∧ (seen s b).admitted (pkSrc b) = true ∧ requestFormed b = true ∧ bit ((seen s b).rd (Reg.CMD_RING_CFG 15)) 63 = true
        ∧ (seen s b).ringOwner 15 = pkSrc b)
    ∧ (let b := pkt 6 0x400000 8 0 (zeroBytes 8); let s := fab b []
       linkSound s = true ∧ (s.nextPkt 15 fun b => pkDst b == s.devId && pkType b == 6) = some b ∧ doorbellOf (pkAddr b) = none) := by
  refine ⟨?_, ?_, ?_, ?_, ?_, ?_, ?_, ?_⟩ <;> decide +kernel

/-- The same port's head packet goes to device 6; route entry 6 as given. -/
def transit (hops : Nat) (entry : Word) (en : Word) : List Byte × State :=
  let b := packetBytes 1 0 hops 0xE8 6 9 7 0x400000 4 0 []
  (b, fab b [(Reg.RTE_MEMBER 6, entry), (Reg.RTE_PORT_EN, en)])

def held : FabReq := ⟨2, 0, .core 0, 1, 1, 0, 9, 0x400000, 4, 0, []⟩

/-- Tag 7, of generation 3, holds a read of 4 bytes of device 9 that went out at tick 2, and is quarantined as given. -/
def tagged (now : Nat) (req : Bool) (quar : Option Nat) (b : List Byte) : State :=
  { fab b [(Reg.FAB_TMO, w (7 + 5 * 2 ^ 32))] with
    now := now, tags := [(7, { gen := 3, req := if req then some held else none, since := 2, quar := quar })] }

def reply (gen : Nat) : List Byte := packetBytes 8 0 4 0 5 9 (gen * 2 ^ 14 + 7) 0 4 0 (zeroBytes 4)

/-- The hypothesis `calm`, as a value. -/
def calmB (s : State) : Bool := s.fabDone == [] && s.xfers == [] && s.busLate == [] && s.resetReq == none

theorem calmB_spec {s : State} (h : calmB s = true) : Claim.calm s := by
  simpa [calmB, Claim.calm, and_assoc] using h

theorem witness_FabricResponses :
    (let s := tagged 9 true none []; Tbl.wf (fun _ => ({} : Tag)) s.tags = true)
    ∧ (∀ e ∈ [(0, 0x10001, 1, Route.port 0), (4, 0x18000, 0x8000, .port 15), (4, 0, 0, .noRoute), (4, 0x10001, 1, .noPort 0)],
      let bs := transit e.1 (w e.2.1) (w e.2.2.1)
      linkSound bs.2 = true ∧ (bs.2.nextPkt 15 fun b => pkDst b != bs.2.devId) = some bs.1 ∧ calmB bs.2 = true ∧ pkSrc bs.1 ≠ bs.2.devId ∧ pkHops bs.1 = e.1
        ∧ (e.1 ≠ 0 → bs.2.routeOf (pkSrc bs.1) (pkDst bs.1) (pkTc bs.1) = e.2.2.2))
    ∧ (let s := run []; (s.nextPkt 15 fun b => pkDst b != s.devId) = none ∧ (s.nextPkt 15 fun b => pkDst b == s.devId && pkType b == 8) = none)
    ∧ (∀ gen ∈ [3, 4], let b := reply gen; let s := tagged 9 true none b
       linkSound s = true ∧ (s.nextPkt 15 fun b => pkDst b == s.devId && pkType b == 8) = some b ∧ calmB s = true ∧ s.tagWaits = [] ∧ pkTag b % 2 ^ 14 = 7 ∧ (s.tagOf 7).req.isSome = true
        ∧ (pkTag b / 2 ^ 14 = (s.tagOf 7).gen ↔ gen = 3) ∧ (s.tagOf 7).req = some held ∧ held.kind = 2 ∧ pkSrc b = held.dst ∧ responseFits held b = true)
    ∧ (∀ n ∈ [9, 8], let s := tagged n true none []
       linkSound s = true ∧ (s.tagOf 7).req.isSome = true ∧ (s.tagOf 7).since + s.rdB Reg.FAB_TMO 31 0 = 9 ∧ s.tagWaits = []
        ∧ s.rdB Reg.FAB_TMO 63 32 = 5 ∧ (s.tagOf 7).quar = none ∧ calmB s = true ∧ s.responseHere 7 = false)
    ∧ (∀ n ∈ [9, 8], let s := tagged n false (some 9) []
       linkSound s = true ∧ (s.tagOf 7).req = none ∧ (s.tagOf 7).quar = some 9 ∧ s.tagWaits = []) := by
  refine ⟨?_, ?_, ?_, ?_, ?_, ?_⟩ <;> decide +kernel

/-! ### Collectives -/

/-- The descriptor of collective 7 of two ranks, this one being rank 1, with its group at 0x600000; DONE counts milestone counter 3. -/
def colDesc (op fmt : Nat) : List Byte :=
  toBytes 4 7 ++ toBytes 1 op ++ toBytes 1 fmt ++ toBytes 1 fmt ++ zeroBytes 25 ++ toBytes 8 0x600000 ++ toBytes 4 2 ++ toBytes 4 1 ++ zeroBytes 4
    ++ toBytes 2 3 ++ zeroBytes 74

/-- The descriptor lies at an address, of device 5. -/
def colMem (op a : Nat) (dev : Nat) : State :=
  bytesAt (bytesAt (run [(Reg.RTE_SELF, 0x8000000000000005), (Reg.RTE_ADMIT 0, 0x200)]) a (colDesc op 6)) 0x600010 (toBytes 8 dev ++ toBytes 8 0x700000)

/-- What a submission loads. -/
def submit (s : State) (a : Nat) : Nat × List Byte × State := s.load 0xD5 a 128

def colC : Col := { addr := 0x500000, desc := colDesc 3 6 }
def colP : Col := { addr := 0x500000, desc := colDesc 5 0x20 }

/-- The engine holds the collective; a permute's map at address 0 has one sender and no entry. -/
def held1 (c : Col) (now : Nat) (rs : List (Nat × Word)) : State :=
  bytesAt { run ([(Reg.COL_CFG, w (6 + 8 * 2 ^ 32))] ++ rs) with
    now := now, cols := [c], msPlaced := [(3, true)], xfers := [(2, { noXfer with ended := some 0 })] } 4 [1]

theorem witness_CollectiveNotices : Claim.mayWrite (run []) 0x80
    ∧ (let s := run []; s.Live ∧ s.Canonical ∧ s.jobState = 3 ∧ bit 0x500000 63 = false ∧ bit 0x8000000000500000 63 = true)
    ∧ (let s : State := { run [] with cols := List.replicate 256 colC }; s.Live ∧ s.Canonical ∧ s.jobState = 3 ∧ 256 ≤ s.cols.length)
    ∧ (∀ e ∈ [(3, 0x500000, 5), (3, 0x500040, 5), (6, 0x500000, 5), (3, 0x500000, 6)], let s := colMem e.1 e.2.1 e.2.2
       let r := submit s e.2.1
       let c : Col := { addr := e.2.1, desc := r.2.1 }
       s.Live ∧ s.Canonical ∧ s.jobState = 3 ∧ s.cols = [] ∧ r.1 = St.ok ∧ r.2.1 = colDesc e.1 6 ∧ (e.2.1 % 128 = 0 ↔ e.2.1 = 0x500000)
        ∧ c.fieldsOk = (e.1 == 3) ∧ (s.findCol c.id).isSome = false ∧ (r.2.2.groupEntry c c.rank).1 = St.ok
        ∧ (r.2.2.groupEntry c c.rank).2.1 = e.2.2 ∧ (r.2.2.groupEntry c c.rank).2.2.1 = 0x700000 ∧ 0x700000 % 2048 = 0 ∧ s.devId = 5)
    ∧ (∀ e ∈ [(0x500000, false), (0x600000, true)], let s : State := { colMem 3 0x500000 5 with par := [(e.1, 0xFFFF)] }
       let r := submit s 0x500000
       s.Live ∧ s.Canonical ∧ (r.1 = 0 ↔ e.2 = true)
        ∧ (e.2 = true → (r.2.2.groupEntry { addr := 0x500000, desc := r.2.1 } 1).1 ≠ 0))
    ∧ (let s : State := { run [] with depots := [3] }; s.Live ∧ s.Canonical ∧ 3 ∈ s.depots ∧ 4 ∉ s.depots ∧ s.admitted 4 = false)
    ∧ (∀ r ∈ [true, false], let s := held1 { colC with running := r } 9 [(Reg.RTE_ADMIT 0, 0x200)]
       s.Live ∧ s.Canonical ∧ 9 ∉ s.depots ∧ s.admitted 9 = true ∧ bits 7 31 0 = 7 ∧ s.findCol 7 = some { colC with running := r }
        ∧ s.colEarly.length < 256)
    ∧ (let s : State := { colMem 3 0x500000 5 with colEarly := List.replicate 256 0 }
       s.Live ∧ s.Canonical ∧ 9 ∉ s.depots ∧ s.admitted 9 = true ∧ s.findCol 7 = none ∧ 256 ≤ s.colEarly.length) := by
  refine ⟨⟨by decide, Or.inr (by decide +kernel)⟩, by decide +kernel, by decide +kernel, by decide +kernel, by decide +kernel, by decide +kernel,
    by decide +kernel, by decide +kernel⟩

/-- The same with the collective engine's ports masked: nothing is submitted, started or reported. -/
theorem witness_CollectiveNotices_masked :
    (let s : State := { run [] with masked := [0xD5] }; s.Live ∧ s.Canonical ∧ s.jobState = 3 ∧ s.isMasked 0xD5 = true)
    ∧ (∀ st ∈ [none, some St.linkdown], let c : Col := { colC with running := true, status := st }
       let s : State := { held1 c 9 [] with masked := [0xD5] }
       s.Live ∧ s.Canonical ∧ s.isMasked 0xD5 = true ∧ s.colTrigs = [] ∧ s.findCol 7 = some c ∧ c.status = st) := by decide +kernel

theorem witness_CollectivesRun :
    colC.rank < colC.ranks
    ∧ (let d : Col := { colC with desc := putLe colC.desc 0x2C 4 0 }
       colC.root < colC.ranks ∧ d.rank = (colC.rank + 1) % colC.ranks ∧ d.ranks = colC.ranks ∧ d.op = colC.op ∧ d.count = colC.count
        ∧ d.outFmt = colC.outFmt ∧ d.root = colC.root)
    ∧ (let s := held1 colC 9 []; s.Live ∧ s.Canonical ∧ (s.cols.filter (·.running)).length < 16 ∧ s.jobState = 3
        ∧ (s.cols.find? fun c => !c.running && c.status.isNone) = some colC ∧ s.isMasked 0xD5 = false
        ∧ ({ addr := colC.addr, desc := colC.desc, self := colC.self } : Col) = colC ∧ colC.op ≤ 4 ∧ colC.count = 0 ∧ s.colEarly = []
        ∧ plainB s (colC.groupAddr + 16 * ((colC.rank + 1) % colC.ranks)) 16 = true
        ∧ plainB s (colC.groupAddr + 16 * ((colC.rank + colC.ranks - 1) % colC.ranks)) 16 = true)
    ∧ (let s : State := { run [] with cols := List.replicate 16 { colC with running := true } }
       s.Live ∧ s.Canonical ∧ 16 ≤ (s.cols.filter (·.running)).length)
    ∧ (run []).findCol 7 = none ∧ (run []).colTrigs = []
    ∧ (∀ st ∈ [0, St.linkdown], let c : Col := { colC with running := true, status := some st }; let s := held1 c 9 []
       s.Live ∧ s.Canonical ∧ s.colTrigs = [] ∧ s.findCol 7 = some c ∧ c.trigger = false ∧ c.doneMs = 3 ∧ s.msOk 3 = true)
    ∧ (∀ n ∈ [9, 8], let c : Col := { colC with desc := putLe colC.desc 0x18 8 4096, running := true, waitAt := 3 }; let s := held1 c n []
       s.Live ∧ s.Canonical ∧ s.findCol 7 = some c ∧ c.status = none ∧ c.op ≠ 5 ∧ c.awaits = true ∧ c.waitAt + s.rdB Reg.COL_CFG 31 0 = 9)
    ∧ (∀ n ∈ [9, 8], let c : Col := { colP with running := true, phase := 2, t0 := 1 }; let s := held1 c n []
       s.Live ∧ s.Canonical ∧ s.findCol 7 = some c ∧ c.status = none ∧ c.op = 5 ∧ c.t0 + s.rdB Reg.COL_CFG 63 32 = 9)
    ∧ (∀ ph ∈ [1, 3], let c : Col := { colP with running := true, phase := ph, work := some 2 }; let s := held1 c 9 []
       s.Live ∧ s.Canonical ∧ s.findCol 7 = some c ∧ c.op = 5 ∧ (s.xfer 2).ended = some 0 ∧ (s.permMap c).1 = St.ok ∧ (s.permMap c).2.1 = ⟨[], 1, []⟩ ∧ c.senders = []
        ∧ plainB s c.map 64 = true ∧ s.isMasked 0xD5 = false)
    ∧ ({ colP with running := false } : Col).running = false := by
  refine ⟨?_, ?_, ?_, ?_, ?_, ?_, ?_, ?_, ?_, ?_, ?_⟩ <;> decide +kernel

theorem test_colAdd : colAdd 0x12 0x7FFFFFFF 1 = (0x7FFFFFFF, true) ∧ colAdd 0x12 5 0xFFFFFFFF = (4, false) := by decide +kernel

/-! ### Power and clocks -/

/-- Die 2's governor has done what `g` says; the point of die 2 is 10 of at most 20. -/
def gov (g : Gov) (now : Nat) (rs : List (Nat × Word)) : State :=
  { run ([(Reg.GOV_STATUS 2, 10), (Reg.GOV_CFG 2, w (5 + 20 * 2 ^ 24))] ++ rs) with now := now, govs := if g = {} then [] else [(2, g)] }

/-- A bid at the package manager, of the round of its die or of another. -/
theorem witness_PowerAndClocks_bids :
    (let s := gov { t0 := 3 } 9 []; s.Live ∧ s.Canonical ∧ (3 : Word).toNat = (s.gov 2).t0 ∧ (2 : Word).toNat ≠ (s.gov 2).t0)
    ∧ (let s : State := { gov {} 200000 [(Reg.PKM_BUDGET, 2400)] with pkmPast := [(100, 19200)] }
       s.Live ∧ s.Canonical ∧ s.now % 100000 = 0 ∧ bit (s.rd Reg.RST_STATUS) 12 = true)
    ∧ (∀ n ∈ [5003, 5004], ∀ e ∈ [(5000, 4), (3, 2)], let s := gov { t0 := 3, bids := [⟨2, 9, 0⟩], offer := 9 } n []
       s.Live ∧ s.Canonical ∧ (s.gov 2).t0 = 3 ∧ (e.1 = (s.gov 2).t0 ↔ e.2 = 2)) := by decide +kernel

theorem witness_PowerAndClocks :
    (∀ e ∈ [(100000, 0), (20000, 20000), (100001, 1)], let s := gov {} e.1 []
      s.Live ∧ s.Canonical ∧ s.now % 100000 = e.2 ∧ (s.now % 10000 = 0 ↔ e.2 ≠ 1) ∧ bit (s.rd Reg.RST_STATUS) 12 = true)
    ∧ bit ((up []).rd Reg.RST_STATUS) 12 = false
    ∧ (∀ n ∈ [5003, 5004], let s := gov { t0 := 3, bids := [⟨2, 9, 0⟩], offer := 9 } n []
      s.Live ∧ s.Canonical ∧ (2 : Nat) ≠ 1 ∧ (s.gov 2).t0 = 3 ∧ (s.gov 2).computed = false ∧ (s.gov 2).bids = [⟨2, 9, 0⟩])
    ∧ (let s := gov { t0 := 3, bids := [⟨2, 9, 0⟩, ⟨1, 0, 4⟩], offer := 9 } 5003 []
       s.Live ∧ s.Canonical ∧ (s.gov 2).t0 + 5000 ≤ s.now ∧ (s.gov 2).bids ≠ [] ∧ 9 * 4 / max 9 4 ≠ 0)
    ∧ ((gov { t0 := 3, computed := true } 5003 []).gov 2).computed = true ∧ (gov { t0 := 3, computed := true } 5003 []).Live
      ∧ (gov { t0 := 3, computed := true } 5003 []).Canonical
    ∧ (∀ n ∈ [10003, 10004], let s := gov { t0 := 3 } n [(Reg.PKM_CEIL, 0)]; s.Live ∧ s.Canonical ∧ (s.gov 2).t0 = 3
      ∧ s.pkmCeil 2 < s.govB 2 + (0xFFFF : BitVec 16).toNat)
    ∧ (∀ e ∈ [(10003, none), (10002, none), (10003, some (12, 3))], let s := gov { t0 := 3, change := e.2 } e.1 []
       s.Live ∧ s.Canonical ∧ Tbl.wf (fun _ => ({} : Gov)) s.govs = true ∧ (s.gov 2).t0 = 3 ∧ (s.gov 2).change = e.2
        ∧ bit (s.rd Reg.RST_STATUS) 12 = true ∧ s.opp 2 = 10)
    ∧ (∀ n ∈ [5003, 5004, 5002], let s := gov { change := some (24, 3) } n []
       s.Live ∧ s.Canonical ∧ Tbl.wf (fun _ => ({} : Gov)) s.govs = true ∧ (s.gov 2).change = some (24, 3))
    ∧ (let s := link 4 9 flying []; linkSound s = true ∧ s.lnkState (8 * 1 + 7) = 4 ∧ s.lnkState (8 * 1 + 6) < 3 ∧ s.held = false)
    ∧ (let s := link 3 9 flying []; linkSound s = true ∧ s.lnkState (8 * 1 + 7) = 3)
    ∧ (let s : State := { up [] with held := true }; s.Canonical ∧ s.tripped = false ∧ s.held = true) := by
  refine ⟨?_, ?_, ?_, ?_, ?_, ?_, ?_, ?_, ?_, ?_, ?_⟩ <;> decide +kernel

/-! ### Resets, boot, the test port and the sideband -/

/-- The digest of the byte 1. -/
def bodyDigest : List Byte := hex 32 0x799b719ac031fc89c6d8925a487dad07308f837b7ab7bbc7cebd3a4118fd2f38

/-- A stage image of one body byte, of key slot 0, signed outside the model with the private key 1. -/
def image (stage : Nat) (sig : List Byte) : List Byte :=
  ascii "LMVFWIMG" ++ toBytes 1 stage ++ zeroBytes 7 ++ toBytes 4 1 ++ zeroBytes 12 ++ keyG ++ bodyDigest ++ zeroBytes 64 ++ sig ++ [1]

def loaderSig : List Byte := hex 32 0x79a12510b9c8f2abde98be6d87a66b0a06fcb680f2a84507fddb5fa9442ca55c
  ++ hex 32 0x432f6d77231b86aa10b3a0c93c2cca7ab5839475178ee011aaf04a2ffad46600

def firmwareSig : List Byte := hex 32 0xd6869e9e1f0e3679c9378401cd7c2b37d38f1bd500c67aaa07f5aeb4969a30c4
  ++ hex 32 0x14bcb0b07078e4c31b643dff1941ea63cf3a61cb107fc540a5e322aa519da04c

def loader : List Byte := image 1 loaderSig
def firmware : List Byte := image 2 firmwareSig

theorem test_loader_signed : sm2Verify (slice loader 0x20 64) (loader.take 0xC0) (slice loader 0xC0 64) = true := by decide +kernel

theorem test_firmware_signed : sm2Verify (slice firmware 0x20 64) (firmware.take 0xC0) (slice firmware 0xC0 64) = true := by decide +kernel

/-- A device whose root key is `keyG`. -/
def fused (rs : List (Nat × Word)) : State := up (keyRegs Reg.SEC_ROOT_KEY ++ rs)

/-- The checks of an image but for its signature. -/
def imagePlain (s : State) (stage : Nat) (i : List Byte) : Bool :=
  !(s.flashOwn || decide (i.length < 256)) && !decide (slice i 0 8 ≠ ascii "LMVFWIMG" ∨ imStage i ≠ stage ∨ 2 ≤ imFlags i ∨ 64 < imSvn i
      ∨ imBodyLen i = 0 ∨ 2 ^ 24 - 256 < imBodyLen i ∨ !allZero (slice i 0x14 12) ∨ !allZero (slice i 0x80 64))
    && s.slotKey (imKeySlot i) (slice i 0x20 64) && !decide (imSvn i < s.rdB Reg.SEC_STATUS 10 4) && sm3 (imBody i) == slice i 0x60 32

theorem image_passes {s : State} {stage : Nat} {i : List Byte} (h : imagePlain s stage i = true)
    (hv : sm2Verify (slice i 0x20 64) (i.take 0xC0) (slice i 0xC0 64) = true) : s.imageCause stage i = 0 := by
  simp only [imagePlain, Bool.and_eq_true, Bool.not_eq_true', beq_iff_eq, decide_eq_false_iff_not] at h
  obtain ⟨⟨⟨⟨h0, h1⟩, h2⟩, h3⟩, h4⟩ := h
  unfold State.imageCause
  rw [if_neg (by simp [h0]), if_neg (by simpa only [Bool.not_eq_true'] using h1), if_neg (by simp [h2]), if_neg h3, if_neg (by simp [hv]), if_neg (by simp [h4])]

theorem copy_passes {s : State} (h1 : imagePlain s 1 loader = true) (h2 : imagePlain s 2 firmware = true) :
    Claim.copyGood s loader firmware := by
  simp [Claim.copyGood, State.copyCause, image_passes h1 test_loader_signed, image_passes h2 test_firmware_signed]

theorem witness_ResetsAndBoot_copies :
    (let s : State := { fused [] with held := true }
     s.Canonical ∧ s.tripped = false ∧ s.held = true ∧ s.resetLow = false ∧ s.rdB Reg.RST_STATUS 3 3 = 0
      ∧ Claim.copyGood ((({ s with held := false, now := 0, straps := 3 } : State).wrB Reg.CLK_STATUS 22 20 7).freshNonce) loader firmware)
    ∧ ∀ retained ∈ [0x100, 0x108], let s : State := { fused [(Reg.RST_STATUS, w retained)] with held := true, resetLow := true }
      s.Canonical ∧ s.tripped = false ∧ s.held = true ∧ s.resetLow = true ∧ s.rdB Reg.RST_STATUS 3 3 = (if retained = 0x108 then 1 else 0)
        ∧ Claim.copyGood ({ s with held := false, resetLow := false } : State).freshNonce loader firmware := by
  refine ⟨⟨by decide +kernel, by decide +kernel, by decide +kernel, by decide +kernel, by decide +kernel,
    copy_passes (by decide +kernel) (by decide +kernel)⟩, fun r hr => ?_⟩
  have : r = 0x100 ∨ r = 0x108 := by simpa using hr
  rcases this with rfl | rfl
  · exact ⟨by decide +kernel, by decide +kernel, by decide +kernel, by decide +kernel, by decide +kernel,
      copy_passes (by decide +kernel) (by decide +kernel)⟩
  · exact ⟨by decide +kernel, by decide +kernel, by decide +kernel, by decide +kernel, by decide +kernel,
      copy_passes (by decide +kernel) (by decide +kernel)⟩

theorem witness_ResetsAndBoot :
    (let s : State := { up [] with held := true }; s.Canonical ∧ s.tripped = false ∧ s.held = true ∧ s.resetLow = false ∧ s.stuck = false)
    ∧ (let s : State := { up [] with held := true, stuck := true }; s.Canonical ∧ s.tripped = false ∧ s.stuck = true)
    ∧ (let s := run [(Reg.RST_STATUS, 0x1701)]; s.Canonical ∧ s.tripped = false ∧ s.held = false ∧ s.retains = false ∧ s.errBuf = []
        ∧ s.rdB Reg.RST_STATUS 11 8 ≠ 1)
    ∧ (let s := up []; s.held = false ∧ s.rdB Reg.RST_STATUS 11 8 = 1)
    ∧ (run [(Reg.RST_CFG, 1)]).retains = true
    ∧ (∀ low ∈ [false, true], let s : State := { up [] with held := true, resetLow := low }
       (((({ s with held := false, now := 0, straps := 3 } : State).wrB Reg.CLK_STATUS 22 20 7).freshNonce.copyCause [] []).1 ≠ 0)
        ∧ (({ s with held := false, resetLow := false } : State).freshNonce.copyCause [] []).1 ≠ 0 ∧ s.rdB Reg.SEC_BOOT 16 16 = 0)
    ∧ (∀ own ∈ [false, true], ∀ st ∈ [0x601, 0x101], let s : State := { up [(Reg.RST_STATUS, w st)] with flashOwn := own, svnTarget := 64 }
       s.Live ∧ s.Canonical ∧ (s.rdB Reg.RST_STATUS 11 8 = 6 ↔ st = 0x601) ∧ s.flashOwn = own ∧ s.svnTarget ≤ 64) := by
  refine ⟨?_, ?_, ?_, ?_, ?_, ?_, ?_⟩ <;> decide +kernel

/-- A reset while the device is READY and EXTEST drives the lands, or another instruction is in the TAP. -/
theorem witness_ResetsAndBoot_pins :
    (let s := run []; s.Canonical ∧ s.tripped = false ∧ s.readyPin = true ∧ s.held = false)
    ∧ (∀ k ∈ [3, 2], let s : State := { run [] with tapReset := false, tapIr := k, lands := if k = 3 then some 5 else none }
       s.Canonical ∧ s.tripped = false ∧ s.tapIr = k)
    ∧ (let s := run []; s.Canonical ∧ s.tripped = false ∧ (2 : BitVec 2) ≠ 0) := by decide +kernel

/-- A debug token with permissions 9, of the root key and nonce and serial 0, signed outside the model with the private key 1. -/
def token : List Byte := ascii "LMVDBGTK" ++ zeroBytes 24 ++ toBytes 4 9 ++ toBytes 4 0 ++ keyG
  ++ hex 32 0xfb215f4a95d0ec8ac4fe78e7a6cbebc002ca1f9843d8b038e960f1a6a0ca5099
  ++ hex 32 0x826f5059b51789ba9d80c38c2c9a0a1f709ecf9effd9ad0edf0b7b35e97030f3

theorem witness_TestPort :
    (let s := up []; s.Canonical ∧ s.tripped = false ∧ s.tapReset = true)
    ∧ (∀ d ∈ [8, 0, 1], let s : State := { up [(Reg.SEC_DBG_STATUS, w d)] with tapReset := false }
       s.Canonical ∧ s.tripped = false ∧ s.held = false ∧ bit (s.rd Reg.SEC_DBG_STATUS) 3 = (d == 8) ∧ bit (s.rd Reg.SEC_DBG_STATUS) 0 = (d == 1)
        ∧ bit (s.rd Reg.SEC_DBG_STATUS) 1 = false ∧ bit (s.rd Reg.SEC_DBG_STATUS) 2 = false ∧ s.rdB Reg.SEC_BOOT 16 16 = 0)
    ∧ (let s : State := { fused [(Reg.SEC_BOOT, 0x10000)] with tapReset := false }
       s.Canonical ∧ s.tripped = false ∧ s.held = false ∧ s.rdB Reg.SEC_BOOT 16 16 = 1 ∧ s.tokenOk (fitBytes 168 token) = true
        ∧ s.tokenOk (fitBytes 168 []) = false)
    ∧ (0x300000000008 : BitVec 46).toNat % 8 = 0 ∧ (0x300000000004 : BitVec 46).toNat % 8 ≠ 0 := by
  refine ⟨by decide +kernel, by decide +kernel, by decide +kernel, by decide, by decide⟩

theorem witness_Sideband :
    (let s := run []; s.Canonical ∧ s.held = false ∧ s.tripped = false ∧ s.rdB Reg.RST_STATUS 11 8 ≠ 0 ∧ bit (s.rd Reg.RST_STATUS) 12 = true)
    ∧ (let s := up []; s.Canonical ∧ s.tripped = false ∧ s.rdB Reg.RST_STATUS 11 8 ≠ 0 ∧ bit (s.rd Reg.RST_STATUS) 12 = false)
    ∧ (let s : State := { up [] with held := true }; s.Canonical ∧ s.tripped = false ∧ s.held = true) := by decide +kernel

theorem test_crc8 : crc8 (ascii "123456789") = 0xF4 := by decide +kernel

/-- A budget write with its packet error code right and wrong (its bytes: the address 0xB0, the code 5, the value), a write of I3C in this
cycle or in another. -/
theorem witness_Sideband_budget :
    (let at' := 0x58 + (run []).straps % 4
     let k := crc8 (toBytes 1 (2 * at') ++ [5] ++ toBytes 2 (1000 : BitVec 16).toNat)
     (BitVec.ofNat 8 k).toNat = k ∧ (BitVec.ofNat 8 (k + 1)).toNat ≠ k)
    ∧ (∀ n ∈ [7, 8], let s : State := { run [] with now := n, sbBudget := some (1200, 7) }
       s.Canonical ∧ s.tripped = false ∧ s.held = false ∧ bit (s.rd Reg.RST_STATUS) 12 = true ∧ s.rdB Reg.RST_STATUS 11 8 ≠ 0
        ∧ (s.sbBudget = some (1200, s.now) ↔ n = 7))
    ∧ (run []).sbBudget = none := by decide +kernel

/-! ### The guest gate, the error logs and demurrage -/

/-- The gate open or closed, with window 3 over 4 KiB of LPDDR at 0x400000, of the classes given, and a limit of one request. -/
def gate (status classes : Nat) (rs : List (Nat × Word)) : State :=
  run ([(Reg.CGT_STATUS, w status), (Reg.CGT_WIN_BASE 3, w (0x400001 + classes)), (Reg.CGT_WIN_LIMIT 3, 0x400000), (Reg.CGT_CFG, w (1 + 7 * 2 ^ 32))]
    ++ rs)

/-- A packet of the guest's unit. -/
def gpkt (typ addr len op : Nat) (data : List Byte) : List Byte := packetBytes typ 0 0 0 0 0 7 addr len op data

theorem witness_GuestGate_memory : Claim.plainMem (gate 7 14 []) 0x400000 4 :=
  ⟨Or.inl ⟨0x400000, by decide⟩, by decide, by decide, cleanB_spec (by decide +kernel)⟩

theorem witness_GuestGate :
    (isMgmt (0xE0 : BitVec 8).toNat = true ∧ (0xE0 : BitVec 8) ≠ 0xE4 ∧ isMgmt (0x80 : BitVec 8).toNat = false ∧ (0x80 : BitVec 8) ≠ 0xE4
      ∧ (run [(Reg.SEC_LOCK, 1)]).rdB Reg.SEC_LOCK 0 0 = 1)
    ∧ (∀ st ∈ [6, 4, 7], let s := gate st 14 []
       s.Live ∧ s.Canonical ∧ s.gateOpen = (st == 7) ∧ (s.rdB Reg.CGT_STATUS 2 1 = 3 ↔ st ≠ 4)
        ∧ ∀ k < 16, s.cgtValid k = true → windowFits (s.cgtLo k) (s.cgtHi k) = true)
    ∧ (∀ e ∈ [(1, 0, []), (3, 0, zeroBytes 4), (4, 2, zeroBytes 4)], let b := gpkt e.1 0x400000 4 e.2.1 e.2.2; let s := gate 7 14 []
       s.Live ∧ s.Canonical ∧ s.guestLink = true ∧ s.gateOpen = true ∧ s.jobOn = true ∧ pkType b = e.1 ∧ guestFormed b = true
        ∧ s.guestWindow b = some 3 ∧ s.guestClass 3 (pkType b) = true ∧ s.guestResp.length < s.rdB Reg.CGT_CFG 8 0 ∧ pkLen b = 4
        ∧ pkAddr b = 0x400000 ∧ s.memCheck 0xF0 (pkAddr b) (pkLen b) = 0 ∧ (pkData b).length = (if e.1 = 1 then 0 else 4)
        ∧ (gate 7 0 []).guestWindow b = some 3 ∧ (gate 7 0 []).guestClass 3 (pkType b) = false)
    ∧ (gate 6 14 []).gateOpen = false ∧ (gate 4 14 []).guestLink = false
    ∧ ({ gate 7 14 [] with regs := regsOf [(Reg.CGT_STATUS, 7)] } : State).jobOn = false
    ∧ guestFormed (gpkt 1 0x400000 0 0 []) = false ∧ guestFormed (gpkt 2 0x400000 4 0 []) = false
    ∧ (guestFormed (gpkt 1 0x400FFE 4 0 []) = false ∧ guestFormed (gpkt 1 0x401000 4 0 []) = true
      ∧ (gate 7 14 []).guestWindow (gpkt 1 0x401000 4 0 []) = none)
    ∧ (let s : State := { gate 7 14 [] with guestResp := [[]] }; ¬s.guestResp.length < s.rdB Reg.CGT_CFG 8 0)
    ∧ (∀ n ∈ [9, 8], let g : GuestReq := ⟨gpkt 1 0x3F0000000000 4 0 [], 5, 2, none⟩
       let s : State := { gate 7 14 [] with guestOut := [g], now := n }
       let b := gpkt 8 0 4 0 (zeroBytes 4)
       s.Live ∧ s.Canonical ∧ s.guestLink = true ∧ pkType b = 8 ∧ (s.guestOut.find? fun g => pkTag g.packet == pkTag b) = some g
        ∧ s.guestOut = [g] ∧ g.since + s.rdB Reg.CGT_CFG 63 32 = 9 ∧ g.req = none)
    ∧ (gate 7 14 []).guestOut = []
    ∧ bit ((gate 6 14 []).rd Reg.CGT_STATUS) 2 = true ∧ bit ((gate 2 14 []).rd Reg.CGT_STATUS) 2 = false := by
  refine ⟨?_, ?_, ?_, ?_, ?_, ?_, ?_, ?_, ?_, ?_, ?_, ?_, ?_, ?_⟩ <;> decide +kernel

/-- SEC_LOCK set, the gate's ports masked, and a core of the gate's request that waits for the answer. -/
theorem witness_GuestGate_locked :
    (let s := run [(Reg.SEC_LOCK, 1)]; s.Live ∧ s.Canonical ∧ s.rdB Reg.SEC_LOCK 0 0 = 1)
    ∧ (let s : State := { gate 7 14 [] with masked := [0xF0] }; let b := gpkt 1 0x400000 4 0 []
       s.Live ∧ s.Canonical ∧ s.isMasked 0xF0 = true ∧ s.guestLink = true ∧ s.gateOpen = true ∧ s.jobOn = true ∧ guestFormed b = true
        ∧ s.guestWindow b = some 3 ∧ s.guestClass 3 (pkType b) = true)
    ∧ (let g : GuestReq := ⟨gpkt 1 0x3F0000000000 4 0 [], 5, 2, none⟩
       let s : State := { gate 7 14 [] with guestOut := [g], cores := [(5, { wait := .fabric })] }
       s.Live ∧ s.Canonical ∧ s.guestLink = true ∧ (s.guestOut.find? fun g => pkTag g.packet == pkTag (gpkt 8 0 4 0 (zeroBytes 4))) = some g
        ∧ g.req = none ∧ (s.core g.master).wait = .fabric) := by decide +kernel

/-- Log 4 with entries from `c` to `p`. -/
def logged (p c : Nat) : State := run [(Reg.ERR_PROD 4, w p), (Reg.ERR_CONS 4, w c)]

theorem witness_LogsAndDemurrage : Claim.mayWrite (run []) 0x80
    ∧ (∀ e ∈ [(300, 44), (300, 45)], (logged e.1 e.2).errHeld 4 = e.1 - e.2 ∧ ((logged e.1 e.2).rd (Reg.ERR_PROD 4)).toNat < 2 ^ 64 - 1)
    ∧ ((run []).Live ∧ (run []).Canonical ∧ (4 : BitVec 3).toNat < 5)
    ∧ (∀ v ∈ [44, 300], 300 - 256 ≤ v ∧ v ≤ 300) ∧ (43 < 300 - 256 ∧ 300 < 301)
    ∧ Tbl.wf (fun _ => ({} : StageCtx)) (stage 0 (slot 1) {} []).stages = true
    ∧ ((run []).stg 3 31).demRem = [] ∧ ({ (run []).stg 3 31 with demRem := List.replicate 9 15 }).demRem.length = 9
    ∧ (∀ c ∈ [7, 8, 9], ∀ v ∈ [2 ^ 48 - 1, 2 ^ 48 - 2], let s := run [(demReg 3 31 c, w v)]
       s.Live ∧ s.Canonical ∧ s.rdB (demReg 3 31 c) 47 0 = v ∧ bit (s.rd (Reg.DEM_OVF 3 31)) c = false) := by
  refine ⟨⟨by decide, Or.inr (by decide +kernel)⟩, ?_⟩
  decide +kernel

/-! ### Ill-formed commands -/

theorem test_illformed_registers : Instr.wf (.registerWrite 0 0 0 0) = false ∧ Instr.wf (.registerWrite 0 0 9 0) = false
    ∧ Instr.wf (.cmdMemoryAccess 0 0 false 0 0 []) = false ∧ Instr.wf (.cmdMemoryAccess 0 0 true 0 2 [1]) = false
    ∧ Instr.wf (.cmdMemoryAccess 0 0 false 0 2 [1]) = false ∧ Instr.wf (.copyComplete 3) = false := by decide

theorem test_illformed_sequencer : Instr.wf (.cfg 0 3 0) = false ∧ Instr.wf (.lds 0 false 3 0 0) = false ∧ Instr.wf (.loop 0 0 0 0) = false
    ∧ Instr.wf (.advm 0 0 0) = false := by decide

theorem test_illformed_packets : (∀ f ∈ [Instr.dataFlit 0 [1], .idleFlit 0 [1], .trainFlit 0 0 0 [1], .downFlit 0 [1], .guestRead [1],
    .guestWrite [1], .guestAtomic [1], .guestResponse [1], .dbgToken [1], .commitNotice [1]], f.wf = false)
    ∧ packetFormed (zeroBytes 4129) = false := by decide +kernel

theorem test_illformed_indices : Instr.wf (.bidReceive 5 0 0 (0, 0)) = false ∧ Instr.wf (.errConsWrite 0 5 0) = false ∧ Instr.wf (.errFirstClr 0 5) = false
    ∧ Instr.wf (.demurrageOverflow 0 0 9) = false ∧ Instr.wf (.holdcut true 4 0) = false ∧ Instr.wf (.thermalTrip 0) = false := by decide

theorem test_wellformed : Instr.wf (.registerWrite 0 0 8 0) = true ∧ Instr.wf (.dataFlit 0 (zeroBytes 256)) = true
    ∧ Instr.wf (.guestRead (zeroBytes 32)) = true ∧ Instr.wf (.holdcut false 7 0) = true ∧ Instr.wf (.bidReceive 4 0 0 (0, 0)) = true := by decide +kernel

end Sys2Proof.Tests
end

section
/-!
SUPPORT. Every step keeps the stores canonical (O4). A step is a command or a tick; each form that a command's meaning can have, and
each branch of the tick, ends in `commit` or leaves the stores and the journal alone.
-/

namespace Sys2Proof.Proofs

open Sys2Proof Sys2Proof.Machine Sys2Proof.Laws

/-- A pin's effect, unless the command left the state as it was. -/
theorem keep_or_pin_canonical {s t : State} {f : State → State} (hc : s.Canonical) (h : t = s ∨ pinAct s f = .next t) :
    t.Canonical := by
  obtain rfl | hp := h
  · exact hc
  · exact pinAct_canonical hc hp

theorem exec_canonical {c : Instr} {s t : State} (hc : s.Canonical) (h : exec c s = .next t) : t.Canonical := by
  obtain ⟨f, e⟩ | ⟨f, e⟩ | ⟨k, f, e⟩ | ⟨f, e⟩ | ⟨f, e⟩ | ⟨f, e⟩ | e := exec_form c s <;> rw [e] at h
  · exact live_canonical hc h
  · exact keep_or_pin_canonical hc (tapDo_cases h)
  · obtain rfl | hp := sideband_cases h
    · exact hc
    · exact pinAct_canonical hc hp
  · exact pinAct_canonical hc h
  · exact pinAct_canonical hc (pinLive_cases h)
  · exact keep_or_pin_canonical hc (pinHeld_cases h)
  · obtain ⟨o, rfl⟩ := execTrip_cases h
    exact hc

/-- A tick either commits a cycle's effect, or changes at most the local cycle count. -/
theorem tick_canonical {s : State} (hc : s.Canonical) : s.tick.Canonical := by
  unfold State.tick
  split
  · exact commit_canonical hc _
  · split
    · exact hc
    · split
      · exact hc
      · exact commit_canonical hc _

/-- Settles O4: a step on an empty queue is a tick, and any other step a command on the queue's rest. -/
theorem stepKeepsCanonical : Obligations.StepKeepsCanonical := by
  intro s t hc h
  unfold step at h
  split at h
  · cases h; exact tick_canonical hc
  next c cs _ => exact exec_canonical (s := { s with pending := cs }) hc h

end Sys2Proof.Proofs
end

section
/-!
SUPPORT. Accesses to the register bus that have no effect: misaligned ones (O8), and ones that reach no register (O9).
-/

namespace Sys2Proof.Proofs

open Sys2Proof Sys2Proof.Machine Sys2Proof.Laws

/-! ### Commands that only answer -/

@[simp] theorem afterWrites_nil (g : Core) : g.afterWrites [] = g := by
  unfold Core.afterWrites
  cases g.resv <;> rfl

/-- A command that wrote neither memory nor registers leaves its effect as it is. -/
theorem commit_of_jnl_nil {s t : State} (hj : t.jnl = []) (hp : t.pending = s.pending) (hm : t.mem = s.mem)
    (hr : t.regs = s.regs) : s.commit t = t := by
  cases t
  cases hj; cases hp; cases hm; cases hr
  simp [State.commit, memCommit, regsCommit]

/-- A command that only answers changes nothing but `out`. -/
theorem commit_answer {s : State} (hc : s.Canonical) (st : Nat) (v : Word) :
    s.commit (s.answer st v) = { s with out := s.out ++ [.access st v] } :=
  commit_of_jnl_nil hc.2.2 rfl rfl rfl

/-! ### REGISTER_WRITE outside memory and the guest window -/

/-- A write that needs no port and lies outside the guest window is a write on the bus, answered with its status. -/
theorem exec_registerWrite_bus {m : BitVec 8} {a : BitVec 46} {n : Nat} {v : Word} {s : State} (hl : s.Live) (hc : s.Canonical)
    (hg : inGuest a.toNat = false) (hd : dataPlace a.toNat = false) :
    exec (.registerWrite m a n v) s
      = .next (s.commit ((s.busWrite m.toNat s.devId a.toNat (toBytes n v.toNat)).2.answer
          (s.busWrite m.toNat s.devId a.toNat (toBytes n v.toNat)).1 0)) := by
  rw [exec_registerWrite, live_eq hl hc]
  unfold fxRegisterWrite
  split
  · simp_all [inGuest]
  · simp [State.portLost, hd]

/-- A REGISTER_WRITE that the bus only answers changes nothing but `out`. -/
theorem exec_registerWrite_answered {m : BitVec 8} {a : BitVec 46} {n st : Nat} {v : Word} {s : State} (hl : s.Live)
    (hc : s.Canonical) (hg : inGuest a.toNat = false) (hd : dataPlace a.toNat = false)
    (hb : s.busWrite m.toNat s.devId a.toNat (toBytes n v.toNat) = (st, s)) :
    exec (.registerWrite m a n v) s = .next { s with out := s.out ++ [.access st 0] } := by
  rw [exec_registerWrite_bus hl hc hg hd, hb, commit_answer hc]

/-! ### Places -/

section Ctl
variable {a d off : Nat} (hp : placeOf a = .ctl d off)
include hp

theorem inGuest_of_ctl : inGuest a = false := by simp [inGuest, hp]
theorem dataPlace_of_ctl : dataPlace a = false := by simp [dataPlace, hp]
theorem busWrite_of_ctl (s : State) (m src : Nat) (bs : List Byte) : s.busWrite m src a bs = s.regWrite m src a bs := by
  simp [State.busWrite, hp]
theorem busRead_of_ctl (s : State) (m src n : Nat) : s.busRead m src a n = s.regRead m src a n := by
  simp [State.busRead, hp]

end Ctl

section Unmapped
variable {a : Nat} (hp : placeOf a = .none)
include hp

theorem inGuest_of_none : inGuest a = false := by simp [inGuest, hp]
theorem dataPlace_of_none : dataPlace a = false := by simp [dataPlace, hp]

/-- The status of an access outside the address map: GATEDENY where it reaches into a guest window that its master may not reach,
which R13 puts first. -/
theorem memCheck_of_none (s : State) (m n : Nat) :
    s.memCheck m a n = if inGuest (a + (n - 1)) && !s.guestReach m then St.gatedeny else St.unmapped := by
  simp [State.memCheck, samePlace, inGuest_of_none hp, hp]

theorem memCheck_of_none_ne (s : State) (m n : Nat) : s.memCheck m a n ≠ 0 := by
  rw [memCheck_of_none hp]
  split <;> decide

theorem busRead_of_none (s : State) (m src n : Nat) : s.busRead m src a n = (s.memCheck m a n, [], s) := by
  simp [State.busRead, hp, State.load, memCheck_of_none_ne hp s m n]

theorem busWrite_of_none (s : State) (m src : Nat) (bs : List Byte) :
    s.busWrite m src a bs = (s.memCheck m a bs.length, s) := by
  simp [State.busWrite, hp, State.store, memCheck_of_none_ne hp s m bs.length]

end Unmapped

/-! ### Misaligned accesses -/

theorem regAligned_eq_false {a n : Nat} : regAligned a n = false ↔ ¬((n = 4 ∨ n = 8) ∧ a % n = 0) := by
  simp [regAligned]

theorem regAligned_eq_true {a n : Nat} : regAligned a n = true ↔ (n = 4 ∨ n = 8) ∧ a % n = 0 := by
  simp [regAligned]

/-- Settles O8: the bus checks the alignment before anything else. -/
theorem misalignedRegisterAccess : Obligations.MisalignedRegisterAccess := by
  refine ⟨fun m a n v s hl hc ⟨d, off, hp⟩ hn => ?_, fun m src a n s hn => ?_, fun m src a d off bs s hp hn => ?_⟩
  · refine exec_registerWrite_answered hl hc (inGuest_of_ctl hp) (dataPlace_of_ctl hp) ?_
    rw [busWrite_of_ctl hp]
    exact write_misaligned (by rw [length_toBytes]; exact regAligned_eq_false.2 hn)
  · simp [State.regRead, regAligned_eq_false.2 hn]
  · rw [busWrite_of_ctl hp]
    exact write_misaligned (regAligned_eq_false.2 hn)

/-! ### Accesses that reach no register -/

theorem master_ne_debug {m : BitVec 8} (h : m ≠ 0xE4) : m.toNat ≠ 0xE4 :=
  fun e => h (BitVec.eq_of_toNat_eq e)

/-- An aligned write to an offset that holds no register is ignored (R8). -/
theorem regWrite_of_find_none {s : State} {m src a : Nat} {bs : List Byte} (ha : regAligned a bs.length = true) (hm : m ≠ 0xE4)
    (hf : regFind a = none) : s.regWrite m src a bs = (St.ok, s) := by
  simp [State.regWrite, ha, hm, hf]

/-- An aligned read of an offset that holds no register gives zeros (R8). -/
theorem regRead_of_find_none {s : State} {m src a n : Nat} (ha : regAligned a n = true) (hm : m ≠ 0xE4) (hf : regFind a = none) :
    s.regRead m src a n = (St.ok, zeroBytes n, s) := by
  simp [State.regRead, ha, hm, hf]

/-- Settles O9: outside the map the memory check alone answers; at an offset without a register the bus does. -/
theorem unmappedAccess : Obligations.UnmappedAccess := by
  refine ⟨fun m a n v s hl hc hp => ?_, fun m src a n bs s hp hn => ?_, fun m a n v s hl hc ⟨d, off, hp⟩ hn ha hm hf => ?_,
    fun m src a d off bs s hp hn ha hm hf => ?_⟩
  · have answered := exec_registerWrite_answered (m := m) (n := n) (v := v) hl hc (inGuest_of_none hp) (dataPlace_of_none hp)
      (busWrite_of_none hp s m.toNat s.devId (toBytes n v.toNat))
    rw [answered, length_toBytes, memCheck_of_none hp]
    exact ⟨fun hi => by simp [hi], fun hi hr => by simp [hi, hr]⟩
  · rw [busRead_of_none hp, busWrite_of_none hp, hn, memCheck_of_none hp]
    exact ⟨fun hi => by simp [hi], fun hi hr => by simp [hi, hr]⟩
  · refine exec_registerWrite_answered hl hc (inGuest_of_ctl hp) (dataPlace_of_ctl hp) ?_
    rw [busWrite_of_ctl hp]
    exact regWrite_of_find_none (by rw [length_toBytes]; exact regAligned_eq_true.2 ⟨hn, ha⟩) (master_ne_debug hm) hf
  · rw [busRead_of_ctl hp, busWrite_of_ctl hp]
    have hal := regAligned_eq_true.2 ⟨hn, ha⟩
    exact ⟨regRead_of_find_none hal hm hf, regWrite_of_find_none hal hm hf⟩

end Sys2Proof.Proofs
end

section
/-!
SUPPORT. The register index (R464): a hit is a row of the index, its byte offset is the address's place in its 8 bytes, and the register
that an access reaches is the hit's own row. What the rows have in common is decided over the index once.
-/

namespace Sys2Proof.Proofs

open Sys2Proof Sys2Proof.Machine Sys2Proof.Laws

/-! ### What all rows have in common -/

theorem rows_aligned : ∀ r ∈ regRows, r.base % 8 = 0 ∧ ∀ d ∈ r.dims, d.2 % 8 = 0 := by decide +kernel

theorem rows_rw_w1c_disjoint : ∀ r ∈ regRows, r.rw &&& r.w1c = 0 := by decide +kernel

theorem rows_ledgerWide : ∀ r ∈ regRows, ledgerWide r.name = true →
    r.dims = [(4, 0x1000000)] ∧ r.hubIx = false ∧ regFind r.base = some ⟨r, [0], 0⟩ := by decide +kernel

theorem rows_resolve : ∀ r ∈ regRows, r.name = .LED_RESOLVE → r.writer = .jobRR := by decide +kernel

theorem rows_mailbox : ∀ r ∈ regRows, r.name = .MBX_DATA ∨ r.name = .MBX_SEND ∨ r.name = .MBX_ACK → r.writer = .mailbox := by
  decide +kernel

theorem rows_lock : ∀ r ∈ regRows, r.name = .SEC_LOCK ∨ r.name = .MBX_LOCK → r.writer = .mgmt ∧ r.ranges = [] := by decide +kernel

theorem rows_mbxLock : ∀ r ∈ regRows, r.name = .MBX_LOCK → r.base = Reg.MBX_LOCK ∧ r.dims = [] := by decide +kernel

/-- The package manager's registers that R428 names: written by management cores, or by nobody with DENIED. -/
theorem rows_pkm : ∀ r ∈ regRows, r.name ∈ [RegName.PKM_BUDGET, .PKM_GUEST, .PKM_CEIL, .PKM_WEIGHT, .PKM_GRANT, .PKM_POOL,
    .PKM_POWER, .PKM_PERIODS] → r.writer = .mgmt ∨ r.writer = .ro ∧ pkmReadOnly r.name = true := by decide +kernel

/-! ### Hits -/

/-- A hit is a row of the list, at or above its base, and its indices are those of the offset. -/
theorem regFindIn_hit {rs : List RegRow} {a : Nat} {h : RegHit} (hf : regFindIn rs a = some h) :
    h.row ∈ rs ∧ h.row.base ≤ a
      ∧ ∃ ix, regIndex h.row.dims (a - h.row.base) = some (ix, h.byte) ∧ h.ix = if h.row.hubIx then 4 :: ix else ix := by
  induction rs with
  | nil => cases hf
  | cons r rs ih =>
    have later (e : regFindIn rs a = some h) : h.row ∈ r :: rs ∧ h.row.base ≤ a
        ∧ ∃ ix, regIndex h.row.dims (a - h.row.base) = some (ix, h.byte) ∧ h.ix = if h.row.hubIx then 4 :: ix else ix :=
      ⟨List.mem_cons_of_mem _ (ih e).1, (ih e).2⟩
    simp only [regFindIn] at hf
    split at hf
    · exact later hf
    · next hb =>
      split at hf
      next ix b hi =>
        cases hf
        exact ⟨List.mem_cons_self, Nat.le_of_not_lt hb, ix, hi, rfl⟩
      · exact later hf

/-- The byte offset inside a register is the last step of the index. -/
theorem regIndex_align (ds : List (Nat × Nat)) (hd : ∀ d ∈ ds, d.2 % 8 = 0) (off : Nat) :
    regIndex ds off = (regIndex ds (off - off % 8)).map fun r => (r.1, off % 8) := by
  induction ds generalizing off with
  | nil =>
    simp only [regIndex]
    split
    · rw [if_pos (by omega)]; simp; omega
    · rw [if_neg (by omega)]; rfl
  | cons d ds ih =>
    obtain ⟨c, st⟩ := d
    have hs : st % 8 = 0 := hd (c, st) List.mem_cons_self
    obtain ⟨k, rfl⟩ : 8 ∣ st := Nat.dvd_of_mod_eq_zero hs
    have hm : off % (8 * k) % 8 = off % 8 := Nat.mod_mul_right_mod off 8 k
    have hsplit : off - off % 8 = 8 * k * (off / (8 * k)) + (off % (8 * k) - off % 8) := by
      have := Nat.div_add_mod off (8 * k)
      have : off % (8 * k) % 8 ≤ off % (8 * k) := Nat.mod_le _ _
      omega
    have hq : (off - off % 8) / (8 * k) = off / (8 * k) ∧ (off - off % 8) % (8 * k) = off % (8 * k) - off % 8 := by
      rcases Nat.eq_zero_or_pos k with rfl | hk
      · simp
      · have hlt : off % (8 * k) - off % 8 < 8 * k := by
          have := Nat.mod_lt off (show 8 * k > 0 by omega)
          omega
        rw [hsplit]
        exact ⟨by rw [Nat.mul_add_div (by omega), Nat.div_eq_of_lt hlt, Nat.add_zero],
          by rw [Nat.mul_add_mod, Nat.mod_eq_of_lt hlt]⟩
    simp only [regIndex]
    rw [hq.1, hq.2, ih (fun d hm => hd d (List.mem_cons_of_mem _ hm)) (off % (8 * k)), hm]
    split
    · simp [Function.comp_def]
    · rfl

/-- The hit of an address is that of its register's first byte, with the byte offset. -/
theorem regFindIn_align (rs : List RegRow) (hr : ∀ r ∈ rs, r.base % 8 = 0 ∧ ∀ d ∈ r.dims, d.2 % 8 = 0) (a : Nat) :
    regFindIn rs a = (regFindIn rs (a - a % 8)).map fun h => { h with byte := a % 8 } := by
  induction rs with
  | nil => rfl
  | cons r rs ih =>
    obtain ⟨hb, hd⟩ := hr r List.mem_cons_self
    have hrest := ih fun r hm => hr r (List.mem_cons_of_mem _ hm)
    simp only [regFindIn]
    by_cases hlt : a < r.base
    · rw [if_pos hlt, if_pos (by omega), hrest]
    · have hoff : a - a % 8 - r.base = a - r.base - (a - r.base) % 8 ∧ (a - r.base) % 8 = a % 8 := by omega
      rw [if_neg hlt, if_neg (by omega), hoff.1, regIndex_align r.dims hd (a - r.base), hoff.2]
      cases regIndex r.dims (a - r.base - a % 8) with
      | none => simpa using hrest
      | some x => rfl

theorem regFind_align (a : Nat) : regFind a = (regFind (a - a % 8)).map fun h => { h with byte := a % 8 } :=
  regFindIn_align regRows rows_aligned a

section Hit
variable {a : Nat} {h : RegHit} (hf : regFind a = some h)
include hf

theorem row_mem : h.row ∈ regRows := (regFindIn_hit hf).1

theorem hit_byte : h.byte = a % 8 := by
  rw [regFind_align] at hf
  cases hz : regFind (a - a % 8) with
  | none => rw [hz] at hf; cases hf
  | some z => rw [hz] at hf; cases hf; rfl

/-- The first byte of a register hits the same register. -/
theorem regFind_first : regFind (a - h.byte) = some { h with byte := 0 } := by
  rw [hit_byte hf]
  rw [regFind_align] at hf
  cases hz : regFind (a - a % 8) with
  | none => rw [hz] at hf; cases hf
  | some z =>
    rw [hz] at hf
    cases hf
    have hb : z.byte = 0 := by rw [hit_byte hz]; omega
    rw [← hb]

/-- The address of a register of the device-wide ledger block is its address at die 0 (R143). -/
theorem hit_addr_ledgerWide (hw : ledgerWide h.row.name = true) : h.addr a = h.row.base := by
  obtain ⟨hm, hb, ix, hi, hx⟩ := regFindIn_hit hf
  obtain ⟨hd, hh, -⟩ := rows_ledgerWide h.row hm hw
  rw [hd] at hi
  rw [hh] at hx
  simp only [regIndex] at hi
  split at hi
  · split at hi
    · next hq ho =>
      simp only [Option.map_some, Option.some.injEq, Prod.mk.injEq] at hi
      obtain ⟨rfl, hbyte⟩ := hi
      have h0 : h.i 0 = (a - h.row.base) / 0x1000000 := by simp [RegHit.i, nth, hx]
      simp only [RegHit.addr, hw, if_true, h0]
      omega
    · cases hi
  · cases hi

/-- The register that an access reaches is a register of the same row. -/
theorem regFind_addr : ∃ h', regFind (h.addr a) = some h' ∧ h'.row = h.row := by
  by_cases hw : ledgerWide h.row.name = true
  · rw [hit_addr_ledgerWide hf hw]
    obtain ⟨-, -, hr⟩ := rows_ledgerWide h.row (row_mem hf) hw
    exact ⟨_, hr, rfl⟩
  · have ha : h.addr a = a - h.byte := by simp [RegHit.addr, hw]
    exact ⟨{ h with byte := 0 }, by rw [ha]; exact regFind_first hf, rfl⟩

theorem hit_addr_mbxLock (hn : h.row.name = .MBX_LOCK) : h.addr a = Reg.MBX_LOCK := by
  obtain ⟨hm, hb, ix, hi, -⟩ := regFindIn_hit hf
  obtain ⟨hbase, hd⟩ := rows_mbxLock h.row hm hn
  have hw : ledgerWide h.row.name = false := by rw [hn]; decide
  simp only [hd, regIndex] at hi
  split at hi
  · simp only [Option.some.injEq, Prod.mk.injEq] at hi
    simp only [RegHit.addr, hw, ← hbase]
    obtain ⟨-, hi⟩ := hi
    simp; omega
  · cases hi

/-- An aligned access reaches a register whole (8 bytes), or one of its halves (4 bytes). -/
theorem hit_part {n : Nat} (hn : n = 4 ∨ n = 8) (ha : a % n = 0) :
    n = 8 ∧ h.byte = 0 ∨ n = 4 ∧ h.byte = 0 ∨ n = 4 ∧ h.byte = 4 := by
  rw [hit_byte hf]
  rcases hn with rfl | rfl <;> omega

end Hit

end Sys2Proof.Proofs
end

section
/-!
SUPPORT. Register writes (O10): which bits of a register a write reaches, who may write it, and what a write of a register whose
writes only store fields leaves.
-/

namespace Sys2Proof.Proofs

open Sys2Proof Sys2Proof.Machine Sys2Proof.Laws

/-! ### Bits of words -/

theorem bit_eq_getLsbD (v : Word) (i : Nat) : bit v i = v.getLsbD i := bit_eq_testBit v i

theorem bit_and (x y : Word) (i : Nat) : bit (x &&& y) i = (bit x i && bit y i) := by simp [bit_eq_getLsbD]

theorem bit_or (x y : Word) (i : Nat) : bit (x ||| y) i = (bit x i || bit y i) := by simp [bit_eq_getLsbD]

theorem bit_not (x : Word) {i : Nat} (hi : i < 64) : bit (~~~ x) i = !bit x i := by simp [bit_eq_getLsbD, hi]

theorem bit_w (n : Nat) {i : Nat} (hi : i < 64) : bit (w n) i = n.testBit i := by
  rw [bit_eq_testBit, w, BitVec.toNat_ofNat, Nat.testBit_mod_two_pow, decide_eq_true hi, Bool.true_and]

/-- The value that `n` bytes of `v` give the register that they reach at byte offset `k`. -/
theorem bit_placed (v : Word) (n k : Nat) {i : Nat} (hi : i < 64) :
    bit (w (ofBytes (toBytes n v.toNat) * 2 ^ (8 * k))) i
      = (decide (8 * k ≤ i ∧ i < 8 * k + 8 * n) && bit v (i - 8 * k)) := by
  rw [bit_w _ hi, ofBytes_toBytes, Nat.testBit_mul_two_pow, Nat.testBit_mod_two_pow, bit_eq_testBit, ← Bool.and_assoc]
  congr 1
  rw [← Bool.decide_and]
  exact decide_eq_decide.2 ⟨fun ⟨a, b⟩ => ⟨a, by omega⟩, fun ⟨a, b⟩ => ⟨a, by omega⟩⟩

/-- The part of a register that an access gives, as `halfMask` numbers it. -/
def partOf (n k : Nat) : Nat := if n = 8 then 0 else if k = 0 then 1 else 2

/-- The bits that an access of `n` bytes at byte offset `k` reaches. -/
theorem bit_halfMask {n k : Nat} (hp : n = 8 ∧ k = 0 ∨ n = 4 ∧ k = 0 ∨ n = 4 ∧ k = 4) {i : Nat} (hi : i < 64) :
    bit (halfMask (partOf n k)) i = decide (8 * k ≤ i ∧ i < 8 * k + 8 * n) := by
  rcases hp with ⟨rfl, rfl⟩ | ⟨rfl, rfl⟩ | ⟨rfl, rfl⟩ <;> revert i <;> decide

/-! ### The new value of a register -/

/-- A register's value after a write of `v` on the bits of `m`, its ranges aside (R6, R9). -/
def written (row : RegRow) (old v m : Word) : Word :=
  ((old &&& ~~~ (w row.rw &&& m)) ||| (v &&& (w row.rw &&& m))) &&& ~~~ (v &&& w row.w1c &&& m)

theorem fieldNew_of_find {s : State} {a : Nat} {h : RegHit} (hf : regFind a = some h) (v m : Word) :
    s.fieldNew a v m = if h.row.inRange (written h.row (s.rd a) v m) then some (written h.row (s.rd a) v m) else none := by
  unfold State.fieldNew
  rw [hf]
  rfl

theorem inRange_of_no_ranges {row : RegRow} (hr : row.ranges = []) (x : Word) : row.inRange x = true := by
  simp [RegRow.inRange, hr]

theorem rw_w1c_not_both {row : RegRow} (hm : row ∈ regRows) (i : Nat) : (row.rw.testBit i && row.w1c.testBit i) = false := by
  rw [← Nat.testBit_and, rows_rw_w1c_disjoint row hm, Nat.zero_testBit]

/-- Bit by bit: an RW bit that the write reaches takes the value, a W1C bit is cleared by a 1, and every other bit stays. -/
theorem bit_written {row : RegRow} (hm : row ∈ regRows) (old v m : Word) {i : Nat} (hi : i < 64) :
    bit (written row old v m) i = if bit m i = true ∧ row.rw.testBit i = true then bit v i
      else bit old i && !(bit m i && row.w1c.testBit i && bit v i) := by
  have hd := rw_w1c_not_both hm i
  simp only [written, bit_and, bit_or, bit_not _ hi, bit_w _ hi]
  cases bit m i <;> cases h : row.rw.testBit i <;> simp_all [Bool.and_comm]

/-! ### Who may write -/

/-- A register of the rest of the index that its master may write now. -/
def mayWriteNow (s : State) (m : Nat) (row : RegRow) : Prop :=
  row.writer ≠ .ro ∧ row.writer ≠ .colRx
    ∧ (isMgmt m = true ∨ row.writer = .anyone ∨ row.writer = .jobRR ∧ s.jobOn = true ∨ row.writer = .jobReady ∧ s.jobState = 2)

theorem writeAdmit_yes {s : State} {m src : Nat} {h : RegHit} (hw : mayWriteNow s m h.row) : s.writeAdmit m src h = .yes := by
  obtain ⟨hro, hcol, hm⟩ := hw
  unfold State.writeAdmit
  split
  · rfl
  · cases hwr : h.row.writer <;> simp_all [State.ringParty]

section Admit
variable {s : State} {m src a : Nat} {h : RegHit} (hf : regFind a = some h)
include hf

theorem not_resolve_of_writer (hw : h.row.writer ≠ .jobRR) : h.row.name ≠ .LED_RESOLVE :=
  fun hn => hw (rows_resolve _ (row_mem hf) hn)

theorem writeAdmit_readOnly (hm : isMgmt m = true) (hw : h.row.writer = .ro) : s.writeAdmit m src h = .ignored := by
  have hn := not_resolve_of_writer hf (by rw [hw]; decide)
  simp [State.writeAdmit, hn, hw, hm]

theorem writeAdmit_mgmt (hm : isMgmt m = false) (hd : m ≠ 0xE4) (hw : h.row.writer = .mgmt) : s.writeAdmit m src h = .denied := by
  have hn := not_resolve_of_writer hf (by rw [hw]; decide)
  simp [State.writeAdmit, hn, hw, hm, hd]

theorem writeAdmit_pkm (hm : isMgmt m = false) (hd : m ≠ 0xE4)
    (hn : h.row.name ∈ [RegName.PKM_BUDGET, .PKM_GUEST, .PKM_CEIL, .PKM_WEIGHT, .PKM_GRANT, .PKM_POOL, .PKM_POWER, .PKM_PERIODS]) :
    s.writeAdmit m src h = .denied := by
  obtain hw | ⟨hw, hp⟩ := rows_pkm _ (row_mem hf) hn
  · exact writeAdmit_mgmt hf hm hd hw
  · have hr := not_resolve_of_writer hf (by rw [hw]; decide)
    simp [State.writeAdmit, hr, hw, hm, hd, hp]

end Admit

theorem writeAdmit_jobOff {s : State} {m src : Nat} {h : RegHit} (hm : isMgmt m = false) (hw : h.row.writer = .jobRR)
    (hn : h.row.name ≠ .LED_RESOLVE) (hj : s.jobOn = false) : s.writeAdmit m src h = .ignored := by
  simp [State.writeAdmit, hn, hw, hm, hj]

/-- A management core reads every register but a mailbox's data, and those of a channel while the channel is valid (R385, R401). -/
theorem readStatus_mgmt {s : State} {m src : Nat} {h : RegHit} (hm : isMgmt m = true) (hd : h.row.name ≠ .MBX_DATA)
    (hv : h.row.name = .MBX_SEND ∨ h.row.name = .MBX_ACK ∨ h.row.name = .MBX_STATUS → s.mbxValid (h.i 0) = true) :
    s.readStatus m src h = (St.ok, s) := by
  unfold State.readStatus
  split <;> simp_all [State.ringParty]

/-! ### A write on the bus -/

section Write
variable {s : State} {m src a : Nat} {h : RegHit} {bs : List Byte} (hf : regFind a = some h) (ha : regAligned a bs.length = true)
  (hd : m ≠ 0xE4)
include hf ha hd

theorem regWrite_denied (hw : s.writeAdmit m src h = .denied) : s.regWrite m src a bs = (St.denied, s) := by
  simp [State.regWrite, ha, hd, hf, hw]

theorem regWrite_ignored (hw : s.writeAdmit m src h = .ignored) (hr : h.row.writer ≠ .ro) :
    s.regWrite m src a bs = (St.ok, s) := by
  simp [State.regWrite, ha, hd, hf, hw, hr]

theorem regWrite_readOnly (hw : s.writeAdmit m src h = .ignored) (hr : h.row.writer = .ro) :
    s.regWrite m src a bs = s.readStatus m src h := by
  simp [State.regWrite, ha, hd, hf, hw, hr]

theorem regWrite_noStage (hw : s.writeAdmit m src h = .yes) (hs : stageReg h.row.name = true)
    (hv : s.ctxValid (h.i 0) (h.i 1) = false) : s.regWrite m src a bs = (St.ok, s) := by
  simp [State.regWrite, ha, hd, hf, hw, hs, hv]

theorem regWrite_effect (hw : s.writeAdmit m src h = .yes) (hs : stageReg h.row.name = true → s.ctxValid (h.i 0) (h.i 1) = true) :
    s.regWrite m src a bs = s.regEffect m src h (h.addr a) (partOf bs.length h.byte) (w (ofBytes bs * 2 ^ (8 * h.byte))) := by
  have hs' : (stageReg h.row.name && !s.ctxValid (h.i 0) (h.i 1)) = false := by
    cases hst : stageReg h.row.name
    · rfl
    · simp [hs hst]
  simp [State.regWrite, ha, hd, hf, hw, hs', partOf]

end Write

/-- A register whose writes only store fields: its new value is stored, unless a field would leave its range. -/
theorem regEffect_stores {s : State} {m src : Nat} {h : RegHit} (hn : Claim.ownEffect h.row.name = false) (a k : Nat) (v : Word) :
    s.regEffect m src h a k v = (St.ok, s.fieldWrite a (v &&& halfMask k) (halfMask k)) := by
  unfold State.regEffect State.fieldWrite
  cases he : s.fieldNew a (v &&& halfMask k) (halfMask k) with
  | none => simp only [he]
  | some new =>
    simp only [he]
    split
    case h_54 => rfl
    all_goals (rename_i hr; rw [hr] at hn; exact absurd hn (by decide))

/-! ### What a write that stores a field leaves -/

theorem commit_wr_rd {s : State} (hc : s.Canonical) (r : Nat) (x : Word) (st b : Nat) :
    (s.commit ((s.wr r x).answer st 0)).rd b = if r = b then x else s.rd b := by
  rw [commit_rd_eq hc (s := (s.wr r x).answer st 0) rfl, answer_rd, rd_wr]

theorem commit_wr_byte {s : State} (hc : s.Canonical) (r : Nat) (x : Word) (st b : Nat) :
    (s.commit ((s.wr r x).answer st 0)).byte b = s.byte b := by
  rw [commit_byte_eq hc (s := (s.wr r x).answer st 0) rfl, answer_byte, byte_wr]

theorem fieldWrite_of_find {s : State} {a : Nat} {h : RegHit} (hf : regFind a = some h) (v m : Word) :
    s.fieldWrite a v m
      = if h.row.inRange (written h.row (s.rd a) v m) then s.wr a (written h.row (s.rd a) v m) else s := by
  unfold State.fieldWrite
  rw [fieldNew_of_find hf]
  cases h.row.inRange (written h.row (s.rd a) v m) <;> rfl

/-- What the bus leaves of a register whose writes only store fields. -/
theorem commit_fieldWrite {s : State} (hc : s.Canonical) {r : Nat} {h : RegHit} (hf : regFind r = some h) (v m : Word) :
    let t := s.commit ((s.fieldWrite r v m).answer St.ok 0)
    t.rd r = (if h.row.inRange (written h.row (s.rd r) v m) = true then written h.row (s.rd r) v m else s.rd r)
      ∧ t.out = s.out ++ [.access St.ok 0] ∧ (∀ b, b ≠ r → t.rd b = s.rd b) ∧ ∀ b, t.byte b = s.byte b := by
  rw [fieldWrite_of_find hf]
  split
  · refine ⟨?_, rfl, fun b hb => ?_, fun b => commit_wr_byte hc _ _ _ b⟩
    · rw [commit_wr_rd hc, if_pos rfl]
    · rw [commit_wr_rd hc, if_neg (Ne.symm hb)]
  · rw [commit_answer hc]
    exact ⟨rfl, rfl, fun b _ => rfl, fun b => rfl⟩

/-! ### The lock registers -/

theorem regEffect_secLock {s : State} {m src : Nat} {h : RegHit} (hn : h.row.name = .SEC_LOCK) {a k : Nat} {v new : Word}
    (hx : s.fieldNew a (v &&& halfMask k) (halfMask k) = some new) :
    s.regEffect m src h a k v = (St.ok, s.wr a (s.rd a ||| (v &&& halfMask k &&& 1))) := by
  simp only [State.regEffect, hx, hn]

theorem regEffect_mbxLock {s : State} {m src : Nat} {h : RegHit} (hn : h.row.name = .MBX_LOCK) {a k : Nat} {v new : Word}
    (hx : s.fieldNew a (v &&& halfMask k) (halfMask k) = some new) :
    s.regEffect m src h a k v = if s.rdB Reg.MBX_LOCK 0 0 = 1 then (St.denied, s)
      else (St.ok, s.wr a (s.rd a ||| (v &&& halfMask k &&& 1))) := by
  simp only [State.regEffect, hx, hn]

theorem bits_eq_one_iff (v : Word) (i : Nat) : bits v i i = 1 ↔ bit v i = true := by
  simp [bits, nbits, bit]

theorem bit_one (i : Nat) (hi : i < 64) : bit (1 : Word) i = decide (i = 0) := by
  revert i; decide

/-! ### REGISTER_WRITE of a register -/

section Command
variable {m : BitVec 8} {a : BitVec 46} {n d off : Nat} {v : Word} {s : State} {h : RegHit} (hl : s.Live) (hc : s.Canonical)
  (hp : placeOf a.toNat = .ctl d off) (hf : regFind a.toNat = some h) (hn : n = 4 ∨ n = 8) (ha : a.toNat % n = 0) (hm : m ≠ 0xE4)
include hl hc hp

theorem exec_registerWrite_of_regWrite {st : Nat} {t : State}
    (hw : s.regWrite m.toNat s.devId a.toNat (toBytes n v.toNat) = (st, t)) :
    exec (.registerWrite m a n v) s = .next (s.commit (t.answer st 0)) := by
  rw [exec_registerWrite_bus hl hc (inGuest_of_ctl hp) (dataPlace_of_ctl hp), busWrite_of_ctl hp, hw]

theorem exec_registerWrite_answer {st : Nat} (hw : s.regWrite m.toNat s.devId a.toNat (toBytes n v.toNat) = (st, s)) :
    exec (.registerWrite m a n v) s = .next { s with out := s.out ++ [.access st 0] } := by
  rw [exec_registerWrite_of_regWrite hl hc hp hw, commit_answer hc]

omit hl hc hp in
include hn ha in
theorem regAligned_toBytes : regAligned a.toNat (toBytes n v.toNat).length = true := by
  rw [length_toBytes]
  exact regAligned_eq_true.2 ⟨hn, ha⟩

omit hl hc hp in
include hf hn ha hm in
/-- An admitted write is the register's own effect, on the part that the access gives. -/
theorem regWrite_part (hw : s.writeAdmit m.toNat s.devId h = .yes)
    (hs : stageReg h.row.name = true → s.ctxValid (h.i 0) (h.i 1) = true) :
    s.regWrite m.toNat s.devId a.toNat (toBytes n v.toNat)
      = s.regEffect m.toNat s.devId h (h.addr a.toNat) (partOf n h.byte) (w (ofBytes (toBytes n v.toNat) * 2 ^ (8 * h.byte))) := by
  rw [regWrite_effect hf (regAligned_toBytes hn ha) (master_ne_debug hm) hw hs, length_toBytes]

include hf hn ha hm in
/-- A write that its master may not make completes with DENIED and has no effect. -/
theorem exec_registerWrite_denied (hw : s.writeAdmit m.toNat s.devId h = .denied) :
    exec (.registerWrite m a n v) s = .next { s with out := s.out ++ [.access St.denied 0] } :=
  exec_registerWrite_answer hl hc hp (regWrite_denied hf (regAligned_toBytes hn ha) (master_ne_debug hm) hw)

include hf hn ha hm in
/-- A write of a read-only register by a management core has no effect. -/
theorem exec_registerWrite_readOnly (hmg : isMgmt m.toNat = true) (hw : h.row.writer = .ro)
    (hv : h.row.name = .MBX_STATUS → s.mbxValid (h.i 0) = true) :
    exec (.registerWrite m a n v) s = .next { s with out := s.out ++ [.access St.ok 0] } := by
  have hro := rows_mailbox _ (row_mem hf)
  have hst : s.readStatus m.toNat s.devId h = (St.ok, s) := by
    refine readStatus_mgmt hmg (fun e => ?_) (fun e => ?_)
    · rw [hro (.inl e)] at hw; cases hw
    · rcases e with e | e | e
      · rw [hro (.inr (.inl e))] at hw; cases hw
      · rw [hro (.inr (.inr e))] at hw; cases hw
      · exact hv e
  refine exec_registerWrite_answer hl hc hp ?_
  rw [regWrite_readOnly hf (regAligned_toBytes hn ha) (master_ne_debug hm) (writeAdmit_readOnly hf hmg hw) hw, hst]

include hf hn ha hm in
/-- A write by job software outside READY and RUNNING has no effect. -/
theorem exec_registerWrite_jobOff (hmg : isMgmt m.toNat = false) (hw : h.row.writer = .jobRR) (hr : h.row.name ≠ .LED_RESOLVE)
    (hj : s.jobOn = false) : exec (.registerWrite m a n v) s = .next { s with out := s.out ++ [.access St.ok 0] } :=
  exec_registerWrite_answer hl hc hp (regWrite_ignored hf (regAligned_toBytes hn ha) (master_ne_debug hm)
    (writeAdmit_jobOff hmg hw hr hj) (by rw [hw]; decide))

include hf hn ha hm in
/-- A context without a stage ignores writes of its registers. -/
theorem exec_registerWrite_noStage (hw : mayWriteNow s m.toNat h.row) (hs : stageReg h.row.name = true)
    (hv : s.ctxValid (h.i 0) (h.i 1) = false) :
    exec (.registerWrite m a n v) s = .next { s with out := s.out ++ [.access St.ok 0] } :=
  exec_registerWrite_answer hl hc hp (regWrite_noStage hf (regAligned_toBytes hn ha) (master_ne_debug hm) (writeAdmit_yes hw) hs hv)

include hf hn ha hm in
/-- A write that only stores fields: its result bit by bit, and what it leaves. -/
theorem exec_registerWrite_stores (hw : mayWriteNow s m.toNat h.row) (ho : Claim.ownEffect h.row.name = false)
    (hs : stageReg h.row.name = true → s.ctxValid (h.i 0) (h.i 1) = true) :
    ∃ (t : State) (x : Word), exec (.registerWrite m a n v) s = .next t
      ∧ (∀ i < 64, bit x i = if (8 * h.byte ≤ i ∧ i < 8 * h.byte + 8 * n) ∧ h.row.rw.testBit i = true then bit v (i - 8 * h.byte)
          else bit (s.rd (h.addr a.toNat)) i
            && !(decide (8 * h.byte ≤ i ∧ i < 8 * h.byte + 8 * n) && h.row.w1c.testBit i && bit v (i - 8 * h.byte)))
      ∧ t.rd (h.addr a.toNat) = (if h.row.inRange x = true then x else s.rd (h.addr a.toNat))
      ∧ t.out = s.out ++ [.access St.ok 0] ∧ (∀ b, b ≠ h.addr a.toNat → t.rd b = s.rd b) ∧ ∀ b, t.byte b = s.byte b := by
  obtain ⟨h', hf', hrow⟩ := regFind_addr hf
  refine ⟨_, written h.row (s.rd (h.addr a.toNat)) (w (ofBytes (toBytes n v.toNat) * 2 ^ (8 * h.byte)) &&& halfMask (partOf n h.byte))
    (halfMask (partOf n h.byte)), exec_registerWrite_of_regWrite hl hc hp
      ((regWrite_part hf hn ha hm (writeAdmit_yes hw) hs).trans (regEffect_stores ho _ _ _)), fun i hi => ?_, ?_⟩
  · rw [bit_written (row_mem hf) _ _ _ hi, bit_and, bit_placed v n h.byte hi, bit_halfMask (hit_part hf hn ha) hi]
    by_cases hg : 8 * h.byte ≤ i ∧ i < 8 * h.byte + 8 * n <;> simp [hg]
  · rw [← hrow]
    exact commit_fieldWrite hc hf' _ _

include hf hn ha hm in
/-- A lock register keeps what was set. -/
theorem exec_registerWrite_lock (hmg : isMgmt m.toNat = true)
    (hk : h.row.name = .SEC_LOCK ∨ h.row.name = .MBX_LOCK ∧ bit (s.rd (h.addr a.toNat)) 0 = false) :
    ∃ t, exec (.registerWrite m a n v) s = .next t
      ∧ (∀ i < 64, bit (t.rd (h.addr a.toNat)) i = (bit (s.rd (h.addr a.toNat)) i
          || decide (i = 0) && decide (8 * h.byte ≤ 0 ∧ 0 < 8 * h.byte + 8 * n) && bit v 0))
      ∧ (∀ b, b ≠ h.addr a.toNat → t.rd b = s.rd b) ∧ ∀ b, t.byte b = s.byte b := by
  have hname : h.row.name = .SEC_LOCK ∨ h.row.name = .MBX_LOCK := hk.imp_right And.left
  obtain ⟨hwr, hrg⟩ := rows_lock _ (row_mem hf) hname
  have hw : mayWriteNow s m.toNat h.row := ⟨by rw [hwr]; decide, by rw [hwr]; decide, .inl hmg⟩
  have hs : stageReg h.row.name = true → s.ctxValid (h.i 0) (h.i 1) = true := by
    rcases hname with e | e <;> rw [e] <;> exact fun h => absurd h (by decide)
  obtain ⟨h', hf', hrow⟩ := regFind_addr hf
  have hnew := fun v m => fieldNew_of_find (s := s) hf' v m
  simp only [inRange_of_no_ranges (hrow ▸ hrg), if_true] at hnew
  have heff : ∀ x, s.regEffect m.toNat s.devId h (h.addr a.toNat) (partOf n h.byte) x
      = (St.ok, s.wr (h.addr a.toNat) (s.rd (h.addr a.toNat) ||| (x &&& halfMask (partOf n h.byte) &&& 1))) := by
    intro x
    rcases hk with e | ⟨e, h0⟩
    · exact regEffect_secLock e (hnew _ _)
    · have hz : s.rdB Reg.MBX_LOCK 0 0 ≠ 1 := by
        rw [State.rdB, Ne, bits_eq_one_iff, ← hit_addr_mbxLock hf e, h0]; decide
      rw [regEffect_mbxLock e (hnew _ _), if_neg hz]
  refine ⟨_, exec_registerWrite_of_regWrite hl hc hp ((regWrite_part hf hn ha hm (writeAdmit_yes hw) hs).trans (heff _)),
    fun i hi => ?_, fun b hb => ?_, fun b => commit_wr_byte hc _ _ _ b⟩
  · rw [commit_wr_rd hc, if_pos rfl, bit_or, bit_and, bit_and, bit_one i hi, bit_placed v n h.byte hi,
      bit_halfMask (hit_part hf hn ha) hi]
    by_cases h0 : i = 0
    · subst h0
      cases decide (8 * h.byte ≤ 0 ∧ 0 < 8 * h.byte + 8 * n) <;> simp
    · simp [h0]
  · rw [commit_wr_rd hc, if_neg (Ne.symm hb)]

include hf hn ha hm in
/-- A write of MBX_LOCK once it is set completes with DENIED (R400). -/
theorem exec_registerWrite_locked (hk : h.row.name = .MBX_LOCK) (h1 : bit (s.rd (h.addr a.toNat)) 0 = true) :
    exec (.registerWrite m a n v) s = .next { s with out := s.out ++ [.access St.denied 0] } := by
  obtain ⟨hwr, hrg⟩ := rows_lock _ (row_mem hf) (.inr hk)
  cases hmg : isMgmt m.toNat
  · exact exec_registerWrite_denied hl hc hp hf hn ha hm (writeAdmit_mgmt hf hmg (master_ne_debug hm) hwr)
  · have hw : mayWriteNow s m.toNat h.row := ⟨by rw [hwr]; decide, by rw [hwr]; decide, .inl hmg⟩
    obtain ⟨h', hf', hrow⟩ := regFind_addr hf
    refine exec_registerWrite_answer hl hc hp ((regWrite_part hf hn ha hm (writeAdmit_yes hw) fun e => ?_).trans ?_)
    · rw [hk] at e; exact absurd e (by decide)
    · rw [regEffect_mbxLock hk ((fieldNew_of_find hf' _ _).trans (if_pos (inRange_of_no_ranges (hrow ▸ hrg) _))), if_pos]
      rw [State.rdB, bits_eq_one_iff, ← hit_addr_mbxLock hf hk, h1]

end Command

/-- A write-only register reads as zero (R9). -/
theorem regRead_writeOnly {s : State} {m src a n : Nat} {h : RegHit} (hf : regFind a = some h) (hn : n = 4 ∨ n = 8)
    (ha : a % n = 0) (hmg : isMgmt m = true) (hd : m ≠ 0xE4) (hw : writeOnly h.row.name = true)
    (hv : h.row.name = .MBX_SEND ∨ h.row.name = .MBX_ACK → s.mbxValid (h.i 0) = true) :
    s.regRead m src a n = (St.ok, zeroBytes n, s) := by
  have hst : s.readStatus m src h = (St.ok, s) := by
    refine readStatus_mgmt hmg (fun e => ?_) (fun e => ?_)
    · rw [e] at hw; exact absurd hw (by decide)
    · rcases e with e | e | e
      · exact hv (.inl e)
      · exact hv (.inr e)
      · rw [e] at hw; exact absurd hw (by decide)
  have hz : (zeroBytes 8 |>.drop h.byte).take n = zeroBytes n := by
    rcases hit_part hf hn ha with ⟨rfl, e⟩ | ⟨rfl, e⟩ | ⟨rfl, e⟩ <;> rw [e] <;> rfl
  have ht : toBytes 8 0 = zeroBytes 8 := by decide
  simp [State.regRead, regAligned_eq_true.2 ⟨hn, ha⟩, hd, hf, hst, State.regValue, hw, ht, hz, St.ok]

/-- Settles O10: each clause is what the bus does with a write that is admitted, ignored or denied. -/
theorem registerWrites : Obligations.RegisterWrites := by
  intro m a n v s h d off hl hc hp hf hn ha hm
  refine ⟨fun hw ho hs => exec_registerWrite_stores hl hc hp hf hn ha hm hw ho hs,
    fun hw hs hv => exec_registerWrite_noStage hl hc hp hf hn ha hm hw hs hv,
    fun hmg hw hv => exec_registerWrite_readOnly hl hc hp hf hn ha hm hmg hw hv,
    fun hmg hk => exec_registerWrite_lock hl hc hp hf hn ha hm hmg hk,
    fun hk h1 => exec_registerWrite_locked hl hc hp hf hn ha hm hk h1,
    fun hmg hw hv src => regRead_writeOnly hf hn ha hmg (master_ne_debug hm) hw hv,
    fun hmg => ⟨fun hw hr hj => exec_registerWrite_jobOff hl hc hp hf hn ha hm hmg hw hr hj, ?_⟩⟩
  rintro (hw | hpk)
  · exact exec_registerWrite_denied hl hc hp hf hn ha hm (writeAdmit_mgmt hf hmg (master_ne_debug hm) hw)
  · exact exec_registerWrite_denied hl hc hp hf hn ha hm (writeAdmit_pkm hf hmg (master_ne_debug hm) hpk)

end Sys2Proof.Proofs
end

section
/-!
SUPPORT. Requests from the fabric (O51), refuted. SRC of a packet has 32 bits, and the route of a response is read at
RTE_GROUP(SRC / 512). For a SRC of 18 bits that is a register of the route table; a SRC of 6150 · 512 makes it the address of
FAB_CNT_IN, which the service of the request itself counts up. The response then leaves by another route than the one the
statement reads before the command. (A port's own input drops such a packet, but the statement holds every input possible.)
-/

namespace Sys2Proof.Proofs

open Sys2Proof Sys2Proof.Machine Sys2Proof.Laws

/-- A READ of device 5 whose SRC has more than 18 bits: its route entry stands where FAB_CNT_IN does. -/
def wideSourceRead : List Byte := packetBytes 1 0 4 0xE8 5 (6150 * 512) 7 0x400000 4 0 []

theorem route_of_wideSource : Reg.RTE_GROUP (pkSrc wideSourceRead / 512) = Reg.FAB_CNT_IN := by decide +kernel

/-- Device 5 has counted 0x10001 requests, which read as a route entry is valid and names port 0, its one ACTIVE port; the
packet waits in that port's input. -/
def wideSourceState : State :=
  { regs := [(Reg.LNK_STATUS 0, 4), (Reg.RTE_SELF, 0x8000000000000005), (Reg.FAB_CNT_IN, 0x10001)]
    ports := [(0, { inq := [wideSourceRead] })] }

theorem wideSource_hypotheses : wideSourceState.Live ∧ wideSourceState.Canonical ∧ Claim.portsWf wideSourceState
    ∧ Claim.next wideSourceState (0 : BitVec 4).toNat 1 0 = some wideSourceRead := by
  unfold Claim.portsWf
  decide +kernel

/-- Before the command the route of the answer is port 0. -/
theorem wideSource_route : wideSourceState.routeOf (pkDst wideSourceRead) (pkSrc wideSourceRead) (pkTc wideSourceRead) = .port 0 := by
  decide +kernel

/-- The request is refused, because its source is not admitted. -/
theorem wideSource_status :
    ((wideSourceState.takePkt 0 wideSourceRead).addB Reg.FAB_CNT_IN 63 0 1).requestStatus wideSourceRead = St.denied := by
  decide +kernel

/-- After the command port 0 has nothing to send: the count 0x10002 names port 1, which is not ACTIVE. -/
theorem wideSource_unanswered :
    ((wideSourceState.commit ((wideSourceState.takePkt 0 wideSourceRead).serveRequest wideSourceRead)).port 0).queue = [] := by
  decide +kernel

/-- Refutes O51: a request whose SRC has more than 18 bits can be answered by another route than the one in force before it. -/
theorem not_fabricRequests : ¬ Obligations.FabricRequests := by
  rintro ⟨-, served, -⟩
  obtain ⟨hl, hc, hw, hn⟩ := wideSource_hypotheses
  obtain ⟨run, refused, -⟩ := served 0 (.read 0) 1 0 wideSourceRead wideSourceState hl hc hw (.inl ⟨rfl, rfl⟩) hn
  obtain ⟨t, ht, -, answered, -⟩ := refused (by rw [show (0 : BitVec 4).toNat = 0 from rfl, wideSource_status]; decide)
  obtain rfl : wideSourceState.commit _ = t := Host.Outcome.next.inj (run.symm.trans ht)
  have hq := answered 0 wideSource_route
  rw [show (0 : BitVec 4).toNat = 0 from rfl, wideSource_unanswered] at hq
  exact absurd (congrArg List.length hq) (by simp)

end Sys2Proof.Proofs
end

section
/-!
SUPPORT. Which registers the shared operations write: `Frame R s t` says that from `s` to `t` no register outside `R` changed. Memory
accesses write the memory system's own registers; transfers and small packets write those and the fabric's counters.
-/

namespace Sys2Proof.Proofs

open Sys2Proof Sys2Proof.Machine Sys2Proof.Laws

/-- From `s` to `t` only registers in `R` were written; the stores themselves change at `commit` alone. -/
structure Frame (R : Nat → Prop) (s t : State) : Prop where
  regs : t.regs = s.regs
  mem : t.mem = s.mem
  rd : ∀ a, ¬R a → t.rd a = s.rd a

namespace Frame

variable {R : Nat → Prop} {s t u : State}

theorem refl (s : State) : Frame R s s := ⟨rfl, rfl, fun _ _ => rfl⟩

theorem trans (h : Frame R s t) (k : Frame R t u) : Frame R s u :=
  ⟨k.regs.trans h.regs, k.mem.trans h.mem, fun a ha => (k.rd a ha).trans (h.rd a ha)⟩

theorem mono {Q : Nat → Prop} (h : Frame Q s t) (hq : ∀ a, Q a → R a) : Frame R s t :=
  ⟨h.regs, h.mem, fun a ha => h.rd a fun hqa => ha (hq a hqa)⟩

/-- An update of State that leaves the stores and the journal. -/
theorem keep (h : Frame R s t) (hj : u.jnl = t.jnl) (hr : u.regs = t.regs) (hm : u.mem = t.mem) : Frame R s u :=
  h.trans ⟨hr, hm, fun a _ => by simp only [State.rd, hj, hr]⟩

theorem wr {a : Nat} (h : Frame R s t) (ha : R a) (v : Word) : Frame R s (t.wr a v) :=
  h.trans ⟨rfl, rfl, fun b hb => by rw [rd_wr, if_neg (fun e : a = b => hb (e ▸ ha))]⟩

theorem wrB {a : Nat} (h : Frame R s t) (ha : R a) (hi lo n : Nat) : Frame R s (t.wrB a hi lo n) := h.wr ha _

theorem addB {a : Nat} (h : Frame R s t) (ha : R a) (hi lo n : Nat) : Frame R s (t.addB a hi lo n) := h.wr ha _

theorem rawWrite (h : Frame R s t) (a : Nat) (bs : List Byte) : Frame R s (t.rawWrite a bs) :=
  h.trans ⟨rfl, rfl, fun b _ => rd_rawWrite t a b bs⟩

theorem ite {c : Prop} [Decidable c] (h : c → Frame R s t) (k : ¬c → Frame R s u) : Frame R s (if c then t else u) := by
  split
  · exact h ‹_›
  · exact k ‹_›

theorem ite_snd {α : Type} {c : Prop} [Decidable c] {p q : α × State} (h : c → Frame R s p.2) (k : ¬c → Frame R s q.2) :
    Frame R s (if c then p else q).2 := by
  split
  · exact h ‹_›
  · exact k ‹_›

theorem ite_snd_snd {α β : Type} {c : Prop} [Decidable c] {p q : α × β × State} (h : c → Frame R s p.2.2)
    (k : ¬c → Frame R s q.2.2) : Frame R s (if c then p else q).2.2 := by
  split
  · exact h ‹_›
  · exact k ‹_›

theorem raise {evt : Nat} (h : Frame R s t) (he : R evt) (lg blk en ev : Nat) (e : EvInfo) :
    Frame R s (t.raise lg blk evt en ev e) := by
  unfold State.raise
  exact .ite (fun _ => (h.wr he _).keep rfl rfl rfl) fun _ => h.wr he _

theorem foldl {α : Type} {f : State → α → State} {l : List α} (h : Frame R s t) (hf : ∀ x ∈ l, ∀ t, Frame R t (f t x)) :
    Frame R s (l.foldl f t) := by
  induction l generalizing t with
  | nil => exact h
  | cons x l ih =>
    exact ih (h.trans (hf x List.mem_cons_self t)) fun y hy => hf y (List.mem_cons_of_mem _ hy)

end Frame

/-! ### The memory system -/

/-- The registers of the stacks and of the operand stores. -/
def memReg (a : Nat) : Prop := Reg.MEM_STK_ID 0 ≤ a ∧ a < Reg.MEM_CFG

theorem ilvStack_lt (a : Nat) : ilvStack a < 8 := by
  have hb : ∀ v hi lo, hi = lo + 2 → nbits v hi lo < 2 ^ 3 := fun v hi lo e =>
    lt_of_lt_of_eq (nbits_lt v hi lo) (by rw [e]; congr 1; omega)
  exact Nat.xor_lt_two_pow (hb _ _ _ rfl) (Nat.xor_lt_two_pow (hb _ _ _ rfl) (hb _ _ _ rfl))

theorem sramDie_lt {blk : Nat} (h : isSram blk = true) : (blk - 0x200000000000) / 0x40000000 < 4 := by
  simp only [isSram, Bool.and_eq_true, decide_eq_true_eq] at h
  omega

theorem flitDie_lt (a : Nat) : flitDie a < 4 := by
  unfold flitDie
  split
  · exact sramDie_lt ‹_›
  · have := ilvStack_lt a
    omega

section StackReg
variable {k : Nat} (hk : k < 8)
include hk

theorem memReg_evt : memReg (Reg.MEM_EVT k) := by
  unfold memReg Reg.MEM_STK_ID Reg.MEM_CFG Reg.MEM_EVT ctlBase; omega
theorem memReg_parCnt : memReg (Reg.MEM_PAR_CNT k) := by
  unfold memReg Reg.MEM_STK_ID Reg.MEM_CFG Reg.MEM_PAR_CNT ctlBase; omega
theorem memReg_parLast : memReg (Reg.MEM_PAR_LAST k) := by
  unfold memReg Reg.MEM_STK_ID Reg.MEM_CFG Reg.MEM_PAR_LAST ctlBase; omega
theorem memReg_cntRd : memReg (Reg.MEM_CNT_RD k) := by
  unfold memReg Reg.MEM_STK_ID Reg.MEM_CFG Reg.MEM_CNT_RD ctlBase; omega
theorem memReg_cntWr : memReg (Reg.MEM_CNT_WR k) := by
  unfold memReg Reg.MEM_STK_ID Reg.MEM_CFG Reg.MEM_CNT_WR ctlBase; omega
theorem memReg_cntPoison : memReg (Reg.MEM_CNT_POISON k) := by
  unfold memReg Reg.MEM_STK_ID Reg.MEM_CFG Reg.MEM_CNT_POISON ctlBase; omega

end StackReg

section StoreReg
variable {n : Nat} (hn : n < 4)
include hn

theorem memReg_osEvt : memReg (Reg.MEM_OS_EVT n) := by
  unfold memReg Reg.MEM_STK_ID Reg.MEM_CFG Reg.MEM_OS_EVT ctlBase; omega
theorem memReg_osPar : memReg (Reg.MEM_OS_PAR n) := by
  unfold memReg Reg.MEM_STK_ID Reg.MEM_CFG Reg.MEM_OS_PAR ctlBase; omega
theorem memReg_osLast : memReg (Reg.MEM_OS_LAST n) := by
  unfold memReg Reg.MEM_STK_ID Reg.MEM_CFG Reg.MEM_OS_LAST ctlBase; omega

end StoreReg

section Memory
variable (s : State)

theorem parEvent_frame {blk : Nat} {os : Bool} (ho : os = true → isSram blk = true) (ev status : Nat) :
    Frame memReg s (s.parEvent blk os ev status) := by
  unfold State.parEvent
  exact .ite (fun h => (Frame.refl s).raise (memReg_osEvt (sramDie_lt (ho h))) _ _ _ _ _)
    fun _ => (Frame.refl s).raise (memReg_evt (ilvStack_lt blk)) _ _ _ _ _

theorem countReplays_frame (blk k : Nat) : Frame memReg s (s.countReplays blk k) := by
  unfold State.countReplays
  refine .ite (fun _ => .ite (fun _ => ?_) fun _ => (Frame.refl s).keep rfl rfl rfl) fun _ => .refl s
  refine Frame.raise ?_ (memReg_evt (ilvStack_lt blk)) _ _ _ _ _
  exact (Frame.refl s).keep rfl rfl rfl

theorem blkRegs_frame {t : State} (h : Frame memReg s t) (blk : Nat) {f g : State → Nat → State}
    (hf : ∀ k < 8, Frame memReg t (f t k)) (hg : ∀ n < 4, Frame memReg t (g t n)) : Frame memReg s (t.blkRegs blk f g) := by
  unfold State.blkRegs
  exact .ite (fun _ => h.trans (hf _ (ilvStack_lt blk))) fun _ => .ite (fun hs => h.trans (hg _ (sramDie_lt hs))) fun _ => h

theorem poisonBlock_frame (blk first : Nat) : Frame memReg s (s.poisonBlock blk first) := by
  unfold State.poisonBlock
  dsimp only
  generalize ht : State.blkRegs _ blk _ _ = t
  have h : Frame memReg s t := by
    rw [← ht]
    refine blkRegs_frame s ?_ blk (fun k hk => ?_) fun n hn => ?_
    · exact (Frame.refl s).keep rfl rfl rfl
    · exact (((Frame.refl _).addB (memReg_parCnt hk) _ _ _).addB (memReg_cntWr hk) _ _ _).wr (memReg_parLast hk) _
    · exact ((Frame.refl _).addB (memReg_osPar hn) _ _ _).wr (memReg_osLast hn) _
  exact .ite (fun hs => h.trans (parEvent_frame _ (fun _ => hs) _ _)) fun _ =>
    .ite (fun _ => h.trans (parEvent_frame _ (fun e => Bool.noConfusion e) _ _)) fun _ => h

theorem readOnce_frame (blk : Nat) : Frame memReg s (s.readOnce blk).2 := by
  have h : Frame memReg s (if (s.glitch.get blk []).isEmpty then s
      else { s with glitch := s.glitch.set blk (s.glitch.get blk []).tail [] }) :=
    .ite (fun _ => .refl s) fun _ => (Frame.refl s).keep rfl rfl rfl
  unfold State.readOnce
  exact .ite (fun _ => h.addB (memReg_cntRd (ilvStack_lt blk)) _ _ _) fun _ => h

theorem readBlock_frame (blk : Nat) : Frame memReg s (s.readBlock blk).2 := by
  have replayed (t : State) : Frame memReg t (t.blkRegs blk
      (fun s st => s.addB (Reg.MEM_PAR_CNT st) 31 0 1) (fun s n => s.addB (Reg.MEM_OS_PAR n) 31 0 1)) :=
    blkRegs_frame t (.refl t) blk (fun k hk => (Frame.refl t).addB (memReg_parCnt hk) _ _ _)
      (fun n hn => (Frame.refl t).addB (memReg_osPar hn) _ _ _)
  have f1 := readOnce_frame s blk
  unfold State.readBlock
  generalize s.readOnce blk = r1 at f1 ⊢
  obtain ⟨m1, s1⟩ := r1
  refine .ite_snd (fun _ => f1) fun _ => .ite_snd (fun _ => ?_) fun _ => ?_
  · exact .ite_snd (fun hs => f1.trans (parEvent_frame s1 (os := true) (fun _ => hs) 1 St.poison)) fun _ =>
      .ite_snd (fun _ => f1.trans (parEvent_frame s1 (blk := blk) (os := false) (fun e => Bool.noConfusion e) 2 St.poison)) fun _ => f1
  · have f2 := f1.trans (readOnce_frame s1 blk)
    generalize s1.readOnce blk = r2 at f2 ⊢
    obtain ⟨m2, s2⟩ := r2
    refine .ite_snd (fun _ => f2.trans ((countReplays_frame s2 blk 1).trans (replayed _))) fun _ => ?_
    have f3 := f2.trans (readOnce_frame s2 blk)
    generalize s2.readOnce blk = r3 at f3 ⊢
    obtain ⟨m3, s3⟩ := r3
    have f4 := f3.trans (countReplays_frame s3 blk 2)
    exact .ite_snd (fun _ => f4.trans (replayed _)) fun _ => f4.trans (poisonBlock_frame _ blk m1)

theorem readBlocks_frame (bs : List Nat) : Frame memReg s (s.readBlocks bs).2 := by
  induction bs generalizing s with
  | nil => exact .refl s
  | cons b bs ih => exact (readBlock_frame s b).trans (ih _)

theorem countPoison_frame (st : Nat) (bs : List Nat) : Frame memReg s (s.countPoison st bs) := by
  unfold State.countPoison
  refine .ite (fun _ => (Frame.refl s).foldl fun k hk t => (Frame.refl t).addB (memReg_cntPoison ?_) _ _ _) fun _ => .refl s
  obtain ⟨b, -, rfl⟩ := List.mem_map.1 (List.mem_dedup.1 hk)
  exact ilvStack_lt b

theorem partRead_frame (a n : Nat) : Frame memReg s (s.partRead a n).2.2 := by
  unfold State.partRead
  exact .ite_snd_snd (fun _ => readBlocks_frame s _) fun _ => readBlocks_frame s _

theorem flitNext_frame : Frame memReg s s.flitNext.2 := by
  unfold State.flitNext
  split
  · exact .refl s
  · exact (Frame.refl s).keep rfl rfl rfl

theorem flitEvent_frame (a : Nat) : Frame memReg s (s.flitEvent a) :=
  (Frame.refl s).raise (memReg_osEvt (flitDie_lt a)) _ _ _ _ _

theorem memPoison_frame (a n : Nat) : Frame memReg s (s.memPoison a n) :=
  (Frame.refl s).foldl fun _ _ t => (Frame.refl t).keep rfl rfl rfl

theorem flitWrite_frame (a n k : Nat) : Frame memReg s (s.flitWrite a n k) := by
  unfold State.flitWrite
  exact .ite (fun _ => (memPoison_frame s _ _).trans (flitEvent_frame _ a)) fun _ => .refl s

theorem flitRead_frame (a n k : Nat) : Frame memReg s (s.flitRead a n k).2 := by
  unfold State.flitRead
  exact .ite_snd (fun _ => flitEvent_frame s a) fun _ => .refl s

theorem readFlit_frame (a n st : Nat) (bs : List Byte) : Frame memReg s (s.readFlit a n st bs).2.2 := by
  have f1 := flitNext_frame s
  unfold State.readFlit
  generalize s.flitNext = r at f1 ⊢
  obtain ⟨_ | k, s1⟩ := r
  · exact f1
  · exact .ite_snd_snd (fun _ => f1.trans (flitRead_frame s1 a n k)) fun _ => f1.trans (flitRead_frame s1 a n k)

theorem writeFlit_frame (a n : Nat) : Frame memReg s (s.writeFlit a n) := by
  have f1 := flitNext_frame s
  unfold State.writeFlit
  generalize s.flitNext = r at f1 ⊢
  obtain ⟨_ | k, s1⟩ := r
  · exact f1
  · exact f1.trans (flitWrite_frame s1 a n k)

theorem mergeRead_frame (a n : Nat) : Frame memReg s (s.mergeRead a n).2 := readBlocks_frame s _

theorem memPut_frame (a : Nat) (bs : List Byte) : Frame memReg s (s.memPut a bs) := by
  refine ((Frame.refl s).foldl fun b _ t => ?_).rawWrite a bs
  refine .ite (fun _ => Frame.addB ?_ (memReg_cntWr (ilvStack_lt b)) _ _ _) fun _ => ?_
  · exact (Frame.refl t).keep rfl rfl rfl
  · exact (Frame.refl t).keep rfl rfl rfl

theorem readParts_frame (ps : List (Nat × Nat)) : Frame memReg s (s.readParts ps).2.2.2 := by
  induction ps generalizing s with
  | nil => exact .refl s
  | cons p ps ih => exact (partRead_frame s p.1 p.2).trans (ih _)

theorem writeParts_frame (ps : List (Nat × Nat)) (bs : List Byte) : Frame memReg s (s.writeParts ps bs) := by
  induction ps generalizing s bs with
  | nil => exact .refl s
  | cons p ps ih => exact (memPut_frame s p.1 _).trans (ih _ _)

theorem mergeParts_frame (ps : List (Nat × Nat)) : Frame memReg s (s.mergeParts ps).2.2 := by
  induction ps generalizing s with
  | nil => exact .refl s
  | cons p ps ih => exact (mergeRead_frame s p.1 p.2).trans (ih _)

end Memory

/-! ### Accesses of a unit -/

/-- The registers that an access of a unit can write: the memory system's, and MBX_EVT, which a read of a mailbox sets. -/
def accessReg (a : Nat) : Prop := memReg a ∨ a = Reg.MBX_EVT

section Access
variable (s : State)

theorem guestTake_frame (q : GuestAsk) : Frame accessReg s (s.guestTake q).2.2 := by
  unfold State.guestTake
  dsimp only
  split
  · exact (Frame.refl s).keep rfl rfl rfl
  · exact (Frame.refl s).keep rfl rfl rfl
  · exact .refl s

theorem guestRead_frame (m : Nat) (ps : List (Nat × Nat)) : Frame accessReg s (s.guestRead m ps).2.2 := by
  induction ps generalizing s with
  | nil => exact .refl s
  | cons p ps ih => exact (guestTake_frame s _).trans (ih _)

theorem guestPut_frame (m : Nat) (ps : List (Nat × Nat)) (bs : List Byte) : Frame accessReg s (s.guestPut m ps bs).2 := by
  induction ps generalizing s bs with
  | nil => exact .refl s
  | cons p ps ih => exact (guestTake_frame s _).trans (ih _ _)

theorem mbxDeny_frame (m k : Nat) : Frame accessReg s (s.mbxDeny m k).2 :=
  (Frame.refl s).raise (.inr rfl) _ _ _ _ _

theorem readStatus_frame (m src : Nat) (h : RegHit) : Frame accessReg s (s.readStatus m src h).2 := by
  unfold State.readStatus
  split
  case h_12 => exact .ite_snd (fun _ => .refl s) fun _ => mbxDeny_frame s _ _
  case h_13 | h_14 | h_15 => exact .ite_snd (fun _ => .refl s) fun _ => mbxDeny_frame s _ _
  all_goals exact .refl s

theorem freeField_frame (a hi lo limit : Nat) : Frame accessReg s (s.freeField a hi lo limit).2 := by
  unfold State.freeField
  exact .ite_snd (fun _ => .refl s) fun _ => (Frame.refl s).keep rfl rfl rfl

theorem regValue_frame (h : RegHit) (a : Nat) : Frame accessReg s (s.regValue h a).2 := by
  unfold State.regValue
  refine .ite_snd (fun _ => .refl s) fun _ => ?_
  dsimp only
  split
  case h_19 => exact freeField_frame s _ _ _ _
  all_goals exact .refl s

theorem ctlLoad_frame (m a n : Nat) : Frame accessReg s (s.ctlLoad m a n).2.2 := by
  unfold State.ctlLoad
  split
  · exact .refl s
  next h _ =>
    have f1 := readStatus_frame s m s.devId h
    generalize s.readStatus m s.devId h = r at f1 ⊢
    obtain ⟨st, s1⟩ := r
    exact .ite_snd_snd (fun _ => f1) fun _ => f1.trans (regValue_frame s1 h _)

theorem ctlStore_frame (m a : Nat) (bs : List Byte) : Frame accessReg s (s.ctlStore m a bs).2 := by
  unfold State.ctlStore
  split
  · exact .refl s
  next h _ =>
    refine .ite_snd (fun _ => .refl s) fun _ => ?_
    have f1 : Frame accessReg s (if h.row.writer = .ro ∨ h.row.writer = .mailbox then s.readStatus m s.devId h else (St.ok, s)).2 :=
      .ite_snd (fun _ => readStatus_frame s m s.devId h) fun _ => .refl s
    generalize (if h.row.writer = .ro ∨ h.row.writer = .mailbox then s.readStatus m s.devId h else (St.ok, s)) = r at f1 ⊢
    obtain ⟨st, s1⟩ := r
    exact .ite_snd (fun _ => f1) fun _ => f1.keep rfl rfl rfl

theorem load_frame (m a n : Nat) : Frame accessReg s (s.load m a n).2.2 := by
  unfold State.load
  refine .ite_snd_snd (fun _ => .refl s) fun _ => .ite_snd_snd (fun _ => .refl s) fun _ => ?_
  split
  · exact ctlLoad_frame s m a n
  · exact guestRead_frame s m _
  · exact ((readParts_frame s _).trans ((countPoison_frame _ _ _).trans (readFlit_frame _ _ _ _ _))).mono fun _ => .inl

theorem store_frame (m a : Nat) (bs : List Byte) : Frame accessReg s (s.store m a bs).2 := by
  unfold State.store
  refine .ite_snd (fun _ => .refl s) fun _ => ?_
  split
  · exact ctlStore_frame s m a bs
  · exact guestPut_frame s m _ bs
  · refine .ite_snd (fun _ => (countPoison_frame s St.poison _).mono fun _ => Or.inl) fun _ => ?_
    have f1 := mergeParts_frame s (s.parts a bs.length)
    generalize s.mergeParts (s.parts a bs.length) = r at f1 ⊢
    obtain ⟨st, ks, s1⟩ := r
    exact .ite_snd (fun _ => (f1.trans (countPoison_frame s1 _ _)).mono fun _ => .inl)
      fun _ => (f1.trans ((writeParts_frame s1 _ _).trans (writeFlit_frame _ _ _))).mono fun _ => .inl

end Access

end Sys2Proof.Proofs
end

section
/-!
SUPPORT. What telling a mailbox's party writes (R403): the transfers, small packets and packets to the guest that carry a notice.
-/

namespace Sys2Proof.Proofs

open Sys2Proof Sys2Proof.Machine Sys2Proof.Laws

/-! ### Requests of a unit -/

/-- The registers that a transfer or a small packet can write: those of its accesses and the fabric's events and counters. -/
def sendReg (a : Nat) : Prop :=
  accessReg a ∨ a = Reg.RTE_EVT ∨ a = Reg.FAB_EVT ∨ a = Reg.FAB_CNT_REQ ∨ a = Reg.COL_CNT_BYTES

section Send
variable (s : State)

theorem setXfer_frame (id : Nat) (x : Xfer) : Frame sendReg s (s.setXfer id x) := (Frame.refl s).keep rfl rfl rfl

theorem rteEvent_frame (ev status : Nat) : Frame sendReg s (s.rteEvent ev status) :=
  (Frame.refl s).raise (.inr (.inl rfl)) _ _ _ _ _

theorem fabEvent_frame (ev status m a : Nat) : Frame sendReg s (s.fabEvent ev status m a) :=
  (Frame.refl s).raise (.inr (.inr (.inl rfl))) _ _ _ _ _

theorem fabSend_frame (t : Nat) (r : FabReq) : Frame sendReg s (s.fabSend t r) := by
  have unrouted (ev status : Nat) (data : List Byte) :
      Frame sendReg s (((s.tagRelease t false).rteEvent ev status).fabEnd r status false data) := by
    have released : Frame sendReg s (s.tagRelease t false) := (Frame.refl s).keep rfl rfl rfl
    exact (released.trans (rteEvent_frame _ ev status)).keep rfl rfl rfl
  unfold State.fabSend
  dsimp only
  split
  · exact (Frame.refl s).keep rfl rfl rfl
  · exact unrouted _ _ _
  · exact unrouted _ _ _

theorem fabTake_frame (r : FabReq) : Frame sendReg s (s.fabTake r) := by
  unfold State.fabTake
  refine .ite (fun _ => (Frame.refl s).keep rfl rfl rfl) fun _ => ?_
  refine Frame.trans (Frame.addB ?_ (.inr (.inr (.inr (.inl rfl)))) _ _ _) (fabSend_frame _ _ r)
  exact (Frame.refl s).keep rfl rfl rfl

theorem fabIssue_frame (r : FabReq) : Frame sendReg s (s.fabIssue r) := by
  unfold State.fabIssue
  exact .ite (fun _ => fabTake_frame s r) fun _ => (fabEvent_frame s _ _ _ _).keep rfl rfl rfl

theorem sendIssue_frame (id : Nat) : Frame sendReg s (s.sendIssue id) := by
  refine Frame.trans ?_ (fabIssue_frame _ _)
  exact (Frame.refl s).keep rfl rfl rfl

theorem netSend_frame (o : Owner) (ref typ dev a : Nat) (bs : List Byte) (limit : Nat) :
    Frame sendReg s (s.netSend o ref typ dev a bs limit) := by
  unfold State.netSend
  refine .ite (fun _ => (Frame.refl s).keep rfl rfl rfl) fun _ => Frame.trans ?_ (sendIssue_frame _ _)
  exact (Frame.refl s).keep rfl rfl rfl

theorem guestIssue_frame (m typ a n op : Nat) (data : List Byte) (r : Option FabReq) :
    Frame sendReg s (s.guestIssue m typ a n op data r) := (Frame.refl s).keep rfl rfl rfl

/-- A part of a transfer to another device counts the bytes that the collective engine sends. -/
theorem countSent_frame (o : Owner) (n : Nat) :
    Frame sendReg s (match o with | .col _ => s.addB Reg.COL_CNT_BYTES 63 0 n | _ => s) := by
  split
  · exact (Frame.refl s).addB (.inr (.inr (.inr (.inr rfl)))) _ _ _
  · exact .refl s

theorem xferGo_frame (id fuel : Nat) : Frame sendReg s (s.xferGo id fuel) := by
  induction fuel generalizing s with
  | zero => exact .refl s
  | succ fuel ih =>
    have next (t : State) (x : Xfer) : Frame sendReg t ((t.setXfer id x).xferGo id fuel) := (setXfer_frame t id x).trans (ih _)
    unfold State.xferGo
    refine .ite (fun _ => .refl s) fun _ => ?_
    dsimp only
    split
    · exact setXfer_frame s id _
    next src dst len _ _ =>
      refine .ite (fun _ => next s _) fun _ => ?_
      split
      · refine .ite (fun _ => next s _) fun _ => .ite (fun _ => ?_) fun _ => fabIssue_frame s _
        refine .ite (fun _ => .refl s) fun _ => .ite (fun _ => guestIssue_frame s _ _ _ _ _ _ _) fun _ => ?_
        have loaded := (load_frame s (s.xfer id).master (gaLocal src) (partLen (if (s.xfer id).fromBytes then 0 else src) dst len)).mono
          (R := sendReg) fun _ => .inl
        revert loaded
        generalize s.load _ _ _ = r
        obtain ⟨st, bs, t⟩ := r
        exact fun loaded => .ite (fun _ => loaded.trans (setXfer_frame t id _)) fun _ => loaded.trans (next t _)
      next bs _ =>
        refine .ite (fun _ => next s _) fun _ => .ite (fun _ => ?_) fun _ => ?_
        · refine .ite (fun _ => .refl s) fun _ => .ite (fun _ => guestIssue_frame s _ _ _ _ _ _ _) fun _ => ?_
          have stored := (store_frame s (s.xfer id).master (gaLocal dst) bs).mono (R := sendReg) fun _ => .inl
          generalize s.store _ _ _ = r at stored ⊢
          obtain ⟨st, t⟩ := r
          exact .ite (fun _ => stored.trans (setXfer_frame t id _)) fun _ => stored.trans (next t _)
        · exact (setXfer_frame s id _).trans ((countSent_frame _ _ _).trans (fabIssue_frame _ _))

theorem xferStart_frame (x : Xfer) : Frame sendReg s (s.xferStart x).2 := by
  refine Frame.trans ?_ (xferGo_frame _ _ _)
  exact (Frame.refl s).keep rfl rfl rfl

end Send

/-! ### Registers alone -/

/-- From `s` to `t` only registers in `R` were written, no byte of memory, and nothing was answered or sent. -/
structure RegFrame (R : Nat → Prop) (s t : State) : Prop extends Frame R s t where
  byte : ∀ a, t.byte a = s.byte a
  out : t.out = s.out

namespace RegFrame

variable {R : Nat → Prop} {s t u : State}

theorem refl (s : State) : RegFrame R s s := ⟨.refl s, fun _ => rfl, rfl⟩

theorem trans (h : RegFrame R s t) (k : RegFrame R t u) : RegFrame R s u :=
  ⟨h.toFrame.trans k.toFrame, fun a => (k.byte a).trans (h.byte a), k.out.trans h.out⟩

theorem keep (h : RegFrame R s t) (hj : u.jnl = t.jnl) (hr : u.regs = t.regs) (hm : u.mem = t.mem) (ho : u.out = t.out) :
    RegFrame R s u :=
  ⟨h.toFrame.keep hj hr hm, fun a => (show u.byte a = t.byte a by simp only [State.byte, hj, hm]).trans (h.byte a), ho.trans h.out⟩

theorem wr {a : Nat} (h : RegFrame R s t) (ha : R a) (v : Word) : RegFrame R s (t.wr a v) :=
  ⟨h.toFrame.wr ha v, h.byte, h.out⟩

theorem raise {evt : Nat} (h : RegFrame R s t) (he : R evt) (lg blk en ev : Nat) (e : EvInfo) :
    RegFrame R s (t.raise lg blk evt en ev e) := by
  have written := h.wr he (setBit (t.rd evt) ev)
  unfold State.raise
  dsimp only
  split
  · exact written.keep rfl rfl rfl rfl
  · exact written

end RegFrame

/-! ### Notices and tokens -/

theorem rd_raise (s : State) (lg blk evt en ev : Nat) (e : EvInfo) :
    (s.raise lg blk evt en ev e).rd evt = setBit (s.rd evt) ev := by
  have written := rd_wr_same s evt (setBit (s.rd evt) ev)
  unfold State.raise
  dsimp only
  split
  · exact written
  · exact written

theorem rd_mbxEvent (s : State) (ev status m k : Nat) :
    (s.mbxEvent ev status m k).rd Reg.MBX_EVT = setBit (s.rd Reg.MBX_EVT) ev := rd_raise s _ _ _ _ _ _

theorem mbxEvent_regFrame (s : State) (ev status m k : Nat) : RegFrame (· = Reg.MBX_EVT) s (s.mbxEvent ev status m k) :=
  RegFrame.raise (R := (· = Reg.MBX_EVT)) (.refl s) rfl _ _ _ _ _

/-- The registers that a token writes (R441). -/
def tokenReg (a : Nat) : Prop := a = Reg.SEC_NONCE ∨ a = Reg.SEC_DBG_STATUS ∨ a = Reg.SEC_EVT

theorem secEvent_regFrame (s : State) (ev status : Nat) : RegFrame tokenReg s (s.secEvent ev status) :=
  (RegFrame.refl s).raise (.inr (.inr rfl)) _ _ _ _ _

theorem freshNonce_regFrame (s : State) : RegFrame tokenReg s s.freshNonce := by
  refine RegFrame.wr ?_ (.inl rfl) _
  exact (RegFrame.refl s).keep rfl rfl rfl rfl

theorem token_regFrame (s : State) (t : List Byte) : RegFrame tokenReg s (s.token t) := by
  have fresh := freshNonce_regFrame s
  unfold State.token
  dsimp only
  split
  · exact (fresh.wr (.inr (.inl rfl)) _).trans (secEvent_regFrame _ _ _)
  · exact (fresh.wr (.inr (.inl rfl)) _).trans (secEvent_regFrame _ _ _)

/-- Firmware keeps the words of a token until it is whole. -/
theorem takeToken_regFrame (s : State) (k : Nat) (t : List Byte) :
    RegFrame tokenReg s (if t.take 8 ≠ ascii "LMVDBGTK" then s
      else if t.length < 168 then { s with tokenIn := s.tokenIn.set k t [] }
      else ({ s with tokenIn := s.tokenIn.set k [] [] } : State).token (t.take 168)) := by
  split
  · exact .refl s
  · split
    · exact (RegFrame.refl s).keep rfl rfl rfl rfl
    · refine RegFrame.trans ?_ (token_regFrame _ _)
      exact (RegFrame.refl s).keep rfl rfl rfl rfl

theorem mbxToken_regFrame (s : State) (k : Nat) : RegFrame tokenReg s (s.mbxToken k) := by
  unfold State.mbxToken
  split
  · exact .refl s
  · exact takeToken_regFrame s k _

theorem mbxSettle_frame (s : State) : Frame sendReg s s.mbxSettle := by
  refine (Frame.refl s).foldl fun e _ t => ?_
  dsimp only
  split
  next st _ _ =>
    have dropped : Frame sendReg t { t with xfers := t.xfers.del e.1 } := (Frame.refl t).keep rfl rfl rfl
    exact .ite (fun _ => dropped) fun _ =>
      dropped.trans ((mbxEvent_regFrame _ _ _ _ _).toFrame.mono fun _ h => .inl (.inr h))
  · exact .refl t

/-- The registers that telling a party can write (R403): the power of the general cores' domains, and those of the notice. -/
def tellReg (a : Nat) : Prop := sendReg a ∨ a = Reg.CLK_PD_GC0 ∨ a = Reg.CLK_PD_GC1

theorem wake_regFrame (s : State) (party : Nat) : RegFrame tellReg s (s.wake party) := by
  unfold State.wake
  split
  · exact (RegFrame.refl s).wr (.inr (.inl rfl)) _
  · split
    · exact (RegFrame.refl s).wr (.inr (.inr rfl)) _
    · exact .refl s

theorem mbxTell_frame (s : State) (k party : Nat) : Frame tellReg s (s.mbxTell k party) := by
  have told : Frame tellReg s (if isMgmt party then (s.wake party).emit (.mbxIrq party k) else s.wake party) :=
    .ite (fun _ => (wake_regFrame s party).toFrame.keep rfl rfl rfl) fun _ => (wake_regFrame s party).toFrame
  unfold State.mbxTell
  dsimp only
  generalize (if isMgmt party then (s.wake party).emit (.mbxIrq party k) else s.wake party) = t at told ⊢
  refine .ite (fun _ => told) fun _ => .ite (fun _ => ?_) fun _ => ?_
  · exact told.trans (((xferStart_frame t _).trans (mbxSettle_frame _)).mono fun _ => .inl)
  · exact told.trans ((netSend_frame t _ _ _ _ _ _ _).mono fun _ => .inl)

/-- Telling a party other than the bound controller is its wake, with the interrupt of a management core. -/
theorem mbxTell_of_ne (s : State) (k : Nat) {party : Nat} (h : party ≠ 0xE8) :
    s.mbxTell k party = if isMgmt party then (s.wake party).emit (.mbxIrq party k) else s.wake party :=
  if_pos h

end Sys2Proof.Proofs
end

section
/-!
SUPPORT. Where the mailboxes' registers stand in the register index (R464): the rows before them hold no address of the mailbox block.
-/

namespace Sys2Proof.Proofs

open Sys2Proof Sys2Proof.Machine Sys2Proof.Laws

/-! ### Rows that a block of addresses misses -/

/-- No offset from `lo` to `hi` falls into a register of an array with these dimensions. -/
def dimsMiss : List (Nat × Nat) → Nat → Nat → Bool
  | [], lo, _ => decide (8 ≤ lo)
  | (c, st) :: ds, lo, hi => decide (c ≤ lo / st) || (decide (lo / st = hi / st) && dimsMiss ds (lo % st) (hi % st))
    || (decide (0 < st ∧ c ≤ lo / st + 1) && dimsMiss ds (lo % st) (st - 1))

theorem regIndex_of_dimsMiss {ds : List (Nat × Nat)} {lo hi off : Nat} (h : dimsMiss ds lo hi = true) (hlo : lo ≤ off)
    (hhi : off ≤ hi) : regIndex ds off = none := by
  induction ds generalizing lo hi off with
  | nil =>
    have : 8 ≤ lo := of_decide_eq_true h
    exact if_neg (by omega)
  | cons d ds ih =>
    obtain ⟨c, st⟩ := d
    have below : lo / st ≤ off / st := Nat.div_le_div_right hlo
    have above : off / st ≤ hi / st := Nat.div_le_div_right hhi
    have elo := Nat.div_add_mod lo st
    have eoff := Nat.div_add_mod off st
    have ehi := Nat.div_add_mod hi st
    simp only [dimsMiss, Bool.or_eq_true, decide_eq_true_eq, Bool.and_eq_true] at h
    simp only [regIndex]
    split
    next inside =>
      obtain (past | ⟨same, rest⟩) | ⟨⟨hst, last⟩, rest⟩ := h
      · omega
      · rw [show off / st = lo / st by omega] at eoff
        rw [← same] at ehi
        rw [ih rest (by omega) (by omega), Option.map_none]
      · rw [show off / st = lo / st by omega] at eoff
        have tail := Nat.mod_lt off hst
        rw [ih rest (by omega) (by omega), Option.map_none]
    · rfl

/-- No address from `lo` to `hi` is one of the row's. -/
def RegRow.misses (r : RegRow) (lo hi : Nat) : Bool :=
  decide (hi < r.base) || (decide (r.base ≤ lo) && dimsMiss r.dims (lo - r.base) (hi - r.base))

/-- A search passes over rows that miss the address. -/
theorem regFindIn_append_of_misses {rs : List RegRow} {lo hi a : Nat} (h : ∀ r ∈ rs, RegRow.misses r lo hi = true) (hlo : lo ≤ a)
    (hhi : a ≤ hi) (rest : List RegRow) : regFindIn (rs ++ rest) a = regFindIn rest a := by
  induction rs with
  | nil => rfl
  | cons r rs ih =>
    have later := ih fun r hr => h r (List.mem_cons_of_mem _ hr)
    have miss := h r List.mem_cons_self
    simp only [RegRow.misses, Bool.or_eq_true, Bool.and_eq_true, decide_eq_true_eq] at miss
    simp only [List.cons_append, regFindIn]
    rcases miss with hb | ⟨hb, hd⟩
    · rw [if_pos (by omega), later]
    · rw [if_neg (by omega), regIndex_of_dimsMiss (off := a - r.base) hd (by omega) (by omega), later]

/-! ### The rows of the mailboxes -/

def mbxDataRow : RegRow := ⟨.MBX_DATA, 0x3000043C0000, [(64, 0x100), (8, 0x8)], false, 0x0, .mailbox, 0xFFFFFFFFFFFFFFFF, 0x0, []⟩
def mbxSendRow : RegRow := ⟨.MBX_SEND, 0x3000043C0040, [(64, 0x100)], false, 0x0, .mailbox, 0x0, 0x0, []⟩
def mbxAckRow : RegRow := ⟨.MBX_ACK, 0x3000043C0048, [(64, 0x100)], false, 0x0, .mailbox, 0x0, 0x0, []⟩
def mbxStatusRow : RegRow := ⟨.MBX_STATUS, 0x3000043C0050, [(64, 0x100)], false, 0x0, .ro, 0x0, 0x0, []⟩
def mbxBindRow : RegRow := ⟨.MBX_BIND, 0x3000043C4000, [(64, 0x8)], false, 0x0, .mgmt, 0x3FFFF01FFFF, 0x0, []⟩
def mbxNotifyRow : RegRow := ⟨.MBX_NOTIFY, 0x3000043C4200, [(64, 0x8)], false, 0x0, .mgmt, 0xFFFFFFFFFFFFFFF8, 0x0, []⟩
def mbxLockRow : RegRow := ⟨.MBX_LOCK, 0x3000043C4400, [], false, 0x0, .mgmt, 0x1, 0x0, []⟩

/-- How many rows stand before those of the mailboxes. -/
def mbxRowsAt : Nat := 284

theorem regRows_mailbox : regRows.drop mbxRowsAt
    = mbxDataRow :: mbxSendRow :: mbxAckRow :: mbxStatusRow :: mbxBindRow :: mbxNotifyRow :: mbxLockRow
      :: regRows.drop (mbxRowsAt + 7) := by decide +kernel

theorem rows_before_mailbox : ∀ r ∈ regRows.take mbxRowsAt, RegRow.misses r (Reg.MBX_DATA 0 0) (Reg.MBX_LOCK + 7) = true := by
  decide +kernel

theorem regFind_mailboxes {a : Nat} (h0 : Reg.MBX_DATA 0 0 ≤ a) (h1 : a ≤ Reg.MBX_LOCK + 7) :
    regFind a = regFindIn (mbxDataRow :: mbxSendRow :: mbxAckRow :: mbxStatusRow :: mbxBindRow :: mbxNotifyRow :: mbxLockRow
      :: regRows.drop (mbxRowsAt + 7)) a := by
  rw [← regRows_mailbox, ← regFindIn_append_of_misses rows_before_mailbox h0 h1, List.take_append_drop]
  rfl

theorem isCtl_mailboxes {a : Nat} (h0 : Reg.MBX_DATA 0 0 ≤ a) (h1 : a ≤ Reg.MBX_LOCK + 7) : isCtl a = true := by
  have hp : placeOf a = .ctl ((a - 0x300000000000) / 0x1000000) ((a - 0x300000000000) % 0x1000000) := by
    unfold Reg.MBX_DATA ctlBase at h0
    unfold Reg.MBX_LOCK ctlBase at h1
    unfold placeOf lpddrBytes
    rw [if_neg (by omega), if_neg (by omega), if_neg (by omega), if_pos (by omega)]
    exact if_neg (by omega)
  simp only [isCtl, hp]

/-- An address in element `q` of a plain array. -/
theorem regIndex_array {c st off q b : Nat} (hq : q < c) (hb : b < 8) (hst : 8 ≤ st) (ho : off = st * q + b) :
    regIndex [(c, st)] off = some ([q], b) := by
  have hdiv : off / st = q := by
    rw [ho, Nat.mul_add_div (by omega), Nat.div_eq_of_lt (by omega), Nat.add_zero]
  have hmod : off % st = b := by rw [ho, Nat.mul_add_mod, Nat.mod_eq_of_lt (by omega)]
  simp only [regIndex, hdiv, hmod, if_pos hq, if_pos hb, Option.map_some]

/-- An offset that lies past the register in its element of a plain array. -/
theorem regIndex_past {c st off : Nat} (h : 8 ≤ off % st) : regIndex [(c, st)] off = none := by
  simp only [regIndex, if_neg (show ¬off % st < 8 by omega), Option.map_none, ite_self]

/-- A search ends at the first row that the address falls into. -/
theorem regFindIn_here {r : RegRow} {rs : List RegRow} {a b : Nat} {ix : List Nat} (hb : r.base ≤ a) (hh : r.hubIx = false)
    (hi : regIndex r.dims (a - r.base) = some (ix, b)) : regFindIn (r :: rs) a = some ⟨r, ix, b⟩ := by
  rw [regFindIn, if_neg (by omega), hi]
  simp only [hh, Bool.false_eq_true, if_false]

/-- A search passes over a row that the address does not fall into. -/
theorem regFindIn_skip {r : RegRow} {rs : List RegRow} {a : Nat} (hi : a < r.base ∨ regIndex r.dims (a - r.base) = none) :
    regFindIn (r :: rs) a = regFindIn rs a := by
  rw [regFindIn]
  split
  · rfl
  · rw [hi.resolve_left ‹_›]

section Channel
variable {k o b : Nat} (hk : k < 64) (hb : b < 8)
include hk hb

theorem mbxWord_block (ho : o < 11) : Reg.MBX_DATA 0 0 ≤ Reg.MBX_DATA k o + b ∧ Reg.MBX_DATA k o + b ≤ Reg.MBX_LOCK + 7 := by
  unfold Reg.MBX_DATA Reg.MBX_LOCK
  omega

theorem mbxWord_channel (ho : o < 11) : (Reg.MBX_DATA k o + b - 0x3000043C0000) / 0x100 = k
    ∧ (Reg.MBX_DATA k o + b - 0x3000043C0000) % 0x100 = 8 * o + b := by
  unfold Reg.MBX_DATA ctlBase
  omega

theorem regFind_mbxData (ho : o < 8) : regFind (Reg.MBX_DATA k o + b) = some ⟨mbxDataRow, [k, o], b⟩ := by
  obtain ⟨lo, hi⟩ := mbxWord_block hk hb (o := o) (by omega)
  obtain ⟨hdiv, hmod⟩ := mbxWord_channel hk hb (o := o) (by omega)
  rw [regFind_mailboxes lo hi]
  refine regFindIn_here lo rfl ?_
  rw [mbxDataRow, regIndex]
  dsimp only
  rw [hdiv, hmod, if_pos hk, regIndex_array ho hb le_rfl rfl]
  rfl

theorem regFind_past_mbxData (h8 : 8 ≤ o) (ho : o < 11) : regFind (Reg.MBX_DATA k o + b)
    = regFindIn (mbxSendRow :: mbxAckRow :: mbxStatusRow :: mbxBindRow :: mbxNotifyRow :: mbxLockRow :: regRows.drop (mbxRowsAt + 7))
        (Reg.MBX_DATA k o + b) := by
  obtain ⟨lo, hi⟩ := mbxWord_block hk hb ho
  obtain ⟨hdiv, hmod⟩ := mbxWord_channel hk hb ho
  rw [regFind_mailboxes lo hi]
  refine regFindIn_skip (.inr ?_)
  rw [mbxDataRow, regIndex]
  dsimp only
  rw [hdiv, hmod, if_pos hk, regIndex, if_neg (by omega)]
  rfl

omit hk in
/-- The offset of a word in an array of one register for each channel. -/
theorem mbxWord_offset (r : RegRow) {p : Nat} (hr : r.base = 0x3000043C0000 + 8 * p) (hp : p ≤ o) :
    r.base ≤ Reg.MBX_DATA k o + b ∧ Reg.MBX_DATA k o + b - r.base = 0x100 * k + (8 * (o - p) + b) := by
  unfold Reg.MBX_DATA ctlBase
  omega

theorem mbxWord_here {r : RegRow} {rs : List RegRow} (hd : r.dims = [(64, 0x100)]) (hh : r.hubIx = false)
    (hr : r.base = 0x3000043C0000 + 8 * o) : regFindIn (r :: rs) (Reg.MBX_DATA k o + b) = some ⟨r, [k], b⟩ := by
  obtain ⟨lo, off⟩ := mbxWord_offset (k := k) hb r hr le_rfl
  refine regFindIn_here lo hh ?_
  rw [hd]
  exact regIndex_array hk hb (by omega) (by omega)

omit hk in
theorem mbxWord_skip {r : RegRow} {rs : List RegRow} {p : Nat} (hd : r.dims = [(64, 0x100)])
    (hr : r.base = 0x3000043C0000 + 8 * p) (hp : p < o) (ho : o < 11) :
    regFindIn (r :: rs) (Reg.MBX_DATA k o + b) = regFindIn rs (Reg.MBX_DATA k o + b) := by
  obtain ⟨lo, off⟩ := mbxWord_offset (k := k) hb r hr hp.le
  refine regFindIn_skip (.inr ?_)
  rw [hd]
  exact regIndex_past (by omega)

theorem regFind_mbxSend : regFind (Reg.MBX_DATA k 8 + b) = some ⟨mbxSendRow, [k], b⟩ := by
  rw [regFind_past_mbxData hk hb le_rfl (by decide)]
  exact mbxWord_here hk hb rfl rfl rfl

theorem regFind_mbxAck : regFind (Reg.MBX_DATA k 9 + b) = some ⟨mbxAckRow, [k], b⟩ := by
  rw [regFind_past_mbxData hk hb (by decide) (by decide), mbxWord_skip hb rfl (p := 8) rfl (by decide) (by decide)]
  exact mbxWord_here hk hb rfl rfl rfl

theorem regFind_mbxStatus : regFind (Reg.MBX_DATA k 10 + b) = some ⟨mbxStatusRow, [k], b⟩ := by
  rw [regFind_past_mbxData hk hb (by decide) (by decide), mbxWord_skip hb rfl (p := 8) rfl (by decide) (by decide),
    mbxWord_skip hb rfl (p := 9) rfl (by decide) (by decide)]
  exact mbxWord_here hk hb rfl rfl rfl

end Channel

theorem regFind_mbxBind {k : Nat} (hk : k < 64) : regFind (Reg.MBX_BIND k) = some ⟨mbxBindRow, [k], 0⟩ := by
  have miss : ∀ r ∈ [mbxDataRow, mbxSendRow, mbxAckRow, mbxStatusRow], RegRow.misses r (Reg.MBX_BIND 0) (Reg.MBX_BIND 63) = true := by
    decide
  have lo : Reg.MBX_BIND 0 ≤ Reg.MBX_BIND k := by unfold Reg.MBX_BIND; omega
  have hi : Reg.MBX_BIND k ≤ Reg.MBX_BIND 63 := by unfold Reg.MBX_BIND; omega
  rw [regFind_mailboxes (le_trans (by decide) lo) (le_trans hi (by decide))]
  refine (regFindIn_append_of_misses miss lo hi _).trans (regFindIn_here lo rfl ?_)
  refine regIndex_array hk (by decide) le_rfl ?_
  show Reg.MBX_BIND k - 0x3000043C4000 = 8 * k + 0
  unfold Reg.MBX_BIND ctlBase
  omega

/-- An address among the words of a channel. -/
theorem mbxWord_of_mem {k a n : Nat} (h0 : Reg.MBX_DATA k 0 ≤ a) (h1 : a < Reg.MBX_DATA k 0 + 8 * n) :
    ∃ o b, o < n ∧ b < 8 ∧ a = Reg.MBX_DATA k o + b := by
  refine ⟨(a - Reg.MBX_DATA k 0) / 8, (a - Reg.MBX_DATA k 0) % 8, ?_⟩
  unfold Reg.MBX_DATA at *
  omega

theorem mbxSend_eq (k : Nat) : Reg.MBX_SEND k = Reg.MBX_DATA k 8 + 0 := by
  unfold Reg.MBX_SEND Reg.MBX_DATA; omega
theorem mbxAck_eq (k : Nat) : Reg.MBX_ACK k = Reg.MBX_DATA k 9 + 0 := by
  unfold Reg.MBX_ACK Reg.MBX_DATA; omega

theorem regFind_mbxLock : regFind Reg.MBX_LOCK = some ⟨mbxLockRow, [], 0⟩ := by decide +kernel

end Sys2Proof.Proofs
end

section
/-!
SUPPORT. The mailboxes' registers (R400 to R402): where they stand, and what the bus does with an access to one.
-/

namespace Sys2Proof.Proofs

open Sys2Proof Sys2Proof.Machine Sys2Proof.Laws

theorem writeAdmit_mailbox {s : State} {m src : Nat} {h : RegHit} (hw : h.row.writer = .mailbox) : s.writeAdmit m src h = .yes := by
  unfold State.writeAdmit
  split
  · rfl
  · simp only [hw]

/-! ### Refusals (R401, R402) -/

section Refused
variable {s : State} {k m src : Nat}

/-- A write by the sender is refused while the channel is PENDING. -/
theorem mbxRefused_sender (hv : s.mbxValid k = true) (hs : s.mbxIs k (s.mbxSender k) m src = true) :
    s.mbxRefused k m src = if s.mbxState k = 1 then some (St.qfull, s.mbxEvent 1 St.qfull m k) else none := by
  simp [State.mbxRefused, hv, hs]

/-- A write by another master is denied, with QFULL while the channel is PENDING. -/
theorem mbxRefused_other (h : (s.mbxValid k && s.mbxIs k (s.mbxSender k) m src) = false) :
    s.mbxRefused k m src = some (if s.mbxState k = 1 then (St.qfull, (s.mbxDeny m k).2.mbxEvent 1 St.qfull m k)
      else s.mbxDeny m k) := by
  have hd : (!s.mbxValid k || !s.mbxIs k (s.mbxSender k) m src) = true := by
    rw [← Bool.not_and, h]; rfl
  simp only [State.mbxRefused, hd, if_true]
  split <;> rfl

/-- A refused write of MBX_DATA or MBX_SEND changes no mailbox register but MBX_EVT. -/
theorem mbxRefused_regFrame {r : Nat × State} (h : s.mbxRefused k m src = some r) : RegFrame (· = Reg.MBX_EVT) s r.2 := by
  have busy (t : State) := mbxEvent_regFrame t 1 St.qfull m k
  have deny : RegFrame (· = Reg.MBX_EVT) s (s.mbxDeny m k).2 := mbxEvent_regFrame s _ _ _ _
  unfold State.mbxRefused at h
  dsimp only at h
  split at h
  · cases h
    split
    · exact deny.trans (busy _)
    · exact busy s
  · split at h
    · cases h; exact deny
    · cases h

theorem mbxStatus_ne_evt (k : Nat) : Reg.MBX_STATUS k ≠ Reg.MBX_EVT := by
  unfold Reg.MBX_STATUS Reg.MBX_EVT; omega

end Refused

/-! ### The effect of a write -/

/-- The effect of a write of MBX_SEND: the message, and the token that firmware takes from it (R441). -/
def sendEffect (s : State) (k m src : Nat) (v : Word) : Nat × State :=
  let r := s.mbxSend k m src v
  (r.1, if s.mbxState k ≠ 1 ∧ r.2.mbxState k = 1 then r.2.mbxToken k else r.2)

theorem sendEffect_refused {s : State} {k m src : Nat} {r : Nat × State} (h : s.mbxRefused k m src = some r) (v : Word) :
    sendEffect s k m src v = r := by
  have state : r.2.mbxState k = s.mbxState k := by
    unfold State.mbxState State.rdB
    rw [(mbxRefused_regFrame h).rd _ (mbxStatus_ne_evt k)]
  have hr : s.mbxSend k m src v = r := by simp only [State.mbxSend, h]
  simp only [sendEffect, hr, state, ne_eq, not_and_self, if_false]

theorem mbxData_refused {s : State} {k m src : Nat} {r : Nat × State} (h : s.mbxRefused k m src = some r) (i : Nat) (v : Word) :
    s.mbxData k i m src v = r := by rw [State.mbxData, h]; rfl

theorem mbxAck_other {s : State} {k m src : Nat} (h : (s.mbxValid k && s.mbxIs k (s.mbxReceiver k) m src) = false) (v : Word) :
    s.mbxAck k m src v = s.mbxDeny m k := by
  have hd : (!s.mbxValid k || !s.mbxIs k (s.mbxReceiver k) m src) = true := by
    rw [← Bool.not_and, h]; rfl
  simp only [State.mbxAck, hd, if_true]

section Effect
variable {s : State} {m src a : Nat} {h : RegHit} {new : Word} {j : Nat} {v : Word}
  (hx : s.fieldNew a (v &&& halfMask j) (halfMask j) = some new)
include hx

theorem regEffect_mbxData (hn : h.row.name = .MBX_DATA) :
    s.regEffect m src h a j v = s.mbxData (h.i 0) (h.i 1) m src new := by
  simp only [State.regEffect, hx, hn]

theorem regEffect_mbxSend (hn : h.row.name = .MBX_SEND) :
    s.regEffect m src h a j v = sendEffect s (h.i 0) m src (v &&& halfMask j) := by
  simp only [State.regEffect, hx, hn, sendEffect]

theorem regEffect_mbxAck (hn : h.row.name = .MBX_ACK) :
    s.regEffect m src h a j v = s.mbxAck (h.i 0) m src (v &&& halfMask j) := by
  simp only [State.regEffect, hx, hn]

theorem regEffect_mbxBind (hn : h.row.name = .MBX_BIND) :
    s.regEffect m src h a j v = if s.rdB Reg.MBX_LOCK 0 0 = 1 then (St.denied, s) else (St.ok, s.wr a new) := by
  simp only [State.regEffect, hx, hn]

end Effect

/-- A register without ranges takes every value. -/
theorem fieldNew_of_noRanges {s : State} {a : Nat} {h : RegHit} (hf : regFind a = some h) (hr : h.row.ranges = []) (v m : Word) :
    s.fieldNew (h.addr a) v m = some (written h.row (s.rd (h.addr a)) v m) := by
  obtain ⟨h', hf', hrow⟩ := regFind_addr hf
  rw [fieldNew_of_find hf', hrow, if_pos (inRange_of_no_ranges hr _)]

/-- The bus admits every write of a mailbox's own registers; they decide by themselves. -/
theorem regWrite_mailbox {s : State} {m src a : Nat} {h : RegHit} {bs : List Byte} (hf : regFind a = some h)
    (ha : regAligned a bs.length = true) (hd : m ≠ 0xE4) (hw : h.row.writer = .mailbox) (hs : stageReg h.row.name = false) :
    s.regWrite m src a bs
      = s.regEffect m src h (h.addr a) (partOf bs.length h.byte) (w (ofBytes bs * 2 ^ (8 * h.byte))) :=
  regWrite_effect hf ha hd (writeAdmit_mailbox hw) fun e => by rw [hs] at e; cases e

/-! ### Accesses by a master that is no party -/

theorem readStatus_mbxData {s : State} {m src : Nat} {h : RegHit} (hn : h.row.name = .MBX_DATA) :
    s.readStatus m src h = if s.mbxValid (h.i 0) && (s.mbxIs (h.i 0) (s.mbxSender (h.i 0)) m src
      || s.mbxIs (h.i 0) (s.mbxReceiver (h.i 0)) m src) then (St.ok, s) else s.mbxDeny m (h.i 0) := by
  simp only [State.readStatus, hn]

theorem readStatus_mbxCtl {s : State} {m src : Nat} {h : RegHit} (hv : s.mbxValid (h.i 0) = false)
    (hn : h.row.name = .MBX_SEND ∨ h.row.name = .MBX_ACK ∨ h.row.name = .MBX_STATUS) :
    s.readStatus m src h = s.mbxDeny m (h.i 0) := by
  rcases hn with hn | hn | hn <;> simp only [State.readStatus, hn, hv, Bool.false_eq_true, if_false]

section Other
variable {s : State} {k m src b : Nat} (hk : k < 64) (hb : b < 8) (hd : m ≠ 0xE4)
include hk hb hd

section Write
variable {bs : List Byte} {o : Nat} (ha : regAligned (Reg.MBX_DATA k o + b) bs.length = true)
include ha

/-- A write of MBX_DATA or MBX_SEND by another master than the sender. -/
theorem regWrite_notSender (ho : o < 9) (hs : (s.mbxValid k && s.mbxIs k (s.mbxSender k) m src) = false) :
    s.regWrite m src (Reg.MBX_DATA k o + b) bs
      = if s.mbxState k = 1 then (St.qfull, (s.mbxDeny m k).2.mbxEvent 1 St.qfull m k) else s.mbxDeny m k := by
  have refused := mbxRefused_other hs
  rcases Nat.lt_succ_iff_lt_or_eq.1 ho with hlt | rfl
  · have hf := regFind_mbxData hk hb hlt
    rw [regWrite_mailbox hf ha hd rfl rfl,
      regEffect_mbxData (fieldNew_of_noRanges hf rfl _ _) rfl]
    exact mbxData_refused refused _ _
  · have hf := regFind_mbxSend hk hb
    rw [regWrite_mailbox hf ha hd rfl rfl,
      regEffect_mbxSend (fieldNew_of_noRanges hf rfl _ _) rfl]
    exact sendEffect_refused refused _

/-- A write of MBX_ACK by another master than the receiver. -/
theorem regWrite_notReceiver (ho : o = 9) (hr : (s.mbxValid k && s.mbxIs k (s.mbxReceiver k) m src) = false) :
    s.regWrite m src (Reg.MBX_DATA k o + b) bs = s.mbxDeny m k := by
  subst ho
  have hf := regFind_mbxAck hk hb
  rw [regWrite_mailbox hf ha hd rfl rfl,
    regEffect_mbxAck (fieldNew_of_noRanges hf rfl _ _) rfl]
  exact mbxAck_other hr _

/-- A write of MBX_STATUS of a channel that is not valid. -/
theorem regWrite_statusInvalid (ho : o = 10) (hv : s.mbxValid k = false) :
    s.regWrite m src (Reg.MBX_DATA k o + b) bs = s.mbxDeny m k := by
  subst ho
  have hf := regFind_mbxStatus hk hb
  have ignored : s.writeAdmit m src ⟨mbxStatusRow, [k], b⟩ = .ignored := rfl
  rw [regWrite_readOnly hf ha hd ignored rfl]
  exact readStatus_mbxCtl hv (.inr (.inr rfl))

end Write

section Read
variable {n o : Nat} (ha : regAligned (Reg.MBX_DATA k o + b) n = true)
include ha

omit hk hb in
theorem regRead_of_deny {h : RegHit} (hf : regFind (Reg.MBX_DATA k o + b) = some h)
    (hr : s.readStatus m src h = s.mbxDeny m k) :
    s.regRead m src (Reg.MBX_DATA k o + b) n = ((s.mbxDeny m k).1, [], (s.mbxDeny m k).2) := by
  simp [State.regRead, ha, hd, hf, hr, State.mbxDeny, St.denied]

/-- A read of MBX_DATA by a master that is neither party of a valid channel. -/
theorem regRead_notParty (ho : o < 8)
    (h : (s.mbxValid k && (s.mbxIs k (s.mbxSender k) m src || s.mbxIs k (s.mbxReceiver k) m src)) = false) :
    s.regRead m src (Reg.MBX_DATA k o + b) n = ((s.mbxDeny m k).1, [], (s.mbxDeny m k).2) := by
  refine regRead_of_deny hd ha (regFind_mbxData hk hb ho) ((readStatus_mbxData rfl).trans (if_neg ?_))
  exact (Bool.eq_false_iff.1 h)

theorem regRead_invalid (ho : o < 11) (hv : s.mbxValid k = false) :
    s.regRead m src (Reg.MBX_DATA k o + b) n = ((s.mbxDeny m k).1, [], (s.mbxDeny m k).2) := by
  have ctl {h : RegHit} (hf : regFind (Reg.MBX_DATA k o + b) = some h) (hi : h.i 0 = k)
      (hn : h.row.name = .MBX_SEND ∨ h.row.name = .MBX_ACK ∨ h.row.name = .MBX_STATUS) :=
    regRead_of_deny (s := s) (src := src) hd ha hf ((readStatus_mbxCtl (hi ▸ hv) hn).trans (by rw [hi]))
  obtain hlt | rfl | rfl | rfl : o < 8 ∨ o = 8 ∨ o = 9 ∨ o = 10 := by omega
  · exact regRead_notParty hk hb hd ha hlt (by rw [hv, Bool.false_and])
  · exact ctl (regFind_mbxSend hk hb) rfl (.inl rfl)
  · exact ctl (regFind_mbxAck hk hb) rfl (.inr (.inl rfl))
  · exact ctl (regFind_mbxStatus hk hb) rfl (.inr (.inr rfl))

end Read

end Other

end Sys2Proof.Proofs
end

section
/-!
SUPPORT. The effects of the mailbox registers (R400 to R403): a send, an acknowledgement, and the telling of a party.
-/

namespace Sys2Proof.Proofs

open Sys2Proof Sys2Proof.Machine Sys2Proof.Laws

/-! ### What stays of the mailboxes while a party is told -/

section Block
variable {a : Nat} (h0 : Reg.MBX_DATA 0 0 ≤ a) (h1 : a < Reg.MBX_EVT)
include h0 h1

theorem not_tellReg_of_mailbox : ¬tellReg a := by
  unfold tellReg sendReg accessReg memReg
  unfold Reg.MBX_DATA at h0
  unfold Reg.MBX_EVT at h1
  unfold Reg.MEM_STK_ID Reg.MEM_CFG Reg.MBX_EVT Reg.RTE_EVT Reg.FAB_EVT Reg.FAB_CNT_REQ Reg.COL_CNT_BYTES Reg.CLK_PD_GC0 Reg.CLK_PD_GC1
    ctlBase at *
  omega

theorem not_tokenReg_of_mailbox : ¬tokenReg a := by
  unfold tokenReg
  unfold Reg.MBX_DATA at h0
  unfold Reg.MBX_EVT at h1
  unfold Reg.SEC_NONCE Reg.SEC_DBG_STATUS Reg.SEC_EVT ctlBase at *
  omega

end Block

theorem mbxStatus_block {k : Nat} (hk : k < 64) : Reg.MBX_DATA 0 0 ≤ Reg.MBX_STATUS k ∧ Reg.MBX_STATUS k < Reg.MBX_EVT := by
  unfold Reg.MBX_DATA Reg.MBX_STATUS Reg.MBX_EVT
  omega

theorem mbxPend_block : Reg.MBX_DATA 0 0 ≤ Reg.MBX_PEND ∧ Reg.MBX_PEND < Reg.MBX_EVT := by decide

/-! ### What a command leaves -/

section Commit
variable {R : Nat → Prop} {s t : State} (hc : s.Canonical) (h : Frame R s t) (st : Nat)
include hc h

theorem commit_answer_rd (a : Nat) : (s.commit (t.answer st 0)).rd a = t.rd a := commit_rd_eq hc (s := t.answer st 0) h.regs a

theorem commit_answer_byte (a : Nat) : (s.commit (t.answer st 0)).byte a = t.byte a :=
  commit_byte_eq hc (s := t.answer st 0) h.mem a

end Commit

/-! ### Telling a party (R403) -/

/-- A party has been told: a general core's domain is powered, a management core has its interrupt, and no byte of memory changed but
by the notice of a controller. -/
def mbxTold (s t : State) (k party : Nat) : Prop :=
  (party < 64 → bit (t.rd Reg.CLK_PD_GC0) party = true)
    ∧ (64 ≤ party → party < 128 → bit (t.rd Reg.CLK_PD_GC1) (party - 64) = true)
    ∧ (isMgmt party = true → .mbxIrq party k ∈ t.out) ∧ (party ≠ 0xE8 → ∀ a, t.byte a = s.byte a)

theorem mbxTell_gc (s : State) (k : Nat) {party : Nat} (h : party < 128) : s.mbxTell k party = s.wake party := by
  have core : isMgmt party = false := by simp [isMgmt]; omega
  rw [mbxTell_of_ne s k (by omega), core]
  rfl

theorem mbxTell_told (s : State) (k party : Nat) : mbxTold s (s.mbxTell k party) k party := by
  refine ⟨fun h => ?_, fun h0 h1 => ?_, fun h => ?_, fun h a => ?_⟩
  · rw [mbxTell_gc s k (by omega), State.wake, if_pos h, rd_wr_same, bit_setBit _ h]
  · rw [mbxTell_gc s k h1, State.wake, if_neg (by omega), if_pos h1, rd_wr_same, bit_setBit _ (by omega)]
  · have other : party ≠ 0xE8 := by rintro rfl; exact absurd h (by decide)
    rw [mbxTell_of_ne s k other, if_pos h]
    exact List.mem_append_right _ List.mem_cons_self
  · rw [mbxTell_of_ne s k h]
    split
    · exact (wake_regFrame s party).byte a
    · exact (wake_regFrame s party).byte a

/-- A token that firmware takes, and the answer, leave a party told. -/
theorem mbxTold_commit {R : Nat → Prop} {s u t t' : State} {k party : Nat} (hc : s.Canonical) (hu : RegFrame R s u)
    (h : mbxTold u t k party) (hf : Frame tellReg u t) (ht : RegFrame tokenReg t t') (st : Nat) :
    mbxTold s (s.commit (t'.answer st 0)) k party := by
  have frame : Frame (fun _ => True) s t' :=
    ((hu.toFrame.mono fun _ _ => trivial).trans (hf.mono fun _ _ => trivial)).trans (ht.toFrame.mono fun _ _ => trivial)
  have pd0 : ¬tokenReg Reg.CLK_PD_GC0 := by unfold tokenReg; decide
  have pd1 : ¬tokenReg Reg.CLK_PD_GC1 := by unfold tokenReg; decide
  obtain ⟨gc0, gc1, irq, byte⟩ := h
  refine ⟨fun h => ?_, fun h0 h1 => ?_, fun h => ?_, fun h a => ?_⟩
  · rw [commit_answer_rd hc frame, ht.rd _ pd0]
    exact gc0 h
  · rw [commit_answer_rd hc frame, ht.rd _ pd1]
    exact gc1 h0 h1
  · rw [commit_out, answer_out, ht.out]
    exact List.mem_append_left _ (irq h)
  · rw [commit_answer_byte hc frame, ht.byte, byte h, hu.byte]

/-! ### A send and an acknowledgement -/

/-- The registers that a channel's step writes. -/
def channelReg (k a : Nat) : Prop := a = Reg.MBX_STATUS k ∨ a = Reg.MBX_PEND

/-- The channel after a send of `n` words (R402). -/
def mbxSent (s : State) (k n : Nat) : State :=
  let u := ((s.wrB (Reg.MBX_STATUS k) 1 0 1).wrB (Reg.MBX_STATUS k) 11 8 n).addB (Reg.MBX_STATUS k) 63 32 1
  u.wr Reg.MBX_PEND (setBit (u.rd Reg.MBX_PEND) k)

/-- The channel after an acknowledgement with code `n` (R402). -/
def mbxAcked (s : State) (k n : Nat) : State :=
  let u := (s.wrB (Reg.MBX_STATUS k) 1 0 2).wrB (Reg.MBX_STATUS k) 31 16 n
  u.wr Reg.MBX_PEND (clrBit (u.rd Reg.MBX_PEND) k)

section Channel
variable (s : State) {k : Nat} (n : Nat)

theorem mbxPend_ne_status (k : Nat) : Reg.MBX_PEND ≠ Reg.MBX_STATUS k := by
  unfold Reg.MBX_PEND Reg.MBX_STATUS; omega

theorem mbxSent_regFrame : RegFrame (channelReg k) s (mbxSent s k n) :=
  ((((RegFrame.refl s).wr (.inl rfl) _).wr (.inl rfl) _).wr (.inl rfl) _).wr (.inr rfl) _

theorem mbxAcked_regFrame : RegFrame (channelReg k) s (mbxAcked s k n) :=
  (((RegFrame.refl s).wr (.inl rfl) _).wr (.inl rfl) _).wr (.inr rfl) _

theorem mbxSent_status : (mbxSent s k n).mbxState k = 1 ∧ bits ((mbxSent s k n).rd (Reg.MBX_STATUS k)) 11 8 = n % 16 := by
  simp only [mbxSent, State.mbxState, State.rdB, State.addB, State.wrB, rd_wr, if_neg (mbxPend_ne_status k), if_true]
  constructor
  · rw [bits_putBits_other _ _ (by decide) (by decide) (by decide), bits_putBits_other _ _ (by decide) (by decide) (by decide),
      bits_putBits _ _ (by decide) (by decide)]
    rfl
  · rw [bits_putBits_other _ _ (by decide) (by decide) (by decide), bits_putBits _ _ (by decide) (by decide)]
    rfl

theorem mbxAcked_status : (mbxAcked s k n).mbxState k = 2 ∧ bits ((mbxAcked s k n).rd (Reg.MBX_STATUS k)) 31 16 = n % 2 ^ 16 := by
  simp only [mbxAcked, State.mbxState, State.rdB, State.wrB, rd_wr, if_neg (mbxPend_ne_status k), if_true]
  constructor
  · rw [bits_putBits_other _ _ (by decide) (by decide) (by decide), bits_putBits _ _ (by decide) (by decide)]
    rfl
  · exact bits_putBits _ _ (by decide) (by decide)

theorem bit_clrBit (v : Word) {i : Nat} (hi : i < 64) : bit (clrBit v i) i = false := by
  have place : bit (BitVec.ofNat 64 (2 ^ i)) i = true := by
    rw [← w, bit_w _ hi, Nat.testBit_two_pow_self]
  rw [clrBit, bit_and, bit_not _ hi, place, Bool.not_true, Bool.and_false]

theorem mbxSent_pend (hk : k < 64) : bit ((mbxSent s k n).rd Reg.MBX_PEND) k = true := by
  rw [mbxSent, rd_wr_same, bit_setBit _ hk]

theorem mbxAcked_pend (hk : k < 64) : bit ((mbxAcked s k n).rd Reg.MBX_PEND) k = false := by
  rw [mbxAcked, rd_wr_same, bit_clrBit _ hk]

theorem not_channelReg_bind {k : Nat} (hk : k < 64) : ¬channelReg k (Reg.MBX_BIND k) := by
  unfold channelReg Reg.MBX_BIND Reg.MBX_STATUS Reg.MBX_PEND
  omega

theorem mbxParties_of_channelReg {t : State} (hk : k < 64) (h : Frame (channelReg k) s t) :
    t.mbxSender k = s.mbxSender k ∧ t.mbxReceiver k = s.mbxReceiver k := by
  simp only [State.mbxSender, State.mbxReceiver, State.rdB, h.rd _ (not_channelReg_bind hk), and_self]

end Channel

/-- A message that the sender posts. -/
theorem mbxSend_go {s : State} {k m src : Nat} {v : Word} (hk : k < 64) (h : s.mbxRefused k m src = none) (hg : bit v 63 = true)
    (h1 : 1 ≤ bits v 3 0) (h8 : bits v 3 0 ≤ 8) :
    s.mbxSend k m src v = (St.ok, (mbxSent s k (bits v 3 0)).mbxTell k (s.mbxReceiver k)) := by
  have go : (!bit v 63 || bits v 3 0 == 0 || decide (8 < bits v 3 0)) = false := by simp [hg]; omega
  have party := (mbxParties_of_channelReg s hk (mbxSent_regFrame s (k := k) (bits v 3 0)).toFrame).2
  rw [← party]
  simp only [State.mbxSend, h, go, mbxSent, Bool.false_eq_true, if_false]

/-- Without GO, or with a number of words that no message has, a send does nothing. -/
theorem sendEffect_idle {s : State} {k m src : Nat} {v : Word} (h : s.mbxRefused k m src = none)
    (hg : bit v 63 = false ∨ bits v 3 0 = 0 ∨ 8 < bits v 3 0) : sendEffect s k m src v = (St.ok, s) := by
  have idle : (!bit v 63 || bits v 3 0 == 0 || decide (8 < bits v 3 0)) = true := by
    rcases hg with h | h | h <;> simp [h]
  have same : s.mbxSend k m src v = (St.ok, s) := by simp only [State.mbxSend, h, idle, if_true]
  simp only [sendEffect, same, ne_eq, not_and_self, if_false]

/-- Telling a party leaves the channel as it is. -/
theorem mbxTell_state (u : State) {k : Nat} (hk : k < 64) (party : Nat) : (u.mbxTell k party).mbxState k = u.mbxState k := by
  obtain ⟨lo, hi⟩ := mbxStatus_block hk
  simp only [State.mbxState, State.rdB, (mbxTell_frame u k party).rd _ (not_tellReg_of_mailbox lo hi)]

theorem sendEffect_go {s : State} {k m src : Nat} {v : Word} (hk : k < 64) (h : s.mbxRefused k m src = none)
    (hs : s.mbxState k ≠ 1) (hg : bit v 63 = true) (h1 : 1 ≤ bits v 3 0) (h8 : bits v 3 0 ≤ 8) :
    sendEffect s k m src v = (St.ok, ((mbxSent s k (bits v 3 0)).mbxTell k (s.mbxReceiver k)).mbxToken k) := by
  have state := (mbxTell_state (mbxSent s k (bits v 3 0)) hk (s.mbxReceiver k)).trans (mbxSent_status s _).1
  simp only [sendEffect, mbxSend_go hk h hg h1 h8, state, hs, ne_eq, not_false_eq_true, and_self, if_true]

theorem mbxAck_go {s : State} {k m src : Nat} {v : Word} (hk : k < 64) (hv : s.mbxValid k = true)
    (hr : s.mbxIs k (s.mbxReceiver k) m src = true) (hs : s.mbxState k = 1) (hg : bit v 63 = true) :
    s.mbxAck k m src v = (St.ok, (mbxAcked s k (bits v 15 0)).mbxTell k (s.mbxSender k)) := by
  have party := (mbxParties_of_channelReg s hk (mbxAcked_regFrame s (k := k) (bits v 15 0)).toFrame).1
  rw [← party]
  simp [State.mbxAck, hv, hr, hs, hg, mbxAcked]

theorem mbxAck_idle {s : State} {k m src : Nat} {v : Word} (hv : s.mbxValid k = true)
    (hr : s.mbxIs k (s.mbxReceiver k) m src = true) (hs : s.mbxState k ≠ 1 ∨ bit v 63 = false) :
    s.mbxAck k m src v = (St.ok, s) := by
  have idle : (!bit v 63 || s.mbxState k != 1) = true := by
    rcases hs with h | h <;> simp [h]
  simp [State.mbxAck, hv, hr, idle]

end Sys2Proof.Proofs
end

section
/-! SUPPORT. The mailbox commands as the bus runs them: each is the effect of one whole register write. -/

namespace Sys2Proof.Proofs

open Sys2Proof Sys2Proof.Machine Sys2Proof.Laws

/-! ### Whole writes -/

/-- A whole write puts its value into the RW bits. -/
theorem bit_written_rw {row : RegRow} (hr : row ∈ regRows) (old v : Word) {i : Nat} (hi : i < 64) (hw : row.rw.testBit i = true) :
    bit (written row old v 0xFFFFFFFFFFFFFFFF) i = bit v i := by
  have reached : bit (0xFFFFFFFFFFFFFFFF : Word) i = true :=
    (congrArg (bit · i) halfMask_zero).symm.trans ((bit_halfMask (n := 8) (k := 0) (.inl ⟨rfl, rfl⟩) hi).trans (by simp [hi]))
  rw [bit_written hr _ _ _ hi, if_pos ⟨reached, hw⟩]

/-- A data register takes the whole word. -/
theorem written_mbxData (old v : Word) : written mbxDataRow old v 0xFFFFFFFFFFFFFFFF = v := by
  have row : mbxDataRow ∈ regRows := row_mem (regFind_mbxData (k := 0) (o := 0) (b := 0) (by decide) (by decide) (by decide))
  have all : ∀ i < 64, mbxDataRow.rw.testBit i = true := by decide
  refine BitVec.eq_of_getLsbD_eq fun i hi => ?_
  rw [← bit_eq_getLsbD, ← bit_eq_getLsbD, bit_written_rw row old v hi (all i hi)]

section Command
variable {m : BitVec 8} {src : BitVec 18} {k : BitVec 6} {v : Word} {s : State} (hl : s.Live) (hc : s.Canonical) (hm : m ≠ 0xE4)
include hl hc hm

omit hl hc in
/-- A whole write of one of a channel's own registers is that register's effect, answered. -/
theorem fxWriteFrom_mailbox {o : Nat} (ho : o < 11) {h : RegHit} (hf : regFind (Reg.MBX_DATA k.toNat o) = some h) (hb : h.byte = 0)
    (hw : h.row.writer = .mailbox) (hs : stageReg h.row.name = false) :
    fxWriteFrom m.toNat src.toNat (Reg.MBX_DATA k.toNat o) v s
      = (s.regEffect m.toNat src.toNat h (h.addr (Reg.MBX_DATA k.toNat o)) 0 v).2.answer
          (s.regEffect m.toNat src.toNat h (h.addr (Reg.MBX_DATA k.toNat o)) 0 v).1 0 := by
  obtain ⟨lo, hi⟩ := mbxWord_block (b := 0) k.isLt (by decide) ho
  have aligned : Reg.MBX_DATA k.toNat o % 8 = 0 := by unfold Reg.MBX_DATA ctlBase; omega
  exact write_register (isCtl_mailboxes lo hi) aligned hf hb (master_ne_debug hm) (writeAdmit_mailbox hw)
    (by rw [hs, Bool.false_and])

theorem exec_mbxSend_effect : exec (.mbxSend m src k v) s
    = .next (s.commit ((sendEffect s k.toNat m.toNat src.toNat v).2.answer (sendEffect s k.toNat m.toNat src.toNat v).1 0)) := by
  have hf : regFind (Reg.MBX_DATA k.toNat 8) = some ⟨mbxSendRow, [k.toNat], 0⟩ := regFind_mbxSend (b := 0) k.isLt (by decide)
  rw [exec_mbxSend, live_eq hl hc, mbxSend_eq, Nat.add_zero, fxWriteFrom_mailbox hm (by decide) hf rfl rfl rfl,
    regEffect_mbxSend (fieldNew_of_noRanges hf rfl _ _) rfl, halfMask_zero, and_ones]
  rfl

theorem exec_mbxAck_effect : exec (.mbxAck m src k v) s
    = .next (s.commit ((s.mbxAck k.toNat m.toNat src.toNat v).2.answer (s.mbxAck k.toNat m.toNat src.toNat v).1 0)) := by
  have hf : regFind (Reg.MBX_DATA k.toNat 9) = some ⟨mbxAckRow, [k.toNat], 0⟩ := regFind_mbxAck (b := 0) k.isLt (by decide)
  rw [exec_mbxAck, live_eq hl hc, mbxAck_eq, Nat.add_zero, fxWriteFrom_mailbox hm (by decide) hf rfl rfl rfl,
    regEffect_mbxAck (fieldNew_of_noRanges hf rfl _ _) rfl, halfMask_zero, and_ones]
  rfl

theorem exec_mbxDataWrite_effect (i : BitVec 3) : exec (.mbxDataWrite m src k i v) s
    = .next (s.commit ((s.mbxData k.toNat i.toNat m.toNat src.toNat v).2.answer
        (s.mbxData k.toNat i.toNat m.toNat src.toNat v).1 0)) := by
  have hf : regFind (Reg.MBX_DATA k.toNat i.toNat) = some ⟨mbxDataRow, [k.toNat, i.toNat], 0⟩ :=
    regFind_mbxData (b := 0) k.isLt (by decide) i.isLt
  have ho : i.toNat < 11 := lt_trans i.isLt (by decide)
  rw [exec_mbxDataWrite, live_eq hl hc, fxWriteFrom_mailbox hm ho hf rfl rfl rfl,
    regEffect_mbxData (fieldNew_of_noRanges hf rfl _ _) rfl, halfMask_zero, written_mbxData, and_ones]
  rfl

end Command

/-! ### What a send and an acknowledgement leave -/

section Told
variable {s u y : State} {k party : Nat} (hc : s.Canonical) (hu : RegFrame (channelReg k) s u)
  (hy : RegFrame tokenReg (u.mbxTell k party) y)
include hc hu hy

/-- The channel's step stays while its party is told and firmware takes a token. -/
theorem mbxStep_stays {a : Nat} (h0 : Reg.MBX_DATA 0 0 ≤ a) (h1 : a < Reg.MBX_EVT) :
    (s.commit (y.answer St.ok 0)).rd a = u.rd a := by
  have frame : Frame (fun _ => True) s y := ((hu.toFrame.mono fun _ _ => trivial).trans
    ((mbxTell_frame u k party).mono fun _ _ => trivial)).trans (hy.toFrame.mono fun _ _ => trivial)
  rw [commit_answer_rd hc frame, hy.rd _ (not_tokenReg_of_mailbox h0 h1), (mbxTell_frame u k party).rd _ (not_tellReg_of_mailbox h0 h1)]

theorem mbxStep_status (hk : k < 64) : (s.commit (y.answer St.ok 0)).rd (Reg.MBX_STATUS k) = u.rd (Reg.MBX_STATUS k) :=
  mbxStep_stays hc hu hy (mbxStatus_block hk).1 (mbxStatus_block hk).2

theorem mbxStep_pend : (s.commit (y.answer St.ok 0)).rd Reg.MBX_PEND = u.rd Reg.MBX_PEND :=
  mbxStep_stays hc hu hy mbxPend_block.1 mbxPend_block.2

theorem mbxStep_told : mbxTold s (s.commit (y.answer St.ok 0)) k party :=
  mbxTold_commit hc hu (mbxTell_told u k party) (mbxTell_frame u k party) hy St.ok

end Told

section Party
variable {m : BitVec 8} {src : BitVec 18} {k : BitVec 6} {v : Word} {s : State} (hl : s.Live) (hc : s.Canonical) (hm : m ≠ 0xE4)
  (hv : s.mbxValid k.toNat = true)
include hl hc hm hv

section Sender
variable (hp : s.mbxIs k.toNat (s.mbxSender k.toNat) m.toNat src.toNat = true)
include hp

theorem exec_mbxSend_go (hs : s.mbxState k.toNat ≠ 1) (hg : bit v 63 = true) (h1 : 1 ≤ bits v 3 0) (h8 : bits v 3 0 ≤ 8) :
    exec (.mbxSend m src k v) s = .next (s.commit ((((mbxSent s k.toNat (bits v 3 0)).mbxTell k.toNat
      (s.mbxReceiver k.toNat)).mbxToken k.toNat).answer St.ok 0)) := by
  have open_ := (mbxRefused_sender hv hp).trans (if_neg hs)
  rw [exec_mbxSend_effect hl hc hm, sendEffect_go k.isLt open_ hs hg h1 h8]

theorem exec_mbxSend_idle (hs : s.mbxState k.toNat ≠ 1) (hg : bit v 63 = false ∨ bits v 3 0 = 0 ∨ 8 < bits v 3 0) :
    exec (.mbxSend m src k v) s = .next { s with out := s.out ++ [.access St.ok 0] } := by
  have open_ := (mbxRefused_sender hv hp).trans (if_neg hs)
  rw [exec_mbxSend_effect hl hc hm, sendEffect_idle open_ hg, commit_answer hc]

theorem exec_mbxDataWrite_open (i : BitVec 3) (hs : s.mbxState k.toNat ≠ 1) :
    exec (.mbxDataWrite m src k i v) s
      = .next (s.commit ((s.wr (Reg.MBX_DATA k.toNat i.toNat) v).answer St.ok 0)) := by
  have open_ := (mbxRefused_sender hv hp).trans (if_neg hs)
  rw [exec_mbxDataWrite_effect hl hc hm, State.mbxData, open_]
  rfl

/-- While the channel is PENDING its sender's writes are refused (R402). -/
theorem exec_mbx_busy (hs : s.mbxState k.toNat = 1) {c : Instr} (hi : c = .mbxSend m src k v ∨ ∃ i, c = .mbxDataWrite m src k i v) :
    exec c s = .next (s.commit ((s.mbxEvent 1 St.qfull m.toNat k.toNat).answer St.qfull 0)) := by
  have busy := (mbxRefused_sender hv hp).trans (if_pos hs)
  rcases hi with rfl | ⟨i, rfl⟩
  · rw [exec_mbxSend_effect hl hc hm, sendEffect_refused busy]
  · rw [exec_mbxDataWrite_effect hl hc hm, mbxData_refused busy]

end Sender

section Receiver
variable (hp : s.mbxIs k.toNat (s.mbxReceiver k.toNat) m.toNat src.toNat = true)
include hp

theorem exec_mbxAck_go (hs : s.mbxState k.toNat = 1) (hg : bit v 63 = true) :
    exec (.mbxAck m src k v) s
      = .next (s.commit (((mbxAcked s k.toNat (bits v 15 0)).mbxTell k.toNat (s.mbxSender k.toNat)).answer St.ok 0)) := by
  rw [exec_mbxAck_effect hl hc hm, mbxAck_go k.isLt hv hp hs hg]

theorem exec_mbxAck_idle (hs : s.mbxState k.toNat ≠ 1 ∨ bit v 63 = false) :
    exec (.mbxAck m src k v) s = .next { s with out := s.out ++ [.access St.ok 0] } := by
  rw [exec_mbxAck_effect hl hc hm, mbxAck_idle hv hp hs, commit_answer hc]

end Receiver

end Party

/-! ### Binding and locking (R400) -/

/-- Fields whose bits agree are equal. -/
theorem bits_congr {x y : Word} {hi lo : Nat} (h : ∀ i, lo ≤ i → i ≤ hi → bit x i = bit y i) : bits x hi lo = bits y hi lo := by
  refine Nat.eq_of_testBit_eq fun i => ?_
  rw [bits, bits, nbits_testBit, nbits_testBit, ← bit_eq_testBit, ← bit_eq_testBit]
  by_cases hi' : i < hi + 1 - lo
  · rw [h (lo + i) (by omega) (by omega)]
  · simp [hi']

/-- A write of MBX_BIND takes the fields of a binding. -/
theorem bits_written_mbxBind (old v : Word) :
    bits (written mbxBindRow old v 0xFFFFFFFFFFFFFFFF) 16 0 = bits v 16 0
      ∧ bits (written mbxBindRow old v 0xFFFFFFFFFFFFFFFF) 41 24 = bits v 41 24 := by
  have row : mbxBindRow ∈ regRows := row_mem (regFind_mbxBind (k := 0) (by decide))
  have low : ∀ i < 17, mbxBindRow.rw.testBit i = true := by decide
  have high : ∀ i < 18, mbxBindRow.rw.testBit (24 + i) = true := by decide
  refine ⟨bits_congr fun i _ hi => bit_written_rw row old v (by omega) (low i (by omega)),
    bits_congr fun i lo hi => bit_written_rw row old v (by omega) ?_⟩
  obtain ⟨j, rfl⟩ := Nat.exists_eq_add_of_le lo
  exact high j (by omega)

theorem mbxBind_aligned (k : Nat) : Reg.MBX_BIND k % 8 = 0 := by
  unfold Reg.MBX_BIND ctlBase; omega

theorem isCtl_mbxBind {k : Nat} (hk : k < 64) : isCtl (Reg.MBX_BIND k) = true := by
  refine isCtl_mailboxes ?_ ?_
  · unfold Reg.MBX_DATA Reg.MBX_BIND; omega
  · unfold Reg.MBX_LOCK Reg.MBX_BIND; omega

theorem isCtl_mbxLock : isCtl Reg.MBX_LOCK = true := isCtl_mailboxes (by decide) (by decide)

/-- The lock is set by the write of a 1. -/
theorem lock_written (old : Word) : bits (old ||| (1 &&& halfMask 0 &&& 1)) 0 0 = 1 := by
  rw [bits_eq_one_iff, bit_or, show (1 &&& halfMask 0 &&& 1 : Word) = 1 by decide, bit_one 0 (by decide)]
  exact Bool.or_true _

section Firmware
variable {m : BitVec 8} {k : BitVec 6} {v : Word} {s : State} (hl : s.Live) (hc : s.Canonical) (hm : m ≠ 0xE4)
include hl hc hm

/-- A master that is no management core is denied. -/
theorem exec_mbxBindWrite_denied (hg : isMgmt m.toNat = false) :
    exec (.mbxBindWrite m k v) s = .next { s with out := s.out ++ [.access St.denied 0] } := by
  have hf := regFind_mbxBind k.isLt
  rw [exec_mbxBindWrite, live_eq hl hc, write_denied (isCtl_mbxBind k.isLt) (mbxBind_aligned _) hf (master_ne_debug hm)
    (writeAdmit_mgmt hf hg (master_ne_debug hm) rfl), commit_answer hc]

theorem exec_mbxLockWrite_denied (hg : isMgmt m.toNat = false) :
    exec (.mbxLockWrite m) s = .next { s with out := s.out ++ [.access St.denied 0] } := by
  rw [exec_mbxLockWrite, live_eq hl hc, write_denied isCtl_mbxLock (by decide) regFind_mbxLock (master_ne_debug hm)
    (writeAdmit_mgmt regFind_mbxLock hg (master_ne_debug hm) rfl), commit_answer hc]

section Mgmt
variable (hg : isMgmt m.toNat = true)
include hg

omit hl hc hm in
theorem writeAdmit_firmware {h : RegHit} (src : Nat) (hw : h.row.writer = .mgmt) : s.writeAdmit m.toNat src h = .yes :=
  writeAdmit_yes ⟨by rw [hw]; decide, by rw [hw]; decide, .inl hg⟩

/-- A binding by firmware is stored while MBX_LOCK is 0, and denied from then on. -/
theorem exec_mbxBindWrite_mgmt : exec (.mbxBindWrite m k v) s
    = if s.rdB Reg.MBX_LOCK 0 0 = 1 then .next { s with out := s.out ++ [.access St.denied 0] }
      else .next (s.commit ((s.wr (Reg.MBX_BIND k.toNat)
        (written mbxBindRow (s.rd (Reg.MBX_BIND k.toNat)) v 0xFFFFFFFFFFFFFFFF)).answer St.ok 0)) := by
  have hf := regFind_mbxBind k.isLt
  rw [exec_mbxBindWrite, live_eq hl hc, write_register (isCtl_mbxBind k.isLt) (mbxBind_aligned _) hf rfl (master_ne_debug hm)
    (writeAdmit_firmware hg s.devId rfl) rfl, regEffect_mbxBind (fieldNew_of_noRanges hf rfl _ _) rfl]
  split
  · rw [commit_answer hc]
  · rw [halfMask_zero, and_ones]
    rfl

theorem exec_mbxLockWrite_mgmt : exec (.mbxLockWrite m) s
    = if s.rdB Reg.MBX_LOCK 0 0 = 1 then .next { s with out := s.out ++ [.access St.denied 0] }
      else .next (s.commit ((s.wr Reg.MBX_LOCK (s.rd Reg.MBX_LOCK ||| (1 &&& halfMask 0 &&& 1))).answer St.ok 0)) := by
  have hf := regFind_mbxLock
  rw [exec_mbxLockWrite, live_eq hl hc, write_register isCtl_mbxLock (by decide) hf rfl (master_ne_debug hm)
    (writeAdmit_firmware hg s.devId rfl) rfl, regEffect_mbxLock rfl (fieldNew_of_noRanges hf rfl _ _)]
  split
  · rw [commit_answer hc]
  · rfl

end Mgmt

end Firmware

end Sys2Proof.Proofs
end

section
/-!
SUPPORT. What the mailbox commands leave, and the statement O20 put together from it.
-/

namespace Sys2Proof.Proofs

open Sys2Proof Sys2Proof.Machine Sys2Proof.Laws

section Party
variable {m : BitVec 8} {src : BitVec 18} {k : BitVec 6} {v : Word} {s : State} (hl : s.Live) (hc : s.Canonical) (hm : m ≠ 0xE4)
  (hv : s.mbxValid k.toNat = true)
include hl hc hm hv

/-- A posted message: the channel is PENDING with its words, and its receiver is told. -/
theorem mbxSend_leaves (hp : s.mbxIs k.toNat (s.mbxSender k.toNat) m.toNat src.toNat = true) (hs : s.mbxState k.toNat ≠ 1)
    (hg : bit v 63 = true) (h1 : 1 ≤ bits v 3 0) (h8 : bits v 3 0 ≤ 8) :
    ∃ t, exec (.mbxSend m src k v) s = .next t ∧ t.mbxState k.toNat = 1
      ∧ bits (t.rd (Reg.MBX_STATUS k.toNat)) 11 8 = bits v 3 0 ∧ bit (t.rd Reg.MBX_PEND) k.toNat = true
      ∧ mbxTold s t k.toNat (s.mbxReceiver k.toNat) := by
  have sent := mbxSent_regFrame s (k := k.toNat) (bits v 3 0)
  have token := mbxToken_regFrame ((mbxSent s k.toNat (bits v 3 0)).mbxTell k.toNat (s.mbxReceiver k.toNat)) k.toNat
  have status := mbxStep_status hc sent token k.isLt
  obtain ⟨state, words⟩ := mbxSent_status s (k := k.toNat) (bits v 3 0)
  refine ⟨_, exec_mbxSend_go hl hc hm hv hp hs hg h1 h8, ?_, ?_, ?_, mbxStep_told hc sent token⟩
  · rw [State.mbxState, State.rdB, status]
    exact state
  · rw [status, words, Nat.mod_eq_of_lt (by omega)]
  · rw [mbxStep_pend hc sent token, mbxSent_pend s _ k.isLt]

/-- An acknowledged message: the channel is ACKED with its code, and its sender is told. -/
theorem mbxAck_leaves (hp : s.mbxIs k.toNat (s.mbxReceiver k.toNat) m.toNat src.toNat = true) (hs : s.mbxState k.toNat = 1)
    (hg : bit v 63 = true) :
    ∃ t, exec (.mbxAck m src k v) s = .next t ∧ t.mbxState k.toNat = 2
      ∧ bits (t.rd (Reg.MBX_STATUS k.toNat)) 31 16 = bits v 15 0 ∧ bit (t.rd Reg.MBX_PEND) k.toNat = false
      ∧ mbxTold s t k.toNat (s.mbxSender k.toNat) := by
  have acked := mbxAcked_regFrame s (k := k.toNat) (bits v 15 0)
  have told := RegFrame.refl (R := tokenReg) ((mbxAcked s k.toNat (bits v 15 0)).mbxTell k.toNat (s.mbxSender k.toNat))
  have status := mbxStep_status hc acked told k.isLt
  have small : bits v 15 0 < 2 ^ 16 := nbits_lt v.toNat 15 0
  obtain ⟨state, code⟩ := mbxAcked_status s (k := k.toNat) (bits v 15 0)
  refine ⟨_, exec_mbxAck_go hl hc hm hv hp hs hg, ?_, ?_, ?_, mbxStep_told hc acked told⟩
  · rw [State.mbxState, State.rdB, status]
    exact state
  · rw [status, code, Nat.mod_eq_of_lt small]
  · rw [mbxStep_pend hc acked told, mbxAcked_pend s _ k.isLt]

theorem mbxDataWrite_leaves (i : BitVec 3) (hp : s.mbxIs k.toNat (s.mbxSender k.toNat) m.toNat src.toNat = true)
    (hs : s.mbxState k.toNat ≠ 1) :
    ∃ t, exec (.mbxDataWrite m src k i v) s = .next t ∧ t.rd (Reg.MBX_DATA k.toNat i.toNat) = v
      ∧ (∀ a, a ≠ Reg.MBX_DATA k.toNat i.toNat → t.rd a = s.rd a) ∧ ∀ a, t.byte a = s.byte a := by
  refine ⟨_, exec_mbxDataWrite_open hl hc hm hv hp i hs, ?_, fun a ha => ?_, fun a => commit_wr_byte hc _ _ _ a⟩
  · rw [commit_wr_rd hc, if_pos rfl]
  · rw [commit_wr_rd hc, if_neg (Ne.symm ha)]

theorem mbxBusy_leaves {c : Instr} (hi : c = .mbxSend m src k v ∨ ∃ i, c = .mbxDataWrite m src k i v)
    (hp : s.mbxIs k.toNat (s.mbxSender k.toNat) m.toNat src.toNat = true) (hs : s.mbxState k.toNat = 1) :
    ∃ t, exec c s = .next t ∧ bit (t.rd Reg.MBX_EVT) 1 = true ∧ (∀ a, a ≠ Reg.MBX_EVT → t.rd a = s.rd a)
      ∧ t.out = s.out ++ [.access St.qfull 0] := by
  have event := mbxEvent_regFrame s 1 St.qfull m.toNat k.toNat
  refine ⟨_, exec_mbx_busy hl hc hm hv hp hs hi, ?_, fun a ha => ?_, ?_⟩
  · rw [commit_answer_rd hc event.toFrame, rd_mbxEvent, bit_setBit _ (by decide)]
  · rw [commit_answer_rd hc event.toFrame, event.rd a ha]
  · rw [commit_out, answer_out, event.out]

end Party

/-- A denied access sets DENY, which BUSY leaves (R13). -/
theorem mbxDeny_sets (s : State) (m k : Nat) : bit ((s.mbxDeny m k).2.rd Reg.MBX_EVT) 0 = true
    ∧ bit (((s.mbxDeny m k).2.mbxEvent 1 St.qfull m k).rd Reg.MBX_EVT) 0 = true := by
  have deny : bit ((s.mbxDeny m k).2.rd Reg.MBX_EVT) 0 = true := by
    rw [State.mbxDeny, rd_mbxEvent, bit_setBit _ (by decide)]
  exact ⟨deny, by rw [rd_mbxEvent, bit_setBit_other _ (by decide) (by decide), deny]⟩

section Firmware
variable {m : BitVec 8} {k : BitVec 6} {v : Word} {s : State} (hl : s.Live) (hc : s.Canonical) (hm : m ≠ 0xE4)
include hl hc hm

theorem mbxBindWrite_leaves (hg : isMgmt m.toNat = true) (hlock : s.rdB Reg.MBX_LOCK 0 0 = 0) :
    ∃ t, exec (.mbxBindWrite m k v) s = .next t ∧ bits (t.rd (Reg.MBX_BIND k.toNat)) 16 0 = bits v 16 0
      ∧ bits (t.rd (Reg.MBX_BIND k.toNat)) 41 24 = bits v 41 24
      ∧ (∀ a, a ≠ Reg.MBX_BIND k.toNat → t.rd a = s.rd a) ∧ ∀ a, t.byte a = s.byte a := by
  have bound := (exec_mbxBindWrite_mgmt (k := k) (v := v) hl hc hm hg).trans (if_neg (by rw [hlock]; decide))
  obtain ⟨low, high⟩ := bits_written_mbxBind (s.rd (Reg.MBX_BIND k.toNat)) v
  refine ⟨_, bound, ?_, ?_, fun a ha => ?_, fun a => commit_wr_byte hc _ _ _ a⟩
  · rw [commit_wr_rd hc, if_pos rfl, low]
  · rw [commit_wr_rd hc, if_pos rfl, high]
  · rw [commit_wr_rd hc, if_neg (Ne.symm ha)]

theorem mbxLockWrite_leaves (hg : isMgmt m.toNat = true) (hlock : s.rdB Reg.MBX_LOCK 0 0 = 0) :
    ∃ t, exec (.mbxLockWrite m) s = .next t ∧ bits (t.rd Reg.MBX_LOCK) 0 0 = 1
      ∧ (∀ a, a ≠ Reg.MBX_LOCK → t.rd a = s.rd a) ∧ ∀ a, t.byte a = s.byte a := by
  have locked := (exec_mbxLockWrite_mgmt hl hc hm hg).trans (if_neg (by rw [hlock]; decide))
  refine ⟨_, locked, ?_, fun a ha => ?_, fun a => commit_wr_byte hc _ _ _ a⟩
  · rw [commit_wr_rd hc, if_pos rfl, lock_written]
  · rw [commit_wr_rd hc, if_neg (Ne.symm ha)]

/-- Another master, and a lock that is set, leave the bindings as they are. -/
theorem mbxBindings_denied (h : isMgmt m.toNat = false ∨ s.rdB Reg.MBX_LOCK 0 0 = 1) :
    exec (.mbxBindWrite m k v) s = .next { s with out := s.out ++ [.access St.denied 0] }
      ∧ exec (.mbxLockWrite m) s = .next { s with out := s.out ++ [.access St.denied 0] } := by
  cases hg : isMgmt m.toNat
  · exact ⟨exec_mbxBindWrite_denied hl hc hm hg, exec_mbxLockWrite_denied hl hc hm hg⟩
  · have locked : s.rdB Reg.MBX_LOCK 0 0 = 1 := h.resolve_left (by rw [hg]; decide)
    exact ⟨(exec_mbxBindWrite_mgmt hl hc hm hg).trans (if_pos locked), (exec_mbxLockWrite_mgmt hl hc hm hg).trans (if_pos locked)⟩

end Firmware

/-- Settles O20: the registers decide by themselves, and a channel's step survives the telling of its party (R403), because
transfers and small packets write no register of the mailbox block. -/
theorem mailboxes : Obligations.Mailboxes := by
  refine ⟨fun m src k v s hl hc hm hv => ?_, fun k m src s hm => ?_, fun m k v s hl hc hm => ?_⟩
  · exact ⟨fun hp hs => ⟨fun hg h1 h8 => ⟨exec_mbxSend_go hl hc hm hv hp hs hg h1 h8, mbxSend_leaves hl hc hm hv hp hs hg h1 h8⟩,
        exec_mbxSend_idle hl hc hm hv hp hs⟩,
      fun hp => ⟨fun hs hg => ⟨exec_mbxAck_go hl hc hm hv hp hs hg, mbxAck_leaves hl hc hm hv hp hs hg⟩,
        exec_mbxAck_idle hl hc hm hv hp⟩,
      fun i hp hs => mbxDataWrite_leaves hl hc hm hv i hp hs, fun c hi hp hs => mbxBusy_leaves hl hc hm hv hi hp hs⟩
  · obtain ⟨deny, busy⟩ := mbxDeny_sets s m k.toNat
    refine ⟨rfl, deny, busy, fun a bs ha => ⟨fun hs h0 h1 => ?_, fun hr h0 h1 => ?_, fun hv h0 h1 => ?_⟩,
      fun a n ha => ⟨fun hs hr h0 h1 => ?_, fun hv h0 h1 => ?_⟩⟩
    · obtain ⟨o, b, ho, hb, rfl⟩ := mbxWord_of_mem (n := 9) h0 h1
      exact regWrite_notSender k.isLt hb hm ha ho hs
    · obtain ⟨o, b, ho, hb, rfl⟩ := mbxWord_of_mem (n := 10) (by omega) h1
      exact regWrite_notReceiver k.isLt hb hm ha (by unfold Reg.MBX_DATA at h0; omega) hr
    · obtain ⟨o, b, ho, hb, rfl⟩ := mbxWord_of_mem (n := 11) (by omega) h1
      exact regWrite_statusInvalid k.isLt hb hm ha (by unfold Reg.MBX_DATA at h0; omega) hv
    · obtain ⟨o, b, ho, hb, rfl⟩ := mbxWord_of_mem (n := 8) h0 h1
      exact regRead_notParty k.isLt hb hm ha ho (by rw [Bool.and_or_distrib_left, hs, hr]; rfl)
    · obtain ⟨o, b, ho, hb, rfl⟩ := mbxWord_of_mem (n := 11) h0 h1
      exact regRead_invalid k.isLt hb hm ha ho hv
  · exact ⟨fun hg hlock => ⟨mbxBindWrite_leaves hl hc hm hg hlock, mbxLockWrite_leaves hl hc hm hg hlock⟩,
      fun h => mbxBindings_denied hl hc hm h⟩

end Sys2Proof.Proofs
end

section
/-!
SUPPORT. The state right after reset (O3). A sparse store lists only what differs from its default, so memory of zeros and registers
at their reset values (R23, R423) are the empty stores, and an empty store is canonical whatever its defaults are.
-/

namespace Sys2Proof.Proofs

open Sys2Proof Sys2Proof.Machine Sys2Proof.Laws

/-- A state whose stores list nothing is canonical once no write is outstanding. -/
theorem canonical_of_empty {s : State} (hm : s.mem = []) (hr : s.regs = []) (hj : s.jnl = []) : s.Canonical := by
  refine ⟨?_, ?_, hj⟩
  · rw [hm]
    exact wfFrom_nil (d := fun _ => (0 : Byte)) 0
  · rw [hr]
    exact wfFrom_nil (d := regReset) 0

/-- Settles O3: reset lists no memory, no register, no write and no command. -/
theorem resetCanonical : Obligations.ResetCanonical :=
  ⟨canonical_of_empty rfl rfl rfl, rfl⟩

end Sys2Proof.Proofs
end

section
/-!
SUPPORT. Operations of a command ring (R392, R399): what a ring reads after a ring was written, and what the end of an operation
leaves. Nothing is assumed about the table of rings: a ring that is listed stays when another one is written, whatever the table's
form.
-/

namespace Sys2Proof.Proofs

open Sys2Proof Sys2Proof.Machine Sys2Proof.Laws

/-! ### A table in any form -/

/-- A key that is listed reads the same after another one left. -/
theorem get_del_listed {α : Type} {t : Tbl α} {k j : Nat} {y : α} (hk : j ≠ k) (hj : Tbl.get t j y ≠ y) :
    Tbl.get (Tbl.del t k) j y = Tbl.get t j y := by
  induction t with
  | nil => rfl
  | cons e t ih =>
    obtain ⟨i, v⟩ := e
    simp only [Tbl.del, Tbl.get] at hj ⊢
    split
    · rw [if_neg (by omega)] at hj ⊢
      split at hj
      · exact absurd rfl hj
      · rw [if_neg ‹_›]
    · split
      · rfl
      · simp only [Tbl.get]
        split
        · rfl
        · split
          · rfl
          · rw [if_neg ‹_›, if_neg ‹_›] at hj
            exact ih hj

/-- A key that is listed reads the same after another one was written. -/
theorem get_set_listed {α : Type} [DecidableEq α] {t : Tbl α} {k j : Nat} {x y : α} (hk : j ≠ k) (hj : Tbl.get t j y ≠ y) :
    Tbl.get (Tbl.set t k x y) j y = Tbl.get t j y := by
  unfold Tbl.set
  split
  · exact get_del_listed hk hj
  · rw [get_ins, if_neg hk]

/-! ### Writing a ring -/

@[simp] theorem setRing_loadJob (s : State) (r : Nat) (x : Ring) : (s.setRing r x).loadJob = s.loadJob := rfl

@[simp] theorem setRing_ringCI (s : State) (r : Nat) (x : Ring) (k : Nat) : (s.setRing r x).ringCI k = s.ringCI k := rfl

theorem setRing_regFrame {R : Nat → Prop} (s : State) (r : Nat) (x : Ring) : RegFrame R s (s.setRing r x) :=
  (RegFrame.refl s).keep rfl rfl rfl rfl

theorem ring_setRing_same {s : State} {r : Nat} {x : Ring} (hx : x ≠ {}) : (s.setRing r x).ring r = x :=
  (get_set_ne s.rings r r hx).trans (if_pos rfl)

theorem ring_setRing_listed {s : State} {r k : Nat} (x : Ring) (hk : k ≠ r) (hl : s.ring k ≠ {}) :
    (s.setRing r x).ring k = s.ring k :=
  get_set_listed hk hl

/-- A ring with an operation is not the empty one. -/
theorem ring_ne_of_mem {x : Ring} {o : CmdOp} (ho : o ∈ x.ops) : x ≠ {} := by
  rintro rfl
  cases ho

/-- A ring that waits to read a slot again is not the empty one. -/
theorem ring_ne_of_stamp {x : Ring} {v : Nat × Nat × Nat} (hv : x.stamp = some v) : x ≠ {} := by
  rintro rfl
  cases hv

/-! ### The end of an operation -/

/-- The end of an operation changes the rings alone. -/
theorem opDone_rings (s : State) (r seq st rs : Nat) (v : Word) :
    s.opDone r seq st rs v = { s with rings := (s.opDone r seq st rs v).rings } := by
  unfold State.opDone
  split
  · rfl
  · split <;> rfl

section OpDone
variable (s : State) (r seq st rs : Nat) (v : Word)

@[simp] theorem opDone_jnl : (s.opDone r seq st rs v).jnl = s.jnl := by rw [opDone_rings]
@[simp] theorem opDone_regs : (s.opDone r seq st rs v).regs = s.regs := by rw [opDone_rings]
@[simp] theorem opDone_mem : (s.opDone r seq st rs v).mem = s.mem := by rw [opDone_rings]
@[simp] theorem opDone_out : (s.opDone r seq st rs v).out = s.out := by rw [opDone_rings]
@[simp] theorem opDone_loadJob : (s.opDone r seq st rs v).loadJob = s.loadJob := by rw [opDone_rings]
@[simp] theorem opDone_unloads : (s.opDone r seq st rs v).unloads = s.unloads := by rw [opDone_rings]
@[simp] theorem opDone_turn : (s.opDone r seq st rs v).turn = s.turn := by rw [opDone_rings]
@[simp] theorem opDone_rd (a : Nat) : (s.opDone r seq st rs v).rd a = s.rd a := by rw [opDone_rings]; rfl

theorem opDone_regFrame {R : Nat → Prop} : RegFrame R s (s.opDone r seq st rs v) :=
  (RegFrame.refl s).keep (opDone_jnl ..) (opDone_regs ..) (opDone_mem ..) (opDone_out ..)

end OpDone

/-- An operation with its result. -/
def endedOp (o : CmdOp) (st rs : Nat) (v : Word) : CmdOp := { o with started := true, done := some (st, rs, v) }

/-- The result of an operation does not change its number. -/
theorem seq_ite_endedOp (p : CmdOp) (st rs : Nat) (v : Word) (c : Bool) : (if c then endedOp p st rs v else p).seq = p.seq := by
  split <;> rfl

/-- The operations of a number, ended. -/
def endOps (seq st rs : Nat) (v : Word) (l : List CmdOp) : List CmdOp := l.map fun o => if o.seq == seq then endedOp o st rs v else o

theorem find_endOps (l : List CmdOp) (seq seq' st rs : Nat) (v : Word) :
    (endOps seq' st rs v l).find? (fun o => o.seq == seq)
      = (l.find? fun o => o.seq == seq).map fun o => if o.seq == seq' then endedOp o st rs v else o := by
  simp only [endOps, List.find?_map, Function.comp_def, seq_ite_endedOp]

theorem opOf_mem {s : State} {r seq : Nat} {o : CmdOp} (h : s.opOf r seq = some o) : o ∈ (s.ring r).ops := List.mem_of_find?_eq_some h

theorem opOf_seq {s : State} {r seq : Nat} {o : CmdOp} (h : s.opOf r seq = some o) : o.seq = seq := by
  simpa using List.find?_some h

section Ended
variable {s : State} {r seq : Nat} {o : CmdOp} (h : s.opOf r seq = some o)
include h

/-- An operation that does not leave at once stays with its result (R399). -/
theorem opDone_ring_kept {st rs : Nat} {v : Word} (hq : ¬(coQuiet o.entry = true ∧ st = 0)) :
    (s.opDone r seq st rs v).ring r = { s.ring r with ops := endOps seq st rs v (s.ring r).ops } := by
  have stays : (coQuiet o.entry && st == 0) = false := by
    rw [Bool.eq_false_iff]
    simpa using hq
  have kept : s.opDone r seq st rs v = s.setRing r { s.ring r with ops := endOps seq st rs v (s.ring r).ops } := by
    unfold State.opDone
    rw [show (s.ring r).ops.find? (fun o => o.seq == seq) = some o from h]
    dsimp only
    rw [stays]
    rfl
  rw [kept]
  exact ring_setRing_same (ring_ne_of_mem (List.mem_map_of_mem (opOf_mem h)))

theorem opDone_opOf_kept {st rs : Nat} {v : Word} (hq : ¬(coQuiet o.entry = true ∧ st = 0)) :
    (s.opDone r seq st rs v).opOf r seq = some (endedOp o st rs v) := by
  have found : (s.ring r).ops.find? (fun p => p.seq == seq) = some o := h
  unfold State.opOf
  rw [opDone_ring_kept h hq, find_endOps, found, Option.map_some, opOf_seq h, beq_self_eq_true, if_pos rfl]

/-- The end of another operation leaves it. -/
theorem opDone_opOf_other {r' seq' : Nat} (hne : (r', seq') ≠ (r, seq)) (st rs : Nat) (v : Word) :
    (s.opDone r' seq' st rs v).opOf r seq = some o := by
  have found : (s.ring r).ops.find? (fun p => p.seq == seq) = some o := h
  have elsewhere (x : Ring) (hr : r ≠ r') : (s.setRing r' x).opOf r seq = some o := by
    unfold State.opOf
    rw [ring_setRing_listed x hr (ring_ne_of_mem (opOf_mem h))]
    exact h
  have here (x : Ring) (hx : x.ops.find? (fun p => p.seq == seq) = some o) : (s.setRing r x).opOf r seq = some o := by
    unfold State.opOf
    rw [ring_setRing_same (ring_ne_of_mem (List.mem_of_find?_eq_some hx))]
    exact hx
  unfold State.opDone
  split
  · exact h
  · by_cases hr : r = r'
    · subst hr
      have hs : seq ≠ seq' := fun e => hne (by rw [e])
      split
      · refine here _ ?_
        rw [List.find?_filter, ← found]
        congr 1
        funext p
        by_cases hp : p.seq = seq <;> simp [hp, hs]
      · have other : ¬(o.seq == seq') = true := by simpa [opOf_seq h] using hs
        refine here _ ((find_endOps (s.ring r).ops seq seq' st rs v).trans ?_)
        rw [found, Option.map_some, if_neg other]
    · split
      · exact elsewhere _ hr
      · exact elsewhere _ hr

end Ended

end Sys2Proof.Proofs
end

section
/-!
SUPPORT. Reads of memory whose blocks meet no bad parity (R300): the bytes as they stand, and one more burst counted at the stack of each
LPDDR block.
-/

namespace Sys2Proof.Proofs

open Sys2Proof Sys2Proof.Machine Sys2Proof.Laws

/-- Every read of the block succeeds. -/
def soundBlock (s : State) (b : Nat) : Prop := Tbl.get s.par b 0 = 0 ∧ Tbl.get s.glitch b [] = [] ∧ Tbl.get s.faults b 0 = 0

/-- A burst of the block is counted at its stack. -/
def countRead (s : State) (b : Nat) : State := if isLpddr b then s.addB (Reg.MEM_CNT_RD (ilvStack b)) 63 0 1 else s

def countReads (s : State) (bs : List Nat) : State := bs.foldl countRead s

theorem soundBlock_countRead {s : State} {b : Nat} (c : Nat) (h : soundBlock s b) : soundBlock (countRead s c) b := by
  unfold countRead
  split <;> exact h

@[simp] theorem byte_countRead (s : State) (b a : Nat) : (countRead s b).byte a = s.byte a := by
  unfold countRead
  split <;> rfl

@[simp] theorem flits_countRead (s : State) (b : Nat) : (countRead s b).flits = s.flits := by
  unfold countRead
  split <;> rfl

theorem soundBlock_countReads {s : State} {b : Nat} (cs : List Nat) (h : soundBlock s b) : soundBlock (countReads s cs) b := by
  induction cs generalizing s with
  | nil => exact h
  | cons c cs ih => exact ih (soundBlock_countRead c h)

@[simp] theorem byte_countReads (s : State) (bs : List Nat) (a : Nat) : (countReads s bs).byte a = s.byte a := by
  induction bs generalizing s with
  | nil => rfl
  | cons b bs ih => exact (ih (countRead s b)).trans (byte_countRead s b a)

@[simp] theorem flits_countReads (s : State) (bs : List Nat) : (countReads s bs).flits = s.flits := by
  induction bs generalizing s with
  | nil => rfl
  | cons b bs ih => exact (ih (countRead s b)).trans (flits_countRead s b)

@[simp] theorem rawRead_countReads (s : State) (bs : List Nat) (a n : Nat) : (countReads s bs).rawRead a n = s.rawRead a n := by
  simp only [State.rawRead, byte_countReads]

/-- Outside LPDDR no burst is counted. -/
theorem countReads_outside {s : State} {bs : List Nat} (h : ∀ b ∈ bs, isLpddr b = false) : countReads s bs = s := by
  induction bs with
  | nil => rfl
  | cons b bs ih =>
    have here : countRead s b = s := by rw [countRead, h b List.mem_cons_self]; rfl
    show countReads (countRead s b) bs = s
    rw [here]
    exact ih fun c hc => h c (List.mem_cons_of_mem _ hc)

theorem readBlock_sound {s : State} {b : Nat} (h : soundBlock s b) : s.readBlock b = (St.ok, countRead s b) := by
  obtain ⟨par, glitch, faults⟩ := h
  have once : s.readOnce b = (0, countRead s b) := by
    simp only [State.readOnce, par, glitch, faults]
    rfl
  simp only [State.readBlock, once, if_true]

theorem readBlocks_sound {s : State} {bs : List Nat} (h : ∀ b ∈ bs, soundBlock s b) : s.readBlocks bs = (St.ok, countReads s bs) := by
  induction bs generalizing s with
  | nil => rfl
  | cons b bs ih =>
    have rest := ih fun c hc => soundBlock_countRead b (h c (List.mem_cons_of_mem _ hc))
    simp only [State.readBlocks, readBlock_sound (h b List.mem_cons_self), rest]
    rfl

theorem partRead_sound {s : State} {a n : Nat} (h : ∀ b ∈ blocksOf a n, soundBlock s b) :
    s.partRead a n = (St.ok, s.rawRead a n, countReads s (blocksOf a n)) := by
  simp only [State.partRead, readBlocks_sound h, rawRead_countReads]
  rfl

theorem readFlit_none {s : State} (h : s.flits = []) (a n st : Nat) (bs : List Byte) : s.readFlit a n st bs = (st, bs, s) := by
  simp only [State.readFlit, State.flitNext, h]

theorem mem_blocksOf {a n b : Nat} (h : b ∈ blocksOf a n) : ∃ i, b = (a / 64 + i) * 64 ∧ i ≤ (a + n - 1) / 64 - a / 64 ∧ n ≠ 0 := by
  unfold blocksOf at h
  split at h
  · cases h
  · obtain ⟨i, hi, rfl⟩ := List.mem_map.mp h
    exact ⟨i, rfl, by rw [List.mem_range] at hi; omega, ‹_›⟩

/-- A read of command memory whose blocks are sound gives its bytes and changes nothing. -/
theorem memRead_outside {s : State} {a n : Nat} (h : Claim.sound s a n) (ha : lpddrBytes ≤ a / 64 * 64) :
    s.memRead a n = (St.ok, s.rawRead a n, s) := by
  obtain ⟨blocks, flits⟩ := h
  have outside : ∀ b ∈ blocksOf a n, isLpddr b = false := by
    intro b hb
    obtain ⟨i, rfl, -, -⟩ := mem_blocksOf hb
    rw [isLpddr, decide_eq_false_iff_not]
    omega
  simp only [State.memRead, partRead_sound blocks, countReads_outside outside]
  exact readFlit_none flits a n St.ok _

end Sys2Proof.Proofs
end

section
/-!
SUPPORT. Entries of the command rings (R391, R393): whose turn it is, what the check of a stamp finds, what an accepted entry leaves, and
the statement O16 put together from it.
-/

namespace Sys2Proof.Proofs

open Sys2Proof Sys2Proof.Machine Sys2Proof.Laws

/-! ### Whose turn it is -/

theorem ringTurn_eligible {s : State} {r : Nat} (h : s.ringTurn = some r) : s.eligible r = true := List.find?_some h

/-- The ring whose turn it is stands first in the rotation that begins behind the ring served last. -/
theorem ringTurn_first {s : State} {r k : Nat} (h : s.ringTurn = some r) (hk : k < 16) (he : s.eligible k = true) :
    (r + 31 - s.turn % 16) % 16 ≤ (k + 31 - s.turn % 16) % 16 := by
  obtain ⟨-, i, hi, place, before⟩ := List.find?_eq_some_iff_getElem.mp h
  have hi16 : i < 16 := by simpa using hi
  have placed : (s.turn + 1 + i) % 16 = r := by simpa using place
  by_contra late
  have passed := before ((k + 31 - s.turn % 16) % 16) (by omega)
  rw [List.getElem_map, List.getElem_range, show (s.turn + 1 + (k + 31 - s.turn % 16) % 16) % 16 = k by omega, he] at passed
  exact absurd passed (by decide)

/-! ### What a command leaves of its effect -/

@[simp] theorem commit_ring (s t : State) (r : Nat) : (s.commit t).ring r = t.ring r := rfl
@[simp] theorem commit_loadJob (s t : State) : (s.commit t).loadJob = t.loadJob := rfl
@[simp] theorem commit_loadAt (s t : State) : (s.commit t).loadAt = t.loadAt := rfl
@[simp] theorem commit_unloads (s t : State) : (s.commit t).unloads = t.unloads := rfl

section Commit
variable {R : Nat → Prop} {s t : State} (hc : s.Canonical)
include hc

theorem commit_frame_rd (h : Frame R s t) (a : Nat) : (s.commit t).rd a = t.rd a := commit_rd_eq hc h.regs a

theorem commit_regFrame_byte (h : RegFrame R s t) (a : Nat) : (s.commit t).byte a = s.byte a :=
  (commit_byte_eq hc h.mem a).trans (h.byte a)

/-- A command without effect leaves the state. -/
theorem commit_self : s.commit s = s := commit_of_jnl_nil hc.2.2 rfl rfl rfl

end Commit

/-! ### Stamps -/

theorem slotAddr_outside (r i : Nat) : lpddrBytes ≤ slotAddr r i / 64 * 64 := by
  unfold slotAddr lpddrBytes ctlBase
  omega

/-- The slot at a ring's CI. -/
def slotBytes (s : State) (r : Nat) : List Byte := s.rawRead (slotAddr r (s.ringCI r)) 256

/-- The check of a slot that can be read: its entry, when its stamp is the ring's CI (R391). -/
theorem slotCheck_sound {s : State} {r : Nat} (h : Claim.sound s (slotAddr r (s.ringCI r)) 256) :
    s.slotCheck r = (if leAt (slotBytes s r) 0 4 = s.ringCI r then some (slotBytes s r) else none, s) := by
  simp only [State.slotCheck, slotBytes, memRead_outside h (slotAddr_outside _ _), show St.ok = 0 from rfl, true_and]
  rfl

/-! ### Events -/

theorem raise_rings (s : State) (lg blk evt en ev : Nat) (e : EvInfo) : (s.raise lg blk evt en ev e).rings = s.rings := by
  unfold State.raise
  dsimp only
  split <;> rfl

theorem raise_turn (s : State) (lg blk evt en ev : Nat) (e : EvInfo) : (s.raise lg blk evt en ev e).turn = s.turn := by
  unfold State.raise
  dsimp only
  split <;> rfl

@[simp] theorem ringEvent_ring (s : State) (r ev st k : Nat) : (s.ringEvent r ev st).ring k = s.ring k :=
  congrArg (fun t : Tbl Ring => Tbl.get t k {}) (raise_rings s _ _ _ _ _ _)

theorem ringEvent_regFrame (s : State) (r ev st : Nat) : RegFrame (· = Reg.CMD_RING_EVT r) s (s.ringEvent r ev st) :=
  RegFrame.raise (R := (· = Reg.CMD_RING_EVT r)) (.refl s) rfl _ _ _ _ _

theorem ringEvent_bit (s : State) (r st : Nat) {ev : Nat} (hev : ev < 64) :
    bit ((s.ringEvent r ev st).rd (Reg.CMD_RING_EVT r)) ev = true := by
  rw [State.ringEvent, rd_raise, bit_setBit _ hev]

/-! ### An accepted entry -/

/-- The operation of the entry that a ring accepts next. -/
def newOp (s : State) (r : Nat) (e : List Byte) : CmdOp := { seq := s.nextId + 1, index := s.ringCI r, entry := e }

/-- CI advances, and the entry is counted. -/
def countEntry (s : State) (r : Nat) : State :=
  (({ s with nextId := s.nextId + 1 } : State).wrB (Reg.CMD_RING_IDX r) 63 32 ((s.ringCI r + 1) % 2 ^ 32)).addB
    (Reg.CMD_RING_CNT r) 31 0 1

/-- An entry is taken in: its operation stands last. -/
def takeEntry (s : State) (r : Nat) (e : List Byte) : State :=
  (countEntry s r).setRing r { s.ring r with ops := (s.ring r).ops ++ [newOp s r e], stamp := none }

/-- The registers that a ring's acceptance of an entry can write (R391, R393, R62). -/
def acceptReg (r a : Nat) : Prop :=
  a = Reg.CMD_RING_IDX r ∨ a = Reg.CMD_RING_CNT r ∨ a = Reg.CMD_RING_EVT r ∨ a = Reg.ID_JOB_STATE

theorem ringCnt_ne_idx (r : Nat) : Reg.CMD_RING_CNT r ≠ Reg.CMD_RING_IDX r := by
  unfold Reg.CMD_RING_CNT Reg.CMD_RING_IDX
  omega

theorem not_acceptReg_cfg (r : Nat) : ¬acceptReg r (Reg.CMD_RING_CFG r) := by
  unfold acceptReg Reg.CMD_RING_CFG Reg.CMD_RING_IDX Reg.CMD_RING_CNT Reg.CMD_RING_EVT Reg.ID_JOB_STATE ctlBase
  omega

theorem accept_eq (s : State) (r : Nat) (e : List Byte) :
    s.accept r e = if !entryOk e then ((takeEntry s r e).ringEvent r 2 St.misalign).acceptEnds r (s.nextId + 1) e St.misalign
      else if jobctlOp (coOpcode e) && !(takeEntry s r e).ringJobctl r then (takeEntry s r e).acceptEnds r (s.nextId + 1) e St.denied
      else takeEntry s r e := rfl

theorem wrB_regFrame (s : State) (a hi lo n : Nat) : RegFrame (· = a) s (s.wrB a hi lo n) :=
  RegFrame.wr (R := (· = a)) (.refl s) rfl _

theorem addB_regFrame (s : State) (a hi lo n : Nat) : RegFrame (· = a) s (s.addB a hi lo n) := wrB_regFrame s _ _ _ _

theorem rd_wrB_same (s : State) (a hi lo n : Nat) : (s.wrB a hi lo n).rd a = putBits (s.rd a) hi lo n := rd_wr_same s _ _

theorem regFrame_mono {R Q : Nat → Prop} {s t : State} (h : RegFrame R s t) (hq : ∀ a, R a → Q a) : RegFrame Q s t :=
  ⟨h.toFrame.mono hq, h.byte, h.out⟩

section Take
variable (s : State) (r : Nat) (e : List Byte)

omit e in
theorem countEntry_regFrame : RegFrame (acceptReg r) s (countEntry s r) := by
  have numbered : RegFrame (acceptReg r) s { s with nextId := s.nextId + 1 } := (RegFrame.refl s).keep rfl rfl rfl rfl
  refine (numbered.trans (regFrame_mono (wrB_regFrame _ _ _ _ _) fun a ha => ?_)).trans
    (regFrame_mono (addB_regFrame _ _ _ _ _) fun a ha => ?_)
  · exact .inl ha
  · exact .inr (.inl ha)

theorem takeEntry_regFrame : RegFrame (acceptReg r) s (takeEntry s r e) :=
  (countEntry_regFrame s r).trans (setRing_regFrame _ _ _)

theorem takeEntry_ring : (takeEntry s r e).ring r = { s.ring r with ops := (s.ring r).ops ++ [newOp s r e], stamp := none } :=
  ring_setRing_same (ring_ne_of_mem (List.mem_append_right _ List.mem_cons_self))

omit e in
theorem countEntry_ringCI : (countEntry s r).ringCI r = (s.ringCI r + 1) % 2 ^ 32 := by
  unfold State.ringCI State.rdB countEntry
  rw [(addB_regFrame _ _ _ _ _).rd _ (ringCnt_ne_idx r).symm, rd_wrB_same, bits_putBits _ _ (by decide) (by decide)]
  exact Nat.mod_mod _ _

theorem takeEntry_ringCI : (takeEntry s r e).ringCI r = (s.ringCI r + 1) % 2 ^ 32 := by
  unfold takeEntry
  rw [setRing_ringCI, countEntry_ringCI]

theorem takeEntry_ringJobctl : (takeEntry s r e).ringJobctl r = s.ringJobctl r := by
  unfold State.ringJobctl State.rdB
  rw [(takeEntry_regFrame s r e).rd _ (not_acceptReg_cfg r)]

end Take

theorem lastLoad_regFrame (s : State) (st rs sect : Nat) : RegFrame (· = Reg.ID_JOB_STATE) s (s.lastLoad st rs sect) :=
  wrB_regFrame s _ _ _ _

/-- A field that lies within one that was put in. -/
theorem bits_putBits_within {hi lo h l : Nat} (v : Word) (n : Nat) (hhi : hi < 64) (hl : lo ≤ l) (hlh : l ≤ h) (hh : h ≤ hi) :
    bits (putBits v hi lo n) h l = nbits n (h - lo) (l - lo) := by
  unfold bits
  refine Nat.eq_of_testBit_eq fun i => ?_
  rw [nbits_testBit, nbits_testBit, putBits_testBit v n _ hhi (by omega), show h - lo + 1 - (l - lo) = h + 1 - l by omega]
  by_cases inside : i < h + 1 - l
  · rw [if_pos (by omega), show l + i - lo = l - lo + i by omega]
  · simp [inside]

theorem lastLoad_status (s : State) {st : Nat} (hst : st < 256) : bits ((s.lastLoad st 0 0).rd Reg.ID_JOB_STATE) 15 8 = st := by
  rw [State.lastLoad, rd_wrB_same, bits_putBits_within _ _ (by decide) (by decide) (by decide) (by decide)]
  unfold nbits at_
  omega

/-- An operation of a number can be found. -/
theorem opOf_of_mem {s : State} {r seq : Nat} {o : CmdOp} (ho : o ∈ (s.ring r).ops) (hs : o.seq = seq) :
    ∃ p, s.opOf r seq = some p :=
  Option.isSome_iff_exists.mp (List.find?_isSome.mpr ⟨o, ho, by simp [hs]⟩)

theorem ringCI_of_frame {R : Nat → Prop} {s t : State} {r : Nat} (h : Frame R s t) (hr : ¬R (Reg.CMD_RING_IDX r)) :
    t.ringCI r = s.ringCI r := by
  unfold State.ringCI State.rdB
  rw [h.rd _ hr]

theorem ringIdx_ne_job (r : Nat) : Reg.CMD_RING_IDX r ≠ Reg.ID_JOB_STATE := by
  unfold Reg.CMD_RING_IDX Reg.ID_JOB_STATE
  omega

theorem ringIdx_ne_evt (r : Nat) : Reg.CMD_RING_IDX r ≠ Reg.CMD_RING_EVT r := by
  unfold Reg.CMD_RING_IDX Reg.CMD_RING_EVT
  omega

theorem ringEvt_ne_job (r : Nat) : Reg.CMD_RING_EVT r ≠ Reg.ID_JOB_STATE := by
  unfold Reg.CMD_RING_EVT Reg.ID_JOB_STATE
  omega

section AcceptEnds
variable (u : State) (r seq : Nat) (e : List Byte) (st : Nat)

theorem acceptEnds_regFrame : RegFrame (· = Reg.ID_JOB_STATE) u (u.acceptEnds r seq e st) := by
  have told : RegFrame (· = Reg.ID_JOB_STATE) u (if coOpcode e = 0x10 then u.lastLoad st 0 0 else u) := by
    split
    · exact lastLoad_regFrame u st 0 0
    · exact .refl u
  exact told.trans (opDone_regFrame _ _ _ _ _ _)

@[simp] theorem acceptEnds_turn : (u.acceptEnds r seq e st).turn = u.turn := by
  unfold State.acceptEnds
  rw [opDone_turn]
  split <;> rfl

/-- LAST_STATUS tells the end of a LOAD (R62). -/
theorem acceptEnds_last (he : coOpcode e = 0x10) (hst : st < 256) :
    bits ((u.acceptEnds r seq e st).rd Reg.ID_JOB_STATE) 15 8 = st := by
  unfold State.acceptEnds
  rw [opDone_rd, if_pos he, lastLoad_status u hst]

/-- An entry that ends as it is accepted stays with its status. -/
theorem acceptEnds_ring {o : CmdOp} (ho : o ∈ (u.ring r).ops) (hs : o.seq = seq) (hst : st ≠ 0) :
    (u.acceptEnds r seq e st).ring r = { u.ring r with ops := endOps seq st 0 0 (u.ring r).ops } := by
  have same : (if coOpcode e = 0x10 then u.lastLoad st 0 0 else u).ring r = u.ring r := by
    split <;> rfl
  obtain ⟨p, hp⟩ := opOf_of_mem (s := if coOpcode e = 0x10 then u.lastLoad st 0 0 else u) (by rw [same]; exact ho) hs
  unfold State.acceptEnds
  rw [opDone_ring_kept hp fun h => hst h.2, same]

end AcceptEnds

/-- The entry is done at once with a status: its operation stands last with the result, and of a LOAD LAST_STATUS tells it (R62). -/
def entryEnds (s t : State) (r : Nat) (e : List Byte) (st : Nat) : Prop :=
  (t.ring r).ops.getLast? = some (endedOp (newOp s r e) st 0 0) ∧ (t.ring r).ops.length = (s.ring r).ops.length + 1
    ∧ (coOpcode e = 0x10 → bits (t.rd Reg.ID_JOB_STATE) 15 8 = st)

/-- What the acceptance of an entry leaves (R391, R393). -/
structure EntryTaken (s t : State) (r : Nat) (e : List Byte) : Prop where
  ci : t.ringCI r = (s.ringCI r + 1) % 2 ^ 32
  stamp : (t.ring r).stamp = none
  byte : ∀ a, t.byte a = s.byte a
  good : entryOk e = true → (jobctlOp (coOpcode e) = true → s.ringJobctl r = true) →
    (t.ring r).ops = (s.ring r).ops ++ [newOp s r e]
  malformed : entryOk e = false → entryEnds s t r e St.misalign ∧ bit (t.rd (Reg.CMD_RING_EVT r)) 2 = true
  denied : entryOk e = true → jobctlOp (coOpcode e) = true → s.ringJobctl r = false → entryEnds s t r e St.denied

section Accept
variable (s : State) (r : Nat) (e : List Byte)

/-- An entry that ends as it is accepted: what stands when its operation was appended and perhaps an event set. -/
theorem acceptEnds_entryEnds {u : State} (hu : u.ring r = (takeEntry s r e).ring r) {st : Nat} (h0 : st ≠ 0) (hst : st < 256) :
    entryEnds s (u.acceptEnds r (s.nextId + 1) e st) r e st
      ∧ ((u.acceptEnds r (s.nextId + 1) e st).ring r).stamp = none := by
  have ring := hu.trans (takeEntry_ring s r e)
  have ops : (u.ring r).ops = (s.ring r).ops ++ [newOp s r e] := congrArg Ring.ops ring
  have last : newOp s r e ∈ (u.ring r).ops := by rw [ops]; exact List.mem_append_right _ List.mem_cons_self
  have ended := acceptEnds_ring u r (s.nextId + 1) e st last rfl h0
  refine ⟨⟨?_, ?_, fun he => acceptEnds_last u r _ e st he hst⟩, ?_⟩
  · rw [ended, ops, endOps, List.map_append, List.map_singleton, List.getLast?_concat]
    exact congrArg some (if_pos (beq_self_eq_true _))
  · rw [ended, ops, endOps, List.length_map, List.length_append]
    rfl
  · rw [ended, ring]

theorem accept_regFrame : RegFrame (acceptReg r) s (s.accept r e) := by
  have took := takeEntry_regFrame s r e
  have ends (u : State) (st : Nat) : RegFrame (acceptReg r) u (u.acceptEnds r (s.nextId + 1) e st) :=
    regFrame_mono (acceptEnds_regFrame u r _ e st) fun _ h => .inr (.inr (.inr h))
  rw [accept_eq]
  split
  · exact (took.trans (regFrame_mono (ringEvent_regFrame _ r 2 _) fun _ h => .inr (.inr (.inl h)))).trans (ends _ _)
  · split
    · exact took.trans (ends _ _)
    · exact took

theorem accept_ringCI : (s.accept r e).ringCI r = (s.ringCI r + 1) % 2 ^ 32 := by
  have taken := takeEntry_ringCI s r e
  have ends (u : State) (st : Nat) : (u.acceptEnds r (s.nextId + 1) e st).ringCI r = u.ringCI r :=
    ringCI_of_frame (acceptEnds_regFrame u r _ e st).toFrame (ringIdx_ne_job r)
  have told : ((takeEntry s r e).ringEvent r 2 St.misalign).ringCI r = (takeEntry s r e).ringCI r :=
    ringCI_of_frame (ringEvent_regFrame _ r 2 _).toFrame (ringIdx_ne_evt r)
  rw [accept_eq]
  split
  · rw [ends, told, taken]
  · split
    · rw [ends, taken]
    · exact taken

theorem accept_taken : EntryTaken s (s.accept r e) r e := by
  have malformed := acceptEnds_entryEnds s r e (ringEvent_ring (takeEntry s r e) r 2 St.misalign r) (st := St.misalign)
    (by decide) (by decide)
  have denied := acceptEnds_entryEnds s r e (u := takeEntry s r e) rfl (st := St.denied) (by decide) (by decide)
  have event : bit ((((takeEntry s r e).ringEvent r 2 St.misalign).acceptEnds r (s.nextId + 1) e St.misalign).rd
      (Reg.CMD_RING_EVT r)) 2 = true := by
    rw [(acceptEnds_regFrame _ r _ e _).rd _ (ringEvt_ne_job r), ringEvent_bit _ _ _ (by decide)]
  have taken := takeEntry_ring s r e
  have jobctl := takeEntry_ringJobctl s r e
  refine ⟨accept_ringCI s r e, ?_, (accept_regFrame s r e).byte, fun ok may => ?_, fun bad => ?_, fun ok op no => ?_⟩
  · rw [accept_eq]
    split
    · exact malformed.2
    · split
      · exact denied.2
      · rw [taken]
  · have admitted : (jobctlOp (coOpcode e) && !s.ringJobctl r) = false := by
      cases op : jobctlOp (coOpcode e)
      · rfl
      · rw [may op]; rfl
    rw [accept_eq, ok, jobctl, admitted]
    exact congrArg Ring.ops taken
  · rw [accept_eq, bad]
    exact ⟨malformed.1, event⟩
  · rw [accept_eq, ok, jobctl, op, no]
    exact denied.1

@[simp] theorem accept_turn : (s.accept r e).turn = s.turn := by
  have event : ((takeEntry s r e).ringEvent r 2 St.misalign).turn = s.turn := raise_turn _ _ _ _ _ _ _
  rw [accept_eq]
  split
  · rw [acceptEnds_turn, event]
  · split
    · exact acceptEnds_turn ..
    · rfl

end Accept

/-- The states from which an acceptance leaves the same: the ring, its registers and memory agree. -/
structure SameRing (s u : State) (r : Nat) : Prop where
  regs : u.regs = s.regs
  mem : u.mem = s.mem
  byte : ∀ a, u.byte a = s.byte a
  ring : u.ring r = s.ring r
  nextId : u.nextId = s.nextId
  ci : u.ringCI r = s.ringCI r
  jobctl : u.ringJobctl r = s.ringJobctl r

/-- A command that accepts an entry, from a state in which at most a counter or the rotation has moved. -/
theorem commit_accept_taken {s u : State} {r : Nat} (hc : s.Canonical) (h : SameRing s u r) (e : List Byte) :
    EntryTaken s (s.commit (u.accept r e)) r e := by
  have frame := accept_regFrame u r e
  have rd (a : Nat) := commit_rd_eq hc (s := u.accept r e) (frame.regs.trans h.regs) a
  have byte (a : Nat) := commit_byte_eq hc (s := u.accept r e) (frame.mem.trans h.mem) a
  have op : newOp u r e = newOp s r e := by rw [newOp, newOp, h.nextId, h.ci]
  obtain ⟨ci, stamp, bytes, good, malformed, denied⟩ := accept_taken u r e
  simp only [entryEnds, op, h.ring, h.jobctl] at good malformed denied
  refine ⟨?_, stamp, fun a => (byte a).trans ((bytes a).trans (h.byte a)), good, fun bad => ?_, fun ok jc no => ?_⟩
  · rw [← h.ci, ← ci]
    simp only [State.ringCI, State.rdB, rd]
  · simp only [entryEnds, rd, commit_ring]
    exact malformed bad
  · simp only [entryEnds, rd, commit_ring]
    exact denied ok jc no

/-- The ring is the one that was served last. -/
def served (s : State) (r : Nat) : State := { s with turn := r }

/-- A further read of the slot is counted. -/
def reread (s : State) (r : Nat) : State := s.addB (Reg.CMD_RING_CNT r) 63 32 1

theorem served_sameRing (s : State) (r : Nat) : SameRing s (served s r) r := ⟨rfl, rfl, fun _ => rfl, rfl, rfl, rfl, rfl⟩

theorem reread_regFrame (s : State) (r : Nat) : RegFrame (· = Reg.CMD_RING_CNT r) s (reread s r) := addB_regFrame s _ _ _ _

theorem reread_ringCI (s : State) (r : Nat) : (reread s r).ringCI r = s.ringCI r :=
  ringCI_of_frame (reread_regFrame s r).toFrame (ringCnt_ne_idx r).symm

theorem reread_sameRing (s : State) (r : Nat) : SameRing s (reread s r) r := by
  have frame := reread_regFrame s r
  have jobctl : (reread s r).ringJobctl r = s.ringJobctl r := by
    unfold State.ringJobctl State.rdB
    rw [frame.rd _ fun h => not_acceptReg_cfg r (.inr (.inl h))]
  exact ⟨frame.regs, frame.mem, frame.byte, rfl, rfl, reread_ringCI s r, jobctl⟩

/-! ### The commands -/

/-- The operation that stands for a failed stamp check (R391). -/
def stampOp (s : State) (r : Nat) : CmdOp :=
  { seq := s.nextId + 1, index := s.ringCI r, entry := [], started := true, done := some (St.stamp, 0, 0) }

/-- The ring is stopped, and its completion waits to be written. -/
def stampStop (s : State) (r : Nat) : State :=
  ((({ s with nextId := s.nextId + 1 } : State).setRing r { s.ring r with ops := (s.ring r).ops ++ [stampOp s r], stamp := none }).setRingState
    r 1).ringEvent r 0 St.stamp

section Fetch
variable {r : BitVec 4} {s : State} (hl : s.Live) (hc : s.Canonical)
include hl hc

theorem exec_entryFetch_other (h : s.ringTurn ≠ some r.toNat) : exec (.entryFetch r) s = .next s := by
  rw [exec_entryFetch, live_eq hl hc, fxEntryFetch, if_neg h, commit_self hc]

section Sound
variable (hs : Claim.sound s (slotAddr r.toNat (s.ringCI r.toNat)) 256)
include hs

theorem exec_entryFetch_turn (h : s.ringTurn = some r.toNat) : exec (.entryFetch r) s
    = if leAt (slotBytes s r.toNat) 0 4 = s.ringCI r.toNat
      then .next (s.commit ((served s r.toNat).accept r.toNat (slotBytes s r.toNat)))
      else .next (s.commit ((served s r.toNat).setRing r.toNat { s.ring r.toNat with stamp := some (s.now, s.now + 10, 20) })) := by
  have checked : ({ s with turn := r.toNat } : State).slotCheck r.toNat
      = (if leAt (slotBytes s r.toNat) 0 4 = s.ringCI r.toNat then some (slotBytes s r.toNat) else none,
        served s r.toNat) := slotCheck_sound hs
  rw [exec_entryFetch, live_eq hl hc, fxEntryFetch, if_pos h]
  simp only [checked]
  by_cases mine : leAt (slotBytes s r.toNat) 0 4 = s.ringCI r.toNat
  · rw [if_pos mine, if_pos mine]
  · rw [if_neg mine, if_neg mine]
    rfl

theorem exec_stampReread_due {t0 next iv : Nat} (hf : s.fetching r.toNat = true) (hst : (s.ring r.toNat).stamp = some (t0, next, iv))
    (hn : next ≤ s.now) : exec (.stampReread r) s
    = if leAt (slotBytes s r.toNat) 0 4 = s.ringCI r.toNat
      then .next (s.commit ((reread s r.toNat).accept r.toNat (slotBytes s r.toNat)))
      else .next (s.commit ((reread s r.toNat).setRing r.toNat
        { s.ring r.toNat with stamp := some (t0, s.now + iv, min 640 (2 * iv)) })) := by
  have ci := reread_ringCI s r.toNat
  have bytes : slotBytes (reread s r.toNat) r.toNat = slotBytes s r.toNat := by
    unfold slotBytes
    rw [ci]
    rfl
  have checked : (s.addB (Reg.CMD_RING_CNT r.toNat) 63 32 1).slotCheck r.toNat
      = (if leAt (slotBytes s r.toNat) 0 4 = s.ringCI r.toNat then some (slotBytes s r.toNat) else none, reread s r.toNat) := by
    have found := slotCheck_sound (s := reread s r.toNat) (r := r.toNat) (by rw [ci]; exact hs)
    rw [bytes, ci] at found
    exact found
  have due : (s.fetching r.toNat && decide (next ≤ s.now)) = true := by rw [hf, decide_eq_true hn]; rfl
  rw [exec_stampReread, live_eq hl hc, fxStampReread, hst]
  simp only [due, if_true, checked]
  by_cases mine : leAt (slotBytes s r.toNat) 0 4 = s.ringCI r.toNat
  · rw [if_pos mine, if_pos mine]
  · rw [if_neg mine, if_neg mine]
    rfl

end Sound

theorem exec_stampTimeout_late {t0 next iv : Nat} (hst : (s.ring r.toNat).stamp = some (t0, next, iv))
    (hn : t0 + s.rdB Reg.CMD_CFG 31 0 ≤ s.now) : exec (.stampTimeout r) s = .next (s.commit (stampStop s r.toNat)) := by
  rw [exec_stampTimeout, live_eq hl hc, fxStampTimeout, hst]
  simp only [hn, if_true]
  rfl

end Fetch

/-- The registers that a failed stamp check writes. -/
def stampReg (r a : Nat) : Prop := a = Reg.CMD_RING_STATUS r ∨ a = Reg.CMD_RING_EVT r

section StampStop
variable (s : State) (r : Nat)

theorem stampStop_regFrame : RegFrame (stampReg r) s (stampStop s r) := by
  have numbered : RegFrame (stampReg r) s { s with nextId := s.nextId + 1 } := (RegFrame.refl s).keep rfl rfl rfl rfl
  exact ((numbered.trans (setRing_regFrame _ _ _)).trans (regFrame_mono (wrB_regFrame _ _ _ _ _) fun _ => .inl)).trans
    (regFrame_mono (ringEvent_regFrame _ r 0 _) fun _ => .inr)

theorem stampStop_ring : (stampStop s r).ring r = { s.ring r with ops := (s.ring r).ops ++ [stampOp s r], stamp := none } := by
  unfold stampStop
  rw [ringEvent_ring]
  exact ring_setRing_same (ring_ne_of_mem (List.mem_append_right _ List.mem_cons_self))

theorem ringStatus_ne_evt : Reg.CMD_RING_STATUS r ≠ Reg.CMD_RING_EVT r := by
  unfold Reg.CMD_RING_STATUS Reg.CMD_RING_EVT
  omega

theorem stampStop_ringState : (stampStop s r).ringState r = 1 := by
  unfold State.ringState State.rdB stampStop State.setRingState
  rw [(ringEvent_regFrame _ r 0 _).rd _ (ringStatus_ne_evt r), rd_wrB_same, bits_putBits _ _ (by decide) (by decide)]
  rfl

theorem stampStop_event : bit ((stampStop s r).rd (Reg.CMD_RING_EVT r)) 0 = true := ringEvent_bit _ r _ (by decide)

end StampStop

/-- Settles O16: the rotation finds the first eligible ring, and a sound slot decides by its stamp whether its entry is taken. -/
theorem entryFetched : Obligations.EntryFetched := by
  refine ⟨fun r s hl hc => ⟨fun turn => ⟨ringTurn_eligible turn, fun k hk he => ringTurn_first turn hk he⟩,
    exec_entryFetch_other hl hc⟩, fun r s hl hc hs => ⟨fun turn => ?_, fun t0 next iv hf hst hn => ?_⟩,
    fun r s t0 next iv hl hc hst late => ?_⟩
  · have run := exec_entryFetch_turn hl hc hs turn
    refine ⟨fun mine => ?_, fun other => ⟨_, run.trans (if_neg other), ?_, rfl, fun a => ?_, fun a => ?_⟩⟩
    · have taken := commit_accept_taken hc (served_sameRing s r.toNat) (slotBytes s r.toNat)
      exact ⟨_, run.trans (if_pos mine), ⟨taken.ci, taken.stamp, taken.byte⟩, accept_turn _ _ _, fun h => taken.good h.2.1 h.2.2,
        taken.malformed, taken.denied⟩
    · rw [commit_ring, ring_setRing_same (ring_ne_of_stamp rfl)]
    · exact commit_rd_eq hc rfl a
    · exact commit_byte_eq hc rfl a
  · have run := exec_stampReread_due hl hc hs hf hst hn
    refine ⟨fun mine => ?_, fun other => ⟨_, run.trans (if_neg other), ?_, ?_⟩⟩
    · have taken := commit_accept_taken hc (reread_sameRing s r.toNat) (slotBytes s r.toNat)
      exact ⟨_, run.trans (if_pos mine), ⟨taken.ci, taken.stamp, taken.byte⟩, fun h => taken.good h.2.1 h.2.2,
        taken.malformed, taken.denied⟩
    · rw [commit_ring, ring_setRing_same (ring_ne_of_stamp rfl)]
    · have frame := (reread_regFrame s r.toNat).trans (setRing_regFrame _ r.toNat
        { s.ring r.toNat with stamp := some (t0, s.now + iv, min 640 (2 * iv)) })
      rw [State.ringCI, State.rdB, commit_frame_rd hc frame.toFrame]
      exact reread_ringCI s r.toNat
  · have frame := stampStop_regFrame s r.toNat
    have ring := stampStop_ring s r.toNat
    refine ⟨_, exec_stampTimeout_late hl hc hst late, ?_, ?_, ?_, ?_, fun a hs he => ?_, commit_regFrame_byte hc frame⟩
    · rw [State.ringState, State.rdB, commit_frame_rd hc frame.toFrame]
      exact stampStop_ringState s r.toNat
    · rw [commit_frame_rd hc frame.toFrame]
      exact stampStop_event s r.toNat
    · rw [commit_ring, ring]
    · rw [commit_ring, ring]
      rfl
    · rw [commit_frame_rd hc frame.toFrame]
      exact frame.rd a fun h => h.elim hs he

end Sys2Proof.Proofs
end

section
/-!
SUPPORT. The end of a job's commands: what chains of register writes leave, the fields of ID_JOB_STATE (R54, R62), and the operations
that waited for the unload (R55, R56).
-/

namespace Sys2Proof.Proofs

open Sys2Proof Sys2Proof.Machine Sys2Proof.Laws

/-! ### Register writes -/

/-- From `s` to `t` nothing but registers was written, and no byte of memory. -/
structure RegWrites (s t : State) : Prop where
  only : t = { s with jnl := t.jnl }
  byte : ∀ a, t.byte a = s.byte a

namespace RegWrites

variable {s t u : State}

theorem refl (s : State) : RegWrites s s := ⟨rfl, fun _ => rfl⟩

theorem trans (h : RegWrites s t) (k : RegWrites t u) : RegWrites s u :=
  ⟨k.only.trans (by rw [h.only]), fun a => (k.byte a).trans (h.byte a)⟩

theorem wr (h : RegWrites s t) (a : Nat) (v : Word) : RegWrites s (t.wr a v) := h.trans ⟨rfl, fun _ => rfl⟩

theorem wrB (h : RegWrites s t) (a hi lo n : Nat) : RegWrites s (t.wrB a hi lo n) := h.wr a _

theorem revert (h : RegWrites s t) (b : Bool) (ns : List RegName) : RegWrites s (t.revert b ns) := h.trans ⟨rfl, fun _ => rfl⟩

theorem foldl {α : Type} {f : State → α → State} {l : List α} (h : RegWrites s t) (hf : ∀ x t, RegWrites t (f t x)) :
    RegWrites s (l.foldl f t) := by
  induction l generalizing t with
  | nil => exact h
  | cons x l ih => exact ih (h.trans (hf x t))

theorem regs (h : RegWrites s t) : t.regs = s.regs := by rw [h.only]
theorem mem (h : RegWrites s t) : t.mem = s.mem := by rw [h.only]
theorem out (h : RegWrites s t) : t.out = s.out := by rw [h.only]
theorem rings (h : RegWrites s t) : t.rings = s.rings := by rw [h.only]
theorem unloads (h : RegWrites s t) : t.unloads = s.unloads := by rw [h.only]
theorem loadJob (h : RegWrites s t) : t.loadJob = s.loadJob := by rw [h.only]
theorem opOf (h : RegWrites s t) (r seq : Nat) : t.opOf r seq = s.opOf r seq := by rw [h.only]; rfl

theorem regFrame (h : RegWrites s t) : RegFrame (fun _ => True) s t :=
  ⟨⟨h.regs, h.mem, fun _ ha => absurd trivial ha⟩, h.byte, h.out⟩

end RegWrites

theorem putDigest_regWrites (s : State) (rs : List Nat) (d : List Byte) : RegWrites s (s.putDigest rs d) :=
  (RegWrites.refl s).foldl fun _ t => (RegWrites.refl t).wr _ _

theorem powerUnits_regWrites (s : State) (only : Bool) : RegWrites s (s.powerUnits only) :=
  ((((RegWrites.refl s).wr _ _).wr _ _).wr _ _).wr _ _

/-! ### The job's registers -/

theorem rdB_wrB_same (s : State) {a hi lo : Nat} (n : Nat) (hhi : hi < 64) (hl : lo ≤ hi) :
    (s.wrB a hi lo n).rdB a hi lo = n % 2 ^ (hi + 1 - lo) := by
  rw [State.rdB, rd_wrB_same, bits_putBits _ _ hhi hl]

theorem rdB_wrB_field (s : State) {a hi lo h l : Nat} (n : Nat) (hhi : hi < 64) (hl : lo ≤ hi) (hd : h < lo ∨ hi < l) :
    (s.wrB a hi lo n).rdB a h l = s.rdB a h l := by
  rw [State.rdB, rd_wrB_same, bits_putBits_other _ _ hhi hl hd]
  rfl

theorem rdB_of_frame {R : Nat → Prop} {s t : State} (h : Frame R s t) {a : Nat} (ha : ¬R a) (hi lo : Nat) :
    t.rdB a hi lo = s.rdB a hi lo := by
  unfold State.rdB
  rw [h.rd a ha]

theorem jobState_setJob (s : State) {n : Nat} (hn : n < 8) : (s.setJob n).jobState = n :=
  (rdB_wrB_same s n (by decide) (by decide)).trans (Nat.mod_eq_of_lt hn)

theorem jobState_lastLoad (s : State) (st rs sect : Nat) : (s.lastLoad st rs sect).jobState = s.jobState :=
  rdB_wrB_field s _ (by decide) (by decide) (.inl (by decide))

theorem putDigest_regFrame (s : State) {rs : List Nat} (d : List Byte) : RegFrame (· ∈ rs) s (s.putDigest rs d) := by
  have step (l : List (Nat × Nat)) (hl : ∀ x ∈ l, x.2 ∈ rs) (t : State) :
      RegFrame (· ∈ rs) t (l.foldl (fun s x => s.wr x.2 (w (leAt d (8 * x.1) 8))) t) := by
    induction l generalizing t with
    | nil => exact .refl t
    | cons x l ih =>
      exact ((RegFrame.refl t).wr (hl x List.mem_cons_self) _).trans (ih (fun y hy => hl y (List.mem_cons_of_mem _ hy)) _)
  exact step _ (fun x hx => (List.of_mem_zip hx).2) s

theorem putDigest_first (s : State) (d : List Byte) : (s.putDigest mnfRegs d).rd Reg.ID_MNF_DIGEST0 = w (leAt d 0 8) := by
  have unfolded : s.putDigest mnfRegs d = (((s.wr Reg.ID_MNF_DIGEST0 (w (leAt d 0 8))).wr Reg.ID_MNF_DIGEST1 (w (leAt d 8 8))).wr
      Reg.ID_MNF_DIGEST2 (w (leAt d 16 8))).wr Reg.ID_MNF_DIGEST3 (w (leAt d 24 8)) := rfl
  rw [unfolded, rd_wr, if_neg (by decide), rd_wr, if_neg (by decide), rd_wr, if_neg (by decide), rd_wr_same]

theorem putDigest_last (s : State) (d : List Byte) : (s.putDigest mnfRegs d).rd Reg.ID_MNF_DIGEST3 = w (leAt d 24 8) :=
  rd_wr_same _ _ _

/-- The registers of the powered units (R418). -/
def powerReg (a : Nat) : Prop := a = Reg.CLK_PD_GC0 ∨ a = Reg.CLK_PD_GC1 ∨ a = Reg.CLK_PD_ME ∨ a = Reg.CLK_PD_UE

theorem powerUnits_regFrame (s : State) (only : Bool) : RegFrame powerReg s (s.powerUnits only) :=
  ((((RegFrame.refl s).wr (.inl rfl) _).wr (.inr (.inl rfl)) _).wr (.inr (.inr (.inl rfl))) _).wr (.inr (.inr (.inr rfl))) _

/-! ### Operations that waited for the unload -/

@[simp] theorem commit_opResult (s t : State) (r seq : Nat) : Claim.opResult (s.commit t) r seq = Claim.opResult t r seq := rfl

/-- Operations complete with OK. -/
def opsDone (us : List (Nat × Nat)) (s : State) : State := us.foldl (fun s u => s.opDone u.1 u.2 St.ok 0 0) s

theorem unloadsDone_eq (s : State) : s.unloadsDone = opsDone s.unloads { s with unloads := [] } := rfl

theorem opsDone_rings (us : List (Nat × Nat)) (s : State) : ∃ x, opsDone us s = { s with rings := x } := by
  induction us generalizing s with
  | nil => exact ⟨s.rings, rfl⟩
  | cons u us ih =>
    obtain ⟨x, hx⟩ := ih (s.opDone u.1 u.2 St.ok 0 0)
    exact ⟨x, hx.trans (by rw [opDone_rings s])⟩

theorem opsDone_regFrame {R : Nat → Prop} (us : List (Nat × Nat)) (s : State) : RegFrame R s (opsDone us s) := by
  obtain ⟨x, hx⟩ := opsDone_rings us s
  rw [hx]
  exact (RegFrame.refl s).keep rfl rfl rfl rfl

theorem unloadsDone_fields (s : State) : ∃ x, s.unloadsDone = { s with rings := x, unloads := [] } := by
  rw [unloadsDone_eq]
  exact opsDone_rings s.unloads { s with unloads := [] }

theorem unloadsDone_regFrame {R : Nat → Prop} (s : State) : RegFrame R s s.unloadsDone := by
  have dropped : RegFrame R s { s with unloads := [] } := (RegFrame.refl s).keep rfl rfl rfl rfl
  rw [unloadsDone_eq]
  exact dropped.trans (opsDone_regFrame _ _)

/-- The end of other operations leaves one. -/
theorem opsDone_opOf_other {us : List (Nat × Nat)} {s : State} {r seq : Nat} {o : CmdOp} (h : s.opOf r seq = some o)
    (hn : (r, seq) ∉ us) : (opsDone us s).opOf r seq = some o := by
  induction us generalizing s with
  | nil => exact h
  | cons u us ih =>
    exact ih (opDone_opOf_other h (List.ne_of_not_mem_cons hn).symm St.ok 0 0) (List.not_mem_of_not_mem_cons hn)

theorem unloadsDone_opOf_other {s : State} {r seq : Nat} {o : CmdOp} (h : s.opOf r seq = some o) (hn : (r, seq) ∉ s.unloads) :
    s.unloadsDone.opOf r seq = some o := by
  rw [unloadsDone_eq]
  exact opsDone_opOf_other (s := { s with unloads := [] }) h hn

/-- An operation that is among them, or that has ended with OK already, has ended with OK (R399: without QUIET it stays). -/
theorem opsDone_result {us : List (Nat × Nat)} {s : State} {r seq : Nat} {o : CmdOp} (h : s.opOf r seq = some o)
    (hq : coQuiet o.entry = false) (hd : o.done = some (St.ok, 0, 0) ∨ (r, seq) ∈ us) :
    Claim.opResult (opsDone us s) r seq = some (St.ok, 0, 0) := by
  induction us generalizing s o with
  | nil =>
    rw [opsDone, List.foldl_nil, Claim.opResult, h]
    exact hd.resolve_right List.not_mem_nil
  | cons u us ih =>
    by_cases hu : u = (r, seq)
    · subst hu
      have kept := opDone_opOf_kept h (st := St.ok) (rs := 0) (v := 0) (by rw [hq]; exact fun hf => Bool.noConfusion hf.1)
      exact ih kept hq (.inl rfl)
    · exact ih (opDone_opOf_other h hu St.ok 0 0) hq
        (hd.imp_right fun hm => (List.mem_cons.mp hm).resolve_left fun e => hu e.symm)

end Sys2Proof.Proofs
end

section
/-!
SUPPORT. The end of an unload (R54, R60): memory is zero, no field holds the job, and nothing after the zeroisation writes a byte.
-/

namespace Sys2Proof.Proofs

open Sys2Proof Sys2Proof.Machine Sys2Proof.Laws

/-- The stores change at `commit` alone, and the operations of the rings stay. -/
structure OpsKept (s t : State) : Prop where
  regs : t.regs = s.regs
  mem : t.mem = s.mem
  rings : t.rings = s.rings
  unloads : t.unloads = s.unloads

theorem OpsKept.trans {s t u : State} (h : OpsKept s t) (k : OpsKept t u) : OpsKept s u :=
  ⟨k.regs.trans h.regs, k.mem.trans h.mem, k.rings.trans h.rings, k.unloads.trans h.unloads⟩

theorem OpsKept.foldl {α : Type} {f : State → α → State} {l : List α} {s t : State} (h : OpsKept s t)
    (hf : ∀ x t, OpsKept t (f t x)) : OpsKept s (l.foldl f t) := by
  induction l generalizing t with
  | nil => exact h
  | cons x l ih => exact ih (h.trans (hf x t))

theorem RegWrites.opsKept {s t : State} (h : RegWrites s t) : OpsKept s t := ⟨h.regs, h.mem, h.rings, h.unloads⟩

/-! ### Zeroisation -/

section Zeroise
variable (s : State) (a n : Nat)

/-- The bursts of a zeroisation, counted at their stacks. -/
def countBursts : State :=
  if isLpddr a then (List.range 8).foldl (fun s k => s.addB (Reg.MEM_CNT_WR k) 63 0 (stackBursts k a n)) s else s

theorem countBursts_regWrites : RegWrites s (countBursts s a n) := by
  unfold countBursts
  split
  · exact (RegWrites.refl s).foldl fun _ t => (RegWrites.refl t).wrB _ _ _ _
  · exact .refl s

theorem zeroise_opsKept : OpsKept s (s.zeroise a n) :=
  have counted := (countBursts_regWrites s a n).opsKept
  ⟨counted.regs, counted.mem, counted.rings, counted.unloads⟩

theorem zeroise_byte (b : Nat) : (s.zeroise a n).byte b = if a ≤ b ∧ b < a + n then 0 else s.byte b := by
  rw [← (countBursts_regWrites s a n).byte b, ← byte_rawZero]
  rfl

end Zeroise

/-- LPDDR and the operand stores are zeroised. -/
def zeroMemory (s : State) : State :=
  [0, 1, 2, 3].foldl (fun s n => s.zeroise (sramBase n) sramBytes) (s.zeroise 0 lpddrBytes)

/-- The registers of the job's blocks are cleared, and the channels of its cores. -/
def clearRegs (s : State) : State := ((s.revert false unloadCleared).enablesOff.baseBack).mbxUnload

/-- The fields that hold the job, emptied. -/
def clearFields (s : State) : State :=
  { s with
    stages := [], mbs := [], ledgers := [], qConsumer := [], remoteQs := [], msPlaced := [], tensors := [], engines := []
    cores := [], scratch := [], journal := none, permJournal := none, devRole := 0, devCount := 0 }

/-- The registers that tell that no job is loaded. -/
def clearJob (s : State) : State :=
  ((((((s.powerUnits true).putDigest mnfRegs []).putDigest plcRegs []).wr Reg.ID_JOB_ID 0).wrB Reg.ID_JOB_STATE 41 40 0).setJob 0)

/-- All of the zeroisation but the completions of the UNLOADs. -/
def unloaded (s : State) : State := clearJob (clearFields (clearRegs (zeroMemory s)))

theorem fxZeroisationComplete_eq {s : State} (hj : s.jobState = 4) (hn : s.loadJob = none) :
    fxZeroisationComplete s = (unloaded s).unloadsDone := by
  unfold fxZeroisationComplete
  rw [if_pos ⟨hj, by rw [hn]; rfl⟩]
  rfl

theorem zeroMemory_opsKept (s : State) : OpsKept s (zeroMemory s) :=
  (zeroise_opsKept s _ _).foldl fun _ t => zeroise_opsKept t _ _

theorem zeroMemory_lpddr (s : State) {a : Nat} (ha : a < lpddrBytes) : (zeroMemory s).byte a = 0 := by
  simp only [zeroMemory, List.foldl_cons, List.foldl_nil, zeroise_byte, Nat.zero_le, Nat.zero_add, ha, and_self, if_true, ite_self]

theorem zeroMemory_sram (s : State) {n a : Nat} (hn : n < 4) (h0 : sramBase n ≤ a) (h1 : a < sramBase n + sramBytes) :
    (zeroMemory s).byte a = 0 := by
  have die : n = 0 ∨ n = 1 ∨ n = 2 ∨ n = 3 := by omega
  simp only [zeroMemory, List.foldl_cons, List.foldl_nil, zeroise_byte]
  rcases die with rfl | rfl | rfl | rfl <;> simp only [h0, h1, and_self, if_true, ite_self]

theorem enablesOff_regWrites (s : State) : RegWrites s s.enablesOff :=
  ((RegWrites.refl s).foldl fun _ t => (RegWrites.refl t).wr _ _).foldl fun _ t => (RegWrites.refl t).wr _ _

theorem mbxUnload_regWrites (s : State) : RegWrites s s.mbxUnload := by
  refine (RegWrites.refl s).foldl fun k t => ?_
  split
  · exact (((RegWrites.refl t).foldl fun _ u => (RegWrites.refl u).wr _ _).wr _ _).wr _ _
  · exact .refl t

/-- The base set of routes written back (R352). -/
theorem baseRoutes_regWrites (s : State) : RegWrites s
    (s.baseRoutes.foldl (fun s e => s.wr e.1 e.2) (s.revert false [.RTE_ADMIT, .RTE_GROUP, .RTE_MEMBER])) :=
  ((RegWrites.refl s).revert _ _).foldl fun _ t => (RegWrites.refl t).wr _ _

theorem baseBack_keeps (s : State) : OpsKept s s.baseBack ∧ ∀ a, s.baseBack.byte a = s.byte a :=
  have back := baseRoutes_regWrites s
  ⟨⟨back.regs, back.mem, back.rings, back.unloads⟩, back.byte⟩

theorem clearRegs_keeps (s : State) : OpsKept s (clearRegs s) ∧ ∀ a, (clearRegs s).byte a = s.byte a := by
  have off := ((RegWrites.refl s).revert false unloadCleared).trans (enablesOff_regWrites _)
  obtain ⟨kept, byte⟩ := baseBack_keeps (s.revert false unloadCleared).enablesOff
  have freed := mbxUnload_regWrites (s.revert false unloadCleared).enablesOff.baseBack
  exact ⟨(off.opsKept.trans kept).trans freed.opsKept, fun a => (freed.byte a).trans ((byte a).trans (off.byte a))⟩

theorem clearFields_opsKept (s : State) : OpsKept s (clearFields s) := ⟨rfl, rfl, rfl, rfl⟩

theorem clearFields_byte (s : State) (a : Nat) : (clearFields s).byte a = s.byte a := rfl

theorem clearJob_regWrites (s : State) : RegWrites s (clearJob s) :=
  (((((powerUnits_regWrites s true).trans (putDigest_regWrites _ _ _)).trans (putDigest_regWrites _ _ _)).wr _ _).wrB _ _ _ _).wrB _ _ _ _

theorem clearJob_jobState (s : State) : (clearJob s).jobState = 0 := jobState_setJob _ (by decide)

theorem clearJob_jobId (s : State) : (clearJob s).rd Reg.ID_JOB_ID = 0 := by
  have apart : Reg.ID_JOB_ID ≠ Reg.ID_JOB_STATE := by decide
  unfold clearJob State.setJob
  rw [(wrB_regFrame _ _ _ _ _).rd _ apart, (wrB_regFrame _ _ _ _ _).rd _ apart, rd_wr_same]

theorem unloaded_opsKept (s : State) : OpsKept s (unloaded s) :=
  (((zeroMemory_opsKept s).trans (clearRegs_keeps (zeroMemory s)).1).trans (clearFields_opsKept _)).trans
    (clearJob_regWrites _).opsKept

/-- No byte is written after the zeroisation. -/
theorem unloaded_byte (s : State) (a : Nat) : (unloaded s).byte a = (zeroMemory s).byte a :=
  ((clearJob_regWrites _).byte a).trans ((clearFields_byte _ a).trans ((clearRegs_keeps (zeroMemory s)).2 a))

theorem exec_zeroisationComplete_unloaded {s : State} (hl : s.Live) (hc : s.Canonical) (hj : s.jobState = 4) (hn : s.loadJob = none) :
    exec .zeroisationComplete s = .next (s.commit (unloaded s).unloadsDone) := by
  rw [exec_zeroisationComplete, live_eq hl hc, fxZeroisationComplete_eq hj hn]

section Commit
variable {s : State} (hc : s.Canonical)
include hc

theorem zeroised_rd (a : Nat) : (s.commit (unloaded s).unloadsDone).rd a = (unloaded s).rd a := by
  have frame := unloadsDone_regFrame (R := fun _ => False) (unloaded s)
  rw [commit_rd_eq hc (frame.regs.trans (unloaded_opsKept s).regs), frame.rd a not_false]

theorem zeroised_byte (a : Nat) : (s.commit (unloaded s).unloadsDone).byte a = (zeroMemory s).byte a := by
  have frame := unloadsDone_regFrame (R := fun _ => False) (unloaded s)
  rw [commit_byte_eq hc (frame.mem.trans (unloaded_opsKept s).mem), frame.byte a, unloaded_byte]

end Commit

/-- The fields that hold a job are empty (R60). -/
structure JobGone (t : State) : Prop where
  stages : t.stages = []
  mbs : t.mbs = []
  ledgers : t.ledgers = []
  engines : t.engines = []
  cores : t.cores = []
  tensors : t.tensors = []
  remoteQs : t.remoteQs = []
  scratch : t.scratch = []

theorem clearFields_jobGone (s : State) : JobGone (clearFields s) := ⟨rfl, rfl, rfl, rfl, rfl, rfl, rfl, rfl⟩

theorem JobGone.regWrites {s t : State} (h : JobGone s) (k : RegWrites s t) : JobGone t := by
  obtain ⟨h1, h2, h3, h4, h5, h6, h7, h8⟩ := h
  rw [k.only]
  exact ⟨h1, h2, h3, h4, h5, h6, h7, h8⟩

theorem JobGone.unloadsDone {s : State} (h : JobGone s) : JobGone s.unloadsDone := by
  obtain ⟨h1, h2, h3, h4, h5, h6, h7, h8⟩ := h
  obtain ⟨x, hx⟩ := unloadsDone_fields s
  rw [hx]
  exact ⟨h1, h2, h3, h4, h5, h6, h7, h8⟩

theorem JobGone.commit {t : State} (h : JobGone t) (s : State) : JobGone (s.commit t) := by
  obtain ⟨h1, h2, h3, h4, h5, h6, h7, h8⟩ := h
  exact ⟨h1, h2, h3, h4, by rw [State.commit, h5]; rfl, h6, h7, h8⟩

theorem unloaded_jobGone (s : State) : JobGone (unloaded s) := (clearFields_jobGone _).regWrites (clearJob_regWrites _)

/-- Settles O24: after the zeroisation registers alone are written, and the operations that waited end with OK. -/
theorem unloadZeroises : Obligations.UnloadZeroises := by
  refine ⟨fun s hl hc hj hn => ?_, fun s hl hc h => ?_⟩
  · have gone := (unloaded_jobGone s).unloadsDone.commit s
    refine ⟨_, exec_zeroisationComplete_unloaded hl hc hj hn, ?_, ?_, fun a ha => ?_, fun n hn a h0 h1 => ?_, gone.stages, gone.mbs,
      gone.ledgers, gone.engines, gone.cores, gone.tensors, gone.remoteQs, gone.scratch, ?_, fun r seq o hu ho hq => ?_⟩
    · rw [State.jobState, State.rdB, zeroised_rd hc]
      exact clearJob_jobState _
    · rw [zeroised_rd hc]
      exact clearJob_jobId _
    · rw [zeroised_byte hc, zeroMemory_lpddr s ha]
    · rw [zeroised_byte hc, zeroMemory_sram s hn h0 h1]
    · obtain ⟨x, hx⟩ := unloadsDone_fields (unloaded s)
      rw [commit_unloads, hx]
    · have kept := unloaded_opsKept s
      have waits : ({ unloaded s with unloads := [] } : State).opOf r seq = some o := by
        rw [← ho]
        simp only [State.opOf, State.ring, kept.rings]
      rw [commit_opResult, unloadsDone_eq]
      exact opsDone_result waits hq (.inr (by rw [kept.unloads]; exact hu))
  · have idle : ¬(s.jobState = 4 ∧ s.loadJob.isNone = true) := by
      rintro ⟨hj, hn⟩
      rw [Option.isNone_iff_eq_none.mp hn] at h
      exact h.elim (fun hne => hne hj) fun hs => Bool.noConfusion hs
    rw [exec_zeroisationComplete, live_eq hl hc, fxZeroisationComplete, if_neg idle, commit_self hc]

end Sys2Proof.Proofs
end

section
/-!
SUPPORT. A management core's read of LPDDR (R58, R294): the parts of a request join to the bytes that stand at its address.
-/

namespace Sys2Proof.Proofs

open Sys2Proof Sys2Proof.Machine Sys2Proof.Laws

theorem rawRead_append (s : State) (a m n : Nat) : s.rawRead a (m + n) = s.rawRead a m ++ s.rawRead (a + m) n := by
  simp only [State.rawRead, List.range_add, List.map_append, List.map_map, Function.comp_def, Nat.add_assoc]

/-- A part's blocks are among those of the request. -/
theorem blocksOf_part {a n c l b : Nat} (hac : a ≤ c) (hcl : c + l ≤ a + n) (hb : b ∈ blocksOf c l) : b ∈ blocksOf a n := by
  obtain ⟨i, rfl, hi, hl⟩ := mem_blocksOf hb
  unfold blocksOf
  rw [if_neg (by omega), List.mem_map]
  refine ⟨c / 64 + i - a / 64, ?_, ?_⟩
  · rw [List.mem_range]
    omega
  · congr 1
    omega

theorem memKey_lpddr (s : State) {a : Nat} (ha : a < lpddrBytes) : s.memKey a = some a := by
  have place : placeOf a = .lpddr a := if_pos ha
  simp only [State.memKey, place]

/-- What a read of sound blocks leaves: only counters moved. -/
def soundRead (s : State) (ps : List (Nat × Nat)) : State := ps.foldl (fun s p => countReads s (blocksOf p.1 p.2)) s

theorem flits_soundRead (s : State) (ps : List (Nat × Nat)) : (soundRead s ps).flits = s.flits := by
  induction ps generalizing s with
  | nil => rfl
  | cons p ps ih => exact (ih _).trans (flits_countReads s _)

/-- The parts of a sound read of LPDDR join to its bytes. -/
theorem readParts_granules {s : State} {k a n : Nat} (t : State) (hk : n ≠ 0 → n + a % 2048 ≤ 2048 * k) (ha : a + n ≤ lpddrBytes)
    (h : ∀ b ∈ blocksOf a n, soundBlock s b) :
    s.readParts (t.granules k a n) = (St.ok, s.rawRead a n, [], soundRead s (t.granules k a n)) := by
  induction k generalizing s a n with
  | zero =>
    obtain rfl : n = 0 := by omega
    rfl
  | succ k ih =>
    unfold State.granules
    split
    next h0 => subst h0; rfl
    next h0 =>
      dsimp only
      rw [memKey_lpddr t (by omega), Option.getD_some]
      generalize hl : min n (2048 - a % 2048) = l
      have first : ∀ b ∈ blocksOf a l, soundBlock s b := fun b hb => h b (blocksOf_part le_rfl (by omega) hb)
      have rest := ih (s := countReads s (blocksOf a l)) (a := a + l) (n := n - l) (fun _ => by omega) (by omega)
        fun b hb => soundBlock_countReads _ (h b (blocksOf_part (by omega) (by omega) hb))
      simp only [State.readParts, partRead_sound first, rest, rawRead_countReads]
      have whole := rawRead_append s a l (n - l)
      rw [show l + (n - l) = n by omega] at whole
      rw [whole]
      rfl

/-- A management core reads sound blocks of LPDDR with OK and the bytes as they stand. -/
theorem load_lpddr {s : State} {m a n : Nat} (hm : isMgmt m = true) (hn : 1 ≤ n) (ha : a + n ≤ lpddrBytes)
    (h : Claim.sound s a n) : ∃ t, s.load m a n = (St.ok, s.rawRead a n, t) := by
  obtain ⟨blocks, flits⟩ := h
  have place : placeOf a = .lpddr a := if_pos (by omega)
  have last : placeOf (a + (n - 1)) = .lpddr (a + (n - 1)) := if_pos (by omega)
  have admitted : s.memCheck m a n = St.ok := by
    simp only [State.memCheck, samePlace, place, last, hm, if_true, Bool.not_true, Bool.false_eq_true, if_false]
  have parts := readParts_granules s (k := n / 2048 + 2) (fun _ => by omega) ha blocks
  have quiet : (soundRead s (s.granules (n / 2048 + 2) a n)).flits = [] := by rw [flits_soundRead, flits]
  refine ⟨soundRead s (s.granules (n / 2048 + 2) a n), ?_⟩
  unfold State.load
  simp only [admitted, place, State.parts, parts, if_neg (show ¬n = 0 by omega)]
  exact readFlit_none quiet _ n St.ok _

end Sys2Proof.Proofs
end

section
/-!
SUPPORT. The load (R43 to R45, R54, R62): what the fetched manifest decides, what a failed fetch of initial contents does, and what the
completion of a load leaves.
-/

namespace Sys2Proof.Proofs

open Sys2Proof Sys2Proof.Machine Sys2Proof.Laws

/-! ### The manifest -/

/-- The load once its manifest is read: its digest and JOB_ID are known. -/
def withManifest (j : LoadJob) (bs : List Byte) : LoadJob :=
  { j with digest := mnfDigest bs, jobId := if (headerReason bs).isSome then 0 else leAt bs 0x18 8 }

/-- What the bytes of a manifest decide. -/
def judge (u : State) (k : LoadJob) (bs : List Byte) : State :=
  match fitCheck bs (u.rdB Reg.CGT_STATUS 2 2 == 1) u.devId with
  | some f => (u.loadFail k St.nofit f.reason f.sect f.entry).loadSettle
  | none =>
    match place (mnfOf bs) with
    | .error f => (u.loadFail k St.nofit f.reason f.sect f.entry).loadSettle
    | .ok p => u.loadGo k (mnfOf bs) p

section Manifest
variable {s v : State} {j : LoadJob} {st sr : Nat} {bs : List Byte} (hl : s.Live) (hc : s.Canonical) (hj : s.loadJob = some j)
  (he : (s.xfer j.xfer).ended = some st) (hp : j.phase = 0) (hr : s.load 0xE0 mnfAddr j.len = (sr, bs, v))
include hl hc hj he hp

theorem exec_manifestFetchDone_failed (h : st ≠ 0) :
    exec .manifestFetchDone s = .next (s.commit (s.loadFail j st 0 0 0).loadSettle) := by
  rw [exec_manifestFetchDone, live_eq hl hc]
  simp only [fxManifestFetchDone, hj, he, hp, ne_eq, not_true, if_false, h, not_false_eq_true, if_true]

include hr

theorem exec_manifestFetchDone_unread (h0 : st = 0) (h : sr ≠ 0) :
    exec .manifestFetchDone s = .next (s.commit (v.loadFail j sr 0 0 0).loadSettle) := by
  rw [exec_manifestFetchDone, live_eq hl hc]
  simp only [fxManifestFetchDone, hj, he, hp, hr, h0, ne_eq, not_true, if_false, h, not_false_eq_true, if_true]

theorem exec_manifestFetchDone_read (h0 : st = 0) (h : sr = 0) :
    exec .manifestFetchDone s = .next (s.commit (judge (v.dropXfers .load) (withManifest j bs) bs)) := by
  rw [exec_manifestFetchDone, live_eq hl hc]
  simp only [fxManifestFetchDone, hj, he, hp, hr, h0, h, ne_eq, not_true, if_false]
  rfl

end Manifest

section Judge
variable {u : State} {k : LoadJob} {bs : List Byte}

theorem judge_unfit {f : Refuse} (h : fitCheck bs (u.rdB Reg.CGT_STATUS 2 2 == 1) u.devId = some f) :
    judge u k bs = (u.loadFail k St.nofit f.reason f.sect f.entry).loadSettle := by
  rw [judge, h]

variable (h : fitCheck bs (u.rdB Reg.CGT_STATUS 2 2 == 1) u.devId = none)
include h

theorem judge_unplaced {f : Refuse} (hp : place (mnfOf bs) = .error f) :
    judge u k bs = (u.loadFail k St.nofit f.reason f.sect f.entry).loadSettle := by
  rw [judge, h]
  dsimp only
  rw [hp]

theorem judge_placed {p : Plc} (hp : place (mnfOf bs) = .ok p) : judge u k bs = u.loadGo k (mnfOf bs) p := by
  rw [judge, h]
  dsimp only
  rw [hp]

end Judge

theorem exec_initfetch_failed {s : State} {j : LoadJob} {id sect ix st : Nat} {l : Option Nat} (hl : s.Live) (hc : s.Canonical)
    (hj : s.loadJob = some j) (hp : j.phase = 1)
    (hf : j.inits.find? (fun i => (s.xfer i.1).ended.any fun st => st != 0) = some (id, sect, ix, l))
    (he : (s.xfer id).ended = some st) :
    exec .initfetch s = .next (s.commit ((s.setJob 4).loadFail j st Rs.initfetch sect ix).loadSettle) := by
  rw [exec_initfetch, live_eq hl hc]
  simp only [fxInitfetch, hj, hp, hf, he, ne_eq, not_true, if_false, Option.getD_some]

/-- The manifest's place lies in LPDDR. -/
theorem manifest_in_lpddr {n : Nat} (hn : n ≤ 2 ^ 31) : mnfAddr + n ≤ lpddrBytes := by
  unfold mnfAddr fwBase lpddrBytes
  omega

/-! ### The completion -/

/-- The registers of the job that has been loaded. -/
def nameJob (s : State) (j : LoadJob) : State :=
  (((s.wr Reg.ID_JOB_ID (w j.jobId)).putDigest mnfRegs j.digest).putDigest plcRegs (sm3 j.recs.flatten)).wrB Reg.ID_JOB_STATE 41 40
    (nbits j.flags 2 2 + 2 * nbits j.flags 1 1)

theorem nameJob_regWrites (s : State) (j : LoadJob) : RegWrites s (nameJob s j) :=
  ((((RegWrites.refl s).wr _ _).trans (putDigest_regWrites _ _ _)).trans (putDigest_regWrites _ _ _)).wrB _ _ _ _

section NameJob
variable (s : State) (j : LoadJob)

/-- Until JOB_ID and the manifest's digest are written, and after it. -/
theorem nameJob_rd {a : Nat} (hs : a ≠ Reg.ID_JOB_STATE) (hp : a ∉ plcRegs) :
    (nameJob s j).rd a = ((s.wr Reg.ID_JOB_ID (w j.jobId)).putDigest mnfRegs j.digest).rd a := by
  unfold nameJob
  rw [(wrB_regFrame _ _ _ _ _).rd a hs, (putDigest_regFrame _ _).rd a hp]

theorem nameJob_jobId : (nameJob s j).rd Reg.ID_JOB_ID = w j.jobId := by
  rw [nameJob_rd s j (by decide) (by decide), (putDigest_regFrame _ _).rd _ (by decide), rd_wr_same]

theorem nameJob_digest0 : (nameJob s j).rd Reg.ID_MNF_DIGEST0 = w (leAt j.digest 0 8) := by
  rw [nameJob_rd s j (by decide) (by decide), putDigest_first]

theorem nameJob_digest3 : (nameJob s j).rd Reg.ID_MNF_DIGEST3 = w (leAt j.digest 24 8) := by
  rw [nameJob_rd s j (by decide) (by decide), putDigest_last]

theorem nameJob_jobState : (nameJob s j).jobState = s.jobState := by
  unfold State.jobState nameJob
  rw [rdB_wrB_field _ _ (by decide) (by decide) (.inl (by decide)), rdB_of_frame (putDigest_regFrame _ _).toFrame (by decide),
    rdB_of_frame (putDigest_regFrame _ _).toFrame (by decide), State.rdB, rd_wr, if_neg (by decide), State.rdB]

end NameJob

/-- A load that succeeded is over, but for the operations that completed. -/
def endLoad (s : State) : State := { ((s.dropXfers .load).lastLoad 0 0 0).setJob 2 with loadJob := none }

theorem endLoad_regFrame (s : State) : RegFrame (· = Reg.ID_JOB_STATE) s (endLoad s) := by
  have dropped : RegFrame (· = Reg.ID_JOB_STATE) s (s.dropXfers .load) := (RegFrame.refl s).keep rfl rfl rfl rfl
  exact ((dropped.trans (lastLoad_regFrame _ _ _ _)).trans (wrB_regFrame _ _ _ _ _)).keep rfl rfl rfl rfl

theorem endLoad_jobState (s : State) : (endLoad s).jobState = 2 := jobState_setJob _ (by decide)

/-- The LAST fields are 0 (R62). -/
theorem endLoad_last (s : State) : bits ((endLoad s).rd Reg.ID_JOB_STATE) 39 8 = 0 := by
  have cleared := rdB_wrB_same (s.dropXfers .load) (a := Reg.ID_JOB_STATE) (hi := 39) (lo := 8) (0 + at_ 8 0 + at_ 16 0) (by decide)
    (by decide)
  have kept := rdB_wrB_field ((s.dropXfers .load).lastLoad 0 0 0) (a := Reg.ID_JOB_STATE) (hi := 2) (lo := 0) (h := 39) (l := 8) 2
    (by decide) (by decide) (.inr (by decide))
  exact kept.trans cleared

@[simp] theorem endLoad_opOf (s : State) (r seq : Nat) : (endLoad s).opOf r seq = s.opOf r seq := rfl

@[simp] theorem endLoad_unloads (s : State) : (endLoad s).unloads = s.unloads := rfl

theorem loadFinish_ok {s : State} {j : LoadJob} (hr : j.result = (0, 0, 0, 0)) (hs : s.jobState = 1) :
    s.loadFinish j = ((endLoad s).opDone j.ring j.seq St.ok 0 (w j.recs.length)).unloadsDone := by
  have dropped : (s.dropXfers .load).jobState = s.jobState := rfl
  have loading : ((s.dropXfers .load).lastLoad 0 0 0).jobState = 1 := (jobState_lastLoad _ _ _ _).trans (dropped.trans hs)
  have ended : ((endLoad s).opDone j.ring j.seq St.ok 0 (w j.recs.length)).jobState = 2 := by
    rw [← endLoad_jobState s, State.jobState, State.rdB, opDone_rd]
    rfl
  unfold State.loadFinish
  simp only [hr, loading, if_true]
  have still : ((endLoad s).opDone j.ring j.seq St.ok 0 (w j.recs.length)).jobState ≠ 4 := by rw [ended]; decide
  exact if_neg still

/-- The state that a load which succeeded leaves (R54, R62). -/
def loaded (s : State) (j : LoadJob) : State :=
  ((endLoad (nameJob s j)).opDone j.ring j.seq St.ok 0 (w j.recs.length)).unloadsDone.powerUnits true

theorem exec_loadComplete_ok {s : State} {j : LoadJob} (hl : s.Live) (hc : s.Canonical) (hj : s.loadJob = some j) (hp : j.phase = 2)
    (he : (s.xfer j.xfer).ended.isSome = true) (hr : j.result = (0, 0, 0, 0)) (hs : s.jobState = 1) :
    exec .loadComplete s = .next (s.commit (loaded s j)) := by
  have loading : (nameJob s j).jobState = 1 := (nameJob_jobState s j).trans hs
  rw [exec_loadComplete, live_eq hl hc, loaded, ← loadFinish_ok hr loading]
  have done : j.phase = 2 ∧ (s.xfer j.xfer).ended.isSome = true ∧ j.result.1 = 0 := ⟨hp, he, by rw [hr]⟩
  unfold fxLoadComplete
  rw [hj]
  dsimp only
  rw [if_pos done]
  rfl

theorem not_powerReg_jobState : ¬powerReg Reg.ID_JOB_STATE := by
  unfold powerReg
  decide

section Loaded
variable (s : State) (j : LoadJob)

theorem loaded_rd {a : Nat} (ha : ¬powerReg a) : (loaded s j).rd a = (endLoad (nameJob s j)).rd a := by
  unfold loaded
  rw [(powerUnits_regFrame _ _).rd a ha, (unloadsDone_regFrame (R := fun _ => False) _).rd a not_false, opDone_rd]

theorem loaded_regFrame : RegFrame (fun _ => True) s (loaded s j) := by
  exact ((((nameJob_regWrites s j).regFrame.trans (regFrame_mono (endLoad_regFrame _) fun _ _ => trivial)).trans (opDone_regFrame _ _ _ _ _ _)).trans
    (unloadsDone_regFrame _)).trans (regFrame_mono (powerUnits_regFrame _ _) fun _ _ => trivial)

theorem loaded_loadJob : (loaded s j).loadJob = none := by
  obtain ⟨x, hx⟩ := unloadsDone_fields ((endLoad (nameJob s j)).opDone j.ring j.seq St.ok 0 (w j.recs.length))
  unfold loaded
  rw [(powerUnits_regWrites _ _).loadJob, hx]
  exact opDone_loadJob ..

theorem loaded_result {o : CmdOp} (ho : s.opOf j.ring j.seq = some o) (hq : coQuiet o.entry = false)
    (hn : (j.ring, j.seq) ∉ s.unloads) : Claim.opResult (loaded s j) j.ring j.seq = some (St.ok, 0, w j.recs.length) := by
  have named := nameJob_regWrites s j
  have found : (endLoad (nameJob s j)).opOf j.ring j.seq = some o := by rw [endLoad_opOf, named.opOf, ho]
  have kept := opDone_opOf_kept found (st := St.ok) (rs := 0) (v := w j.recs.length)
    (by rw [hq]; exact fun hf => Bool.noConfusion hf.1)
  have waiting : ((endLoad (nameJob s j)).opDone j.ring j.seq St.ok 0 (w j.recs.length)).unloads = s.unloads := by
    rw [opDone_unloads, endLoad_unloads, named.unloads]
  have after := unloadsDone_opOf_other kept (by rw [waiting]; exact hn)
  unfold loaded Claim.opResult
  rw [(powerUnits_regWrites _ _).opOf, after]
  rfl

end Loaded

section Manifest
variable {s v : State} {j : LoadJob} {st sr : Nat} {bs : List Byte}

/-- A manifest whose blocks are sound is read back with OK. -/
theorem manifest_read (hr : s.load 0xE0 mnfAddr j.len = (sr, bs, v)) (clean : Claim.clean s mnfAddr j.len) (h1 : 1 ≤ j.len)
    (h31 : j.len ≤ 2 ^ 31) : sr = St.ok ∧ bs = s.rawRead mnfAddr j.len := by
  obtain ⟨t, ht⟩ := load_lpddr (m := 0xE0) (by decide) h1 (manifest_in_lpddr h31) clean.2
  obtain ⟨hs, hb⟩ := Prod.mk.inj (hr.symm.trans ht)
  exact ⟨hs, (Prod.mk.inj hb).1⟩

end Manifest

section Ready
variable {s : State} (hc : s.Canonical) (j : LoadJob)
include hc

theorem ready_rd {a : Nat} (ha : ¬powerReg a) : (s.commit (loaded s j)).rd a = (endLoad (nameJob s j)).rd a :=
  (commit_frame_rd hc (loaded_regFrame s j).toFrame a).trans (loaded_rd s j ha)

theorem ready_named {a : Nat} (ha : ¬powerReg a) (hne : a ≠ Reg.ID_JOB_STATE) :
    (s.commit (loaded s j)).rd a = (nameJob s j).rd a :=
  (ready_rd hc j ha).trans ((endLoad_regFrame _).rd a hne)

theorem ready_jobState : (s.commit (loaded s j)).jobState = 2 :=
  (congrArg (bits · 2 0) (ready_rd hc j not_powerReg_jobState)).trans (endLoad_jobState _)

theorem ready_last : bits ((s.commit (loaded s j)).rd Reg.ID_JOB_STATE) 39 8 = 0 := by
  rw [ready_rd hc j not_powerReg_jobState, endLoad_last]

theorem ready_byte (a : Nat) : (s.commit (loaded s j)).byte a = s.byte a := commit_regFrame_byte hc (loaded_regFrame s j) a

end Ready

/-- Settles O22: each outcome of the manifest is one branch of its judgement, and a load that succeeded names its job. -/
theorem loadEnds : Obligations.LoadEnds := by
  refine ⟨⟨fun s v j st sr bs hl hc hj he hp hr => ⟨?_, ?_, manifest_read hr, fun f h0 h hf => ?_, fun f h0 h hf hq => ?_,
    fun p h0 h hf hq => ?_⟩, fun s j id sect ix st l hl hc hj hp hf he => ?_⟩, fun s j hl hc hj hp he hr hs => ?_⟩
  · exact exec_manifestFetchDone_failed hl hc hj he hp
  · exact exec_manifestFetchDone_unread hl hc hj he hp hr
  · rw [exec_manifestFetchDone_read hl hc hj he hp hr h0 h, judge_unfit hf]
    rfl
  · rw [exec_manifestFetchDone_read hl hc hj he hp hr h0 h, judge_unplaced hf hq]
    rfl
  · rw [exec_manifestFetchDone_read hl hc hj he hp hr h0 h, judge_placed hf hq]
    rfl
  · exact exec_initfetch_failed hl hc hj hp hf he
  · refine ⟨_, exec_loadComplete_ok hl hc hj hp he hr hs, ready_jobState hc j, ?_, ?_, ?_, ready_last hc j, ?_,
      fun o ho hq hn => ?_, ready_byte hc j⟩
    · exact (ready_named hc j (by unfold powerReg; decide) (by decide)).trans (nameJob_jobId s j)
    · exact (ready_named hc j (by unfold powerReg; decide) (by decide)).trans (nameJob_digest0 s j)
    · exact (ready_named hc j (by unfold powerReg; decide) (by decide)).trans (nameJob_digest3 s j)
    · rw [commit_loadJob, loaded_loadJob]
    · rw [commit_opResult, loaded_result s j ho hq hn]

end Sys2Proof.Proofs
end

section
/-!
SUPPORT. What accesses, packets and transfers of units leave alone: the rings and their operations, the load in progress and the
UNLOADs that wait. Each operation of the memory system and of the fabric changes only its own tables, the registers and memory.
-/

namespace Sys2Proof.Proofs

open Sys2Proof Sys2Proof.Machine Sys2Proof.Laws

/-- The fields of the command processor and the loader. -/
def hub (s : State) : Tbl Ring × List (Nat × Nat) × Nat × Tbl (Nat × Nat × Nat) × Option LoadJob × List (Nat × Nat) × Nat :=
  (s.rings, s.copies, s.turn, s.channels, s.loadJob, s.unloads, s.loadAt)

theorem hub_loadJob {s t : State} (h : hub t = hub s) : t.loadJob = s.loadJob := congrArg (fun x => x.2.2.2.2.1) h

theorem hub_loadAt {s t : State} (h : hub t = hub s) : t.loadAt = s.loadAt := congrArg (fun x => x.2.2.2.2.2.2) h

/-- A fold of steps that leave these fields. -/
theorem hub_foldl {α : Type} {f : State → α → State} (hf : ∀ t x, hub (f t x) = hub t) (l : List α) (s : State) :
    hub (l.foldl f s) = hub s := by
  induction l generalizing s with
  | nil => rfl
  | cons x l ih => exact (ih _).trans (hf s x)

theorem hub_ite {c : Prop} [Decidable c] {s t u : State} (h : hub t = hub s) (k : hub u = hub s) : hub (if c then t else u) = hub s := by
  split
  · exact h
  · exact k

/-! ### The memory system -/

section Memory
variable (s : State)

@[simp] theorem hub_addB (a hi lo n : Nat) : hub (s.addB a hi lo n) = hub s := rfl
@[simp] theorem hub_rawWrite (a : Nat) (bs : List Byte) : hub (s.rawWrite a bs) = hub s := rfl

@[simp] theorem hub_raise (lg blk evt en ev : Nat) (e : EvInfo) : hub (s.raise lg blk evt en ev e) = hub s := by
  unfold State.raise
  exact hub_ite rfl rfl

@[simp] theorem hub_parEvent (blk : Nat) (os : Bool) (ev st : Nat) : hub (s.parEvent blk os ev st) = hub s := by
  unfold State.parEvent
  exact hub_ite (hub_raise ..) (hub_raise ..)

@[simp] theorem hub_countReplays (blk k : Nat) : hub (s.countReplays blk k) = hub s := by
  unfold State.countReplays
  exact hub_ite (hub_ite (hub_raise ..) rfl) rfl

theorem hub_blkRegs (blk : Nat) {f g : State → Nat → State} (hf : ∀ k, hub (f s k) = hub s) (hg : ∀ n, hub (g s n) = hub s) :
    hub (s.blkRegs blk f g) = hub s := by
  unfold State.blkRegs
  exact hub_ite (hf _) (hub_ite (hg _) rfl)

@[simp] theorem hub_poisonBlock (blk first : Nat) : hub (s.poisonBlock blk first) = hub s := by
  unfold State.poisonBlock
  dsimp only
  generalize ht : State.blkRegs _ blk _ _ = t
  have marked : hub t = hub s := ht ▸ hub_blkRegs _ blk (fun _ => rfl) fun _ => rfl
  exact hub_ite ((hub_parEvent ..).trans marked) (hub_ite ((hub_parEvent ..).trans marked) marked)

@[simp] theorem hub_readOnce (blk : Nat) : hub (s.readOnce blk).2 = hub s := by
  unfold State.readOnce
  exact hub_ite ((hub_addB ..).trans (hub_ite rfl rfl)) (hub_ite rfl rfl)

@[simp] theorem hub_readBlock (blk : Nat) : hub (s.readBlock blk).2 = hub s := by
  have replayed (t : State) : hub (t.blkRegs blk (fun s k => s.addB (Reg.MEM_PAR_CNT k) 31 0 1)
      fun s n => s.addB (Reg.MEM_OS_PAR n) 31 0 1) = hub t := hub_blkRegs t blk (fun _ => rfl) fun _ => rfl
  unfold State.readBlock
  dsimp only
  split_ifs <;> simp only [replayed, hub_parEvent, hub_readOnce, hub_countReplays, hub_poisonBlock]

@[simp] theorem hub_readBlocks (bs : List Nat) : hub (s.readBlocks bs).2 = hub s := by
  induction bs generalizing s with
  | nil => rfl
  | cons b bs ih => exact (ih _).trans (hub_readBlock s b)

@[simp] theorem hub_countPoison (st : Nat) (bs : List Nat) : hub (s.countPoison st bs) = hub s := by
  unfold State.countPoison
  exact hub_ite (hub_foldl (fun t _ => hub_addB t _ _ _ _) _ s) rfl

@[simp] theorem hub_partRead (a n : Nat) : hub (s.partRead a n).2.2 = hub s := by
  unfold State.partRead
  dsimp only
  split_ifs <;> exact hub_readBlocks s _

@[simp] theorem hub_flitNext : hub s.flitNext.2 = hub s := by
  unfold State.flitNext
  split <;> rfl

@[simp] theorem hub_flitEvent (a : Nat) : hub (s.flitEvent a) = hub s := hub_raise ..

@[simp] theorem hub_memPoison (a n : Nat) : hub (s.memPoison a n) = hub s := by
  refine hub_foldl (fun t b => ?_) _ s
  rfl

@[simp] theorem hub_flitWrite (a n k : Nat) : hub (s.flitWrite a n k) = hub s := by
  unfold State.flitWrite
  exact hub_ite ((hub_flitEvent ..).trans (hub_memPoison ..)) rfl

@[simp] theorem hub_flitRead (a n k : Nat) : hub (s.flitRead a n k).2 = hub s := by
  unfold State.flitRead
  split
  · exact hub_flitEvent s a
  · rfl

@[simp] theorem hub_readFlit (a n st : Nat) (bs : List Byte) : hub (s.readFlit a n st bs).2.2 = hub s := by
  have next := hub_flitNext s
  unfold State.readFlit
  generalize s.flitNext = r at next ⊢
  obtain ⟨_ | k, t⟩ := r
  · exact next
  · dsimp only
    split_ifs <;> exact (hub_flitRead t a n k).trans next

@[simp] theorem hub_writeFlit (a n : Nat) : hub (s.writeFlit a n) = hub s := by
  have next := hub_flitNext s
  unfold State.writeFlit
  generalize s.flitNext = r at next ⊢
  obtain ⟨_ | k, t⟩ := r
  · exact next
  · exact (hub_flitWrite t a n k).trans next

@[simp] theorem hub_mergeRead (a n : Nat) : hub (s.mergeRead a n).2 = hub s := hub_readBlocks s _

@[simp] theorem hub_memPut (a : Nat) (bs : List Byte) : hub (s.memPut a bs) = hub s := by
  refine (hub_rawWrite ..).trans (hub_foldl (fun t b => ?_) _ s)
  exact hub_ite rfl rfl

@[simp] theorem hub_readParts (ps : List (Nat × Nat)) : hub (s.readParts ps).2.2.2 = hub s := by
  induction ps generalizing s with
  | nil => rfl
  | cons p ps ih => exact (ih _).trans (hub_partRead s p.1 p.2)

@[simp] theorem hub_writeParts (ps : List (Nat × Nat)) (bs : List Byte) : hub (s.writeParts ps bs) = hub s := by
  induction ps generalizing s bs with
  | nil => rfl
  | cons p ps ih => exact (ih _ _).trans (hub_memPut s p.1 _)

@[simp] theorem hub_mergeParts (ps : List (Nat × Nat)) : hub (s.mergeParts ps).2.2 = hub s := by
  induction ps generalizing s with
  | nil => rfl
  | cons p ps ih => exact (ih _).trans (hub_mergeRead s p.1 p.2)

end Memory

/-! ### Accesses -/

section Access
variable (s : State)

@[simp] theorem hub_guestTake (q : GuestAsk) : hub (s.guestTake q).2.2 = hub s := by
  unfold State.guestTake
  dsimp only
  split <;> rfl

@[simp] theorem hub_guestRead (m : Nat) (ps : List (Nat × Nat)) : hub (s.guestRead m ps).2.2 = hub s := by
  induction ps generalizing s with
  | nil => rfl
  | cons p ps ih => exact (ih _).trans (hub_guestTake s _)

@[simp] theorem hub_guestPut (m : Nat) (ps : List (Nat × Nat)) (bs : List Byte) : hub (s.guestPut m ps bs).2 = hub s := by
  induction ps generalizing s bs with
  | nil => rfl
  | cons p ps ih => exact (ih _ _).trans (hub_guestTake s _)

@[simp] theorem hub_mbxDeny (m k : Nat) : hub (s.mbxDeny m k).2 = hub s := hub_raise ..

@[simp] theorem hub_readStatus (m src : Nat) (h : RegHit) : hub (s.readStatus m src h).2 = hub s := by
  unfold State.readStatus
  split
  case h_12 | h_13 | h_14 | h_15 =>
    dsimp only
    split
    · rfl
    · exact hub_mbxDeny s _ _
  all_goals rfl

@[simp] theorem hub_freeField (a hi lo limit : Nat) : hub (s.freeField a hi lo limit).2 = hub s := by
  unfold State.freeField
  split <;> rfl

@[simp] theorem hub_regValue (h : RegHit) (a : Nat) : hub (s.regValue h a).2 = hub s := by
  unfold State.regValue
  split
  · rfl
  · dsimp only
    split
    case h_19 => exact hub_freeField s _ _ _ _
    all_goals rfl

@[simp] theorem hub_ctlLoad (m a n : Nat) : hub (s.ctlLoad m a n).2.2 = hub s := by
  unfold State.ctlLoad
  split
  · rfl
  next h _ =>
    have status := hub_readStatus s m s.devId h
    generalize s.readStatus m s.devId h = r at status ⊢
    obtain ⟨st, t⟩ := r
    dsimp only
    split
    · exact status
    · exact (hub_regValue t h _).trans status

@[simp] theorem hub_ctlStore (m a : Nat) (bs : List Byte) : hub (s.ctlStore m a bs).2 = hub s := by
  unfold State.ctlStore
  split
  · rfl
  next h _ =>
    split
    · rfl
    · have status : hub (if h.row.writer = .ro ∨ h.row.writer = .mailbox then s.readStatus m s.devId h else (St.ok, s)).2 = hub s := by
        split
        · exact hub_readStatus s m s.devId h
        · rfl
      generalize (if h.row.writer = .ro ∨ h.row.writer = .mailbox then s.readStatus m s.devId h else (St.ok, s)) = r at status ⊢
      obtain ⟨st, t⟩ := r
      dsimp only
      split <;> exact status

@[simp] theorem hub_load (m a n : Nat) : hub (s.load m a n).2.2 = hub s := by
  unfold State.load
  dsimp only
  split
  · rfl
  · split
    · rfl
    · split
      · exact hub_ctlLoad s m a n
      · exact hub_guestRead s m _
      · exact (hub_readFlit ..).trans ((hub_countPoison ..).trans (hub_readParts s _))

@[simp] theorem hub_store (m a : Nat) (bs : List Byte) : hub (s.store m a bs).2 = hub s := by
  unfold State.store
  dsimp only
  split
  · rfl
  · split
    · exact hub_ctlStore s m a bs
    · exact hub_guestPut s m _ bs
    · split
      · exact hub_countPoison s St.poison _
      · split
        · exact (hub_countPoison ..).trans (hub_mergeParts s _)
        · exact (hub_writeFlit ..).trans ((hub_writeParts ..).trans (hub_mergeParts s _))

end Access

/-! ### Packets and transfers -/

section Send
variable (s : State)

@[simp] theorem hub_setXfer (id : Nat) (x : Xfer) : hub (s.setXfer id x) = hub s := rfl
@[simp] theorem hub_setTag (t : Nat) (x : Tag) : hub (s.setTag t x) = hub s := rfl
@[simp] theorem hub_toPort (p : Nat) (b : List Byte) (tag : Option Nat) (tr : Bool) : hub (s.toPort p b tag tr) = hub s := rfl
@[simp] theorem hub_tagRelease (t : Nat) (r : Bool) : hub (s.tagRelease t r) = hub s := rfl
@[simp] theorem hub_fabEnd (r : FabReq) (st : Nat) (d : Bool) (bs : List Byte) : hub (s.fabEnd r st d bs) = hub s := rfl
@[simp] theorem hub_rteEvent (ev st : Nat) : hub (s.rteEvent ev st) = hub s := hub_raise ..
@[simp] theorem hub_fabEvent (ev st m a : Nat) : hub (s.fabEvent ev st m a) = hub s := hub_raise ..
@[simp] theorem hub_guestIssue (m typ a n op : Nat) (data : List Byte) (r : Option FabReq) :
    hub (s.guestIssue m typ a n op data r) = hub s := rfl

@[simp] theorem hub_fabSend (t : Nat) (r : FabReq) : hub (s.fabSend t r) = hub s := by
  unfold State.fabSend
  dsimp only
  split
  · exact (hub_toPort ..).trans (hub_setTag ..)
  · exact (hub_fabEnd ..).trans ((hub_rteEvent ..).trans (hub_tagRelease ..))
  · exact (hub_fabEnd ..).trans ((hub_rteEvent ..).trans (hub_tagRelease ..))

@[simp] theorem hub_fabTake (r : FabReq) : hub (s.fabTake r) = hub s := by
  unfold State.fabTake
  exact hub_ite rfl ((hub_fabSend ..).trans ((hub_addB ..).trans (hub_setTag ..)))

@[simp] theorem hub_fabIssue (r : FabReq) : hub (s.fabIssue r) = hub s := by
  unfold State.fabIssue
  exact hub_ite (hub_fabTake s r) (hub_fabEvent s 4 0 r.master r.addr)

/-- Bytes of the collective engine are counted as they are sent. -/
theorem hub_countSent (o : Owner) (n : Nat) : hub (match o with | .col _ => s.addB Reg.COL_CNT_BYTES 63 0 n | _ => s) = hub s := by
  split <;> rfl

@[simp] theorem hub_xferGo (id fuel : Nat) : hub (s.xferGo id fuel) = hub s := by
  induction fuel generalizing s with
  | zero => rfl
  | succ fuel ih =>
    unfold State.xferGo
    refine hub_ite rfl ?_
    dsimp only
    split
    · exact hub_setXfer s id _
    · refine hub_ite ((ih _).trans (hub_setXfer ..)) ?_
      split
      · refine hub_ite ((ih _).trans (hub_setXfer ..)) (hub_ite (hub_ite rfl (hub_ite (hub_guestIssue ..) ?_)) (hub_fabIssue ..))
        exact hub_ite ((hub_setXfer ..).trans (hub_load ..)) ((ih _).trans ((hub_setXfer ..).trans (hub_load ..)))
      · refine hub_ite ((ih _).trans (hub_setXfer ..)) (hub_ite (hub_ite rfl (hub_ite (hub_guestIssue ..) ?_)) ?_)
        · exact hub_ite ((hub_setXfer ..).trans (hub_store ..)) ((ih _).trans ((hub_setXfer ..).trans (hub_store ..)))
        · exact (hub_fabIssue ..).trans ((hub_countSent _ _ _).trans (hub_setXfer ..))

@[simp] theorem hub_xferStart (x : Xfer) : hub (s.xferStart x).2 = hub s := by
  refine (hub_xferGo _ _ _).trans ((hub_setXfer ..).trans ?_)
  rfl

end Send

end Sys2Proof.Proofs
end

section
/-!
SUPPORT. The beginning of a load (R44, R54, R61): the registers that a load clears, and what stays when a LOAD is refused before anything
is fetched.
-/

namespace Sys2Proof.Proofs

open Sys2Proof Sys2Proof.Machine Sys2Proof.Laws

/-! ### The registers that a load clears -/

/-- A register is cleared at the beginning of a load, and its reset value is 0. -/
def clearedAtLoad (a : Nat) : Prop := reverts false loadCleared a = true ∧ regReset a = 0

theorem clearedAtLoad_colLast : clearedAtLoad Reg.COL_LAST := by unfold clearedAtLoad; decide +kernel

theorem clearedAtLoad_colCntOps : clearedAtLoad Reg.COL_CNT_OPS := by unfold clearedAtLoad; decide +kernel

theorem clearedAtLoad_ledCache : ∀ n < 4, clearedAtLoad (Reg.LED_CACHE n) := by unfold clearedAtLoad; decide +kernel

theorem clearedAtLoad_cadPeriods : ∀ n < 4, ∀ x < 32, clearedAtLoad (Reg.CAD_PERIODS n x) := by unfold clearedAtLoad; decide +kernel

theorem jobState_notCleared : reverts false loadCleared Reg.ID_JOB_STATE = false := by decide +kernel

/-! ### An operation that starts -/

theorem opNow_of_ready {s : State} {r op : Nat} {o : CmdOp} (h : Claim.opReady s r op o) : s.opNow r op = some o := h.1

theorem opStart_regFrame {R : Nat → Prop} (s : State) (r seq : Nat) : RegFrame R s (s.opStart r seq) := setRing_regFrame _ _ _

theorem jobState_of_frame {R : Nat → Prop} {s t : State} (h : Frame R s t) (hr : ¬R Reg.ID_JOB_STATE) : t.jobState = s.jobState :=
  rdB_of_frame h hr 2 0

@[simp] theorem opStart_jobState (s : State) (r seq : Nat) : (s.opStart r seq).jobState = s.jobState :=
  jobState_of_frame (R := fun _ => False) (opStart_regFrame s r seq).toFrame not_false

@[simp] theorem opStart_loadJob (s : State) (r seq : Nat) : (s.opStart r seq).loadJob = s.loadJob := setRing_loadJob _ _ _

/-! ### The load begins -/

/-- LOADING, with the counters of the last job cleared (R61). -/
def beginLoad (u : State) : State :=
  ({ (u.setJob 1).revert false loadCleared with loadAt := u.now } : State).wrB Reg.PKM_POWER 31 16 0

/-- The fetch of the manifest. -/
def fetchManifest (g : State) (o : CmdOp) : Nat × State :=
  g.xferStart ⟨.load, 0, 0xE0, [(coArg0 o.entry, g.globalOf mnfAddr, coArg1 o.entry)], false, [], none, none, 0⟩

section Begin
variable (u : State)

theorem beginLoad_rd {a : Nat} (ha : clearedAtLoad a) (hp : a ≠ Reg.PKM_POWER) : (beginLoad u).rd a = 0 := by
  obtain ⟨reverted, zero⟩ := ha
  have cleared := rd_revert (u.setJob 1) false loadCleared a
  rw [if_pos reverted, zero] at cleared
  exact ((wrB_regFrame _ _ _ _ _).rd a hp).trans cleared

theorem beginLoad_power : (beginLoad u).rdB Reg.PKM_POWER 31 16 = 0 := rdB_wrB_same _ _ (by decide) (by decide)

theorem beginLoad_jobState : (beginLoad u).jobState = 1 := by
  have kept := rd_revert (u.setJob 1) false loadCleared Reg.ID_JOB_STATE
  rw [jobState_notCleared] at kept
  have started : ((u.setJob 1).revert false loadCleared).jobState = 1 :=
    (congrArg (bits · 2 0) kept).trans (jobState_setJob u (by decide))
  exact (jobState_of_frame (wrB_regFrame _ _ _ _ _).toFrame (by decide)).trans started

theorem beginLoad_regs : (beginLoad u).regs = u.regs := rfl

end Begin

/-! ### Registers that no transfer writes -/

theorem not_sendReg_jobState : ¬sendReg Reg.ID_JOB_STATE := by unfold sendReg accessReg memReg; decide

theorem not_sendReg_power : ¬sendReg Reg.PKM_POWER := by unfold sendReg accessReg memReg; decide

theorem not_sendReg_colLast : ¬sendReg Reg.COL_LAST := by unfold sendReg accessReg memReg; decide

theorem not_sendReg_colCntOps : ¬sendReg Reg.COL_CNT_OPS := by unfold sendReg accessReg memReg; decide

theorem not_sendReg_ledCache : ∀ n < 4, ¬sendReg (Reg.LED_CACHE n) := by unfold sendReg accessReg memReg; decide

theorem not_sendReg_cadPeriods : ∀ n < 4, ∀ x < 32, ¬sendReg (Reg.CAD_PERIODS n x) := by
  unfold sendReg accessReg memReg; decide +kernel

theorem ledCache_ne_power : ∀ n < 4, Reg.LED_CACHE n ≠ Reg.PKM_POWER := by decide

theorem cadPeriods_ne_power : ∀ n < 4, ∀ x < 32, Reg.CAD_PERIODS n x ≠ Reg.PKM_POWER := by decide +kernel

section Load
variable {r : BitVec 4} {s : State} {o : CmdOp} (hl : s.Live) (hc : s.Canonical) (ho : Claim.opReady s r.toNat 0x10 o)
include hl hc ho

theorem exec_load_begins (hj : s.jobState = 0 ∨ s.jobState = 5)
    (hf : coArg1 o.entry % 16 = 0 ∧ 256 ≤ coArg1 o.entry ∧ coArg1 o.entry ≤ 2 ^ 31) :
    let g := beginLoad (s.opStart r.toNat o.seq)
    let p := coPayload o.entry
    exec (.load r) s = .next (s.commit ((fetchManifest g o).2.setLoad
      { ring := r.toNat, seq := o.seq, buf := leAt p 0 8, bufSize := leAt p 8 8, options := leAt p 16 4, expect := slice p 24 32
        from_ := s.jobState, xfer := (fetchManifest g o).1, len := coArg1 o.entry })) := by
  have free : ¬((s.opStart r.toNat o.seq).jobState ≠ 0 ∧ (s.opStart r.toNat o.seq).jobState ≠ 5) := by
    rw [opStart_jobState]; omega
  have long : ¬(coArg1 o.entry % 16 ≠ 0 ∨ coArg1 o.entry < 256 ∨ 2 ^ 31 < coArg1 o.entry) := by omega
  have from_ := opStart_jobState s r.toNat o.seq
  rw [exec_load, live_eq hl hc, fxLoad, opNow_of_ready ho]
  dsimp only
  rw [if_neg free, if_neg long, from_]
  rfl

theorem exec_load_jobloaded (h0 : s.jobState ≠ 0) (h5 : s.jobState ≠ 5) :
    exec (.load r) s = .next (s.commit (((s.opStart r.toNat o.seq).loadEarly r.toNat o Rs.jobloaded).earlySettle r.toNat)) := by
  have busy : (s.opStart r.toNat o.seq).jobState ≠ 0 ∧ (s.opStart r.toNat o.seq).jobState ≠ 5 := by
    rw [opStart_jobState]; exact ⟨h0, h5⟩
  rw [exec_load, live_eq hl hc, fxLoad, opNow_of_ready ho]
  dsimp only
  rw [if_pos busy]

theorem exec_load_badlength (hj : s.jobState = 0 ∨ s.jobState = 5)
    (hf : ¬(coArg1 o.entry % 16 = 0 ∧ 256 ≤ coArg1 o.entry ∧ coArg1 o.entry ≤ 2 ^ 31)) :
    exec (.load r) s = .next (s.commit (((s.opStart r.toNat o.seq).loadEarly r.toNat o Rs.badlength).earlySettle r.toNat)) := by
  have free : ¬((s.opStart r.toNat o.seq).jobState ≠ 0 ∧ (s.opStart r.toNat o.seq).jobState ≠ 5) := by
    rw [opStart_jobState]; omega
  have bad : coArg1 o.entry % 16 ≠ 0 ∨ coArg1 o.entry < 256 ∨ 2 ^ 31 < coArg1 o.entry := by omega
  rw [exec_load, live_eq hl hc, fxLoad, opNow_of_ready ho]
  dsimp only
  rw [if_neg free, if_pos bad]

end Load

/-! ### Refusals before anything is fetched -/

/-- What a refused LOAD leaves: the job state and the load in progress. -/
structure JobStays (s t : State) : Prop where
  regs : t.regs = s.regs
  jobState : t.jobState = s.jobState
  loadJob : t.loadJob = s.loadJob

theorem JobStays.refl (s : State) : JobStays s s := ⟨rfl, rfl, rfl⟩

theorem JobStays.trans {s t u : State} (h : JobStays s t) (k : JobStays t u) : JobStays s u :=
  ⟨k.regs.trans h.regs, k.jobState.trans h.jobState, k.loadJob.trans h.loadJob⟩

theorem loadEarly_jobStays (s : State) (r : Nat) (o : CmdOp) (reason : Nat) : JobStays s (s.loadEarly r o reason) := by
  have frame : Frame sendReg s (s.loadEarly r o reason) := xferStart_frame s _
  have kept : hub (s.loadEarly r o reason) = hub s := hub_xferStart s _
  exact ⟨frame.regs, jobState_of_frame frame not_sendReg_jobState, hub_loadJob kept⟩

theorem earlyDone_jobStays (s : State) (r ref : Nat) : JobStays s (s.earlyDone r ref) := by
  have told : JobStays s (s.lastLoad St.nofit (ref % 256) 0) :=
    ⟨(lastLoad_regFrame s _ _ _).regs, jobState_lastLoad s _ _ _, rfl⟩
  have ended := opDone_regFrame (R := fun _ => False) (s.lastLoad St.nofit (ref % 256) 0) r (ref / 256) St.nofit (ref % 256) 0
  exact told.trans ⟨ended.regs, jobState_of_frame ended.toFrame not_false, opDone_loadJob ..⟩

theorem earlySettle_jobStays (s : State) (r : Nat) : JobStays s (s.earlySettle r) := by
  have step (t : State) (e : Nat × Xfer) : JobStays t (if e.2.owner = .quote r ∧ e.2.ended.isSome ∧ e.2.ref % 256 ≠ 0 then
      ({ t with xfers := t.xfers.del e.1 } : State).earlyDone r e.2.ref else t) := by
    have dropped : JobStays t { t with xfers := t.xfers.del e.1 } := ⟨rfl, rfl, rfl⟩
    split
    · exact dropped.trans (earlyDone_jobStays _ _ _)
    · exact .refl t
  have all (l : Tbl Xfer) (t : State) : JobStays t (l.foldl (fun s e =>
      if e.2.owner = .quote r ∧ e.2.ended.isSome ∧ e.2.ref % 256 ≠ 0 then
        ({ s with xfers := s.xfers.del e.1 } : State).earlyDone r e.2.ref else s) t) := by
    induction l generalizing t with
    | nil => exact .refl t
    | cons e l ih => exact (step t e).trans (ih _)
  exact all s.xfers s

/-- A refused LOAD leaves the job as it was. -/
theorem refused_jobStays {s : State} (hc : s.Canonical) (r : Nat) (o : CmdOp) (reason : Nat) :
    (s.commit (((s.opStart r o.seq).loadEarly r o reason).earlySettle r)).jobState = s.jobState
      ∧ (s.commit (((s.opStart r o.seq).loadEarly r o reason).earlySettle r)).loadJob = s.loadJob := by
  have started : JobStays s (s.opStart r o.seq) := ⟨rfl, opStart_jobState s r o.seq, opStart_loadJob s r o.seq⟩
  have stays := (started.trans (loadEarly_jobStays _ r o reason)).trans (earlySettle_jobStays _ r)
  exact ⟨(congrArg (bits · 2 0) (commit_rd_eq hc stays.regs Reg.ID_JOB_STATE)).trans stays.jobState, (commit_loadJob _ _).trans stays.loadJob⟩

section Begun
variable {s : State} (hc : s.Canonical) (r : Nat) (o : CmdOp) (j : LoadJob)

/-- The state in which the manifest is fetched. -/
def begun (s : State) (r : Nat) (o : CmdOp) (j : LoadJob) : State :=
  s.commit ((fetchManifest (beginLoad (s.opStart r o.seq)) o).2.setLoad j)

theorem begun_loadJob : (begun s r o j).loadJob = some j := rfl

theorem begun_loadAt : (begun s r o j).loadAt = s.now :=
  (commit_loadAt _ _).trans (hub_loadAt (hub_xferStart (beginLoad (s.opStart r o.seq)) _))

include hc

theorem begun_rd {a : Nat} (ha : ¬sendReg a) : (begun s r o j).rd a = (beginLoad (s.opStart r o.seq)).rd a := by
  have fetched : Frame sendReg (beginLoad (s.opStart r o.seq)) (fetchManifest (beginLoad (s.opStart r o.seq)) o).2 :=
    xferStart_frame _ _
  have started := opStart_regFrame (R := fun _ => False) s r o.seq
  have regs := (setLoad_regs _ j).trans (fetched.regs.trans ((beginLoad_regs _).trans started.regs))
  unfold begun
  rw [commit_rd_eq hc regs, setLoad_rd, fetched.rd a ha]

theorem begun_cleared {a : Nat} (ha : clearedAtLoad a) (hp : a ≠ Reg.PKM_POWER) (hn : ¬sendReg a) : (begun s r o j).rd a = 0 :=
  (begun_rd hc r o j hn).trans (beginLoad_rd _ ha hp)

theorem begun_jobState : (begun s r o j).jobState = 1 :=
  (congrArg (bits · 2 0) (begun_rd hc r o j not_sendReg_jobState)).trans (beginLoad_jobState _)

theorem begun_power : (begun s r o j).rdB Reg.PKM_POWER 31 16 = 0 :=
  (congrArg (bits · 31 16) (begun_rd hc r o j not_sendReg_power)).trans (beginLoad_power _)

end Begun

/-- Settles O21: the fetch of the manifest writes none of the registers that a load has cleared. -/
theorem loadBegins : Obligations.LoadBegins := by
  intro r s o hl hc ho
  refine ⟨fun hj hf => ?_, fun h0 h5 => ?_, fun hj hf => ?_⟩
  · have run := exec_load_begins hl hc ho hj hf
    refine ⟨run, _, run, begun_jobState hc _ o _, begun_loadJob _ o _, begun_loadAt _ o _, begun_power hc _ o _,
      begun_cleared hc _ o _ clearedAtLoad_colLast (by decide) not_sendReg_colLast,
      begun_cleared hc _ o _ clearedAtLoad_colCntOps (by decide) not_sendReg_colCntOps, fun n hn => ?_, fun n hn x hx => ?_⟩
    · exact begun_cleared hc _ o _ (clearedAtLoad_ledCache n hn) (ledCache_ne_power n hn) (not_sendReg_ledCache n hn)
    · exact begun_cleared hc _ o _ (clearedAtLoad_cadPeriods n hn x hx) (cadPeriods_ne_power n hn x hx)
        (not_sendReg_cadPeriods n hn x hx)
  · exact ⟨exec_load_jobloaded hl hc ho h0 h5, _, exec_load_jobloaded hl hc ho h0 h5, refused_jobStays hc _ o _⟩
  · exact ⟨exec_load_badlength hl hc ho hj hf, _, exec_load_badlength hl hc ho hj hf, refused_jobStays hc _ o _⟩

end Sys2Proof.Proofs
end

section
/-!
SUPPORT. START and UNLOAD (O23), refuted. With QUIET an operation that ends with OK leaves its ring, and a ring with nothing left in it
leaves the table of rings. The statement holds the table of stages to its canonical form, but not that of rings: where a ring is listed
twice, its second entry shows once the first has gone, and the operation with it. (In a table in canonical form no ring is listed twice;
the statement holds any table possible.)
-/

namespace Sys2Proof.Proofs

open Sys2Proof Sys2Proof.Machine Sys2Proof.Laws

/-- A well-formed entry of START with QUIET. -/
def quietStartEntry : List Byte := toBytes 4 20 ++ [0x11, 2] ++ zeroBytes 250

theorem quietStartEntry_ok : entryOk quietStartEntry = true ∧ coOpcode quietStartEntry = 0x11 ∧ coQuiet quietStartEntry = true := by
  decide +kernel

def quietStart : CmdOp := { seq := 7, index := 20, entry := quietStartEntry }

/-- A job runs, and ring 0, which holds the START alone, is listed twice. -/
def twiceListed : State :=
  { regs := [(Reg.ID_JOB_STATE, 3)], rings := [(0, { ops := [quietStart] }), (0, { ops := [quietStart] })] }

theorem twiceListed_hypotheses : twiceListed.Live ∧ twiceListed.Canonical
    ∧ Claim.opReady twiceListed (0 : BitVec 4).toNat 0x11 quietStart ∧ twiceListed.loadsBefore quietStart.seq = false
    ∧ twiceListed.jobState = 3 := by
  unfold Claim.opReady
  decide +kernel

/-- After the command the second entry of the ring shows the operation. -/
theorem twiceListed_remains :
    (twiceListed.commit (fxStart (0 : BitVec 4).toNat twiceListed)).opOf (0 : BitVec 4).toNat quietStart.seq = some quietStart := by
  decide +kernel

/-- Refutes O23: a START with QUIET that ends with OK is still found in a ring that the table of rings lists twice. -/
theorem not_startAndUnload : ¬ Obligations.StartAndUnload := by
  rintro ⟨start, -⟩
  obtain ⟨hl, hc, ready, first, running⟩ := twiceListed_hypotheses
  obtain ⟨-, -, whileRunning, -⟩ := start 0 twiceListed quietStart hl hc ready
  obtain ⟨t, ht, ⟨-, gone⟩, -⟩ := whileRunning first running
  have run := (exec_start 0 twiceListed).trans (live_eq hl hc _)
  obtain rfl : twiceListed.commit _ = t := Host.Outcome.next.inj (run.symm.trans ht)
  exact Option.some_ne_none _ (twiceListed_remains.symm.trans (gone quietStartEntry_ok.2.2))

end Sys2Proof.Proofs
end

section
/-!
SUPPORT. Stage contexts (R63 to R90): what a context and a micro-batch read after a write, fields of registers, and the registers
that say which slot stands at a context and how it runs.
-/

namespace Sys2Proof.Proofs

open Sys2Proof Sys2Proof.Machine Sys2Proof.Laws

/-! ### Fields of registers -/

theorem bits_lt (v : Word) (hi lo : Nat) : bits v hi lo < 2 ^ (hi + 1 - lo) := nbits_lt _ _ _

theorem rdB_lt (s : State) (a hi lo : Nat) : s.rdB a hi lo < 2 ^ (hi + 1 - lo) := bits_lt _ _ _

/-- The low field of a number that fits in it. -/
theorem bits_w {n k : Nat} (hk : k < 64) (hn : n < 2 ^ (k + 1)) : bits (w n) k 0 = n := by
  have word : n < 2 ^ 64 := lt_of_lt_of_le hn (Nat.pow_le_pow_right (by decide) (by omega))
  rw [bits, nbits, w, BitVec.toNat_ofNat, Nat.mod_eq_of_lt word, pow_zero, Nat.div_one, Nat.sub_zero, Nat.mod_eq_of_lt hn]

/-- Bit i of a word of which another field was replaced. -/
theorem bit_putBits_other {hi lo i : Nat} (v : Word) (n : Nat) (hhi : hi < 64) (hl : lo ≤ hi) (hd : i < lo ∨ hi < i) :
    bit (putBits v hi lo n) i = bit v i := by
  rw [bit_eq_testBit, bit_eq_testBit, putBits_testBit v n i hhi hl, if_neg (by omega)]

/-- Bit i of a word in a field that was replaced. -/
theorem bit_putBits_within {hi lo i : Nat} (v : Word) (n : Nat) (hhi : hi < 64) (hl : lo ≤ i) (hh : i ≤ hi) :
    bit (putBits v hi lo n) i = n.testBit (i - lo) := by
  rw [bit_eq_testBit, putBits_testBit v n i hhi (by omega), if_pos ⟨hl, hh⟩]

/-- A field that was added to and saturates. -/
theorem rdB_addB_same (s : State) {a hi lo : Nat} (n : Nat) (hhi : hi < 64) (hl : lo ≤ hi) :
    (s.addB a hi lo n).rdB a hi lo = min (2 ^ (hi + 1 - lo) - 1) (s.rdB a hi lo + n) := by
  have room : satAdd (2 ^ (hi + 1 - lo) - 1) (s.rdB a hi lo) n < 2 ^ (hi + 1 - lo) :=
    lt_of_le_of_lt (Nat.min_le_left _ _) (Nat.sub_lt (Nat.two_pow_pos _) Nat.one_pos)
  rw [State.addB, rdB_wrB_same s _ hhi hl, Nat.mod_eq_of_lt room]
  rfl

/-! ### Contexts -/

section Fields
variable (s : State) (n x : Nat)

@[simp] theorem stg_wr (a : Nat) (v : Word) : (s.wr a v).stg n x = s.stg n x := rfl
@[simp] theorem stg_cadState (m y st : Nat) : (s.cadState m y st).stg n x = s.stg n x := rfl
@[simp] theorem stg_commit (t : State) : (s.commit t).stg n x = t.stg n x := rfl
@[simp] theorem mbc_wrB (a hi lo k c : Nat) : (s.wrB a hi lo k).mbc n x c = s.mbc n x c := rfl
@[simp] theorem mbc_addB (a hi lo k c : Nat) : (s.addB a hi lo k).mbc n x c = s.mbc n x c := rfl
@[simp] theorem mbc_cadState (m y st c : Nat) : (s.cadState m y st).mbc n x c = s.mbc n x c := rfl
@[simp] theorem mbc_setWait (m y k c : Nat) : (s.setWait m y k).mbc n x c = s.mbc n x c := rfl
@[simp] theorem mbc_setStg (m y : Nat) (g : StageCtx) (c : Nat) : (s.setStg m y g).mbc n x c = s.mbc n x c := rfl
@[simp] theorem mbc_commit (t : State) (c : Nat) : (s.commit t).mbc n x c = t.mbc n x c := rfl

/-- A context reads what was written, unless that is what no context lists. -/
theorem stg_setStg {g : StageCtx} (hg : g ≠ {}) : (s.setStg n x g).stg n x = g := by
  rw [State.stg, State.setStg, get_set_ne _ _ _ hg, if_pos rfl]

theorem stg_setStg_running {g : StageCtx} (hr : g.running = true) : (s.setStg n x g).stg n x = g :=
  stg_setStg s n x (by rintro rfl; exact Bool.noConfusion hr)

theorem stg_setStg_phase {g : StageCtx} (hp : g.phase ≠ .idle) : (s.setStg n x g).stg n x = g :=
  stg_setStg s n x (by rintro rfl; exact hp rfl)

theorem stg_setStg_other {m y : Nat} {g : StageCtx} (hg : g ≠ {}) (hk : sk m y ≠ sk n x) : (s.setStg n x g).stg m y = s.stg m y := by
  rw [State.stg, State.setStg, get_set_ne _ _ _ hg, if_neg hk]
  rfl

theorem mbc_setMbc {c : Nat} {m : MbCtx} (hm : m.state ≠ 0) : (s.setMbc n x c m).mbc n x c = m := by
  rw [State.mbc, State.setMbc, get_set_ne _ _ _ (by rintro rfl; exact hm rfl), if_pos rfl]

end Fields

/-- A context at a slot boundary: no register write waits for it any more. -/
def atBoundary (g : StageCtx) : StageCtx := { g with regPend := [] }

/-- A context between two slots; the positions up to `f` have been through the forward. -/
def betweenSlots (g : StageCtx) (f : Nat) : StageCtx :=
  { g with phase := .idle, mb := none, backhaulIdle := false, sent := false, fwdDone := f }

/-! ### The registers of a stage context -/

/-- The registers in which a slot of a context is counted and shown as it starts. -/
def startReg (n x a : Nat) : Prop :=
  a = Reg.CAD_SLOT_T0 n x ∨ a = Reg.CAD_STATUS n x ∨ a = Reg.MBQ_STATUS n x ∨ a = Reg.CAD_DROPS n x ∨ a = Reg.CAD_RECOVERED n x

/-- The registers that the lag after a slot writes. -/
def lagReg (n x a : Nat) : Prop := a = Reg.CAD_STATUS n x ∨ a = Reg.CAD_LAG n x ∨ a = Reg.CAD_LAG_MAX n x

/-- A register of a context outside those that a slot writes as it starts and ends, but for the forward base. -/
def keptReg (n x a : Nat) : Prop := ¬startReg n x a ∧ ¬lagReg n x a ∧ a ≠ Reg.CAD_PERIODS n x

theorem keptReg_cfg (n x : Nat) : keptReg n x (Reg.CAD_CTX_CFG n x) := by
  unfold keptReg startReg lagReg Reg.CAD_CTX_CFG Reg.CAD_SLOT_T0 Reg.CAD_STATUS Reg.MBQ_STATUS Reg.CAD_DROPS Reg.CAD_RECOVERED
    Reg.CAD_LAG Reg.CAD_LAG_MAX Reg.CAD_PERIODS
  omega

theorem keptReg_ctl (n x : Nat) : keptReg n x (Reg.CAD_CTL n x) := by
  unfold keptReg startReg lagReg Reg.CAD_CTL Reg.CAD_SLOT_T0 Reg.CAD_STATUS Reg.MBQ_STATUS Reg.CAD_DROPS Reg.CAD_RECOVERED
    Reg.CAD_LAG Reg.CAD_LAG_MAX Reg.CAD_PERIODS
  omega

theorem keptReg_end (n x : Nat) : keptReg n x (Reg.CAD_END n x) := by
  unfold keptReg startReg lagReg Reg.CAD_END Reg.CAD_SLOT_T0 Reg.CAD_STATUS Reg.MBQ_STATUS Reg.CAD_DROPS Reg.CAD_RECOVERED
    Reg.CAD_LAG Reg.CAD_LAG_MAX Reg.CAD_PERIODS
  omega

theorem keptReg_fbase (n x : Nat) : keptReg n x (Reg.CAD_FBASE n x) := by
  unfold keptReg startReg lagReg Reg.CAD_FBASE Reg.CAD_SLOT_T0 Reg.CAD_STATUS Reg.MBQ_STATUS Reg.CAD_DROPS Reg.CAD_RECOVERED
    Reg.CAD_LAG Reg.CAD_LAG_MAX Reg.CAD_PERIODS
  omega

theorem keptReg_lagBound (n x : Nat) : keptReg n x (Reg.CAD_LAG_BOUND n x) := by
  unfold keptReg startReg lagReg Reg.CAD_LAG_BOUND Reg.CAD_SLOT_T0 Reg.CAD_STATUS Reg.MBQ_STATUS Reg.CAD_DROPS Reg.CAD_RECOVERED
    Reg.CAD_LAG Reg.CAD_LAG_MAX Reg.CAD_PERIODS
  omega

theorem keptReg_slot {n x k : Nat} (hx : x < 32) (hk : k < 256) : keptReg n x (Reg.CAD_SLOT n x k) := by
  unfold keptReg startReg lagReg Reg.CAD_SLOT Reg.CAD_SLOT_T0 Reg.CAD_STATUS Reg.MBQ_STATUS Reg.CAD_DROPS Reg.CAD_RECOVERED
    Reg.CAD_LAG Reg.CAD_LAG_MAX Reg.CAD_PERIODS
  omega

theorem ctxBackhaul_of_frame {R : Nat → Prop} {s t : State} {n x : Nat} (h : Frame R s t) (hR : ¬R (Reg.CAD_CTX_CFG n x)) :
    t.ctxBackhaul n x = s.ctxBackhaul n x := by
  unfold State.ctxBackhaul
  rw [rdB_of_frame h hR]

/-! ### The slot at a context -/

/-- The registers that say which slot stands at a context, and how it runs, agree. -/
structure SameSlot (n x : Nat) (s t : State) : Prop where
  cfg : t.rd (Reg.CAD_CTX_CFG n x) = s.rd (Reg.CAD_CTX_CFG n x)
  ctl : t.rd (Reg.CAD_CTL n x) = s.rd (Reg.CAD_CTL n x)
  last : t.rd (Reg.CAD_END n x) = s.rd (Reg.CAD_END n x)
  fbase : t.rd (Reg.CAD_FBASE n x) = s.rd (Reg.CAD_FBASE n x)
  cur : t.curSlot n x = s.curSlot n x

namespace SameSlot

variable {n x : Nat} {s t u : State}

theorem refl (n x : Nat) (s : State) : SameSlot n x s s := ⟨rfl, rfl, rfl, rfl, rfl⟩

theorem trans (h : SameSlot n x s t) (k : SameSlot n x t u) : SameSlot n x s u :=
  ⟨k.cfg.trans h.cfg, k.ctl.trans h.ctl, k.last.trans h.last, k.fbase.trans h.fbase, k.cur.trans h.cur⟩

/-- Writes outside the registers that are kept leave the slot, as long as its number in CAD_STATUS stays. -/
theorem of_regFrame {R : Nat → Prop} (hx : x < 32) (h : RegFrame R s t) (hR : ∀ a, keptReg n x a → ¬R a)
    (index : t.rdB (Reg.CAD_STATUS n x) 7 0 = s.rdB (Reg.CAD_STATUS n x) 7 0) : SameSlot n x s t where
  cfg := h.rd _ (hR _ (keptReg_cfg n x))
  ctl := h.rd _ (hR _ (keptReg_ctl n x))
  last := h.rd _ (hR _ (keptReg_end n x))
  fbase := h.rd _ (hR _ (keptReg_fbase n x))
  cur := by
    unfold State.curSlot State.slotWord
    rw [index]
    exact h.rd _ (hR _ (keptReg_slot hx (rdB_lt s _ 7 0)))

variable (h : SameSlot n x s t)
include h

theorem ctxValid : t.ctxValid n x = s.ctxValid n x := by unfold State.ctxValid State.rdB; rw [h.cfg]
theorem ctxBackhaul : t.ctxBackhaul n x = s.ctxBackhaul n x := by unfold State.ctxBackhaul State.rdB; rw [h.cfg]
theorem ctxHosts : t.ctxHosts n x = s.ctxHosts n x := by unfold State.ctxHosts State.rdB; rw [h.cfg]
theorem slotCount : t.slotCount n x = s.slotCount n x := by unfold State.slotCount State.rdB; rw [h.cfg]
theorem nfOf : t.nfOf n x = s.nfOf n x := by unfold State.nfOf State.rdB; rw [h.cfg]
theorem slotPos (v : Word) : t.slotPos n x v = s.slotPos n x v := by unfold State.slotPos; rw [h.fbase]

theorem slotVoid (v : Word) : t.slotVoid n x v = s.slotVoid n x v := by
  unfold State.slotVoid State.rdB
  rw [h.slotPos, h.ctl, h.last]

theorem slotRuns (v : Word) : t.slotRuns n x v = s.slotRuns n x v := by
  unfold State.slotRuns
  rw [h.slotVoid, h.ctxHosts]

/-- How the slot at the context runs. -/
theorem runs : t.slotRuns n x (t.curSlot n x) = s.slotRuns n x (s.curSlot n x) := by rw [h.cur, h.slotRuns]

end SameSlot

end Sys2Proof.Proofs
end

section
/-!
SUPPORT. How a slot goes on (R73): the work that a waiting slot asks for, when nothing of it goes further, and its padding. Then
the switches of a host to its backhaul stage and back (R84, R86), and the statement O28.
-/

namespace Sys2Proof.Proofs

open Sys2Proof Sys2Proof.Machine Sys2Proof.Laws

/-! ### CAD_STATUS.STATE and the padding -/

theorem cadState_regFrame (s : State) (n x st : Nat) : RegFrame (· = Reg.CAD_STATUS n x) s (s.cadState n x st) :=
  wrB_regFrame s _ _ _ _

theorem setStg_regFrame {R : Nat → Prop} (s : State) (n x : Nat) (g : StageCtx) : RegFrame R s (s.setStg n x g) :=
  (RegFrame.refl s).keep rfl rfl rfl rfl

theorem cadState_state (s : State) (n x : Nat) {st : Nat} (hst : st < 8) :
    bits ((s.cadState n x st).rd (Reg.CAD_STATUS n x)) 10 8 = st :=
  (rdB_wrB_same s st (by decide) (by decide)).trans (Nat.mod_eq_of_lt hst)

section Pads
variable (s : State) (n x : Nat) (idle : Bool)

theorem slotPads_regFrame : RegFrame (· = Reg.CAD_STATUS n x) s (s.slotPads n x idle) :=
  (setStg_regFrame s n x _).trans (cadState_regFrame _ n x 3)

theorem slotPads_state : bits ((s.slotPads n x idle).rd (Reg.CAD_STATUS n x)) 10 8 = 3 := cadState_state _ n x (by decide)

theorem slotPads_stg : (s.slotPads n x idle).stg n x = { s.stg n x with phase := .pad, backhaulIdle := idle } :=
  stg_setStg_phase s n x nofun

/-- The budget is over for a padded slot as it was before the padding. -/
theorem slotPads_budgetOver {x : Nat} (hx : x < 32) : (s.slotPads n x idle).budgetOver n x = s.budgetOver n x := by
  have frame := slotPads_regFrame s n x idle
  have backhaul : (s.slotPads n x idle).ctxBackhaul n x = s.ctxBackhaul n x :=
    (SameSlot.of_regFrame hx frame (fun a h e => h.1 (.inr (.inl e)))
      ((rdB_wrB_field _ 3 (by decide) (by decide) (.inl (by decide))).trans rfl)).ctxBackhaul
  have start : (s.slotPads n x idle).slotT0 n x = s.slotT0 n x :=
    congrArg BitVec.toNat (frame.rd _ (by unfold Reg.CAD_SLOT_T0 Reg.CAD_STATUS; omega))
  unfold State.budgetOver
  rw [backhaul, start, slotPads_stg]
  rfl

end Pads

/-! ### Going on -/

/-- What a waiting slot asks for: updates written, or its request handed to the offload engine. -/
def awaitedWork (s : State) (n x : Nat) : State :=
  let k := s.slotRuns n x (s.curSlot n x)
  if k = 3 then (if s.updatesBusy n x then s else s.slotPads n x false)
  else if k = 4 then s.handOffload n x false
  else if k = 5 then s.handOffload n x true
  else s

/-- How a slot goes on with its work behind it: its units end, its descriptor is sent, its padding ends. -/
def pastWork (s : State) (n x : Nat) : State :=
  let s := if (s.stg n x).phase == .work && s.unitsIdle n x then s.setStg n x { s.stg n x with phase := .send } else s
  let s := if (s.stg n x).phase == .send && !(s.stg n x).dspPend then s.sendDesc n x else s
  (s.descSent n x).padDone n x

/-- A slot that waits on, or whose padding is not over, stops there. -/
theorem pastWork_stops {s : State} {n x : Nat}
    (stops : (s.stg n x).phase = .await ∨ (s.stg n x).phase = .pad ∧ s.budgetOver n x = false) : pastWork s n x = s := by
  unfold pastWork State.descSent State.padDone
  rcases stops with waits | ⟨pads, unspent⟩
  · simp [waits]
  · simp [pads, unspent]

theorem slotProgress_await {s : State} {n x : Nat} (valid : s.ctxValid n x = true) (running : (s.stg n x).running = true)
    (await : (s.stg n x).phase = .await) : s.slotProgress n x = pastWork (awaitedWork s n x) n x := by
  unfold State.slotProgress
  rw [if_neg (by simp [valid, running]), await]
  rfl

/-- A context that holds no running stage does not go on. -/
theorem slotProgress_none {s : State} {n x : Nat} (h : s.ctxValid n x = false ∨ (s.stg n x).running = false) :
    s.slotProgress n x = s := by
  unfold State.slotProgress
  rcases h with h | h <;> simp [h]

theorem awaitedWork_update {s : State} {n x : Nat} (runs : s.slotRuns n x (s.curSlot n x) = 3) :
    awaitedWork s n x = if s.updatesBusy n x then s else s.slotPads n x false := by
  unfold awaitedWork
  simp only [runs, if_true]

/-- An UPDATE slot whose updates are written goes on to its padding (R73). -/
theorem slotProgress_update {s : State} {n x : Nat} (hx : x < 32) (valid : s.ctxValid n x = true)
    (running : (s.stg n x).running = true) (await : (s.stg n x).phase = .await) (runs : s.slotRuns n x (s.curSlot n x) = 3)
    (written : s.updatesBusy n x = false) (budget : s.budgetOver n x = false) : s.slotProgress n x = s.slotPads n x false := by
  have padded : awaitedWork s n x = s.slotPads n x false := by rw [awaitedWork_update runs, written]; rfl
  rw [slotProgress_await valid running await, padded, pastWork_stops]
  exact .inr ⟨by rw [slotPads_stg], (slotPads_budgetOver s n false hx).trans budget⟩

theorem budgetOver_primary {s : State} {n x : Nat} (primary : s.ctxBackhaul n x = false) :
    s.budgetOver n x = decide (s.slotT0 n x + (s.stg n x).budget ≤ s.now) := by
  unfold State.budgetOver
  rw [primary, Bool.false_or]

/-! ### Switching to a backhaul stage and back (R84, R86) -/

/-- The registers of a host that a switch writes, but for CAD_STATUS. -/
def switchReg (n x a : Nat) : Prop :=
  a = Reg.CAD_PTR_QUEUE n x ∨ a = Reg.CAD_PTR_TABLE n x ∨ a = Reg.CAD_PTR_LEDGER n x ∨ a = Reg.CAD_SWITCHES n x

theorem switchReg_not_status {n x m y a : Nat} (_ : x < 32) (_ : y < 32) (h : switchReg n x a) : a ≠ Reg.CAD_STATUS m y := by
  unfold switchReg at h
  unfold Reg.CAD_PTR_QUEUE Reg.CAD_PTR_TABLE Reg.CAD_PTR_LEDGER Reg.CAD_SWITCHES ctlBase at h
  unfold Reg.CAD_STATUS ctlBase
  omega

/-- The units of a host follow other pointers, and the switch is counted. -/
def follow (s : State) (n x : Nat) (ps : List Word) (len : Nat) : State := (s.setPtrs n x ps).countSwitch n x len

/-- The units of a host follow the pointers `ps`, and one switch more is counted. -/
def Followed (s t : State) (n x : Nat) (ps : List Word) : Prop :=
  t.rd (Reg.CAD_PTR_QUEUE n x) = nth ps 0 0 ∧ t.rd (Reg.CAD_PTR_TABLE n x) = nth ps 1 0 ∧ t.rd (Reg.CAD_PTR_LEDGER n x) = nth ps 2 0
    ∧ bits (t.rd (Reg.CAD_SWITCHES n x)) 47 0 = min (2 ^ 48 - 1) (bits (s.rd (Reg.CAD_SWITCHES n x)) 47 0 + 1)

section Follow
variable (s : State) (n x : Nat) (ps : List Word) (len : Nat)

theorem setPtrs_regFrame : RegFrame (switchReg n x) s (s.setPtrs n x ps) :=
  (((RegFrame.refl s).wr (.inl rfl) _).wr (.inr (.inl rfl)) _).wr (.inr (.inr (.inl rfl))) _

theorem countSwitch_regFrame : RegFrame (· = Reg.CAD_SWITCHES n x) s (s.countSwitch n x len) :=
  (addB_regFrame s _ _ _ _).trans (wrB_regFrame _ _ _ _ _)

theorem follow_regFrame : RegFrame (switchReg n x) s (follow s n x ps len) :=
  (setPtrs_regFrame s n x ps).trans (regFrame_mono (countSwitch_regFrame _ n x len) fun _ h => .inr (.inr (.inr h)))

theorem countSwitch_count : bits ((s.countSwitch n x len).rd (Reg.CAD_SWITCHES n x)) 47 0
    = min (2 ^ 48 - 1) (bits (s.rd (Reg.CAD_SWITCHES n x)) 47 0 + 1) :=
  (rdB_wrB_field _ _ (by decide) (by decide) (.inl (by decide))).trans (rdB_addB_same s 1 (by decide) (by decide))

theorem follow_followed : Followed s (follow s n x ps len) n x ps := by
  have count {a : Nat} (ha : a ≠ Reg.CAD_SWITCHES n x) := (countSwitch_regFrame (s.setPtrs n x ps) n x len).rd a ha
  have queueTable : Reg.CAD_PTR_TABLE n x ≠ Reg.CAD_PTR_QUEUE n x := by unfold Reg.CAD_PTR_TABLE Reg.CAD_PTR_QUEUE; omega
  have queueLedger : Reg.CAD_PTR_LEDGER n x ≠ Reg.CAD_PTR_QUEUE n x := by unfold Reg.CAD_PTR_LEDGER Reg.CAD_PTR_QUEUE; omega
  have tableLedger : Reg.CAD_PTR_LEDGER n x ≠ Reg.CAD_PTR_TABLE n x := by unfold Reg.CAD_PTR_LEDGER Reg.CAD_PTR_TABLE; omega
  have counted := countSwitch_count (s.setPtrs n x ps) n x len
  have before : (s.setPtrs n x ps).rd (Reg.CAD_SWITCHES n x) = s.rd (Reg.CAD_SWITCHES n x) := by
    unfold State.setPtrs
    rw [rd_wr, if_neg (by unfold Reg.CAD_PTR_LEDGER Reg.CAD_SWITCHES; omega), rd_wr,
      if_neg (by unfold Reg.CAD_PTR_TABLE Reg.CAD_SWITCHES; omega), rd_wr,
      if_neg (by unfold Reg.CAD_PTR_QUEUE Reg.CAD_SWITCHES; omega)]
  rw [before] at counted
  refine ⟨(count ?_).trans ?_, (count ?_).trans ?_, (count ?_).trans ?_, counted⟩
  · unfold Reg.CAD_PTR_QUEUE Reg.CAD_SWITCHES; omega
  · unfold State.setPtrs; rw [rd_wr, if_neg queueLedger, rd_wr, if_neg queueTable, rd_wr_same]
  · unfold Reg.CAD_PTR_TABLE Reg.CAD_SWITCHES; omega
  · unfold State.setPtrs; rw [rd_wr, if_neg tableLedger, rd_wr_same]
  · unfold Reg.CAD_PTR_LEDGER Reg.CAD_SWITCHES; omega
  · exact rd_wr_same _ _ _

end Follow

/-- Writes outside a switch's registers leave what it left. -/
theorem Followed.frame {R : Nat → Prop} {s u t : State} {n x : Nat} {ps : List Word} (h : Followed s u n x ps) (k : Frame R u t)
    (hR : ∀ a, switchReg n x a → ¬R a) : Followed s t n x ps := by
  obtain ⟨queue, table, ledger, count⟩ := h
  refine ⟨(k.rd _ (hR _ (.inl rfl))).trans queue, (k.rd _ (hR _ (.inr (.inl rfl)))).trans table,
    (k.rd _ (hR _ (.inr (.inr (.inl rfl))))).trans ledger, ?_⟩
  rw [k.rd _ (hR _ (.inr (.inr (.inr rfl))))]
  exact count

theorem Followed.commit {s u t : State} {n x : Nat} {ps : List Word} (hc : s.Canonical) (h : Followed u t n x ps)
    (hr : t.regs = s.regs) (hu : ∀ a, u.rd a = s.rd a) : Followed s (s.commit t) n x ps := by
  obtain ⟨queue, table, ledger, count⟩ := h
  unfold Followed
  simp only [commit_rd_eq hc hr, ← hu]
  exact ⟨queue, table, ledger, count⟩

section Commands
variable {die : BitVec 2} {ctx : BitVec 5} {s : State} (hl : s.Live) (hc : s.Canonical)

theorem ctx_lt (ctx : BitVec 5) : ctx.toNat < 32 := ctx.isLt

theorem ctxPartner_lt (s : State) (n x : Nat) : s.ctxPartner n x < 32 := rdB_lt s _ 7 3

/-- The pointers of another context of the die are read from it also once the host has switched. -/
theorem ptrs_setStg_phase (s : State) (n x b : Nat) (ph : Phase) (hp : ph ≠ .idle) :
    ((s.setStg n x { s.stg n x with phase := ph }).stg n b).ptrs = (s.stg n b).ptrs := by
  by_cases hb : b = x
  · subst hb
    rw [stg_setStg_phase s n b hp]
  · rw [stg_setStg_other s n x (by rintro h; exact hp (congrArg StageCtx.phase h)) (by unfold sk; omega)]

/-- The switch of a host at the start of its BACKHAUL slot. -/
theorem fxBackhaulSwitch_go {n x : Nat} (valid : s.ctxValid n x = true) (running : (s.stg n x).running = true)
    (await : (s.stg n x).phase = .await) (hosts : s.ctxHosts n x = true) (runs : s.slotRuns n x (s.curSlot n x) = 6) :
    ∃ len, fxBackhaulSwitch n x s = (follow (s.setStg n x { s.stg n x with phase := .backhaul }) n x
      (s.stg n (s.ctxPartner n x)).ptrs len).cadState n x 4 := by
  unfold fxBackhaulSwitch
  dsimp only
  rw [if_pos (by simp [valid, running, await, hosts, runs]), ptrs_setStg_phase s n x _ .backhaul nofun]
  exact ⟨_, rfl⟩

/-- The return of a host whose backhaul stage can start no further slot. -/
theorem fxBackhaulReturn_go {n x : Nat} (valid : s.ctxValid n x = true) (running : (s.stg n x).running = true)
    (switched : (s.stg n x).phase = .backhaul) (between : (s.stg n (s.ctxPartner n x)).phase = .idle)
    (stays : s.mayStart n (s.ctxPartner n x) = false) :
    fxBackhaulReturn n x s = ((follow s n x (s.stg n x).ptrs 0).cadState n (s.ctxPartner n x) 5).slotPads n x
      (!s.backhaulReady n (s.ctxPartner n x)) := by
  unfold fxBackhaulReturn
  dsimp only
  rw [if_pos (by simp [valid, running, switched, between, stays])]
  rfl

include hl hc

/-- SLOT_COMPLETE takes a waiting UPDATE slot to its padding. -/
theorem slotComplete_update (valid : s.ctxValid die.toNat ctx.toNat = true) (running : (s.stg die.toNat ctx.toNat).running = true)
    (primary : s.ctxBackhaul die.toNat ctx.toNat = false) (await : (s.stg die.toNat ctx.toNat).phase = .await)
    (runs : s.slotRuns die.toNat ctx.toNat (s.curSlot die.toNat ctx.toNat) = 3) (written : s.updatesBusy die.toNat ctx.toNat = false)
    (early : s.now < s.slotT0 die.toNat ctx.toNat + (s.stg die.toNat ctx.toNat).budget) :
    exec (.slotComplete die ctx) s = .next (s.commit (s.slotPads die.toNat ctx.toNat false)) := by
  have budget : s.budgetOver die.toNat ctx.toNat = false := by
    rw [budgetOver_primary primary, decide_eq_false (by omega)]
  rw [exec_slotComplete, live_eq hl hc, fxSlotComplete, slotProgress_update (ctx_lt ctx) valid running await runs written budget]

/-- What the switch to the backhaul stage leaves. -/
theorem backhaulSwitch_switches (valid : s.ctxValid die.toNat ctx.toNat = true) (running : (s.stg die.toNat ctx.toNat).running = true)
    (await : (s.stg die.toNat ctx.toNat).phase = .await) (hosts : s.ctxHosts die.toNat ctx.toNat = true)
    (runs : s.slotRuns die.toNat ctx.toNat (s.curSlot die.toNat ctx.toNat) = 6) :
    ∃ t, exec (.backhaulSwitch die ctx) s = .next t ∧ (t.stg die.toNat ctx.toNat).phase = .backhaul
      ∧ Followed s t die.toNat ctx.toNat (s.stg die.toNat (s.ctxPartner die.toNat ctx.toNat)).ptrs
      ∧ bits (t.rd (Reg.CAD_STATUS die.toNat ctx.toNat)) 10 8 = 4 ∧ ∀ a, t.byte a = s.byte a := by
  obtain ⟨len, go⟩ := fxBackhaulSwitch_go valid running await hosts runs
  rw [exec_backhaulSwitch, live_eq hl hc, go]
  have hx := ctx_lt ctx
  generalize die.toNat = n, ctx.toNat = x at hx ⊢
  have stage : (s.setStg n x { s.stg n x with phase := .backhaul }).stg n x = { s.stg n x with phase := .backhaul } :=
    stg_setStg_phase s n x nofun
  have same : ∀ a, (s.setStg n x { s.stg n x with phase := .backhaul }).rd a = s.rd a := setStg_rd s n x _
  have kept : RegFrame (switchReg n x) s (s.setStg n x { s.stg n x with phase := .backhaul }) := setStg_regFrame s n x _
  generalize s.setStg n x { s.stg n x with phase := .backhaul } = v at stage same kept ⊢
  have followed := follow_regFrame v n x (s.stg n (s.ctxPartner n x)).ptrs len
  have shown := cadState_regFrame (follow v n x (s.stg n (s.ctxPartner n x)).ptrs len) n x 4
  have frame : RegFrame (fun _ => True) s _ := regFrame_mono ((regFrame_mono (kept.trans followed) fun _ h => Or.inl h).trans
    (regFrame_mono shown fun _ h => Or.inr h)) fun _ _ => trivial
  refine ⟨_, rfl, congrArg StageCtx.phase stage, ?_, ?_, commit_regFrame_byte hc frame⟩
  · exact ((follow_followed v n x _ len).frame shown.toFrame fun _ h => switchReg_not_status hx hx h).commit hc frame.regs same
  · rw [commit_frame_rd hc frame.toFrame, cadState_state _ n x (by decide)]

/-- What the return from the backhaul stage leaves. -/
theorem backhaulReturn_returns (valid : s.ctxValid die.toNat ctx.toNat = true) (running : (s.stg die.toNat ctx.toNat).running = true)
    (switched : (s.stg die.toNat ctx.toNat).phase = .backhaul)
    (between : (s.stg die.toNat (s.ctxPartner die.toNat ctx.toNat)).phase = .idle)
    (stays : s.mayStart die.toNat (s.ctxPartner die.toNat ctx.toNat) = false) :
    ∃ t, exec (.backhaulReturn die ctx) s = .next t ∧ (t.stg die.toNat ctx.toNat).phase = .pad
      ∧ (t.stg die.toNat ctx.toNat).backhaulIdle = !s.backhaulReady die.toNat (s.ctxPartner die.toNat ctx.toNat)
      ∧ Followed s t die.toNat ctx.toNat (s.stg die.toNat ctx.toNat).ptrs
      ∧ bits (t.rd (Reg.CAD_STATUS die.toNat ctx.toNat)) 10 8 = 3 ∧ ∀ a, t.byte a = s.byte a := by
  rw [exec_backhaulReturn, live_eq hl hc, fxBackhaulReturn_go valid running switched between stays]
  have hx := ctx_lt ctx
  generalize die.toNat = n, ctx.toNat = x at hx ⊢
  have hb := ctxPartner_lt s n x
  have followed := follow_regFrame s n x (s.stg n x).ptrs 0
  have suspended := cadState_regFrame (follow s n x (s.stg n x).ptrs 0) n (s.ctxPartner n x) 5
  have loaded := (follow_followed s n x (s.stg n x).ptrs 0).frame suspended.toFrame fun _ h => switchReg_not_status hx hb h
  have stage : ((follow s n x (s.stg n x).ptrs 0).cadState n (s.ctxPartner n x) 5).stg n x = s.stg n x := rfl
  have kept : RegFrame (fun _ => True) s _ := (regFrame_mono followed fun _ _ => trivial).trans
    (regFrame_mono suspended fun _ _ => trivial)
  generalize (follow s n x (s.stg n x).ptrs 0).cadState n (s.ctxPartner n x) 5 = v at loaded stage kept ⊢
  have pads := slotPads_regFrame v n x (!s.backhaulReady n (s.ctxPartner n x))
  have frame := kept.trans (regFrame_mono pads fun _ _ => trivial)
  have padded := slotPads_stg v n x (!s.backhaulReady n (s.ctxPartner n x))
  refine ⟨_, rfl, ?_, ?_, ?_, ?_, commit_regFrame_byte hc frame⟩
  · rw [stg_commit, padded]
  · rw [stg_commit, padded]
  · exact (loaded.frame pads.toFrame fun _ h => switchReg_not_status hx hx h).commit hc frame.regs fun _ => rfl
  · rw [commit_frame_rd hc frame.toFrame, slotPads_state]

/-- A command without effect leaves the state. -/
theorem exec_backhaulSwitch_idle (h : s.ctxValid die.toNat ctx.toNat = false ∨ (s.stg die.toNat ctx.toNat).running = false
      ∨ (s.stg die.toNat ctx.toNat).phase ≠ .await ∨ s.ctxHosts die.toNat ctx.toNat = false
      ∨ s.slotRuns die.toNat ctx.toNat (s.curSlot die.toNat ctx.toNat) ≠ 6) : exec (.backhaulSwitch die ctx) s = .next s := by
  rw [exec_backhaulSwitch, live_eq hl hc, fxBackhaulSwitch, if_neg, commit_self hc]
  rintro go
  simp only [Bool.and_eq_true, beq_iff_eq] at go
  obtain ⟨⟨⟨⟨valid, running⟩, await⟩, hosts⟩, runs⟩ := go
  rcases h with h | h | h | h | h
  · exact Bool.false_ne_true (h.symm.trans valid)
  · exact Bool.false_ne_true (h.symm.trans running)
  · exact h await
  · exact Bool.false_ne_true (h.symm.trans hosts)
  · exact h runs

theorem exec_backhaulReturn_idle (h : s.ctxValid die.toNat ctx.toNat = false ∨ (s.stg die.toNat ctx.toNat).running = false
      ∨ (s.stg die.toNat ctx.toNat).phase ≠ .backhaul ∨ (s.stg die.toNat (s.ctxPartner die.toNat ctx.toNat)).phase ≠ .idle
      ∨ s.mayStart die.toNat (s.ctxPartner die.toNat ctx.toNat) = true) : exec (.backhaulReturn die ctx) s = .next s := by
  rw [exec_backhaulReturn, live_eq hl hc, fxBackhaulReturn, if_neg, commit_self hc]
  rintro go
  simp only [Bool.and_eq_true, beq_iff_eq, Bool.not_eq_true'] at go
  obtain ⟨⟨⟨⟨valid, running⟩, switched⟩, between⟩, stays⟩ := go
  rcases h with h | h | h | h | h
  · exact Bool.false_ne_true (h.symm.trans valid)
  · exact Bool.false_ne_true (h.symm.trans running)
  · exact h switched
  · exact h between
  · exact Bool.false_ne_true (stays.symm.trans h)

end Commands

/-- Settles O28: an UPDATE slot goes on to its padding, and a switch loads the pointers of the stage that the units then follow. -/
theorem backhaulSwitches : Obligations.BackhaulSwitches := by
  refine ⟨fun die ctx s hl hc => ⟨?_, fun none => ?_, fun valid running primary await runs written early => ?_⟩,
    ⟨fun die ctx s hl hc valid running await hosts runs => ?_, fun die ctx s hl hc valid running switched between stays => ?_⟩,
    fun die ctx s hl hc => ⟨exec_backhaulSwitch_idle hl hc, exec_backhaulReturn_idle hl hc⟩⟩
  · rw [exec_slotComplete, live_eq hl hc, fxSlotComplete]
  · rw [exec_slotComplete, live_eq hl hc, fxSlotComplete, slotProgress_none none, commit_self hc]
  · have frame := slotPads_regFrame s die.toNat ctx.toNat false
    refine ⟨_, slotComplete_update hl hc valid running primary await runs written early, ?_, ?_, fun a ha => ?_,
      commit_regFrame_byte hc frame⟩
    · rw [stg_commit, slotPads_stg]
    · rw [commit_frame_rd hc frame.toFrame, slotPads_state]
    · rw [commit_frame_rd hc frame.toFrame, frame.rd a ha]
  · obtain ⟨t, run, phase, ⟨queue, table, ledger, count⟩, state, bytes⟩ :=
      backhaulSwitch_switches hl hc valid running await hosts runs
    exact ⟨t, run, phase, queue, table, ledger, state, count, bytes⟩
  · obtain ⟨t, run, phase, idle, ⟨queue, table, ledger, count⟩, state, bytes⟩ :=
      backhaulReturn_returns hl hc valid running switched between stays
    exact ⟨t, run, phase, idle, queue, table, ledger, state, count, bytes⟩

end Sys2Proof.Proofs
end

section
/-!
SUPPORT. The end of a slot (R70, R78): the lag after it, the next slot of the table, and the end of the period; and the statement O27.
-/

namespace Sys2Proof.Proofs

open Sys2Proof Sys2Proof.Machine Sys2Proof.Laws

/-! ### The writes that wait for a boundary -/

/-- A boundary for which no register write waits. -/
theorem applyPend_none {s : State} {n x : Nat} (h : (s.stg n x).regPend = []) :
    s.applyPend n x = s.setStg n x (atBoundary (s.stg n x)) := by
  unfold State.applyPend
  simp only [h, List.foldl_nil]
  rfl

/-! ### Lag (R78, R79) -/

section Notes
variable (s : State) (n x l : Nat)

/-- The largest lag is kept. -/
def noteMax : State := if s.rdB (Reg.CAD_LAG_MAX n x) 31 0 < l then s.wr (Reg.CAD_LAG_MAX n x) (w l) else s

/-- The level after a lag `l` that was `old`. -/
def noteLevel (old : Nat) : State :=
  if l = 0 then s.wrB (Reg.CAD_STATUS n x) 12 11 0 else if old = 0 then s.wrB (Reg.CAD_STATUS n x) 12 11 1 else s

/-- Without lag the next one may raise its event again. -/
def noteClear : State := if l = 0 then s.setStg n x { s.stg n x with lagRaised := false } else s

/-- All that a lag leaves, but for the events. -/
def lagNoted : State := noteClear (noteLevel (noteMax (s.wr (Reg.CAD_LAG n x) (w l)) n x l) n x l (s.lag n x)) n x l

end Notes

/-- From `s` to `t` the end of a slot wrote nothing that says which slot stands at the context, nor its lag. -/
structure LagKept (n x : Nat) (s t : State) : Prop where
  frame : RegFrame (lagReg n x) s t
  index : t.rdB (Reg.CAD_STATUS n x) 7 0 = s.rdB (Reg.CAD_STATUS n x) 7 0
  lag : t.rd (Reg.CAD_LAG n x) = s.rd (Reg.CAD_LAG n x)
  running : (s.stg n x).running = true → (t.stg n x).running = true

namespace LagKept

variable {s t u : State} {n x : Nat}

theorem refl (n x : Nat) (s : State) : LagKept n x s s := ⟨.refl s, rfl, rfl, id⟩

theorem trans (h : LagKept n x s t) (k : LagKept n x t u) : LagKept n x s u :=
  ⟨h.frame.trans k.frame, k.index.trans h.index, k.lag.trans h.lag, k.running ∘ h.running⟩

theorem lag_ne_status (n x : Nat) : Reg.CAD_LAG n x ≠ Reg.CAD_STATUS n x := by unfold Reg.CAD_LAG Reg.CAD_STATUS; omega

theorem level (s : State) (n x k : Nat) : LagKept n x s (s.wrB (Reg.CAD_STATUS n x) 12 11 k) where
  frame := (RegFrame.refl s).wr (.inl rfl) _
  index := rdB_wrB_field s k (by decide) (by decide) (.inl (by decide))
  lag := (wrB_regFrame s _ _ _ _).rd _ (lag_ne_status n x)
  running := id

/-- Another register of those that the end of a slot writes. -/
theorem wr (s : State) {n x a : Nat} (v : Word) (ha : lagReg n x a) (hs : a ≠ Reg.CAD_STATUS n x) (hl : a ≠ Reg.CAD_LAG n x) :
    LagKept n x s (s.wr a v) where
  frame := (RegFrame.refl s).wr ha v
  index := by unfold State.rdB; rw [rd_wr, if_neg hs]
  lag := by rw [rd_wr, if_neg hl]
  running := id

theorem setStg (s : State) (n x : Nat) {g : StageCtx} (hg : (s.stg n x).running = true → g.running = true) :
    LagKept n x s (s.setStg n x g) where
  frame := setStg_regFrame s n x g
  index := by unfold State.rdB; rw [setStg_rd]
  lag := setStg_rd s n x g _
  running hr := by rw [stg_setStg_running s n x (hg hr)]; exact hg hr

end LagKept

theorem noteMax_kept (s : State) (n x l : Nat) : LagKept n x s (noteMax s n x l) := by
  unfold noteMax
  split
  · refine .wr s _ (.inr (.inr rfl)) ?_ ?_
    · unfold Reg.CAD_LAG_MAX Reg.CAD_STATUS; omega
    · unfold Reg.CAD_LAG_MAX Reg.CAD_LAG; omega
  · exact .refl n x s

theorem noteLevel_kept (s : State) (n x l old : Nat) : LagKept n x s (noteLevel s n x l old) := by
  unfold noteLevel
  split
  · exact .level s n x 0
  · split
    · exact .level s n x 1
    · exact .refl n x s

theorem noteClear_kept (s : State) (n x l : Nat) : LagKept n x s (noteClear s n x l) := by
  unfold noteClear
  split
  · exact .setStg s n x id
  · exact .refl n x s

/-- What follows once the lag is written. -/
theorem lagNoted_kept (s : State) (n x l : Nat) : LagKept n x (s.wr (Reg.CAD_LAG n x) (w l)) (lagNoted s n x l) :=
  ((noteMax_kept _ n x l).trans (noteLevel_kept _ n x l _)).trans (noteClear_kept _ n x l)

/-- A lag that reaches neither its bound nor its limit raises no event. -/
theorem lagAfter_quiet {s : State} {n x d budget : Nat} (bound : s.rdB (Reg.CAD_LAG_BOUND n x) 31 0 = 0)
    (limit : min 0xFFFFFFFF (s.lag n x + d - budget) = 0xFFFFFFFF → s.lag n x = 0xFFFFFFFF) :
    s.lagAfter n x d budget = lagNoted s n x (min 0xFFFFFFFF (s.lag n x + d - budget)) := by
  have unbound : (lagNoted s n x (min 0xFFFFFFFF (s.lag n x + d - budget))).rdB (Reg.CAD_LAG_BOUND n x) 31 0 = 0 := by
    obtain ⟨-, other, -⟩ := keptReg_lagBound n x
    refine (rdB_of_frame (lagNoted_kept s n x _).frame.toFrame other 31 0).trans (Eq.trans ?_ bound)
    unfold State.rdB
    rw [rd_wr, if_neg (fun h => other (.inr (.inl h.symm)))]
  have shape : s.lagAfter n x d budget = (let l := min 0xFFFFFFFF (s.lag n x + d - budget)
      let t := lagNoted s n x l
      let b := t.rdB (Reg.CAD_LAG_BOUND n x) 31 0
      let t := if b ≠ 0 ∧ b < l ∧ !(t.stg n x).lagRaised then
        (t.setStg n x { t.stg n x with lagRaised := true }).cadEvent n x 0 else t
      if l = 0xFFFFFFFF ∧ s.lag n x ≠ 0xFFFFFFFF then t.cadEvent n x 1 else t) := rfl
  rw [shape]
  dsimp only
  rw [if_neg (fun h => h.2 (limit h.1)), if_neg (fun h => h.1 unbound)]

/-! ### The next slot (R65, R70) -/

/-- The slot that has ended, without what comes after it: the writes that waited, the time recovered, and the lag. -/
def slotSettled (s : State) (n x d : Nat) : State :=
  let v := s.curSlot n x
  let void := s.slotVoid n x v
  let s := s.applyPend n x
  let compressed := s.ctxBackhaul n x == false && slotKind v != 0 && slotKind v != 6
    && decide ((s.stg n x).budget < slotBudget v) && !void
  let s := if compressed then s.addB (Reg.CAD_RECOVERED n x) 63 32 (slotBudget v - d) else s
  if s.ctxBackhaul n x then s else s.lagAfter n x d (slotBudget v)

/-- The next slot of the table follows, or the next period. -/
def nextSlot (s : State) (n x : Nat) : State :=
  let k := s.rdB (Reg.CAD_STATUS n x) 7 0
  if k + 1 < s.slotCount n x then s.wrB (Reg.CAD_STATUS n x) 7 0 (k + 1)
  else (s.wrB (Reg.CAD_STATUS n x) 7 0 0).periodEnd n x

theorem slotDone_eq (s : State) (n x d : Nat) : ∃ f, s.slotDone n x d = nextSlot ((slotSettled s n x d).setStg n x
    (betweenSlots ((slotSettled s n x d).stg n x) f)) n x :=
  ⟨_, rfl⟩

/-- Where a context stands after the slot that `s` holds: the next slot, or the first one of the next period. -/
def MovedOn (s t : State) (n x : Nat) : Prop :=
  let k := s.rdB (Reg.CAD_STATUS n x) 7 0
  (k + 1 < s.slotCount n x → t.rdB (Reg.CAD_STATUS n x) 7 0 = (k + 1) % 256 ∧ t.rd (Reg.CAD_FBASE n x) = s.rd (Reg.CAD_FBASE n x))
    ∧ (s.slotCount n x ≤ k + 1 → t.rdB (Reg.CAD_STATUS n x) 7 0 = 0
      ∧ t.rd (Reg.CAD_FBASE n x) = w ((s.rd (Reg.CAD_FBASE n x)).toNat + s.nfOf n x))

/-- The registers that the step to the next slot writes. -/
def stepReg (n x a : Nat) : Prop := a = Reg.CAD_STATUS n x ∨ a = Reg.CAD_FBASE n x ∨ a = Reg.CAD_PERIODS n x

theorem fbase_ne_status (n x : Nat) : Reg.CAD_FBASE n x ≠ Reg.CAD_STATUS n x := by unfold Reg.CAD_FBASE Reg.CAD_STATUS; omega

theorem fbase_ne_periods (n x : Nat) : Reg.CAD_FBASE n x ≠ Reg.CAD_PERIODS n x := by unfold Reg.CAD_FBASE Reg.CAD_PERIODS; omega

theorem status_ne_periods (n x : Nat) : Reg.CAD_STATUS n x ≠ Reg.CAD_PERIODS n x := by unfold Reg.CAD_STATUS Reg.CAD_PERIODS; omega

/-- The end of a period: the base advances, and the slot's number stays. -/
theorem periodEnd_leaves (s : State) (n x : Nat) : RegFrame (stepReg n x) s (s.periodEnd n x)
    ∧ (s.periodEnd n x).rdB (Reg.CAD_STATUS n x) 7 0 = s.rdB (Reg.CAD_STATUS n x) 7 0
    ∧ (s.periodEnd n x).rd (Reg.CAD_FBASE n x) = w ((s.rd (Reg.CAD_FBASE n x)).toNat + s.nfOf n x)
    ∧ (s.periodEnd n x).stg n x = s.stg n x := by
  let u := (s.wr (Reg.CAD_FBASE n x) (w ((s.rd (Reg.CAD_FBASE n x)).toNat + s.nfOf n x))).addB (Reg.CAD_PERIODS n x) 63 0 1
  have frame : RegFrame (stepReg n x) s u := ((RegFrame.refl s).wr (.inr (.inl rfl)) _).trans
    (regFrame_mono (addB_regFrame _ _ _ _ _) fun _ h => .inr (.inr h))
  have index : u.rdB (Reg.CAD_STATUS n x) 7 0 = s.rdB (Reg.CAD_STATUS n x) 7 0 := by
    refine (rdB_of_frame (addB_regFrame _ _ 63 0 1).toFrame (status_ne_periods n x) 7 0).trans ?_
    unfold State.rdB
    rw [rd_wr, if_neg (fbase_ne_status n x)]
  have base : u.rd (Reg.CAD_FBASE n x) = w ((s.rd (Reg.CAD_FBASE n x)).toNat + s.nfOf n x) :=
    ((addB_regFrame _ _ 63 0 1).rd _ (fbase_ne_periods n x)).trans (rd_wr_same _ _ _)
  have shape : s.periodEnd n x = if 0 < u.lag n x ∧ !u.ctxBackhaul n x then
      u.wrB (Reg.CAD_STATUS n x) 12 11 (min 3 (u.level n x + 1)) else u := rfl
  rw [shape]
  split
  · refine ⟨frame.trans (regFrame_mono (wrB_regFrame _ _ _ _ _) fun _ h => .inl h), ?_, ?_, rfl⟩
    · exact (rdB_wrB_field u _ (by decide) (by decide) (.inl (by decide))).trans index
    · exact ((wrB_regFrame u _ 12 11 _).rd _ (fbase_ne_status n x)).trans base
  · exact ⟨frame, index, base, rfl⟩

theorem nextSlot_leaves (s : State) (n x : Nat) :
    RegFrame (stepReg n x) s (nextSlot s n x) ∧ MovedOn s (nextSlot s n x) n x ∧ (nextSlot s n x).stg n x = s.stg n x := by
  unfold nextSlot MovedOn
  dsimp only
  have status (k : Nat) := wrB_regFrame s (Reg.CAD_STATUS n x) 7 0 k
  split
  · refine ⟨regFrame_mono (status _) fun _ h => .inl h, ⟨fun _ => ⟨rdB_wrB_same s _ (by decide) (by decide), ?_⟩, fun h => ?_⟩, rfl⟩
    · exact (status _).rd _ (fbase_ne_status n x)
    · omega
  · obtain ⟨frame, index, base, stage⟩ := periodEnd_leaves (s.wrB (Reg.CAD_STATUS n x) 7 0 0) n x
    have nf : (s.wrB (Reg.CAD_STATUS n x) 7 0 0).nfOf n x = s.nfOf n x :=
      rdB_of_frame (status 0).toFrame (by unfold Reg.CAD_CTX_CFG Reg.CAD_STATUS; omega) 25 17
    refine ⟨(regFrame_mono (status 0) fun _ h => .inl h).trans frame, ⟨fun h => by omega, fun _ => ⟨?_, ?_⟩⟩, stage⟩
    · exact index.trans (rdB_wrB_same s 0 (by decide) (by decide))
    · rw [base, nf, (status 0).rd _ (fbase_ne_status n x)]

/-! ### The end of a slot -/

/-- The registers that the end of a slot writes. -/
def doneReg (n x a : Nat) : Prop := lagReg n x a ∨ a = Reg.CAD_RECOVERED n x ∨ stepReg n x a

/-- The time that a compressed slot has recovered is counted (R80). -/
def recovered (s : State) (n x : Nat) (compressed : Bool) (k : Nat) : State :=
  if compressed then s.addB (Reg.CAD_RECOVERED n x) 63 32 k else s

theorem recovered_leaves (s : State) (n x : Nat) (compressed : Bool) (k : Nat) :
    RegFrame (· = Reg.CAD_RECOVERED n x) s (recovered s n x compressed k)
      ∧ (recovered s n x compressed k).rdB (Reg.CAD_RECOVERED n x) 31 0 = s.rdB (Reg.CAD_RECOVERED n x) 31 0
      ∧ (recovered s n x compressed k).stg n x = s.stg n x := by
  unfold recovered
  split
  · exact ⟨addB_regFrame s _ _ _ _, rdB_wrB_field s _ (by decide) (by decide) (.inl (by decide)), rfl⟩
  · exact ⟨.refl s, rfl, rfl⟩

/-- A slot of a primary stage that ends is counted, and its lag is noted. -/
theorem slotSettled_primary {s : State} {n x : Nat} (d : Nat) (primary : s.ctxBackhaul n x = false)
    (unwaited : (s.stg n x).regPend = []) : ∃ c k, slotSettled s n x d
      = (recovered (s.setStg n x (atBoundary (s.stg n x))) n x c k).lagAfter n x d (slotBudget (s.curSlot n x)) := by
  have shape : ∃ c k, slotSettled s n x d = if (recovered (s.applyPend n x) n x c k).ctxBackhaul n x
      then recovered (s.applyPend n x) n x c k
      else (recovered (s.applyPend n x) n x c k).lagAfter n x d (slotBudget (s.curSlot n x)) := ⟨_, _, rfl⟩
  obtain ⟨c, k, shape⟩ := shape
  rw [applyPend_none unwaited] at shape
  have frame := (setStg_regFrame s n x (atBoundary (s.stg n x))).trans (recovered_leaves _ n x c k).1
  rw [ctxBackhaul_of_frame frame.toFrame (by unfold Reg.CAD_CTX_CFG Reg.CAD_RECOVERED; omega), primary,
    if_neg Bool.false_ne_true] at shape
  exact ⟨c, k, shape⟩

/-- The lag that the end of a primary stage's slot leaves, when no event is due. -/
theorem slotSettled_quiet {s : State} {n x d : Nat} (primary : s.ctxBackhaul n x = false)
    (running : (s.stg n x).running = true) (unwaited : (s.stg n x).regPend = [])
    (bound : s.rdB (Reg.CAD_LAG_BOUND n x) 31 0 = 0)
    (limit : min 0xFFFFFFFF (s.lag n x + d - slotBudget (s.curSlot n x)) = 0xFFFFFFFF → s.lag n x = 0xFFFFFFFF) :
    let u := slotSettled s n x d
    RegFrame (doneReg n x) s u ∧ u.rdB (Reg.CAD_STATUS n x) 7 0 = s.rdB (Reg.CAD_STATUS n x) 7 0
      ∧ u.lag n x = min 0xFFFFFFFF (s.lag n x + d - slotBudget (s.curSlot n x)) ∧ (u.stg n x).running = true
      ∧ u.rdB (Reg.CAD_RECOVERED n x) 31 0 = s.rdB (Reg.CAD_RECOVERED n x) 31 0
      ∧ u.rd (Reg.CAD_FBASE n x) = s.rd (Reg.CAD_FBASE n x) := by
  obtain ⟨c, k, shape⟩ := slotSettled_primary d primary unwaited
  have first := setStg_regFrame (R := (· = Reg.CAD_RECOVERED n x)) s n x (atBoundary (s.stg n x))
  have stage := stg_setStg_running s n x (g := atBoundary (s.stg n x)) running
  have reads := setStg_rd s n x (atBoundary (s.stg n x))
  generalize s.setStg n x (atBoundary (s.stg n x)) = v₀ at shape first stage reads
  obtain ⟨counted, low, kept⟩ := recovered_leaves v₀ n x c k
  have frame := first.trans counted
  generalize recovered v₀ n x c k = v at shape frame low kept
  have lag : v.lag n x = s.lag n x := rdB_of_frame frame.toFrame (by unfold Reg.CAD_LAG Reg.CAD_RECOVERED; omega) 31 0
  have unbound : v.rdB (Reg.CAD_LAG_BOUND n x) 31 0 = 0 :=
    (rdB_of_frame frame.toFrame (by unfold Reg.CAD_LAG_BOUND Reg.CAD_RECOVERED; omega) 31 0).trans bound
  rw [← lag] at limit ⊢
  rw [lagAfter_quiet unbound limit] at shape
  generalize hl : min 0xFFFFFFFF (v.lag n x + d - slotBudget (s.curSlot n x)) = l at *
  have noted := lagNoted_kept v n x l
  have written := ((RegFrame.refl v).wr (R := lagReg n x) (.inr (.inl rfl)) (w l)).trans noted.frame
  rw [shape]
  refine ⟨(regFrame_mono frame fun _ h => .inr (.inl h)).trans (regFrame_mono written fun _ h => .inl h), ?_, ?_,
    noted.running ?_, ?_, ?_⟩
  · rw [noted.index, ← rdB_of_frame frame.toFrame (by unfold Reg.CAD_STATUS Reg.CAD_RECOVERED; omega) 7 0]
    unfold State.rdB
    rw [rd_wr, if_neg (LagKept.lag_ne_status n x)]
  · rw [State.lag, State.rdB, noted.lag, rd_wr_same]
    exact bits_w (by decide) (by omega)
  · rw [stg_wr, kept, stage]
    exact running
  · rw [rdB_of_frame written.toFrame
      (by unfold lagReg Reg.CAD_RECOVERED Reg.CAD_STATUS Reg.CAD_LAG Reg.CAD_LAG_MAX; omega) 31 0, low, State.rdB, reads]
    rfl
  · rw [written.rd _ (by unfold lagReg Reg.CAD_FBASE Reg.CAD_STATUS Reg.CAD_LAG Reg.CAD_LAG_MAX; omega),
      frame.rd _ (by unfold Reg.CAD_FBASE Reg.CAD_RECOVERED; omega)]

/-- A context moves on from where it stands, whatever else is written. -/
theorem MovedOn.of_same {s u t : State} {n x : Nat} (h : MovedOn u t n x)
    (index : u.rdB (Reg.CAD_STATUS n x) 7 0 = s.rdB (Reg.CAD_STATUS n x) 7 0)
    (cfg : u.rd (Reg.CAD_CTX_CFG n x) = s.rd (Reg.CAD_CTX_CFG n x))
    (fbase : u.rd (Reg.CAD_FBASE n x) = s.rd (Reg.CAD_FBASE n x)) : MovedOn s t n x := by
  have count : u.slotCount n x = s.slotCount n x := by unfold State.slotCount State.rdB; rw [cfg]
  have nf : u.nfOf n x = s.nfOf n x := by unfold State.nfOf State.rdB; rw [cfg]
  unfold MovedOn at h ⊢
  rw [index, fbase, count, nf] at h
  exact h

theorem MovedOn.of_reads {s t u : State} {n x : Nat} (h : MovedOn s t n x) (reads : ∀ a, u.rd a = t.rd a) : MovedOn s u n x := by
  unfold MovedOn State.rdB at h ⊢
  simp only [reads]
  exact h

/-- The end of a primary stage's slot, when no write waits for the boundary and no event is due. -/
theorem slotDone_quiet {s : State} {n x d : Nat} (primary : s.ctxBackhaul n x = false)
    (running : (s.stg n x).running = true) (unwaited : (s.stg n x).regPend = [])
    (bound : s.rdB (Reg.CAD_LAG_BOUND n x) 31 0 = 0)
    (limit : min 0xFFFFFFFF (s.lag n x + d - slotBudget (s.curSlot n x)) = 0xFFFFFFFF → s.lag n x = 0xFFFFFFFF) :
    let t := s.slotDone n x d
    RegFrame (doneReg n x) s t ∧ t.lag n x = min 0xFFFFFFFF (s.lag n x + d - slotBudget (s.curSlot n x)) ∧ MovedOn s t n x
      ∧ (t.stg n x).phase = .idle ∧ t.rdB (Reg.CAD_RECOVERED n x) 31 0 = s.rdB (Reg.CAD_RECOVERED n x) 31 0 := by
  obtain ⟨frame, index, lag, runs, low, fbase⟩ := slotSettled_quiet primary running unwaited bound limit
  obtain ⟨f, shape⟩ := slotDone_eq s n x d
  generalize slotSettled s n x d = u at frame index lag runs low fbase shape
  have stage := stg_setStg_running u n x (g := betweenSlots (u.stg n x) f) runs
  have reads := setStg_rd u n x (betweenSlots (u.stg n x) f)
  have same := setStg_regFrame (R := stepReg n x) u n x (betweenSlots (u.stg n x) f)
  generalize u.setStg n x (betweenSlots (u.stg n x) f) = v at shape stage reads same
  obtain ⟨stepped, moved, kept⟩ := nextSlot_leaves v n x
  have after := same.trans stepped
  have outside : ¬doneReg n x (Reg.CAD_CTX_CFG n x) := by
    unfold doneReg lagReg stepReg Reg.CAD_CTX_CFG Reg.CAD_STATUS Reg.CAD_LAG Reg.CAD_LAG_MAX Reg.CAD_RECOVERED Reg.CAD_FBASE
      Reg.CAD_PERIODS
    omega
  rw [shape]
  refine ⟨frame.trans (regFrame_mono after fun _ h => .inr (.inr h)), ?_, ?_, ?_, ?_⟩
  · rw [← lag]
    exact rdB_of_frame after.toFrame (by unfold stepReg Reg.CAD_LAG Reg.CAD_STATUS Reg.CAD_FBASE Reg.CAD_PERIODS; omega) 31 0
  · refine moved.of_same ?_ ((reads _).trans (frame.rd _ outside)) ((reads _).trans fbase)
    rw [← index, State.rdB, State.rdB, reads]
  · rw [kept, stage]
    rfl
  · rw [← low]
    exact rdB_of_frame after.toFrame
      (by unfold stepReg Reg.CAD_RECOVERED Reg.CAD_STATUS Reg.CAD_FBASE Reg.CAD_PERIODS; omega) 31 0

/-! ### SLOT_BUDGET_EXPIRE -/

/-- Settles O27: the end of a padded slot, or nothing where it does not pad or its budget is not over. -/
theorem paddedSlotCompletes : Obligations.PaddedSlotCompletes := by
  intro die ctx s hl hc n x k l valid running primary
  have run : exec (.slotBudgetExpire die ctx) s = .next (s.commit (s.padDone n x)) := by
    rw [exec_slotBudgetExpire, live_eq hl hc, fxSlotBudgetExpire, if_pos (by simp [n, x, valid, running])]
  have elapsed := budgetOver_primary primary
  refine ⟨fun pads late unwaited bound unsaturated => ?_, fun h => ?_⟩
  · have fits : l < 0xFFFFFFFF := unsaturated
    obtain ⟨frame, lag, moved, -⟩ := slotDone_quiet (d := s.now - s.slotT0 n x) primary running unwaited bound
      (fun h => by simp only [l] at fits; omega)
    have done : s.padDone n x = s.slotDone n x (s.now - s.slotT0 n x) := by
      unfold State.padDone
      rw [if_pos (by simp [pads, elapsed, late])]
    have reads := commit_frame_rd hc frame.toFrame
    obtain ⟨next, last⟩ := moved.of_reads reads
    refine ⟨_, run.trans (by rw [done]), ?_, next, last, commit_regFrame_byte hc frame⟩
    rw [State.lag, State.rdB, reads]
    exact lag.trans (min_eq_right (le_of_lt fits))
  · have stays : s.padDone n x = s := by
      unfold State.padDone
      refine if_neg fun go => ?_
      simp only [Bool.and_eq_true, beq_iff_eq, elapsed, decide_eq_true_eq] at go
      rcases h with h | h
      · exact h go.1
      · exact absurd go.2 (by omega)
    rw [run, stays, commit_self hc]

end Sys2Proof.Proofs
end

section
/-!
SUPPORT. Admission (R100, R104): a wait that is shown, a descriptor that passes through, a micro-batch that is admitted for
computing; and the statement O29.
-/

namespace Sys2Proof.Proofs

open Sys2Proof Sys2Proof.Machine Sys2Proof.Laws

/-! ### What the end of a command leaves of a register's last write -/

theorem commit_wr {s : State} (hc : s.Canonical) (t : State) (a b : Nat) (v : Word) :
    (s.commit (t.wr a v)).rd b = if a = b then v else (s.commit t).rd b := by
  rw [commit_rd hc, commit_rd hc, wr_jnl, jnlReg]
  split <;> rfl

theorem commit_raise {s : State} (hc : s.Canonical) (t : State) {evt b : Nat} (hb : evt ≠ b) (lg blk en ev : Nat) (e : EvInfo) :
    (s.commit (t.raise lg blk evt en ev e)).rd b = (s.commit t).rd b := by
  have written := (commit_wr hc t evt b (setBit (t.rd evt) ev)).trans (if_neg hb)
  unfold State.raise
  dsimp only
  split
  · exact written
  · exact written

/-! ### A wait (R97, R100) -/

/-- The context shows that its slot waits, and for what. -/
def ShowsWait (t : State) (n x k : Nat) : Prop :=
  t.rdB (Reg.MBQ_STATUS n x) 4 2 = k ∧ bits (t.rd (Reg.CAD_STATUS n x)) 10 8 = 2

theorem commit_slotWaits {s : State} (hc : s.Canonical) (u : State) (n x : Nat) {k : Nat} (hk : k < 8) :
    ShowsWait (s.commit (u.slotWaits n x k)) n x k := by
  have apart : Reg.CAD_STATUS n x ≠ Reg.MBQ_STATUS n x := by unfold Reg.CAD_STATUS Reg.MBQ_STATUS; omega
  unfold ShowsWait State.slotWaits State.cadState State.setWait State.wrB State.rdB
  rw [commit_wr hc, if_neg apart, commit_wr hc, if_pos rfl, commit_wr hc, if_pos rfl, bits_putBits _ _ (by decide) (by decide),
    bits_putBits _ _ (by decide) (by decide)]
  exact ⟨Nat.mod_eq_of_lt hk, rfl⟩

/-- Events and the tables of stages leave the wait that a context shows. -/
theorem ShowsWait.of_reads {t u : State} {n x k : Nat} (h : ShowsWait t n x k)
    (mbq : u.rd (Reg.MBQ_STATUS n x) = t.rd (Reg.MBQ_STATUS n x)) (cad : u.rd (Reg.CAD_STATUS n x) = t.rd (Reg.CAD_STATUS n x)) :
    ShowsWait u n x k := by
  unfold ShowsWait State.rdB at h ⊢
  rw [mbq, cad]
  exact h

theorem ShowsWait.raise {s t : State} {n x k : Nat} (hc : s.Canonical) (h : ShowsWait (s.commit t) n x k) {evt : Nat}
    (mbq : evt ≠ Reg.MBQ_STATUS n x) (cad : evt ≠ Reg.CAD_STATUS n x) (lg blk en ev : Nat) (e : EvInfo) :
    ShowsWait (s.commit (t.raise lg blk evt en ev e)) n x k :=
  h.of_reads (commit_raise hc t mbq lg blk en ev e) (commit_raise hc t cad lg blk en ev e)

theorem ShowsWait.setStg {s t : State} {n x k : Nat} (hc : s.Canonical) (h : ShowsWait (s.commit t) n x k) (g : StageCtx) :
    ShowsWait (s.commit (t.setStg n x g)) n x k :=
  have same (b : Nat) : (s.commit (t.setStg n x g)).rd b = (s.commit t).rd b := by rw [commit_rd hc, commit_rd hc, setStg_jnl]
  h.of_reads (same _) (same _)

/-- What a context that waits for pages or for room in a ledger tells, once for each wait. -/
def waitTold (t : State) (n x : Nat) (d : List Byte) (g : StageCtx) (pool room : Bool) : State :=
  let t := if pool && !g.poolFlag then t.mbqEvent n x 3 0 d else t
  let t := if room && !g.ledFlag then t.ledEvent 2 0 none else t
  t.setStg n x { t.stg n x with poolFlag := g.poolFlag || pool, ledFlag := g.ledFlag || room }

theorem ShowsWait.told {s t : State} {n x k : Nat} (hc : s.Canonical) (_ : x < 32) (h : ShowsWait (s.commit t) n x k)
    (d : List Byte) (g : StageCtx) (pool room : Bool) : ShowsWait (s.commit (waitTold t n x d g pool room)) n x k := by
  have poolTold : ShowsWait (s.commit (if pool && !g.poolFlag then t.mbqEvent n x 3 0 d else t)) n x k := by
    split
    · refine h.raise hc ?_ ?_ _ _ _ _ _
      · unfold Reg.MBQ_EVT Reg.MBQ_STATUS; omega
      · unfold Reg.MBQ_EVT Reg.CAD_STATUS; omega
    · exact h
  unfold waitTold
  generalize (if pool && !g.poolFlag then t.mbqEvent n x 3 0 d else t) = u at poolTold
  refine ShowsWait.setStg hc ?_ _
  split
  · refine poolTold.raise hc ?_ ?_ _ _ _ _ _
    · unfold Reg.LED_EVT Reg.MBQ_STATUS ctlBase; omega
    · unfold Reg.LED_EVT Reg.CAD_STATUS ctlBase; omega
  · exact poolTold

/-! ### Units that start leave the tables of stages and micro-batches -/

/-- The tables of stages and of micro-batches. -/
def stageTables (s : State) : Tbl StageCtx × Tbl MbCtx := (s.stages, s.mbs)

theorem foldl_keeps {α β : Type} (view : State → β) {f : State → α → State} (h : ∀ t y, view (f t y) = view t) (l : List α)
    (s : State) : view (l.foldl f s) = view s := by
  induction l generalizing s with
  | nil => rfl
  | cons y l ih => exact (ih _).trans (h s y)

theorem ite_keeps {β : Type} (view : State → β) {c : Prop} [Decidable c] {s t u : State} (h : view t = view s)
    (k : view u = view s) : view (if c then t else u) = view s := by
  split
  · exact h
  · exact k

theorem startEngine_tables (s : State) (e rank cnt x : Nat) (bh bwd : Bool) (d : List Byte) :
    stageTables (s.startEngine e rank cnt x bh bwd d) = stageTables s := by
  unfold State.startEngine
  exact ite_keeps stageTables rfl rfl

theorem startCore_tables (s : State) (c rank cnt x : Nat) (bh bwd : Bool) (d : List Byte) :
    stageTables (s.startCore c rank cnt x bh bwd d) = stageTables s := by
  unfold State.startCore
  exact ite_keeps stageTables rfl rfl

theorem startUnits_tables (s : State) (n x : Nat) (bwd : Bool) (d : List Byte) :
    stageTables (s.startUnits n x bwd d) = stageTables s := by
  unfold State.startUnits
  exact (foldl_keeps stageTables (fun t _ => startCore_tables t _ _ _ _ _ _ _) _ _).trans
    (foldl_keeps stageTables (fun t _ => startEngine_tables t _ _ _ _ _ _ _) _ _)

theorem stg_of_tables {s t : State} (h : stageTables t = stageTables s) (n x : Nat) : t.stg n x = s.stg n x :=
  congrArg (fun e : Tbl StageCtx × Tbl MbCtx => Tbl.get e.1 (sk n x) {}) h

theorem mbc_of_tables {s t : State} (h : stageTables t = stageTables s) (n x c : Nat) : t.mbc n x c = s.mbc n x c :=
  congrArg (fun e : Tbl StageCtx × Tbl MbCtx => Tbl.get e.2 (mbKey n x c) {}) h

theorem poolPeak_tables (s : State) (n x : Nat) : stageTables (s.poolPeak n x) = stageTables s := by
  unfold State.poolPeak
  exact ite_keeps stageTables rfl rfl

/-! ### Admission -/

/-- A context has taken a descriptor to pass it through, which is counted and shown. -/
def passTaken (v : State) (n x c : Nat) (m : MbCtx) : State :=
  ((((v.setMbc n x c m).addB (Reg.MBQ_PASSED n x) 63 0 1).wrB (Reg.CAD_STATUS n x) 14 14 1).setWait n x 0).cadState n x 1

/-- The slot goes on to send what its context passes through; a routed stage's dispatch unit is told. -/
def sendsPass (v : State) (n x c : Nat) (d : List Byte) : State :=
  let g := v.stg n x
  let v := if g.routed then
      let u := v.dsp n
      v.setDsp n { u with queue := u.queue ++ [{ ctx := x, master := 32 * n, pass := some d }] }
    else v
  v.setStg n x { g with phase := .send, mb := some c, inDesc := d, outDesc := d, sent := false, dspPend := g.routed
                        poolFlag := false, ledFlag := false }

/-- A context that is passed through, from the time `now`. -/
def passing (p : Int) (d : List Byte) (now : Nat) : MbCtx := { state := 4, pos := p, desc := d, admitted := now }

theorem admitPass_eq (s : State) (n x c : Nat) (p : Int) (d : List Byte) :
    s.admitPass n x c p d = sendsPass (passTaken (s.qPop (s.stg n x).inFwd) n x c
      (passing p d (s.qPop (s.stg n x).inFwd).now)) n x c d := rfl

theorem sendsPass_leaves (v : State) (n x c : Nat) (d : List Byte) : (sendsPass v n x c d).mbc n x c = v.mbc n x c
    ∧ ((sendsPass v n x c d).stg n x).phase = .send ∧ ((sendsPass v n x c d).stg n x).mb = some c := by
  unfold sendsPass
  dsimp only
  rw [stg_setStg_phase _ n x (by exact Phase.noConfusion), mbc_setStg]
  refine ⟨?_, rfl, rfl⟩
  split
  · rfl
  · rfl

/-- A context that passes a descriptor through, whose slot goes on to send (R76, R98). -/
theorem admitPass_leaves (s : State) (n x c : Nat) (p : Int) (d : List Byte) :
    let t := s.admitPass n x c p d
    (t.mbc n x c).state = 4 ∧ (t.mbc n x c).pos = p ∧ (t.stg n x).phase = .send ∧ (t.stg n x).mb = some c := by
  rw [admitPass_eq]
  generalize s.qPop (s.stg n x).inFwd = v
  obtain ⟨kept, phase, mb⟩ := sendsPass_leaves (passTaken v n x c (passing p d v.now)) n x c d
  have taken : (passTaken v n x c (passing p d v.now)).mbc n x c = passing p d v.now := by
    rw [passTaken, mbc_cadState, mbc_setWait, mbc_wrB, mbc_addB]
    exact mbc_setMbc v n x (m := passing p d v.now) (fun h => Nat.noConfusion (show 4 = 0 from h))
  dsimp only
  rw [kept, taken]
  exact ⟨rfl, rfl, phase, mb⟩

/-- A micro-batch that is admitted for computing, whose slot works (R100, R101). -/
theorem admitCompute_leaves (s : State) (n x c : Nat) (p : Int) (d : List Byte) (ps : List Nat) :
    let t := s.admitCompute n x c p d ps
    (t.mbc n x c).state = 1 ∧ (t.mbc n x c).pos = p ∧ (t.mbc n x c).pages = ps ∧ (t.stg n x).phase = .work
      ∧ (t.stg n x).mb = some c := by
  have shape : ∃ (v : State) (m : MbCtx) (g : StageCtx), s.admitCompute n x c p d ps
      = ((((((v.setMbc n x c m).poolPeak n x).addB (Reg.MBQ_ADMITTED n x) 63 0 1).setWait n x 0).cadState n x 1).setStg n x
        g).startUnits n x false d
      ∧ m.state = 1 ∧ m.pos = p ∧ m.pages = ps ∧ g.phase = .work ∧ g.mb = some c := ⟨_, _, _, rfl, rfl, rfl, rfl, rfl, rfl⟩
  obtain ⟨v, m, g, shape, state, pos, pages, phase, mb⟩ := shape
  have started := startUnits_tables ((((((v.setMbc n x c m).poolPeak n x).addB (Reg.MBQ_ADMITTED n x) 63 0 1).setWait n x 0).cadState
    n x 1).setStg n x g) n x false d
  rw [← shape] at started
  dsimp only
  rw [mbc_of_tables started, stg_of_tables started, stg_setStg_phase _ n x (by rw [phase]; decide), mbc_setStg, mbc_cadState,
    mbc_setWait, mbc_addB, mbc_of_tables (poolPeak_tables _ n x), mbc_setMbc _ n x (by rw [state]; decide)]
  exact ⟨state, pos, pages, phase, mb⟩

section Checks
variable {u : State} {n x c : Nat} {p : Int} {d : List Byte}

/-- The descriptors that pass through (R76, R100, R106). -/
theorem admitChecks_pass (h : dRefused d = true ∨ dLength d = 0 ∨ u.rdB (Reg.MBQ_MAXLEN n x) 31 0 < dLength d
      ∨ predTrue (u.curSlot n x) (dMask d) = false) : ∃ (v : State) (e : List Byte), u.admitChecks n x c p d = v.admitPass n x c p e := by
  unfold State.admitChecks
  dsimp only
  split
  · exact ⟨_, _, rfl⟩
  next taken =>
    split
    · exact ⟨_, _, rfl⟩
    next fits =>
      have skipped : predTrue (u.curSlot n x) (dMask d) = false := by
        rcases h with h | h | h | h
        · exact absurd (.inl h) taken
        · exact absurd (.inr h) taken
        · exact absurd h fits
        · exact h
      rw [if_pos (by simp [skipped])]
      exact ⟨_, _, rfl⟩

variable (taken : dRefused d = false) (full : dLength d ≠ 0) (fits : dLength d ≤ u.rdB (Reg.MBQ_MAXLEN n x) 31 0)
  (selected : predTrue (u.curSlot n x) (dMask d) = true) (sound : u.anyDamaged (u.stg n x).shards = false)
include taken full fits selected sound

/-- A micro-batch to compute is admitted once its pages and the room in its ledgers are there (R100, R125). -/
theorem admitChecks_compute {ps : List Nat} (fetched : u.prefetchWaits n x = false)
    (pages : u.takePages n x (u.pagesFor n x (dLength d)) = some ps) (room : u.ledRoom (u.stg n x).shards = true) :
    u.admitChecks n x c p d = u.admitCompute n x c p d ps := by
  unfold State.admitChecks
  simp only [taken, full, Bool.false_eq_true, or_self, if_false, not_lt.mpr fits, selected, Bool.not_true, sound, fetched, pages, room]

/-- Otherwise it waits for them (WAIT 4). -/
theorem admitChecks_waits {s : State} (hc : s.Canonical) (hx : x < 32)
    (short : u.prefetchWaits n x = true ∨ u.takePages n x (u.pagesFor n x (dLength d)) = none
      ∨ u.ledRoom (u.stg n x).shards = false) : ShowsWait (s.commit (u.admitChecks n x c p d)) n x 4 := by
  have shape : ∃ pool room, u.admitChecks n x c p d = waitTold (u.slotWaits n x 4) n x d (u.stg n x) pool room := by
    unfold State.admitChecks
    simp only [taken, full, Bool.false_eq_true, or_self, if_false, not_lt.mpr fits, selected, Bool.not_true, sound]
    split
    next ps pool room =>
      rcases short with h | h | h
      · rw [if_pos h] at pool
        cases pool
      · rw [h, ite_self] at pool
        cases pool
      · exact absurd (h.symm.trans room) Bool.false_ne_true
    · exact ⟨_, !u.ledRoom (u.stg n x).shards, rfl⟩
  obtain ⟨pool, room, shape⟩ := shape
  rw [shape]
  exact (commit_slotWaits hc u n x (by decide)).told hc hx d (u.stg n x) pool room

end Checks

/-! ### ADMISSION -/

/-- The admission of a FWD slot whose head matches its position, once its releases and its prefetches are served. -/
theorem admitFwd_found {s u : State} {n x : Nat} {d : List Byte}
    (found : ((s.dueReleases n x).servePrefetch n x).headFor n x (((s.dueReleases n x).servePrefetch n x).stg n x).inFwd
        (((s.dueReleases n x).servePrefetch n x).slotPos n x (((s.dueReleases n x).servePrefetch n x).curSlot n x))
        (((s.dueReleases n x).servePrefetch n x).qEntries (((s.dueReleases n x).servePrefetch n x).stg n x).inFwd + 1) = (.found d, u)) :
    s.admitFwd n x =
      if bit (u.rd (Reg.MBQ_GATE n x)) 63 && decide (u.msVal (bits (u.rd (Reg.MBQ_GATE n x)) 13 0) < dStep d) then u.slotWaits n x 2
      else match u.freeCtx n x with
      | none => u.slotWaits n x 3
      | some c => u.admitChecks n x c
        (((s.dueReleases n x).servePrefetch n x).slotPos n x (((s.dueReleases n x).servePrefetch n x).curSlot n x)) d := by
  unfold State.admitFwd
  simp only [found] <;> rfl

theorem exec_admission_fwd {die : BitVec 2} {ctx : BitVec 5} {s : State} (hl : s.Live) (hc : s.Canonical)
    (valid : s.ctxValid die.toNat ctx.toNat = true) (running : (s.stg die.toNat ctx.toNat).running = true)
    (await : (s.stg die.toNat ctx.toNat).phase = .await)
    (runs : s.slotRuns die.toNat ctx.toNat (s.curSlot die.toNat ctx.toNat) = 1) :
    exec (.admission die ctx) s = .next (s.commit (s.admitFwd die.toNat ctx.toNat)) := by
  rw [exec_admission, live_eq hl hc, fxAdmission]
  simp only [valid, running, await, runs, beq_self_eq_true, Bool.and_self, if_true]

theorem exec_admission_idle {die : BitVec 2} {ctx : BitVec 5} {s : State} (hl : s.Live) (hc : s.Canonical)
    (idle : (s.stg die.toNat ctx.toNat).phase ≠ .await) : exec (.admission die ctx) s = .next s := by
  rw [exec_admission, live_eq hl hc, fxAdmission, if_neg (by simp [idle]), commit_self hc]

/-- Settles O29: each check that holds the slot shows its wait; the descriptors that pass through, and the rest, get their context. -/
theorem admissionChecks : Obligations.AdmissionChecks := by
  refine ⟨?_, fun die ctx s hl hc idle => exec_admission_idle hl hc idle⟩
  intro die ctx s u d hl hc n x v p q gate held shards pages waits valid running await runs found
  have run := exec_admission_fwd hl hc valid running await runs
  rw [admitFwd_found found] at run
  have waited {t : State} {k : Nat} (shown : ShowsWait (s.commit t) n x k)
      (h : exec (.admission die ctx) s = .next (s.commit t)) : waits k := ⟨_, h, shown⟩
  have checked (hold : ¬held) {c : Nat} (free : u.freeCtx n x = some c) :
      exec (.admission die ctx) s = .next (s.commit (u.admitChecks n x c p d)) := by
    rw [run, if_neg (fun h => hold (by simpa only [Bool.and_eq_true, decide_eq_true_eq] using h)), free]
  refine ⟨fun hold => ?_, fun hold full => ?_, fun c hold free => ⟨checked hold free, fun pass => ?_,
    fun taken full fits selected sound => ⟨fun ps fetched placed room => ?_, fun short => ?_⟩⟩⟩
  · refine waited (commit_slotWaits hc u n x (k := 2) (by decide)) (run.trans ?_)
    rw [if_pos (by simpa only [Bool.and_eq_true, decide_eq_true_eq] using hold)]
  · refine waited (commit_slotWaits hc u n x (k := 3) (by decide)) (run.trans ?_)
    rw [if_neg (fun h => hold (by simpa only [Bool.and_eq_true, decide_eq_true_eq] using h)), full]
  · obtain ⟨t, e, passed⟩ := admitChecks_pass (c := c) (p := p) pass
    refine ⟨_, checked hold free, ?_⟩
    rw [passed, mbc_commit, stg_commit]
    exact admitPass_leaves t n x c p e
  · refine ⟨_, checked hold free, ?_⟩
    rw [admitChecks_compute taken full fits selected sound fetched placed room, mbc_commit, stg_commit]
    exact admitCompute_leaves u n x c p d ps
  · exact waited (admitChecks_waits taken full fits selected sound hc (ctx_lt ctx) short) (checked hold free)

end Sys2Proof.Proofs
end

section
/-!
SUPPORT. The start of a slot (R65, R71, R80, R89): the writes that waited for the boundary, what a slot shows as it starts, and how
its budget is cut.
-/

namespace Sys2Proof.Proofs

open Sys2Proof Sys2Proof.Machine Sys2Proof.Laws

/-! ### The writes that waited for the boundary (R89) -/

theorem cfg_row : ∀ n < 4, ∀ x < 32, (regFind (Reg.CAD_CTX_CFG n x)).map (fun h => (h.row.rw, h.row.w1c)) = some (0, 0) := by
  decide +kernel

/-- A register without bits that a write sets or clears. -/
theorem written_readOnly {row : RegRow} (hr : row.rw = 0) (hc : row.w1c = 0) (old v m : Word) : written row old v m = old := by
  have none : w 0 = 0#64 := rfl
  unfold written
  rw [hr, hc, none, BitVec.zero_and, BitVec.and_zero, BitVec.zero_and, BitVec.not_zero, BitVec.and_allOnes,
    BitVec.and_allOnes, BitVec.or_zero]

theorem fieldWrite_cfg {n x : Nat} (hn : n < 4) (hx : x < 32) (s : State) (a : Nat) (v m : Word) :
    (s.fieldWrite a v m).rd (Reg.CAD_CTX_CFG n x) = s.rd (Reg.CAD_CTX_CFG n x) := by
  cases hf : regFind a with
  | none =>
    unfold State.fieldWrite State.fieldNew
    rw [hf]
  | some h =>
    rw [fieldWrite_of_find hf]
    split
    · rw [rd_wr]
      split
      next same =>
        have row := cfg_row n hn x hx
        rw [← same, hf] at row
        obtain ⟨hr, hc⟩ := Prod.mk.inj (Option.some.inj row)
        rw [written_readOnly hr hc, same]
      · rfl
    · rfl

theorem fieldWrite_regWrites (s : State) (a : Nat) (v m : Word) : RegWrites s (s.fieldWrite a v m) := by
  unfold State.fieldWrite
  split
  · exact (RegWrites.refl s).wr _ _
  · exact .refl s

/-- The registers as the writes that waited leave them. -/
def pendWritten (s : State) (n x : Nat) : State :=
  (s.stg n x).regPend.foldl (fun s e => s.fieldWrite (e.1 / 8 * 8) e.2 (halfMask (e.1 % 8))) s

theorem pendWritten_regWrites (s : State) (n x : Nat) : RegWrites s (pendWritten s n x) :=
  (RegWrites.refl s).foldl fun _ t => fieldWrite_regWrites t _ _ _

theorem pendWritten_cfg {n x : Nat} (hn : n < 4) (hx : x < 32) (s : State) :
    (pendWritten s n x).rd (Reg.CAD_CTX_CFG n x) = s.rd (Reg.CAD_CTX_CFG n x) :=
  foldl_keeps (fun t => t.rd (Reg.CAD_CTX_CFG n x)) (fun t _ => fieldWrite_cfg hn hx t _ _ _) _ s

theorem applyPend_eq (s : State) (n x : Nat) :
    s.applyPend n x = (pendWritten s n x).setStg n x (atBoundary ((pendWritten s n x).stg n x)) := rfl

/-- The boundary changes registers that are not read-only, and in the context nothing but that no write waits any more. -/
theorem applyPend_leaves {s : State} {n x : Nat} (hn : n < 4) (hx : x < 32) (running : (s.stg n x).running = true) :
    let p := s.applyPend n x
    RegFrame (fun _ => True) s p ∧ p = { s with jnl := p.jnl, stages := p.stages } ∧ p.stg n x = atBoundary (s.stg n x)
      ∧ p.rd (Reg.CAD_CTX_CFG n x) = s.rd (Reg.CAD_CTX_CFG n x) := by
  have writes := pendWritten_regWrites s n x
  have cfg := pendWritten_cfg hn hx s
  have stage : (pendWritten s n x).stg n x = s.stg n x := by rw [writes.only]; rfl
  rw [applyPend_eq, stage]
  generalize pendWritten s n x = u at writes cfg
  refine ⟨writes.regFrame.trans (setStg_regFrame u n x _), ?_, stg_setStg_running u n x running, (setStg_rd u n x _ _).trans cfg⟩
  rw [writes.only]
  rfl

/-! ### What a slot that starts shows -/

/-- From `p` to `u` only registers and the tables of stages and of micro-batches were written. -/
def TablesOnly (p u : State) : Prop := u = { p with jnl := u.jnl, stages := u.stages, mbs := u.mbs }

theorem TablesOnly.trans {p u t : State} (h : TablesOnly p u) (k : TablesOnly u t) : TablesOnly p t := by
  unfold TablesOnly at *
  rw [k, h]

/-- Two contexts with the same stage, which may be in another phase and have another budget. -/
structure SameStage (g h : StageCtx) : Prop where
  shards : h.shards = g.shards
  ofl : h.ofl = g.ofl
  inFwd : h.inFwd = g.inFwd
  inBwd : h.inBwd = g.inBwd
  running : h.running = g.running
  regPend : h.regPend = g.regPend

theorem SameStage.refl (g : StageCtx) : SameStage g g := ⟨rfl, rfl, rfl, rfl, rfl, rfl⟩

theorem SameStage.trans {g h k : StageCtx} (a : SameStage g h) (b : SameStage h k) : SameStage g k :=
  ⟨b.shards.trans a.shards, b.ofl.trans a.ofl, b.inFwd.trans a.inFwd, b.inBwd.trans a.inBwd, b.running.trans a.running,
    b.regPend.trans a.regPend⟩

/-- From `s` to `t` only the table of micro-batches was written. -/
def MbsOnly (s t : State) : Prop := t = { s with mbs := t.mbs }

theorem MbsOnly.rd {s t : State} (h : MbsOnly s t) (a : Nat) : t.rd a = s.rd a := by rw [h]; rfl

theorem MbsOnly.stg {s t : State} (h : MbsOnly s t) (n x : Nat) : t.stg n x = s.stg n x := by rw [h]; rfl

theorem MbsOnly.tablesOnly {s t : State} (h : MbsOnly s t) : TablesOnly s t := by unfold TablesOnly; rw [h]

theorem askPrefetch_mbsOnly (s : State) (n x c : Nat) : MbsOnly s (s.askPrefetch n x c) := by
  unfold State.askPrefetch
  dsimp only
  split
  · exact rfl
  · exact rfl

theorem autoPrefetch_mbsOnly (s : State) (n x i : Nat) : MbsOnly s (s.autoPrefetch n x i) := by
  unfold State.autoPrefetch
  split
  · exact rfl
  · dsimp only
    split
    · split
      · exact askPrefetch_mbsOnly s n x _
      · exact rfl
    · exact rfl

theorem bwdPrefetch_mbsOnly (s : State) (n x : Nat) : MbsOnly s (s.bwdPrefetch n x) := by
  unfold State.bwdPrefetch
  split
  · split
    · exact askPrefetch_mbsOnly s n x _
    · exact rfl
  · exact rfl

/-! ### A context without micro-batches -/

/-- No micro-batch context of the stage context was ever taken. -/
def NoMbs (s : State) (n x : Nat) : Prop := ∀ c < 256, s.mbc n x c = {}

section NoMbs
variable {s : State} {n x : Nat} (none : NoMbs s n x)
include none

theorem ctxAt_noMbs (p : Int) : s.ctxAt n x p = Option.none := by
  unfold State.ctxAt
  rw [List.find?_eq_none]
  intro c hc
  rw [none c (List.mem_range.mp hc)]
  exact Bool.false_ne_true

theorem autoPrefetch_noMbs (i : Nat) : s.autoPrefetch n x i = s := by
  unfold State.autoPrefetch
  split
  · rfl
  · simp only [ctxAt_noMbs none, ite_self]

theorem bwdPrefetch_noMbs : s.bwdPrefetch n x = s := by
  unfold State.bwdPrefetch
  rw [ctxAt_noMbs none]

theorem dueReleases_noMbs : s.dueReleases n x = s := by
  unfold State.dueReleases
  have listed : ((List.range 256).filter fun c => (s.mbc n x c).state != 0) = [] := by
    rw [List.filter_eq_nil_iff]
    intro c hc
    rw [none c (List.mem_range.mp hc)]
    exact Bool.false_ne_true
  rw [listed, List.foldl_nil]

theorem servePrefetch_noMbs : s.servePrefetch n x = s := by
  have stays : ∀ l : List Nat, (∀ c ∈ l, c < 256) → l.foldl (fun s c => s.prefetchPages n x c) s = s := by
    intro l
    induction l with
    | nil => exact fun _ => rfl
    | cons c l ih =>
      intro small
      have served : s.prefetchPages n x c = s := by
        unfold State.prefetchPages
        rw [none c (small c List.mem_cons_self)]
        rfl
      rw [List.foldl_cons, served, ih fun d hd => small d (List.mem_cons_of_mem _ hd)]
  exact stays _ fun c => List.mem_range.mp

end NoMbs

/-- The registers that show a slot. -/
def shownReg (n x a : Nat) : Prop := a = Reg.CAD_STATUS n x ∨ a = Reg.MBQ_STATUS n x

/-- From `s` to `t` a slot has changed its phase and what it waits for, and shows it. -/
structure ShowsOn (n x : Nat) (s t : State) : Prop where
  frame : RegFrame (shownReg n x) s t
  index : t.rdB (Reg.CAD_STATUS n x) 7 0 = s.rdB (Reg.CAD_STATUS n x) 7 0
  level : t.level n x = s.level n x
  void : bit (t.rd (Reg.CAD_STATUS n x)) 13 = bit (s.rd (Reg.CAD_STATUS n x)) 13
  stage : SameStage (s.stg n x) (t.stg n x)
  budget : (t.stg n x).budget = (s.stg n x).budget
  now : t.now = s.now

namespace ShowsOn

variable {s t u : State} {n x : Nat}

theorem trans (h : ShowsOn n x s t) (k : ShowsOn n x t u) : ShowsOn n x s u :=
  ⟨h.frame.trans k.frame, k.index.trans h.index, k.level.trans h.level, k.void.trans h.void, h.stage.trans k.stage,
    k.budget.trans h.budget, k.now.trans h.now⟩

theorem status_ne_mbq (n x : Nat) : Reg.MBQ_STATUS n x ≠ Reg.CAD_STATUS n x := by unfold Reg.MBQ_STATUS Reg.CAD_STATUS; omega

theorem cadState (s : State) (n x st : Nat) : ShowsOn n x s (s.cadState n x st) where
  frame := regFrame_mono (cadState_regFrame s n x st) fun _ h => .inl h
  index := rdB_wrB_field s st (by decide) (by decide) (.inl (by decide))
  level := rdB_wrB_field s st (by decide) (by decide) (.inr (by decide))
  void := by rw [State.cadState, State.wrB, rd_wr_same, bit_putBits_other _ _ (by decide) (by decide) (.inr (by decide))]
  stage := .refl _
  budget := rfl
  now := rfl

/-- Without a write of CAD_STATUS. -/
theorem of_tables (frame : RegFrame (· = Reg.MBQ_STATUS n x) s t) (stage : SameStage (s.stg n x) (t.stg n x))
    (budget : (t.stg n x).budget = (s.stg n x).budget) (now : t.now = s.now) : ShowsOn n x s t where
  frame := regFrame_mono frame fun _ h => .inr h
  index := rdB_of_frame frame.toFrame (status_ne_mbq n x).symm 7 0
  level := rdB_of_frame frame.toFrame (status_ne_mbq n x).symm 12 11
  void := by rw [frame.rd _ (status_ne_mbq n x).symm]
  stage := stage
  budget := budget
  now := now

theorem setWait (s : State) (n x k : Nat) : ShowsOn n x s (s.setWait n x k) :=
  of_tables (wrB_regFrame s _ _ _ _) (.refl _) rfl rfl

/-- A stage that is written as it runs, in another phase. -/
theorem setStg {g : StageCtx} (running : g.running = true) (stage : SameStage (s.stg n x) g) (budget : g.budget = (s.stg n x).budget) :
    ShowsOn n x s (s.setStg n x g) := by
  have read := stg_setStg_running s n x running
  exact of_tables (setStg_regFrame s n x g) (by rw [read]; exact stage) (by rw [read]; exact budget) rfl

theorem of_mbsOnly (h : MbsOnly s t) : ShowsOn n x s t := by
  rw [h]
  exact of_tables ((RegFrame.refl s).keep rfl rfl rfl rfl) (.refl _) rfl rfl

theorem slotPads (running : (s.stg n x).running = true) (idle : Bool) : ShowsOn n x s (s.slotPads n x idle) :=
  (setStg (g := { s.stg n x with phase := .pad, backhaulIdle := idle }) running ⟨rfl, rfl, rfl, rfl, rfl, rfl⟩ rfl).trans
    (cadState _ n x 3)

/-- The slot that a context shows stays the same. -/
theorem sameSlot (h : ShowsOn n x s t) (hx : x < 32) : SameSlot n x s t := by
  refine .of_regFrame hx h.frame (fun a kept shown => kept.1 ?_) h.index
  rcases shown with h | h
  · exact .inr (.inl h)
  · exact .inr (.inr (.inl h))

end ShowsOn

end Sys2Proof.Proofs
end

section
/-!
SUPPORT. A slot that starts (R65, R73, R80): what it shows and its budget; how each kind goes on; and the statement O26.
-/

namespace Sys2Proof.Proofs

open Sys2Proof Sys2Proof.Machine Sys2Proof.Laws

/-! ### The budget of a slot that starts (R80) -/

section Budgets
variable (p : State) (n x : Nat)

/-- The kind as which the slot at the context runs. -/
def kindAt : Nat := p.slotRuns n x (p.curSlot n x)

/-- The lag that a slot meets; a backhaul stage has none. -/
def lagMet : Nat := if p.ctxBackhaul n x then 0 else p.lag n x

/-- The slot is shortened by the lag. -/
def IsShort : Prop := 0 < lagMet p n x ∧ (1 ≤ p.level n x ∧ kindAt p n x = 6 ∨ 2 ≤ p.level n x ∧ kindAt p n x = 0)

/-- The budget of a slot that is not shortened, which may be compressed. -/
def fullBudget : Nat :=
  if 0 < lagMet p n x ∧ p.level n x = 3 ∧ kindAt p n x ≠ 0 ∧ kindAt p n x ≠ 6
  then max (slotFloor (p.curSlot n x)) (slotBudget (p.curSlot n x) - lagMet p n x) else slotBudget (p.curSlot n x)

/-- A slot that was shortened is counted, and the time that it gives back. -/
def DropCounted (t : State) : Prop :=
  (kindAt p n x = 6 → t.rdB (Reg.CAD_DROPS n x) 31 0 = min (2 ^ 32 - 1) (p.rdB (Reg.CAD_DROPS n x) 31 0 + 1))
    ∧ (kindAt p n x = 0 → t.rdB (Reg.CAD_DROPS n x) 63 32 = min (2 ^ 32 - 1) (p.rdB (Reg.CAD_DROPS n x) 63 32 + 1))
    ∧ t.rdB (Reg.CAD_RECOVERED n x) 31 0
      = min (2 ^ 32 - 1) (p.rdB (Reg.CAD_RECOVERED n x) 31 0 + min (lagMet p n x) (slotBudget (p.curSlot n x)))

/-- The context as a slot starts: its cycle count, and that it is void. -/
def opened : State :=
  let s := p.wr (Reg.CAD_SLOT_T0 n x) (w p.now)
  let s := s.wrB (Reg.CAD_STATUS n x) 14 13 (if s.slotVoid n x (p.curSlot n x) then 1 else 0)
  (s.cadState n x 1).setWait n x 0

/-- The context once the prefetches that its slot asks for are noted. -/
def prefetched : State := (opened p n x).autoPrefetch n x (p.rdB (Reg.CAD_STATUS n x) 7 0)

/-- A slot shortened to the budget `left`, counted in the given field. -/
def shortened (hi lo cut left : Nat) : State :=
  let s := (p.addB (Reg.CAD_DROPS n x) hi lo 1).addB (Reg.CAD_RECOVERED n x) 31 0 cut
  s.setStg n x { s.stg n x with budget := left }

end Budgets

/-- What a slot has in hand as it starts. -/
structure Begun (n x : Nat) (p u : State) : Prop where
  frame : RegFrame (startReg n x) p u
  time : u.rd (Reg.CAD_SLOT_T0 n x) = w p.now
  index : u.rdB (Reg.CAD_STATUS n x) 7 0 = p.rdB (Reg.CAD_STATUS n x) 7 0
  void : bit (u.rd (Reg.CAD_STATUS n x)) 13 = p.slotVoid n x (p.curSlot n x)
  stage : SameStage (p.stg n x) (u.stg n x)
  now : u.now = p.now
  cut : IsShort p n x → (u.stg n x).budget = slotBudget (p.curSlot n x) - lagMet p n x ∧ DropCounted p n x u
  full : ¬IsShort p n x → (u.stg n x).budget = fullBudget p n x

/-- A slot whose start the state shows, in a phase and with a CAD_STATUS.STATE. -/
def Started (s t : State) (n x : Nat) (ph : Phase) (st : Nat) : Prop :=
  let p := s.applyPend n x
  t.rd (Reg.CAD_SLOT_T0 n x) = w s.now ∧ (t.stg n x).phase = ph
    ∧ (IsShort p n x → (t.stg n x).budget = slotBudget (p.curSlot n x) - lagMet p n x ∧ DropCounted p n x t)
    ∧ (¬IsShort p n x → (t.stg n x).budget = fullBudget p n x)
    ∧ bits (t.rd (Reg.CAD_STATUS n x)) 10 8 = st ∧ bit (t.rd (Reg.CAD_STATUS n x)) 13 = p.slotVoid n x (p.curSlot n x)
    ∧ ∀ a, t.byte a = s.byte a

theorem drops_shown (n x : Nat) : ¬shownReg n x (Reg.CAD_DROPS n x) := by
  unfold shownReg Reg.CAD_DROPS Reg.CAD_STATUS Reg.MBQ_STATUS
  omega

theorem recovered_shown (n x : Nat) : ¬shownReg n x (Reg.CAD_RECOVERED n x) := by
  unfold shownReg Reg.CAD_RECOVERED Reg.CAD_STATUS Reg.MBQ_STATUS
  omega

theorem time_shown (n x : Nat) : ¬shownReg n x (Reg.CAD_SLOT_T0 n x) := by
  unfold shownReg Reg.CAD_SLOT_T0 Reg.CAD_STATUS Reg.MBQ_STATUS
  omega

theorem shownReg_start {n x a : Nat} (h : shownReg n x a) : startReg n x a :=
  h.elim (fun h => .inr (.inl h)) (fun h => .inr (.inr (.inl h)))

theorem DropCounted.of_reads {p u t : State} {n x : Nat} (h : DropCounted p n x u)
    (drops : t.rd (Reg.CAD_DROPS n x) = u.rd (Reg.CAD_DROPS n x))
    (low : t.rdB (Reg.CAD_RECOVERED n x) 31 0 = u.rdB (Reg.CAD_RECOVERED n x) 31 0) : DropCounted p n x t := by
  have field (hi lo : Nat) : t.rdB (Reg.CAD_DROPS n x) hi lo = u.rdB (Reg.CAD_DROPS n x) hi lo := by rw [State.rdB, drops]; rfl
  unfold DropCounted at h ⊢
  rw [field, field, low]
  exact h

namespace Begun

variable {n x : Nat} {s p u t : State}

/-- A slot goes on in another phase. -/
theorem step (h : Begun n x p u) (k : ShowsOn n x u t) : Begun n x p t where
  frame := h.frame.trans (regFrame_mono k.frame fun _ => shownReg_start)
  time := (k.frame.rd _ (time_shown n x)).trans h.time
  index := k.index.trans h.index
  void := k.void.trans h.void
  stage := h.stage.trans k.stage
  now := k.now.trans h.now
  cut short := ⟨k.budget.trans (h.cut short).1, (h.cut short).2.of_reads (k.frame.rd _ (drops_shown n x))
    (rdB_of_frame k.frame.toFrame (recovered_shown n x) 31 0)⟩
  full long := k.budget.trans (h.full long)

theorem sameSlot (h : Begun n x p u) (hx : x < 32) : SameSlot n x p u := .of_regFrame hx h.frame (fun _ kept => kept.1) h.index

/-- What the start shows after it, in the state itself. -/
theorem started (h : Begun n x (s.applyPend n x) u) (pend : RegFrame (fun _ => True) s (s.applyPend n x))
    (now : (s.applyPend n x).now = s.now) {ph : Phase} {st : Nat} (phase : (u.stg n x).phase = ph)
    (state : bits (u.rd (Reg.CAD_STATUS n x)) 10 8 = st) : Started s u n x ph st :=
  ⟨by rw [h.time, now], phase, h.cut, h.full, state, h.void, fun a => (h.frame.byte a).trans (pend.byte a)⟩

end Begun

/-- The end of a command leaves a slot as it started. -/
theorem Started.commit {s u : State} {n x : Nat} {R : Nat → Prop} {ph : Phase} {st : Nat} (hc : s.Canonical) (frame : RegFrame R s u)
    (h : Started s u n x ph st) : Started s (s.commit u) n x ph st := by
  have reads := commit_frame_rd hc frame.toFrame
  obtain ⟨time, phase, cut, full, state, void, -⟩ := h
  unfold Started
  rw [reads, reads, stg_commit]
  refine ⟨time, phase, fun short => ⟨(cut short).1, (cut short).2.of_reads (reads _) ?_⟩, full, state, void,
    commit_regFrame_byte hc frame⟩
  rw [State.rdB, reads]
  rfl

/-! ### The start itself -/

section Opening
variable {p : State} {n x : Nat}

theorem time_ne_status (n x : Nat) : Reg.CAD_SLOT_T0 n x ≠ Reg.CAD_STATUS n x := by unfold Reg.CAD_SLOT_T0 Reg.CAD_STATUS; omega

/-- The context with its cycle count and its void bit, before it shows its phase. -/
def voidShown (p : State) (n x : Nat) : State :=
  (p.wr (Reg.CAD_SLOT_T0 n x) (w p.now)).wrB (Reg.CAD_STATUS n x) 14 13 (if p.slotVoid n x (p.curSlot n x) then 1 else 0)

theorem voidShown_leaves : RegFrame (fun a => a = Reg.CAD_SLOT_T0 n x ∨ a = Reg.CAD_STATUS n x) p (voidShown p n x)
    ∧ (voidShown p n x).rd (Reg.CAD_SLOT_T0 n x) = w p.now
    ∧ (voidShown p n x).rdB (Reg.CAD_STATUS n x) 7 0 = p.rdB (Reg.CAD_STATUS n x) 7 0 ∧ (voidShown p n x).level n x = p.level n x
    ∧ bit ((voidShown p n x).rd (Reg.CAD_STATUS n x)) 13 = p.slotVoid n x (p.curSlot n x) := by
  have other : (p.wr (Reg.CAD_SLOT_T0 n x) (w p.now)).rd (Reg.CAD_STATUS n x) = p.rd (Reg.CAD_STATUS n x) := by
    rw [rd_wr, if_neg (time_ne_status n x)]
  have field (hi lo : Nat) : (p.wr (Reg.CAD_SLOT_T0 n x) (w p.now)).rdB (Reg.CAD_STATUS n x) hi lo = p.rdB (Reg.CAD_STATUS n x) hi lo := by
    rw [State.rdB, other]
    rfl
  unfold voidShown
  refine ⟨((RegFrame.refl p).wr (.inl rfl) _).trans (regFrame_mono (wrB_regFrame _ _ _ _ _) fun _ h => .inr h), ?_, ?_, ?_, ?_⟩
  · rw [(wrB_regFrame _ _ 14 13 _).rd _ (time_ne_status n x), rd_wr_same]
  · rw [rdB_wrB_field _ _ (by decide) (by decide) (.inl (by decide)), field]
  · rw [State.level, rdB_wrB_field _ _ (by decide) (by decide) (.inl (by decide)), field]
    rfl
  · rw [State.wrB, rd_wr_same, bit_putBits_within _ _ (by decide) (by decide) (by decide)]
    cases p.slotVoid n x (p.curSlot n x) <;> rfl

/-- The void slot is told from registers that the cycle count does not touch. -/
theorem slotVoid_time (v : Word) : (p.wr (Reg.CAD_SLOT_T0 n x) (w p.now)).slotVoid n x v = p.slotVoid n x v := by
  have other {a : Nat} (h : Reg.CAD_SLOT_T0 n x ≠ a) : (p.wr (Reg.CAD_SLOT_T0 n x) (w p.now)).rd a = p.rd a := by rw [rd_wr, if_neg h]
  unfold State.slotVoid State.slotPos State.rdB
  rw [other (by unfold Reg.CAD_SLOT_T0 Reg.CAD_FBASE; omega), other (by unfold Reg.CAD_SLOT_T0 Reg.CAD_CTL; omega),
    other (by unfold Reg.CAD_SLOT_T0 Reg.CAD_END; omega)]

theorem opened_eq (p : State) (n x : Nat) : opened p n x = ((voidShown p n x).cadState n x 1).setWait n x 0 := by
  unfold opened voidShown
  dsimp only
  rw [slotVoid_time]

theorem opened_shows (p : State) (n x : Nat) : ShowsOn n x (voidShown p n x) (opened p n x) := by
  rw [opened_eq]
  exact (ShowsOn.cadState _ n x 1).trans (.setWait _ n x 0)

theorem prefetched_shows (p : State) (n x : Nat) : ShowsOn n x (voidShown p n x) (prefetched p n x) :=
  (opened_shows p n x).trans (.of_mbsOnly (autoPrefetch_mbsOnly _ n x _))

theorem opened_reads (p : State) (n x : Nat) : (opened p n x).ctxBackhaul n x = p.ctxBackhaul n x
    ∧ (opened p n x).lag n x = p.lag n x ∧ (opened p n x).level n x = p.level n x := by
  obtain ⟨frame, -, -, level, -⟩ := voidShown_leaves (p := p) (n := n) (x := x)
  have shows := opened_shows p n x
  refine ⟨?_, ?_, shows.level.trans level⟩
  · rw [ctxBackhaul_of_frame shows.frame.toFrame (by unfold shownReg Reg.CAD_CTX_CFG Reg.CAD_STATUS Reg.MBQ_STATUS; omega),
      ctxBackhaul_of_frame frame.toFrame (by unfold Reg.CAD_CTX_CFG Reg.CAD_SLOT_T0 Reg.CAD_STATUS; omega)]
  · unfold State.lag
    rw [rdB_of_frame shows.frame.toFrame (by unfold shownReg Reg.CAD_LAG Reg.CAD_STATUS Reg.MBQ_STATUS; omega) 31 0,
      rdB_of_frame frame.toFrame (by unfold Reg.CAD_LAG Reg.CAD_SLOT_T0 Reg.CAD_STATUS; omega) 31 0]

/-- The context with the budget of its slot. -/
def withBudget (u : State) (n x b : Nat) : State := u.setStg n x { u.stg n x with budget := b }

/-- The start of a slot after the boundary: shortened and perhaps dropped, or with its full budget. -/
def startsFrom (p : State) (n x : Nat) (l lv : Nat) : State :=
  let v := p.curSlot n x
  let k := kindAt p n x
  let b := slotBudget v
  let u := prefetched p n x
  let go (t : State) : State := if b = min l b then t.slotDone n x 0 else t.slotBegins n x k
  if 0 < l ∧ 1 ≤ lv ∧ k = 6 then go (shortened u n x 31 0 (min l b) (b - min l b))
  else if 0 < l ∧ 2 ≤ lv ∧ k = 0 then go (shortened u n x 63 32 (min l b) (b - min l b))
  else (withBudget u n x (if 0 < l ∧ lv = 3 ∧ k ≠ 0 ∧ k ≠ 6 then max (slotFloor v) (b - l) else b)).slotBegins n x k

theorem slotStarts_eq (s : State) (n x : Nat) :
    s.slotStarts n x = startsFrom (s.applyPend n x) n x (lagMet (s.applyPend n x) n x) ((s.applyPend n x).level n x) := by
  have shape : s.slotStarts n x = startsFrom (s.applyPend n x) n x (lagMet (opened (s.applyPend n x) n x) n x)
      ((opened (s.applyPend n x) n x).level n x) := rfl
  obtain ⟨backhaul, lag, level⟩ := opened_reads (s.applyPend n x) n x
  rw [shape, level, lagMet, backhaul, lag]
  rfl

/-- A slot that is not shortened begins with its full budget. -/
theorem startsFrom_full (long : ¬IsShort p n x) : startsFrom p n x (lagMet p n x) (p.level n x)
    = (withBudget (prefetched p n x) n x (fullBudget p n x)).slotBegins n x (kindAt p n x) := by
  unfold startsFrom
  dsimp only
  rw [if_neg (fun h => long ⟨h.1, .inl h.2⟩), if_neg (fun h => long ⟨h.1, .inr h.2⟩)]
  rfl

/-- The field of CAD_DROPS in which a slot of a kind is counted. -/
def dropField (k : Nat) : Nat × Nat := if k = 6 then (31, 0) else (63, 32)

/-- A slot that the lag has shortened. -/
def cutShort (p : State) (n x : Nat) : State :=
  shortened (prefetched p n x) n x (dropField (kindAt p n x)).1 (dropField (kindAt p n x)).2
    (min (lagMet p n x) (slotBudget (p.curSlot n x))) (slotBudget (p.curSlot n x) - min (lagMet p n x) (slotBudget (p.curSlot n x)))

/-- A slot that is shortened begins, unless nothing of it is left. -/
theorem startsFrom_short (short : IsShort p n x) : startsFrom p n x (lagMet p n x) (p.level n x)
    = if slotBudget (p.curSlot n x) ≤ lagMet p n x then (cutShort p n x).slotDone n x 0
      else (cutShort p n x).slotBegins n x (kindAt p n x) := by
  have spent : (slotBudget (p.curSlot n x) = min (lagMet p n x) (slotBudget (p.curSlot n x)))
      = (slotBudget (p.curSlot n x) ≤ lagMet p n x) := propext ⟨fun h => by omega, fun h => by omega⟩
  obtain ⟨late, ⟨level, kind⟩ | ⟨level, kind⟩⟩ := short
  · unfold startsFrom cutShort dropField
    dsimp only
    rw [if_pos ⟨late, level, kind⟩, if_pos kind]
    simp only [spent]
  · have other : kindAt p n x ≠ 6 := by omega
    unfold startsFrom cutShort dropField
    dsimp only
    rw [if_neg (fun h => other h.2.2), if_pos ⟨late, level, kind⟩, if_neg other]
    simp only [spent]

/-! ### What has begun -/

/-- What follows the opening without a word in the registers that show the slot. -/
theorem begun_of {t : State} (frame : RegFrame (fun a => a = Reg.CAD_DROPS n x ∨ a = Reg.CAD_RECOVERED n x) (prefetched p n x) t)
    (stage : SameStage ((prefetched p n x).stg n x) (t.stg n x)) (now : t.now = (prefetched p n x).now)
    (cut : IsShort p n x → (t.stg n x).budget = slotBudget (p.curSlot n x) - lagMet p n x ∧ DropCounted p n x t)
    (full : ¬IsShort p n x → (t.stg n x).budget = fullBudget p n x) : Begun n x p t := by
  obtain ⟨first, time, index, -, void⟩ := voidShown_leaves (p := p) (n := n) (x := x)
  have shows := prefetched_shows p n x
  have status : t.rd (Reg.CAD_STATUS n x) = (prefetched p n x).rd (Reg.CAD_STATUS n x) :=
    frame.rd _ (by unfold Reg.CAD_STATUS Reg.CAD_DROPS Reg.CAD_RECOVERED; omega)
  refine ⟨?_, ?_, ?_, ?_, shows.stage.trans stage, now.trans shows.now, cut, full⟩
  · refine ((regFrame_mono first fun _ h => h.elim .inl (.inr ∘ .inl)).trans
      (regFrame_mono shows.frame fun _ => shownReg_start)).trans (regFrame_mono frame fun _ h => .inr (.inr (.inr h)))
  · rw [frame.rd _ (by unfold Reg.CAD_SLOT_T0 Reg.CAD_DROPS Reg.CAD_RECOVERED; omega), shows.frame.rd _ (time_shown n x), time]
  · rw [State.rdB, status]
    exact shows.index.trans index
  · rw [status, shows.void, void]

theorem begun_full (long : ¬IsShort p n x) (running : (p.stg n x).running = true) :
    Begun n x p (withBudget (prefetched p n x) n x (fullBudget p n x)) := by
  have runs : ((prefetched p n x).stg n x).running = true := (prefetched_shows p n x).stage.running.trans running
  unfold withBudget
  refine begun_of (setStg_regFrame _ n x _) ?_ rfl (fun h => absurd h long) fun _ => ?_
  · rw [stg_setStg_running _ n x (by exact runs)]
    exact ⟨rfl, rfl, rfl, rfl, rfl, rfl⟩
  · rw [stg_setStg_running _ n x (by exact runs)]

theorem recovered_ne_drops (n x : Nat) : Reg.CAD_RECOVERED n x ≠ Reg.CAD_DROPS n x := by
  unfold Reg.CAD_RECOVERED Reg.CAD_DROPS
  omega

/-- What the shortening writes: the count, the time recovered, and the budget. -/
theorem shortened_leaves {u : State} (running : (u.stg n x).running = true) {hi lo : Nat} (hhi : hi < 64) (hl : lo ≤ hi) (cut left : Nat) :
    let t := shortened u n x hi lo cut left
    RegFrame (fun a => a = Reg.CAD_DROPS n x ∨ a = Reg.CAD_RECOVERED n x) u t ∧ t.stg n x = { u.stg n x with budget := left }
      ∧ t.rdB (Reg.CAD_DROPS n x) hi lo = min (2 ^ (hi + 1 - lo) - 1) (u.rdB (Reg.CAD_DROPS n x) hi lo + 1)
      ∧ t.rdB (Reg.CAD_RECOVERED n x) 31 0 = min (2 ^ 32 - 1) (u.rdB (Reg.CAD_RECOVERED n x) 31 0 + cut) := by
  have drops := addB_regFrame u (Reg.CAD_DROPS n x) hi lo 1
  have dropped := rdB_addB_same u (a := Reg.CAD_DROPS n x) 1 hhi hl
  have shape : shortened u n x hi lo cut left = ((u.addB (Reg.CAD_DROPS n x) hi lo 1).addB (Reg.CAD_RECOVERED n x) 31 0 cut).setStg n x
    { u.stg n x with budget := left } := rfl
  rw [shape]
  generalize u.addB (Reg.CAD_DROPS n x) hi lo 1 = v at drops dropped
  have recovered := addB_regFrame v (Reg.CAD_RECOVERED n x) 31 0 cut
  have added := rdB_addB_same v (a := Reg.CAD_RECOVERED n x) (hi := 31) (lo := 0) cut (by decide) (by decide)
  generalize v.addB (Reg.CAD_RECOVERED n x) 31 0 cut = y at recovered added
  have last := setStg_regFrame (R := fun _ => False) y n x { u.stg n x with budget := left }
  refine ⟨((regFrame_mono drops fun _ h => .inl h).trans (regFrame_mono recovered fun _ h => .inr h)).trans
    (regFrame_mono last fun _ h => h.elim), stg_setStg_running y n x (by exact running), ?_, ?_⟩
  · rw [rdB_of_frame last.toFrame not_false, rdB_of_frame recovered.toFrame (recovered_ne_drops n x).symm, dropped]
  · rw [rdB_of_frame last.toFrame not_false, added, rdB_of_frame drops.toFrame (recovered_ne_drops n x)]

/-- The counts of a context as its slot is opened. -/
theorem prefetched_counts (p : State) (n x hi lo : Nat) :
    (prefetched p n x).rdB (Reg.CAD_DROPS n x) hi lo = p.rdB (Reg.CAD_DROPS n x) hi lo
      ∧ (prefetched p n x).rdB (Reg.CAD_RECOVERED n x) hi lo = p.rdB (Reg.CAD_RECOVERED n x) hi lo := by
  obtain ⟨first, -⟩ := voidShown_leaves (p := p) (n := n) (x := x)
  have frame := (prefetched_shows p n x).frame.toFrame
  constructor
  · rw [rdB_of_frame frame (drops_shown n x),
      rdB_of_frame first.toFrame (by unfold Reg.CAD_DROPS Reg.CAD_SLOT_T0 Reg.CAD_STATUS; omega)]
  · rw [rdB_of_frame frame (recovered_shown n x),
      rdB_of_frame first.toFrame (by unfold Reg.CAD_RECOVERED Reg.CAD_SLOT_T0 Reg.CAD_STATUS; omega)]

/-- A slot that is cut short has its lag taken off, and is counted. -/
theorem begun_cut (short : IsShort p n x) (running : (p.stg n x).running = true) : Begun n x p (cutShort p n x) := by
  have runs : ((prefetched p n x).stg n x).running = true := (prefetched_shows p n x).stage.running.trans running
  have counts := prefetched_counts p n x
  obtain ⟨late, kinds⟩ := short
  have kind : kindAt p n x = 6 ∨ kindAt p n x = 0 := kinds.imp And.right And.right
  have width : (dropField (kindAt p n x)).1 < 64 ∧ (dropField (kindAt p n x)).2 ≤ (dropField (kindAt p n x)).1 := by
    rcases kind with h | h <;> rw [h] <;> decide
  obtain ⟨frame, stage, dropped, recovered⟩ := shortened_leaves runs width.1 width.2
    (min (lagMet p n x) (slotBudget (p.curSlot n x))) (slotBudget (p.curSlot n x) - min (lagMet p n x) (slotBudget (p.curSlot n x)))
  refine begun_of frame ?_ rfl (fun _ => ⟨?_, fun h => ?_, fun h => ?_, ?_⟩) (fun long => absurd ⟨late, kinds⟩ long)
  · unfold cutShort
    rw [stage]
    exact ⟨rfl, rfl, rfl, rfl, rfl, rfl⟩
  · have left : slotBudget (p.curSlot n x) - min (lagMet p n x) (slotBudget (p.curSlot n x))
        = slotBudget (p.curSlot n x) - lagMet p n x := by omega
    unfold cutShort
    rw [stage]
    exact left
  · rw [h] at dropped
    rw [cutShort, h, ← (counts 31 0).1]
    exact dropped
  · rw [h] at dropped
    rw [cutShort, h, ← (counts 63 32).1]
    exact dropped
  · rw [cutShort, ← (counts 31 0).2]
    exact recovered

end Opening

end Sys2Proof.Proofs
end

section
/-!
SUPPORT. How each kind of slot begins (R65, R73): what it waits for, or its padding; and the statement O26.
-/

namespace Sys2Proof.Proofs

open Sys2Proof Sys2Proof.Machine Sys2Proof.Laws

/-! ### A slot in hand -/

/-- A slot that has begun, and works so far; a context without micro-batches has none yet. -/
structure Begins (n x : Nat) (p u : State) : Prop extends Begun n x p u where
  only : TablesOnly p u
  state : bits (u.rd (Reg.CAD_STATUS n x)) 10 8 = 1
  noMbs : NoMbs p n x → NoMbs u n x

section Begins
variable {p : State} {n x : Nat}

theorem prefetched_noMbs (none : NoMbs p n x) : NoMbs (prefetched p n x) n x := by
  have empty : NoMbs (opened p n x) n x := none
  rw [prefetched, autoPrefetch_noMbs empty]
  exact empty

theorem TablesOnly.wr {p u : State} (h : TablesOnly p u) (a : Nat) (v : Word) : TablesOnly p (u.wr a v) :=
  h.trans rfl

theorem TablesOnly.setStg {p u : State} (h : TablesOnly p u) (n x : Nat) (g : StageCtx) : TablesOnly p (u.setStg n x g) :=
  h.trans rfl

theorem opened_only (p : State) (n x : Nat) : TablesOnly p (opened p n x) := by
  unfold opened State.cadState State.setWait State.wrB
  exact (((TablesOnly.wr (u := p) rfl _ _).wr _ _).wr _ _).wr _ _

theorem prefetched_only (p : State) (n x : Nat) : TablesOnly p (prefetched p n x) :=
  (opened_only p n x).trans (autoPrefetch_mbsOnly _ n x _).tablesOnly

theorem prefetched_state (p : State) (n x : Nat) : bits ((prefetched p n x).rd (Reg.CAD_STATUS n x)) 10 8 = 1 := by
  rw [prefetched, (autoPrefetch_mbsOnly _ n x _).rd, opened_eq]
  exact (congrArg (fun v => bits v 10 8) ((wrB_regFrame _ _ 4 2 0).rd _ (ShowsOn.status_ne_mbq n x).symm)).trans
    (cadState_state _ n x (by decide))

/-- A slot of which something is left begins. -/
theorem startsFrom_begins (left : ¬(IsShort p n x ∧ slotBudget (p.curSlot n x) ≤ lagMet p n x)) (running : (p.stg n x).running = true) :
    ∃ u, startsFrom p n x (lagMet p n x) (p.level n x) = u.slotBegins n x (kindAt p n x) ∧ Begins n x p u := by
  have runs : ((prefetched p n x).stg n x).running = true := (prefetched_shows p n x).stage.running.trans running
  have status : Reg.CAD_STATUS n x ≠ Reg.CAD_DROPS n x ∧ Reg.CAD_STATUS n x ≠ Reg.CAD_RECOVERED n x := by
    unfold Reg.CAD_STATUS Reg.CAD_DROPS Reg.CAD_RECOVERED
    omega
  by_cases short : IsShort p n x
  · refine ⟨cutShort p n x, (startsFrom_short short).trans (if_neg fun h => left ⟨short, h⟩), begun_cut short running,
      (((prefetched_only p n x).wr _ _).wr _ _).setStg n x _, ?_, prefetched_noMbs⟩
    rw [cutShort, shortened, setStg_rd, (addB_regFrame _ _ 31 0 _).rd _ status.2, (addB_regFrame _ _ _ _ _).rd _ status.1,
      prefetched_state]
  · refine ⟨_, startsFrom_full short, begun_full short running, (prefetched_only p n x).setStg n x _, ?_, prefetched_noMbs⟩
    rw [withBudget, setStg_rd, prefetched_state]

end Begins

/-! ### Queues as a slot starts -/

/-- The registers that a slot writes as it starts belong to no queue. -/
theorem queueBase_not_startReg {n x q k : Nat} (hx : x < 32) (hq : q < 4352) (hk : k < 0x40) : ¬startReg n x (queueBase q + k) := by
  unfold startReg queueBase Reg.CAD_SLOT_T0 Reg.CAD_STATUS Reg.MBQ_STATUS Reg.CAD_DROPS Reg.CAD_RECOVERED ctlBase
  split <;> omega

theorem qReady_of_regFrame {n x : Nat} {p u : State} (hx : x < 32) (h : RegFrame (startReg n x) p u) (q : Nat) :
    u.qReady q = p.qReady q := by
  by_cases hq : q < 4352
  · have reads {k : Nat} (hk : k < 0x40) : u.rd (queueBase q + k) = p.rd (queueBase q + k) := h.rd _ (queueBase_not_startReg hx hq hk)
    unfold State.qReady State.qHeadTag State.qValid State.qTag State.qTagAddr State.qRing State.qHeadOff State.qOcc State.qProd
      State.qCons State.qBytes State.rdB Reg.QU_CFG Reg.QU_RING Reg.QU_PROD Reg.QU_CONS
    simp only [reads (k := 0) (by decide), reads (k := 8) (by decide), reads (k := 0x10) (by decide), reads (k := 0x18) (by decide), h.byte]
  · have invalid (t : State) : t.qReady q = false := by
      unfold State.qReady State.qValid
      simp only [hq, decide_false, Bool.false_and]
    rw [invalid, invalid]

/-- Without a head, a queue has none for any position. -/
theorem headFor_none {s : State} {n x q : Nat} (h : s.qReady q = false) (p : Int) (k : Nat) : s.headFor n x q p (k + 1) = (.none, s) := by
  unfold State.headFor
  simp only [h, Bool.not_false, if_true]

/-- An empty context waits for its queue. -/
theorem admitFwd_waits {s : State} {n x : Nat} (none : NoMbs s n x) (h : s.qReady (s.stg n x).inFwd = false) :
    s.admitFwd n x = s.slotWaits n x 0 := by
  unfold State.admitFwd
  rw [dueReleases_noMbs none, servePrefetch_noMbs none]
  simp only [headFor_none h]

theorem bwdTry_waits {s : State} {n x : Nat} (none : NoMbs s n x) (h : (s.stg n x).inBwd = 0xFFFF ∨ s.qReady (s.stg n x).inBwd = false) :
    s.bwdTry n x = s.slotWaits n x 0 := by
  unfold State.bwdTry
  rw [dueReleases_noMbs none]
  dsimp only
  split
  · rw [ctxAt_noMbs none]
  next queued =>
    rw [headFor_none (h.resolve_left queued)]

/-! ### The boundary of a slot that may start -/

/-- The state of a context that may start a slot, at its boundary. -/
structure AtStart (s : State) (n x : Nat) : Prop where
  canonical : s.Canonical
  ctx : x < 32
  frame : RegFrame (fun _ => True) s (s.applyPend n x)
  now : (s.applyPend n x).now = s.now
  queue : (s.applyPend n x).oflQueue = s.oflQueue
  running : ((s.applyPend n x).stg n x).running = true
  valid : (s.applyPend n x).ctxValid n x = true
  unwaited : ((s.applyPend n x).stg n x).regPend = []

theorem atStart_of_mayStart {s : State} {n x : Nat} (hc : s.Canonical) (hn : n < 4) (hx : x < 32) (may : s.mayStart n x = true) :
    AtStart s n x := by
  unfold State.mayStart at may
  simp only [Bool.and_eq_true] at may
  obtain ⟨⟨⟨⟨valid, running⟩, -⟩, -⟩, -⟩ := may
  obtain ⟨frame, only, stage, cfg⟩ := applyPend_leaves hn hx running
  refine ⟨hc, hx, frame, by rw [only], by rw [only], ?_, ?_, ?_⟩
  · rw [stage]
    exact running
  · unfold State.ctxValid State.rdB at valid ⊢
    rw [cfg]
    exact valid
  · rw [stage]
    rfl

/-- The slot in the phase in which it waits for its work. -/
def inAwait (u : State) (n x : Nat) (late : Bool) : State := u.setStg n x { u.stg n x with phase := .await, lateFlag := late }

theorem inAwait_rd (u : State) (n x : Nat) (late : Bool) (a : Nat) : (inAwait u n x late).rd a = u.rd a := setStg_rd u n x _ a

theorem inAwait_noMbs {u : State} {n x : Nat} (none : NoMbs u n x) (late : Bool) : NoMbs (inAwait u n x late) n x := none

namespace AtStart

variable {s u : State} {n x : Nat} (b : AtStart s n x)
include b

/-- What the start of a slot shows after it. -/
theorem shows (h : Begun n x (s.applyPend n x) u) {ph : Phase} {st : Nat} (phase : (u.stg n x).phase = ph)
    (state : bits (u.rd (Reg.CAD_STATUS n x)) 10 8 = st) : Started s u n x ph st ∧ Started s (s.commit u) n x ph st := by
  have started := h.started b.frame b.now phase state
  exact ⟨started, started.commit b.canonical (b.frame.trans (regFrame_mono h.frame fun _ _ => trivial))⟩

theorem runs (h : Begun n x (s.applyPend n x) u) : (u.stg n x).running = true := h.stage.running.trans b.running

theorem pads (h : Begun n x (s.applyPend n x) u) (idle : Bool) : Started s (s.commit (u.slotPads n x idle)) n x .pad 3 :=
  (b.shows (h.step (.slotPads (b.runs h) idle)) (by rw [slotPads_stg]) (slotPads_state u n x idle)).2

theorem awaits (h : Begun n x (s.applyPend n x) u) (late : Bool) :
    Begun n x (s.applyPend n x) (inAwait u n x late) ∧ ((inAwait u n x late).stg n x).phase = .await :=
  ⟨h.step (.setStg (by exact b.runs h) ⟨rfl, rfl, rfl, rfl, rfl, rfl⟩ rfl), by
    rw [inAwait, stg_setStg_running _ n x (by exact b.runs h)]⟩

/-- A slot that finds nothing shows that it waits. -/
theorem waits (h : Begun n x (s.applyPend n x) u) (phase : (u.stg n x).phase = .await) :
    Started s (s.commit (u.slotWaits n x 0)) n x .await 2 :=
  (b.shows (h.step ((ShowsOn.setWait u n x 0).trans (.cadState _ n x 2))) phase (cadState_state _ n x (by decide))).2

end AtStart

/-! ### Slots that wait for a descriptor or for the switch -/

section Waiting
variable {s u : State} {n x : Nat} (b : AtStart s n x) (h : Begins n x (s.applyPend n x) u)
include b h

/-- A FWD slot goes to its admission, and waits for its queue in an empty context. -/
theorem fwd_starts (late : Bool) : Started s (inAwait u n x late) n x .await 1
    ∧ (NoMbs (s.applyPend n x) n x → (s.applyPend n x).qReady ((s.applyPend n x).stg n x).inFwd = false →
      Started s (s.commit ((inAwait u n x late).admitFwd n x)) n x .await 2) := by
  obtain ⟨begun, phase⟩ := b.awaits h.toBegun late
  refine ⟨(b.shows begun phase (by rw [inAwait_rd]; exact h.state)).1, fun none dry => ?_⟩
  rw [admitFwd_waits (inAwait_noMbs (h.noMbs none) late)
    (by rw [qReady_of_regFrame b.ctx begun.frame, begun.stage.inFwd]; exact dry)]
  exact b.waits begun phase

/-- A BWD slot looks for its descriptor, and waits for it in an empty context. -/
theorem bwd_starts (late : Bool) : Started s ((inAwait u n x late).bwdPrefetch n x) n x .await 1
    ∧ (NoMbs (s.applyPend n x) n x →
      ((s.applyPend n x).stg n x).inBwd = 0xFFFF ∨ (s.applyPend n x).qReady ((s.applyPend n x).stg n x).inBwd = false →
      Started s (s.commit (((inAwait u n x late).bwdPrefetch n x).bwdTry n x)) n x .await 2) := by
  obtain ⟨begun, phase⟩ := b.awaits h.toBegun late
  have only := bwdPrefetch_mbsOnly (inAwait u n x late) n x
  refine ⟨(b.shows (begun.step (.of_mbsOnly only)) (by rw [only.stg, phase]) (by rw [only.rd, inAwait_rd]; exact h.state)).1,
    fun none dry => ?_⟩
  have noMbs := inAwait_noMbs (h.noMbs none) late
  rw [bwdPrefetch_noMbs noMbs, bwdTry_waits noMbs (by rw [qReady_of_regFrame b.ctx begun.frame, begun.stage.inBwd]; exact dry)]
  exact b.waits begun phase

/-- A BACKHAUL slot of a host waits for the switch. -/
theorem hosted_starts (late : Bool) : Started s (s.commit ((inAwait u n x late).cadState n x 5)) n x .await 5 := by
  obtain ⟨begun, phase⟩ := b.awaits h.toBegun late
  exact (b.shows (begun.step (.cadState _ n x 5)) phase (cadState_state _ n x (by decide))).2

end Waiting

/-! ### Slots that ask for work (R65, R73) -/

/-- A slot that asks for updates, or hands over its request. -/
def asks (u : State) (n x : Nat) : State := (inAwait u n x (u.stg n x).lateFlag).cadState n x 2

theorem awaitedWork_offload {y : State} {n x : Nat} (runs : kindAt y n x = 4 ∨ kindAt y n x = 5) :
    awaitedWork y n x = y.handOffload n x (decide (kindAt y n x = 5)) := by
  have shape : awaitedWork y n x = if kindAt y n x = 3 then (if y.updatesBusy n x then y else y.slotPads n x false)
      else if kindAt y n x = 4 then y.handOffload n x false else if kindAt y n x = 5 then y.handOffload n x true else y := rfl
  rw [shape]
  rcases runs with h | h
  · rw [h, if_neg (by decide), if_pos rfl]
    rfl
  · rw [h, if_neg (by decide), if_neg (by decide), if_pos rfl]
    rfl

theorem TablesOnly.oflQueue {p u : State} (h : TablesOnly p u) : u.oflQueue = p.oflQueue := by rw [h]

theorem TablesOnly.updatesBusy {p u : State} {n x : Nat} (h : TablesOnly p u) (stage : SameStage (p.stg n x) (u.stg n x)) :
    u.updatesBusy n x = p.updatesBusy n x := by
  have owner (l : Nat) : u.led l = p.led l := by rw [h]; rfl
  have engines : u.updEngines = p.updEngines := by rw [h]
  unfold State.updatesBusy
  simp only [stage.shards, owner, engines]

/-- A slot that has just begun with a budget is not over. -/
theorem Begun.unspent {n x : Nat} {p u : State} (h : Begun n x p u) (hx : x < 32) (long : ¬IsShort p n x)
    (primary : p.ctxBackhaul n x = false) (left : 0 < fullBudget p n x) (early : p.now < 2 ^ 64) : u.budgetOver n x = false := by
  have start : u.slotT0 n x = p.now := by
    rw [State.slotT0, h.time, w, BitVec.toNat_ofNat, Nat.mod_eq_of_lt early]
  rw [budgetOver_primary ((h.sameSlot hx).ctxBackhaul.trans primary), start, h.full long, h.now, decide_eq_false_iff_not]
  omega

/-- The request that a slot hands to the offload engine (R65). -/
def requestOf (p : State) (n x o : Nat) : OflReq :=
  { entry := o, n := n, x := x, pos := p.slotPos n x (p.curSlot n x), fetch := decide (kindAt p n x = 5) }

/-- The offload engine's queue with a request more. -/
def handed (u : State) (r : OflReq) : State := { u with oflQueue := u.oflQueue ++ [r] }

theorem commit_oflQueue (s t : State) : (s.commit t).oflQueue = t.oflQueue := rfl

theorem cadState_oflQueue (y : State) (n x st : Nat) : (y.cadState n x st).oflQueue = y.oflQueue := rfl

theorem ShowsOn.handed (u : State) (n x : Nat) (r : OflReq) : ShowsOn n x u (handed u r) :=
  of_tables ((RegFrame.refl u).keep rfl rfl rfl rfl) (.refl _) rfl rfl

/-! ### The kinds of a slot (R65) -/

section Kinds
variable (u : State) (n x : Nat)

theorem slotBegins_hold : u.slotBegins n x 0 = u.slotPads n x false := rfl

theorem slotBegins_fwd : u.slotBegins n x 1 = (inAwait u n x (u.stg n x).lateFlag).admitFwd n x := rfl

theorem slotBegins_bwd : u.slotBegins n x 2 = ((inAwait u n x false).bwdPrefetch n x).bwdTry n x := rfl

theorem asks_eq : asks u n x = (u.setStg n x { u.stg n x with phase := .await }).cadState n x 2 := rfl

theorem slotBegins_asks {k : Nat} (hk : k = 3 ∨ k = 4 ∨ k = 5) : u.slotBegins n x k = (asks u n x).slotProgress n x := by
  rw [asks_eq]
  rcases hk with rfl | rfl | rfl <;> simp only [State.slotBegins]

theorem slotBegins_backhaul : u.slotBegins n x 6
    = if u.ctxHosts n x then (inAwait u n x (u.stg n x).lateFlag).cadState n x 5 else u.slotPads n x true := rfl

end Kinds

section Asking
variable {s u : State} {n x : Nat} (b : AtStart s n x) (h : Begins n x (s.applyPend n x) u)
include b h

theorem asks_begun : Begun n x (s.applyPend n x) (asks u n x) ∧ ((asks u n x).stg n x).phase = .await
    ∧ kindAt (asks u n x) n x = kindAt (s.applyPend n x) n x ∧ TablesOnly (s.applyPend n x) (asks u n x) := by
  obtain ⟨waits, phase⟩ := b.awaits h.toBegun (u.stg n x).lateFlag
  have begun : Begun n x (s.applyPend n x) (asks u n x) := waits.step (.cadState _ n x 2)
  exact ⟨begun, phase, (begun.sameSlot b.ctx).runs, (h.only.setStg n x _).wr _ _⟩

/-- How a slot that asks goes on, when it stops after that. -/
theorem slotProgress_asks {z : State} (work : awaitedWork (asks u n x) n x = z)
    (stops : (z.stg n x).phase = .await ∨ (z.stg n x).phase = .pad ∧ z.budgetOver n x = false) : (asks u n x).slotProgress n x = z := by
  obtain ⟨begun, phase, -⟩ := asks_begun b h
  rw [slotProgress_await (((begun.sameSlot b.ctx).ctxValid).trans b.valid) (b.runs begun) phase, work, pastWork_stops stops]

theorem update_waits (kind : kindAt (s.applyPend n x) n x = 3) (busy : (s.applyPend n x).updatesBusy n x = true) :
    Started s (s.commit ((asks u n x).slotProgress n x)) n x .await 2 := by
  obtain ⟨begun, phase, runs, only⟩ := asks_begun b h
  rw [slotProgress_asks b h (z := asks u n x) ?_ (.inl phase)]
  · exact (b.shows begun phase (cadState_state _ n x (by decide))).2
  · rw [awaitedWork_update (runs.trans kind), only.updatesBusy begun.stage, busy]
    rfl

section Padding
variable (long : ¬IsShort (s.applyPend n x) n x) (primary : (s.applyPend n x).ctxBackhaul n x = false)
  (left : 0 < fullBudget (s.applyPend n x) n x) (early : s.now < 2 ^ 64)
include long primary left early

/-- A slot whose work is handed over pads, and its budget is not over. -/
theorem asks_pads {y : State} (begun : Begun n x (s.applyPend n x) y) (work : awaitedWork (asks u n x) n x = y.slotPads n x false) :
    Started s (s.commit ((asks u n x).slotProgress n x)) n x .pad 3
      ∧ (asks u n x).slotProgress n x = y.slotPads n x false := by
  have unspent := begun.unspent b.ctx long primary left (by rw [b.now]; exact early)
  have progress := slotProgress_asks b h work (.inr ⟨by rw [slotPads_stg], (slotPads_budgetOver y n false b.ctx).trans unspent⟩)
  exact ⟨by rw [progress]; exact b.pads begun false, progress⟩

theorem update_pads (kind : kindAt (s.applyPend n x) n x = 3) (written : (s.applyPend n x).updatesBusy n x = false) :
    Started s (s.commit ((asks u n x).slotProgress n x)) n x .pad 3 := by
  obtain ⟨begun, -, runs, only⟩ := asks_begun b h
  refine (asks_pads b h long primary left early begun ?_).1
  rw [awaitedWork_update (runs.trans kind), only.updatesBusy begun.stage, written]
  rfl

theorem offload_pads (kind : kindAt (s.applyPend n x) n x = 4 ∨ kindAt (s.applyPend n x) n x = 5)
    (none : ((s.applyPend n x).stg n x).ofl = .none) : Started s (s.commit ((asks u n x).slotProgress n x)) n x .pad 3 := by
  obtain ⟨begun, -, runs, -⟩ := asks_begun b h
  refine (asks_pads b h long primary left early begun ?_).1
  rw [awaitedWork_offload (by rw [runs]; exact kind), State.handOffload]
  simp only [begun.stage.ofl, none]

/-- The request of a slot joins the queue of the offload engine. -/
theorem offload_handed (kind : kindAt (s.applyPend n x) n x = 4 ∨ kindAt (s.applyPend n x) n x = 5) {o : Nat}
    (entry : ((s.applyPend n x).stg n x).ofl = .some o) (room : s.oflQueue.length < 64) :
    Started s (s.commit ((asks u n x).slotProgress n x)) n x .pad 3
      ∧ ((asks u n x).slotProgress n x).oflQueue = s.oflQueue ++ [requestOf (s.applyPend n x) n x o] := by
  obtain ⟨begun, -, runs, only⟩ := asks_begun b h
  have queue : (asks u n x).oflQueue = s.oflQueue := only.oflQueue.trans b.queue
  have request : requestOf (asks u n x) n x o = requestOf (s.applyPend n x) n x o := by
    have slot := begun.sameSlot b.ctx
    unfold requestOf
    rw [slot.slotPos, slot.cur, runs]
  have handed := begun.step (ShowsOn.handed (asks u n x) n x (requestOf (asks u n x) n x o))
  obtain ⟨started, progress⟩ := asks_pads b h long primary left early handed (by
    rw [awaitedWork_offload (by rw [runs]; exact kind), State.handOffload]
    simp only [begun.stage.ofl, entry, queue, if_neg (not_le.mpr room)]
    rw [← queue]
    rfl)
  refine ⟨started, ?_⟩
  rw [progress, ← queue, ← request]
  rfl

end Padding

theorem offload_waits (kind : kindAt (s.applyPend n x) n x = 4 ∨ kindAt (s.applyPend n x) n x = 5) {o : Nat}
    (entry : ((s.applyPend n x).stg n x).ofl = .some o) (full : 64 ≤ s.oflQueue.length) :
    Started s (s.commit ((asks u n x).slotProgress n x)) n x .await 2 ∧ ((asks u n x).slotProgress n x).oflQueue = s.oflQueue := by
  obtain ⟨begun, phase, runs, only⟩ := asks_begun b h
  have queue : (asks u n x).oflQueue = s.oflQueue := only.oflQueue.trans b.queue
  have waits : (((asks u n x).cadState n x 2).stg n x).phase = .await := by rw [stg_cadState]; exact phase
  rw [slotProgress_asks b h (z := (asks u n x).cadState n x 2) ?_ (.inl waits)]
  · exact ⟨(b.shows (begun.step (.cadState _ n x 2)) waits (cadState_state _ n x (by decide))).2,
      (cadState_oflQueue _ n x 2).trans queue⟩
  · rw [awaitedWork_offload (by rw [runs]; exact kind), State.handOffload]
    simp only [begun.stage.ofl, entry, queue, full, if_true]

end Asking

/-! ### Slots that the lag drops (R80) -/

/-- A slot of which the lag leaves nothing is counted, takes off its budget from the lag, and is over. -/
theorem dropped_leaves {s : State} {n x : Nat} (b : AtStart s n x) (short : IsShort (s.applyPend n x) n x)
    (spent : slotBudget ((s.applyPend n x).curSlot n x) ≤ lagMet (s.applyPend n x) n x)
    (bound : (s.applyPend n x).rdB (Reg.CAD_LAG_BOUND n x) 31 0 = 0) :
    let t := (cutShort (s.applyPend n x) n x).slotDone n x 0
    RegFrame (fun _ => True) s t ∧ DropCounted (s.applyPend n x) n x t
      ∧ t.lag n x = lagMet (s.applyPend n x) n x - slotBudget ((s.applyPend n x).curSlot n x) ∧ MovedOn (s.applyPend n x) t n x
      ∧ (t.stg n x).phase = .idle := by
  have begun := begun_cut short b.running
  have slot := begun.sameSlot b.ctx
  have outside {a : Nat} (kept : keptReg n x a) : (cutShort (s.applyPend n x) n x).rd a = (s.applyPend n x).rd a :=
    begun.frame.rd a kept.1
  have first := b.frame
  have runs := b.runs begun
  have unwaited := begun.stage.regPend.trans b.unwaited
  generalize s.applyPend n x = p at *
  generalize cutShort p n x = u at *
  have primary : p.ctxBackhaul n x = false := by
    by_contra hosted
    have late := short.1
    rw [lagMet, if_pos (by simpa using hosted)] at late
    exact absurd late (lt_irrefl 0)
  have lag : u.lag n x = lagMet p n x := by
    rw [lagMet, if_neg (by rw [primary]; exact Bool.false_ne_true)]
    exact rdB_of_frame begun.frame.toFrame (by
      unfold startReg Reg.CAD_LAG Reg.CAD_SLOT_T0 Reg.CAD_STATUS Reg.MBQ_STATUS Reg.CAD_DROPS Reg.CAD_RECOVERED
      omega) 31 0
  have small : u.lag n x < 2 ^ 32 := rdB_lt u _ 31 0
  have unbound : u.rdB (Reg.CAD_LAG_BOUND n x) 31 0 = 0 := by rw [State.rdB, outside (keptReg_lagBound n x)]; exact bound
  obtain ⟨frame, left, moved, idle, low⟩ := slotDone_quiet (d := 0) (slot.ctxBackhaul.trans primary) runs unwaited unbound
    (fun h => by omega)
  refine ⟨first.trans ((regFrame_mono begun.frame fun _ _ => trivial).trans (regFrame_mono frame fun _ _ => trivial)),
    (begun.cut short).2.of_reads (frame.rd _ ?_) low, ?_, ?_, idle⟩
  · unfold doneReg lagReg stepReg Reg.CAD_DROPS Reg.CAD_STATUS Reg.CAD_LAG Reg.CAD_LAG_MAX Reg.CAD_RECOVERED Reg.CAD_FBASE
      Reg.CAD_PERIODS
    omega
  · rw [left, slot.cur, lag]
    omega
  · exact moved.of_same begun.index slot.cfg slot.fbase

/-! ### SLOT_START -/

theorem exec_slotStart_may {die : BitVec 2} {ctx : BitVec 5} {s : State} (hl : s.Live) (hc : s.Canonical)
    (may : s.mayStart die.toNat ctx.toNat = true) :
    exec (.slotStart die ctx) s = .next (s.commit (s.slotStarts die.toNat ctx.toNat)) := by
  rw [exec_slotStart, live_eq hl hc, fxSlotStart, if_pos may]

theorem slotStarts_dropped {s : State} {n x : Nat} (short : IsShort (s.applyPend n x) n x)
    (spent : slotBudget ((s.applyPend n x).curSlot n x) ≤ lagMet (s.applyPend n x) n x) :
    s.slotStarts n x = (cutShort (s.applyPend n x) n x).slotDone n x 0 := by
  rw [slotStarts_eq, startsFrom_short short, if_pos spent]

theorem exec_slotStart_idle {die : BitVec 2} {ctx : BitVec 5} {s : State} (hl : s.Live) (hc : s.Canonical)
    (may : s.mayStart die.toNat ctx.toNat = false) : exec (.slotStart die ctx) s = .next s := by
  rw [exec_slotStart, live_eq hl hc, fxSlotStart, if_neg (by rw [may]; exact Bool.false_ne_true), commit_self hc]

/-- Settles O26: the slot after the boundary is dropped, or begins, and then by its kind. -/
theorem slotStarts : Obligations.SlotStarts := by
  intro die ctx s hl hc n x go p i v k b l short eff counted started empty pads
  refine ⟨fun may => exec_slotStart_idle hl hc may, fun may => ?_⟩
  have boundary : AtStart s n x := atStart_of_mayStart hc die.isLt (ctx_lt ctx) may
  have run : go = .next (s.commit (s.slotStarts n x)) := exec_slotStart_may hl hc may
  have next {t : State} (h : s.slotStarts n x = t) : go = .next (s.commit t) := run.trans (by rw [h])
  have begins (left : ¬(short ∧ b ≤ l)) : ∃ u, s.slotStarts n x = u.slotBegins n x k ∧ Begins n x p u := by
    rw [slotStarts_eq]
    exact startsFrom_begins left boundary.running
  have long (h0 : k ≠ 0) (h6 : k ≠ 6) : ¬short := fun h => h.2.elim (fun h => h6 h.2) (fun h => h0 h.2)
  have asked (kind : k = 3 ∨ k = 4 ∨ k = 5) : ∃ u, s.slotStarts n x = (asks u n x).slotProgress n x ∧ Begins n x p u := by
    obtain ⟨u, shape, h⟩ := begins fun h => long (by omega) (by omega) h.1
    exact ⟨u, shape.trans (slotBegins_asks u n x kind), h⟩
  refine ⟨run, fun cut spent bound => ?_, fun left => ⟨fun kind => ?_, fun kind hosts => ?_, fun kind hosts => ?_⟩, fun kind => ?_,
    fun kind => ?_, fun kind => ?_, fun kind => ⟨fun none enough => ?_, fun o entry => ⟨fun full => ?_, fun room enough => ?_⟩⟩⟩
  · obtain ⟨frame, drop, lag, moved, idle⟩ := dropped_leaves boundary cut spent bound
    have reads := commit_frame_rd hc frame.toFrame
    obtain ⟨following, last⟩ := moved.of_reads reads
    refine ⟨_, next (slotStarts_dropped cut spent), drop.of_reads (reads _) ?_, ?_, idle, following, last,
      commit_regFrame_byte hc frame⟩
    · rw [State.rdB, reads]
      rfl
    · rw [State.lag, State.rdB, reads]
      exact lag
  · obtain ⟨u, shape, h⟩ := begins left
    rw [kind, slotBegins_hold] at shape
    exact ⟨_, next shape, boundary.pads h.toBegun false⟩
  · obtain ⟨u, shape, h⟩ := begins left
    have hosted : u.ctxHosts n x = true := (h.toBegun.sameSlot boundary.ctx).ctxHosts.trans hosts
    rw [kind, slotBegins_backhaul, if_pos hosted] at shape
    exact ⟨_, next shape, hosted_starts boundary h _⟩
  · obtain ⟨u, shape, h⟩ := begins left
    have alone : u.ctxHosts n x = false := (h.toBegun.sameSlot boundary.ctx).ctxHosts.trans hosts
    rw [kind, slotBegins_backhaul, if_neg (by rw [alone]; exact Bool.false_ne_true)] at shape
    exact ⟨_, next shape, boundary.pads h.toBegun true, by rw [stg_commit, slotPads_stg]⟩
  · obtain ⟨u, shape, h⟩ := begins fun h => long (by omega) (by omega) h.1
    rw [kind, slotBegins_fwd] at shape
    obtain ⟨begun, waits⟩ := fwd_starts boundary h (u.stg n x).lateFlag
    exact ⟨⟨_, next shape, begun⟩, fun none dry => ⟨_, next shape, waits none dry⟩⟩
  · obtain ⟨u, shape, h⟩ := begins fun h => long (by omega) (by omega) h.1
    rw [kind, slotBegins_bwd] at shape
    obtain ⟨begun, waits⟩ := bwd_starts boundary h false
    exact ⟨⟨_, next shape, begun⟩, fun none dry => ⟨_, next shape, waits none dry⟩⟩
  · obtain ⟨u, shape, h⟩ := asked (by omega)
    exact ⟨fun busy => ⟨_, next shape, update_waits boundary h kind busy⟩, fun written ⟨left, primary, early⟩ =>
      ⟨_, next shape, update_pads boundary h (long (by omega) (by omega)) primary left early kind written⟩⟩
  · obtain ⟨u, shape, h⟩ := asked (by omega)
    obtain ⟨left, primary, early⟩ := enough
    exact ⟨_, next shape, offload_pads boundary h (long (by omega) (by omega)) primary left early kind none⟩
  · obtain ⟨u, shape, h⟩ := asked (by omega)
    obtain ⟨waits, queue⟩ := offload_waits boundary h kind entry full
    exact ⟨_, next shape, waits, (commit_oflQueue s _).trans queue⟩
  · obtain ⟨u, shape, h⟩ := asked (by omega)
    obtain ⟨left, primary, early⟩ := enough
    obtain ⟨handed, queue⟩ := offload_handed boundary h (long (by omega) (by omega)) primary left early kind entry room
    exact ⟨_, next shape, handed, (commit_oflQueue s _).trans queue⟩

end Sys2Proof.Proofs
end

section
/-!
SUPPORT. Registers of the dies that job software writes (R9, R464): what a whole write of one is, and where those of micro-batch control
stand in the register index.
-/

namespace Sys2Proof.Proofs

open Sys2Proof Sys2Proof.Machine Sys2Proof.Laws

/-- A register at the first byte of its address in a die's control space, written by job software. -/
structure JobReg (a : Nat) (h : RegHit) : Prop where
  low : ctlBase 0 ≤ a
  high : a < ctlBase 4
  aligned : a % 8 = 0
  hit : regFind a = some h
  writer : h.row.writer = .jobRR
  whole : h.byte = 0

namespace JobReg

variable {a : Nat} {h : RegHit} (r : JobReg a h)
include r

theorem placeOf : placeOf a = .ctl ((a - 0x300000000000) / 0x1000000) ((a - 0x300000000000) % 0x1000000) := by
  have low := r.low
  have high := r.high
  unfold ctlBase at low high
  unfold Machine.placeOf lpddrBytes
  rw [if_neg (by omega), if_neg (by omega), if_neg (by omega), if_pos (by omega)]
  exact if_neg (by omega)

theorem isCtl : isCtl a = true := by simp only [Laws.isCtl, r.placeOf]

section Write
variable {s : State} {m : BitVec 8} {v : Word} (may : Claim.mayWrite s m)
include may

theorem admitted (src : Nat) : s.writeAdmit m.toNat src h = .yes := by
  obtain ⟨-, party⟩ := may
  exact writeAdmit_yes ⟨by rw [r.writer]; decide, by rw [r.writer]; decide, party.imp_right fun job => .inr (.inl ⟨r.writer, job⟩)⟩

/-- A whole write is the register's effect, answered. -/
theorem write (src : Nat) (stage : (stageReg h.row.name && !s.ctxValid (h.i 0) (h.i 1)) = false) :
    fxWriteFrom m.toNat src a v s = (s.regEffect m.toNat src h (h.addr a) 0 v).2.answer
      (s.regEffect m.toNat src h (h.addr a) 0 v).1 0 :=
  write_register r.isCtl r.aligned r.hit r.whole (master_ne_debug may.1) (r.admitted may src) stage

/-- A context without a stage ignores writes of its registers (R114). -/
theorem write_noStage (src : Nat) (stage : stageReg h.row.name = true) (free : s.ctxValid (h.i 0) (h.i 1) = false) :
    fxWriteFrom m.toNat src a v s = s.answer St.ok 0 := by
  have aligned : regAligned a (toBytes 8 v.toNat).length = true := by
    rw [length_toBytes]
    exact regAligned_eq_true.2 ⟨.inr rfl, r.aligned⟩
  rw [fxWriteFrom, busWrite_of_ctl r.placeOf,
    regWrite_noStage r.hit aligned (master_ne_debug may.1) (r.admitted may src) stage free]

end Write

end JobReg

/-! ### The rows of micro-batch control -/

def mbqGateRow : RegRow :=
  ⟨.MBQ_GATE, 0x3000003A0028, [(4, 0x1000000), (32, 0x100)], false, 0x0, .jobRR, 0x8000000000003FFF, 0x0, []⟩
def mbqAbortRow : RegRow := ⟨.MBQ_ABORT, 0x3000003A0078, [(4, 0x1000000), (32, 0x100)], false, 0x0, .jobRR, 0x0, 0x0, []⟩
def mbqCtxSelRow : RegRow := ⟨.MBQ_CTX_SEL, 0x3000003A2000, [(4, 0x1000000)], false, 0x0, .jobRR, 0xFF1F, 0x0, []⟩

theorem regFind_mbqGate : ∀ n < 4, ∀ x < 32, regFind (Reg.MBQ_GATE n x) = some ⟨mbqGateRow, [n, x], 0⟩ := by decide +kernel

theorem regFind_mbqAbort : ∀ n < 4, ∀ x < 32, regFind (Reg.MBQ_ABORT n x) = some ⟨mbqAbortRow, [n, x], 0⟩ := by decide +kernel

theorem regFind_mbqCtxSel : ∀ n < 4, regFind (Reg.MBQ_CTX_SEL n) = some ⟨mbqCtxSelRow, [n], 0⟩ := by decide +kernel

theorem jobReg_mbqGate {n x : Nat} (hn : n < 4) (hx : x < 32) : JobReg (Reg.MBQ_GATE n x) ⟨mbqGateRow, [n, x], 0⟩ where
  low := by unfold Reg.MBQ_GATE ctlBase; omega
  high := by unfold Reg.MBQ_GATE ctlBase; omega
  aligned := by unfold Reg.MBQ_GATE ctlBase; omega
  hit := regFind_mbqGate n hn x hx
  writer := rfl
  whole := rfl

theorem jobReg_mbqAbort {n x : Nat} (hn : n < 4) (hx : x < 32) : JobReg (Reg.MBQ_ABORT n x) ⟨mbqAbortRow, [n, x], 0⟩ where
  low := by unfold Reg.MBQ_ABORT ctlBase; omega
  high := by unfold Reg.MBQ_ABORT ctlBase; omega
  aligned := by unfold Reg.MBQ_ABORT ctlBase; omega
  hit := regFind_mbqAbort n hn x hx
  writer := rfl
  whole := rfl

theorem jobReg_mbqCtxSel {n : Nat} (hn : n < 4) : JobReg (Reg.MBQ_CTX_SEL n) ⟨mbqCtxSelRow, [n], 0⟩ where
  low := by unfold Reg.MBQ_CTX_SEL ctlBase; omega
  high := by unfold Reg.MBQ_CTX_SEL ctlBase; omega
  aligned := by unfold Reg.MBQ_CTX_SEL ctlBase; omega
  hit := regFind_mbqCtxSel n hn
  writer := rfl
  whole := rfl

/-! ### Their effects -/

section Effect
variable {s : State} {m src a : Nat} {h : RegHit} {new : Word} {j : Nat} {v : Word}
  (hx : s.fieldNew a (v &&& halfMask j) (halfMask j) = some new)
include hx

theorem regEffect_mbqGate (hn : h.row.name = .MBQ_GATE) :
    s.regEffect m src h a j v = (St.ok, fxAdmission (h.i 0) (h.i 1) (s.wr a new)) := by
  simp only [State.regEffect, hx, hn]

theorem regEffect_mbqAbort (hn : h.row.name = .MBQ_ABORT) :
    s.regEffect m src h a j v = (St.ok, fxAdmission (h.i 0) (h.i 1) (s.mbqAbort (h.i 0) (h.i 1) (v &&& halfMask j))) := by
  simp only [State.regEffect, hx, hn]

theorem regEffect_mbqCtxSel (hn : h.row.name = .MBQ_CTX_SEL) :
    s.regEffect m src h a j v = (St.ok, s.mbqLatch (h.i 0) new) := by
  simp only [State.regEffect, hx, hn]

end Effect

/-- A write of MBQ_GATE takes EN and COUNTER. -/
theorem written_mbqGate (old v : Word) :
    bit (written mbqGateRow old v 0xFFFFFFFFFFFFFFFF) 63 = bit v 63
      ∧ bits (written mbqGateRow old v 0xFFFFFFFFFFFFFFFF) 13 0 = bits v 13 0 := by
  have row : mbqGateRow ∈ regRows := row_mem (regFind_mbqGate 0 (by decide) 0 (by decide))
  have counter : ∀ i < 14, mbqGateRow.rw.testBit i = true := by decide
  exact ⟨bit_written_rw row old v (by decide) (by decide),
    bits_congr fun i _ hi => bit_written_rw row old v (by omega) (counter i (by omega))⟩

/-- A write of MBQ_CTX_SEL selects a stage context and a micro-batch context of it. -/
theorem written_mbqCtxSel (old v : Word) :
    bits (written mbqCtxSelRow old v 0xFFFFFFFFFFFFFFFF) 4 0 = bits v 4 0
      ∧ bits (written mbqCtxSelRow old v 0xFFFFFFFFFFFFFFFF) 15 8 = bits v 15 8 := by
  have row : mbqCtxSelRow ∈ regRows := row_mem (regFind_mbqCtxSel 0 (by decide))
  have stage : ∀ i < 5, mbqCtxSelRow.rw.testBit i = true := by decide
  have context : ∀ i < 16, 8 ≤ i → mbqCtxSelRow.rw.testBit i = true := by decide
  exact ⟨bits_congr fun i _ hi => bit_written_rw row old v (by omega) (stage i (by omega)),
    bits_congr fun i lo hi => bit_written_rw row old v (by omega) (context i (by omega) lo)⟩

end Sys2Proof.Proofs
end

section
/-!
SUPPORT. Control of micro-batches: the abort of one and its release (R109), the convoy gate (R114) and the context window (R115); and
the statement O30.
-/

namespace Sys2Proof.Proofs

open Sys2Proof Sys2Proof.Machine Sys2Proof.Laws

/-! ### A stage whose slot waits for no admission -/

theorem fxAdmission_idle {s : State} {n x : Nat} (idle : (s.stg n x).phase ≠ .await) : fxAdmission n x s = s := by
  rw [fxAdmission, if_neg (by simp [idle])]

section Idle
variable {m : BitVec 8} {die : BitVec 2} {ctx : BitVec 5} {v : Word} {s : State} (hl : s.Live) (hc : s.Canonical)
  (may : Claim.mayWrite s m) (valid : s.ctxValid die.toNat ctx.toNat = true)
include hl hc may valid

theorem exec_mbqAbort_idle (idle : ((s.mbqAbort die.toNat ctx.toNat v).stg die.toNat ctx.toNat).phase ≠ .await) :
    exec (.mbqAbort m die ctx v) s = .next (s.commit ((s.mbqAbort die.toNat ctx.toNat v).answer St.ok 0)) := by
  have reg := jobReg_mbqAbort die.isLt ctx.isLt
  have stage : (stageReg mbqAbortRow.name && !s.ctxValid die.toNat ctx.toNat) = false := by rw [valid]; rfl
  rw [exec_mbqAbort, live_eq hl hc, reg.write may s.devId stage, regEffect_mbqAbort (fieldNew_of_noRanges reg.hit rfl _ _) rfl,
    halfMask_zero, and_ones]
  exact congrArg (fun t : State => Host.Outcome.next (s.commit (t.answer St.ok 0))) (fxAdmission_idle idle)

theorem exec_mbqGateWrite_idle (idle : (s.stg die.toNat ctx.toNat).phase ≠ .await) :
    exec (.mbqGateWrite m die ctx v) s = .next (s.commit ((s.wr (Reg.MBQ_GATE die.toNat ctx.toNat)
      (written mbqGateRow (s.rd (Reg.MBQ_GATE die.toNat ctx.toNat)) v 0xFFFFFFFFFFFFFFFF)).answer St.ok 0)) := by
  have reg := jobReg_mbqGate die.isLt ctx.isLt
  have stage : (stageReg mbqGateRow.name && !s.ctxValid die.toNat ctx.toNat) = false := by rw [valid]; rfl
  rw [exec_mbqGateWrite, live_eq hl hc, reg.write may s.devId stage, regEffect_mbqGate (fieldNew_of_noRanges reg.hit rfl _ _) rfl,
    halfMask_zero, and_ones]
  exact congrArg (fun t : State => Host.Outcome.next (s.commit (t.answer St.ok 0))) (fxAdmission_idle idle)

end Idle

/-! ### Aborts (R109) -/

theorem commit_answer_mbs (s t : State) (st : Nat) : (s.commit (t.answer st 0)).mbs = t.mbs := rfl

/-- A command that wrote no register leaves them all. -/
theorem commit_rd_of_jnl {s t : State} (hc : s.Canonical) (h : t.jnl = s.jnl) (a : Nat) : (s.commit t).rd a = s.rd a := by
  rw [commit_rd hc, h, hc.2.2]
  rfl

/-- A command that wrote no memory leaves every byte. -/
theorem commit_byte_of_jnl {s t : State} (hc : s.Canonical) (h : t.jnl = s.jnl) (a : Nat) : (s.commit t).byte a = s.byte a := by
  rw [commit_byte hc, h, hc.2.2]
  rfl

/-- What the abort of a micro-batch leaves, whatever its command answers: the context is ABORTED, its pages are free, and neither
registers nor memory have changed. -/
theorem commit_abortMb {s t : State} {n x c : Nat} (hc : s.Canonical) (mbs : t.mbs = (s.abortMb n x c).mbs) (jnl : t.jnl = s.jnl) :
    ((s.commit t).mbc n x c).state = 5 ∧ ((s.commit t).mbc n x c).pages = [] ∧ (∀ a, (s.commit t).rd a = s.rd a)
      ∧ ∀ a, (s.commit t).byte a = s.byte a := by
  have aborted : (s.commit t).mbc n x c = (s.abortMb n x c).mbc n x c := by
    rw [mbc_commit, State.mbc, mbs]
    rfl
  rw [aborted, State.abortMb, mbc_setMbc s n x (by dsimp only; decide)]
  exact ⟨rfl, rfl, commit_rd_of_jnl hc jnl, commit_byte_of_jnl hc jnl⟩

theorem raise_tables (s : State) (lg blk evt en ev : Nat) (e : EvInfo) :
    stageTables (s.raise lg blk evt en ev e) = stageTables s := by
  unfold State.raise
  exact ite_keeps stageTables rfl rfl

section Abort
variable {s : State} {n x : Nat} {v : Word} (valid : s.ctxValid n x = true) (go : bit v 63 = true)
include valid go

theorem mbqAbort_found {c : Nat} (still : (s.mbc n x c).xfer = false)
    (found : (List.range 256).find? (fun c => (s.mbc n x c).state == 2 && dSeq (s.mbc n x c).desc == bits v 31 0) = some c) :
    s.mbqAbort n x v = s.abortMb n x c := by
  unfold State.mbqAbort
  simp only [valid, go, Bool.not_true, Bool.or_self, Bool.false_eq_true, if_false, found, still]

theorem mbqAbort_none
    (none : (List.range 256).find? (fun c => (s.mbc n x c).state == 2 && dSeq (s.mbc n x c).desc == bits v 31 0) = none) :
    s.mbqAbort n x v = s.raise n Blk.mbq (Reg.MBQ_EVT n x) (Reg.MBQ_EVT_EN n x) 4 { unit := x, info0 := w (bits v 31 0) } := by
  unfold State.mbqAbort
  simp only [valid, go, Bool.not_true, Bool.or_self, Bool.false_eq_true, if_false, none]

end Abort

theorem fxAbortRelease_due {s : State} {n x c : Nat} (waits : (s.mbc n x c).abortReq = true) (still : (s.mbc n x c).xfer = false)
    (stashed : (s.mbc n x c).state = 2) : fxAbortRelease n x c s = s.abortMb n x c := by
  simp only [fxAbortRelease, waits, still, stashed, Bool.not_false, beq_self_eq_true, Bool.and_self, if_true]

/-! ### The context window (R115) -/

/-- The four data registers take these words. -/
def latchWords (s : State) (n : Nat) (d0 d1 d2 d3 : Word) : State :=
  (((s.wr (Reg.MBQ_CTX_DATA0 n) d0).wr (Reg.MBQ_CTX_DATA1 n) d1).wr (Reg.MBQ_CTX_DATA2 n) d2).wr (Reg.MBQ_CTX_DATA3 n) d3

/-- The window reads these words. -/
def windowReads (t : State) (n : Nat) (d0 d1 d2 d3 : Word) : Prop :=
  t.rd (Reg.MBQ_CTX_DATA0 n) = d0 ∧ t.rd (Reg.MBQ_CTX_DATA1 n) = d1 ∧ t.rd (Reg.MBQ_CTX_DATA2 n) = d2
    ∧ t.rd (Reg.MBQ_CTX_DATA3 n) = d3

theorem windowReads_latchWords (s : State) (n : Nat) (d0 d1 d2 d3 : Word) :
    windowReads (latchWords s n d0 d1 d2 d3) n d0 d1 d2 d3 := by
  simp [windowReads, latchWords, rd_wr, Reg.MBQ_CTX_DATA0, Reg.MBQ_CTX_DATA1, Reg.MBQ_CTX_DATA2, Reg.MBQ_CTX_DATA3]

/-- The selected context holds no stage, lies beyond MAX_CONTEXTS or is FREE. -/
def windowEmpty (s : State) (n x c : Nat) : Prop := s.ctxValid n x = false ∨ s.maxCtx n x ≤ c ∨ (s.mbc n x c).state = 0

/-- What the window shows of a micro-batch. -/
def latchMb (s : State) (n : Nat) (b : MbCtx) : State :=
  latchWords s n (w (b.state + 2 ^ 32 * dSeq b.desc)) (w (dLength b.desc + 2 ^ 32 * b.pages.length)) b.tag (w b.admitted)

section Latch
variable (s : State) (n : Nat) (v : Word)

/-- The window's selection is stored. -/
def ctxSelected : State := s.wr (Reg.MBQ_CTX_SEL n) (w (bits v 4 0 + at_ 8 (bits v 15 8)))

/-- The selection is stored, and the words follow it. -/
theorem mbqLatch_eq : s.mbqLatch n v =
    if !s.ctxValid n (bits v 4 0) || decide (s.maxCtx n (bits v 4 0) ≤ bits v 15 8)
      || (s.mbc n (bits v 4 0) (bits v 15 8)).state == 0
    then latchWords (ctxSelected s n v) n 0 0 0 0
    else latchMb (ctxSelected s n v) n (s.mbc n (bits v 4 0) (bits v 15 8)) := by
  have small : bits v 4 0 < 32 := bits_lt v 4 0
  have valid : (ctxSelected s n v).ctxValid n (bits v 4 0) = s.ctxValid n (bits v 4 0) := by
    unfold ctxSelected State.ctxValid State.rdB
    rw [rd_wr, if_neg (by unfold Reg.MBQ_CTX_SEL Reg.CAD_CTX_CFG; omega)]
  have contexts : (ctxSelected s n v).maxCtx n (bits v 4 0) = s.maxCtx n (bits v 4 0) := by
    unfold ctxSelected State.maxCtx State.rdB
    rw [rd_wr, if_neg (by unfold Reg.MBQ_CTX_SEL Reg.MBQ_CFG; omega)]
  rw [← valid, ← contexts, latchMb, Nat.mul_comm (2 ^ 32), Nat.mul_comm (2 ^ 32)]
  rfl

variable {s n v}

theorem mbqLatch_empty (empty : windowEmpty s n (bits v 4 0) (bits v 15 8)) :
    s.mbqLatch n v = latchWords (ctxSelected s n v) n 0 0 0 0 := by
  rw [mbqLatch_eq, if_pos (by simpa [windowEmpty, or_assoc] using empty)]

theorem mbqLatch_holds (holds : ¬windowEmpty s n (bits v 4 0) (bits v 15 8)) :
    s.mbqLatch n v = latchMb (ctxSelected s n v) n (s.mbc n (bits v 4 0) (bits v 15 8)) := by
  rw [mbqLatch_eq, if_neg (by simpa [windowEmpty, or_assoc] using holds)]

variable (s n v)

theorem mbqLatch_regWrites : RegWrites s (s.mbqLatch n v) := by
  have stored : RegWrites s (ctxSelected s n v) := (RegWrites.refl s).wr _ _
  rw [mbqLatch_eq]
  split
  · exact (((stored.wr _ _).wr _ _).wr _ _).wr _ _
  · exact (((stored.wr _ _).wr _ _).wr _ _).wr _ _

/-- What a write of the selection leaves. -/
theorem commit_mbqLatch (hc : s.Canonical) :
    let t := s.commit ((s.mbqLatch n v).answer St.ok 0)
    let x := bits v 4 0
    let c := bits v 15 8
    let b := s.mbc n x c
    (windowEmpty s n x c → windowReads t n 0 0 0 0)
      ∧ (¬windowEmpty s n x c → windowReads t n (w (b.state + 2 ^ 32 * dSeq b.desc)) (w (dLength b.desc + 2 ^ 32 * b.pages.length))
          b.tag (w b.admitted))
      ∧ t.mbs = s.mbs ∧ ∀ a, t.byte a = s.byte a := by
  have writes := mbqLatch_regWrites s n v
  have frame := writes.regFrame
  have mbs : (s.mbqLatch n v).mbs = s.mbs := by rw [writes.only]
  have reads {d0 d1 d2 d3 : Word} (h : windowReads (s.mbqLatch n v) n d0 d1 d2 d3) :
      windowReads (s.commit ((s.mbqLatch n v).answer St.ok 0)) n d0 d1 d2 d3 := by
    simpa only [windowReads, commit_answer_rd hc frame.toFrame] using h
  refine ⟨fun empty => reads ?_, fun holds => reads ?_, (commit_answer_mbs s _ St.ok).trans mbs, fun a => ?_⟩
  · rw [mbqLatch_empty empty]
    exact windowReads_latchWords _ _ _ _ _ _
  · rw [mbqLatch_holds holds]
    exact windowReads_latchWords _ _ _ _ _ _
  · rw [commit_answer_byte hc frame.toFrame, frame.byte]

end Latch

theorem exec_mbqCtxSelWrite_latch {m : BitVec 8} {die : BitVec 2} {v : Word} {s : State} (hl : s.Live) (hc : s.Canonical)
    (may : Claim.mayWrite s m) : exec (.mbqCtxSelWrite m die v) s = .next (s.commit ((s.mbqLatch die.toNat
      (written mbqCtxSelRow (s.rd (Reg.MBQ_CTX_SEL die.toNat)) v 0xFFFFFFFFFFFFFFFF)).answer St.ok 0)) := by
  have reg := jobReg_mbqCtxSel die.isLt
  rw [exec_mbqCtxSelWrite, live_eq hl hc, reg.write may s.devId rfl, regEffect_mbqCtxSel (fieldNew_of_noRanges reg.hit rfl _ _) rfl,
    halfMask_zero, and_ones]
  rfl

/-! ### The commands -/

section Commands
variable {m : BitVec 8} {die : BitVec 2} {ctx : BitVec 5} {v : Word} {s : State} (hl : s.Live) (hc : s.Canonical)
include hl hc

section Stage
variable (may : Claim.mayWrite s m) (valid : s.ctxValid die.toNat ctx.toNat = true)
  (idle : (s.stg die.toNat ctx.toNat).phase ≠ .await)
include may valid idle

theorem mbqAbort_aborts {c : Nat} (go : bit v 63 = true) (still : (s.mbc die.toNat ctx.toNat c).xfer = false)
    (found : (List.range 256).find? (fun c => (s.mbc die.toNat ctx.toNat c).state == 2
      && dSeq (s.mbc die.toNat ctx.toNat c).desc == bits v 31 0) = some c) :
    ∃ t, exec (.mbqAbort m die ctx v) s = .next t ∧ (t.mbc die.toNat ctx.toNat c).state = 5
      ∧ (t.mbc die.toNat ctx.toNat c).pages = [] ∧ (∀ a, t.rd a = s.rd a) ∧ ∀ a, t.byte a = s.byte a := by
  have aborts := mbqAbort_found valid go still found
  refine ⟨_, exec_mbqAbort_idle hl hc may valid (by rw [aborts]; exact idle), ?_⟩
  rw [aborts]
  exact commit_abortMb hc rfl rfl

theorem mbqAbort_fails (go : bit v 63 = true) (none : (List.range 256).find? (fun c => (s.mbc die.toNat ctx.toNat c).state == 2
      && dSeq (s.mbc die.toNat ctx.toNat c).desc == bits v 31 0) = none) :
    ∃ t, exec (.mbqAbort m die ctx v) s = .next t ∧ bit (t.rd (Reg.MBQ_EVT die.toNat ctx.toNat)) 4 = true ∧ t.mbs = s.mbs
      ∧ (∀ a, a ≠ Reg.MBQ_EVT die.toNat ctx.toNat → t.rd a = s.rd a) ∧ ∀ a, t.byte a = s.byte a := by
  have fails := mbqAbort_none valid go none
  have tables : stageTables (s.mbqAbort die.toNat ctx.toNat v) = stageTables s := by rw [fails, raise_tables]
  have frame : RegFrame (· = Reg.MBQ_EVT die.toNat ctx.toNat) s (s.mbqAbort die.toNat ctx.toNat v) := by
    rw [fails]
    exact RegFrame.raise (R := (· = Reg.MBQ_EVT die.toNat ctx.toNat)) (.refl s) rfl _ _ _ _ _
  refine ⟨_, exec_mbqAbort_idle hl hc may valid (by rw [stg_of_tables tables]; exact idle), ?_,
    (commit_answer_mbs s _ St.ok).trans (congrArg Prod.snd tables), fun a ha => ?_, fun a => ?_⟩
  · rw [commit_answer_rd hc frame.toFrame, fails, rd_raise, bit_setBit _ (by decide)]
  · rw [commit_answer_rd hc frame.toFrame, frame.rd a ha]
  · rw [commit_answer_byte hc frame.toFrame, frame.byte]

theorem mbqGateWrite_stores : ∃ t, exec (.mbqGateWrite m die ctx v) s = .next t
    ∧ bit (t.rd (Reg.MBQ_GATE die.toNat ctx.toNat)) 63 = bit v 63
    ∧ bits (t.rd (Reg.MBQ_GATE die.toNat ctx.toNat)) 13 0 = bits v 13 0
    ∧ (∀ a, a ≠ Reg.MBQ_GATE die.toNat ctx.toNat → t.rd a = s.rd a) ∧ ∀ a, t.byte a = s.byte a := by
  obtain ⟨enable, counter⟩ := written_mbqGate (s.rd (Reg.MBQ_GATE die.toNat ctx.toNat)) v
  refine ⟨_, exec_mbqGateWrite_idle hl hc may valid idle, ?_, ?_, fun a ha => ?_, fun a => commit_wr_byte hc _ _ _ a⟩
  · rw [commit_wr_rd hc, if_pos rfl, enable]
  · rw [commit_wr_rd hc, if_pos rfl, counter]
  · rw [commit_wr_rd hc, if_neg (Ne.symm ha)]

end Stage

theorem mbqGateWrite_noStage (may : Claim.mayWrite s m) (free : s.ctxValid die.toNat ctx.toNat = false) :
    exec (.mbqGateWrite m die ctx v) s = .next { s with out := s.out ++ [.access St.ok 0] } := by
  rw [exec_mbqGateWrite, live_eq hl hc, (jobReg_mbqGate die.isLt ctx.isLt).write_noStage may s.devId rfl free, commit_answer hc]

theorem abortRelease_aborts {mb : BitVec 8} (waits : (s.mbc die.toNat ctx.toNat mb.toNat).abortReq = true)
    (still : (s.mbc die.toNat ctx.toNat mb.toNat).xfer = false) (stashed : (s.mbc die.toNat ctx.toNat mb.toNat).state = 2) :
    ∃ t, exec (.abortRelease die ctx mb) s = .next t ∧ (t.mbc die.toNat ctx.toNat mb.toNat).state = 5
      ∧ (t.mbc die.toNat ctx.toNat mb.toNat).pages = [] ∧ (∀ a, t.rd a = s.rd a) ∧ ∀ a, t.byte a = s.byte a := by
  rw [exec_abortRelease, live_eq hl hc, fxAbortRelease_due waits still stashed]
  exact ⟨_, rfl, commit_abortMb hc rfl rfl⟩

end Commands

/-- Settles O30: each write is the effect of its register, which a stage whose slot does not wait for admission keeps as it is. -/
theorem microbatchControls : Obligations.MicrobatchControls := by
  refine ⟨⟨fun m die ctx v s hl hc may valid idle go => ⟨fun c found still => ?_, fun none => ?_⟩,
      fun die ctx mb s hl hc waits still stashed => abortRelease_aborts hl hc waits still stashed⟩,
    fun m die ctx v s hl hc may => ⟨fun valid idle => mbqGateWrite_stores hl hc may valid idle,
      fun free => mbqGateWrite_noStage hl hc may free⟩,
    fun m die v s hl hc may => ?_⟩
  · exact mbqAbort_aborts hl hc may valid idle go still found
  · exact mbqAbort_fails hl hc may valid idle go none
  · obtain ⟨stage, context⟩ := written_mbqCtxSel (s.rd (Reg.MBQ_CTX_SEL die.toNat)) v
    have latched := commit_mbqLatch s die.toNat (written mbqCtxSelRow (s.rd (Reg.MBQ_CTX_SEL die.toNat)) v 0xFFFFFFFFFFFFFFFF) hc
    rw [stage, context] at latched
    exact ⟨_, exec_mbqCtxSelWrite_latch hl hc may, latched⟩

end Sys2Proof.Proofs
end

section
/-!
SUPPORT. The vote on a step (O34), refuted. The entry of the route to the parent is read at RTE_GROUP(parent / 512). For a parent of 18
bits that is a register of the route table; a parent of 131079 · 512 makes it the address of COL_VOTE_STATUS, in which the command itself
records the vote that it takes. The vote then leaves by another route than the one the statement reads before the command. (A table of the
vote gives no such parent, since the device keeps 18 bits of an entry; the statement holds every state possible.)
-/

namespace Sys2Proof.Proofs

open Sys2Proof Sys2Proof.Machine Sys2Proof.Laws

/-- A parent whose route entry stands where COL_VOTE_STATUS does. -/
def wideParent : Nat := 131079 * 512

/-- A device of role 1 without ledgers, whose last vote was on step 0x10001, which read as a route entry is valid and names port 0, its
one ACTIVE port. It votes on step 0x10002 next. -/
def wideParentState : State :=
  { regs := [(Reg.ID_JOB_STATE, 3), (Reg.LNK_STATUS 0, 4), (Reg.RTE_SELF, 0x8000000000000005), (Reg.COL_VOTE_STATUS, 0x10001)]
    devRole := 1, devCount := 2, vote := { known := true, parent := wideParent, next := 0x10002 } }

theorem wideParent_hypotheses : wideParentState.Live ∧ wideParentState.Canonical ∧ wideParentState.jobState = 3
    ∧ wideParentState.perShard = false ∧ wideParentState.voteHeld = false ∧ wideParentState.voteState = 0
    ∧ wideParentState.ownedIds = [] := by decide +kernel

theorem wideParent_mayVote : wideParentState.mayOriginate = true
    ∧ wideParentState.rdB Reg.FAB_TAG_CFG 13 0 < wideParentState.tagsFree ∧ wideParentState.isMasked 0xD5 = false := by
  decide +kernel

/-- Before the command the route to the parent is port 0. -/
theorem wideParent_route : wideParentState.routeOf wideParentState.devId wideParentState.vote.parent 2 = .port 0 := by decide +kernel

/-- After the command port 0 has nothing to send: the vote on step 0x10002 names port 1, which is not ACTIVE. -/
theorem wideParent_unsent : ((wideParentState.commit (fxStepVoteReady wideParentState)).port 0).queue = [] := by decide +kernel

/-- Refutes O34: a vote for a parent of more than 18 bits can leave by another route than the one in force before it. -/
theorem not_stepVotes : ¬ Obligations.StepVotes := by
  rintro ⟨⟨-, ready, -⟩, -⟩
  obtain ⟨hl, hc, running, perStep, free, idle, none⟩ := wideParent_hypotheses
  obtain ⟨may, tags, open_⟩ := wideParent_mayVote
  obtain ⟨-, -, tellsParent, -⟩ := ready wideParentState hl hc running perStep free (by rw [idle]; decide) (by rw [idle]; decide) rfl
    (by rw [none]; exact fun _ h => nomatch h)
  obtain ⟨t, ht, -, -, sent⟩ := tellsParent (by decide) rfl (by decide) fun _ h => nomatch h
  obtain rfl : wideParentState.commit _ = t :=
    Host.Outcome.next.inj (((exec_stepVoteReady wideParentState).trans (live_eq hl hc _)).symm.trans ht)
  obtain ⟨_, _, queued⟩ := sent may tags open_ 0 wideParent_route
  rw [wideParent_unsent] at queued
  exact nomatch queued

end Sys2Proof.Proofs
end

section
/-!
SUPPORT. Writes of a ledger's header (R116, R304) where no access to it fails: the bytes that are written, the readings of the header that
stay, and that the header stays sound.
-/

namespace Sys2Proof.Proofs

open Sys2Proof Sys2Proof.Machine Sys2Proof.Laws

/-! ### Parity -/

/-- From `s` to `t` only registers of the memory system and parity changed, and what was sound stays sound. -/
structure ParityKept (s t : State) : Prop where
  only : t = { s with jnl := t.jnl, par := t.par }
  frame : Frame memReg s t
  byte : ∀ a, t.byte a = s.byte a
  clean : ∀ {a n}, Claim.clean s a n → Claim.clean t a n

namespace ParityKept

variable {s t u : State}

theorem refl (s : State) : ParityKept s s := ⟨rfl, .refl s, fun _ => rfl, id⟩

theorem trans (h : ParityKept s t) (k : ParityKept t u) : ParityKept s u :=
  ⟨k.only.trans (by rw [h.only]), h.frame.trans k.frame, fun a => (k.byte a).trans (h.byte a), k.clean ∘ h.clean⟩

theorem foldl {f : State → Nat → State} (hf : ∀ t b, ParityKept t (f t b)) (l : List Nat) (s : State) : ParityKept s (l.foldl f s) := by
  induction l generalizing s with
  | nil => exact .refl s
  | cons b l ih => exact (hf s b).trans (ih _)

theorem addB (s : State) {a : Nat} (ha : memReg a) (hi lo n : Nat) : ParityKept s (s.addB a hi lo n) :=
  ⟨rfl, (Frame.refl s).addB ha _ _ _, fun _ => rfl, id⟩

end ParityKept

theorem countReads_parityKept (s : State) (bs : List Nat) : ParityKept s (countReads s bs) := by
  refine .foldl (fun t b => ?_) bs s
  unfold countRead
  split
  · exact .addB t (memReg_cntRd (ilvStack_lt b)) _ _ _
  · exact .refl t

/-- Words that a write of [a, a + n) covers whole get fresh parity (R300), and its burst is counted. -/
def freshBlock (a n : Nat) (s : State) (b : Nat) : State :=
  let s := { s with par := s.par.set b ((s.par.get b 0).land (0xFFFF - coveredWords b a n)) 0 }
  if isLpddr b then s.addB (Reg.MEM_CNT_WR (ilvStack b)) 63 0 1 else s

theorem memPut_eq (s : State) (a : Nat) (bs : List Byte) :
    s.memPut a bs = ((blocksOf a bs.length).foldl (freshBlock a bs.length) s).rawWrite a bs := rfl

/-- Fresh parity makes no sound block bad. -/
theorem clean_freshParity {s : State} {b m a n : Nat} (h : Claim.clean s a n) :
    Claim.clean { s with par := s.par.set b ((s.par.get b 0).land m) 0 } a n := by
  obtain ⟨wf, blocks, flits⟩ := h
  refine ⟨wf_set (d := fun _ => 0) wf, fun c hc => ?_, flits⟩
  obtain ⟨par, glitch, faults⟩ := blocks c hc
  refine ⟨?_, glitch, faults⟩
  refine (get_set (d := fun _ => 0) wf).trans ?_
  split
  next same => subst same; rw [par]; exact Nat.zero_and m
  · exact par

theorem freshBlock_parityKept (a n : Nat) (s : State) (b : Nat) : ParityKept s (freshBlock a n s b) := by
  have fresh : ParityKept s { s with par := s.par.set b ((s.par.get b 0).land (0xFFFF - coveredWords b a n)) 0 } :=
    ⟨rfl, (Frame.refl s).keep rfl rfl rfl, fun _ => rfl, clean_freshParity⟩
  unfold freshBlock
  dsimp only
  split
  · exact fresh.trans (.addB _ (memReg_cntWr (ilvStack_lt b)) _ _ _)
  · exact fresh

/-! ### Writes -/

theorem rawNat_congr {s t : State} {a n : Nat} (h : ∀ b, a ≤ b → b < a + n → t.byte b = s.byte b) : t.rawNat a n = s.rawNat a n := by
  unfold State.rawNat State.rawRead
  congr 1
  refine List.map_congr_left fun i hi => ?_
  rw [List.mem_range] at hi
  exact h _ (by omega) (by omega)

/-- From `s` to `t` the bytes `bs` were written at `a`. -/
structure Stored (s t : State) (a : Nat) (bs : List Byte) : Prop where
  only : t = { s with jnl := t.jnl, par := t.par }
  frame : Frame memReg s t
  byte : ∀ b, t.byte b = if h : a ≤ b ∧ b < a + bs.length then bs[b - a] else s.byte b
  clean : ∀ {c n}, Claim.clean s c n → Claim.clean t c n

theorem ParityKept.rawWrite {s t : State} (h : ParityKept s t) (a : Nat) (bs : List Byte) : Stored s (t.rawWrite a bs) a bs where
  only := by rw [h.only]; rfl
  frame := h.frame.rawWrite a bs
  byte b := by rw [byte_rawWrite, h.byte]
  clean := h.clean

/-- A write whose blocks are sound is made (R304). -/
theorem memWrite_sound {s : State} {a : Nat} {bs : List Byte} (h : Claim.sound s a bs.length) :
    s.memWrite a bs
      = (St.ok, (countReads s ((blocksOf a bs.length).filter fun b => !wordAligned b a bs.length)).memPut a bs) := by
  obtain ⟨blocks, flits⟩ := h
  have unpoisoned : ((blocksOf a bs.length).any fun b =>
      s.par.get b 0 == 0xFFFF && !(decide (a ≤ b) && decide (b + 64 ≤ a + bs.length))) = false := by
    rw [List.any_eq_false]
    intro b hb
    rw [(blocks b hb).1]
    simp
  have merged : s.mergeRead a bs.length
      = (St.ok, countReads s ((blocksOf a bs.length).filter fun b => !wordAligned b a bs.length)) :=
    readBlocks_sound fun b hb => blocks b (List.mem_of_mem_filter hb)
  have quiet (t : State) (ht : t.flits = []) : t.writeFlit a bs.length = t := by
    simp only [State.writeFlit, State.flitNext, ht]
  unfold State.memWrite
  dsimp only
  rw [unpoisoned, merged]
  simp only [Bool.false_eq_true, if_false]
  rw [quiet]
  · exact if_neg (by decide)
  rw [memPut_eq, rawWrite_flits, (ParityKept.foldl (freshBlock_parityKept a bs.length) _ _).only]
  exact (flits_countReads s _).trans flits

theorem memWrite_stored {s : State} {a : Nat} {bs : List Byte} (h : Claim.sound s a bs.length) : Stored s (s.memWrite a bs).2 a bs := by
  rw [memWrite_sound h, memPut_eq]
  exact ((countReads_parityKept s _).trans (.foldl (freshBlock_parityKept a bs.length) _ _)).rawWrite a bs

theorem sound_part {s : State} {a n c m : Nat} (h : Claim.sound s a n) (lo : a ≤ c) (hi : c + m ≤ a + n) : Claim.sound s c m :=
  ⟨fun b hb => h.1 b (blocksOf_part lo hi hb), h.2⟩

theorem ledWrite_stored {s : State} {h m a n : Nat} (v : Nat) (clean : Claim.clean s h m) (lo : h ≤ a) (hi : a + n ≤ h + m) :
    Stored s (s.ledWrite a n v) a (toBytes n v) :=
  memWrite_stored (by rw [length_toBytes]; exact sound_part clean.2 lo hi)

namespace Stored

variable {s t : State} {a : Nat} {bs : List Byte}

theorem rawRead_same (h : Stored s t a bs) : t.rawRead a bs.length = bs := by
  refine List.ext_getElem (by simp [State.rawRead]) fun i hi hb => ?_
  simp only [State.rawRead, List.getElem_map, List.getElem_range]
  rw [h.byte, dif_pos (by omega)]
  congr 1
  omega

theorem rawNat_same {n v : Nat} (h : Stored s t a (toBytes n v)) : t.rawNat a n = v % 2 ^ (8 * n) := by
  have read := h.rawRead_same
  rw [length_toBytes] at read
  rw [State.rawNat, read, ofBytes_toBytes]

theorem byte_other (h : Stored s t a bs) {b : Nat} (hd : b < a ∨ a + bs.length ≤ b) : t.byte b = s.byte b := by
  rw [h.byte, dif_neg (by omega)]

theorem rawNat_other (h : Stored s t a bs) {c n : Nat} (hd : c + n ≤ a ∨ a + bs.length ≤ c) : t.rawNat c n = s.rawNat c n :=
  rawNat_congr fun _ _ _ => h.byte_other (by omega)

theorem ledgers (h : Stored s t a bs) : t.ledgers = s.ledgers := by rw [h.only]
theorem led (h : Stored s t a bs) (l : Nat) : t.led l = s.led l := by rw [h.only]; rfl
theorem mem (h : Stored s t a bs) : t.mem = s.mem := by rw [h.only]
theorem updEng (h : Stored s t a bs) (v : Nat) : t.updEng v = s.updEng v := by rw [h.only]; rfl

end Stored

/-! ### The header of a ledger -/

@[simp] theorem commit_led (s t : State) (l : Nat) : (s.commit t).led l = t.led l := rfl

@[simp] theorem commit_ledgers (s t : State) : (s.commit t).ledgers = t.ledgers := rfl

/-- A ledger reads what was written, unless that is what no ledger lists. -/
theorem led_setLed (s : State) (l : Nat) {x : Ledger} (hx : x ≠ {}) : (s.setLed l x).led l = x := by
  rw [State.led, State.setLed, get_set_ne _ _ _ hx, if_pos rfl]

end Sys2Proof.Proofs
end

section
/-!
SUPPORT. What a ledger sends (R136 to R138): the packet and its request change no byte of memory, no ledger and nothing shown, and write
registers of the memory system and of the fabric alone.
-/

namespace Sys2Proof.Proofs

open Sys2Proof Sys2Proof.Machine Sys2Proof.Laws

theorem raise_ledgers (s : State) (lg blk evt en ev : Nat) (e : EvInfo) : (s.raise lg blk evt en ev e).ledgers = s.ledgers := by
  unfold State.raise
  dsimp only
  split <;> rfl

structure SendKept (s t : State) : Prop extends RegFrame sendReg s t where
  ledgers : t.ledgers = s.ledgers

namespace SendKept

variable {s t u : State}

theorem refl (s : State) : SendKept s s := ⟨.refl s, rfl⟩

theorem trans (h : SendKept s t) (k : SendKept t u) : SendKept s u := ⟨h.toRegFrame.trans k.toRegFrame, k.ledgers.trans h.ledgers⟩

/-- An update of State that leaves the stores, the journal, what is shown and the ledgers. -/
theorem keep (h : SendKept s t) (hj : u.jnl = t.jnl) (hr : u.regs = t.regs) (hm : u.mem = t.mem) (ho : u.out = t.out)
    (hl : u.ledgers = t.ledgers) : SendKept s u := ⟨h.toRegFrame.keep hj hr hm ho, hl.trans h.ledgers⟩

theorem raise {evt : Nat} (h : SendKept s t) (he : sendReg evt) (lg blk en ev : Nat) (e : EvInfo) :
    SendKept s (t.raise lg blk evt en ev e) :=
  ⟨h.toRegFrame.raise he _ _ _ _ _, (raise_ledgers t _ _ _ _ _ _).trans h.ledgers⟩

theorem led (h : SendKept s t) (l : Nat) : t.led l = s.led l := by
  unfold State.led
  rw [h.ledgers]

end SendKept

section Send
variable (s : State)

theorem fabSend_kept (t : Nat) (r : FabReq) : SendKept s (s.fabSend t r) := by
  have released : SendKept s (s.tagRelease t false) := (SendKept.refl s).keep rfl rfl rfl rfl rfl
  have unrouted (ev status : Nat) :
      SendKept s (((s.tagRelease t false).rteEvent ev status).fabEnd r status false []) :=
    (released.raise (.inr (.inl rfl)) _ _ _ _ _).keep rfl rfl rfl rfl rfl
  unfold State.fabSend
  dsimp only
  split
  · exact (SendKept.refl s).keep rfl rfl rfl rfl rfl
  · exact unrouted _ _
  · exact unrouted _ _

theorem fabTake_kept (r : FabReq) : SendKept s (s.fabTake r) := by
  unfold State.fabTake
  split
  · exact (SendKept.refl s).keep rfl rfl rfl rfl rfl
  · have tagged (t : Nat) (x : Tag) : SendKept s (s.setTag t x) := (SendKept.refl s).keep rfl rfl rfl rfl rfl
    have counted (u : State) : SendKept u (u.addB Reg.FAB_CNT_REQ 63 0 1) :=
      ⟨(RegFrame.refl u).wr (.inr (.inr (.inr (.inl rfl)))) _, rfl⟩
    exact ((tagged _ _).trans (counted _)).trans (fabSend_kept _ _ r)

theorem fabIssue_kept (r : FabReq) : SendKept s (s.fabIssue r) := by
  unfold State.fabIssue
  split
  · exact fabTake_kept s r
  · exact ((SendKept.refl s).raise (.inr (.inr (.inl rfl))) _ _ _ _ _).keep rfl rfl rfl rfl rfl

theorem netSend_kept (o : Owner) (ref typ dev a : Nat) (bs : List Byte) (limit : Nat) :
    SendKept s (s.netSend o ref typ dev a bs limit) := by
  unfold State.netSend
  dsimp only
  split
  · exact (SendKept.refl s).keep rfl rfl rfl rfl rfl
  · refine SendKept.trans ?_ (fabIssue_kept _ _)
    exact (SendKept.refl s).keep rfl rfl rfl rfl rfl

theorem ledSend_kept (l ref kind dev : Nat) (bs : List Byte) : SendKept s (s.ledSend l ref kind dev bs) := netSend_kept s _ _ _ _ _ _ _

/-- Showing what a ledger sends changes nothing but what is shown. -/
theorem emitNet_only (o : Out) : s.emitNet o = { s with out := (s.emitNet o).out } := by
  unfold State.emitNet
  split <;> rfl

theorem mem_emitNet {s : State} (o : Out) (h : s.mayOriginate = true) : o ∈ (s.emitNet o).out := by
  rw [State.emitNet, if_pos h]
  exact List.mem_append_right _ (List.mem_singleton.2 rfl)

theorem noticeRelease_frame (l : Nat) : Frame sendReg s (s.noticeRelease l) := by
  have shown : Frame sendReg s (s.emitNet (.release (s.led l).ownerDev (s.led l).shard)) := by
    rw [emitNet_only]
    exact (Frame.refl s).keep rfl rfl rfl
  exact shown.trans (ledSend_kept _ _ _ _ _ _).toFrame

theorem noticeRelease_ledgers (l : Nat) : (s.noticeRelease l).ledgers = s.ledgers :=
  (ledSend_kept _ _ _ _ _ _).ledgers.trans (by rw [emitNet_only])

theorem noticeRelease_byte (l a : Nat) : (s.noticeRelease l).byte a = s.byte a :=
  ((ledSend_kept _ _ _ _ _ _).byte a).trans (by rw [emitNet_only]; rfl)

/-- A device with a valid ID shows the release that it sends (R338). -/
theorem release_mem_noticeRelease {s : State} (l : Nat) (h : s.mayOriginate = true) :
    .release (s.led l).ownerDev (s.led l).shard ∈ (s.noticeRelease l).out := by
  have sent : (s.noticeRelease l).out = (s.emitNet (.release (s.led l).ownerDev (s.led l).shard)).out :=
    (ledSend_kept _ _ _ _ _ _).out
  rw [sent]
  exact mem_emitNet _ h

end Send

/-! ### Events of the LED_ block -/

theorem ledEvent_ledgers (s : State) (ev status : Nat) (l : Option Nat) : (s.ledEvent ev status l).ledgers = s.ledgers :=
  raise_ledgers s _ _ _ _ _ _

theorem ledEvent_regFrame (s : State) (ev status : Nat) (l : Option Nat) :
    RegFrame (· = Reg.LED_EVT 0) s (s.ledEvent ev status l) :=
  RegFrame.raise (R := (· = Reg.LED_EVT 0)) (.refl s) rfl _ _ _ _ _

theorem bit_ledEvent (s : State) {ev : Nat} (h : ev < 64) (status : Nat) (l : Option Nat) :
    bit ((s.ledEvent ev status l).rd (Reg.LED_EVT 0)) ev = true :=
  (congrArg (bit · ev) (rd_raise s _ _ _ _ _ _)).trans (bit_setBit _ h)

theorem ledEvent_out (s : State) (ev status : Nat) (l : Option Nat) : (s.ledEvent ev status l).out = s.out :=
  (ledEvent_regFrame s ev status l).out

end Sys2Proof.Proofs
end

section
/-!
SUPPORT. What a header of a ledger reads as (R116, R117): after a write elsewhere in memory, after a command that changed memory through its
writes alone, and in its lists.
-/

namespace Sys2Proof.Proofs

open Sys2Proof Sys2Proof.Machine Sys2Proof.Laws

theorem ledSlot_lt (s : State) (l : Nat) : s.ledSlot l < 32 := bits_lt _ 4 0

namespace Stored

variable {s t : State} {a l k : Nat} {bs : List Byte}

theorem ledCommit (h : Stored s t a bs) (hd : (s.led l).hdr + 8 ≤ a ∨ a + bs.length ≤ (s.led l).hdr) : t.ledCommit l = s.ledCommit l := by
  unfold State.ledCommit
  rw [h.led, h.rawNat_other hd]

theorem slotState (h : Stored s t a bs) (hd : (s.led l).recAddr k + 1 ≤ a ∨ a + bs.length ≤ (s.led l).recAddr k) :
    t.slotState l k = s.slotState l k := by
  unfold State.slotState
  rw [h.led, h.rawNat_other hd]

theorem slotFprint (h : Stored s t a bs) (hd : (s.led l).recAddr k + 24 ≤ a ∨ a + bs.length ≤ (s.led l).recAddr k + 16) :
    t.slotFprint l k = s.slotFprint l k := by
  unfold State.slotFprint
  rw [h.led, h.rawNat_other (by omega)]

end Stored

/-- A command that changed memory through its writes alone leaves what its effect reads. -/
theorem commit_ledCommit {s t : State} (hc : s.Canonical) (hm : t.mem = s.mem) (l : Nat) : (s.commit t).ledCommit l = t.ledCommit l :=
  congrArg w (rawNat_congr fun b _ _ => commit_byte_eq hc hm b)

theorem commit_slotState {s t : State} (hc : s.Canonical) (hm : t.mem = s.mem) (l k : Nat) : (s.commit t).slotState l k = t.slotState l k :=
  rawNat_congr fun b _ _ => commit_byte_eq hc hm b

theorem commit_slotStep {s t : State} (hc : s.Canonical) (hm : t.mem = s.mem) (l k : Nat) : (s.commit t).slotStep l k = t.slotStep l k :=
  congrArg (· % 2 ^ 56) (rawNat_congr fun b _ _ => commit_byte_eq hc hm b)

theorem commit_slotFprint {s t : State} (hc : s.Canonical) (hm : t.mem = s.mem) (l k : Nat) :
    (s.commit t).slotFprint l k = t.slotFprint l k :=
  rawNat_congr fun b _ _ => commit_byte_eq hc hm b

theorem commit_replicaList {s t : State} (hc : s.Canonical) (hm : t.mem = s.mem) (l : Nat) :
    (s.commit t).replicaList l = t.replicaList l := by
  unfold State.replicaList State.rawNat State.rawRead
  simp only [commit_byte_eq hc hm, commit_led]

theorem length_replicaList (s : State) (l : Nat) : (s.replicaList l).length = min 512 (s.rawNat ((s.led l).hdr + 0x28) 4) := by
  rw [State.replicaList, List.length_map, List.length_range]

theorem replicaList_of_count {s : State} {l n : Nat} (h : s.rawNat ((s.led l).hdr + 0x28) 4 = n) (hn : n ≤ 512) :
    s.replicaList l = (List.range n).map fun i => s.rawNat ((s.led l).hdr + 0x800 + 4 * i) 4 % 2 ^ 18 := by
  unfold State.replicaList
  dsimp only
  rw [h, min_eq_right hn]

end Sys2Proof.Proofs
end

section
/-!
SUPPORT. Registration of a replica at its owner, and its reply (O31).
-/

namespace Sys2Proof.Proofs

open Sys2Proof Sys2Proof.Machine Sys2Proof.Laws

/-! ### REPLICA_REGISTER -/

/-- A command that only shows something. -/
theorem exec_emit {i : Instr} {s : State} {f : State → State} {o : Out} (hl : s.Live) (hc : s.Canonical) (exec_eq : exec i s = live s f)
    (h : f s = s.emit o) : exec i s = .next { s with out := s.out ++ [o] } := by
  rw [exec_eq, live_eq hl hc, h]
  exact congrArg _ (commit_of_jnl_nil hc.2.2 rfl rfl rfl)

/-- The owner's answer to a replica that it lists (R136). -/
def registered (s : State) (dev l : Nat) : Out :=
  .regReply dev 0 (s.devId * 2 ^ 46 + (s.led l).hdr) (s.ledCommit l) (w (s.slotFprint l (s.ledSlot l)))

/-- The state in which the owner has listed one replica more (R136). -/
def listReplica (s : State) (dev l : Nat) : State :=
  (s.ledWrite ((s.led l).hdr + 0x800 + 4 * (s.replicaList l).length) 4 dev).ledWrite ((s.led l).hdr + 0x28) 4
    ((s.replicaList l).length + 1)

section Register
variable {s : State} {dev shard l : Nat}

theorem fxReplicaRegister_denied (h : s.jobOn = false ∨ s.admitted dev = false) :
    fxReplicaRegister dev shard s = s.emit (.regReply dev 1 0 0 0) := if_pos (by simpa using h)

section Admitted
variable (on : s.jobOn = true) (adm : s.admitted dev = true)
include on adm

theorem fxReplicaRegister_unowned (h : s.ledOfShard shard true = none) :
    fxReplicaRegister dev shard s = s.emit (.regReply dev 2 0 0 0) := by
  simp only [fxReplicaRegister, on, adm, h, Bool.not_true, Bool.or_self, Bool.false_eq_true, if_false]

variable (owned : s.ledOfShard shard true = some l)
include owned

theorem fxReplicaRegister_listed (h : dev ∈ s.replicaList l) : fxReplicaRegister dev shard s = s.emit (registered s dev l) := by
  simp only [fxReplicaRegister, on, adm, owned, Bool.not_true, Bool.or_self, Bool.false_eq_true, if_false, List.contains_iff_mem.2 h,
    if_true]
  rfl

variable (h : dev ∉ s.replicaList l)
include h

theorem fxReplicaRegister_full (full : (s.replicaList l).length = 512) :
    fxReplicaRegister dev shard s = s.emit (.regReply dev 2 0 0 0) := by
  have new : (s.replicaList l).contains dev = false := by simpa using h
  simp only [fxReplicaRegister, on, adm, owned, new, full, Bool.not_true, Bool.or_self, Bool.false_eq_true, if_false, le_refl, if_true]

theorem fxReplicaRegister_new (room : (s.replicaList l).length < 512) :
    fxReplicaRegister dev shard s = (listReplica s dev l).emit (.regReply dev 0 ((listReplica s dev l).devId * 2 ^ 46 + (s.led l).hdr)
      ((listReplica s dev l).ledCommit l) (w ((listReplica s dev l).slotFprint l ((listReplica s dev l).ledSlot l)))) := by
  have new : (s.replicaList l).contains dev = false := by simpa using h
  simp only [fxReplicaRegister, on, adm, owned, new, not_le.2 room, Bool.not_true, Bool.or_self, Bool.false_eq_true, if_false]
  rfl

end Admitted

theorem not_memReg_self : ¬memReg Reg.RTE_SELF := by unfold memReg; decide

section List
variable (clean : Claim.clean s (s.led l).hdr 4096) (room : (s.replicaList l).length < 512)
include clean room

/-- The new entry is written, then the count. -/
theorem listReplica_stored : ∃ u, Stored s u ((s.led l).hdr + 0x800 + 4 * (s.replicaList l).length) (toBytes 4 dev)
    ∧ Stored u (listReplica s dev l) ((s.led l).hdr + 0x28) (toBytes 4 ((s.replicaList l).length + 1)) := by
  have entry := ledWrite_stored (a := (s.led l).hdr + 0x800 + 4 * (s.replicaList l).length) (n := 4) dev clean (by omega) (by omega)
  exact ⟨_, entry, ledWrite_stored _ (entry.clean clean) (by omega) (by omega)⟩

theorem replicaList_listReplica (hd : dev < 2 ^ 18) : (listReplica s dev l).replicaList l = s.replicaList l ++ [dev] := by
  obtain ⟨u, entry, count⟩ := listReplica_stored (dev := dev) clean room
  have counted : s.rawNat ((s.led l).hdr + 0x28) 4 = (s.replicaList l).length := by
    have len := length_replicaList s l
    omega
  have hdr : ((listReplica s dev l).led l).hdr = (s.led l).hdr := by rw [count.led, entry.led]
  have old {i : Nat} (hi : i < (s.replicaList l).length) :
      (listReplica s dev l).rawNat ((s.led l).hdr + 0x800 + 4 * i) 4 = s.rawNat ((s.led l).hdr + 0x800 + 4 * i) 4 := by
    rw [count.rawNat_other (by rw [length_toBytes]; omega), entry.rawNat_other (by omega)]
  have new : (listReplica s dev l).rawNat ((s.led l).hdr + 0x800 + 4 * (s.replicaList l).length) 4 % 2 ^ 18 = dev := by
    rw [count.rawNat_other (by rw [length_toBytes]; omega), entry.rawNat_same]
    omega
  have counted' : (listReplica s dev l).rawNat (((listReplica s dev l).led l).hdr + 0x28) 4 = (s.replicaList l).length + 1 := by
    rw [hdr, count.rawNat_same]
    omega
  have first : ((List.range (s.replicaList l).length).map fun i => (listReplica s dev l).rawNat ((s.led l).hdr + 0x800 + 4 * i) 4 % 2 ^ 18)
      = s.replicaList l :=
    (List.map_congr_left fun i hi => congrArg (· % 2 ^ 18) (old (List.mem_range.1 hi))).trans
      (replicaList_of_count counted (by omega)).symm
  rw [replicaList_of_count counted' (by omega), hdr, List.range_succ, List.map_append, List.map_singleton, new, first]

/-- The answer is the same after the replica was listed: neither the commit word nor a slot record changed. -/
theorem registered_listReplica (d : Nat) : registered (listReplica s dev l) d l = registered s d l := by
  obtain ⟨u, entry, count⟩ := listReplica_stored (dev := dev) clean room
  have self : (listReplica s dev l).devId = s.devId :=
    (rdB_of_frame count.frame not_memReg_self _ _).trans (rdB_of_frame entry.frame not_memReg_self _ _)
  have commit : (listReplica s dev l).ledCommit l = s.ledCommit l := by
    rw [count.ledCommit (by rw [entry.led]; omega), entry.ledCommit (by omega)]
  have fprint : (listReplica s dev l).slotFprint l (s.ledSlot l) = s.slotFprint l (s.ledSlot l) := by
    have slot := ledSlot_lt s l
    have range : (s.led l).recAddr (s.ledSlot l) = (s.led l).hdr + 0x100 + 32 * s.ledSlot l := rfl
    rw [count.slotFprint (by rw [entry.led, length_toBytes]; omega), entry.slotFprint (by omega)]
  have slot : (listReplica s dev l).ledSlot l = s.ledSlot l := congrArg (bits · 4 0) commit
  unfold registered
  rw [self, slot, commit, fprint, count.led, entry.led]

theorem listReplica_byte (a : Nat) (h : a < (s.led l).hdr ∨ (s.led l).hdr + 4096 ≤ a) : (listReplica s dev l).byte a = s.byte a := by
  obtain ⟨u, entry, count⟩ := listReplica_stored (dev := dev) clean room
  rw [count.byte_other (by rw [length_toBytes]; omega), entry.byte_other (by rw [length_toBytes]; omega)]

theorem listReplica_only : ∃ j p, listReplica s dev l = { s with jnl := j, par := p } := by
  obtain ⟨u, entry, count⟩ := listReplica_stored (dev := dev) clean room
  exact ⟨_, _, count.only.trans (by rw [entry.only])⟩

end List

/-- REPLICA_REGISTER by a new replica of an owned shard whose list has room (R136). -/
theorem exec_replicaRegister_new {d : BitVec 18} {h : BitVec 32} (hl : s.Live) (hc : s.Canonical) (on : s.jobOn = true)
    (adm : s.admitted d.toNat = true) (owned : s.ledOfShard h.toNat true = some l) (new : d.toNat ∉ s.replicaList l)
    (room : (s.replicaList l).length < 512) (clean : Claim.clean s (s.led l).hdr 4096) :
    ∃ t, exec (.replicaRegister d h) s = .next t ∧ t.replicaList l = s.replicaList l ++ [d.toNat]
      ∧ t.out = s.out ++ [registered s d.toNat l] ∧ t.ledgers = s.ledgers
      ∧ ∀ a, a < (s.led l).hdr ∨ (s.led l).hdr + 4096 ≤ a → t.byte a = s.byte a := by
  obtain ⟨j, p, only⟩ := listReplica_only (dev := d.toNat) clean room
  have mem : (listReplica s d.toNat l).mem = s.mem := by rw [only]
  refine ⟨_, (exec_replicaRegister d h s).trans (live_eq hl hc _), ?_⟩
  rw [fxReplicaRegister_new on adm owned new room]
  refine ⟨?_, ?_, ?_, fun a ha => ?_⟩
  · exact (commit_replicaList hc (by rw [emit_mem, mem]) l).trans (replicaList_listReplica clean room d.isLt)
  · have answer := registered_listReplica (dev := d.toNat) clean room d.toNat
    have hdr : ((listReplica s d.toNat l).led l).hdr = (s.led l).hdr := by rw [only]; rfl
    unfold registered at answer ⊢
    rw [hdr] at answer
    rw [commit_out, emit_out, answer, only]
  · rw [commit_ledgers, emit_ledgers, only]
  · rw [commit_byte_eq hc (by rw [emit_mem, mem]), emit_byte]
    exact listReplica_byte clean room a ha

end Register

/-! ### The replica's side -/

theorem ledger_ne_of_depth {x : Ledger} (h : 2 ≤ x.depth) : x ≠ {} := by
  rintro rfl
  exact absurd h (by decide)

theorem ledger_ne_of_owner {x : Ledger} (h : x.owner = true) : x ≠ {} := by
  rintro rfl
  exact Bool.noConfusion h

theorem fxRegisterRetry_due {s : State} {l d : Nat} (due : (s.led l).regDue = some d) :
    fxRegisterRetry l s = if d ≤ s.now then s.registerSend l else s := by
  rw [fxRegisterRetry, due]

section RegisterSend
variable (s : State) (l : Nat)

theorem registerSend_kept : ∃ u, u = { s.setLed l { s.led l with regDue := none } with out := u.out }
    ∧ (s.mayOriginate = true → .register (s.led l).ownerDev (s.led l).shard ∈ u.out) ∧ SendKept u (s.registerSend l) :=
  ⟨_, emitNet_only _ _, fun may => mem_emitNet (s := s.setLed l _) _ may, ledSend_kept _ _ _ _ _ _⟩

theorem register_mem_registerSend (h : s.mayOriginate = true) :
    .register (s.led l).ownerDev (s.led l).shard ∈ (s.registerSend l).out := by
  obtain ⟨u, -, shown, sent⟩ := registerSend_kept s l
  rw [sent.out]
  exact shown h

theorem regDue_registerSend (h : 2 ≤ (s.led l).depth) : ((s.registerSend l).led l).regDue = none := by
  obtain ⟨u, only, -, sent⟩ := registerSend_kept s l
  have set : u.led l = { s.led l with regDue := none } := by
    rw [only]
    exact led_setLed s l (ledger_ne_of_depth h)
  rw [sent.led, set]

theorem registerSend_byte (a : Nat) : (s.registerSend l).byte a = s.byte a := by
  obtain ⟨u, only, -, sent⟩ := registerSend_kept s l
  rw [sent.byte, only]
  rfl

theorem registerSend_mem : (s.registerSend l).mem = s.mem := by
  obtain ⟨u, only, -, sent⟩ := registerSend_kept s l
  rw [sent.mem, only]
  rfl

end RegisterSend

section Reply
variable {s : State} {l h : Nat} (running : s.jobState = 3) (declared : l < s.ledCount) (replica : (s.led l).owner = false)
  (deep : 2 ≤ (s.led l).depth) (waits : (s.led l).registered = false)
include running declared replica deep waits

/-- A reply to a registration that waits for one is not ignored. -/
theorem fxRegisterReply_open (r : Nat) : fxRegisterReply l r h s =
    match r with
    | 0 => (s.ledWrite ((s.led l).hdr + 0x30) 8 h).setLed l { s.led l with registered := true, regDue := none }
    | 1 => s.setLed l { s.led l with regDue := some (s.now + 100000) }
    | _ => s.ledEvent 4 St.denied (some l) := by
  refine if_neg ?_
  rw [running, replica, waits]
  simp only [ne_eq, not_true, Bool.false_eq_true, false_or, or_false]
  omega

theorem registerReply_accepted (hc : s.Canonical) (hh : h < 2 ^ 64) (clean : Claim.clean s (s.led l).hdr 4096) :
    let t := s.commit (fxRegisterReply l 0 h s)
    (t.led l).registered = true ∧ t.rawNat ((s.led l).hdr + 0x30) 8 = h
      ∧ ∀ a, a < (s.led l).hdr + 0x30 ∨ (s.led l).hdr + 0x38 ≤ a → t.byte a = s.byte a := by
  have stored := ledWrite_stored (a := (s.led l).hdr + 0x30) (n := 8) h clean (by omega) (by omega)
  rw [fxRegisterReply_open running declared replica deep waits]
  dsimp only
  have byte (a : Nat) := (commit_byte_eq hc (s := (s.ledWrite ((s.led l).hdr + 0x30) 8 h).setLed l
    { s.led l with registered := true, regDue := none }) stored.mem a).trans (setLed_byte _ _ _ a)
  refine ⟨?_, ?_, fun a ha => ?_⟩
  · exact congrArg Ledger.registered
      (led_setLed _ l (x := { s.led l with registered := true, regDue := none }) (ledger_ne_of_depth deep))
  · refine (rawNat_congr fun b _ _ => byte b).trans (stored.rawNat_same.trans ?_)
    omega
  · exact (byte a).trans (stored.byte_other (by rw [length_toBytes]; omega))

theorem registerReply_denied (hc : s.Canonical) :
    let t := s.commit (fxRegisterReply l 1 h s)
    t.led l = { s.led l with regDue := some (s.now + 100000) } ∧ ∀ a, t.byte a = s.byte a := by
  rw [fxRegisterReply_open running declared replica deep waits]
  refine ⟨?_, fun a => commit_byte_eq hc (setLed_mem _ _ _) a⟩
  exact led_setLed s l (ledger_ne_of_depth deep)

theorem registerReply_refused (hc : s.Canonical) {r : Nat} (hr : 2 ≤ r) :
    let t := s.commit (fxRegisterReply l r h s)
    bit (t.rd (Reg.LED_EVT 0)) 4 = true ∧ t.ledgers = s.ledgers ∧ ∀ a, t.byte a = s.byte a := by
  obtain ⟨r, rfl⟩ := Nat.exists_eq_add_of_le' hr
  have frame := ledEvent_regFrame s 4 St.denied (some l)
  rw [fxRegisterReply_open running declared replica deep waits]
  refine ⟨?_, ledEvent_ledgers s _ _ _, commit_regFrame_byte hc frame⟩
  exact (congrArg (bit · 4) (commit_frame_rd hc frame.toFrame _)).trans (bit_ledEvent s (by decide) _ _)

end Reply

/-! ### NOTICE_RELEASE -/

/-- An element that is not there counts zero, and stays so. -/
theorem nth_setNth_pred (xs : List Nat) (k : Nat) : nth (setNth xs k (nth xs k 0 - 1)) k 0 = nth xs k 0 - 1 := by
  induction xs generalizing k with
  | nil => rfl
  | cons x xs ih =>
    cases k with
    | zero => rfl
    | succ k => exact ih k

/-- The ledger's records with a reference on slot k less. -/
def unreferenced (s : State) (l k : Nat) : State :=
  s.setLed l { s.led l with refs := setNth (s.led l).refs k (nth (s.led l).refs k 0 - 1) }

theorem dropRef_eq (s : State) (l k : Nat) : s.dropRef l k = if s.slotRefs l k - 1 = 0 ∧ (unreferenced s l k).slotState l k = 4 then
    (unreferenced s l k).setSlotState l k 0 else unreferenced s l k := rfl

/-- The slot becomes FREE when it was RETIRED and lost its last reference (R121, R124); otherwise memory stays. -/
theorem dropRef_spec {s : State} {l k : Nat} (owner : (s.led l).owner = true) (clean : Claim.clean s (s.led l).hdr 4096) (hk : k < 32) :
    let t := s.dropRef l k
    t.mem = s.mem ∧ (t.led l).notices = (s.led l).notices ∧ t.slotRefs l k = s.slotRefs l k - 1
      ∧ (t.slotRefs l k = 0 → s.slotState l k = 4 → t.slotState l k = 0)
      ∧ (t.slotRefs l k ≠ 0 ∨ s.slotState l k ≠ 4 → ∀ a, t.byte a = s.byte a) := by
  have led : (unreferenced s l k).led l = { s.led l with refs := setNth (s.led l).refs k (nth (s.led l).refs k 0 - 1) } :=
    led_setLed s l (ledger_ne_of_owner owner)
  have refs : (unreferenced s l k).slotRefs l k = s.slotRefs l k - 1 := by
    unfold State.slotRefs
    rw [led]
    exact nth_setNth_pred _ k
  have hdr : ((unreferenced s l k).led l).hdr = (s.led l).hdr := by rw [led]
  have slot : (unreferenced s l k).slotState l k = s.slotState l k := by
    unfold State.slotState Ledger.recAddr
    rw [hdr]
    rfl
  have notices : ((unreferenced s l k).led l).notices = (s.led l).notices := by rw [led]
  have stored : Stored (unreferenced s l k) ((unreferenced s l k).setSlotState l k 0) ((s.led l).recAddr k) (toBytes 1 0) := by
    have kept : Claim.clean (unreferenced s l k) (s.led l).hdr 4096 := clean
    have same : ((unreferenced s l k).led l).recAddr k = (s.led l).recAddr k := by rw [led]; rfl
    unfold State.setSlotState
    rw [same]
    exact ledWrite_stored 0 kept (by unfold Ledger.recAddr; omega) (by unfold Ledger.recAddr; omega)
  have freed : ((unreferenced s l k).setSlotState l k 0).slotState l k = 0 := by
    unfold State.slotState
    rw [stored.led, led]
    exact stored.rawNat_same
  have lost : ((unreferenced s l k).setSlotState l k 0).slotRefs l k = s.slotRefs l k - 1 := by
    rw [← refs]
    unfold State.slotRefs
    rw [stored.led]
  dsimp only
  rw [dropRef_eq, slot]
  by_cases free : s.slotRefs l k - 1 = 0 ∧ s.slotState l k = 4
  · rw [if_pos free]
    exact ⟨stored.mem, (congrArg Ledger.notices (stored.led l)).trans notices, lost, fun _ _ => freed,
      fun h => absurd free (by rw [lost] at h; omega)⟩
  · rw [if_neg free]
    exact ⟨rfl, notices, refs, fun h h4 => absurd ⟨refs.symm.trans h, h4⟩ free, fun _ _ => rfl⟩

theorem fxNoticeRelease_owned {s : State} {dev shard l : Nat} (owned : s.ledOfShard shard true = some l) :
    fxNoticeRelease dev shard s = s.releaseNotice l dev := by
  rw [fxNoticeRelease, owned]

theorem owner_of_ledOfShard {s : State} {shard l : Nat} {b : Bool} (h : s.ledOfShard shard b = some l) : (s.led l).owner = b := by
  have found := List.find?_some h
  simp only [Bool.and_eq_true, beq_iff_eq] at found
  exact found.2

/-- A device that holds one notice releases it: the notice goes, and the reference with it (R137). -/
theorem releaseNotice_one {s : State} {l dev k st : Nat} (one : (s.led l).notices.filter (fun r => r.dev = dev) = [⟨dev, k, st⟩]) :
    s.releaseNotice l dev = (s.setLed l { s.led l with notices := (s.led l).notices.filter fun r => r.dev ≠ dev }).dropRef l k := by
  unfold State.releaseNotice
  dsimp only
  rw [one]
  rfl

theorem releaseNotice_spec {s : State} {l dev k st : Nat} (owner : (s.led l).owner = true)
    (one : (s.led l).notices.filter (fun r => r.dev = dev) = [⟨dev, k, st⟩]) (clean : Claim.clean s (s.led l).hdr 4096) (hk : k < 32) :
    let t := s.releaseNotice l dev
    t.mem = s.mem ∧ (t.led l).notices = (s.led l).notices.filter (fun r => r.dev ≠ dev) ∧ t.slotRefs l k = s.slotRefs l k - 1
      ∧ (t.slotRefs l k = 0 → s.slotState l k = 4 → t.slotState l k = 0)
      ∧ (t.slotRefs l k ≠ 0 ∨ s.slotState l k ≠ 4 → ∀ a, t.byte a = s.byte a) := by
  rw [releaseNotice_one one]
  generalize hu : s.setLed l { s.led l with notices := (s.led l).notices.filter fun r => r.dev ≠ dev } = u
  have led : u.led l = { s.led l with notices := (s.led l).notices.filter fun r => r.dev ≠ dev } := by
    rw [← hu]
    exact led_setLed s l (ledger_ne_of_owner owner)
  have dropped := dropRef_spec (s := u) (l := l) (by rw [led]; exact owner) (by rw [led, ← hu]; exact clean) hk
  have slot : u.slotState l k = s.slotState l k := by
    unfold State.slotState
    rw [led, ← hu]
    rfl
  have refs : u.slotRefs l k = s.slotRefs l k := by
    unfold State.slotRefs
    rw [led]
  have mem : u.mem = s.mem := by rw [← hu]; rfl
  have byte (a : Nat) : u.byte a = s.byte a := by rw [← hu]; rfl
  have notices : (u.led l).notices = (s.led l).notices.filter fun r => r.dev ≠ dev := by rw [led]
  dsimp only at dropped ⊢
  rw [slot, refs, mem, notices] at dropped
  simp only [byte] at dropped
  exact dropped

/-- Settles O31, command by command. -/
theorem replicaRegistration : Obligations.ReplicaRegistration := by
  unfold Obligations.ReplicaRegistration
  refine ⟨fun d h s hl hc => ⟨fun no => ?_, fun on adm => ⟨fun none => ?_, fun l owned => ⟨fun listed => ?_, fun new full => ?_,
      fun new room clean => ?_⟩⟩⟩,
    fun l s d hl hc due => ⟨fun past => ?_, fun early => ?_⟩, fun l r h s hl hc running declared replica deep waits clean => ?_,
    fun d h s l k st hl hc owned one clean hk => ?_⟩
  · exact exec_emit hl hc (exec_replicaRegister d h s) (fxReplicaRegister_denied no)
  · exact exec_emit hl hc (exec_replicaRegister d h s) (fxReplicaRegister_unowned on adm none)
  · exact exec_emit hl hc (exec_replicaRegister d h s) (fxReplicaRegister_listed on adm owned listed)
  · exact exec_emit hl hc (exec_replicaRegister d h s) (fxReplicaRegister_full on adm owned new full)
  · exact exec_replicaRegister_new hl hc on adm owned new room clean
  · have sent : exec (.registerRetry l) s = .next (s.commit (s.registerSend l.toNat)) := by
      rw [exec_registerRetry, live_eq hl hc, fxRegisterRetry_due due, if_pos past]
    exact ⟨sent, _, sent, register_mem_registerSend s _, regDue_registerSend s _,
      fun a => (commit_byte_eq hc (registerSend_mem s _) a).trans (registerSend_byte s _ a)⟩
  · rw [exec_registerRetry, live_eq hl hc, fxRegisterRetry_due due, if_neg (by omega), commit_self hc]
  · refine ⟨_, (exec_registerReply l r h s).trans (live_eq hl hc _), ?_, ?_, fun hr => ?_⟩
    · rintro rfl
      exact registerReply_accepted running declared replica deep waits hc h.isLt clean
    · rintro rfl
      exact registerReply_denied running declared replica deep waits hc
    · exact registerReply_refused running declared replica deep waits hc hr
  · obtain ⟨mem, notices, refs, freed, kept⟩ := releaseNotice_spec (owner_of_ledOfShard owned) one clean hk
    have slot := commit_slotState hc mem l k
    refine ⟨s.commit (s.releaseNotice l d.toNat), ?_, notices, refs, fun h0 h4 => slot.trans (freed h0 h4),
      fun h a => (commit_byte_eq hc mem a).trans (kept h a)⟩
    rw [exec_noticeRelease, live_eq hl hc, fxNoticeRelease_owned owned]

end Sys2Proof.Proofs
end

section
/-!
SUPPORT. What accesses to memory leave alone. `Aside B s t` says that from `s` to `t` only registers, the memory system, the error log,
the units of stages and bytes in `B` changed, and that the error log grew at most; a read changes no byte.
-/

namespace Sys2Proof.Proofs

open Sys2Proof Sys2Proof.Machine Sys2Proof.Laws

/-- The state without what an access to memory or a unit that goes on changes. -/
def apart (s : State) : State :=
  { s with
    jnl := [], errBuf := [], freeIx := 0, par := [], glitch := [], flits := [], stackWin := [], busLate := [], guestRun := none
    guestAsk := none, cores := [], engines := [] }

structure Aside (B : Nat → Prop) (s t : State) : Prop where
  rest : apart t = apart s
  log : s.errBuf <+: t.errBuf
  byte : ∀ a, ¬B a → t.byte a = s.byte a

namespace Aside

variable {B : Nat → Prop} {s t u : State}

theorem refl (s : State) : Aside B s s := ⟨rfl, List.prefix_rfl, fun _ _ => rfl⟩

theorem trans (h : Aside B s t) (k : Aside B t u) : Aside B s u :=
  ⟨k.rest.trans h.rest, h.log.trans k.log, fun a ha => (k.byte a ha).trans (h.byte a ha)⟩

theorem mono {C : Nat → Prop} (h : Aside C s t) (hc : ∀ a, C a → B a) : Aside B s t :=
  ⟨h.rest, h.log, fun a ha => h.byte a fun hca => ha (hc a hca)⟩

/-- An update of State that leaves the journal and the error log. -/
theorem keep (h : Aside B s t) (hr : apart u = apart t) (hj : u.jnl = t.jnl) (he : u.errBuf = t.errBuf) : Aside B s u := by
  have mem : (apart u).mem = (apart t).mem := congrArg State.mem hr
  have mem : u.mem = t.mem := mem
  exact h.trans ⟨hr, he ▸ List.prefix_rfl, fun a _ => by simp only [State.byte, hj, mem]⟩

theorem wr (h : Aside B s t) (a : Nat) (v : Word) : Aside B s (t.wr a v) := h.trans ⟨rfl, List.prefix_rfl, fun _ _ => rfl⟩

theorem addB (h : Aside B s t) (a hi lo n : Nat) : Aside B s (t.addB a hi lo n) := h.wr a _

theorem rawWrite (h : Aside B s t) {a : Nat} {bs : List Byte} (hb : ∀ b, a ≤ b → b < a + bs.length → B b) :
    Aside B s (t.rawWrite a bs) :=
  h.trans ⟨rfl, List.prefix_rfl, fun b hn => by rw [byte_rawWrite, dif_neg fun i => hn (hb b i.1 i.2)]⟩

theorem raise (h : Aside B s t) (lg blk evt en ev : Nat) (e : EvInfo) : Aside B s (t.raise lg blk evt en ev e) := by
  have written : Aside B s (t.wr evt (setBit (t.rd evt) ev)) := h.wr _ _
  unfold State.raise
  dsimp only
  split
  · exact written.trans ⟨rfl, List.prefix_append _ _, fun _ _ => rfl⟩
  · exact written

theorem ite {c : Prop} [Decidable c] (h : Aside B s t) (k : Aside B s u) : Aside B s (if c then t else u) := by
  split
  · exact h
  · exact k

theorem ite_snd {α : Type} {c : Prop} [Decidable c] {p q : α × State} (h : Aside B s p.2) (k : Aside B s q.2) :
    Aside B s (if c then p else q).2 := by
  split
  · exact h
  · exact k

theorem ite_snd_snd {α β : Type} {c : Prop} [Decidable c] {p q : α × β × State} (h : Aside B s p.2.2) (k : Aside B s q.2.2) :
    Aside B s (if c then p else q).2.2 := by
  split
  · exact h
  · exact k

theorem foldl {α : Type} {f : State → α → State} (h : Aside B s t) (hf : ∀ x t, Aside B t (f t x)) (l : List α) :
    Aside B s (l.foldl f t) := by
  induction l generalizing t with
  | nil => exact h
  | cons x l ih => exact ih (h.trans (hf x t))

variable (h : Aside B s t)
include h

theorem field {α : Type} (f : State → α) : f (apart t) = f (apart s) := congrArg f h.rest

theorem ledgers : t.ledgers = s.ledgers := h.field State.ledgers
theorem updEngines : t.updEngines = s.updEngines := h.field State.updEngines
theorem stages : t.stages = s.stages := h.field State.stages
theorem mbs : t.mbs = s.mbs := h.field State.mbs
theorem led (l : Nat) : t.led l = s.led l := by unfold State.led; rw [h.ledgers]
theorem updEng (v : Nat) : t.updEng v = s.updEng v := by unfold State.updEng; rw [h.updEngines]

end Aside

/-! ### The memory system -/

section Memory
variable {B : Nat → Prop} (s : State)

theorem parEvent_aside (blk : Nat) (os : Bool) (ev st : Nat) : Aside B s (s.parEvent blk os ev st) := by
  unfold State.parEvent
  exact .ite ((Aside.refl s).raise _ _ _ _ _ _) ((Aside.refl s).raise _ _ _ _ _ _)

theorem countReplays_aside (blk k : Nat) : Aside B s (s.countReplays blk k) := by
  unfold State.countReplays
  refine .ite (.ite (Aside.raise ?_ _ _ _ _ _ _) ?_) (.refl s)
  · exact (Aside.refl s).keep rfl rfl rfl
  · exact (Aside.refl s).keep rfl rfl rfl

theorem blkRegs_aside {t : State} (h : Aside B s t) (blk : Nat) {f g : State → Nat → State} (hf : ∀ k, Aside B t (f t k))
    (hg : ∀ n, Aside B t (g t n)) : Aside B s (t.blkRegs blk f g) := by
  unfold State.blkRegs
  exact .ite (h.trans (hf _)) (.ite (h.trans (hg _)) h)

theorem poisonBlock_aside (blk first : Nat) : Aside B s (s.poisonBlock blk first) := by
  have marked : Aside B s { s with par := s.par.set blk 0xFFFF 0 } := (Aside.refl s).keep rfl rfl rfl
  have counted := blkRegs_aside s marked blk
    (f := fun s st => ((s.addB (Reg.MEM_PAR_CNT st) 63 32 1).addB (Reg.MEM_CNT_WR st) 63 0 1).wr (Reg.MEM_PAR_LAST st)
      (w (ilvLocal blk + at_ 40 (ilvChannel blk) + at_ 44 (lowestWord first) + at_ 48 1)))
    (g := fun s n => (s.addB (Reg.MEM_OS_PAR n) 63 32 1).wr (Reg.MEM_OS_LAST n) (w (blk % 0x40000000 + at_ 28 1)))
    (fun _ => (((Aside.refl _).addB _ _ _ _).addB _ _ _ _).wr _ _) fun _ => ((Aside.refl _).addB _ _ _ _).wr _ _
  exact .ite (counted.trans (parEvent_aside _ _ _ _ _)) (.ite (counted.trans (parEvent_aside _ _ _ _ _)) counted)

theorem readOnce_aside (blk : Nat) : Aside B s (s.readOnce blk).2 := by
  have taken : Aside B s (if (s.glitch.get blk []).isEmpty then s
      else { s with glitch := s.glitch.set blk (s.glitch.get blk []).tail [] }) :=
    .ite (.refl s) ((Aside.refl s).keep rfl rfl rfl)
  exact .ite (taken.addB _ _ _ _) taken

theorem readBlock_aside (blk : Nat) : Aside B s (s.readBlock blk).2 := by
  have replayed (t : State) : Aside B t (t.blkRegs blk
      (fun s st => s.addB (Reg.MEM_PAR_CNT st) 31 0 1) (fun s n => s.addB (Reg.MEM_OS_PAR n) 31 0 1)) :=
    blkRegs_aside t (.refl t) blk (fun _ => (Aside.refl t).addB _ _ _ _) fun _ => (Aside.refl t).addB _ _ _ _
  have once := readOnce_aside (B := B) s blk
  unfold State.readBlock
  generalize s.readOnce blk = r1 at once ⊢
  obtain ⟨m1, s1⟩ := r1
  refine .ite_snd once (.ite_snd ?_ ?_)
  · exact .ite_snd (once.trans (parEvent_aside s1 blk true 1 St.poison))
      (.ite_snd (once.trans (parEvent_aside s1 blk false 2 St.poison)) once)
  · have twice := once.trans (readOnce_aside s1 blk)
    generalize s1.readOnce blk = r2 at twice ⊢
    obtain ⟨m2, s2⟩ := r2
    refine .ite_snd (twice.trans ((countReplays_aside s2 blk 1).trans (replayed _))) ?_
    have thrice := twice.trans (readOnce_aside s2 blk)
    generalize s2.readOnce blk = r3 at thrice ⊢
    obtain ⟨m3, s3⟩ := r3
    have counted := thrice.trans (countReplays_aside s3 blk 2)
    exact .ite_snd (counted.trans (replayed _)) (counted.trans (poisonBlock_aside _ blk m1))

theorem readBlocks_aside (bs : List Nat) : Aside B s (s.readBlocks bs).2 := by
  induction bs generalizing s with
  | nil => exact .refl s
  | cons b bs ih => exact (readBlock_aside s b).trans (ih _)

theorem countPoison_aside (st : Nat) (bs : List Nat) : Aside B s (s.countPoison st bs) := by
  unfold State.countPoison
  exact .ite ((Aside.refl s).foldl (fun _ t => (Aside.refl t).addB _ _ _ _) _) (.refl s)

theorem partRead_aside (a n : Nat) : Aside B s (s.partRead a n).2.2 :=
  .ite_snd_snd (readBlocks_aside s _) (readBlocks_aside s _)

theorem flitNext_aside : Aside B s s.flitNext.2 := by
  unfold State.flitNext
  split
  · exact .refl s
  · exact (Aside.refl s).keep rfl rfl rfl

theorem flitEvent_aside (a : Nat) : Aside B s (s.flitEvent a) := (Aside.refl s).raise _ _ _ _ _ _

theorem flitWrite_aside (a n k : Nat) : Aside B s (s.flitWrite a n k) := by
  have marked : Aside B s (s.memPoison (a + 64 * k) (min 64 (n - 64 * k))) := by
    refine (Aside.refl s).foldl (fun b t => ?_) _
    exact (Aside.refl t).keep rfl rfl rfl
  exact .ite (marked.trans (flitEvent_aside _ a)) (.refl s)

theorem flitRead_aside (a n k : Nat) : Aside B s (s.flitRead a n k).2 := .ite_snd (flitEvent_aside s a) (.refl s)

theorem readFlit_aside (a n st : Nat) (bs : List Byte) : Aside B s (s.readFlit a n st bs).2.2 := by
  have next := flitNext_aside (B := B) s
  unfold State.readFlit
  generalize s.flitNext = r at next ⊢
  obtain ⟨_ | k, t⟩ := r
  · exact next
  · exact .ite_snd_snd (next.trans (flitRead_aside t a n k)) (next.trans (flitRead_aside t a n k))

theorem writeFlit_aside (a n : Nat) : Aside B s (s.writeFlit a n) := by
  have next := flitNext_aside (B := B) s
  unfold State.writeFlit
  generalize s.flitNext = r at next ⊢
  obtain ⟨_ | k, t⟩ := r
  · exact next
  · exact next.trans (flitWrite_aside t a n k)

theorem memPut_aside (a : Nat) (bs : List Byte) (hb : ∀ b, a ≤ b → b < a + bs.length → B b) : Aside B s (s.memPut a bs) := by
  refine ((Aside.refl s).foldl (fun b t => .ite (Aside.addB ?_ _ _ _ _) ?_) _).rawWrite hb
  · exact (Aside.refl t).keep rfl rfl rfl
  · exact (Aside.refl t).keep rfl rfl rfl

/-- A write changes bytes of its range alone, whatever it meets (R304). -/
theorem memWrite_aside (a : Nat) (bs : List Byte) (hb : ∀ b, a ≤ b → b < a + bs.length → B b) : Aside B s (s.memWrite a bs).2 := by
  unfold State.memWrite
  refine .ite_snd (countPoison_aside s St.poison _) ?_
  have merged : Aside B s (s.mergeRead a bs.length).2 := readBlocks_aside s _
  generalize s.mergeRead a bs.length = r at merged ⊢
  obtain ⟨st, t⟩ := r
  exact .ite_snd (merged.trans (countPoison_aside t _ _)) (merged.trans ((memPut_aside t a bs hb).trans (writeFlit_aside _ _ _)))

theorem readParts_aside (ps : List (Nat × Nat)) : Aside B s (s.readParts ps).2.2.2 := by
  induction ps generalizing s with
  | nil => exact .refl s
  | cons p ps ih => exact (partRead_aside s p.1 p.2).trans (ih _)

theorem mergeParts_aside (ps : List (Nat × Nat)) : Aside B s (s.mergeParts ps).2.2 := by
  induction ps generalizing s with
  | nil => exact .refl s
  | cons p ps ih => exact (readBlocks_aside s _).trans (ih _)

theorem writeParts_aside (ps : List (Nat × Nat)) (bs : List Byte) : Aside (fun _ => True) s (s.writeParts ps bs) := by
  induction ps generalizing s bs with
  | nil => exact .refl s
  | cons p ps ih => exact (memPut_aside s p.1 _ fun _ _ _ => trivial).trans (ih _ _)

end Memory

/-! ### Accesses of a unit -/

section Access
variable {B : Nat → Prop} (s : State)

theorem guestTake_aside (q : GuestAsk) : Aside B s (s.guestTake q).2.2 := by
  unfold State.guestTake
  dsimp only
  split
  · exact (Aside.refl s).keep rfl rfl rfl
  · exact (Aside.refl s).keep rfl rfl rfl
  · exact .refl s

theorem guestRead_aside (m : Nat) (ps : List (Nat × Nat)) : Aside B s (s.guestRead m ps).2.2 := by
  induction ps generalizing s with
  | nil => exact .refl s
  | cons p ps ih => exact (guestTake_aside s _).trans (ih _)

theorem guestPut_aside (m : Nat) (ps : List (Nat × Nat)) (bs : List Byte) : Aside B s (s.guestPut m ps bs).2 := by
  induction ps generalizing s bs with
  | nil => exact .refl s
  | cons p ps ih => exact (guestTake_aside s _).trans (ih _ _)

theorem mbxDeny_aside (m k : Nat) : Aside B s (s.mbxDeny m k).2 := (Aside.refl s).raise _ _ _ _ _ _

theorem readStatus_aside (m src : Nat) (h : RegHit) : Aside B s (s.readStatus m src h).2 := by
  unfold State.readStatus
  split
  case h_12 | h_13 | h_14 | h_15 => exact .ite_snd (.refl s) (mbxDeny_aside s _ _)
  all_goals exact .refl s

theorem regValue_aside (h : RegHit) (a : Nat) : Aside B s (s.regValue h a).2 := by
  have measured (a hi lo limit : Nat) : Aside B s (s.freeField a hi lo limit).2 :=
    .ite_snd (.refl s) ((Aside.refl s).keep rfl rfl rfl)
  unfold State.regValue
  refine .ite_snd (.refl s) ?_
  dsimp only
  split
  case h_19 => exact measured _ _ _ _
  all_goals exact .refl s

theorem ctlLoad_aside (m a n : Nat) : Aside B s (s.ctlLoad m a n).2.2 := by
  unfold State.ctlLoad
  split
  · exact .refl s
  next h _ =>
    have status := readStatus_aside (B := B) s m s.devId h
    generalize s.readStatus m s.devId h = r at status ⊢
    obtain ⟨st, t⟩ := r
    exact .ite_snd_snd status (status.trans (regValue_aside t h _))

theorem ctlStore_aside (m a : Nat) (bs : List Byte) : Aside B s (s.ctlStore m a bs).2 := by
  unfold State.ctlStore
  split
  · exact .refl s
  next h _ =>
    refine .ite_snd (.refl s) ?_
    have status : Aside B s (if h.row.writer = .ro ∨ h.row.writer = .mailbox then s.readStatus m s.devId h else (St.ok, s)).2 :=
      .ite_snd (readStatus_aside s m s.devId h) (.refl s)
    generalize (if h.row.writer = .ro ∨ h.row.writer = .mailbox then s.readStatus m s.devId h else (St.ok, s)) = r at status ⊢
    obtain ⟨st, t⟩ := r
    exact .ite_snd status (status.keep rfl rfl rfl)

/-- A read changes no byte. -/
theorem load_aside (m a n : Nat) : Aside B s (s.load m a n).2.2 := by
  unfold State.load
  refine .ite_snd_snd (.refl s) (.ite_snd_snd (.refl s) ?_)
  split
  · exact ctlLoad_aside s m a n
  · exact guestRead_aside s m _
  · exact (readParts_aside s _).trans ((countPoison_aside _ _ _).trans (readFlit_aside _ _ _ _ _))

theorem store_aside (m a : Nat) (bs : List Byte) : Aside (fun _ => True) s (s.store m a bs).2 := by
  unfold State.store
  refine .ite_snd (.refl s) ?_
  split
  · exact ctlStore_aside s m a bs
  · exact guestPut_aside s m _ bs
  · refine .ite_snd (countPoison_aside s St.poison _) ?_
    have merged := mergeParts_aside (B := fun _ => True) s (s.parts a bs.length)
    generalize s.mergeParts (s.parts a bs.length) = r at merged ⊢
    obtain ⟨st, ks, t⟩ := r
    exact .ite_snd (merged.trans (countPoison_aside t _ _))
      (merged.trans ((writeParts_aside t _ _).trans (writeFlit_aside _ _ _)))

end Access

end Sys2Proof.Proofs
end

section
/-!
SUPPORT. A commit notice at a replica, and the fetch that it starts (O32).
-/

namespace Sys2Proof.Proofs

open Sys2Proof Sys2Proof.Machine Sys2Proof.Laws

/-! ### A write of a header, whatever it meets -/

theorem memWrite_frame (s : State) (a : Nat) (bs : List Byte) : Frame memReg s (s.memWrite a bs).2 := by
  unfold State.memWrite
  refine .ite_snd (fun _ => countPoison_frame s St.poison _) fun _ => ?_
  have merged := mergeRead_frame s a bs.length
  generalize s.mergeRead a bs.length = r at merged ⊢
  obtain ⟨st, t⟩ := r
  exact .ite_snd (fun _ => merged.trans (countPoison_frame t _ _))
    fun _ => merged.trans ((memPut_frame t a bs).trans (writeFlit_frame _ _ _))

theorem setSlotState_frame (s : State) (l k st : Nat) : Frame memReg s (s.setSlotState l k st) := memWrite_frame s _ _

theorem setSlotState_aside (s : State) (l k st : Nat) : Aside (fun _ => True) s (s.setSlotState l k st) :=
  memWrite_aside s _ _ fun _ _ _ => trivial

/-! ### A fetch that ends -/

section FetchDrop
variable {s : State} {l : Nat} {f : Fetch} (h : (s.led l).fetch = some f)
include h

/-- The transfers end, the slot is freed where it was claimed, and the fetch is no more. -/
theorem fetchDrop_some (free : Bool) : ∃ u, s.fetchDrop l free = u.setLed l { u.led l with fetch := none, waiting := false }
    ∧ Frame memReg s u ∧ Aside (fun _ => True) (s.dropXfers (.led l)) u := by
  refine ⟨if free && !f.waiting then (s.dropXfers (.led l)).setSlotState l f.slot 0 else s.dropXfers (.led l), ?_, ?_, ?_⟩
  · unfold State.fetchDrop
    rw [h]
  · have dropped : Frame memReg s (s.dropXfers (.led l)) := (Frame.refl s).keep rfl rfl rfl
    exact .ite (fun _ => dropped.trans (setSlotState_frame _ _ _ _)) fun _ => dropped
  · exact .ite (setSlotState_aside _ l f.slot 0) (.refl _)

theorem fetchDrop_frame (free : Bool) : Frame memReg s (s.fetchDrop l free) := by
  obtain ⟨u, eq, frame, -⟩ := fetchDrop_some h free
  rw [eq]
  exact frame.keep rfl rfl rfl

theorem led_fetchDrop (ne : ({ s.led l with fetch := none, waiting := false } : Ledger) ≠ {}) (free : Bool) :
    (s.fetchDrop l free).led l = { s.led l with fetch := none, waiting := false } := by
  obtain ⟨u, eq, -, aside⟩ := fetchDrop_some h free
  have led : u.led l = s.led l := aside.led l
  rw [eq, led, led_setLed u l ne]

end FetchDrop

/-! ### COMMIT_NOTICE -/

section Notice
variable {b : List Byte} {s : State} {l : Nat} (on : s.jobOn = true) (replica : s.ledOfShard (leAt b 0 4) false = some l)
  (deep : 2 ≤ (s.led l).depth) (sender : leAt b 4 4 = (s.led l).ownerDev)
include on replica deep sender

/-- A notice from the owner of a replica ledger is not ignored. -/
theorem fxCommitNotice_heard : fxCommitNotice b s =
    if leAt b 8 8 / 256 ≤ s.ledStep l then s.noticeRelease l
    else if (s.led l).damaged.isSome || s.fetchNewer l (leAt b 8 8 / 256) then s
    else (s.fetchDrop l true).fetchClaim l ⟨0, w (leAt b 8 8), w (leAt b 16 8), w (leAt b 24 8), 0, false, 0⟩ := by
  unfold fxCommitNotice
  rw [replica]
  refine if_neg ?_
  rw [on, sender]
  simp only [Bool.not_true, Bool.false_eq_true, ne_eq, not_true, false_or, or_false]
  omega

theorem fxCommitNotice_late (h : leAt b 8 8 / 256 ≤ s.ledStep l) : fxCommitNotice b s = s.noticeRelease l := by
  rw [fxCommitNotice_heard on replica deep sender, if_pos h]

section Newer
variable (h : s.ledStep l < leAt b 8 8 / 256)
include h

theorem fxCommitNotice_fetched (newer : s.fetchNewer l (leAt b 8 8 / 256) = true) : fxCommitNotice b s = s := by
  rw [fxCommitNotice_heard on replica deep sender, if_neg (by omega), newer, Bool.or_true, if_pos rfl]

theorem fxCommitNotice_newer (sound : (s.led l).damaged = none) (newer : s.fetchNewer l (leAt b 8 8 / 256) = false) : fxCommitNotice b s
    = (s.fetchDrop l true).fetchClaim l ⟨0, w (leAt b 8 8), w (leAt b 16 8), w (leAt b 24 8), 0, false, 0⟩ := by
  rw [fxCommitNotice_heard on replica deep sender, if_neg (by omega), newer, sound]
  rfl

end Newer

end Notice

/-! ### The claim of a slot -/

section Claim
variable {u : State} {l : Nat} (f : Fetch)

theorem fetchClaim_free {k : Nat} (pend : u.pendSlot l = none) (free : u.freeSlot l = some k) :
    u.fetchClaim l f = (u.setSlotState l k 1).fetchRead l { f with slot := k } := by
  unfold State.fetchClaim State.claimSlot
  rw [pend, free]
  rfl

theorem fetchClaim_waits (h : u.pendSlot l ≠ none ∨ u.freeSlot l = none) : u.fetchClaim l f =
    let v := if (u.led l).waiting then u else u.ledEvent 3 0 (some l)
    v.setLed l { v.led l with fetch := some { f with waiting := true }, waiting := true } := by
  unfold State.fetchClaim State.claimSlot
  rcases h with pend | free
  · obtain ⟨k, pend⟩ := Option.ne_none_iff_exists'.1 pend
    rw [pend]
  · rw [free]
    cases u.pendSlot l <;> rfl

theorem fetch_fetchClaim (h : u.pendSlot l ≠ none ∨ u.freeSlot l = none) :
    ((u.fetchClaim l f).led l).fetch = some { f with waiting := true } := by
  rw [fetchClaim_waits f h]
  refine congrArg Ledger.fetch (led_setLed _ l ?_)
  exact fun e => Option.some_ne_none _ (congrArg Ledger.fetch e)

/-- A fetch that waits for a slot sets UPDWAIT (R126). -/
theorem updwait_fetchClaim (h : u.pendSlot l ≠ none ∨ u.freeSlot l = none) (new : (u.led l).waiting = false) :
    bit ((u.fetchClaim l f).rd (Reg.LED_EVT 0)) 3 = true := by
  rw [fetchClaim_waits f h]
  dsimp only
  rw [new, if_neg Bool.false_ne_true, setLed_rd]
  exact bit_ledEvent u (by decide) _ _

end Claim

/-! ### REPLICA_FETCH_DONE -/

theorem fetchDone_failed {s : State} {l st : Nat} {f : Fetch} (h : st ≠ 0) : s.fetchDone l f st = s.fetchDrop l true := if_pos h

section Done
variable {s : State} {l : Nat} {f : Fetch} (fetch : (s.led l).fetch = some f) (open_ : f.waiting = false)
include fetch open_

theorem fxReplicaFetchDone_ended {st : Nat} (ended : (s.xfer f.xfer).ended = some st) :
    fxReplicaFetchDone l s = s.fetchDone l f st := by
  rw [fxReplicaFetchDone, fetch]
  dsimp only
  rw [open_, if_neg Bool.false_ne_true, ended]

end Done

section Loaded
variable {s u : State} {l : Nat} {f : Fetch} {bs : List Byte}
  (load : s.load 0xE0 ((s.led l).slotAddr f.slot) (s.led l).bytes = (St.ok, bs, u))
include load

theorem fetchDone_loaded : s.fetchDone l f 0 =
    if crc64 bs = f.fprint.toNat then
      (((u.slotWritten l f.slot (f.commit.toNat / 256) (crc64 bs)).commitSlot l f.slot).fetchDrop l false).noticeRelease l
    else if f.tries < 2 then ((u.addB (Reg.LED_FETCH 0) 47 32 1).dropXfers (.led l)).fetchRead l { f with tries := f.tries + 1 }
    else (((u.fetchDrop l true).noticeRelease l).addB (Reg.LED_FETCH 0) 63 48 1).ledEvent 1 St.fprint (some l) := by
  unfold State.fetchDone
  rw [if_neg (by decide)]
  dsimp only
  rw [load]
  exact if_neg fun h => h rfl

/-- The third mismatch: the fetch is given up with FPRINT, and the notice is released (R138). -/
theorem fetchDone_givenUp (fetch : (s.led l).fetch = some f) (deep : 2 ≤ (s.led l).depth) (wrong : crc64 bs ≠ f.fprint.toNat)
    (last : 2 ≤ f.tries) : (s.fetchDone l f 0).regs = s.regs ∧ bit ((s.fetchDone l f 0).rd (Reg.LED_EVT 0)) 1 = true
      ∧ (s.mayOriginate = true → .release (s.led l).ownerDev (s.led l).shard ∈ (s.fetchDone l f 0).out) := by
  have kept : Frame accessReg s u := by
    have frame := load_frame s 0xE0 ((s.led l).slotAddr f.slot) (s.led l).bytes
    rw [load] at frame
    exact frame
  have led : u.led l = s.led l := by
    have aside := load_aside (B := fun _ => False) s 0xE0 ((s.led l).slotAddr f.slot) (s.led l).bytes
    rw [load] at aside
    exact aside.led l
  have dropped : Frame accessReg s (u.fetchDrop l true) :=
    kept.trans ((fetchDrop_frame (by rw [led]; exact fetch) true).mono fun _ => .inl)
  have sent := noticeRelease_frame (u.fetchDrop l true) l
  rw [fetchDone_loaded load, if_neg wrong, if_neg (by omega)]
  refine ⟨?_, bit_ledEvent _ (by decide) _ _, fun may => ?_⟩
  · rw [(ledEvent_regFrame _ _ _ _).regs]
    exact sent.regs.trans dropped.regs
  · have still : (u.fetchDrop l true).mayOriginate = true :=
      (congrArg (bit · 63) (dropped.rd Reg.RTE_SELF (by unfold accessReg memReg; decide))).trans may
    have same := led_fetchDrop (s := u) (by rw [led]; exact fetch)
      (ledger_ne_of_depth (by rw [led]; exact deep)) true
    have shown := release_mem_noticeRelease l still
    rw [same, led] at shown
    rw [ledEvent_out]
    exact shown

end Loaded

/-- Settles O32, by the branches of the notice, of the claim and of the end of the read. -/
theorem commitNotices : Obligations.CommitNotices := by
  unfold Obligations.CommitNotices
  refine ⟨fun b s l hl hc on replica deep sender => ⟨fun late => ?_, fun newer sound => ⟨fun fetched => ?_, fun unfetched => ?_⟩⟩,
    fun u l f => ⟨fun k pend free => fetchClaim_free f pend free, fun h => ⟨fetch_fetchClaim f h, updwait_fetchClaim f h⟩⟩,
    fun l s f hl hc fetch open_ deep => ⟨fun st ended failed => ?_, fun bs u ended load => ⟨fun good => ?_, fun wrong again => ?_,
      fun wrong last => ?_⟩⟩⟩
  · have released : exec (.commitNotice b) s = .next (s.commit (s.noticeRelease l)) := by
      rw [exec_commitNotice, live_eq hl hc, fxCommitNotice_late on replica deep sender late]
    exact ⟨released, _, released, release_mem_noticeRelease l, noticeRelease_ledgers s l,
      fun a => (commit_byte_eq hc (noticeRelease_frame s l).mem a).trans (noticeRelease_byte s l a)⟩
  · rw [exec_commitNotice, live_eq hl hc, fxCommitNotice_fetched on replica deep sender newer fetched, commit_self hc]
  · rw [exec_commitNotice, live_eq hl hc, fxCommitNotice_newer on replica deep sender newer sound unfetched]
  · rw [exec_replicaFetchDone, live_eq hl hc, fxReplicaFetchDone_ended fetch open_ ended, fetchDone_failed failed]
  · rw [exec_replicaFetchDone, live_eq hl hc, fxReplicaFetchDone_ended fetch open_ ended, fetchDone_loaded load, if_pos good]
  · rw [exec_replicaFetchDone, live_eq hl hc, fxReplicaFetchDone_ended fetch open_ ended, fetchDone_loaded load, if_neg wrong,
      if_pos again]
  · obtain ⟨regs, event, shown⟩ := fetchDone_givenUp load fetch deep wrong last
    refine ⟨s.commit (s.fetchDone l.toNat f 0), ?_, (congrArg (bit · 1) (commit_rd_eq hc regs _)).trans event, shown⟩
    rw [exec_replicaFetchDone, live_eq hl hc, fxReplicaFetchDone_ended fetch open_ ended]

end Sys2Proof.Proofs
end

section
/-!
SUPPORT. A milestone counter advances and releases its waiters (R282): registers of the counters, of the cores and of the matrix engines
change, and those units go on.
-/

namespace Sys2Proof.Proofs

open Sys2Proof Sys2Proof.Machine Sys2Proof.Laws

/-- From `s` to `t` units went on and registers in `R` changed: memory, the ledgers, the update engines and the stages stay. -/
structure GoesOn (R : Nat → Prop) (s t : State) : Prop extends Frame R s t, Aside (fun _ => False) s t

namespace GoesOn

variable {R : Nat → Prop} {s t u : State}

theorem refl (s : State) : GoesOn R s s := ⟨.refl s, .refl s⟩

theorem trans (h : GoesOn R s t) (k : GoesOn R t u) : GoesOn R s u := ⟨h.toFrame.trans k.toFrame, h.toAside.trans k.toAside⟩

theorem mono {Q : Nat → Prop} (h : GoesOn Q s t) (hq : ∀ a, Q a → R a) : GoesOn R s t := ⟨h.toFrame.mono hq, h.toAside⟩

theorem wr {a : Nat} (h : GoesOn R s t) (ha : R a) (v : Word) : GoesOn R s (t.wr a v) := ⟨h.toFrame.wr ha v, h.toAside.wr a v⟩

theorem wrB {a : Nat} (h : GoesOn R s t) (ha : R a) (hi lo n : Nat) : GoesOn R s (t.wrB a hi lo n) := h.wr ha _

theorem addB {a : Nat} (h : GoesOn R s t) (ha : R a) (hi lo n : Nat) : GoesOn R s (t.addB a hi lo n) := h.wr ha _

theorem raise {evt : Nat} (h : GoesOn R s t) (he : R evt) (lg blk en ev : Nat) (e : EvInfo) :
    GoesOn R s (t.raise lg blk evt en ev e) := ⟨h.toFrame.raise he _ _ _ _ _, h.toAside.raise _ _ _ _ _ _⟩

/-- An update of State that only units see. -/
theorem keep (h : GoesOn R s t) (ha : apart u = apart t) (hj : u.jnl = t.jnl) (he : u.errBuf = t.errBuf) : GoesOn R s u := by
  have rest : (apart u).regs = (apart t).regs ∧ (apart u).mem = (apart t).mem := by rw [ha]; exact ⟨rfl, rfl⟩
  exact ⟨h.toFrame.keep hj rest.1 rest.2, h.toAside.keep ha hj he⟩

theorem ite {c : Prop} [Decidable c] (h : GoesOn R s t) (k : GoesOn R s u) : GoesOn R s (if c then t else u) := by
  split
  · exact h
  · exact k

theorem foldl {α : Type} {f : State → α → State} (hf : ∀ t x, GoesOn R t (f t x)) (l : List α) (s : State) : GoesOn R s (l.foldl f s) := by
  induction l generalizing s with
  | nil => exact .refl s
  | cons x l ih => exact (hf s x).trans (ih _)

end GoesOn

/-- The registers of the matrix engines, of the general cores and of the counters of a die: each die's first 0x380000 bytes. -/
def unitReg (a : Nat) : Prop := ctlBase 0 ≤ a ∧ (a - ctlBase 0) % 0x1000000 < 0x380000

theorem unitReg_of_offset {n o : Nat} (h : o < 0x380000) : unitReg (ctlBase n + o) := by
  unfold unitReg ctlBase
  omega

theorem unitReg_gcStatus (c : Nat) : unitReg (gcReg Reg.GC_STATUS c) := by
  unfold gcReg Reg.GC_STATUS
  rw [Nat.add_assoc]
  exact unitReg_of_offset (by omega)

theorem unitReg_gcPc (c : Nat) : unitReg (gcReg Reg.GC_PC c) := by
  unfold gcReg Reg.GC_PC
  rw [Nat.add_assoc]
  exact unitReg_of_offset (by omega)

theorem unitReg_gcInstr (c : Nat) : unitReg (gcReg Reg.GC_CNT_INSTR c) := by
  unfold gcReg Reg.GC_CNT_INSTR
  rw [Nat.add_assoc]
  exact unitReg_of_offset (by omega)

theorem unitReg_mxStatus (e : Nat) : unitReg (mxReg Reg.MX_STATUS e) := by
  unfold mxReg Reg.MX_STATUS
  rw [Nat.add_assoc]
  exact unitReg_of_offset (by omega)

theorem unitReg_mxInstr (e : Nat) : unitReg (mxReg Reg.MX_CNT_INSTR e) := by
  unfold mxReg Reg.MX_CNT_INSTR
  rw [Nat.add_assoc]
  exact unitReg_of_offset (by omega)

theorem unitReg_ms (m : Nat) : unitReg (msReg m) := by
  unfold msReg Reg.SYN_MS
  rw [Nat.add_assoc]
  exact unitReg_of_offset (by omega)

section Release
variable (s : State)

theorem msAdvance_goesOn (m amount : Nat) : GoesOn unitReg s (s.msAdvance m amount) := by
  unfold State.msAdvance
  refine .ite (.ite ?_ ?_) (.refl s)
  · exact ((GoesOn.refl s).wr (unitReg_ms m) _).raise (unitReg_of_offset (by decide)) _ _ _ _ _
  · exact (GoesOn.refl s).wr (unitReg_ms m) _

theorem setCore_goesOn (R : Nat → Prop) (c : Nat) (g : Core) : GoesOn R s (s.setCore c g) := (GoesOn.refl s).keep rfl rfl rfl

theorem setEng_goesOn (R : Nat → Prop) (e : Nat) (g : Engine) : GoesOn R s (s.setEng e g) := (GoesOn.refl s).keep rfl rfl rfl

theorem setGcState_goesOn (c st : Nat) : GoesOn unitReg s (s.setGcState c st) := (setCore_goesOn s _ _ _).wrB (unitReg_gcStatus c) _ _ _

theorem gcRetire_goesOn (c pc : Nat) : GoesOn unitReg s (s.gcRetire c pc) := by
  have counted : GoesOn unitReg s ((s.wr (gcReg Reg.GC_PC c) (w pc)).addB (gcReg Reg.GC_CNT_INSTR c) 63 0 1) :=
    ((GoesOn.refl s).wr (unitReg_gcPc c) _).addB (unitReg_gcInstr c) _ _ _
  exact counted.trans ((setCore_goesOn _ _ _ _).trans (setGcState_goesOn _ _ _))

theorem gcDone_goesOn (c rd : Nat) (v : Word) : GoesOn unitReg s (s.gcDone c rd v) :=
  (setCore_goesOn s _ _ _).trans (gcRetire_goesOn _ _ _)

theorem mxNext_goesOn (e : Nat) : GoesOn unitReg s (s.mxNext e) := by
  have fetched : GoesOn unitReg s ((s.setEng e { s.eng e with wait := .none }).wrB (mxReg Reg.MX_STATUS e) 28 16
      ((s.setEng e { s.eng e with wait := .none }).rdB (mxReg Reg.MX_STATUS e) 28 16 + 1)) :=
    (setEng_goesOn s _ _ _).wrB (unitReg_mxStatus e) _ _ _
  exact (fetched.wrB (unitReg_mxStatus e) 2 0 1).addB (unitReg_mxInstr e) 63 0 1

theorem releaseCore_goesOn (c : Nat) : GoesOn unitReg s (s.releaseUnit (.core c)) :=
  .ite (.refl s) ((gcDone_goesOn s c 0 0).trans (setCore_goesOn _ _ _ _))

theorem releaseEngine_goesOn (e : Nat) : GoesOn unitReg s (s.releaseUnit (.engine e)) := .ite (.refl s) (mxNext_goesOn s e)

theorem msRelease_goesOn : GoesOn unitReg s s.msRelease := by
  unfold State.msRelease
  refine (GoesOn.foldl (fun t e => ?_) _ s).trans (.foldl (fun t e => ?_) _ _)
  · split
    · exact .ite (releaseCore_goesOn t _) (.refl t)
    · exact .refl t
  · split
    · exact .ite (releaseEngine_goesOn t _) (.refl t)
    · exact .refl t

theorem msAdd_goesOn (m amount : Nat) : GoesOn unitReg s (s.msAdd m amount) := (msAdvance_goesOn s m amount).trans (msRelease_goesOn _)

/-- UPD_DONE's counter advances (R247). -/
theorem trigEnded_goesOn (n : Nat) : GoesOn unitReg s (s.trigEnded n) := .ite (msAdd_goesOn s _ _) (.refl s)

end Release

end Sys2Proof.Proofs
end

section
/-!
SUPPORT. The operations of an update engine (R126, R130, R243, R247): claiming a slot, going on, ending, failing; and what its run reads and
writes.
-/

namespace Sys2Proof.Proofs

open Sys2Proof Sys2Proof.Machine Sys2Proof.Laws

/-! ### The engine's record -/

/-- From `s` to `t` update engine v became `e`, units went on and registers in `R` changed. -/
structure EngineSet (R : Nat → Prop) (v : Nat) (e : UpdEngine) (s t : State) : Prop where
  frame : Frame R s t
  aside : Aside (fun _ => False) (s.setUpdEng v e) t

namespace EngineSet

variable {R : Nat → Prop} {v : Nat} {e : UpdEngine} {s t u : State}

theorem of (h : GoesOn R s t) : EngineSet R v e s (t.setUpdEng v e) where
  frame := h.toFrame.keep rfl rfl rfl
  aside := ⟨congrArg (fun x => x.setUpdEng v e) h.rest, h.log, h.byte⟩

theorem goesOn (h : EngineSet R v e s t) (k : GoesOn R t u) : EngineSet R v e s u := ⟨h.frame.trans k.toFrame, h.aside.trans k.toAside⟩

theorem wr {a : Nat} (h : EngineSet R v e s t) (ha : R a) (x : Word) : EngineSet R v e s (t.wr a x) :=
  h.goesOn ((GoesOn.refl t).wr ha x)

theorem wrB {a : Nat} (h : EngineSet R v e s t) (ha : R a) (hi lo n : Nat) : EngineSet R v e s (t.wrB a hi lo n) := h.wr ha _

theorem led (h : EngineSet R v e s t) (l : Nat) : t.led l = s.led l := h.aside.led l

theorem byte (h : EngineSet R v e s t) (a : Nat) : t.byte a = s.byte a := h.aside.byte a id

theorem updEng (h : EngineSet R v e s t) (he : e ≠ {}) (x : Nat) : t.updEng x = if x = v then e else s.updEng x := by
  rw [h.aside.updEng]
  exact get_set_ne _ _ _ he

end EngineSet

/-- The registers of update engine v that its going on and its end write, and those of the units that the end releases. -/
def endReg (v a : Nat) : Prop :=
  unitReg a ∨ a = updReg Reg.UPD_STATUS v ∨ a = updReg Reg.UPD_CUR v ∨ a = updReg Reg.UPD_PROGRESS v ∨ a = updReg Reg.UPD_LAST v
    ∨ a = updReg Reg.UPD_CNT_UPDATES v ∨ a = updReg Reg.UPD_CNT_ELEMS v

section Engine
variable {s : State} {v : Nat} {g : Trig}

theorem updTo_set (s : State) (v d : Nat) :
    EngineSet (endReg v) v { s.updEng v with passes := max (s.updEng v).passes d } s (s.updTo v d) := by
  have counted : GoesOn (endReg v) s (s.addB (updReg Reg.UPD_CNT_ELEMS v) 63 0 (d - (s.updEng v).passes)) :=
    (GoesOn.refl s).addB (by unfold endReg; tauto) _ _ _
  exact ((EngineSet.of counted).wr (by unfold endReg; tauto) _).wrB (by unfold endReg; tauto) _ _ _

theorem updEnd_set (h : (s.updEng v).trig = some g) (st : Nat) : EngineSet (endReg v) v { ran := true } s (s.updEnd v st) := by
  unfold State.updEnd
  rw [h]
  have counted (x : Word) : GoesOn (endReg v) s ((s.wr (updReg Reg.UPD_LAST v) x).addB (updReg Reg.UPD_CNT_UPDATES v) 63 0 1) :=
    ((GoesOn.refl s).wr (by unfold endReg; tauto) _).addB (by unfold endReg; tauto) _ _ _
  exact ((((EngineSet.of (counted _)).wr (by unfold endReg; tauto) 0).wr (by unfold endReg; tauto) 0).wr (by unfold endReg; tauto) _).goesOn
    ((trigEnded_goesOn _ _).mono fun _ => .inl)

theorem updEvent_goesOn (s : State) (v ev st : Nat) : GoesOn (· = updReg Reg.UPD_EVT v) s (s.updEvent v ev st) :=
  GoesOn.raise (R := (· = updReg Reg.UPD_EVT v)) (.refl s) rfl _ _ _ _ _

theorem bit_updEvent (s : State) (v : Nat) {ev : Nat} (h : ev < 64) (st : Nat) :
    bit ((s.updEvent v ev st).rd (updReg Reg.UPD_EVT v)) ev = true :=
  (congrArg (bit · ev) (rd_raise s _ _ _ _ _ _)).trans (bit_setBit _ h)

end Engine

/-! ### A failed update -/

/-- The registers that a shard's end as not finite writes (R131). -/
def nonfiniteReg (a : Nat) : Prop := a = Reg.LED_NONFINITE 0 ∨ a = Reg.LED_EVT 0

theorem updNonfinite_cases (s : State) (l step : Nat) :
    s.perShard = true ∧ GoesOn nonfiniteReg s (s.updNonfinite l step)
      ∨ s.perShard = false ∧ s.updNonfinite l step = s.shardEnded l step false := by
  cases h : s.perShard
  · exact .inr ⟨rfl, if_neg (by rw [h]; exact Bool.false_ne_true)⟩
  · have same : s.updNonfinite l step = s.shardNonfinite l := if_pos h
    rw [same]
    exact .inl ⟨rfl, ((GoesOn.refl s).addB (.inl rfl) 63 32 1).raise (.inr rfl) _ _ _ _ _⟩

theorem updNonfinite_frame (s : State) (l step : Nat) : Frame nonfiniteReg s (s.updNonfinite l step) := by
  rcases updNonfinite_cases s l step with ⟨-, gone⟩ | ⟨-, ended⟩
  · exact gone.toFrame
  · rw [ended]
    exact (Frame.refl s).keep rfl rfl rfl

theorem ends_ne (s : State) (l step : Nat) (finite : Bool) :
    ({ s.led l with ends := ((s.led l).ends.filter fun e => decide (e.1 ≠ step)) ++ [(step, finite)] } : Ledger) ≠ {} :=
  fun e => List.append_ne_nil_of_right_ne_nil _ (List.cons_ne_nil _ _) (congrArg Ledger.ends e)

/-- A shard's end is recorded. -/
theorem ends_shardEnded (s : State) (l step : Nat) (finite : Bool) : (step, finite) ∈ ((s.shardEnded l step finite).led l).ends := by
  rw [State.shardEnded, led_setLed _ _ (ends_ne s l step finite)]
  exact List.mem_append_right _ (List.mem_singleton.2 rfl)

/-- The registers that a failing update writes. -/
def failReg (v a : Nat) : Prop := memReg a ∨ endReg v a ∨ a = updReg Reg.UPD_EVT v ∨ nonfiniteReg a

section Fail
variable {s : State} {v : Nat} {g : Trig} (h : (s.updEng v).trig = some g) (st ev : Nat)
include h

/-- A failing update frees its slot (`u`), no longer waits, ends with its event (`w`), and its shard's step ends as not finite. -/
theorem updFail_parts : ∃ u w, Frame memReg s u ∧ Aside (fun _ => True) s u
    ∧ EngineSet (fun a => endReg v a ∨ a = updReg Reg.UPD_EVT v) v { ran := true }
        (u.setLed g.led { u.led g.led with waiting := false }) w
    ∧ (ev < 64 → bit (w.rd (updReg Reg.UPD_EVT v)) ev = true) ∧ s.updFail v st ev = w.updNonfinite g.led g.step := by
  have freed : ∃ u, Frame memReg s u ∧ Aside (fun _ => True) s u ∧ s.updFail v st ev =
      (((u.setLed g.led { u.led g.led with waiting := false }).updEnd v st).updEvent v ev st).updNonfinite g.led g.step := by
    unfold State.updFail
    dsimp only
    rw [h]
    cases (s.updEng v).slot with
    | none => exact ⟨s, .refl s, .refl s, rfl⟩
    | some k => exact ⟨_, setSlotState_frame s g.led k 0, setSlotState_aside s g.led k 0, rfl⟩
  obtain ⟨u, frame, aside, fail⟩ := freed
  have running : ((u.setLed g.led { u.led g.led with waiting := false }).updEng v).trig = some g :=
    (congrArg UpdEngine.trig (aside.updEng v)).trans h
  have ended := updEnd_set running st
  refine ⟨u, _, frame, aside, ⟨?_, ?_⟩, fun he => bit_updEvent _ v he st, fail⟩
  · exact (ended.frame.mono fun _ => .inl).trans ((updEvent_goesOn _ v ev st).toFrame.mono fun _ => .inr)
  · exact ended.aside.trans (updEvent_goesOn _ v ev st).toAside

theorem updFail_frame : Frame (failReg v) s (s.updFail v st ev) := by
  obtain ⟨u, w, frame, -, ended, -, fail⟩ := updFail_parts h st ev
  have waits : Frame memReg s (u.setLed g.led { u.led g.led with waiting := false }) := frame.keep rfl rfl rfl
  rw [fail]
  refine (waits.mono fun _ => .inl).trans ((ended.frame.mono fun a ha => .inr ?_).trans
    ((updNonfinite_frame w g.led g.step).mono fun _ ha => .inr (.inr (.inr ha))))
  exact ha.imp_right .inl

theorem bit_updFail (he : ev < 64) : bit ((s.updFail v st ev).rd (updReg Reg.UPD_EVT v)) ev = true := by
  obtain ⟨u, w, -, -, -, event, fail⟩ := updFail_parts h st ev
  rw [fail, (updNonfinite_frame w g.led g.step).rd]
  · exact event he
  · unfold nonfiniteReg updReg Reg.UPD_EVT Reg.LED_NONFINITE Reg.LED_EVT ctlBase
    omega

theorem ends_updFail (hs : s.perShard = false) : (g.step, false) ∈ ((s.updFail v st ev).led g.led).ends := by
  obtain ⟨u, w, frame, -, ended, -, fail⟩ := updFail_parts h st ev
  have waits : Frame memReg s (u.setLed g.led { u.led g.led with waiting := false }) := frame.keep rfl rfl rfl
  have scope : w.perShard = false := by
    rw [← hs]
    unfold State.perShard
    rw [rdB_of_frame ended.frame, rdB_of_frame waits]
    · unfold memReg; decide
    · unfold endReg unitReg updReg Reg.UPD_EVT Reg.UPD_STATUS Reg.UPD_CUR Reg.UPD_PROGRESS Reg.UPD_LAST Reg.UPD_CNT_UPDATES
        Reg.UPD_CNT_ELEMS Reg.LED_CFG ctlBase
      omega
  rw [fail]
  rcases updNonfinite_cases w g.led g.step with ⟨scope', -⟩ | ⟨-, same⟩
  · exact absurd (scope.symm.trans scope') Bool.false_ne_true
  · rw [same]
    exact ends_shardEnded w _ _ _

end Fail

end Sys2Proof.Proofs
end

section
/-!
SUPPORT. What the run of an update reads and writes (R236 to R243), and the slot that it claims and completes (R126, R128).
-/

namespace Sys2Proof.Proofs

open Sys2Proof Sys2Proof.Machine Sys2Proof.Laws

/-! ### The run -/

/-- Accesses of the update engines: in `B` bytes changed. -/
structure Accessed (B : Nat → Prop) (s t : State) : Prop extends Frame accessReg s t, Aside B s t

namespace Accessed

variable {B : Nat → Prop} {s t u : State}

theorem refl (s : State) : Accessed B s s := ⟨.refl s, .refl s⟩

theorem trans (h : Accessed B s t) (k : Accessed B t u) : Accessed B s u := ⟨h.toFrame.trans k.toFrame, h.toAside.trans k.toAside⟩

theorem wide (h : Accessed B s t) : Accessed (fun _ => True) s t := ⟨h.toFrame, h.toAside.mono fun _ _ => trivial⟩

end Accessed

theorem updReads_accessed {B : Nat → Prop} (s : State) (m : Nat) (ps : List (Nat × Nat)) : Accessed B s (s.updReads m ps).2.2 := by
  induction ps generalizing s with
  | nil => exact .refl s
  | cons p ps ih =>
    obtain ⟨a, n⟩ := p
    have first : Accessed B s (if n = 0 then (St.ok, [], s) else s.load m a n).2.2 := by
      split
      · exact .refl s
      · exact ⟨load_frame s m a n, load_aside s m a n⟩
    unfold State.updReads
    generalize (if n = 0 then (St.ok, [], s) else s.load m a n) = r at first ⊢
    obtain ⟨st, bs, t⟩ := r
    dsimp only at first ⊢
    split
    · exact first
    · exact first.trans (ih t)

theorem updWrites_accessed (s : State) (m : Nat) (ps : List (Nat × List Byte)) :
    Accessed (fun _ => True) s (s.updWrites m ps).2 := by
  induction ps generalizing s with
  | nil => exact .refl s
  | cons p ps ih =>
    obtain ⟨a, bs⟩ := p
    have first : Accessed (fun _ => True) s (if bs.isEmpty then (St.ok, s) else s.store m a bs).2 := by
      split
      · exact .refl s
      · exact ⟨store_frame s m a bs, store_aside s m a bs⟩
    unfold State.updWrites
    generalize (if bs.isEmpty then (St.ok, s) else s.store m a bs) = r at first ⊢
    obtain ⟨st, t⟩ := r
    dsimp only at first ⊢
    split
    · exact first
    · exact first.trans (ih t)

/-- A run's result: what it accessed, and that it wrote no byte where a value was not finite (R242). -/
def RunKept (s : State) (r : UpdRes × State) : Prop :=
  Accessed (fun _ => True) s r.2 ∧ ((∃ i pl cls, r.1 = .nonfinite i pl cls) → ∀ a, r.2.byte a = s.byte a)

theorem RunKept.read {s t : State} (r : UpdRes) (h : Accessed (fun _ => False) s t) : RunKept s (r, t) :=
  ⟨h.wide, fun _ a => h.byte a id⟩

theorem RunKept.wrote {s t : State} {r : UpdRes} (h : Accessed (fun _ => True) s t) (hr : ∀ i pl cls, r ≠ .nonfinite i pl cls) :
    RunKept s (r, t) := ⟨h, fun ⟨i, pl, cls, e⟩ => absurd e (hr i pl cls)⟩

theorem RunKept.ite {s : State} {c : Prop} [Decidable c] {p q : UpdRes × State} (h : RunKept s p) (k : RunKept s q) :
    RunKept s (if c then p else q) := by
  split
  · exact h
  · exact k

/-- A run whose values are finite writes, reads again what the second pass needs, and writes the rest (R236, R246). -/
def writePasses (m : Nat) (first last : List (Nat × List Byte)) (again : List (Nat × Nat)) (res : UpdRes) (s : State) : UpdRes × State :=
  let (st, s) := s.updWrites m first
  if st ≠ 0 then (.access st, s) else
  let (st, _, s) := s.updReads m again
  if st ≠ 0 then (.access st, s) else
  let (st, s) := s.updWrites m last
  if st ≠ 0 then (.access st, s) else (res, s)

theorem writePasses_kept {s u : State} {m : Nat} {first last : List (Nat × List Byte)} {again : List (Nat × Nat)} {res : UpdRes}
    (h : Accessed (fun _ => True) s u) (hr : ∀ i pl cls, res ≠ .nonfinite i pl cls) :
    RunKept s (writePasses m first last again res u) := by
  unfold writePasses
  have one := h.trans (updWrites_accessed u m first)
  generalize u.updWrites m first = p at one ⊢
  obtain ⟨st, u1⟩ := p
  dsimp only at one ⊢
  refine .ite (.wrote one nofun) ?_
  have two := one.trans (updReads_accessed u1 m again)
  generalize u1.updReads m again = q at two ⊢
  obtain ⟨st, bs, u2⟩ := q
  dsimp only at two ⊢
  refine .ite (.wrote two nofun) ?_
  have three := two.trans (updWrites_accessed u2 m last)
  generalize u2.updWrites m last = z at three ⊢
  obtain ⟨st, u3⟩ := z
  dsimp only at three ⊢
  exact .ite (.wrote three nofun) (.wrote three hr)

theorem updRun_kept (s : State) (v : Nat) : RunKept s (s.updRun v) := by
  unfold State.updRun
  dsimp only
  split
  case h_2 => exact .read _ (.refl s)
  next t k _ _ =>
  split
  case h_1 => exact .read _ (.refl s)
  next b _ =>
    generalize hr : s.updReads (0xC0 + v) _ = r
    have read : Accessed (fun _ => False) s r.2.2 := hr ▸ updReads_accessed s _ _
    obtain ⟨st, ps, u⟩ := r
    dsimp only at read ⊢
    refine .ite (.read _ read) ?_
    have computed (n : Nat) : Accessed (fun _ => False) s { u with freeIx := n } :=
      read.trans ⟨(Frame.refl u).keep rfl rfl rfl, (Aside.refl u).keep rfl rfl rfl⟩
    generalize Version.bad _ = bad
    cases bad with
    | none => exact writePasses_kept (computed _).wide nofun
    | some n => exact .read _ (computed _)

/-! ### The slot -/

theorem freeSlot_congr {s t : State} {l : Nat} (led : t.led l = s.led l) (byte : ∀ a, t.byte a = s.byte a) :
    t.freeSlot l = s.freeSlot l := by
  have state (k : Nat) : t.slotState l k = s.slotState l k := by
    unfold State.slotState
    rw [led]
    exact rawNat_congr fun a _ _ => byte a
  simp only [State.freeSlot, State.slots, led, state]

theorem ledger_ne_of_freeSlot {s : State} {l k : Nat} (h : s.freeSlot l = some k) : (s.led l).depth ≠ 0 := by
  have listed := List.mem_range.1 (List.mem_of_find?_eq_some h)
  omega

theorem setSlotState_stored {s : State} {l k : Nat} (st : Nat) (clean : Claim.clean s (s.led l).hdr 4096) (hk : k < 32) :
    Stored s (s.setSlotState l k st) ((s.led l).recAddr k) (toBytes 1 st) :=
  ledWrite_stored st clean (by unfold Ledger.recAddr; omega) (by unfold Ledger.recAddr; omega)

theorem slotState_setSlotState {s : State} {l k st : Nat} (clean : Claim.clean s (s.led l).hdr 4096) (hk : k < 32) (hs : st < 256) :
    (s.setSlotState l k st).slotState l k = st := by
  have stored := setSlotState_stored st clean hk
  unfold State.slotState
  rw [stored.led, stored.rawNat_same]
  omega

/-- What engine v holds once it has claimed slot k of the ledger for the update g, and what UPD_STATUS shows. -/
structure Claimed (v : Nat) (g : Trig) (k : Nat) (t : State) : Prop where
  trig : (t.updEng v).trig = some g
  slot : (t.updEng v).slot = some k
  state : t.slotState g.led k = 1
  status : t.rdB (updReg Reg.UPD_STATUS v) 2 0 = 3

/-- The state in which an engine has taken its slot and its ledger waits no longer. -/
def holdSlot (u : State) (v l : Nat) (e : UpdEngine) : State := (u.setUpdEng v e).setLed l { u.led l with waiting := false }

theorem holdSlot_frame {R : Nat → Prop} (u : State) (v l : Nat) (e : UpdEngine) : Frame R u (holdSlot u v l e) :=
  (Frame.refl u).keep rfl rfl rfl

theorem updEng_setUpdEng (u : State) (v : Nat) {e : UpdEngine} (he : e ≠ {}) : (u.setUpdEng v e).updEng v = e :=
  (get_set_ne _ _ _ he).trans (if_pos rfl)

theorem updEng_holdSlot (u : State) (v l : Nat) {e : UpdEngine} (he : e ≠ {}) : (holdSlot u v l e).updEng v = e :=
  updEng_setUpdEng u v he

theorem slotState_holdSlot {u : State} (v : Nat) {l : Nat} (e : UpdEngine) (k : Nat) (deep : (u.led l).depth ≠ 0) :
    (holdSlot u v l e).slotState l k = u.slotState l k := by
  have led : (holdSlot u v l e).led l = { u.led l with waiting := false } :=
    led_setLed (u.setUpdEng v e) l fun h => deep (congrArg Ledger.depth h)
  unfold State.slotState
  rw [led]
  rfl

theorem status_updStatus (u : State) {v st : Nat} (slot : Nat) (her : Bool) (x : Nat) (h : st < 8) :
    (u.updStatus v st slot her x).rdB (updReg Reg.UPD_STATUS v) 2 0 = st := by
  unfold State.updStatus State.rdB
  rw [rd_wr_same]
  simp only [bits, nbits, w, at_, BitVec.toNat_ofNat]
  omega

section Claim
variable {s : State} {v : Nat} {g : Trig} {k : Nat} (trig : (s.updEng v).trig = some g) (free : s.freeSlot g.led = some k) (hk : k < 32)
  (clean : Claim.clean s (s.led g.led).hdr 4096)
include trig free

theorem updClaim_eq : ∃ her, s.updClaim v = (holdSlot (s.setSlotState g.led k 1) v g.led { s.updEng v with slot := some k }).updStatus v 3 k
    her ((s.led g.led).updCtx.getD 0) := by
  unfold State.updClaim State.claimSlot
  dsimp only
  rw [trig]
  dsimp only
  rw [free]
  exact ⟨_, rfl⟩

theorem updClaim_frame : Frame (fun a => memReg a ∨ a = updReg Reg.UPD_STATUS v) s (s.updClaim v) := by
  obtain ⟨her, eq⟩ := updClaim_eq trig free
  rw [eq]
  refine Frame.wr (Frame.mono (Q := memReg) ((setSlotState_frame s g.led k 1).trans ?_) fun _ => .inl) (.inr rfl) _
  exact holdSlot_frame _ v g.led _

include hk clean

theorem updClaim_claimed : Claimed v g k (s.updClaim v) := by
  obtain ⟨her, eq⟩ := updClaim_eq trig free
  have ne : ({ s.updEng v with slot := some k } : UpdEngine) ≠ {} := fun e => Option.some_ne_none _ (congrArg UpdEngine.slot e)
  have led : (s.setSlotState g.led k 1).led g.led = s.led g.led := (setSlotState_stored 1 clean hk).led _
  have writing := slotState_setSlotState (st := 1) clean hk (by decide)
  have deep := ledger_ne_of_freeSlot free
  rw [← led] at deep
  rw [eq]
  generalize s.setSlotState g.led k 1 = u at writing deep
  have engine := updEng_holdSlot u v g.led ne
  exact ⟨(congrArg UpdEngine.trig engine).trans trig, congrArg UpdEngine.slot engine, (slotState_holdSlot v _ k deep).trans writing,
    status_updStatus _ _ _ _ (by decide)⟩

end Claim

/-! ### A version that is complete -/

section Written
variable {s : State} {l k : Nat} (step fprint : Nat) (clean : Claim.clean s (s.led l).hdr 4096) (hk : k < 32)
include clean hk

/-- STEP, FPRINT and TIME are written, then the state (R128). -/
theorem slotWritten_stored : ∃ x y z time, Stored s x ((s.led l).recAddr k + 8) (toBytes 8 (step % 2 ^ 56))
    ∧ Stored x y ((s.led l).recAddr k + 16) (toBytes 8 fprint) ∧ Stored y z ((s.led l).recAddr k + 24) (toBytes 8 time)
    ∧ Stored z (s.slotWritten l k step fprint) ((s.led l).recAddr k) (toBytes 1 2) := by
  have range : (s.led l).recAddr k = (s.led l).hdr + 0x100 + 32 * k := rfl
  have one := ledWrite_stored (a := (s.led l).recAddr k + 8) (n := 8) (step % 2 ^ 56) clean (by omega) (by omega)
  have two := ledWrite_stored (a := (s.led l).recAddr k + 16) (n := 8) fprint (one.clean clean) (by omega) (by omega)
  have three := ledWrite_stored (a := (s.led l).recAddr k + 24) (n := 8)
    ((s.ledWrite ((s.led l).recAddr k + 8) 8 (step % 2 ^ 56)).ledWrite ((s.led l).recAddr k + 16) 8 fprint).now
    (two.clean (one.clean clean)) (by omega) (by omega)
  refine ⟨_, _, _, _, one, two, three, ?_⟩
  have last := setSlotState_stored (l := l) (k := k) 2
    (by rw [three.led, two.led, one.led]; exact three.clean (two.clean (one.clean clean))) hk
  rw [three.led, two.led, one.led] at last
  exact last

/-- The record of the completed slot, and what stays: the commit word, the other records and memory outside the record. -/
theorem slotWritten_spec : let t := s.slotWritten l k step fprint
    t.slotState l k = 2 ∧ t.slotStep l k = step % 2 ^ 56 ∧ t.slotFprint l k = fprint % 2 ^ 64 ∧ t.ledCommit l = s.ledCommit l := by
  obtain ⟨x, y, z, time, one, two, three, last⟩ := slotWritten_stored step fprint clean hk
  have range : (s.led l).recAddr k = (s.led l).hdr + 0x100 + 32 * k := rfl
  have led : (s.slotWritten l k step fprint).led l = s.led l := by rw [last.led, three.led, two.led, one.led]
  refine ⟨?_, ?_, ?_, ?_⟩
  · unfold State.slotState
    rw [led, last.rawNat_same]
    omega
  · unfold State.slotStep
    rw [led, last.rawNat_other (by rw [length_toBytes]; omega), three.rawNat_other (by omega), two.rawNat_other (by omega),
      one.rawNat_same]
    omega
  · unfold State.slotFprint
    rw [led, last.rawNat_other (by rw [length_toBytes]; omega), three.rawNat_other (by omega), two.rawNat_same]
  · unfold State.ledCommit
    rw [led, last.rawNat_other (by omega), three.rawNat_other (by omega), two.rawNat_other (by omega), one.rawNat_other (by omega)]

theorem slotWritten_only : let t := s.slotWritten l k step fprint
    Frame memReg s t ∧ t.ledgers = s.ledgers ∧ ∀ v, t.updEng v = s.updEng v := by
  obtain ⟨x, y, z, time, one, two, three, last⟩ := slotWritten_stored step fprint clean hk
  exact ⟨one.frame.trans (two.frame.trans (three.frame.trans last.frame)), by rw [last.ledgers, three.ledgers, two.ledgers, one.ledgers],
    fun v => by rw [last.updEng, three.updEng, two.updEng, one.updEng]⟩

end Written

/-! ### The hyperparameter block -/

theorem soundRead_parityKept (s : State) (ps : List (Nat × Nat)) : ParityKept s (soundRead s ps) := by
  induction ps generalizing s with
  | nil => exact .refl s
  | cons p ps ih => exact (countReads_parityKept s _).trans (ih _)

/-- An update engine reads plain bytes with OK, and nothing changes but counters. -/
theorem load_plain {s : State} {v a n : Nat} (hv : v < 16) (h : Claim.plain s a n) :
    ∃ u, s.load (0xC0 + v) a n = (St.ok, s.rawRead a n, u) ∧ ParityKept s u := by
  obtain ⟨hn, ha, on, -, blocks, flits⟩ := h
  have room : fwBase < lpddrBytes := by decide
  have place : placeOf a = .lpddr a := if_pos (by omega)
  have last : placeOf (a + (n - 1)) = .lpddr (a + (n - 1)) := if_pos (by omega)
  have admitted : s.memCheck (0xC0 + v) a n = St.ok := by
    have mgmt : isMgmt (0xC0 + v) = false := by
      simp only [isMgmt, Bool.and_eq_false_iff, decide_eq_false_iff_not]
      omega
    have open_ : ∀ b, placeOf b = .lpddr b → b < fwBase → reservedRegion b = false := fun b hb hlt => by
      simp only [reservedRegion, hb, decide_eq_false_iff_not]
      omega
    have running : s.jobState ≠ 5 := fun h5 => by
      rw [State.jobOn, h5] at on
      exact absurd on (by decide)
    simp only [State.memCheck, samePlace, place, last, mgmt, open_ a place (by omega), open_ _ last (by omega), running, Bool.or_self,
      Bool.not_true, Bool.false_eq_true, if_false]
    rw [if_neg (by omega), if_neg (by omega)]
  have parts := readParts_granules s (k := n / 2048 + 2) (fun _ => by omega) (by omega : a + n ≤ lpddrBytes) blocks
  have quiet : (soundRead s (s.granules (n / 2048 + 2) a n)).flits = [] := by rw [flits_soundRead, flits]
  refine ⟨soundRead s (s.granules (n / 2048 + 2) a n), ?_, soundRead_parityKept _ _⟩
  unfold State.load
  simp only [admitted, place, State.parts, parts, if_neg (show ¬n = 0 by omega)]
  exact readFlit_none quiet _ n St.ok _

end Sys2Proof.Proofs
end

section
/-!
SUPPORT. An update starts, claims its slot and ends (O42).
-/

namespace Sys2Proof.Proofs

open Sys2Proof Sys2Proof.Machine Sys2Proof.Laws

/-! ### UPDATE_START -/

/-- The lowest idle engine of a ledger's stage. -/
def idleEngine (s : State) (n l : Nat) : Option Nat :=
  (sortBy id (s.stg n ((s.led l).updCtx.getD 0)).updaters).find? fun v => (s.updEng v).trig.isNone && !s.isMasked (0xC0 + v)

/-- The oldest trigger that can start. -/
def nextTrigger (s : State) (n : Nat) : Option Trig :=
  (s.trigQ n).find? fun t => s.trigRunnable n t && (idleEngine s n t.led).isSome

theorem fxUpdateStart_next {s : State} {n v : Nat} {g : Trig} (next : nextTrigger s n = some g) (idle : idleEngine s n g.led = some v) :
    fxUpdateStart n s = s.updStart v g := by
  unfold nextTrigger at next
  unfold idleEngine at next idle
  unfold fxUpdateStart
  dsimp only
  rw [next]
  dsimp only
  rw [idle]

theorem fxUpdateStart_none {s : State} {n : Nat} (next : nextTrigger s n = none) : fxUpdateStart n s = s := by
  unfold nextTrigger idleEngine at next
  unfold fxUpdateStart
  dsimp only
  rw [next]

/-- The state in which an engine has taken a trigger and reads its block next. -/
def started (s : State) (v : Nat) (g : Trig) : State :=
  ((((s.setTrigQ (v / 4) ((s.trigQ (v / 4)).filter fun u => u != g)).setUpdEng v { trig := some g }).wr (updReg Reg.UPD_CUR v)
    (w (g.led + at_ 16 g.step))).wr (updReg Reg.UPD_PROGRESS v) 0).updStatus v 1 0 false ((s.led g.led).updCtx.getD 0)

theorem led_wr (s : State) (a l : Nat) (x : Word) : (s.wr a x).led l = s.led l := rfl

theorem clean_wr {s : State} {a n b : Nat} {x : Word} (h : Claim.clean s a n) : Claim.clean (s.wr b x) a n := h

section Started
variable (s : State) (v : Nat) (g : Trig)

theorem started_frame : Frame (fun a => a = updReg Reg.UPD_CUR v ∨ a = updReg Reg.UPD_PROGRESS v ∨ a = updReg Reg.UPD_STATUS v) s
    (started s v g) := by
  refine Frame.wr (Frame.wr (Frame.wr ?_ (.inl rfl) _) (.inr (.inl rfl)) _) (.inr (.inr rfl)) _
  exact (Frame.refl s).keep rfl rfl rfl

theorem led_started (l : Nat) : (started s v g).led l = s.led l := by
  unfold started State.updStatus
  rw [led_wr, led_wr, led_wr]
  rfl

theorem clean_started {a n : Nat} (h : Claim.clean s a n) : Claim.clean (started s v g) a n := by
  have taken : Claim.clean ((s.setTrigQ (v / 4) ((s.trigQ (v / 4)).filter fun u => u != g)).setUpdEng v { trig := some g }) a n := h
  exact clean_wr (clean_wr (clean_wr taken))

theorem byte_started (a : Nat) : (started s v g).byte a = s.byte a := by
  unfold started State.updStatus
  rw [byte_wr, byte_wr, byte_wr]
  rfl

theorem jobState_started : (started s v g).jobState = s.jobState := by
  refine jobState_of_frame (started_frame s v g) ?_
  unfold updReg Reg.UPD_STATUS Reg.UPD_CUR Reg.UPD_PROGRESS Reg.ID_JOB_STATE ctlBase
  omega

theorem plain_started {a n : Nat} (h : Claim.plain s a n) : Claim.plain (started s v g) a n := by
  obtain ⟨hn, ha, on, clean⟩ := h
  refine ⟨hn, ha, ?_, clean_started s v g clean⟩
  unfold State.jobOn at on ⊢
  rw [jobState_started]
  exact on

end Started

/-- The engine that has read its block. -/
def ready (u : State) (v : Nat) (g : Trig) (hd : List Byte) : State :=
  u.setUpdEng v { trig := some g, hyper := hd, lr := leAt (hd.take 4) 0 4 }

theorem trig_ready (u : State) (v : Nat) (g : Trig) (hd : List Byte) : ((ready u v g hd).updEng v).trig = some g := by
  have ne : ({ trig := some g, hyper := hd, lr := leAt (hd.take 4) 0 4 } : UpdEngine) ≠ {} :=
    fun e => Option.some_ne_none _ (congrArg UpdEngine.trig e)
  exact congrArg UpdEngine.trig (updEng_setUpdEng u v ne)

section Start
variable {s : State} {v : Nat} {g : Trig} {b : Binding} (wanted : g.status = 0) (sound : (s.led g.led).damaged = none)
  (bound : (s.led g.led).bind = some b)
include wanted sound bound

theorem updStart_eq {u : State} {hd : List Byte} (load : (started s v g).load (0xC0 + v) b.hyper 64 = (St.ok, hd, u))
    (single : (leAt hd 0x1C 4).testBit 3 = false) (good : hyperOk b hd (hyperOf hd (leAt (hd.take 4) 0 4)) = true) :
    s.updStart v g = (ready u v g hd).updClaim v := by
  have ledger : ((s.setTrigQ (v / 4) ((s.trigQ (v / 4)).filter fun u => u != g)).setUpdEng v { trig := some g }).led g.led = s.led g.led :=
    rfl
  unfold started at load
  unfold State.updStart
  dsimp only
  rw [if_neg (by rw [wanted]; decide), ledger, sound, bound]
  dsimp only
  rw [load]
  dsimp only
  rw [if_neg (by decide), single, Bool.false_and, if_neg Bool.false_ne_true]
  dsimp only
  rw [if_neg (by decide), good]
  exact if_neg Bool.false_ne_true

/-- The update has claimed the slot, and only its own registers and the memory system's changed. -/
theorem updStart_claimed {k : Nat} (hv : v < 16) (hk : k < 32) (block : Claim.plain s b.hyper 64)
    (single : (leAt (s.rawRead b.hyper 64) 0x1C 4).testBit 3 = false)
    (good : hyperOk b (s.rawRead b.hyper 64) (hyperOf (s.rawRead b.hyper 64) (leAt ((s.rawRead b.hyper 64).take 4) 0 4)) = true)
    (free : s.freeSlot g.led = some k) (clean : Claim.clean s (s.led g.led).hdr 4096) :
    Claimed v g k (s.updStart v g) ∧ (s.updStart v g).regs = s.regs ∧ (s.updStart v g).mem = s.mem := by
  obtain ⟨u, load, kept⟩ := load_plain hv (plain_started s v g block)
  have bytes : (started s v g).rawRead b.hyper 64 = s.rawRead b.hyper 64 := by
    unfold State.rawRead
    simp only [byte_started]
  rw [bytes] at load
  have led : (ready u v g (s.rawRead b.hyper 64)).led g.led = s.led g.led := by
    have same : u.led g.led = (started s v g).led g.led := by rw [kept.only]; rfl
    exact same.trans (led_started s v g g.led)
  have byte (a : Nat) : (ready u v g (s.rawRead b.hyper 64)).byte a = s.byte a := (kept.byte a).trans (byte_started s v g a)
  have trig := trig_ready u v g (s.rawRead b.hyper 64)
  have free' := (freeSlot_congr led byte).trans free
  have clean' : Claim.clean (ready u v g (s.rawRead b.hyper 64)) ((ready u v g (s.rawRead b.hyper 64)).led g.led).hdr 4096 := by
    rw [led]
    exact kept.clean (clean_started s v g clean)
  have taken : (ready u v g (s.rawRead b.hyper 64)).regs = s.regs ∧ (ready u v g (s.rawRead b.hyper 64)).mem = s.mem :=
    ⟨kept.frame.regs.trans (started_frame s v g).regs, kept.frame.mem.trans (started_frame s v g).mem⟩
  have claimed := updClaim_frame trig free'
  rw [updStart_eq wanted sound bound load single good]
  exact ⟨updClaim_claimed trig free' hk clean', claimed.regs.trans taken.1, claimed.mem.trans taken.2⟩

end Start

theorem Claimed.commit {s t : State} {v k : Nat} {g : Trig} (hc : s.Canonical) (h : Claimed v g k t) (regs : t.regs = s.regs)
    (mem : t.mem = s.mem) : Claimed v g k (s.commit t) where
  trig := h.trig
  slot := h.slot
  state := (commit_slotState hc mem g.led k).trans h.state
  status := (congrArg (bits · 2 0) (commit_rd_eq hc regs _)).trans h.status

/-! ### UPDATE_SLOT_CLAIM -/

section SlotClaim
variable {s : State} {v : Nat} {g : Trig} (trig : (s.updEng v).trig = some g) (slot : (s.updEng v).slot = none)
include trig slot

theorem fxUpdateSlotClaim_some {k : Nat} (waits : (s.led g.led).waiting = true) (free : s.freeSlot g.led = some k) :
    fxUpdateSlotClaim v s = s.updClaim v := by
  unfold fxUpdateSlotClaim
  dsimp only
  rw [trig, slot]
  dsimp only
  rw [waits, free]
  exact if_pos rfl

theorem fxUpdateSlotClaim_none (free : s.freeSlot g.led = none) : fxUpdateSlotClaim v s = s := by
  unfold fxUpdateSlotClaim
  dsimp only
  rw [trig, slot]
  dsimp only
  rw [free, Option.isSome_none, Bool.and_false, if_neg Bool.false_ne_true]

end SlotClaim

/-! ### How a run ends -/

theorem updLive_masked {s : State} {v : Nat} (f : State → State) (h : s.isMasked (0xC0 + v) = true) : updLive v f s = s := if_pos h

theorem updLive_open {s : State} {v : Nat} (f : State → State) (h : s.isMasked (0xC0 + v) = false) : updLive v f s = f s :=
  if_neg (by rw [h]; exact Bool.false_ne_true)

/-- A run that does not end so leaves the state, masked or not. -/
theorem updLive_self {s : State} {v : Nat} {f : State → State} (h : f s = s) : updLive v f s = s := by
  unfold updLive
  split
  · rfl
  · exact h

theorem fxUpdateAccessFail_other {s : State} {v : Nat} (h : ∀ st u, s.updRun v ≠ (.access st, u)) : fxUpdateAccessFail v s = s := by
  unfold fxUpdateAccessFail
  split
  · exact absurd ‹_› (h _ _)
  · rfl

theorem fxUpdateNonfinite_other {s : State} {v : Nat} (h : ∀ i pl cls u, s.updRun v ≠ (.nonfinite i pl cls, u)) :
    fxUpdateNonfinite v s = s := by
  unfold fxUpdateNonfinite
  split
  · exact absurd ‹_› (h _ _ _ _)
  · rfl

theorem fxUpdateWritten_other {s : State} {v : Nat} (h : ∀ step fp u, s.updRun v ≠ (.written step fp, u)) : fxUpdateWritten v s = s := by
  unfold fxUpdateWritten
  split
  · exact absurd ‹_› (h _ _ _)
  · rfl

section Run
variable {s u : State} {v : Nat} {r : UpdRes} (run : s.updRun v = (r, u))
include run

theorem run_accessed : Accessed (fun _ => True) s u := by
  have kept := (updRun_kept s v).1
  rw [run] at kept
  exact kept

theorem run_trig {g : Trig} (trig : (s.updEng v).trig = some g) : (u.updEng v).trig = some g :=
  (congrArg UpdEngine.trig ((run_accessed run).updEng v)).trans trig

theorem run_perShard : u.perShard = s.perShard := by
  unfold State.perShard
  rw [rdB_of_frame (run_accessed run).toFrame]
  unfold accessReg memReg
  decide

end Run

theorem not_endReg_ledCfg (v : Nat) : ¬endReg v (Reg.LED_CFG 0) := by
  unfold endReg unitReg updReg Reg.UPD_STATUS Reg.UPD_CUR Reg.UPD_PROGRESS Reg.UPD_LAST Reg.UPD_CNT_UPDATES Reg.UPD_CNT_ELEMS
    Reg.LED_CFG ctlBase
  omega

theorem not_memReg_ledCfg : ¬memReg (Reg.LED_CFG 0) := by unfold memReg; decide

theorem not_endReg_evt (v : Nat) : ¬endReg v (updReg Reg.UPD_EVT v) := by
  unfold endReg unitReg updReg Reg.UPD_STATUS Reg.UPD_CUR Reg.UPD_PROGRESS Reg.UPD_LAST Reg.UPD_CNT_UPDATES Reg.UPD_CNT_ELEMS
    Reg.UPD_EVT ctlBase
  omega

section UpdTo
variable (u : State) (v d : Nat)

theorem trig_updTo {g : Trig} (trig : (u.updEng v).trig = some g) : ((u.updTo v d).updEng v).trig = some g := by
  have ne : ({ u.updEng v with passes := max (u.updEng v).passes d } : UpdEngine) ≠ {} := fun e =>
    Option.some_ne_none _ (trig.symm.trans (congrArg UpdEngine.trig e))
  exact (congrArg UpdEngine.trig (((updTo_set u v d).updEng ne v).trans (if_pos rfl))).trans trig

theorem perShard_updTo : (u.updTo v d).perShard = u.perShard := by
  unfold State.perShard
  rw [rdB_of_frame (updTo_set u v d).frame (not_endReg_ledCfg v)]

theorem clean_updTo {a n : Nat} (h : Claim.clean u a n) : Claim.clean (u.updTo v d) a n := by
  have counted : Claim.clean ((u.addB (updReg Reg.UPD_CNT_ELEMS v) 63 0 (d - (u.updEng v).passes)).setUpdEng v
      { u.updEng v with passes := max (u.updEng v).passes d }) a n := h
  exact clean_wr (clean_wr counted)

theorem ledCommit_updTo (l : Nat) : (u.updTo v d).ledCommit l = u.ledCommit l := by
  unfold State.ledCommit
  rw [(updTo_set u v d).led, rawNat_congr fun b _ _ => (updTo_set u v d).byte b]

end UpdTo

/-! ### UPDATE_WRITTEN -/

theorem hdr_shardEnded (s : State) (l step : Nat) (finite : Bool) : ((s.shardEnded l step finite).led l).hdr = (s.led l).hdr := by
  rw [State.shardEnded, led_setLed _ _ (ends_ne s l step finite)]

/-- The end of a shard's step changes no record. -/
theorem shardEnded_records (s : State) (l step : Nat) (finite : Bool) {t : State}
    (led : ∀ l', t.led l' = (s.shardEnded l step finite).led l') (byte : ∀ a, t.byte a = s.byte a) (k : Nat) :
    t.slotState l k = s.slotState l k ∧ t.slotStep l k = s.slotStep l k ∧ t.slotFprint l k = s.slotFprint l k
      ∧ t.ledCommit l = s.ledCommit l := by
  have hdr : (t.led l).hdr = (s.led l).hdr := by rw [led, hdr_shardEnded]
  have same (a n : Nat) : t.rawNat a n = s.rawNat a n := rawNat_congr fun b _ _ => byte b
  unfold State.slotState State.slotStep State.slotFprint State.ledCommit Ledger.recAddr
  rw [hdr]
  simp only [same, and_self]

section Written
variable {s u : State} {v step fp k : Nat} {g : Trig} (trig : (s.updEng v).trig = some g) (slot : (s.updEng v).slot = some k)
  (run : s.updRun v = (.written step fp, u)) (scope : s.perShard = false)
include trig slot run scope

theorem fxUpdateWritten_step (hk : k < 32) (clean : Claim.clean u (s.led g.led).hdr 4096) : ∃ d, fxUpdateWritten v s
    = (((u.updTo v d).slotWritten g.led k step fp).shardEnded g.led g.step true).updEnd v St.ok := by
  refine ⟨(s.updBinding v).count * rulePasses (s.updBinding v).rule, ?_⟩
  have led : ((u.updTo v ((s.updBinding v).count * rulePasses (s.updBinding v).rule)).led g.led) = s.led g.led :=
    ((updTo_set u v _).led g.led).trans ((run_accessed run).led g.led)
  obtain ⟨frame, -, -⟩ := slotWritten_only (s := u.updTo v ((s.updBinding v).count * rulePasses (s.updBinding v).rule)) (l := g.led)
    step fp (by rw [led]; exact clean_updTo u v _ clean) hk
  have scope' : ((u.updTo v ((s.updBinding v).count * rulePasses (s.updBinding v).rule)).slotWritten g.led k step fp).perShard = false := by
    rw [← scope, ← run_perShard run, ← perShard_updTo u v ((s.updBinding v).count * rulePasses (s.updBinding v).rule)]
    unfold State.perShard
    rw [rdB_of_frame frame not_memReg_ledCfg]
  unfold fxUpdateWritten
  rw [run, trig, slot]
  dsimp only
  rw [scope', if_neg Bool.false_ne_true]

theorem updateWritten_spec (hc : s.Canonical) (hk : k < 32) (clean : Claim.clean u (s.led g.led).hdr 4096) :
    let t := s.commit (fxUpdateWritten v s)
    t.slotState g.led k = 2 ∧ t.slotStep g.led k = step % 2 ^ 56 ∧ t.slotFprint g.led k = fp % 2 ^ 64
      ∧ (g.step, true) ∈ (t.led g.led).ends ∧ t.ledCommit g.led = u.ledCommit g.led := by
  obtain ⟨d, eq⟩ := fxUpdateWritten_step trig slot run scope hk clean
  have led : (u.updTo v d).led g.led = s.led g.led := ((updTo_set u v d).led g.led).trans ((run_accessed run).led g.led)
  have clean' : Claim.clean (u.updTo v d) ((u.updTo v d).led g.led).hdr 4096 := by
    rw [led]
    exact clean_updTo u v d clean
  obtain ⟨frame, -, engines⟩ := slotWritten_only step fp clean' hk
  obtain ⟨state, stepped, print, commit⟩ := slotWritten_spec step fp clean' hk
  have going : ((((u.updTo v d).slotWritten g.led k step fp).shardEnded g.led g.step true).updEng v).trig = some g :=
    (congrArg UpdEngine.trig (engines v)).trans (trig_updTo u v d (run_trig run trig))
  have ended := updEnd_set going St.ok
  have mem : (fxUpdateWritten v s).mem = s.mem := by
    rw [eq]
    exact ended.frame.mem.trans (frame.mem.trans ((updTo_set u v d).frame.mem.trans (run_accessed run).toFrame.mem))
  rw [← eq] at ended
  obtain ⟨state', stepped', print', commit'⟩ := shardEnded_records _ g.led g.step true ended.led ended.byte k
  dsimp only
  rw [commit_slotState hc mem, commit_slotStep hc mem, commit_slotFprint hc mem, commit_ledCommit hc mem, state', stepped', print', commit']
  refine ⟨state, stepped, print, ?_, commit.trans (ledCommit_updTo u v d g.led)⟩
  rw [commit_led, ended.led]
  exact ends_shardEnded _ _ _ _

end Written

/-! ### UPDATE_NONFINITE -/

/-- The value that UPD_NF_FIRST shows (R242). -/
def nonfiniteWord (g : Trig) (i pl cls : Nat) : Word := w (i + at_ 40 pl + at_ 43 cls + at_ 48 g.led)

/-- The state in which the value is latched, unless NONFINITE was set before. -/
def latched (u : State) (v : Nat) (x : Word) : State :=
  if bit (u.rd (updReg Reg.UPD_EVT v)) 0 then u else (u.wr (updReg Reg.UPD_NF_FIRST v) x).wr (updReg Reg.UPD_NF_TIME v) (w u.now)

theorem latched_regs (u : State) (v : Nat) (x : Word) : (latched u v x).regs = u.regs := ite_keeps State.regs rfl rfl

theorem latched_updEng (u : State) (v y : Nat) (x : Word) : (latched u v x).updEng y = u.updEng y :=
  ite_keeps (fun s => s.updEng y) rfl rfl

theorem perShard_latched (u : State) (v : Nat) (x : Word) : (latched u v x).perShard = u.perShard := by
  have frame : Frame (fun a => a = updReg Reg.UPD_NF_FIRST v ∨ a = updReg Reg.UPD_NF_TIME v) u (latched u v x) :=
    .ite (fun _ => .refl u) fun _ => ((Frame.refl u).wr (.inl rfl) _).wr (.inr rfl) _
  unfold State.perShard
  rw [rdB_of_frame frame]
  unfold updReg Reg.UPD_NF_FIRST Reg.UPD_NF_TIME Reg.LED_CFG ctlBase
  omega

theorem rd_latched {u : State} {v : Nat} (x : Word) (h : bit (u.rd (updReg Reg.UPD_EVT v)) 0 = false) :
    (latched u v x).rd (updReg Reg.UPD_NF_FIRST v) = x := by
  have apart : ¬updReg Reg.UPD_NF_TIME v = updReg Reg.UPD_NF_FIRST v := by
    unfold updReg Reg.UPD_NF_FIRST Reg.UPD_NF_TIME
    omega
  rw [latched, if_neg (by rw [h]; exact Bool.false_ne_true), rd_wr, if_neg apart, rd_wr_same]

theorem not_failReg_nfFirst (v : Nat) : ¬failReg v (updReg Reg.UPD_NF_FIRST v) := by
  unfold failReg memReg endReg unitReg nonfiniteReg updReg Reg.UPD_STATUS Reg.UPD_CUR Reg.UPD_PROGRESS Reg.UPD_LAST Reg.UPD_CNT_UPDATES
    Reg.UPD_CNT_ELEMS Reg.UPD_EVT Reg.UPD_NF_FIRST Reg.LED_NONFINITE Reg.LED_EVT Reg.MEM_STK_ID Reg.MEM_CFG ctlBase
  omega

section Nonfinite
variable {s u : State} {v i pl cls : Nat} {g : Trig} (trig : (s.updEng v).trig = some g)
  (run : s.updRun v = (.nonfinite i pl cls, u))
include trig run

theorem fxUpdateNonfinite_eq : ∃ d, fxUpdateNonfinite v s
    = (latched (u.updTo v d) v (nonfiniteWord g i pl cls)).updFail v St.nonfinite 0 := by
  unfold fxUpdateNonfinite
  rw [run, trig]
  exact ⟨_, rfl⟩

theorem updateNonfinite_spec (hv : v < 16) (hc : s.Canonical) :
    let t := s.commit (fxUpdateNonfinite v s)
    bit (t.rd (updReg Reg.UPD_EVT v)) 0 = true
      ∧ (bit (s.rd (updReg Reg.UPD_EVT v)) 0 = false → t.rd (updReg Reg.UPD_NF_FIRST v) = nonfiniteWord g i pl cls)
      ∧ (s.perShard = false → (g.step, false) ∈ (t.led g.led).ends) := by
  obtain ⟨d, eq⟩ := fxUpdateNonfinite_eq trig run
  have trig' : ((latched (u.updTo v d) v (nonfiniteWord g i pl cls)).updEng v).trig = some g :=
    (congrArg UpdEngine.trig (latched_updEng _ v v _)).trans (trig_updTo u v d (run_trig run trig))
  have fails := updFail_frame trig' St.nonfinite 0
  have regs : (fxUpdateNonfinite v s).regs = s.regs := by
    rw [eq, fails.regs, latched_regs]
    exact (updTo_set u v d).frame.regs.trans (run_accessed run).toFrame.regs
  have evt : (u.updTo v d).rd (updReg Reg.UPD_EVT v) = s.rd (updReg Reg.UPD_EVT v) := by
    rw [(updTo_set u v d).frame.rd _ (not_endReg_evt v), (run_accessed run).toFrame.rd]
    unfold accessReg memReg updReg Reg.UPD_EVT Reg.MBX_EVT Reg.MEM_STK_ID Reg.MEM_CFG ctlBase
    omega
  dsimp only
  rw [commit_rd_eq hc regs, commit_rd_eq hc regs, commit_led, eq]
  refine ⟨bit_updFail trig' _ 0 (by decide), fun clear => ?_, fun scope => ends_updFail trig' _ 0 ?_⟩
  · rw [fails.rd _ (not_failReg_nfFirst v)]
    exact rd_latched _ (by rw [evt]; exact clear)
  · rw [perShard_latched, perShard_updTo, run_perShard run, scope]

end Nonfinite

/-! ### UPDATE_ACCESS_FAIL -/

/-- An engine that goes on keeps its trigger, and writes its own registers. -/
theorem updAdvance_kept (u : State) (v : Nat) : u.updAdvance v = u ∨ ∃ d n, u.updAdvance v = { u with freeIx := n }.updTo v d := by
  unfold State.updAdvance
  dsimp only
  split
  · exact .inl rfl
  · exact .inr ⟨_, _, rfl⟩

theorem fxUpdateAccessFail_eq {s u : State} {v st : Nat} (run : s.updRun v = (.access st, u)) :
    fxUpdateAccessFail v s = (u.updAdvance v).updFail v st 2 := by
  unfold fxUpdateAccessFail
  rw [run]

section Access
variable {s u : State} {v st : Nat} {g : Trig} (trig : (s.updEng v).trig = some g) (run : s.updRun v = (.access st, u))
include trig run

theorem updateAccessFail_spec (hc : s.Canonical) :
    let t := s.commit (fxUpdateAccessFail v s)
    bit (t.rd (updReg Reg.UPD_EVT v)) 2 = true ∧ (s.perShard = false → (g.step, false) ∈ (t.led g.led).ends) := by
  have advanced : ((u.updAdvance v).updEng v).trig = some g ∧ (u.updAdvance v).regs = u.regs ∧ (u.updAdvance v).perShard = u.perShard := by
    have trig' := run_trig run trig
    rcases updAdvance_kept u v with same | ⟨d, n, same⟩
    · rw [same]
      exact ⟨trig', rfl, rfl⟩
    · rw [same]
      exact ⟨trig_updTo _ v d trig', (updTo_set { u with freeIx := n } v d).frame.regs, perShard_updTo { u with freeIx := n } v d⟩
  obtain ⟨trig', regs', scope'⟩ := advanced
  have regs : (fxUpdateAccessFail v s).regs = s.regs := by
    rw [fxUpdateAccessFail_eq run, (updFail_frame trig' st 2).regs, regs', (run_accessed run).toFrame.regs]
  dsimp only
  rw [commit_rd_eq hc regs, commit_led, fxUpdateAccessFail_eq run]
  exact ⟨bit_updFail trig' st 2 (by decide), fun scope => ends_updFail trig' st 2 (by rw [scope', run_perShard run, scope])⟩

end Access

/-- Settles O42, command by command. -/
theorem updatesRun : Obligations.UpdatesRun := by
  unfold Obligations.UpdatesRun
  refine ⟨fun die s hl hc =>
      ⟨fun g v next idle => ⟨?_, fun b k hv hk wanted sound bound block single good free clean => ?_⟩, fun next => ?_⟩,
    fun e s g k hl hc trig slot waits => ⟨fun free hk clean => ?_, fun free => ?_⟩,
    fun e s g k hl hc trig slot => ⟨fun masked => ⟨?_, ?_, ?_⟩, fun open_ => ⟨fun step fp u run scope hk clean => ?_,
      fun i pl cls u run => ⟨?_, ?_⟩, fun st u run => ⟨?_, ?_⟩⟩, fun other => ?_, fun other => ?_, fun other => ?_⟩⟩
  · rw [exec_updateStart, live_eq hl hc, fxUpdateStart_next next idle]
  · obtain ⟨claimed, regs, mem⟩ := updStart_claimed wanted sound bound hv hk block single good free clean
    obtain ⟨trig, slot, state, status⟩ := claimed.commit hc regs mem
    refine ⟨s.commit (s.updStart v g), ?_, trig, slot, state, status⟩
    rw [exec_updateStart, live_eq hl hc, fxUpdateStart_next next idle]
  · rw [exec_updateStart, live_eq hl hc, fxUpdateStart_none next, commit_self hc]
  · have frame := updClaim_frame trig free
    obtain ⟨-, slot', state, status⟩ := (updClaim_claimed trig free hk clean).commit hc frame.regs frame.mem
    refine ⟨s.commit (s.updClaim e.toNat), ?_, slot', state, status⟩
    rw [exec_updateSlotClaim, live_eq hl hc, fxUpdateSlotClaim_some trig slot waits free]
  · rw [exec_updateSlotClaim, live_eq hl hc, fxUpdateSlotClaim_none trig slot free, commit_self hc]
  · rw [exec_updateWritten, live_eq hl hc, updLive_masked _ masked, commit_self hc]
  · rw [exec_updateNonfinite, live_eq hl hc, updLive_masked _ masked, commit_self hc]
  · rw [exec_updateAccessFail, live_eq hl hc, updLive_masked _ masked, commit_self hc]
  · refine ⟨_, ?_, updateWritten_spec trig slot run scope hc hk clean⟩
    rw [exec_updateWritten, live_eq hl hc, updLive_open _ open_]
  · have kept := (updRun_kept s e.toNat).2
    rw [run] at kept
    exact kept ⟨i, pl, cls, rfl⟩
  · obtain ⟨event, first, ends⟩ := updateNonfinite_spec trig run e.isLt hc
    refine ⟨s.commit (fxUpdateNonfinite e.toNat s), ?_, event, fun clear => (first clear).trans ?_, ends⟩
    · rw [exec_updateNonfinite, live_eq hl hc, updLive_open _ open_]
    · unfold nonfiniteWord at_
      congr 1
      omega
  · rw [exec_updateAccessFail, live_eq hl hc, updLive_open _ open_, fxUpdateAccessFail_eq run]
  · refine ⟨_, ?_, updateAccessFail_spec trig run hc⟩
    rw [exec_updateAccessFail, live_eq hl hc, updLive_open _ open_]
  · rw [exec_updateAccessFail, live_eq hl hc, updLive_self (fxUpdateAccessFail_other other), commit_self hc]
  · rw [exec_updateNonfinite, live_eq hl hc, updLive_self (fxUpdateNonfinite_other other), commit_self hc]
  · rw [exec_updateWritten, live_eq hl hc, updLive_self (fxUpdateWritten_other other), commit_self hc]

end Sys2Proof.Proofs
end

section
/-!
SUPPORT. The records of a ledger: its commit, its damage and its window of registers (O33).
-/

namespace Sys2Proof.Proofs

open Sys2Proof Sys2Proof.Machine Sys2Proof.Laws

/-! ### The commit -/

/-- The state in which the commit word is written and the slot is COMMITTED. -/
def committed (s : State) (l k : Nat) : State := (s.ledWrite (s.led l).hdr 8 (k + 256 * s.slotStep l k)).setSlotState l k 3

/-- The state of a slot whose version is no longer the committed one. -/
def retiredState (s : State) (l k : Nat) : Nat := if s.slotRefs l k = 0 then 0 else 4

theorem commitSlot_eq (s : State) (l k : Nat) : s.commitSlot l k = if s.ledSlot l = k then committed s l k else
    (committed s l k).setSlotState l (s.ledSlot l) (retiredState (committed s l k) l (s.ledSlot l)) := by
  unfold retiredState
  rw [apply_ite ((committed s l k).setSlotState l (s.ledSlot l))]
  rfl

section Commit
variable {s : State} {l k : Nat} (hk : k < 32) (clean : Claim.clean s (s.led l).hdr 4096)
include hk clean

theorem committed_stored : ∃ x, Stored s x (s.led l).hdr (toBytes 8 (k + 256 * s.slotStep l k))
    ∧ Stored x (committed s l k) ((s.led l).recAddr k) (toBytes 1 3) := by
  have word := ledWrite_stored (a := (s.led l).hdr) (n := 8) (k + 256 * s.slotStep l k) clean (by omega) (by omega)
  refine ⟨_, word, ?_⟩
  unfold committed
  generalize s.ledWrite (s.led l).hdr 8 (k + 256 * s.slotStep l k) = x at word
  have state := setSlotState_stored (l := l) 3 (by rw [word.led]; exact word.clean clean) hk
  rw [word.led] at state
  exact state

theorem led_committed (j : Nat) : (committed s l k).led j = s.led j := by
  obtain ⟨x, word, state⟩ := committed_stored hk clean
  rw [state.led, word.led]

theorem clean_committed : Claim.clean (committed s l k) ((committed s l k).led l).hdr 4096 := by
  obtain ⟨x, word, state⟩ := committed_stored hk clean
  rw [led_committed hk clean]
  exact state.clean (word.clean clean)

theorem ledCommit_committed : (committed s l k).ledCommit l = w (k + 256 * s.slotStep l k) := by
  obtain ⟨x, word, state⟩ := committed_stored hk clean
  have range : (s.led l).recAddr k = (s.led l).hdr + 0x100 + 32 * k := rfl
  have step : s.slotStep l k < 2 ^ 56 := Nat.mod_lt _ (by decide)
  unfold State.ledCommit
  rw [led_committed hk clean, state.rawNat_other (by omega), word.rawNat_same, Nat.mod_eq_of_lt (by omega)]

theorem slotState_committed (j : Nat) : (committed s l k).slotState l j = if j = k then 3 else s.slotState l j := by
  obtain ⟨x, word, state⟩ := committed_stored hk clean
  have range (i : Nat) : (s.led l).recAddr i = (s.led l).hdr + 0x100 + 32 * i := rfl
  unfold State.slotState
  rw [led_committed hk clean]
  split
  next same =>
    rw [same, state.rawNat_same]
    omega
  next other =>
    rw [state.rawNat_other (by rw [length_toBytes, range, range]; omega), word.rawNat_other (by rw [length_toBytes, range]; omega)]

/-- The record of the version before becomes FREE, or RETIRED while it is referenced (R121). -/
theorem commitSlot_stored (other : s.ledSlot l ≠ k) : Stored (committed s l k) (s.commitSlot l k) ((s.led l).recAddr (s.ledSlot l))
    (toBytes 1 (retiredState s l (s.ledSlot l))) := by
  have led := led_committed hk clean l
  have refs : retiredState (committed s l k) l (s.ledSlot l) = retiredState s l (s.ledSlot l) := by
    unfold retiredState State.slotRefs
    rw [led]
  have previous := setSlotState_stored (retiredState s l (s.ledSlot l)) (clean_committed hk clean) (ledSlot_lt s l)
  rw [led] at previous
  rw [commitSlot_eq, if_neg other, refs]
  exact previous

theorem commitSlot_spec :
    let u := s.commitSlot l k
    u.ledCommit l = w (k + 256 * s.slotStep l k) ∧ u.slotState l k = 3
      ∧ (s.ledSlot l ≠ k → u.slotState l (s.ledSlot l) = if s.slotRefs l (s.ledSlot l) = 0 then 0 else 4)
      ∧ ∀ j, j ≠ k → j ≠ s.ledSlot l → u.slotState l j = s.slotState l j := by
  have word := ledCommit_committed hk clean
  have states := slotState_committed hk clean
  have led := led_committed hk clean l
  have range (i : Nat) : (s.led l).recAddr i = (s.led l).hdr + 0x100 + 32 * i := rfl
  dsimp only
  by_cases same : s.ledSlot l = k
  · rw [commitSlot_eq, if_pos same]
    exact ⟨word, (states k).trans (if_pos rfl), absurd same, fun j hj _ => (states j).trans (if_neg hj)⟩
  have stored := commitSlot_stored hk clean same
  have elsewhere (j : Nat) (hj : j ≠ s.ledSlot l) : (s.commitSlot l k).slotState l j = (committed s l k).slotState l j := by
    exact stored.slotState (by rw [led, length_toBytes, range, range]; omega)
  refine ⟨?_, (elsewhere k (Ne.symm same)).trans ((states k).trans (if_pos rfl)), fun _ => ?_,
    fun j hj ho => (elsewhere j ho).trans ((states j).trans (if_neg hj))⟩
  · rw [← word]
    exact stored.ledCommit (by rw [led, range]; omega)
  · unfold State.slotState
    rw [stored.led, led, stored.rawNat_same]
    unfold retiredState
    split <;> rfl

end Commit

/-! ### Damage -/

/-- A relation that holds along every step of a walk holds from its start to its end. -/
theorem foldl_rel {α : Type} {R : State → State → Prop} (refl : ∀ s, R s s) (trans : ∀ {s t u}, R s t → R t u → R s u)
    {f : State → α → State} (step : ∀ s x, R s (f s x)) (xs : List α) (s : State) : R s (xs.foldl f s) := by
  induction xs generalizing s with
  | nil => exact refl s
  | cons x xs ih => exact trans (step s x) (ih _)

/-- What the step at `x` brings about, and no step undoes, holds at the end of a walk that passes `x`. -/
theorem foldl_reaches {α : Type} {R : State → State → Prop} (refl : ∀ s, R s s) (trans : ∀ {s t u}, R s t → R t u → R s u)
    {f : State → α → State} (step : ∀ s x, R s (f s x)) {P : State → Prop} (stays : ∀ {s t}, R s t → P s → P t) {s : State} {x : α}
    (reached : ∀ t, R s t → P (f t x)) {xs : List α} (hx : x ∈ xs) : P (xs.foldl f s) := by
  obtain ⟨before, after, rfl⟩ := List.append_of_mem hx
  rw [List.foldl_append, List.foldl_cons]
  exact stays (foldl_rel refl trans step after _) (reached _ (foldl_rel refl trans step before s))

/-! #### The stages -/

/-- From `s` to `t` stages stopped, and nothing else of what a slot needs changed. -/
def Stopped (s t : State) : Prop :=
  Tbl.wf (fun _ => ({} : StageCtx)) s.stages = true →
    Tbl.wf (fun _ => ({} : StageCtx)) t.stages = true ∧ t.mbs = s.mbs ∧ ∀ n x, t.stg n x = s.stg n x ∨ (t.stg n x).running = false

namespace Stopped

variable {s t u : State}

theorem refl (s : State) : Stopped s s := fun wf => ⟨wf, rfl, fun _ _ => .inl rfl⟩

theorem trans (h : Stopped s t) (k : Stopped t u) : Stopped s u := fun wf => by
  obtain ⟨wft, mbs, stages⟩ := h wf
  obtain ⟨wfu, mbs', stages'⟩ := k wft
  refine ⟨wfu, mbs'.trans mbs, fun n x => ?_⟩
  rcases stages' n x with same | stopped
  · rw [same]
    exact stages n x
  · exact .inr stopped

theorem running (h : Stopped s t) (wf : Tbl.wf (fun _ => ({} : StageCtx)) s.stages = true) {n x : Nat}
    (stopped : (s.stg n x).running = false) : (t.stg n x).running = false := by
  rcases (h wf).2.2 n x with same | stopped'
  · rw [same]
    exact stopped
  · exact stopped'

/-- A stage that runs on needs what it needed. -/
theorem slotNeeds (h : Stopped s t) (wf : Tbl.wf (fun _ => ({} : StageCtx)) s.stages = true) {n x l : Nat}
    (needs : s.slotNeeds n x l = true) : t.slotNeeds n x l = true ∨ (t.stg n x).running = false := by
  obtain ⟨-, mbs, stages⟩ := h wf
  rcases stages n x with same | stopped
  · left
    unfold State.slotNeeds State.mbc at needs ⊢
    rw [same, mbs]
    exact needs
  · exact .inr stopped

end Stopped

theorem stg_stopStage {s : State} (wf : Tbl.wf (fun _ => ({} : StageCtx)) s.stages = true) (n x m y : Nat) :
    (s.stopStage n x).stg m y = if m * 32 + y = n * 32 + x then { s.stg n x with running := false } else s.stg m y :=
  get_set (d := fun _ => ({} : StageCtx)) wf

theorem stopStage_stopped (s : State) (n x : Nat) : Stopped s (s.stopStage n x) := fun wf => by
  refine ⟨wf_set (d := fun _ => ({} : StageCtx)) wf, rfl, fun m y => ?_⟩
  rw [stg_stopStage wf]
  split
  · exact .inr rfl
  · exact .inl rfl

/-- A damaged ledger stops the stage of an entry of the stages' table. -/
def stopNeeding (l : Nat) (s : State) (e : Nat × StageCtx) : State :=
  if s.slotNeeds (e.1 / 32) (e.1 % 32) l then s.stopStage (e.1 / 32) (e.1 % 32) else s

theorem stopNeeding_stopped (l : Nat) (s : State) (e : Nat × StageCtx) : Stopped s (stopNeeding l s e) := by
  unfold stopNeeding
  split
  · exact stopStage_stopped s _ _
  · exact .refl s

/-- A key that a table reads other than the default stands in it. -/
theorem mem_of_get_ne {α : Type} {t : Tbl α} {k : Nat} {d : α} (h : Tbl.get t k d ≠ d) : ∃ x, (k, x) ∈ t := by
  induction t with
  | nil => exact absurd rfl h
  | cons e t ih =>
    obtain ⟨j, y⟩ := e
    unfold Tbl.get at h
    split at h
    next same => exact ⟨y, by rw [same]; exact List.mem_cons_self⟩
    next =>
      split at h
      · exact absurd rfl h
      · obtain ⟨x, hx⟩ := ih h
        exact ⟨x, List.mem_cons_of_mem _ hx⟩

/-- Every stage whose slot needs the ledger has stopped (R488). -/
theorem stopNeeding_reaches {s : State} {l n x : Nat} (wf : Tbl.wf (fun _ => ({} : StageCtx)) s.stages = true) (hx : x < 32)
    (needs : s.slotNeeds n x l = true) : ((s.stages.foldl (stopNeeding l) s).stg n x).running = false := by
  have listed : ∃ g, (sk n x, g) ∈ s.stages := by
    refine mem_of_get_ne (d := {}) fun none => ?_
    have idle : s.stg n x = {} := none
    unfold State.slotNeeds at needs
    rw [idle] at needs
    exact Bool.noConfusion needs
  obtain ⟨g, mem⟩ := listed
  have key : sk n x / 32 = n ∧ sk n x % 32 = x := by unfold sk; omega
  refine foldl_reaches (R := fun t u => Stopped t u) Stopped.refl Stopped.trans (stopNeeding_stopped l)
    (P := fun t => Tbl.wf (fun _ => ({} : StageCtx)) t.stages = true ∧ (t.stg n x).running = false)
    (fun h p => ⟨(h p.1).1, h.running p.1 p.2⟩) (fun t walked => ?_) mem |>.2
  have wft := (walked wf).1
  refine ⟨(stopNeeding_stopped l t (sk n x, g) wft).1, ?_⟩
  rcases walked.slotNeeds wf needs with still | stopped
  · unfold stopNeeding
    dsimp only
    rw [key.1, key.2, if_pos still, stg_stopStage wft, if_pos rfl]
  · exact (stopNeeding_stopped l t (sk n x, g)).running wft stopped

/-- Stopping stages leaves what stopping one leaves. -/
theorem stopNeeding_keeps {β : Type} {view : State → β} (h : ∀ t n x, view (t.stopStage n x) = view t) (l : Nat)
    (xs : List (Nat × StageCtx)) (s : State) : view (xs.foldl (stopNeeding l) s) = view s := by
  refine foldl_keeps view (fun t e => ?_) xs s
  unfold stopNeeding
  exact ite_keeps view (h t _ _) rfl

/-! #### The updates -/

/-- From `s` to `t` updates of a damaged ledger failed. -/
structure Failed (l : Nat) (s t : State) : Prop where
  led : (s.led l).damaged ≠ none → (t.led l).damaged = (s.led l).damaged ∧ (t.led l).fetch = (s.led l).fetch
  log : s.errBuf <+: t.errBuf
  stages : t.stages = s.stages
  trig : ∀ v, (t.updEng v).trig = (s.updEng v).trig ∨ (t.updEng v).trig = none

namespace Failed

variable {l : Nat} {s t u : State}

theorem refl (s : State) : Failed l s s := ⟨fun _ => ⟨rfl, rfl⟩, List.prefix_rfl, rfl, fun _ => .inl rfl⟩

theorem trans (h : Failed l s t) (k : Failed l t u) : Failed l s u where
  led hd := by
    obtain ⟨damaged, fetch⟩ := h.led hd
    obtain ⟨damaged', fetch'⟩ := k.led (damaged ▸ hd)
    exact ⟨damaged'.trans damaged, fetch'.trans fetch⟩
  log := h.log.trans k.log
  stages := k.stages.trans h.stages
  trig v := by
    rcases k.trig v with same | ended
    · rw [same]
      exact h.trig v
    · exact .inr ended

end Failed

theorem updNonfinite_keeps (s : State) (l step : Nat) : ((s.updNonfinite l step).led l).damaged = (s.led l).damaged
    ∧ ((s.updNonfinite l step).led l).fetch = (s.led l).fetch ∧ s.errBuf <+: (s.updNonfinite l step).errBuf
    ∧ (s.updNonfinite l step).stages = s.stages ∧ ∀ v, (s.updNonfinite l step).updEng v = s.updEng v := by
  rcases updNonfinite_cases s l step with ⟨-, gone⟩ | ⟨-, ended⟩
  · exact ⟨congrArg Ledger.damaged (gone.led l), congrArg Ledger.fetch (gone.led l), gone.log, gone.toAside.stages, gone.updEng⟩
  · rw [ended, State.shardEnded, led_setLed _ _ (ends_ne s l step false)]
    exact ⟨rfl, rfl, List.prefix_rfl, rfl, fun _ => rfl⟩

theorem updFail_failed {s : State} {v : Nat} {g : Trig} (h : (s.updEng v).trig = some g) (st ev : Nat) :
    Failed g.led s (s.updFail v st ev) ∧ ((s.updFail v st ev).updEng v).trig = none := by
  obtain ⟨u, w, -, freed, ended, -, fail⟩ := updFail_parts h st ev
  obtain ⟨damaged, fetch, log, stages, engines⟩ := updNonfinite_keeps w g.led g.step
  have idle : ({ ran := true } : UpdEngine) ≠ {} := fun e => Bool.noConfusion (congrArg UpdEngine.ran e)
  have engine (x : Nat) : w.updEng x = if x = v then { ran := true } else s.updEng x := by
    rw [ended.updEng idle]
    exact if_congr Iff.rfl rfl (freed.updEng x)
  rw [fail]
  refine ⟨⟨fun hd => ?_, ?_, ?_, fun x => ?_⟩, ?_⟩
  · have waits : w.led g.led = { s.led g.led with waiting := false } := by
      rw [ended.led, freed.led, led_setLed]
      exact fun e => hd (congrArg Ledger.damaged e)
    rw [damaged, fetch, waits]
    exact ⟨rfl, rfl⟩
  · exact freed.log.trans (ended.aside.log.trans log)
  · exact stages.trans (ended.aside.stages.trans freed.stages)
  · rw [engines, engine]
    split
    · exact .inr rfl
    · exact .inl rfl
  · rw [engines, engine, if_pos rfl]

/-- The update of engine v on a damaged ledger ends with the status. -/
def failOn (l st : Nat) (s : State) (v : Nat) : State :=
  match (s.updEng v).trig with
  | some t => if t.led = l then s.updFail v st 2 else s
  | none => s

theorem failOn_failed (l st : Nat) (s : State) (v : Nat) : Failed l s (failOn l st s v) := by
  unfold failOn
  split
  next g trig =>
    split
    next on => exact on ▸ (updFail_failed trig st 2).1
    next => exact .refl s
  next => exact .refl s

theorem failOn_reaches {s : State} {l st v : Nat} {g : Trig} (trig : (s.updEng v).trig = some g) (on : g.led = l)
    {vs : List Nat} (hv : v ∈ vs) : ((vs.foldl (failOn l st) s).updEng v).trig = none := by
  refine foldl_reaches (R := Failed l) Failed.refl Failed.trans (failOn_failed l st) (P := fun t => (t.updEng v).trig = none)
    (fun h p => ?_) (fun t walked => ?_) hv
  · rcases h.trig v with same | ended
    · exact same.trans p
    · exact ended
  · rcases walked.trig v with same | ended
    · have running := same.trans trig
      unfold failOn
      rw [running]
      dsimp only
      rw [if_pos on]
      exact (updFail_failed running st 2).2
    · unfold failOn
      rw [ended]
      exact ended

/-! #### The fault -/

theorem fetchDrop_damaged {s : State} {l d : Nat} (damaged : (s.led l).damaged = some d) (free : Bool) :
    ((s.fetchDrop l free).led l).damaged = some d ∧ ((s.fetchDrop l free).led l).fetch = none
      ∧ s.errBuf <+: (s.fetchDrop l free).errBuf ∧ (s.fetchDrop l free).stages = s.stages
      ∧ (s.fetchDrop l free).mbs = s.mbs ∧ ∀ v, (s.fetchDrop l free).updEng v = s.updEng v := by
  cases fetch : (s.led l).fetch with
  | none =>
    have same : s.fetchDrop l free = s := by
      unfold State.fetchDrop
      rw [fetch]
    rw [same]
    exact ⟨damaged, fetch, List.prefix_rfl, rfl, rfl, fun _ => rfl⟩
  | some f =>
    have ne : ({ s.led l with fetch := none, waiting := false } : Ledger) ≠ {} := fun e =>
      Option.some_ne_none _ (damaged.symm.trans (congrArg Ledger.damaged e))
    have led := led_fetchDrop fetch ne free
    obtain ⟨u, eq, -, aside⟩ := fetchDrop_some fetch free
    refine ⟨by rw [led]; exact damaged, by rw [led], ?_⟩
    rw [eq]
    exact ⟨aside.log, aside.stages, aside.mbs, aside.updEng⟩

/-- The state in which the damage is logged and recorded. -/
def faulted (s : State) (l st : Nat) : State :=
  (s.logEnt 4 Blk.led 0xFF { status := st, at0 := some (Reg.LED_STEP 0), info1 := w l }).setLed l { s.led l with damaged := some st }

theorem damaged_faulted (s : State) (l st : Nat) : ((faulted s l st).led l).damaged = some st :=
  congrArg Ledger.damaged (led_setLed _ l (x := { s.led l with damaged := some st }) fun e =>
    Option.some_ne_none _ (congrArg Ledger.damaged e))

/-- The status is logged (R457). -/
theorem logged_faulted (s : State) (l st : Nat) : ∃ e ∈ (faulted s l st).errBuf, e.block = Blk.led ∧ e.status = st ∧ e.info1 = w l :=
  ⟨_, List.mem_append_right _ (List.mem_singleton.2 rfl), rfl, rfl, rfl⟩

theorem ledDamage_eq (s : State) (l st : Nat) : s.ledDamage l st = (List.range 16).foldl (failOn l st)
    (((faulted s l st).fetchDrop l true).stages.foldl (stopNeeding l) ((faulted s l st).fetchDrop l true)) := rfl

theorem ledDamage_spec (s : State) (l st : Nat) :
    let t := s.ledDamage l st
    (t.led l).damaged = some st ∧ (t.led l).fetch = none ∧ (∃ e ∈ t.errBuf, e.block = Blk.led ∧ e.status = st ∧ e.info1 = w l)
      ∧ (Tbl.wf (fun _ => ({} : StageCtx)) s.stages = true → ∀ n x, x < 32 → s.slotNeeds n x l = true → (t.stg n x).running = false)
      ∧ ∀ v < 16, ∀ g, (s.updEng v).trig = some g → g.led = l → (t.updEng v).trig = none := by
  obtain ⟨damaged, fetch, log, stages, mbs, engines⟩ := fetchDrop_damaged (damaged_faulted s l st) true
  obtain ⟨e, logged, entry⟩ := logged_faulted s l st
  rw [ledDamage_eq]
  generalize (faulted s l st).fetchDrop l true = u at *
  have ledgers := stopNeeding_keeps (view := State.ledgers) (fun _ _ _ => rfl) l u.stages u
  have buffer := stopNeeding_keeps (view := State.errBuf) (fun _ _ _ => rfl) l u.stages u
  have updates := stopNeeding_keeps (view := State.updEngines) (fun _ _ _ => rfl) l u.stages u
  have failed := foldl_rel (R := Failed l) Failed.refl Failed.trans (failOn_failed l st) (List.range 16) (u.stages.foldl (stopNeeding l) u)
  have led : (u.stages.foldl (stopNeeding l) u).led l = u.led l := by
    unfold State.led
    rw [ledgers]
  obtain ⟨damaged', fetch'⟩ := failed.led (by rw [led, damaged]; exact Option.some_ne_none _)
  refine ⟨by rw [damaged', led, damaged], by rw [fetch', led, fetch], ⟨e, failed.log.subset ?_, entry⟩, fun wf n x hx needs => ?_,
    fun v hv g trig on => failOn_reaches (g := g) ?_ on (List.mem_range.2 hv)⟩
  · rw [buffer]
    exact log.subset logged
  · have same : u.slotNeeds n x l = s.slotNeeds n x l := by
      unfold State.slotNeeds State.mbc State.stg
      rw [stages, mbs]
      rfl
    have stopped := stopNeeding_reaches (s := u) (n := n) (by rw [stages]; exact wf) hx (same.trans needs)
    unfold State.stg at stopped ⊢
    rw [failed.stages]
    exact stopped
  · unfold State.updEng
    rw [updates]
    exact (congrArg UpdEngine.trig (engines v)).trans trig

theorem fxLedgerReadFault_hits {s : State} {l st : Nat} (declared : l < s.ledCount) (kind : st = St.parity ∨ st = St.poison) :
    fxLedgerReadFault l st s = s.ledDamage l st := if_neg (by omega)

/-! ### The ledger window (R143) -/

def ledSelRow : RegRow := ⟨.LED_SEL, 0x3000003B0028, [(4, 0x1000000)], false, 0x0, .jobRR, 0x1FFFFF, 0x0, []⟩

theorem jobReg_ledSel : JobReg (Reg.LED_SEL 0) ⟨ledSelRow, [0], 0⟩ where
  low := by decide
  high := by decide
  aligned := by decide
  hit := by decide +kernel
  writer := rfl
  whole := rfl

theorem regEffect_ledSel {s : State} {m src a : Nat} {h : RegHit} {new : Word} {j : Nat} {v : Word}
    (hx : s.fieldNew a (v &&& halfMask j) (halfMask j) = some new) (hn : h.row.name = .LED_SEL) :
    s.regEffect m src h a j v = (St.ok, s.ledLatch new) := by
  simp only [State.regEffect, hx, hn]

/-- A write of LED_SEL selects a ledger and a slot of it. -/
theorem written_ledSel (old v : Word) : bits (written ledSelRow old v 0xFFFFFFFFFFFFFFFF) 15 0 = bits v 15 0
    ∧ bits (written ledSelRow old v 0xFFFFFFFFFFFFFFFF) 20 16 = bits v 20 16 := by
  have row : ledSelRow ∈ regRows := row_mem jobReg_ledSel.hit
  have taken : ∀ i < 21, ledSelRow.rw.testBit i = true := by decide
  exact ⟨bits_congr fun i _ hi => bit_written_rw row old v (by omega) (taken i (by omega)),
    bits_congr fun i _ hi => bit_written_rw row old v (by omega) (taken i (by omega))⟩

/-- The six data registers take these words. -/
def latchLed (s : State) (d0 d1 d2 d3 d4 d5 : Word) : State :=
  (((((s.wr (Reg.LED_DATA0 0) d0).wr (Reg.LED_DATA1 0) d1).wr (Reg.LED_DATA2 0) d2).wr (Reg.LED_DATA3 0) d3).wr (Reg.LED_DATA4 0) d4).wr
    (Reg.LED_DATA5 0) d5

/-- The window reads these words. -/
def ledReads (t : State) (d0 d1 d2 d3 d4 d5 : Word) : Prop :=
  t.rd (Reg.LED_DATA0 0) = d0 ∧ t.rd (Reg.LED_DATA1 0) = d1 ∧ t.rd (Reg.LED_DATA2 0) = d2 ∧ t.rd (Reg.LED_DATA3 0) = d3
    ∧ t.rd (Reg.LED_DATA4 0) = d4 ∧ t.rd (Reg.LED_DATA5 0) = d5

theorem ledReads_latchLed (s : State) (d0 d1 d2 d3 d4 d5 : Word) :
    ledReads (latchLed s d0 d1 d2 d3 d4 d5) d0 d1 d2 d3 d4 d5 := by
  simp [ledReads, latchLed, rd_wr, Reg.LED_DATA0, Reg.LED_DATA1, Reg.LED_DATA2, Reg.LED_DATA3, Reg.LED_DATA4, Reg.LED_DATA5]

/-- The shard, the depth, the roles and the count of replicas, as LED_DATA2 shows them. -/
def ledInfo (s : State) (l : Nat) : Word :=
  w ((s.led l).shard + at_ 32 (s.led l).depth + at_ 38 (if (s.led l).owner then 1 else 0) + at_ 39 (if (s.led l).readOnly then 1 else 0)
    + at_ 40 (if (s.led l).owner then s.rawNat ((s.led l).hdr + 0x28) 4 % 2 ^ 10 else 0))

section Latch
variable (s : State) (v : Word)

/-- The window's selection is stored. -/
def ledSelected : State := s.wr (Reg.LED_SEL 0) (w (bits v 15 0 + at_ 16 (bits v 20 16)))

theorem ledCount_ledSelected : (ledSelected s v).ledCount = s.ledCount := by
  unfold ledSelected State.ledCount State.rdB
  rw [rd_wr, if_neg (by decide)]

theorem latchLed_regWrites (d0 d1 d2 d3 d4 d5 : Word) : RegWrites s (latchLed (ledSelected s v) d0 d1 d2 d3 d4 d5) :=
  (((((((RegWrites.refl s).wr _ _).wr _ _).wr _ _).wr _ _).wr _ _).wr _ _).wr _ _

variable {s v}

theorem ledLatch_undeclared (h : s.ledCount ≤ bits v 15 0) : s.ledLatch v = latchLed (ledSelected s v) 0 0 0 0 0 0 := by
  rw [← ledCount_ledSelected s v] at h
  exact if_pos h

/-- What the window shows of a declared ledger and of a slot of it. -/
theorem ledLatch_declared (h : bits v 15 0 < s.ledCount) : s.ledLatch v = latchLed (ledSelected s v)
    (s.ledCommit (bits v 15 0)) (s.ledOccupancy (bits v 15 0)) (ledInfo s (bits v 15 0))
    (w (s.slotFprint (bits v 15 0) (s.ledSlot (bits v 15 0))))
    (if (s.led (bits v 15 0)).depth ≤ bits v 20 16 then 0
      else w (s.slotState (bits v 15 0) (bits v 20 16) + 2 ^ 16 * s.slotRefs (bits v 15 0) (bits v 20 16)))
    (if (s.led (bits v 15 0)).depth ≤ bits v 20 16 then 0 else w (s.slotStep (bits v 15 0) (bits v 20 16))) := by
  have declared : ¬(ledSelected s v).ledCount ≤ bits v 15 0 := by
    rw [ledCount_ledSelected]
    exact not_le.2 h
  unfold ledSelected at declared
  unfold State.ledLatch
  dsimp only
  rw [if_neg declared]
  by_cases beyond : (s.led (bits v 15 0)).depth ≤ bits v 20 16
  · rw [if_pos beyond, if_pos beyond, if_pos beyond]
    rfl
  · rw [if_neg beyond, if_neg beyond, if_neg beyond, Nat.mul_comm (2 ^ 16)]
    rfl

theorem ledLatch_regWrites (s : State) (v : Word) : RegWrites s (s.ledLatch v) := by
  rcases Nat.lt_or_ge (bits v 15 0) s.ledCount with declared | undeclared
  · rw [ledLatch_declared declared]
    exact latchLed_regWrites s v _ _ _ _ _ _
  · rw [ledLatch_undeclared undeclared]
    exact latchLed_regWrites s v _ _ _ _ _ _

end Latch

theorem exec_ledSelWrite_latch {m : BitVec 8} {v : Word} {s : State} (hl : s.Live) (hc : s.Canonical) (may : Claim.mayWrite s m) :
    ∃ new, bits new 15 0 = bits v 15 0 ∧ bits new 20 16 = bits v 20 16
      ∧ exec (.ledSelWrite m v) s = .next (s.commit ((s.ledLatch new).answer St.ok 0)) := by
  obtain ⟨ledger, slot⟩ := written_ledSel (s.rd (RegHit.addr ⟨ledSelRow, [0], 0⟩ (Reg.LED_SEL 0))) v
  refine ⟨_, ledger, slot, ?_⟩
  rw [exec_ledSelWrite, live_eq hl hc, jobReg_ledSel.write may s.devId rfl,
    regEffect_ledSel (fieldNew_of_noRanges jobReg_ledSel.hit rfl _ _) rfl, halfMask_zero, and_ones]

/-- Settles O33: the bytes that a commit writes, the walks of a ledger's damage, and the effect of LED_SEL. -/
theorem ledgerRecords : Obligations.LedgerRecords := by
  unfold Obligations.LedgerRecords
  refine ⟨fun s l k hk clean => commitSlot_spec hk clean, fun l st s hl hc declared kind _ => ?_, fun m v s hl hc may => ?_⟩
  · have spec := ledDamage_spec s l.toNat st.toNat
    generalize ht : s.ledDamage l.toNat st.toNat = t at spec
    obtain ⟨damaged, fetch, logged, stopped, failed⟩ := spec
    refine ⟨s.commit t, ?_, damaged, fetch, logged, fun wf n _ x hx needs => stopped wf n x hx needs, failed⟩
    rw [exec_ledgerReadFault, live_eq hl hc, fxLedgerReadFault_hits declared kind, ht]
  · obtain ⟨new, ledger, slot, eq⟩ := exec_ledSelWrite_latch (v := v) hl hc may
    have writes := ledLatch_regWrites s new
    have rd (a : Nat) := commit_answer_rd hc (st := St.ok) writes.regFrame.toFrame a
    rw [← ledger, ← slot]
    refine ⟨_, eq, fun undeclared => ?_, fun declared => ?_, ?_, fun a => ?_⟩
    · simp only [rd]
      rw [ledLatch_undeclared undeclared]
      exact ledReads_latchLed _ _ _ _ _ _ _
    · simp only [rd]
      rw [ledLatch_declared declared]
      obtain ⟨d0, d1, -, d3, d4, d5⟩ := ledReads_latchLed (ledSelected s new) _ _ (ledInfo s _) _ _ _
      exact ⟨d0, d1, d3, d4, d5⟩
    · rw [commit_ledgers, answer_ledgers, writes.only]
    · rw [commit_answer_byte hc writes.regFrame.toFrame, writes.byte]

end Sys2Proof.Proofs
end

section
/-!
SUPPORT. A matrix engine and its registers: what writing one engine leaves of the others, index registers, and an instruction that goes
on, branches or faults (R148 to R151, R171). Nothing is assumed about the table of engines: an engine that holds index registers is no
default entry, and stays listed.
-/

namespace Sys2Proof.Proofs

open Sys2Proof Sys2Proof.Machine Sys2Proof.Laws

/-! ### The engine that is written -/

/-- An engine that holds index registers is not what an unlisted engine reads as. -/
theorem engine_ne_default {g : Engine} (h : g.ix.length = 16) : g ≠ {} := by
  rintro rfl
  exact absurd h (by decide)

theorem eng_setEng_same {s : State} {e : Nat} {g : Engine} (h : g.ix.length = 16) : (s.setEng e g).eng e = g :=
  (get_set_ne _ _ _ (engine_ne_default h)).trans (if_pos rfl)

theorem eng_setEng_other {s : State} {e j : Nat} {g : Engine} (h : g.ix.length = 16) (hj : j ≠ e) : (s.setEng e g).eng j = s.eng j :=
  (get_set_ne _ _ _ (engine_ne_default h)).trans (if_neg hj)

@[simp] theorem eng_wr (s : State) (a j : Nat) (v : Word) : (s.wr a v).eng j = s.eng j := rfl
@[simp] theorem eng_wrB (s : State) (a hi lo n j : Nat) : (s.wrB a hi lo n).eng j = s.eng j := rfl
@[simp] theorem eng_addB (s : State) (a hi lo n j : Nat) : (s.addB a hi lo n).eng j = s.eng j := rfl
@[simp] theorem commit_engines (s t : State) : (s.commit t).engines = t.engines := rfl
@[simp] theorem eng_commit (s t : State) (j : Nat) : (s.commit t).eng j = t.eng j := rfl

@[simp] theorem raise_engines (s : State) (lg blk evt en ev : Nat) (i : EvInfo) : (s.raise lg blk evt en ev i).engines = s.engines := by
  unfold State.raise
  exact ite_keeps State.engines rfl rfl

@[simp] theorem eng_raise (s : State) (lg blk evt en ev : Nat) (i : EvInfo) (j : Nat) :
    (s.raise lg blk evt en ev i).eng j = s.eng j := by
  unfold State.eng
  rw [raise_engines]

/-- From `s` to `t` of all engines only `e` changed, and only registers in `R` did; memory and the stages stay. -/
structure OnEngine (R : Nat → Prop) (e : Nat) (s t : State) : Prop extends GoesOn R s t where
  others : ∀ j, j ≠ e → t.eng j = s.eng j

namespace OnEngine

variable {R : Nat → Prop} {e : Nat} {s t u : State}

theorem refl (s : State) : OnEngine R e s s := ⟨.refl s, fun _ _ => rfl⟩

theorem trans (h : OnEngine R e s t) (k : OnEngine R e t u) : OnEngine R e s u :=
  ⟨h.toGoesOn.trans k.toGoesOn, fun j hj => (k.others j hj).trans (h.others j hj)⟩

theorem mono {Q : Nat → Prop} (h : OnEngine Q e s t) (hq : ∀ a, Q a → R a) : OnEngine R e s t := ⟨h.toGoesOn.mono hq, h.others⟩

theorem wr {a : Nat} (h : OnEngine R e s t) (ha : R a) (v : Word) : OnEngine R e s (t.wr a v) := ⟨h.toGoesOn.wr ha v, h.others⟩

theorem wrB {a : Nat} (h : OnEngine R e s t) (ha : R a) (hi lo n : Nat) : OnEngine R e s (t.wrB a hi lo n) := h.wr ha _

theorem addB {a : Nat} (h : OnEngine R e s t) (ha : R a) (hi lo n : Nat) : OnEngine R e s (t.addB a hi lo n) := h.wr ha _

theorem raise {evt : Nat} (h : OnEngine R e s t) (he : R evt) (lg blk en ev : Nat) (i : EvInfo) :
    OnEngine R e s (t.raise lg blk evt en ev i) :=
  ⟨h.toGoesOn.raise he _ _ _ _ _, fun j hj => (eng_raise t _ _ _ _ _ _ j).trans (h.others j hj)⟩

theorem setEng {g : Engine} (h : OnEngine R e s t) (hg : g.ix.length = 16) : OnEngine R e s (t.setEng e g) :=
  ⟨h.toGoesOn.keep rfl rfl rfl, fun j hj => (eng_setEng_other hg hj).trans (h.others j hj)⟩

theorem ite {c : Prop} [Decidable c] (h : OnEngine R e s t) (k : OnEngine R e s u) : OnEngine R e s (if c then t else u) := by
  split
  · exact h
  · exact k

theorem byte_eq (h : OnEngine R e s t) (a : Nat) : t.byte a = s.byte a := h.toAside.byte a id

theorem rdB (h : OnEngine R e s t) {a : Nat} (ha : ¬R a) (hi lo : Nat) : t.rdB a hi lo = s.rdB a hi lo := rdB_of_frame h.toFrame ha hi lo

end OnEngine

/-! ### Going on -/

/-- The registers that every instruction of an engine writes. -/
def goReg (e a : Nat) : Prop := a = mxReg Reg.MX_STATUS e ∨ a = mxReg Reg.MX_CNT_INSTR e

theorem instr_ne_status (e : Nat) : mxReg Reg.MX_CNT_INSTR e ≠ mxReg Reg.MX_STATUS e := by
  unfold mxReg Reg.MX_CNT_INSTR Reg.MX_STATUS
  omega

/-- The engine has counted one more instruction. -/
theorem count_addB (s : State) (a n : Nat) : ((s.addB a 63 0 n).rd a).toNat = min (2 ^ 64 - 1) ((s.rd a).toNat + n) := by
  have whole (v : Word) : bits v 63 0 = v.toNat := by
    have := v.isLt
    unfold bits nbits
    omega
  have field := rdB_addB_same s (a := a) (hi := 63) (lo := 0) n (by decide) (by decide)
  unfold State.rdB at field
  rw [whole, whole] at field
  exact field

section Next
variable {s : State} {e : Nat} (h : (s.eng e).ix.length = 16)

theorem mxNext_state (s : State) (e : Nat) : (s.mxNext e).mxState e = 1 := by
  unfold State.mxNext State.mxState State.rdB
  dsimp only
  rw [State.addB, State.wrB, rd_wr, if_neg (instr_ne_status e)]
  exact rdB_wrB_same _ 1 (by decide) (by decide)

theorem mxNext_pc (s : State) (e : Nat) : Claim.mxPc (s.mxNext e) e = (Claim.mxPc s e + 1) % 2 ^ 13 := by
  unfold State.mxNext Claim.mxPc State.rdB
  dsimp only
  rw [State.addB, State.wrB, rd_wr, if_neg (instr_ne_status e)]
  exact (rdB_wrB_field _ 1 (by decide) (by decide) (.inr (by decide))).trans (rdB_wrB_same _ _ (by decide) (by decide))

theorem mxNext_count (s : State) (e : Nat) : ((s.mxNext e).rd (mxReg Reg.MX_CNT_INSTR e)).toNat
    = min (2 ^ 64 - 1) ((s.rd (mxReg Reg.MX_CNT_INSTR e)).toNat + 1) := by
  unfold State.mxNext
  dsimp only
  rw [count_addB]
  unfold State.setMxState State.wrB
  rw [rd_wr, if_neg (instr_ne_status e).symm, rd_wr, if_neg (instr_ne_status e).symm, setEng_rd]

include h

theorem mxNext_eng : (s.mxNext e).eng e = { s.eng e with wait := .none } := eng_setEng_same h

theorem mxNext_onEngine : OnEngine (goReg e) e s (s.mxNext e) :=
  ((((OnEngine.refl s).setEng (g := { s.eng e with wait := .none }) h).wrB (.inl rfl) 28 16 _).wrB (.inl rfl) 2 0 1).addB (.inr rfl) 63 0 1

end Next

/-- From `s` to `t` engine e went on to the word `pc`, and beside it only the registers in `ws` changed. -/
structure Goes (e pc : Nat) (ws : List Nat) (s t : State) : Prop extends OnEngine (fun a => goReg e a ∨ a ∈ ws) e s t where
  state : t.mxState e = 1
  pc : Claim.mxPc t e = pc % 2 ^ 13
  count : (t.rd (mxReg Reg.MX_CNT_INSTR e)).toNat = min (2 ^ 64 - 1) ((s.rd (mxReg Reg.MX_CNT_INSTR e)).toNat + 1)

/-- An instruction prepared the engine, and the engine goes on to the next word. -/
theorem OnEngine.next {e : Nat} {ws : List Nat} {s u : State} (h : OnEngine (· ∈ ws) e s u) (len : (u.eng e).ix.length = 16)
    (hs : mxReg Reg.MX_STATUS e ∉ ws) (hi : mxReg Reg.MX_CNT_INSTR e ∉ ws) : Goes e (Claim.mxPc s e + 1) ws s (u.mxNext e) where
  toOnEngine := (h.mono fun _ => .inr).trans ((mxNext_onEngine len).mono fun _ => .inl)
  state := mxNext_state u e
  pc := by rw [mxNext_pc, Claim.mxPc, h.rdB hs, ← Claim.mxPc]
  count := by rw [mxNext_count, h.toFrame.rd _ hi]

/-- An instruction prepared the engine, and the engine branches. -/
theorem OnEngine.jump {e : Nat} {s u : State} (h : OnEngine (fun _ => False) e s u) (up : s.mxState e = 1) (target : Nat) :
    Goes e target [] s (u.mxJump e target) where
  toOnEngine := ((h.mono fun _ => False.elim).wrB (.inl (.inl rfl)) 28 16 _).addB (.inl (.inr rfl)) 63 0 1
  state := by
    unfold State.mxJump State.mxState State.rdB
    rw [State.addB, State.wrB, rd_wr, if_neg (instr_ne_status e)]
    exact (rdB_wrB_field _ _ (by decide) (by decide) (.inl (by decide))).trans ((h.rdB id 2 0).trans up)
  pc := by
    unfold State.mxJump Claim.mxPc State.rdB
    rw [State.addB, State.wrB, rd_wr, if_neg (instr_ne_status e)]
    exact rdB_wrB_same _ _ (by decide) (by decide)
  count := by
    unfold State.mxJump
    rw [count_addB]
    unfold State.wrB
    rw [rd_wr, if_neg (instr_ne_status e).symm, h.toFrame.rd _ id]

/-- What an instruction that goes on shows when its command ends. -/
theorem Goes.commit {e pc : Nat} {ws : List Nat} {s t : State} (hc : s.Canonical) (h : Goes e pc ws s t) :
    Claim.mxGoes s (s.commit t) e pc ws := by
  have rd (a : Nat) : (s.commit t).rd a = t.rd a := commit_rd_eq hc h.regs a
  refine ⟨?_, ?_, ?_, fun a hs hi hw => ?_, h.others, fun a => (commit_byte_eq hc h.mem a).trans (h.byte_eq a)⟩
  · exact (congrArg (bits · 2 0) (rd _)).trans h.state
  · exact (congrArg (bits · 28 16) (rd _)).trans h.pc
  · rw [rd, h.count]
  · refine (rd a).trans (h.toFrame.rd a ?_)
    rintro ((rfl | rfl) | hw')
    · exact hs rfl
    · exact hi rfl
    · exact hw hw'

/-! ### Faults -/

theorem mxStage_setMxState (s : State) (e st : Nat) : (s.setMxState e st).mxStage e = s.mxStage e :=
  congrArg (Prod.mk (e / 16)) (rdB_wrB_field s st (by decide) (by decide) (.inr (by decide)))

/-- The stage control's register stands outside the block of a die's matrix engines. -/
theorem cadStatus_ne_mx (e x : Nat) :
    Reg.CAD_STATUS (e / 16) x ≠ mxReg Reg.MX_FAULT e ∧ Reg.CAD_STATUS (e / 16) x ≠ mxReg Reg.MX_STATUS e
    ∧ Reg.CAD_STATUS (e / 16) x ≠ mxReg Reg.MX_EVT e := by
  unfold mxReg Reg.CAD_STATUS Reg.MX_FAULT Reg.MX_STATUS Reg.MX_EVT
  omega

theorem stopStage_rd (s : State) (n x : Nat) {a : Nat} (h : Reg.CAD_STATUS n x ≠ a) : (s.stopStage n x).rd a = s.rd a := by
  unfold State.stopStage State.cadState State.wrB
  dsimp only
  rw [rd_wr, if_neg h, setStg_rd]

theorem stopStage_state (s : State) (n x : Nat) : bits ((s.stopStage n x).rd (Reg.CAD_STATUS n x)) 10 8 = 0 :=
  cadState_state (s.setStg n x { s.stg n x with running := false }) n x (by decide)

theorem stopStage_engines (s : State) (n x : Nat) : (s.stopStage n x).engines = s.engines := rfl

/-- The code and the PC that MX_FAULT records. -/
theorem faultWord_fields {code status pc : Nat} (hc : code < 256) (hs : status < 256) (hp : pc < 2 ^ 13) :
    bits (w (code + at_ 8 status + at_ 16 pc)) 7 0 = code ∧ bits (w (code + at_ 8 status + at_ 16 pc)) 28 16 = pc := by
  simp only [bits, nbits, w, at_, BitVec.toNat_ofNat]
  omega

/-- The engine has recorded a fault and stands. -/
def faultRecorded (s : State) (e code status addr : Nat) (word : Word) : State :=
  (((s.wr (mxReg Reg.MX_FAULT e) (w (code + at_ 8 status + at_ 16 (Claim.mxPc s e)))).wr (mxReg Reg.MX_FAULT_WORD e) word).wr
    (mxReg Reg.MX_FAULT_ADDR e) (w addr)).setMxState e 4

section Fault
variable (s : State) (e code status addr : Nat) (word : Word)

theorem faultRecorded_stage : (faultRecorded s e code status addr word).mxStage e = s.mxStage e := by
  unfold faultRecorded
  rw [mxStage_setMxState]
  unfold State.mxStage State.rdB
  rw [rd_wr, if_neg ?addr, rd_wr, if_neg ?word, rd_wr, if_neg ?fault]
  case addr =>
    unfold mxReg Reg.MX_FAULT_ADDR Reg.MX_STATUS
    omega
  case word =>
    unfold mxReg Reg.MX_FAULT_WORD Reg.MX_STATUS
    omega
  case fault =>
    unfold mxReg Reg.MX_FAULT Reg.MX_STATUS
    omega

theorem faultRecorded_state : (faultRecorded s e code status addr word).mxState e = 4 := rdB_wrB_same _ 4 (by decide) (by decide)

theorem faultRecorded_word : (faultRecorded s e code status addr word).rd (mxReg Reg.MX_FAULT e)
    = w (code + at_ 8 status + at_ 16 (Claim.mxPc s e)) := by
  unfold faultRecorded State.setMxState State.wrB
  rw [rd_wr, if_neg ?status, rd_wr, if_neg ?addr, rd_wr, if_neg ?word, rd_wr_same]
  case status =>
    unfold mxReg Reg.MX_FAULT Reg.MX_STATUS
    omega
  case addr =>
    unfold mxReg Reg.MX_FAULT Reg.MX_FAULT_ADDR
    omega
  case word =>
    unfold mxReg Reg.MX_FAULT Reg.MX_FAULT_WORD
    omega

/-- What the fault's event tells the error log. -/
def faultInfo : EvInfo :=
  { status := status, master := 0x80 + e, unit := (s.mxStage e).2, at0 := some (mxReg Reg.MX_FAULT e)
    at1 := some (mxReg Reg.MX_FAULT_ADDR e) }

/-- The fault has raised its event. -/
def faultRaised : State :=
  (faultRecorded s e code status addr word).raise (e / 16) Blk.mx (mxReg Reg.MX_EVT e) (mxReg Reg.MX_EVT_EN e) 2 (faultInfo s e status)

/-- A fault records itself, raises its event and stops the stage. -/
theorem mxFault_eq : s.mxFault e code status addr word = (faultRaised s e code status addr word).stopStage (e / 16) (s.mxStage e).2 := by
  unfold faultRaised faultInfo
  rw [← faultRecorded_stage s e code status addr word]
  rfl

theorem faultRaised_rd {a : Nat} (h : a ≠ mxReg Reg.MX_EVT e) :
    (faultRaised s e code status addr word).rd a = (faultRecorded s e code status addr word).rd a :=
  (Frame.raise (R := (· = mxReg Reg.MX_EVT e)) (.refl _) rfl ..).rd a h

theorem faultRaised_regFrame : RegFrame (fun _ => True) s (faultRaised s e code status addr word) := by
  refine RegFrame.raise ?_ trivial _ _ _ _ _
  exact ((((RegFrame.refl s).wr trivial _).wr trivial _).wr trivial _).wr trivial _

theorem mxFault_engines : (s.mxFault e code status addr word).engines = s.engines := by
  rw [mxFault_eq, stopStage_engines, faultRaised, raise_engines]
  rfl

theorem mxFault_regFrame : RegFrame (fun _ => True) s (s.mxFault e code status addr word) := by
  rw [mxFault_eq]
  exact (faultRaised_regFrame s e code status addr word).trans ((setStg_regFrame _ _ _ _).wr trivial _)

variable {s code}

/-- What a fault shows when its command ends (R171). -/
theorem mxFault_commit (hc : s.Canonical) (h : code < 256) : Claim.mxFaults s (s.commit (s.mxFault e code 0 addr word)) e code := by
  have frame := mxFault_regFrame s e code 0 addr word
  have rd (a : Nat) : (s.commit (s.mxFault e code 0 addr word)).rd a = (s.mxFault e code 0 addr word).rd a := commit_rd_eq hc frame.regs a
  have eq := mxFault_eq s e code 0 addr word
  obtain ⟨faultAt, statusAt, evtAt⟩ := cadStatus_ne_mx e (s.mxStage e).2
  obtain ⟨codeField, pcField⟩ := faultWord_fields (status := 0) h (by decide) (rdB_lt s (mxReg Reg.MX_STATUS e) 28 16)
  have recorded : (s.mxFault e code 0 addr word).rd (mxReg Reg.MX_FAULT e) = w (code + at_ 8 0 + at_ 16 (Claim.mxPc s e)) := by
    rw [eq, stopStage_rd _ _ _ faultAt, faultRaised_rd _ _ _ _ _ _ (by unfold mxReg Reg.MX_FAULT Reg.MX_EVT; omega), faultRecorded_word]
  refine ⟨?_, ?_, ?_, ?_, ?_, (commit_engines _ _).trans (mxFault_engines ..),
    fun a => (commit_byte_eq hc frame.mem a).trans (frame.byte a)⟩
  · unfold State.mxState State.rdB
    rw [rd, eq, stopStage_rd _ _ _ statusAt, faultRaised_rd _ _ _ _ _ _ (by unfold mxReg Reg.MX_STATUS Reg.MX_EVT; omega)]
    exact faultRecorded_state ..
  · rw [rd, recorded]
    exact codeField
  · rw [rd, recorded]
    exact pcField
  · rw [rd, eq, stopStage_rd _ _ _ evtAt, faultRaised, rd_raise]
    exact bit_setBit _ (by decide)
  · rw [rd, eq]
    exact stopStage_state _ _ _

end Fault

/-! ### Index registers -/

theorem nth_setNth {α : Type} (l : List α) (i j : Nat) (v d : α) (hi : i < l.length) :
    nth (setNth l i v) j d = if j = i then v else nth l j d := by
  induction l generalizing i j with
  | nil => cases hi
  | cons x xs ih =>
    cases i with
    | zero => cases j <;> rfl
    | succ i =>
      cases j with
      | zero => rfl
      | succ j =>
        have rest := ih i j (Nat.lt_of_succ_lt_succ hi)
        simpa [setNth, nth] using rest

theorem length_setNth {α : Type} (l : List α) (i : Nat) (v : α) : (setNth l i v).length = l.length := by
  induction l generalizing i with
  | nil => rfl
  | cons x xs ih => cases i <;> simp [setNth, ih]

section Index
variable {s : State} {e : Nat} (up : Claim.mxUp s e)
include up

theorem setIx_eng (d : Nat) (v : Word) (tag h : Nat) : (s.setIx e d v tag h).eng e = { s.eng e with
    ix := setNth (s.eng e).ix d v, ixTag := setNth (s.eng e).ixTag d tag, ixHandle := setNth (s.eng e).ixHandle d h } :=
  eng_setEng_same ((length_setNth _ _ _).trans up.2.1)

theorem setIx_len (d : Nat) (v : Word) (tag h : Nat) : ((s.setIx e d v tag h).eng e).ix.length = 16 := by
  rw [setIx_eng up]
  exact (length_setNth _ _ _).trans up.2.1

/-- An index register is written and the engine goes on (R150). -/
theorem setIx_goes (d : Nat) (v : Word) (tag h : Nat) : Goes e (Claim.mxPc s e + 1) [] s ((s.setIx e d v tag h).mxNext e) :=
  ((OnEngine.refl s).setEng ((length_setNth _ _ _).trans up.2.1)).next (setIx_len up d v tag h) List.not_mem_nil List.not_mem_nil

theorem setIx_ixSet {d : Nat} (hd : d < 16) (v : Word) (tag h : Nat) :
    Claim.ixSet s ((s.setIx e d v tag h).mxNext e) e d v tag h := by
  obtain ⟨-, ix, ixTag, ixHandle, -⟩ := id up
  have eng : ((s.setIx e d v tag h).mxNext e).eng e = { s.eng e with
      ix := setNth (s.eng e).ix d v, ixTag := setNth (s.eng e).ixTag d tag, ixHandle := setNth (s.eng e).ixHandle d h, wait := .none } := by
    rw [mxNext_eng (setIx_len up d v tag h), setIx_eng up]
  unfold Claim.ixSet Engine.getIx Engine.getTag
  rw [eng]
  refine ⟨?_, ?_, ?_, fun i hi => ⟨?_, ?_, ?_⟩, rfl⟩
  · exact (nth_setNth _ _ _ _ _ (by omega)).trans (if_pos rfl)
  · exact (nth_setNth _ _ _ _ _ (by omega)).trans (if_pos rfl)
  · exact (nth_setNth _ _ _ _ _ (by omega)).trans (if_pos rfl)
  · exact (nth_setNth _ _ _ _ _ (by omega)).trans (if_neg hi)
  · exact (nth_setNth _ _ _ _ _ (by omega)).trans (if_neg hi)
  · exact (nth_setNth _ _ _ _ _ (by omega)).trans (if_neg hi)

end Index

/-! ### An instruction that is due -/

section Due
variable {s : State} {c : Instr} {e : Nat} {f : State → State} (hl : s.Live) (hc : s.Canonical)
  (eq : exec c s = live s (mxRun e c f))
include hl hc eq

theorem exec_due (due : s.mxDue e c = true) : exec c s = .next (s.commit (f s)) := by
  rw [eq, live_eq hl hc]
  exact congrArg (fun t => Host.Outcome.next (s.commit t)) (if_pos due)

theorem exec_notDue (due : s.mxDue e c = false) : exec c s = .next s := by
  have idle : mxRun e c f s = s := if_neg (by rw [due]; exact Bool.false_ne_true)
  rw [eq, live_eq hl hc, idle, commit_of_jnl_nil hc.2.2 rfl rfl rfl]

/-- An instruction whose effect leaves the state has none, due or not. -/
theorem exec_idle (idle : f s = s) : exec c s = .next s := by
  cases due : s.mxDue e c
  · exact exec_notDue hl hc eq due
  · rw [exec_due hl hc eq due, idle, commit_of_jnl_nil hc.2.2 rfl rfl rfl]

theorem exec_faults (due : s.mxDue e c = true) {code addr : Nat} {word : Word} (fault : f s = s.mxFault e code 0 addr word)
    (h : code < 256) : ∃ t, exec c s = .next t ∧ Claim.mxFaults s t e code :=
  ⟨_, exec_due hl hc eq due, fault ▸ mxFault_commit e addr word hc h⟩

theorem exec_goes (due : s.mxDue e c = true) {pc : Nat} {ws : List Nat} (goes : Goes e pc ws s (f s)) :
    ∃ t, exec c s = .next t ∧ Claim.mxGoes s t e pc ws := ⟨_, exec_due hl hc eq due, goes.commit hc⟩

end Due

end Sys2Proof.Proofs
end

section
/-!
SUPPORT. The instructions of a matrix engine that move no tile: profiles, branches, milestone counters, barriers and END (R148 to R154,
R171, R282, R284), and the index-register window (R172).
-/

namespace Sys2Proof.Proofs

open Sys2Proof Sys2Proof.Machine Sys2Proof.Laws

/-! ### Sequencer commands -/

/-- A sequencer command runs on its engine when it is the next instruction, whatever the state. -/
theorem exec_of_mxOf {c : Instr} {e : BitVec 6} (h : Claim.mxOf c = some e) : ∃ f, ∀ s, exec c s = live s (mxRun e.toNat c f) := by
  unfold Claim.mxOf at h
  split at h
  case h_23 => exact nomatch h
  all_goals
    obtain rfl := Option.some.inj h
    exact ⟨_, fun _ => rfl⟩

/-- A started engine holds the index registers and loop counters of R148. -/
theorem startEngine_up (s : State) (e rank cnt x : Nat) (bh bwd : Bool) (d : List Byte)
    (entry : bwd = true → (if bh then (s.eng e).backhaul else (s.eng e).primary).entryBwd ≠ 0xFFFFFFFF) :
    Claim.mxUp (s.startEngine e rank cnt x bh bwd d) e := by
  unfold State.startEngine
  dsimp only
  have starts : ¬((bwd : Prop) ∧ (if bwd then (if bh then (s.eng e).backhaul else (s.eng e).primary).entryBwd
      else (if bh then (s.eng e).backhaul else (s.eng e).primary).entryFwd) = 0xFFFFFFFF) := fun ⟨backward, no⟩ =>
    entry backward ((if_pos backward).symm.trans no)
  rw [if_neg starts]
  unfold Claim.mxUp
  refine ⟨?_, ?_⟩
  · unfold State.mxState State.rdB
    rw [rd_wr_same]
    simp only [bits, nbits, w, at_, BitVec.toNat_ofNat]
    omega
  · simp only [eng_wr]
    rw [eng_setEng_same rfl]
    exact ⟨rfl, rfl, rfl, rfl⟩

/-- CFG stores a register of the engine that no instruction writes besides, and the engine goes on. -/
theorem cfg_goes {s : State} {e : Nat} (up : Claim.mxUp s e) (f : Nat → Nat → Nat) (v : Word)
    (hs : mxReg Reg.MX_STATUS e ≠ mxReg f e) (hi : mxReg Reg.MX_CNT_INSTR e ≠ mxReg f e) :
    Goes e (Claim.mxPc s e + 1) [mxReg f e] s ((s.wr (mxReg f e) v).mxNext e) ∧ ((s.wr (mxReg f e) v).mxNext e).rd (mxReg f e) = v := by
  have wrote : OnEngine (· ∈ [mxReg f e]) e s (s.wr (mxReg f e) v) := (OnEngine.refl s).wr List.mem_cons_self v
  refine ⟨wrote.next up.2.1 (by simpa using hs) (by simpa using hi), ?_⟩
  have went := mxNext_onEngine (s := s.wr (mxReg f e) v) (e := e) up.2.1
  exact (went.toFrame.rd _ fun h => h.elim (fun h => hs h.symm) fun h => hi h.symm).trans (rd_wr_same ..)

/-! ### The index-register window (R172) -/

def mxIxSelRow : RegRow := ⟨.MX_IX_SEL, 0x300000100068, [(4, 0x1000000), (16, 0x10000)], false, 0x0, .jobRR, 0xF, 0x0, []⟩

theorem regFind_mxIxSel : ∀ n < 4, ∀ x < 16, regFind (Reg.MX_IX_SEL n x) = some ⟨mxIxSelRow, [n, x], 0⟩ := by decide +kernel

theorem jobReg_mxIxSel {e : Nat} (he : e < 64) : JobReg (mxReg Reg.MX_IX_SEL e) ⟨mxIxSelRow, [e / 16, e % 16], 0⟩ where
  low := by unfold mxReg Reg.MX_IX_SEL ctlBase; omega
  high := by unfold mxReg Reg.MX_IX_SEL ctlBase; omega
  aligned := by unfold mxReg Reg.MX_IX_SEL ctlBase; omega
  hit := regFind_mxIxSel _ (by omega) _ (by omega)
  writer := rfl
  whole := rfl

theorem regEffect_mxIxSel {s : State} {m src a : Nat} {h : RegHit} {new : Word} {j : Nat} {v : Word}
    (hx : s.fieldNew a (v &&& halfMask j) (halfMask j) = some new) (hn : h.row.name = .MX_IX_SEL) :
    s.regEffect m src h a j v = (St.ok, s.mxIxLatch (16 * h.i 0 + h.i 1) new) := by
  simp only [State.regEffect, hx, hn]

/-- A write of MX_IX_SEL selects an index register. -/
theorem written_mxIxSel (old v : Word) : bits (written mxIxSelRow old v 0xFFFFFFFFFFFFFFFF) 3 0 = bits v 3 0 := by
  have row : mxIxSelRow ∈ regRows := row_mem (regFind_mxIxSel 0 (by decide) 0 (by decide))
  have taken : ∀ i < 4, mxIxSelRow.rw.testBit i = true := by decide
  exact bits_congr fun i _ hi => bit_written_rw row old v (by omega) (taken i (by omega))

theorem exec_mxIxSelWrite_latch {m : BitVec 8} {e : BitVec 6} {v : Word} {s : State} (hl : s.Live) (hc : s.Canonical)
    (may : Claim.mayWrite s m) : ∃ new, bits new 3 0 = bits v 3 0
      ∧ exec (.mxIxSelWrite m e v) s = .next (s.commit ((s.mxIxLatch e.toNat new).answer St.ok 0)) := by
  have reg := jobReg_mxIxSel e.isLt
  refine ⟨_, written_mxIxSel (s.rd (RegHit.addr ⟨mxIxSelRow, [e.toNat / 16, e.toNat % 16], 0⟩ (mxReg Reg.MX_IX_SEL e.toNat))) v, ?_⟩
  rw [exec_mxIxSelWrite, live_eq hl hc, reg.write may s.devId rfl,
    regEffect_mxIxSel (fieldNew_of_noRanges reg.hit rfl _ _) rfl, halfMask_zero, and_ones]
  have engine : 16 * RegHit.i ⟨mxIxSelRow, [e.toNat / 16, e.toNat % 16], 0⟩ 0
      + RegHit.i ⟨mxIxSelRow, [e.toNat / 16, e.toNat % 16], 0⟩ 1
      = e.toNat := Nat.div_add_mod _ _
  rw [engine]

theorem mxIxLatch_regWrites (s : State) (e : Nat) (v : Word) : RegWrites s (s.mxIxLatch e v) := ((RegWrites.refl s).wr _ _).wr _ _

theorem mxIxLatch_engines (s : State) (e : Nat) (v : Word) : (s.mxIxLatch e v).engines = s.engines := rfl

theorem mxIxLatch_shows (s : State) (e : Nat) (v : Word) :
    (s.mxIxLatch e v).rd (mxReg Reg.MX_IX_DATA e) = (s.eng e).getIx (bits v 3 0)
      ∧ (s.mxIxLatch e v).rd (mxReg Reg.MX_IX_SEL e) = w (bits v 3 0 + 256 * (s.eng e).getTag (bits v 3 0))
      ∧ ∀ a, a ≠ mxReg Reg.MX_IX_DATA e → a ≠ mxReg Reg.MX_IX_SEL e → (s.mxIxLatch e v).rd a = s.rd a := by
  have apart : mxReg Reg.MX_IX_DATA e ≠ mxReg Reg.MX_IX_SEL e := by
    unfold mxReg Reg.MX_IX_DATA Reg.MX_IX_SEL
    omega
  unfold State.mxIxLatch
  refine ⟨rd_wr_same .., ?_, fun a hd hs => ?_⟩
  · dsimp only
    rw [rd_wr, if_neg apart, rd_wr_same, at_, Nat.mul_comm]
    rfl
  · dsimp only
    rw [rd_wr, if_neg hd.symm, rd_wr, if_neg hs.symm]

/-! ### Loops -/

section Loop
variable {s : State} {e : Nat} (up : Claim.mxUp s e)
include up

/-- The engine with loop counter l at c. -/
theorem setLoop_len (l c : Nat) : ({ s.eng e with loops := setNth (s.eng e).loops l c } : Engine).ix.length = 16 := up.2.1

theorem setLoop_eng (l c : Nat) : (s.setEng e { s.eng e with loops := setNth (s.eng e).loops l c }).eng e
    = { s.eng e with loops := setNth (s.eng e).loops l c } := eng_setEng_same (setLoop_len up l c)

theorem loop_repeats (l c target : Nat) :
    Goes e target [] s ((s.setEng e { s.eng e with loops := setNth (s.eng e).loops l c }).mxJump e target) :=
  ((OnEngine.refl s).setEng (setLoop_len up l c)).jump up.1 target

theorem loop_ends (l c : Nat) :
    Goes e (Claim.mxPc s e + 1) [] s ((s.setEng e { s.eng e with loops := setNth (s.eng e).loops l c }).mxNext e) :=
  ((OnEngine.refl s).setEng (setLoop_len up l c)).next (by rw [setLoop_eng up]; exact up.2.1) List.not_mem_nil List.not_mem_nil

theorem nth_setLoop {l : Nat} (hl : l < 4) (c : Nat) : nth (setNth (s.eng e).loops l c) l 0 = c :=
  (nth_setNth _ _ _ _ _ (hl.trans_eq up.2.2.2.2.symm)).trans (if_pos rfl)

end Loop

/-! ### WAITM -/

section Wait
variable {s : State} {e : Nat} (len : (s.eng e).ix.length = 16)

/-- The engine waits, at its instruction. -/
def waits (s : State) (e : Nat) (x : Wait) : State := (s.setEng e { s.eng e with wait := x }).setMxState e 2

theorem waits_state (s : State) (e : Nat) (x : Wait) : (waits s e x).mxState e = 2 := rdB_wrB_same _ 2 (by decide) (by decide)

theorem waits_pc (s : State) (e : Nat) (x : Wait) : Claim.mxPc (waits s e x) e = Claim.mxPc s e :=
  rdB_wrB_field (s.setEng e { s.eng e with wait := x }) 2 (by decide) (by decide) (.inr (by decide))

theorem waits_stage (s : State) (e : Nat) (x : Wait) : (waits s e x).mxStage e = s.mxStage e :=
  mxStage_setMxState (s.setEng e { s.eng e with wait := x }) e 2

include len

theorem waits_eng (x : Wait) : (waits s e x).eng e = { s.eng e with wait := x } := eng_setEng_same len

theorem waits_onEngine (x : Wait) : OnEngine (· = mxReg Reg.MX_STATUS e) e s (waits s e x) :=
  OnEngine.wrB (R := (· = mxReg Reg.MX_STATUS e)) ((OnEngine.refl s).setEng (g := { s.eng e with wait := x }) len) rfl 2 0 2

end Wait

/-! ### ADVM -/

/-- From `s` to `t` other units went on: engine e, its status and the milestone counter m stay. -/
structure Undisturbed (e m : Nat) (s t : State) : Prop where
  status : t.rd (mxReg Reg.MX_STATUS e) = s.rd (mxReg Reg.MX_STATUS e)
  counter : t.rd (msReg m) = s.rd (msReg m)
  placed : t.msPlaced = s.msPlaced
  eng : t.eng e = s.eng e

namespace Undisturbed

variable {e m : Nat} {s t u : State}

theorem refl (s : State) : Undisturbed e m s s := ⟨rfl, rfl, rfl, rfl⟩

theorem trans (h : Undisturbed e m s t) (k : Undisturbed e m t u) : Undisturbed e m s u :=
  ⟨k.status.trans h.status, k.counter.trans h.counter, k.placed.trans h.placed, k.eng.trans h.eng⟩

theorem wr {a : Nat} (h : Undisturbed e m s t) (hs : a ≠ mxReg Reg.MX_STATUS e) (hm : a ≠ msReg m) (v : Word) :
    Undisturbed e m s (t.wr a v) :=
  h.trans ⟨(rd_wr ..).trans (if_neg hs), (rd_wr ..).trans (if_neg hm), rfl, rfl⟩

theorem setCore (h : Undisturbed e m s t) (c : Nat) (g : Core) : Undisturbed e m s (t.setCore c g) := h.trans ⟨rfl, rfl, rfl, rfl⟩

end Undisturbed

section Release
variable (s : State) (e m : Nat)

/-- A general core that goes on writes its own registers. -/
theorem gcDone_undisturbed (c rd : Nat) (v : Word) : Undisturbed e m s (s.gcDone c rd v) := by
  have own : ∀ f ∈ [Reg.GC_PC, Reg.GC_CNT_INSTR, Reg.GC_STATUS], gcReg f c ≠ mxReg Reg.MX_STATUS e ∧ gcReg f c ≠ msReg m := by
    simp only [List.forall_mem_cons, List.not_mem_nil, false_implies, implies_true, and_true]
    unfold gcReg mxReg msReg Reg.GC_PC Reg.GC_CNT_INSTR Reg.GC_STATUS Reg.MX_STATUS Reg.SYN_MS ctlBase
    omega
  have pc := own _ List.mem_cons_self
  have instr := own _ (List.mem_cons_of_mem _ List.mem_cons_self)
  have status := own _ (List.mem_cons_of_mem _ (List.mem_cons_of_mem _ List.mem_cons_self))
  exact (((((Undisturbed.refl s).setCore c _).wr pc.1 pc.2 _).wr instr.1 instr.2 _).setCore c _).setCore c _ |>.wr status.1 status.2 _

/-- Another engine that goes on writes its own registers. -/
theorem mxNext_undisturbed {j : Nat} (len : (s.eng e).ix.length = 16) (hj : e ≠ j) : Undisturbed e m s (s.mxNext j) := by
  have own : ∀ f ∈ [Reg.MX_STATUS, Reg.MX_CNT_INSTR], mxReg f j ≠ mxReg Reg.MX_STATUS e ∧ mxReg f j ≠ msReg m := by
    simp only [List.forall_mem_cons, List.not_mem_nil, false_implies, implies_true, and_true]
    unfold mxReg msReg Reg.MX_CNT_INSTR Reg.MX_STATUS Reg.SYN_MS ctlBase
    omega
  have status := own _ List.mem_cons_self
  have instr := own _ (List.mem_cons_of_mem _ List.mem_cons_self)
  have eng : Undisturbed e m s (s.setEng j { s.eng j with wait := .none }) :=
    ⟨rfl, rfl, rfl, get_set_listed hj (engine_ne_default len)⟩
  exact ((eng.wr status.1 status.2 _).wr status.1 status.2 _).wr instr.1 instr.2 _

/-- A counter releases only units that wait for one (R282). -/
theorem msRelease_undisturbed (len : (s.eng e).ix.length = 16) (idle : (s.eng e).wait = .none) : Undisturbed e m s s.msRelease := by
  let R (s t : State) : Prop := (s.eng e).ix.length = 16 ∧ (s.eng e).wait = .none → Undisturbed e m s t
  have refl (s : State) : R s s := fun _ => .refl s
  have trans {s t u : State} (h : R s t) (k : R t u) : R s u := fun p => (h p).trans (k (by rw [(h p).eng]; exact p))
  unfold State.msRelease
  refine trans (foldl_rel (R := R) refl trans (fun t x p => ?core) s.cores s)
    (foldl_rel (R := R) refl trans (fun t x p => ?engine) _ _) ⟨len, idle⟩
  case core =>
    split
    · split
      · unfold State.releaseUnit
        dsimp only
        split
        · exact .refl t
        · exact (gcDone_undisturbed t e m x.1 0 0).setCore _ _
      · exact .refl t
    · exact .refl t
  case engine =>
    split
    next waiting =>
      have other : e ≠ x.1 := by
        rintro rfl
        rw [p.2] at waiting
        exact nomatch waiting
      split
      · unfold State.releaseUnit
        dsimp only
        split
        · exact .refl t
        · exact mxNext_undisturbed t e m p.1 other
      · exact .refl t
    · exact .refl t

end Release

section Advance
variable {s : State} {m : Nat} (placed : s.msOk m = true) (n : Nat)

theorem synEvt_ne_ms (m : Nat) : Reg.SYN_EVT (m / 4096) ≠ msReg m := by
  unfold Reg.SYN_EVT msReg Reg.SYN_MS
  omega

include placed

theorem msVal_placed : s.msVal m = (s.rd (msReg m)).toNat := if_pos placed

/-- A placed counter advances and saturates (R282). -/
theorem msAdvance_value : ((s.msAdvance m n).rd (msReg m)).toNat = min (2 ^ 64 - 1) (s.msVal m + n) := by
  unfold State.msAdvance
  rw [if_pos placed]
  dsimp only
  split
  next saturates =>
    rw [Frame.rd (Frame.raise (R := (· = Reg.SYN_EVT (m / 4096))) (.refl _) rfl ..) _ (synEvt_ne_ms m).symm, rd_wr_same, w,
      BitVec.toNat_ofNat]
    omega
  next fits =>
    rw [rd_wr_same, w, BitVec.toNat_ofNat]
    omega

theorem msAdvance_engine (e : Nat) : (s.msAdvance m n).rd (mxReg Reg.MX_STATUS e) = s.rd (mxReg Reg.MX_STATUS e)
    ∧ (s.msAdvance m n).msPlaced = s.msPlaced ∧ (s.msAdvance m n).eng e = s.eng e := by
  have apart : msReg m ≠ mxReg Reg.MX_STATUS e ∧ Reg.SYN_EVT (m / 4096) ≠ mxReg Reg.MX_STATUS e := by
    unfold msReg mxReg Reg.SYN_MS Reg.SYN_EVT Reg.MX_STATUS ctlBase
    omega
  unfold State.msAdvance
  rw [if_pos placed]
  dsimp only
  split
  · refine ⟨?_, ?_, eng_raise ..⟩
    · rw [Frame.rd (Frame.raise (R := (· = Reg.SYN_EVT (m / 4096))) (.refl _) rfl ..) _ apart.2.symm, rd_wr, if_neg apart.1]
    · unfold State.raise
      exact ite_keeps State.msPlaced rfl rfl
  · exact ⟨(rd_wr ..).trans (if_neg apart.1), rfl, rfl⟩

end Advance

/-- ADVM: the engine goes on and the counter advances, whatever units it releases (R282). -/
theorem advm_shows {s : State} {e m : Nat} (len : (s.eng e).ix.length = 16) (placed : s.msOk m = true) (n : Nat) :
    let t := (s.mxNext e).msAdd m n
    t.msVal m = min (2 ^ 64 - 1) (s.msVal m + n) ∧ t.mxState e = 1 ∧ Claim.mxPc t e = (Claim.mxPc s e + 1) % 2 ^ 13
      ∧ Frame (fun _ => True) s t ∧ ∀ a, t.byte a = s.byte a := by
  have next := mxNext_onEngine len
  have placed' : (s.mxNext e).msOk m = true := placed
  obtain ⟨status, same, eng⟩ := msAdvance_engine placed' n e
  have released := msRelease_undisturbed ((s.mxNext e).msAdvance m n) e m
    (by rw [eng, mxNext_eng len]; exact len) (by rw [eng, mxNext_eng len])
  have counter : msReg m ≠ mxReg Reg.MX_STATUS e ∧ msReg m ≠ mxReg Reg.MX_CNT_INSTR e := by
    unfold msReg mxReg Reg.SYN_MS Reg.MX_STATUS Reg.MX_CNT_INSTR ctlBase
    omega
  have before : (s.mxNext e).msVal m = s.msVal m := by
    rw [msVal_placed placed', msVal_placed placed, next.toFrame.rd _ fun h => h.elim counter.1 counter.2]
  have placedAfter : ((s.mxNext e).msAdd m n).msOk m = true := by
    unfold State.msOk at placed' ⊢
    rw [State.msAdd, released.placed, same]
    exact placed'
  have kept := (next.toGoesOn.mono fun _ _ => trivial).trans ((msAdd_goesOn (s.mxNext e) m n).mono fun _ _ => trivial)
  refine ⟨?_, ?_, ?_, kept.toFrame, fun a => kept.toAside.byte a id⟩
  · rw [msVal_placed placedAfter, State.msAdd, released.counter, msAdvance_value placed', before]
  · unfold State.mxState State.rdB State.msAdd
    rw [released.status, status]
    exact mxNext_state s e
  · unfold Claim.mxPc State.rdB State.msAdd
    rw [released.status, status]
    exact mxNext_pc s e

/-! ### BAR -/

/-- The register of a barrier. -/
def barReg (b : Nat) : Nat := Reg.SYN_BAR_STATE (b / 256) (b % 256)

theorem barReg_ne_mx (b e : Nat) : barReg b ≠ mxReg Reg.MX_STATUS e ∧ barReg b ≠ mxReg Reg.MX_CNT_INSTR e
    ∧ Reg.SYN_BAR_CFG (b / 256) (b % 256) ≠ mxReg Reg.MX_STATUS e := by
  unfold barReg mxReg Reg.SYN_BAR_STATE Reg.SYN_BAR_CFG Reg.MX_STATUS Reg.MX_CNT_INSTR ctlBase
  omega

/-- The last arrival has come: the count starts again and the generation advances (R284). -/
def barrierDone (s : State) (b : Nat) : State :=
  let s := s.wrB (barReg b) 15 0 0
  let s := s.wrB (barReg b) 47 16 (s.rdB (barReg b) 47 16 + 1)
  s.wrB (barReg b) 63 48 0

/-- An arrival that does not complete the barrier waits. -/
def barrierWaits (s : State) (b : Nat) (o : Owner) : State :=
  let s := { s with barWaits := s.barWaits ++ [(b, o)] }
  let s := s.wrB (barReg b) 12 0 (s.rdB (barReg b) 12 0 + 1)
  s.wrB (barReg b) 60 48 (s.rdB (barReg b) 60 48 + 1)

section Barrier
variable {s : State} {b : Nat} (o : Owner)

theorem barArrive_full (full : s.rdB (barReg b) 12 0 + 1 = s.rdB (Reg.SYN_BAR_CFG (b / 256) (b % 256)) 12 0)
    (alone : ∀ x ∈ s.barWaits, x.1 ≠ b) : s.barArrive b o = ([o], barrierDone s b) := by
  have waiting : s.barWaits.filter (fun x => x.1 = b) = [] := List.filter_eq_nil_iff.2 fun x hx => by simpa using alone x hx
  have others : s.barWaits.filter (fun x => x.1 ≠ b) = s.barWaits := List.filter_eq_self.2 fun x hx => by simpa using alone x hx
  refine (if_pos full).trans ?_
  rw [waiting, others]
  rfl

theorem barArrive_waits (open_ : s.rdB (barReg b) 12 0 + 1 ≠ s.rdB (Reg.SYN_BAR_CFG (b / 256) (b % 256)) 12 0) :
    s.barArrive b o = ([], barrierWaits s b o) := if_neg open_

theorem barrierDone_fields (s : State) (b : Nat) : (barrierDone s b).rdB (barReg b) 12 0 = 0
    ∧ (barrierDone s b).rdB (barReg b) 47 16 = (s.rdB (barReg b) 47 16 + 1) % 2 ^ 32 := by
  have low (v : Word) : bits (putBits v 15 0 0) 12 0 = 0 := by
    rw [bits, putBits_toNat v 0 (by decide) (by decide)]
    unfold nbits
    omega
  unfold barrierDone
  dsimp only
  refine ⟨?_, ?_⟩
  · rw [rdB_wrB_field _ _ (by decide) (by decide) (.inl (by decide)), rdB_wrB_field _ _ (by decide) (by decide) (.inl (by decide)),
      State.rdB, rd_wrB_same, low]
  · rw [rdB_wrB_field _ _ (by decide) (by decide) (.inl (by decide)), rdB_wrB_same _ _ (by decide) (by decide),
      rdB_wrB_field _ _ (by decide) (by decide) (.inr (by decide))]

theorem barrierWaits_field (s : State) (b : Nat) (o : Owner) :
    (barrierWaits s b o).rdB (barReg b) 12 0 = (s.rdB (barReg b) 12 0 + 1) % 2 ^ 13 :=
  (rdB_wrB_field _ _ (by decide) (by decide) (.inl (by decide))).trans (rdB_wrB_same _ _ (by decide) (by decide))

theorem barrierDone_onEngine (s : State) (b e : Nat) : OnEngine (· = barReg b) e s (barrierDone s b) := by
  have same : OnEngine (· = barReg b) e s s := .refl s
  exact ((same.wrB rfl 15 0 0).wrB rfl 47 16 _).wrB rfl 63 48 0

theorem barrierWaits_frame (s : State) (b : Nat) (o : Owner) : Frame (· = barReg b) s (barrierWaits s b o) := by
  have listed : Frame (· = barReg b) s { s with barWaits := s.barWaits ++ [(b, o)] } := (Frame.refl s).keep rfl rfl rfl
  exact (listed.wr rfl _).wr rfl _

theorem barrierDone_eng (s : State) (b e : Nat) : (barrierDone s b).eng e = s.eng e := rfl
theorem barrierWaits_eng (s : State) (b e : Nat) (o : Owner) : (barrierWaits s b o).eng e = s.eng e := rfl
theorem barrierWaits_barWaits (s : State) (b : Nat) (o : Owner) : (barrierWaits s b o).barWaits = s.barWaits ++ [(b, o)] := rfl
theorem commit_barWaits (s t : State) : (s.commit t).barWaits = t.barWaits := rfl

end Barrier

/-- An arrival at a barrier, and the release of the units it lets go. -/
theorem release_of_arrive {u t : State} {b : Nat} {o : Owner} {os : List Owner} (arrive : u.barArrive b o = (os, t)) :
    (match u.barArrive b o with | (os, s) => os.foldl (fun s o => s.releaseUnit o) s) = os.foldl (fun s o => s.releaseUnit o) t := by
  rw [arrive]

/-- Nothing keeps the instruction back (R153, R171). -/
theorem mxDrained_runs {s : State} {e : Nat} (acked : s.mxAcked e = true) (runs : s.stageStopped (s.mxStage e) = false)
    (f : State → State) : s.mxDrained e (fun s => s.mxSync e f) = f s :=
  (if_pos acked).trans (if_neg (by rw [runs]; exact Bool.false_ne_true))

section Bar
variable {s : State} {e b : Nat} (acked : s.mxAcked e = true) (runs : s.stageStopped (s.mxStage e) = false)

include acked runs in
theorem fxBar_arrives (placed : s.barOk b = true) {os : List Owner} {t : State}
    (arrive : (waits s e (.bar b)).barArrive b (.engine e) = (os, t)) : fxBar e b s = os.foldl (fun s o => s.releaseUnit o) t := by
  unfold fxBar
  rw [mxDrained_runs acked runs, if_neg (by rw [placed]; decide)]
  exact release_of_arrive arrive

include acked runs in
theorem fxBar_misplaced (no : s.barOk b = false) :
    fxBar e b s = s.mxFault e MxFault.syncref 0 0 (wordOf 0x42 [(8, b)]) := by
  unfold fxBar
  rw [mxDrained_runs acked runs, if_pos (by rw [no]; rfl)]

variable (up : Claim.mxUp s e) (placed : s.barOk b = true)
include up

theorem waits_barrier : (waits s e (.bar b)).rdB (barReg b) 12 0 = s.rdB (barReg b) 12 0
    ∧ (waits s e (.bar b)).rdB (barReg b) 47 16 = s.rdB (barReg b) 47 16
    ∧ (waits s e (.bar b)).rdB (Reg.SYN_BAR_CFG (b / 256) (b % 256)) 12 0 = s.rdB (Reg.SYN_BAR_CFG (b / 256) (b % 256)) 12 0 := by
  have frame := waits_onEngine up.2.1 (.bar b)
  obtain ⟨status, -, cfg⟩ := barReg_ne_mx b e
  exact ⟨frame.rdB status 12 0, frame.rdB status 47 16, frame.rdB cfg 12 0⟩

include acked runs placed

theorem fxBar_completes (full : s.rdB (barReg b) 12 0 + 1 = s.rdB (Reg.SYN_BAR_CFG (b / 256) (b % 256)) 12 0)
    (alone : ∀ x ∈ s.barWaits, x.1 ≠ b) : fxBar e b s = (barrierDone (waits s e (.bar b)) b).mxNext e := by
  obtain ⟨count, -, parties⟩ := waits_barrier (b := b) up
  have stage : (barrierDone (waits s e (.bar b)) b).stageStopped ((barrierDone (waits s e (.bar b)) b).mxStage e) = false := by
    have same : (barrierDone (waits s e (.bar b)) b).mxStage e = s.mxStage e :=
      (congrArg (Prod.mk (e / 16)) ((barrierDone_onEngine (waits s e (.bar b)) b e).rdB (barReg_ne_mx b e).1.symm 12 8)).trans
        (waits_stage s e _)
    rw [same]
    exact runs
  rw [fxBar_arrives acked runs placed (barArrive_full (s := waits s e (.bar b)) _ (by rw [count, parties]; exact full) alone)]
  exact if_neg (by rw [stage]; exact Bool.false_ne_true)

theorem fxBar_waits (open_ : s.rdB (barReg b) 12 0 + 1 ≠ s.rdB (Reg.SYN_BAR_CFG (b / 256) (b % 256)) 12 0) :
    fxBar e b s = barrierWaits (waits s e (.bar b)) b (.engine e) := by
  obtain ⟨count, -, parties⟩ := waits_barrier (b := b) up
  exact fxBar_arrives acked runs placed (barArrive_waits _ (by rw [count, parties]; exact open_))

omit acked runs placed

/-- The engine arrives and completes the barrier: it goes on (R153, R284). -/
theorem barrierDone_goes (b : Nat) : Goes e (Claim.mxPc s e + 1) [barReg b] s ((barrierDone (waits s e (.bar b)) b).mxNext e) := by
  obtain ⟨status, instr, -⟩ := barReg_ne_mx b e
  have arrived := (waits_onEngine up.2.1 (.bar b)).mono (R := fun a => goReg e a ∨ a ∈ [barReg b]) fun _ h => .inl (.inl h)
  have done := barrierDone_onEngine (waits s e (.bar b)) b e
  have len : ((barrierDone (waits s e (.bar b)) b).eng e).ix.length = 16 := by
    rw [barrierDone_eng, waits_eng up.2.1]
    exact up.2.1
  refine ⟨(arrived.trans (done.mono fun _ h => .inr (List.mem_singleton.2 h))).trans ((mxNext_onEngine len).mono fun _ => .inl),
    mxNext_state _ e, ?_, ?_⟩
  · rw [mxNext_pc, Claim.mxPc, done.rdB status.symm, ← Claim.mxPc, waits_pc]
  · rw [mxNext_count, done.toFrame.rd _ instr.symm, (waits_onEngine up.2.1 (.bar b)).toFrame.rd _ (instr_ne_status e)]

theorem barrierDone_shows (b : Nat) : ((barrierDone (waits s e (.bar b)) b).mxNext e).rdB (barReg b) 12 0 = 0
    ∧ ((barrierDone (waits s e (.bar b)) b).mxNext e).rdB (barReg b) 47 16 = (s.rdB (barReg b) 47 16 + 1) % 2 ^ 32 := by
  obtain ⟨status, instr, -⟩ := barReg_ne_mx b e
  have len : ((barrierDone (waits s e (.bar b)) b).eng e).ix.length = 16 := by
    rw [barrierDone_eng, waits_eng up.2.1]
    exact up.2.1
  have next := (mxNext_onEngine len).rdB fun h => h.elim status instr
  obtain ⟨count, generation⟩ := barrierDone_fields (waits s e (.bar b)) b
  rw [next, next, count, generation, (waits_barrier up).2.1]
  exact ⟨rfl, rfl⟩

theorem barrierWaits_shows (b : Nat) (o : Owner) : Frame (fun _ => True) s (barrierWaits (waits s e (.bar b)) b o)
    ∧ (barrierWaits (waits s e (.bar b)) b o).mxState e = 2
    ∧ (barrierWaits (waits s e (.bar b)) b o).rdB (barReg b) 12 0 = (s.rdB (barReg b) 12 0 + 1) % 2 ^ 13 := by
  have waiting := barrierWaits_frame (waits s e (.bar b)) b o
  refine ⟨((waits_onEngine up.2.1 (.bar b)).toFrame.mono fun _ _ => trivial).trans (waiting.mono fun _ _ => trivial), ?_, ?_⟩
  · exact (rdB_of_frame waiting (barReg_ne_mx b e).1.symm 2 0).trans (waits_state s e (.bar b))
  · rw [barrierWaits_field, (waits_barrier up).1]

end Bar

/-! ### END -/

/-- The engine after END (R149). -/
def ended (g : Engine) : Engine := { g with acc := [], live := 0, sat := 0, wait := .none }

/-- END has cleared the accumulator and told a tile that was not drained. -/
def endTold (s : State) (e : Nat) : State :=
  let u := (s.setEng e (ended (s.eng e))).addB (mxReg Reg.MX_CNT_INSTR e) 63 0 1
  if (s.eng e).live = 0 then u else
    u.raise (u.mxStage e).1 Blk.mx (mxReg Reg.MX_EVT e) (mxReg Reg.MX_EVT_EN e) 3
      { master := 0x80 + e, unit := (u.mxStage e).2, at0 := some (mxReg Reg.MX_DRAIN_STAT e) }

section EndOp
variable {s : State} {e : Nat}

theorem fxEndOp_eq (acked : s.mxAcked e = true) (runs : s.stageStopped (s.mxStage e) = false) :
    fxEndOp e s = (endTold s e).setMxState e 0 := by
  unfold fxEndOp
  exact mxDrained_runs acked runs _

variable (len : (s.eng e).ix.length = 16)
include len

theorem endTold_onEngine : OnEngine (fun a => a = mxReg Reg.MX_CNT_INSTR e ∨ a = mxReg Reg.MX_EVT e) e s (endTold s e) := by
  have counted : OnEngine (fun a => a = mxReg Reg.MX_CNT_INSTR e ∨ a = mxReg Reg.MX_EVT e) e s
      ((s.setEng e (ended (s.eng e))).addB (mxReg Reg.MX_CNT_INSTR e) 63 0 1) :=
    ((OnEngine.refl s).setEng (g := ended (s.eng e)) len).addB (.inl rfl) 63 0 1
  exact .ite counted (counted.raise (.inr rfl) _ _ _ _ _)

theorem endTold_eng : (endTold s e).eng e = ended (s.eng e) := by
  have cleared : ((s.setEng e (ended (s.eng e))).addB (mxReg Reg.MX_CNT_INSTR e) 63 0 1).eng e = ended (s.eng e) :=
    eng_setEng_same (g := ended (s.eng e)) len
  unfold endTold
  dsimp only
  split
  · exact cleared
  · exact (eng_raise ..).trans cleared

omit len in
theorem endTold_event : ((s.eng e).live ≠ 0 → bit ((endTold s e).rd (mxReg Reg.MX_EVT e)) 3 = true)
    ∧ ((s.eng e).live = 0 → (endTold s e).rd (mxReg Reg.MX_EVT e) = s.rd (mxReg Reg.MX_EVT e)) := by
  have apart : mxReg Reg.MX_CNT_INSTR e ≠ mxReg Reg.MX_EVT e := by
    unfold mxReg Reg.MX_CNT_INSTR Reg.MX_EVT
    omega
  unfold endTold
  dsimp only
  refine ⟨fun tiles => ?_, fun none => ?_⟩
  · rw [if_neg tiles, rd_raise]
    exact bit_setBit _ (by decide)
  · rw [if_pos none]
    exact (rd_wr ..).trans (if_neg apart)

/-- What END shows. -/
theorem endOp_shows : let t := (endTold s e).setMxState e 0
    t.mxState e = 0 ∧ t.eng e = ended (s.eng e) ∧ ((s.eng e).live ≠ 0 → bit (t.rd (mxReg Reg.MX_EVT e)) 3 = true)
      ∧ ((s.eng e).live = 0 → t.rd (mxReg Reg.MX_EVT e) = s.rd (mxReg Reg.MX_EVT e))
      ∧ OnEngine (fun _ => True) e s t := by
  have apart : mxReg Reg.MX_STATUS e ≠ mxReg Reg.MX_EVT e := by
    unfold mxReg Reg.MX_STATUS Reg.MX_EVT
    omega
  have evt : ((endTold s e).setMxState e 0).rd (mxReg Reg.MX_EVT e) = (endTold s e).rd (mxReg Reg.MX_EVT e) :=
    (rd_wr ..).trans (if_neg apart)
  dsimp only
  rw [evt]
  exact ⟨rdB_wrB_same _ 0 (by decide) (by decide), endTold_eng len, endTold_event.1, endTold_event.2,
    ((endTold_onEngine len).mono fun _ _ => trivial).wrB trivial 2 0 0⟩

end EndOp

end Sys2Proof.Proofs
end

section
/-!
SUPPORT. O35: each control instruction of a matrix engine, as the command that is due.
-/

namespace Sys2Proof.Proofs

open Sys2Proof Sys2Proof.Machine Sys2Proof.Laws

theorem answer_engines (s : State) (st : Nat) (v : Word) : (s.answer st v).engines = s.engines := rfl

/-- A write of MX_IX_SEL shows an index register in the window (R172). -/
theorem mxIxSelWrite_window {m : BitVec 8} {e : BitVec 6} {v : Word} {s : State} (hl : s.Live) (hc : s.Canonical)
    (may : Claim.mayWrite s m) : ∃ t, exec (.mxIxSelWrite m e v) s = .next t
      ∧ t.rd (mxReg Reg.MX_IX_DATA e.toNat) = (s.eng e.toNat).getIx (bits v 3 0)
      ∧ t.rd (mxReg Reg.MX_IX_SEL e.toNat) = w (bits v 3 0 + 256 * (s.eng e.toNat).getTag (bits v 3 0))
      ∧ (∀ a, a ≠ mxReg Reg.MX_IX_DATA e.toNat → a ≠ mxReg Reg.MX_IX_SEL e.toNat → t.rd a = s.rd a) ∧ t.engines = s.engines
      ∧ ∀ a, t.byte a = s.byte a := by
  obtain ⟨new, selected, ran⟩ := exec_mxIxSelWrite_latch (e := e) (v := v) hl hc may
  have writes := mxIxLatch_regWrites s e.toNat new
  have rd (a : Nat) := commit_answer_rd hc (st := St.ok) writes.regFrame.toFrame a
  obtain ⟨data, sel, others⟩ := mxIxLatch_shows s e.toNat new
  rw [selected] at data sel
  refine ⟨_, ran, (rd _).trans data, (rd _).trans sel, fun a hd hs => (rd a).trans (others a hd hs), ?_, fun a => ?_⟩
  · rw [commit_engines, answer_engines]
    exact mxIxLatch_engines s e.toNat new
  · rw [commit_answer_byte hc writes.regFrame.toFrame, writes.byte]

/-- The profile registers are none that every instruction writes. -/
theorem prof_ne_goReg (e : Nat) :
    (mxReg Reg.MX_STATUS e ≠ mxReg Reg.MX_PROF_A e ∧ mxReg Reg.MX_CNT_INSTR e ≠ mxReg Reg.MX_PROF_A e)
    ∧ (mxReg Reg.MX_STATUS e ≠ mxReg Reg.MX_PROF_B e ∧ mxReg Reg.MX_CNT_INSTR e ≠ mxReg Reg.MX_PROF_B e)
    ∧ (mxReg Reg.MX_STATUS e ≠ mxReg Reg.MX_PROF_O e ∧ mxReg Reg.MX_CNT_INSTR e ≠ mxReg Reg.MX_PROF_O e) := by
  unfold mxReg Reg.MX_STATUS Reg.MX_CNT_INSTR Reg.MX_PROF_A Reg.MX_PROF_B Reg.MX_PROF_O
  omega

/-- The index registers stay when the command ends. -/
theorem ixSet_commit {s t : State} {e d tag h : Nat} {v : Word} (took : Claim.ixSet s t e d v tag h) :
    Claim.ixSet s (s.commit t) e d v tag h := by
  unfold Claim.ixSet at took ⊢
  rw [eng_commit]
  exact took

section Control
variable {e : BitVec 6} {s : State} (hl : s.Live) (hc : s.Canonical) (up : Claim.mxUp s e.toNat)
include hl hc up

theorem exec_nopMe_due (due : s.mxDue e.toNat (.nopMe e) = true) : ∃ t, exec (.nopMe e) s = .next t
    ∧ Claim.mxGoes s t e.toNat (Claim.mxPc s e.toNat + 1) [] ∧ t.eng e.toNat = { s.eng e.toNat with wait := .none } :=
  ⟨_, exec_due hl hc (exec_nopMe e s) due,
    ((OnEngine.refl s).next up.2.1 List.not_mem_nil List.not_mem_nil).commit hc, (eng_commit ..).trans (mxNext_eng up.2.1)⟩

/-- CFG of one profile register. -/
theorem exec_cfg_due {sel : BitVec 2} {v : BitVec 48} (f : Nat → Nat → Nat) (due : s.mxDue e.toNat (.cfg e sel v) = true)
    (takes : fxCfg e.toNat sel.toNat v.toNat s = (s.wr (mxReg f e.toNat) (w v.toNat)).mxNext e.toNat)
    (hs : mxReg Reg.MX_STATUS e.toNat ≠ mxReg f e.toNat) (hi : mxReg Reg.MX_CNT_INSTR e.toNat ≠ mxReg f e.toNat) :
    ∃ t, exec (.cfg e sel v) s = .next t ∧ t.rd (mxReg f e.toNat) = w v.toNat
      ∧ Claim.mxGoes s t e.toNat (Claim.mxPc s e.toNat + 1) [mxReg f e.toNat] := by
  obtain ⟨goes, took⟩ := cfg_goes up f (w v.toNat) hs hi
  rw [← takes] at goes took
  exact ⟨_, exec_due hl hc (exec_cfg e sel v s) due, (commit_rd_eq hc goes.regs _).trans took, goes.commit hc⟩

theorem exec_cfg_profiles (v : BitVec 48) : let n := e.toNat
    let pc := Claim.mxPc s n + 1
    (s.mxDue n (.cfg e 0 v) = true → ∃ t, exec (.cfg e 0 v) s = .next t ∧ t.rd (mxReg Reg.MX_PROF_A n) = w v.toNat
      ∧ Claim.mxGoes s t n pc [mxReg Reg.MX_PROF_A n])
    ∧ (s.mxDue n (.cfg e 1 v) = true → ∃ t, exec (.cfg e 1 v) s = .next t ∧ t.rd (mxReg Reg.MX_PROF_B n) = w v.toNat
      ∧ Claim.mxGoes s t n pc [mxReg Reg.MX_PROF_B n])
    ∧ (s.mxDue n (.cfg e 2 v) = true → ∃ t, exec (.cfg e 2 v) s = .next t ∧ t.rd (mxReg Reg.MX_PROF_O n) = w v.toNat
      ∧ Claim.mxGoes s t n pc [mxReg Reg.MX_PROF_O n]) := by
  obtain ⟨profA, profB, profO⟩ := prof_ne_goReg e.toNat
  exact ⟨fun due => exec_cfg_due hl hc up Reg.MX_PROF_A due rfl profA.1 profA.2,
    fun due => exec_cfg_due hl hc up Reg.MX_PROF_B due rfl profB.1 profB.2,
    fun due => exec_cfg_due hl hc up Reg.MX_PROF_O due rfl profO.1 profO.2⟩

/-- An instruction that sets index register d and goes on (R150, R151). -/
theorem exec_setsIx {c : Instr} {d : BitVec 4} {f : State → State} {v : Word} {tag h : Nat}
    (eq : exec c s = live s (mxRun e.toNat c f)) (sets : f s = (s.setIx e.toNat d.toNat v tag h).mxNext e.toNat)
    (due : s.mxDue e.toNat c = true) : ∃ t, exec c s = .next t ∧ Claim.ixSet s t e.toNat d.toNat v tag h
      ∧ Claim.mxGoes s t e.toNat (Claim.mxPc s e.toNat + 1) [] :=
  ⟨_, sets ▸ exec_due hl hc eq due, ixSet_commit (setIx_ixSet up d.isLt v tag h), (setIx_goes up d.toNat v tag h).commit hc⟩

omit hl hc up in
theorem fxSetx_eq (d : BitVec 4) (imm : BitVec 48) :
    fxSetx e.toNat d.toNat imm.toNat s = (s.setIx e.toNat d.toNat (imm.zeroExtend 64) 0 0).mxNext e.toNat := by
  unfold fxSetx w
  rw [BitVec.ofNat_toNat]

/-! ### Waiting, and other units -/

theorem exec_waitm_due {m : BitVec 14} {x : BitVec 4} (runs : s.stageStopped (s.mxStage e.toNat) = false)
    (due : s.mxDue e.toNat (.waitm e m x) = true) :
    (s.msOk m.toNat = false → ∃ t, exec (.waitm e m x) s = .next t ∧ Claim.mxFaults s t e.toNat MxFault.syncref)
    ∧ (s.msOk m.toNat = true → ((s.eng e.toNat).getIx x.toNat).toNat ≤ s.msVal m.toNat →
      ∃ t, exec (.waitm e m x) s = .next t ∧ Claim.mxGoes s t e.toNat (Claim.mxPc s e.toNat + 1) [])
    ∧ (s.msOk m.toNat = true → s.msVal m.toNat < ((s.eng e.toNat).getIx x.toNat).toNat → ∃ t, exec (.waitm e m x) s = .next t
      ∧ t.mxState e.toNat = 2 ∧ (t.eng e.toNat).wait = .ms m.toNat ((s.eng e.toNat).getIx x.toNat).toNat
      ∧ Claim.mxPc t e.toNat = Claim.mxPc s e.toNat ∧ ∀ a, t.byte a = s.byte a) := by
  have eq := exec_waitm e m x s
  have sync (f : State → State) : s.mxSync e.toNat f = f s := if_neg (by rw [runs]; exact Bool.false_ne_true)
  refine ⟨fun no => exec_faults hl hc eq due ((sync _).trans (if_pos (by rw [no]; rfl))) (by decide), fun placed reached => ?_,
    fun placed early => ?_⟩
  · have goes : fxWaitm e.toNat m.toNat x.toNat s = s.mxNext e.toNat :=
      (sync _).trans ((if_neg (by rw [placed]; decide)).trans (if_pos reached))
    exact exec_goes hl hc eq due (goes ▸ (OnEngine.refl s).next up.2.1 List.not_mem_nil List.not_mem_nil)
  · have stays : fxWaitm e.toNat m.toNat x.toNat s = waits s e.toNat (.ms m.toNat ((s.eng e.toNat).getIx x.toNat).toNat) :=
      (sync _).trans ((if_neg (by rw [placed]; decide)).trans (if_neg (Nat.not_le.2 early)))
    have frame := waits_onEngine up.2.1 (.ms m.toNat ((s.eng e.toNat).getIx x.toNat).toNat)
    have rd (a : Nat) := commit_rd_eq hc frame.regs a
    refine ⟨_, exec_due hl hc eq due, ?_⟩
    rw [stays]
    refine ⟨?_, ?_, ?_, fun a => (commit_byte_eq hc frame.mem a).trans (frame.byte_eq a)⟩
    · exact (congrArg (bits · 2 0) (rd _)).trans (waits_state ..)
    · rw [eng_commit, waits_eng up.2.1]
    · exact (congrArg (bits · 28 16) (rd _)).trans (waits_pc ..)

theorem exec_advm_due {m : BitVec 14} {imm : BitVec 32} (acked : s.mxAcked e.toNat = true)
    (due : s.mxDue e.toNat (.advm e m imm) = true) :
    (s.msOk m.toNat = false → ∃ t, exec (.advm e m imm) s = .next t ∧ Claim.mxFaults s t e.toNat MxFault.syncref)
    ∧ (s.msOk m.toNat = true → exec (.advm e m imm) s = .next (s.commit ((s.mxNext e.toNat).msAdd m.toNat imm.toNat))
      ∧ ∃ t, exec (.advm e m imm) s = .next t ∧ t.msVal m.toNat = min (2 ^ 64 - 1) (s.msVal m.toNat + imm.toNat)
        ∧ t.mxState e.toNat = 1 ∧ Claim.mxPc t e.toNat = (Claim.mxPc s e.toNat + 1) % 2 ^ 13 ∧ ∀ a, t.byte a = s.byte a) := by
  have eq := exec_advm e m imm s
  refine ⟨fun no => exec_faults hl hc eq due ((if_pos acked).trans (if_pos (by rw [no]; rfl))) (by decide), fun placed => ?_⟩
  have adds : fxAdvm e.toNat m.toNat imm.toNat s = (s.mxNext e.toNat).msAdd m.toNat imm.toNat :=
    (if_pos acked).trans (if_neg (by rw [placed]; decide))
  have ran := exec_due hl hc eq due
  rw [adds] at ran
  obtain ⟨value, state, pc, frame, bytes⟩ := advm_shows up.2.1 placed imm.toNat
  have rd (a : Nat) := commit_rd_eq hc frame.regs a
  refine ⟨ran, _, ran, ?_, ?_, ?_, fun a => (commit_byte_eq hc frame.mem a).trans (bytes a)⟩
  · rw [← value]
    unfold State.msVal
    rw [rd]
    rfl
  · exact (congrArg (bits · 2 0) (rd _)).trans state
  · exact (congrArg (bits · 28 16) (rd _)).trans pc

theorem exec_bar_due {b : BitVec 10} (runs : s.stageStopped (s.mxStage e.toNat) = false) (acked : s.mxAcked e.toNat = true)
    (due : s.mxDue e.toNat (.bar e b) = true) : let n := e.toNat
    let r := Reg.SYN_BAR_STATE (b.toNat / 256) (b.toNat % 256)
    let full := s.rdB r 12 0 + 1 = s.rdB (Reg.SYN_BAR_CFG (b.toNat / 256) (b.toNat % 256)) 12 0
    (s.barOk b.toNat = false → ∃ t, exec (.bar e b) s = .next t ∧ Claim.mxFaults s t n MxFault.syncref)
    ∧ (s.barOk b.toNat = true → full → (∀ o ∈ s.barWaits, o.1 ≠ b.toNat) → ∃ t, exec (.bar e b) s = .next t
      ∧ Claim.mxGoes s t n (Claim.mxPc s n + 1) [r] ∧ t.rdB r 12 0 = 0 ∧ t.rdB r 47 16 = (s.rdB r 47 16 + 1) % 2 ^ 32)
    ∧ (s.barOk b.toNat = true → ¬full → ∃ t, exec (.bar e b) s = .next t ∧ t.mxState n = 2 ∧ (t.eng n).wait = .bar b.toNat
      ∧ t.rdB r 12 0 = (s.rdB r 12 0 + 1) % 2 ^ 13 ∧ (b.toNat, Owner.engine n) ∈ t.barWaits) := by
  have eq := exec_bar e b s
  dsimp only
  refine ⟨fun no => exec_faults hl hc eq due (fxBar_misplaced acked runs no) (by decide), fun placed full alone => ?_,
    fun placed open_ => ?_⟩
  · have goes := barrierDone_goes up b.toNat
    obtain ⟨count, generation⟩ := barrierDone_shows up b.toNat
    rw [← fxBar_completes acked runs up placed full alone] at goes count generation
    refine ⟨_, exec_due hl hc eq due, goes.commit hc, ?_, ?_⟩
    · exact (congrArg (bits · 12 0) (commit_rd_eq hc goes.regs _)).trans count
    · exact (congrArg (bits · 47 16) (commit_rd_eq hc goes.regs _)).trans generation
  · obtain ⟨frame, state, count⟩ := barrierWaits_shows up b.toNat (.engine e.toNat)
    have rd (a : Nat) := commit_rd_eq hc frame.regs a
    refine ⟨_, exec_due hl hc eq due, ?_⟩
    rw [fxBar_waits acked runs up placed open_]
    refine ⟨(congrArg (bits · 2 0) (rd _)).trans state, ?_, (congrArg (bits · 12 0) (rd _)).trans count, ?_⟩
    · rw [eng_commit, barrierWaits_eng, waits_eng up.2.1]
    · rw [commit_barWaits, barrierWaits_barWaits]
      exact List.mem_append_right _ List.mem_cons_self

/-! ### Branches and END -/

theorem exec_loop_due {l : BitVec 2} {count : BitVec 16} {target : BitVec 32} (due : s.mxDue e.toNat (.loop e l count target) = true) :
    (nth (s.eng e.toNat).loops l.toNat 0 < count.toNat - 1 → ∃ t, exec (.loop e l count target) s = .next t
      ∧ Claim.mxGoes s t e.toNat target.toNat [] ∧ nth (t.eng e.toNat).loops l.toNat 0 = nth (s.eng e.toNat).loops l.toNat 0 + 1)
    ∧ (count.toNat - 1 ≤ nth (s.eng e.toNat).loops l.toNat 0 → ∃ t, exec (.loop e l count target) s = .next t
      ∧ Claim.mxGoes s t e.toNat (Claim.mxPc s e.toNat + 1) [] ∧ nth (t.eng e.toNat).loops l.toNat 0 = 0) := by
  have eq := exec_loop e l count target s
  refine ⟨fun more => ⟨_, exec_due hl hc eq due, ?_⟩, fun last => ⟨_, exec_due hl hc eq due, ?_⟩⟩
  · have jumps : fxLoop e.toNat l.toNat count.toNat target.toNat s = _ := if_pos more
    rw [jumps]
    refine ⟨(loop_repeats up _ _ _).commit hc, ?_⟩
    exact (congrArg (fun g : Engine => nth g.loops l.toNat 0) (setLoop_eng up l.toNat _)).trans (nth_setLoop up l.isLt _)
  · have falls : fxLoop e.toNat l.toNat count.toNat target.toNat s = _ := if_neg (Nat.not_lt.2 last)
    rw [falls]
    refine ⟨(loop_ends up _ _).commit hc, ?_⟩
    rw [eng_commit, mxNext_eng (by rw [setLoop_eng up]; exact up.2.1), setLoop_eng up]
    exact nth_setLoop up l.isLt 0

theorem exec_jmp_due {target : BitVec 32} (due : s.mxDue e.toNat (.jmp e target) = true) : ∃ t, exec (.jmp e target) s = .next t
    ∧ Claim.mxGoes s t e.toNat target.toNat [] ∧ t.eng e.toNat = s.eng e.toNat :=
  ⟨_, exec_due hl hc (exec_jmp e target s) due, ((OnEngine.refl s).jump up.1 target.toNat).commit hc,
    (eng_commit ..).trans ((eng_addB ..).trans (eng_wrB ..))⟩

theorem exec_bnz_due {x : BitVec 4} {target : BitVec 32} (due : s.mxDue e.toNat (.bnz e x target) = true) :
    ∃ t, exec (.bnz e x target) s = .next t
      ∧ Claim.mxGoes s t e.toNat (if (s.eng e.toNat).getIx x.toNat = 0 then Claim.mxPc s e.toNat + 1 else target.toNat) [] := by
  refine exec_goes hl hc (exec_bnz e x target s) due ?_
  unfold fxBnz
  split
  · exact (OnEngine.refl s).next up.2.1 List.not_mem_nil List.not_mem_nil
  · exact (OnEngine.refl s).jump up.1 target.toNat

theorem exec_endOp_due (runs : s.stageStopped (s.mxStage e.toNat) = false) (acked : s.mxAcked e.toNat = true)
    (due : s.mxDue e.toNat (.endOp e) = true) : ∃ t, exec (.endOp e) s = .next t ∧ t.mxState e.toNat = 0
      ∧ (t.eng e.toNat).acc = [] ∧ (t.eng e.toNat).live = 0
      ∧ ((s.eng e.toNat).live ≠ 0 → bit (t.rd (mxReg Reg.MX_EVT e.toNat)) 3 = true)
      ∧ ((s.eng e.toNat).live = 0 → t.rd (mxReg Reg.MX_EVT e.toNat) = s.rd (mxReg Reg.MX_EVT e.toNat))
      ∧ ∀ a, t.byte a = s.byte a := by
  obtain ⟨state, eng, told, none, frame⟩ := endOp_shows up.2.1
  have rd (a : Nat) := commit_rd_eq hc frame.regs a
  refine ⟨_, exec_due hl hc (exec_endOp e s) due, ?_⟩
  rw [fxEndOp_eq acked runs, eng_commit, eng, rd]
  exact ⟨(congrArg (bits · 2 0) (rd _)).trans state, rfl, rfl, told, none,
    fun a => (commit_byte_eq hc frame.mem a).trans (frame.byte_eq a)⟩

end Control

/-! ### An instruction that is kept back -/

section Kept
variable {e : BitVec 6} {s : State} (hl : s.Live) (hc : s.Canonical)
include hl hc

theorem exec_of_stopped (stopped : s.stageStopped (s.mxStage e.toNat) = true) {c : Instr}
    (which : (∃ m x, c = .waitm e m x) ∨ (∃ b, c = .bar e b) ∨ c = .endOp e) : exec c s = .next s := by
  have sync (f : State → State) : s.mxSync e.toNat f = s := if_pos stopped
  have drained (f : State → State) : s.mxDrained e.toNat (fun s => s.mxSync e.toNat f) = s := by
    unfold State.mxDrained
    dsimp only
    rw [sync, ite_self]
  obtain ⟨m, x, rfl⟩ | ⟨b, rfl⟩ | rfl := which
  · exact exec_idle hl hc (exec_waitm e m x s) (sync _)
  · exact exec_idle hl hc (exec_bar e b s) (drained _)
  · exact exec_idle hl hc (exec_endOp e s) (drained _)

theorem exec_of_notAcked (waiting : s.mxAcked e.toNat = false) {c : Instr}
    (which : (∃ m v, c = .advm e m v) ∨ (∃ b, c = .bar e b) ∨ c = .endOp e) : exec c s = .next s := by
  have drained (f : State → State) : s.mxDrained e.toNat f = s := if_neg (by rw [waiting]; exact Bool.false_ne_true)
  obtain ⟨m, v, rfl⟩ | ⟨b, rfl⟩ | rfl := which
  · exact exec_idle hl hc (exec_advm e m v s) (drained _)
  · exact exec_idle hl hc (exec_bar e b s) (drained _)
  · exact exec_idle hl hc (exec_endOp e s) (drained _)

end Kept

/-- Settles O35: every command is `mxRun` of its instruction's effect; a control instruction's effect is to go on, to branch, to
fault, to wait, or to end, and each of these is one frame of the engine. -/
theorem matrixControl : Obligations.MatrixControl := by
  unfold Obligations.MatrixControl
  refine ⟨⟨fun c s e hl hc isMx notDue => ?_, fun s e rank cnt x bh bwd d entry => startEngine_up s e rank cnt x bh bwd d entry,
    fun e s hl hc up => ?_, fun m e v s hl hc may => mxIxSelWrite_window hl hc may⟩, fun e s hl hc up => ?_⟩
  · obtain ⟨f, eq⟩ := exec_of_mxOf isMx
    exact exec_notDue hl hc (eq s) notDue
  · exact ⟨exec_nopMe_due hl hc up, exec_cfg_profiles hl hc up,
      fun d imm => exec_setsIx hl hc up (exec_setx e d imm s) (fxSetx_eq d imm),
      fun d src imm => exec_setsIx hl hc up (exec_addx e d src imm s) rfl,
      fun d space h imm => exec_setsIx hl hc up (exec_lea e d space h imm s) rfl,
      fun d src tx => exec_setsIx hl hc up (exec_addxx e d src tx s) rfl⟩
  · exact ⟨fun stopped c => exec_of_stopped hl hc stopped, fun waiting c => exec_of_notAcked hl hc waiting,
      fun m x runs => exec_waitm_due hl hc up runs, fun m imm acked => exec_advm_due hl hc up acked,
      fun b runs acked => exec_bar_due hl hc up runs acked, fun l count target _ => exec_loop_due hl hc up,
      fun target => exec_jmp_due hl hc up, fun x target => exec_bnz_due hl hc up, exec_endOp_due hl hc up⟩

end Sys2Proof.Proofs
end

section
/-!
SUPPORT. MMA: the engine and the counters after a product (R155 to R158, R189, R212), and O37.
-/

namespace Sys2Proof.Proofs

open Sys2Proof Sys2Proof.Machine Sys2Proof.Laws

/-- The rows that an MMA of engine `g` puts into the tile. -/
def mmaRows (g : Engine) (a b : OperandProf) (o : OutputProf) (clr : Bool) (ah bh : Nat) (mask : Bool) (tile : Nat) :
    List (List (Nat × Nat × Bool)) :=
  let old := readTile g.acc o tile a.outer b.outer
  mmaTile a b o mask (nth g.bufA ah {}) (nth g.bufB bh {}) (nth g.side ah []) (nth g.side bh [])
    (if clr then old.map fun r => r.map fun _ => (0, 0) else old)

/-- The engine with the rows in its accumulator. -/
def multiplied (g : Engine) (o : OutputProf) (tile m n : Nat) (rows : List (List (Nat × Nat × Bool))) : Engine :=
  let um := unitMask tile (tileUnits o m n)
  { g with
    acc := writeTile g.acc o tile m n (rows.map fun r => r.map fun el => (el.1, el.2.1))
    live := g.live.lor um
    sat := if rows.any fun r => r.any fun el => el.2.2 then g.sat.lor um else g.sat
    amax := match g.amax with
      | some am => if (unitMask (am.1 % 32) (am.1 / 2 ^ 32)).land um = 0 then g.amax else none
      | none => none }

/-- The engine after an MMA of state `s` that is allowed. -/
def mmaEngine (s : State) (e : Nat) (clr : Bool) (ah bh : Nat) (mask : Bool) (tile : Nat) : Engine :=
  let a := s.mxProfA e
  let b := s.mxProfB e
  let o := s.mxProfO e
  multiplied (s.eng e) o tile a.outer b.outer (mmaRows (s.eng e) a b o clr ah bh mask tile)

/-- The array's counters advance (R189). -/
def mmaCounted (s : State) (e cycles skip work : Nat) : State :=
  ((s.addB (mxReg Reg.MX_CNT_ARRAY e) 63 0 cycles).addB (mxReg Reg.MX_CNT_SKIP e) 63 0 skip).addB (mxReg Reg.MX_CNT_MAC e) 63 0 work

def mmaCounters (e : Nat) : List Nat := [mxReg Reg.MX_CNT_ARRAY e, mxReg Reg.MX_CNT_SKIP e, mxReg Reg.MX_CNT_MAC e]

/-- The counters are registers of their own. -/
theorem mmaCounters_apart (e : Nat) : (mxReg Reg.MX_STATUS e ∉ mmaCounters e ∧ mxReg Reg.MX_CNT_INSTR e ∉ mmaCounters e)
    ∧ mxReg Reg.MX_CNT_ARRAY e ≠ mxReg Reg.MX_CNT_MAC e ∧ mxReg Reg.MX_CNT_SKIP e ≠ mxReg Reg.MX_CNT_MAC e
    ∧ ¬goReg e (mxReg Reg.MX_CNT_MAC e) := by
  simp only [mmaCounters, goReg, List.mem_cons, List.not_mem_nil, or_false]
  unfold mxReg Reg.MX_STATUS Reg.MX_CNT_INSTR Reg.MX_CNT_ARRAY Reg.MX_CNT_SKIP Reg.MX_CNT_MAC
  omega

section Counted
variable (s : State) (e cycles skip work : Nat)

theorem mmaCounted_onEngine : OnEngine (· ∈ mmaCounters e) e s (mmaCounted s e cycles skip work) := by
  have same : OnEngine (· ∈ mmaCounters e) e s s := .refl s
  exact ((same.addB (a := mxReg Reg.MX_CNT_ARRAY e) (.head _) 63 0 _).addB (a := mxReg Reg.MX_CNT_SKIP e) (.tail _ (.head _)) 63 0 _).addB
    (a := mxReg Reg.MX_CNT_MAC e) (.tail _ (.tail _ (.head _))) 63 0 _

theorem mmaCounted_eng (j : Nat) : (mmaCounted s e cycles skip work).eng j = s.eng j := by
  unfold mmaCounted
  rw [eng_addB, eng_addB, eng_addB]

theorem mmaCounted_mac : ((mmaCounted s e cycles skip work).rd (mxReg Reg.MX_CNT_MAC e)).toNat
    = min (2 ^ 64 - 1) ((s.rd (mxReg Reg.MX_CNT_MAC e)).toNat + work) := by
  obtain ⟨-, array, skipped, -⟩ := mmaCounters_apart e
  unfold mmaCounted
  rw [count_addB, State.addB, State.wrB, rd_wr, if_neg skipped, State.addB, State.wrB, rd_wr, if_neg array]

theorem mmaCounted_goes {g : Engine} (len : g.ix.length = 16) :
    Goes e (Claim.mxPc s e + 1) (mmaCounters e) s ((mmaCounted (s.setEng e g) e cycles skip work).mxNext e)
      ∧ ((mmaCounted (s.setEng e g) e cycles skip work).mxNext e).eng e = { g with wait := .none }
      ∧ (((mmaCounted (s.setEng e g) e cycles skip work).mxNext e).rd (mxReg Reg.MX_CNT_MAC e)).toNat
        = min (2 ^ 64 - 1) ((s.rd (mxReg Reg.MX_CNT_MAC e)).toNat + work) := by
  obtain ⟨⟨status, instr⟩, -, -, mac⟩ := mmaCounters_apart e
  have eng : (mmaCounted (s.setEng e g) e cycles skip work).eng e = g := (mmaCounted_eng ..).trans (eng_setEng_same len)
  have len' : ((mmaCounted (s.setEng e g) e cycles skip work).eng e).ix.length = 16 := by
    rw [eng]
    exact len
  refine ⟨(((OnEngine.refl s).setEng len).trans (mmaCounted_onEngine ..)).next len' status instr, ?_, ?_⟩
  · rw [mxNext_eng len', eng]
  · rw [(mxNext_onEngine len').toFrame.rd _ mac, mmaCounted_mac, setEng_rd]

end Counted

section Product
variable {s : State} {e : Nat} {clr mask : Bool} {ah bh tile : Nat}

theorem fxMma_profile (no : mmaOk (s.mxProfA e) (s.mxProfB e) (s.mxProfO e) mask = false) :
    ∃ word, fxMma e clr ah bh mask tile s = s.mxFault e MxFault.profile 0 0 word := ⟨_, if_pos (by rw [no]; rfl)⟩

variable (ok : mmaOk (s.mxProfA e) (s.mxProfB e) (s.mxProfO e) mask = true)
include ok

theorem fxMma_tile (no : tileOk tile (tileUnits (s.mxProfO e) (s.mxProfA e).outer (s.mxProfB e).outer) = false) :
    ∃ word, fxMma e clr ah bh mask tile s = s.mxFault e MxFault.tile 0 0 word :=
  ⟨_, (if_neg (by rw [ok]; decide)).trans (if_pos (by rw [no]; rfl))⟩

/-- An MMA that is allowed sets the engine's tile, counts, and goes on. -/
theorem fxMma_product (fits : tileOk tile (tileUnits (s.mxProfO e) (s.mxProfA e).outer (s.mxProfB e).outer) = true) :
    ∃ cycles skip, fxMma e clr ah bh mask tile s = (mmaCounted (s.setEng e (mmaEngine s e clr ah bh mask tile)) e cycles skip
      ((s.mxProfA e).outer * (s.mxProfB e).outer * (s.mxProfA e).k / 65536)).mxNext e :=
  ⟨_, _, (if_neg (by rw [ok]; decide)).trans (if_neg (by rw [fits]; decide))⟩

end Product

/-- Settles O37: MMA faults, or writes the rows of `mmaRows` into its engine's tile, advances the counters and goes on. -/
theorem matrixMultiply : Obligations.MatrixMultiply := by
  unfold Obligations.MatrixMultiply
  intro e clr ah bh mask tile s hl hc up due
  have eq := exec_mma e clr ah bh mask tile s
  refine ⟨fun no => ?_, fun ok no => ?_, fun ok fits => ?_⟩
  · obtain ⟨word, fault⟩ := fxMma_profile no
    exact exec_faults hl hc eq due fault (by decide)
  · obtain ⟨word, fault⟩ := fxMma_tile ok no
    exact exec_faults hl hc eq due fault (by decide)
  · obtain ⟨cycles, skip, product⟩ := fxMma_product (clr := clr) (ah := bb ah) (bh := bb bh) ok fits
    have ran := exec_due hl hc eq due
    rw [product] at ran
    obtain ⟨goes, eng, work⟩ := mmaCounted_goes s e.toNat cycles skip
      ((s.mxProfA e.toNat).outer * (s.mxProfB e.toNat).outer * (s.mxProfA e.toNat).k / 65536)
      (g := mmaEngine s e.toNat clr (bb ah) (bb bh) mask tile.toNat) up.2.1
    refine ⟨_, ran, ?_⟩
    rw [eng_commit, eng, commit_rd_eq hc goes.regs]
    exact ⟨rfl, rfl, rfl, rfl, rfl, work, goes.commit hc⟩

end Sys2Proof.Proofs
end

section
/-!
SUPPORT. The accesses of a matrix engine: the memory system leaves the engines alone, and plain memory is read and written with OK
(R151, R171, R303, R304).
-/

namespace Sys2Proof.Proofs

open Sys2Proof Sys2Proof.Machine Sys2Proof.Laws

/-! ### The memory system leaves the engines -/

section Memory
variable (s : State)

theorem parEvent_engines (blk : Nat) (os : Bool) (ev st : Nat) : (s.parEvent blk os ev st).engines = s.engines := by
  have raised {t : State} (h : ∃ lg block evt en event i, t = s.raise lg block evt en event i) : t.engines = s.engines := by
    obtain ⟨_, _, _, _, _, _, rfl⟩ := h
    exact raise_engines ..
  unfold State.parEvent
  exact ite_keeps State.engines (raised ⟨_, _, _, _, _, _, rfl⟩) (raised ⟨_, _, _, _, _, _, rfl⟩)

theorem stackWin_engines (x : Tbl ReplayWin) : ({ s with stackWin := x } : State).engines = s.engines := rfl

theorem countReplays_engines (blk k : Nat) : (s.countReplays blk k).engines = s.engines := by
  unfold State.countReplays
  exact ite_keeps State.engines (ite_keeps State.engines ((raise_engines ..).trans (stackWin_engines s _)) (stackWin_engines s _)) rfl

theorem blkRegs_engines (blk : Nat) {f g : State → Nat → State} (hf : ∀ k, (f s k).engines = s.engines)
    (hg : ∀ n, (g s n).engines = s.engines) : (s.blkRegs blk f g).engines = s.engines :=
  ite_keeps State.engines (hf _) (ite_keeps State.engines (hg _) rfl)

theorem poisonBlock_engines (blk first : Nat) : (s.poisonBlock blk first).engines = s.engines := by
  unfold State.poisonBlock
  dsimp only
  generalize ht : State.blkRegs _ blk _ _ = t
  have marked : t.engines = s.engines := ht ▸ blkRegs_engines _ blk (fun _ => rfl) fun _ => rfl
  exact ite_keeps State.engines ((parEvent_engines ..).trans marked)
    (ite_keeps State.engines ((parEvent_engines ..).trans marked) marked)

theorem readOnce_engines (blk : Nat) : (s.readOnce blk).2.engines = s.engines :=
  ite_keeps State.engines (ite_keeps State.engines rfl rfl) (ite_keeps State.engines rfl rfl)

theorem readBlock_engines (blk : Nat) : (s.readBlock blk).2.engines = s.engines := by
  have replayed (t : State) : (t.blkRegs blk (fun s k => s.addB (Reg.MEM_PAR_CNT k) 31 0 1)
      fun s n => s.addB (Reg.MEM_OS_PAR n) 31 0 1).engines = t.engines := blkRegs_engines t blk (fun _ => rfl) fun _ => rfl
  unfold State.readBlock
  dsimp only
  split_ifs <;> simp only [replayed, parEvent_engines, readOnce_engines, countReplays_engines, poisonBlock_engines]

theorem readBlocks_engines (bs : List Nat) : (s.readBlocks bs).2.engines = s.engines := by
  induction bs generalizing s with
  | nil => rfl
  | cons b bs ih => exact (ih _).trans (readBlock_engines s b)

theorem countPoison_engines (st : Nat) (bs : List Nat) : (s.countPoison st bs).engines = s.engines := by
  refine ite_keeps State.engines (foldl_keeps State.engines (fun t k => ?_) _ s) rfl
  rfl

theorem partRead_engines (a n : Nat) : (s.partRead a n).2.2.engines = s.engines := by
  unfold State.partRead
  dsimp only
  split <;> exact readBlocks_engines s _

theorem flitNext_engines : s.flitNext.2.engines = s.engines := by
  unfold State.flitNext
  split <;> rfl

theorem flitEvent_engines (a : Nat) : (s.flitEvent a).engines = s.engines := raise_engines ..

theorem readFlit_engines (a n st : Nat) (bs : List Byte) : (s.readFlit a n st bs).2.2.engines = s.engines := by
  have next := flitNext_engines s
  unfold State.readFlit State.flitRead
  generalize s.flitNext = r at next ⊢
  obtain ⟨_ | k, t⟩ := r
  · exact next
  · dsimp only
    by_cases covered : 64 * k < n
    · simp only [if_pos covered]
      exact (flitEvent_engines t a).trans next
    · simp only [if_neg covered]
      exact next

theorem writeFlit_engines (a n : Nat) : (s.writeFlit a n).engines = s.engines := by
  have next := flitNext_engines s
  unfold State.writeFlit
  generalize s.flitNext = r at next ⊢
  obtain ⟨_ | k, t⟩ := r
  · exact next
  · have poisoned (b m : Nat) : (t.memPoison b m).engines = t.engines := by
      refine foldl_keeps State.engines (fun u c => ?_) _ t
      rfl
    exact (ite_keeps State.engines ((flitEvent_engines ..).trans (poisoned _ _)) rfl).trans next

theorem memPut_engines (a : Nat) (bs : List Byte) : (s.memPut a bs).engines = s.engines := by
  refine foldl_keeps State.engines (fun t b => ?_) _ s
  exact ite_keeps State.engines rfl rfl

theorem readParts_engines (ps : List (Nat × Nat)) : (s.readParts ps).2.2.2.engines = s.engines := by
  induction ps generalizing s with
  | nil => rfl
  | cons p ps ih => exact (ih _).trans (partRead_engines s p.1 p.2)

theorem writeParts_engines (ps : List (Nat × Nat)) (bs : List Byte) : (s.writeParts ps bs).engines = s.engines := by
  induction ps generalizing s bs with
  | nil => rfl
  | cons p ps ih => exact (ih _ _).trans (memPut_engines s p.1 _)

theorem mergeParts_engines (ps : List (Nat × Nat)) : (s.mergeParts ps).2.2.engines = s.engines := by
  induction ps generalizing s with
  | nil => rfl
  | cons p ps ih => exact (ih _).trans (readBlocks_engines s _)

theorem guestTake_engines (q : GuestAsk) : (s.guestTake q).2.2.engines = s.engines := by
  unfold State.guestTake
  dsimp only
  split <;> rfl

theorem guestRead_engines (m : Nat) (ps : List (Nat × Nat)) : (s.guestRead m ps).2.2.engines = s.engines := by
  induction ps generalizing s with
  | nil => rfl
  | cons p ps ih => exact (ih _).trans (guestTake_engines s _)

theorem guestPut_engines (m : Nat) (ps : List (Nat × Nat)) (bs : List Byte) : (s.guestPut m ps bs).2.engines = s.engines := by
  induction ps generalizing s bs with
  | nil => rfl
  | cons p ps ih => exact (ih _ _).trans (guestTake_engines s _)

theorem readStatus_engines (m src : Nat) (h : RegHit) : (s.readStatus m src h).2.engines = s.engines := by
  unfold State.readStatus
  split
  case h_12 | h_13 | h_14 | h_15 =>
    dsimp only
    split
    · rfl
    · exact raise_engines ..
  all_goals rfl

theorem regValue_engines (h : RegHit) (a : Nat) : (s.regValue h a).2.engines = s.engines := by
  unfold State.regValue
  split
  · rfl
  · dsimp only
    split
    case h_19 =>
      unfold State.freeField
      split <;> rfl
    all_goals rfl

theorem ctlLoad_engines (m a n : Nat) : (s.ctlLoad m a n).2.2.engines = s.engines := by
  unfold State.ctlLoad
  split
  · rfl
  next h _ =>
    have status := readStatus_engines s m s.devId h
    generalize s.readStatus m s.devId h = r at status ⊢
    obtain ⟨st, t⟩ := r
    dsimp only
    split
    · exact status
    · exact (regValue_engines t h _).trans status

theorem ctlStore_engines (m a : Nat) (bs : List Byte) : (s.ctlStore m a bs).2.engines = s.engines := by
  unfold State.ctlStore
  split
  · rfl
  next h _ =>
    split
    · rfl
    · have status : (if h.row.writer = .ro ∨ h.row.writer = .mailbox then s.readStatus m s.devId h else (St.ok, s)).2.engines
          = s.engines := by
        split
        · exact readStatus_engines s m s.devId h
        · rfl
      generalize (if h.row.writer = .ro ∨ h.row.writer = .mailbox then s.readStatus m s.devId h else (St.ok, s)) = r at status ⊢
      obtain ⟨st, t⟩ := r
      dsimp only
      split <;> exact status

theorem load_engines (m a n : Nat) : (s.load m a n).2.2.engines = s.engines := by
  unfold State.load
  dsimp only
  split
  · rfl
  · split
    · rfl
    · split
      · exact ctlLoad_engines s m a n
      · exact guestRead_engines s m _
      · exact (readFlit_engines ..).trans ((countPoison_engines ..).trans (readParts_engines s _))

theorem store_engines (m a : Nat) (bs : List Byte) : (s.store m a bs).2.engines = s.engines := by
  unfold State.store
  dsimp only
  split
  · rfl
  · split
    · exact ctlStore_engines s m a bs
    · exact guestPut_engines s m _ bs
    · split
      · exact countPoison_engines s St.poison _
      · split
        · exact (countPoison_engines ..).trans (mergeParts_engines s _)
        · exact (writeFlit_engines ..).trans ((writeParts_engines ..).trans (mergeParts_engines s _))

end Memory

/-! ### Reads and writes of an engine -/

/-- From `s` to `t` an engine accessed memory: bytes in `B` changed, and no engine. -/
structure Reached (B : Nat → Prop) (s t : State) : Prop extends Accessed B s t where
  engines : t.engines = s.engines

namespace Reached

variable {B : Nat → Prop} {s t u : State}

theorem refl (s : State) : Reached B s s := ⟨.refl s, rfl⟩

theorem trans (h : Reached B s t) (k : Reached B t u) : Reached B s u :=
  ⟨h.toAccessed.trans k.toAccessed, k.engines.trans h.engines⟩

theorem eng (h : Reached B s t) (j : Nat) : t.eng j = s.eng j := by
  unfold State.eng
  rw [h.engines]

end Reached

theorem mxRead_reached {B : Nat → Prop} (s : State) (e : Nat) (ps : List (Nat × Nat)) : Reached B s (s.mxRead e ps).2.2.2 := by
  induction ps generalizing s with
  | nil => exact .refl s
  | cons p ps ih =>
    obtain ⟨a, n⟩ := p
    have first : Reached B s (s.load (0x80 + e) a n).2.2 := ⟨⟨load_frame .., load_aside ..⟩, load_engines ..⟩
    unfold State.mxRead
    generalize s.load (0x80 + e) a n = r at first ⊢
    obtain ⟨st, bs, t⟩ := r
    dsimp only at first ⊢
    split
    · exact first
    · exact first.trans (ih t)

theorem mxWrite_reached (s : State) (e : Nat) (ps : List (Nat × Nat)) (bs : List Byte) :
    Reached (fun _ => True) s (s.mxWrite e ps bs).2.2 := by
  have blocks (l : List (Nat × Nat)) (s : State) (bs : List Byte) : Reached (fun _ => True) s (s.mxWriteBlocks e l bs).2.2 := by
    induction l generalizing s bs with
    | nil => exact .refl s
    | cons p l ih =>
      obtain ⟨a, n⟩ := p
      have first : Reached (fun _ => True) s (s.store (0x80 + e) a (bs.take n)).2 :=
        ⟨⟨store_frame .., store_aside ..⟩, store_engines ..⟩
      unfold State.mxWriteBlocks
      generalize s.store (0x80 + e) a (bs.take n) = r at first ⊢
      obtain ⟨st, t⟩ := r
      dsimp only at first ⊢
      split
      · exact first
      · exact first.trans (ih t _)
  exact blocks _ s bs

/-- A register below the hub's space is none that an access writes. -/
theorem not_accessReg_of_lt {a : Nat} (h : a < ctlBase 4) : ¬accessReg a := by
  unfold accessReg memReg Reg.MEM_STK_ID Reg.MEM_CFG Reg.MBX_EVT
  unfold ctlBase at h ⊢
  omega

/-! ### Plain memory -/

section Plain
variable {s : State} {a n : Nat} (plain : Claim.plain s a n)
include plain

/-- A unit of the device that is no management core may reach plain bytes. -/
theorem memCheck_plain {m : Nat} (hm : m < 0xD0) : s.memCheck m a n = St.ok := by
  obtain ⟨hn, ha, on, -⟩ := plain
  have room : fwBase < lpddrBytes := by decide
  have place : placeOf a = .lpddr a := if_pos (by omega)
  have last : placeOf (a + (n - 1)) = .lpddr (a + (n - 1)) := if_pos (by omega)
  have mgmt : isMgmt m = false := by
    simp only [isMgmt, Bool.and_eq_false_iff, decide_eq_false_iff_not]
    omega
  have free (b : Nat) (hb : placeOf b = .lpddr b) (hlt : b < fwBase) : reservedRegion b = false := by
    simp only [reservedRegion, hb, decide_eq_false_iff_not]
    omega
  have running : s.jobState ≠ 5 := fun h5 => by
    rw [State.jobOn, h5] at on
    exact absurd on (by decide)
  simp only [State.memCheck, samePlace, place, last, mgmt, free a place (by omega), free _ last (by omega), running, Bool.or_self,
    Bool.not_true, Bool.false_eq_true, if_false]
  rw [if_neg (by omega), if_neg (by omega)]

theorem load_plain_unit {m : Nat} (hm : m < 0xD0) : ∃ u, s.load m a n = (St.ok, s.rawRead a n, u) := by
  have admitted := memCheck_plain plain hm
  obtain ⟨hn, ha, -, -, blocks, flits⟩ := plain
  have room : fwBase < lpddrBytes := by decide
  have place : placeOf a = .lpddr a := if_pos (by omega)
  have parts := readParts_granules s (k := n / 2048 + 2) (fun _ => by omega) (by omega : a + n ≤ lpddrBytes) blocks
  have quiet : (soundRead s (s.granules (n / 2048 + 2) a n)).flits = [] := by rw [flits_soundRead, flits]
  refine ⟨soundRead s (s.granules (n / 2048 + 2) a n), ?_⟩
  unfold State.load
  simp only [admitted, place, State.parts, parts, if_neg (show ¬n = 0 by omega)]
  exact readFlit_none quiet _ n St.ok _

/-- A device address of plain bytes resolves to itself (R151). -/
theorem mxResolve_plain {e : Nat} {x : BitVec 4} {off : BitVec 32} (holds : Claim.ixAt s e x off a) :
    s.mxResolve e x.toNat off.toNat n = .pieces [(a, n)] := by
  obtain ⟨tag, value, aligned⟩ := holds
  obtain ⟨-, ha, -⟩ := plain
  have low : a < 2 ^ 46 := by
    have room : fwBase < 2 ^ 46 := by decide
    omega
  unfold State.mxResolve State.mxLocal gaDev gaLocal
  dsimp only
  rw [value, if_pos tag, if_neg (by omega), Nat.mod_eq_of_lt low, if_neg (by omega)]

theorem mxRead_plain {e : Nat} (he : e < 64) : ∃ v, s.mxRead e [(a, n)] = (St.ok, 0, s.rawRead a n, v) := by
  obtain ⟨u, loaded⟩ := load_plain_unit plain (m := 0x80 + e) (by omega)
  refine ⟨u, ?_⟩
  unfold State.mxRead
  rw [loaded]
  simp [State.mxRead, St.ok]

end Plain

end Sys2Proof.Proofs
end

section
/-!
SUPPORT. LDA, LDB and LDS: a fetch that faults or goes on, and what both leave (R159 to R162, R203, R204), and O36.
-/

namespace Sys2Proof.Proofs

open Sys2Proof Sys2Proof.Machine Sys2Proof.Laws

/-! ### What a load leaves -/

/-- From `s` to `t` engine e kept its accumulator: the other engines and memory stay. -/
structure AccKept (e : Nat) (s t : State) : Prop where
  mem : t.mem = s.mem
  acc : (t.eng e).acc = (s.eng e).acc
  others : ∀ j, j ≠ e → t.eng j = s.eng j
  byte : ∀ a, t.byte a = s.byte a

namespace AccKept

variable {e : Nat} {s t u : State}

theorem refl (s : State) : AccKept e s s := ⟨rfl, rfl, fun _ _ => rfl, fun _ => rfl⟩

theorem trans (h : AccKept e s t) (k : AccKept e t u) : AccKept e s u :=
  ⟨k.mem.trans h.mem, k.acc.trans h.acc, fun j hj => (k.others j hj).trans (h.others j hj), fun a => (k.byte a).trans (h.byte a)⟩

theorem of_onEngine {R : Nat → Prop} (h : OnEngine R e s t) (acc : (t.eng e).acc = (s.eng e).acc) : AccKept e s t :=
  ⟨h.mem, acc, h.others, h.byte_eq⟩

theorem of_reached (h : Reached (fun _ => False) s t) : AccKept e s t :=
  ⟨h.mem, by rw [h.eng], fun j _ => h.eng j, fun a => h.byte a id⟩

theorem fault (s : State) (e code status addr : Nat) (word : Word) : AccKept e s (s.mxFault e code status addr word) := by
  have frame := mxFault_regFrame s e code status addr word
  have eng (j : Nat) : (s.mxFault e code status addr word).eng j = s.eng j := by
    unfold State.eng
    rw [mxFault_engines]
  exact ⟨frame.mem, by rw [eng], fun j _ => eng j, frame.byte⟩

theorem commit (hc : s.Canonical) (h : AccKept e s t) : (s.commit t).eng e = t.eng e ∧ ((s.commit t).eng e).acc = (s.eng e).acc
    ∧ (∀ j, j ≠ e → (s.commit t).eng j = s.eng j) ∧ ∀ a, (s.commit t).byte a = s.byte a :=
  ⟨eng_commit .., (congrArg Engine.acc (eng_commit ..)).trans h.acc, fun j hj => (eng_commit ..).trans (h.others j hj),
    fun a => (commit_byte_eq hc h.mem a).trans (h.byte a)⟩

end AccKept

/-! ### A load that reads -/

/-- The engine takes the engine record `g`, counts the load and goes on. -/
def taken (v : State) (e : Nat) (g : Engine) (count : Nat) : State :=
  ((v.setEng e g).addB (mxReg Reg.MX_CNT_LOAD e) 63 0 count).mxNext e

section Taken
variable {s v : State} {e : Nat} {g : Engine} (count : Nat) (len : g.ix.length = 16)
include len

theorem taken_ready : (((v.setEng e g).addB (mxReg Reg.MX_CNT_LOAD e) 63 0 count).eng e) = g :=
  (eng_addB ..).trans (eng_setEng_same len)

theorem taken_eng : (taken v e g count).eng e = { g with wait := .none } := by
  unfold taken
  rw [mxNext_eng (by rw [taken_ready count len]; exact len), taken_ready count len]

theorem taken_goes : Goes e (Claim.mxPc v e + 1) [mxReg Reg.MX_CNT_LOAD e] v (taken v e g count) := by
  have counted : OnEngine (· ∈ [mxReg Reg.MX_CNT_LOAD e]) e v ((v.setEng e g).addB (mxReg Reg.MX_CNT_LOAD e) 63 0 count) :=
    ((OnEngine.refl v).setEng len).addB List.mem_cons_self 63 0 count
  refine counted.next (by rw [taken_ready count len]; exact len) ?_ ?_
  all_goals
    rw [List.mem_singleton]
    unfold mxReg Reg.MX_CNT_LOAD
  · unfold Reg.MX_STATUS
    omega
  · unfold Reg.MX_CNT_INSTR
    omega

theorem taken_accKept (acc : g.acc = (v.eng e).acc) : AccKept e v (taken v e g count) :=
  .of_onEngine (taken_goes count len).toOnEngine (by rw [taken_eng count len]; exact acc)

end Taken

/-- An access leaves the registers of an engine's block. -/
theorem Reached.mxPc {B : Nat → Prop} {s v : State} (h : Reached B s v) {e : Nat} (he : e < 64) : Claim.mxPc v e = Claim.mxPc s e := by
  refine rdB_of_frame h.toFrame (not_accessReg_of_lt ?_) 28 16
  unfold mxReg Reg.MX_STATUS ctlBase
  omega

/-! ### Fetches -/

section Fetch
variable {s : State} {e x off n : Nat} {word : Word} {k : State → List Byte → State}

theorem mxFetch_read {ps : List (Nat × Nat)} {a : Nat} {bs : List Byte} {v : State} (resolved : s.mxResolve e x off n = .pieces ps)
    (read : s.mxRead e ps = (St.ok, a, bs, v)) : s.mxFetch e x off n word k = k v bs := by
  unfold State.mxFetch
  rw [resolved]
  dsimp only
  rw [read]
  exact if_neg fun failed => failed rfl

/-- A fetch that faults leaves what its access left; so does one that goes on, if its continuation does. -/
theorem mxFetch_accKept (goes : ∀ v bs, v.eng e = s.eng e → AccKept e v (k v bs)) : AccKept e s (s.mxFetch e x off n word k) := by
  unfold State.mxFetch
  split
  · exact .fault ..
  next ps _ =>
    have read := mxRead_reached (B := fun _ => False) s e ps
    generalize s.mxRead e ps = r at read ⊢
    obtain ⟨st, a, bs, v⟩ := r
    dsimp only at read ⊢
    refine (AccKept.of_reached read).trans ?_
    split
    · exact .fault ..
    · exact goes v bs (read.eng e)

end Fetch

/-! ### LDA and LDB -/

theorem putHalf_ix (g : Engine) (isB : Bool) (half : Nat) (bs : List Byte) (t : Bool) : (g.putHalf isB half bs t).ix = g.ix := by
  unfold Engine.putHalf
  split <;> rfl

theorem putHalf_acc (g : Engine) (isB : Bool) (half : Nat) (bs : List Byte) (t : Bool) : (g.putHalf isB half bs t).acc = g.acc := by
  unfold Engine.putHalf
  split <;> rfl

section Tile
variable {s : State} {e half x off : Nat} {t isB : Bool} {p : OperandProf} (prof : (if isB then s.mxProfB e else s.mxProfA e) = p)
include prof

theorem loadTile_profile (bad : p.loadOk isB = false ∨ t = true ∧ p.sparse ≠ 0) :
    ∃ word, fxLoadTile isB e t half x off s = s.mxFault e MxFault.profile 0 0 word := by
  subst prof
  refine ⟨_, if_pos ?_⟩
  rw [Bool.or_eq_true, Bool.not_eq_true', Bool.and_eq_true, bne_iff_ne]
  exact bad

variable (ok : p.loadOk isB = true) (dense : t = true → p.sparse = 0)
include ok dense

omit prof in
theorem loadTile_admitted : ¬((!p.loadOk isB || (t && p.sparse != 0)) = true) := by
  rw [Bool.or_eq_true, Bool.not_eq_true', Bool.and_eq_true, bne_iff_ne, ok]
  rintro (no | ⟨ht, sparse⟩)
  · exact nomatch no
  · exact sparse (dense ht)

theorem loadTile_bufsize (big : 262144 < (tileBytes p isB).2) :
    ∃ word, fxLoadTile isB e t half x off s = s.mxFault e MxFault.bufsize 0 0 word := by
  have admitted := loadTile_admitted ok dense
  subst prof
  exact ⟨_, (if_neg admitted).trans (if_pos big)⟩

theorem loadTile_fetch (fits : (tileBytes p isB).2 ≤ 262144) : ∃ word count,
    fxLoadTile isB e t half x off s = s.mxFetch e x off (tileBytes p isB).2 word fun v bs =>
      taken v e ((v.eng e).putHalf isB half (arrayView p isB t bs) t) count := by
  have admitted := loadTile_admitted ok dense
  subst prof
  exact ⟨_, _, (if_neg admitted).trans (if_neg (Nat.not_lt.2 fits))⟩

end Tile

/-! ### LDS -/

/-- The engine with sidecar data at `o` of a half (R203). -/
def sided (g : Engine) (half o : Nat) (bs : List Byte) : Engine :=
  { g with side := setNth g.side half (patch (nth g.side half []) o bs) }

/-- LDS of one sidecar region. -/
def ldsPut (s : State) (e half x off o n : Nat) (word : Word) : State :=
  s.mxFetch e x off n word fun v bs => taken v e (sided (v.eng e) half o bs) (ceilDiv n 1024)

theorem fxLds_region {e half kind x off o n : Nat} {s : State} (region : (kind, n, o) ∈ [(1, 64, 0x7F00), (2, 16, 0x7F40)]) :
    ∃ word, fxLds e half kind x off s = ldsPut s e half x off o n word := by
  simp only [List.mem_cons, List.not_mem_nil, or_false, Prod.mk.injEq] at region
  unfold fxLds ldsPut
  dsimp only
  obtain ⟨one, rfl, rfl⟩ | ⟨two, rfl, rfl⟩ := region
  · exact ⟨_, if_pos one⟩
  · exact ⟨_, (if_neg (by omega)).trans (if_pos two)⟩

/-! ### Every load keeps the accumulator -/

section Kept
variable {s : State} {e half x off : Nat} (len : (s.eng e).ix.length = 16)
include len

theorem loadTile_accKept (isB t : Bool) : AccKept e s (fxLoadTile isB e t half x off s) := by
  obtain ⟨p, prof⟩ : ∃ p, (if isB then s.mxProfB e else s.mxProfA e) = p := ⟨_, rfl⟩
  by_cases bad : p.loadOk isB = false ∨ t = true ∧ p.sparse ≠ 0
  · obtain ⟨word, fault⟩ := loadTile_profile (half := half) (x := x) (off := off) prof bad
    rw [fault]
    exact .fault ..
  have ok : p.loadOk isB = true := by simpa using fun h => bad (.inl h)
  have dense (ht : t = true) : p.sparse = 0 := by_contra fun h => bad (.inr ⟨ht, h⟩)
  by_cases big : 262144 < (tileBytes p isB).2
  · obtain ⟨word, fault⟩ := loadTile_bufsize (half := half) (x := x) (off := off) prof ok dense big
    rw [fault]
    exact .fault ..
  obtain ⟨word, count, fetch⟩ := loadTile_fetch (half := half) (x := x) (off := off) prof ok dense (Nat.not_lt.1 big)
  rw [fetch]
  exact mxFetch_accKept fun v bs same => taken_accKept count (by rw [putHalf_ix, same]; exact len) (putHalf_acc ..)

theorem ldsPut_accKept (o n : Nat) (word : Word) : AccKept e s (ldsPut s e half x off o n word) :=
  mxFetch_accKept fun v bs same => taken_accKept _ (show (v.eng e).ix.length = 16 by rw [same]; exact len) rfl

theorem mxNext_accKept : AccKept e s (s.mxNext e) := .of_onEngine (mxNext_onEngine len) (by rw [mxNext_eng len])

theorem fxLds_accKept (kind : Nat) : AccKept e s (fxLds e half kind x off s) := by
  unfold fxLds
  dsimp only
  split
  · exact ldsPut_accKept len _ _ _
  split
  · exact ldsPut_accKept len _ _ _
  split
  · exact mxNext_accKept len
  generalize (if ((s.mxProfA e).sparse == 0) = true then s.mxProfB e else s.mxProfA e) = p
  split
  · exact .fault ..
  split
  · exact .fault ..
  · exact ldsPut_accKept len _ _ _

end Kept

/-! ### The loads as commands -/

section Load
variable {e : BitVec 6} {s : State} (hl : s.Live) (hc : s.Canonical) (up : Claim.mxUp s e.toNat)
include hl hc

theorem exec_accKept {c : Instr} {f : State → State} (eq : exec c s = live s (mxRun e.toNat c f)) (kept : AccKept e.toNat s (f s)) :
    ∃ u, exec c s = .next u ∧ (u.eng e.toNat).acc = (s.eng e.toNat).acc ∧ (∀ j, j ≠ e.toNat → u.eng j = s.eng j)
      ∧ ∀ a, u.byte a = s.byte a := by
  cases due : s.mxDue e.toNat c
  · exact ⟨s, exec_notDue hl hc eq due, rfl, fun _ _ => rfl, fun _ => rfl⟩
  · exact ⟨_, exec_due hl hc eq due, (kept.commit hc).2⟩

/-- A fetch that read, as its command ends. -/
theorem exec_taken {c : Instr} {f : State → State} {x off n ps a bs v word count} {take : Engine → List Byte → Engine}
    (eq : exec c s = live s (mxRun e.toNat c f)) (due : s.mxDue e.toNat c = true)
    (fetch : f s = s.mxFetch e.toNat x off n word fun v bs => taken v e.toNat (take (v.eng e.toNat) bs) count)
    (len : (take (s.eng e.toNat) bs).ix.length = 16)
    (resolved : s.mxResolve e.toNat x off n = .pieces ps) (read : s.mxRead e.toNat ps = (St.ok, a, bs, v)) :
    ∃ u, exec c s = .next u ∧ u.eng e.toNat = { take (s.eng e.toNat) bs with wait := .none } ∧ Claim.mxNextPc s u e.toNat := by
  have reached : Reached (fun _ => False) s v := by
    have := mxRead_reached (B := fun _ => False) s e.toNat ps
    rw [read] at this
    exact this
  have goes := taken_goes (v := v) (e := e.toNat) count len
  have regs : (taken v e.toNat (take (s.eng e.toNat) bs) count).regs = s.regs := goes.regs.trans reached.regs
  refine ⟨_, exec_due hl hc eq due, ?_⟩
  rw [fetch, mxFetch_read resolved read, reached.eng, eng_commit, taken_eng count len]
  refine ⟨rfl, (congrArg (bits · 2 0) (commit_rd_eq hc regs _)).trans goes.state, ?_⟩
  rw [← reached.mxPc e.isLt]
  exact (congrArg (bits · 28 16) (commit_rd_eq hc regs _)).trans goes.pc

include up

/-- LDA and LDB when they are due. -/
theorem exec_loadTile_due {c : Instr} {isB t : Bool} {half : Nat} {x : BitVec 4} {off : BitVec 32} {p : OperandProf}
    (eq : exec c s = live s (mxRun e.toNat c (fxLoadTile isB e.toNat t half x.toNat off.toNat)))
    (prof : (if isB then s.mxProfB e.toNat else s.mxProfA e.toNat) = p) (due : s.mxDue e.toNat c = true) :
    let fits := p.loadOk isB = true ∧ (t = true → p.sparse = 0) ∧ (tileBytes p isB).2 ≤ 262144
    let loaded (bs : List Byte) (u : State) :=
      u.eng e.toNat = { (s.eng e.toNat).putHalf isB half (arrayView p isB t bs) t with wait := .none } ∧ Claim.mxNextPc s u e.toNat
    (p.loadOk isB = false ∨ t = true ∧ p.sparse ≠ 0 → ∃ u, exec c s = .next u ∧ Claim.mxFaults s u e.toNat MxFault.profile)
    ∧ (p.loadOk isB = true → (t = true → p.sparse = 0) → 262144 < (tileBytes p isB).2 →
      ∃ u, exec c s = .next u ∧ Claim.mxFaults s u e.toNat MxFault.bufsize)
    ∧ (∀ ps a bs v, fits → s.mxResolve e.toNat x.toNat off.toNat (tileBytes p isB).2 = .pieces ps →
      s.mxRead e.toNat ps = (St.ok, a, bs, v) → ∃ u, exec c s = .next u ∧ loaded bs u)
    ∧ ∀ a, fits → Claim.ixAt s e.toNat x off a → Claim.plain s a (tileBytes p isB).2 →
      ∃ u, exec c s = .next u ∧ loaded (s.rawRead a (tileBytes p isB).2) u := by
  have reads (ps a bs v) (fits : p.loadOk isB = true ∧ (t = true → p.sparse = 0) ∧ (tileBytes p isB).2 ≤ 262144)
      (resolved : s.mxResolve e.toNat x.toNat off.toNat (tileBytes p isB).2 = .pieces ps)
      (read : s.mxRead e.toNat ps = (St.ok, a, bs, v)) : ∃ u, exec c s = .next u
        ∧ u.eng e.toNat = { (s.eng e.toNat).putHalf isB half (arrayView p isB t bs) t with wait := .none }
        ∧ Claim.mxNextPc s u e.toNat := by
    obtain ⟨ok, dense, small⟩ := fits
    obtain ⟨word, count, fetch⟩ := loadTile_fetch (half := half) (x := x.toNat) (off := off.toNat) prof ok dense small
    exact exec_taken hl hc (take := fun g bs => g.putHalf isB half (arrayView p isB t bs) t) eq due fetch
      (by rw [putHalf_ix]; exact up.2.1) resolved read
  refine ⟨fun bad => ?_, fun ok dense big => ?_, reads, fun a fits holds plain => ?_⟩
  · obtain ⟨word, fault⟩ := loadTile_profile (half := half) (x := x.toNat) (off := off.toNat) prof bad
    exact exec_faults hl hc eq due fault (by decide)
  · obtain ⟨word, fault⟩ := loadTile_bufsize (half := half) (x := x.toNat) (off := off.toNat) prof ok dense big
    exact exec_faults hl hc eq due fault (by decide)
  · obtain ⟨v, read⟩ := mxRead_plain plain e.isLt
    exact reads _ _ _ _ fits (mxResolve_plain plain holds) read

/-- LDS of one sidecar region when it is due. -/
theorem exec_lds_due {h : Bool} {k : BitVec 2} {x : BitVec 4} {off : BitVec 32} {len o : Nat}
    (region : (k.toNat, len, o) ∈ [(1, 64, 0x7F00), (2, 16, 0x7F40)]) (due : s.mxDue e.toNat (.lds e h k x off) = true) :
    let put (bs : List Byte) (u : State) :=
      u.eng e.toNat = { sided (s.eng e.toNat) (bb h) o bs with wait := .none } ∧ Claim.mxNextPc s u e.toNat
    (∀ ps a bs v, s.mxResolve e.toNat x.toNat off.toNat len = .pieces ps → s.mxRead e.toNat ps = (St.ok, a, bs, v) →
      ∃ u, exec (.lds e h k x off) s = .next u ∧ put bs u)
    ∧ ∀ a, Claim.ixAt s e.toNat x off a → Claim.plain s a len →
      ∃ u, exec (.lds e h k x off) s = .next u ∧ put (s.rawRead a len) u := by
  obtain ⟨word, fetch⟩ := fxLds_region (e := e.toNat) (half := bb h) (x := x.toNat) (off := off.toNat) (s := s) region
  have reads (ps a bs v) (resolved : s.mxResolve e.toNat x.toNat off.toNat len = .pieces ps)
      (read : s.mxRead e.toNat ps = (St.ok, a, bs, v)) : ∃ u, exec (.lds e h k x off) s = .next u
        ∧ u.eng e.toNat = { sided (s.eng e.toNat) (bb h) o bs with wait := .none } ∧ Claim.mxNextPc s u e.toNat :=
    exec_taken hl hc (take := fun g bs => sided g (bb h) o bs) (exec_lds e h k x off s) due fetch up.2.1 resolved read
  refine ⟨reads, fun a holds plain => ?_⟩
  obtain ⟨v, read⟩ := mxRead_plain plain e.isLt
  exact reads _ _ _ _ (mxResolve_plain plain holds) read

end Load

/-- Settles O36: a load fetches its bytes, which leaves the engines and memory, and then changes one half of its own engine; a
device address of plain bytes resolves to itself and is read with OK. -/
theorem matrixLoads : Obligations.MatrixLoads := by
  unfold Obligations.MatrixLoads
  intro e t h k x off s hl hc up
  refine ⟨?_, exec_loadTile_due hl hc up (exec_lda e t h x off s) rfl, exec_loadTile_due hl hc up (exec_ldb e t h x off s) rfl, ?_⟩
  · simp only [List.forall_mem_cons, List.not_mem_nil, false_implies, implies_true, and_true]
    exact ⟨exec_accKept hl hc (exec_lda e t h x off s) (loadTile_accKept up.2.1 false t),
      exec_accKept hl hc (exec_ldb e t h x off s) (loadTile_accKept up.2.1 true t),
      exec_accKept hl hc (exec_lds e h k x off s) (fxLds_accKept up.2.1 k.toNat)⟩
  · intro kind len o region due
    refine exec_lds_due hl hc up ?_ due
    simp only [List.mem_cons, List.not_mem_nil, or_false, Prod.mk.injEq] at region ⊢
    obtain ⟨rfl, -, rest⟩ | ⟨rfl, -, rest⟩ := region
    · exact .inl ⟨rfl, rest⟩
    · exact .inr ⟨rfl, rest⟩

end Sys2Proof.Proofs
end

section
/-!
SUPPORT. The end of a drain: the tile it clears, what MX_DRAIN_STAT and MX_EVT report, and the engine that goes on (R163, R166, R167).
-/

namespace Sys2Proof.Proofs

open Sys2Proof Sys2Proof.Machine Sys2Proof.Laws

/-! ### MX_DRAIN_STAT -/

/-- The value of MX_DRAIN_STAT: whether and where a value was not finite, whether one saturated, the tile and the mode (R166). -/
def drainWord (m : DrainMode) (tile : Nat) (nf : Option (Nat × Nat × Nat)) (sat : Bool) : Nat :=
  let p := nf.getD (0, 0, 0)
  bb nf.isSome + at_ 1 (bb sat) + at_ 2 p.2.2 + at_ 8 p.1 + at_ 16 p.2.1 + at_ 24 tile + at_ 29 m.code

theorem code_lt (m : DrainMode) : m.code < 8 := by cases m <;> decide

theorem bb_lt (b : Bool) : bb b < 2 := by cases b <;> decide

theorem bb_beq_one (b : Bool) : (bb b == 1) = b := by cases b <;> rfl

theorem drainWord_fields (m : DrainMode) {tile : Nat} {nf : Option (Nat × Nat × Nat)} (sat : Bool) (ht : tile < 32)
    (hn : ∀ r c k, nf = some (r, c, k) → r < 128 ∧ c < 128 ∧ k < 4) : let v := w (drainWord m tile nf sat)
    bits v 28 24 = tile ∧ bits v 31 29 = m.code ∧ bit v 0 = nf.isSome ∧ bit v 1 = sat := by
  have small : (nf.getD (0, 0, 0)).1 < 128 ∧ (nf.getD (0, 0, 0)).2.1 < 128 ∧ (nf.getD (0, 0, 0)).2.2 < 4 := by
    cases nf with
    | none => decide
    | some p => exact hn _ _ _ rfl
  have mode := code_lt m
  have flag := bb_lt nf.isSome
  have sats := bb_lt sat
  have flagBit := bb_beq_one nf.isSome
  have satBit := bb_beq_one sat
  unfold drainWord
  generalize nf.getD (0, 0, 0) = p at small
  generalize bb nf.isSome = x at flag flagBit
  generalize bb sat = y at sats satBit
  simp only [bits, nbits, bit, w, at_, BitVec.toNat_ofNat]
  refine ⟨by omega, by omega, ?_, ?_⟩
  · rw [← flagBit]
    congr 1
    omega
  · rw [← satBit]
    congr 1
    omega

/-! ### The report -/

/-- The first value that is not finite is recorded (R167). -/
def nfRecorded (s : State) (e : Nat) (st : Nat) : State :=
  if bit (s.rd (mxReg Reg.MX_EVT e)) 0 then s
  else
    let s := s.wr (mxReg Reg.MX_NF_FIRST e) (w (st + at_ 32 (s.rdB (mxReg Reg.MX_STATUS e) 28 16)))
    s.wr (mxReg Reg.MX_NF_TIME e) (w s.now)

/-- An event of the engine. -/
def mxRaised (s : State) (e lg ev : Nat) (i : EvInfo) : State := s.raise lg Blk.mx (mxReg Reg.MX_EVT e) (mxReg Reg.MX_EVT_EN e) ev i

/-- The report of a drain: MX_DRAIN_STAT, the record of the first value that is not finite, and the events NF and SAT. -/
def drainReport (s : State) (e st lg : Nat) (nf sat : Bool) (i j : EvInfo) : State :=
  let u := s.wr (mxReg Reg.MX_DRAIN_STAT e) (w st)
  let v := if nf then mxRaised (nfRecorded u e st) e lg 0 i else u
  if sat then mxRaised v e lg 1 j else v

theorem drainStat_eq (s : State) (e : Nat) (m : DrainMode) (tile : Nat) (nf : Option (Nat × Nat × Nat)) (sat : Bool) :
    ∃ lg i j, s.drainStat e m tile nf sat = drainReport s e (drainWord m tile nf sat) lg nf.isSome sat i j := by
  unfold State.drainStat drainWord
  generalize nf.getD (0, 0, 0) = p
  exact ⟨_, _, _, rfl⟩

/-- The registers that a drain writes besides. -/
def drainRegs (e : Nat) : List Nat :=
  [mxReg Reg.MX_CNT_DRAIN e, mxReg Reg.MX_DRAIN_STAT e, mxReg Reg.MX_NF_FIRST e, mxReg Reg.MX_NF_TIME e, mxReg Reg.MX_EVT e]

theorem drainRegs_apart (e : Nat) : mxReg Reg.MX_STATUS e ∉ drainRegs e ∧ mxReg Reg.MX_CNT_INSTR e ∉ drainRegs e := by
  simp only [drainRegs, List.mem_cons, List.not_mem_nil, or_false]
  unfold mxReg Reg.MX_STATUS Reg.MX_CNT_INSTR Reg.MX_CNT_DRAIN Reg.MX_DRAIN_STAT Reg.MX_NF_FIRST Reg.MX_NF_TIME Reg.MX_EVT
  omega

/-- MX_DRAIN_STAT and MX_EVT are registers of their own. -/
theorem drainStat_apart (e : Nat) :
    mxReg Reg.MX_DRAIN_STAT e ≠ mxReg Reg.MX_NF_FIRST e ∧ mxReg Reg.MX_DRAIN_STAT e ≠ mxReg Reg.MX_NF_TIME e
    ∧ mxReg Reg.MX_DRAIN_STAT e ≠ mxReg Reg.MX_EVT e ∧ ¬goReg e (mxReg Reg.MX_DRAIN_STAT e) ∧ ¬goReg e (mxReg Reg.MX_EVT e) := by
  unfold goReg mxReg Reg.MX_STATUS Reg.MX_CNT_INSTR Reg.MX_DRAIN_STAT Reg.MX_NF_FIRST Reg.MX_NF_TIME Reg.MX_EVT
  omega

section Report
variable (s : State) (e : Nat)

theorem nfRecorded_onEngine (st : Nat) : OnEngine (fun a => a = mxReg Reg.MX_NF_FIRST e ∨ a = mxReg Reg.MX_NF_TIME e) e s
    (nfRecorded s e st) := .ite (.refl s) (((OnEngine.refl s).wr (.inl rfl) _).wr (.inr rfl) _)

theorem nfRecorded_eng (st j : Nat) : (nfRecorded s e st).eng j = s.eng j := ite_keeps (State.eng · j) rfl rfl

theorem mxRaised_onEngine (lg ev : Nat) (i : EvInfo) : OnEngine (· = mxReg Reg.MX_EVT e) e s (mxRaised s e lg ev i) :=
  OnEngine.raise (R := (· = mxReg Reg.MX_EVT e)) (.refl s) rfl ..

theorem mxRaised_eng (lg ev : Nat) (i : EvInfo) (j : Nat) : (mxRaised s e lg ev i).eng j = s.eng j := eng_raise ..

theorem mxRaised_evt (lg ev : Nat) (i : EvInfo) :
    (mxRaised s e lg ev i).rd (mxReg Reg.MX_EVT e) = setBit (s.rd (mxReg Reg.MX_EVT e)) ev := rd_raise ..

variable (st lg : Nat) (nf sat : Bool) (i j : EvInfo)

theorem drainReport_onEngine : OnEngine (· ∈ drainRegs e) e s (drainReport s e st lg nf sat i j) := by
  have evt : mxReg Reg.MX_EVT e ∈ drainRegs e := .tail _ (.tail _ (.tail _ (.tail _ (.head _))))
  have told : OnEngine (· ∈ drainRegs e) e s (s.wr (mxReg Reg.MX_DRAIN_STAT e) (w st)) := (OnEngine.refl s).wr (.tail _ (.head _)) _
  have recorded (u : State) : OnEngine (· ∈ drainRegs e) e u (nfRecorded u e st) := (nfRecorded_onEngine u e st).mono fun a h =>
    h.elim (fun h => h ▸ .tail _ (.tail _ (.head _))) fun h => h ▸ .tail _ (.tail _ (.tail _ (.head _)))
  have raised (u : State) (ev : Nat) (k : EvInfo) : OnEngine (· ∈ drainRegs e) e u (mxRaised u e lg ev k) :=
    (mxRaised_onEngine u e lg ev k).mono fun _ h => h ▸ evt
  have first : OnEngine (· ∈ drainRegs e) e s (if nf then mxRaised (nfRecorded (s.wr (mxReg Reg.MX_DRAIN_STAT e) (w st)) e st) e lg 0 i
      else s.wr (mxReg Reg.MX_DRAIN_STAT e) (w st)) := .ite ((told.trans (recorded _)).trans (raised _ 0 i)) told
  exact .ite (first.trans (raised _ 1 j)) first

theorem drainReport_eng (k : Nat) : (drainReport s e st lg nf sat i j).eng k = s.eng k := by
  have first : (if nf then mxRaised (nfRecorded (s.wr (mxReg Reg.MX_DRAIN_STAT e) (w st)) e st) e lg 0 i
      else s.wr (mxReg Reg.MX_DRAIN_STAT e) (w st)).eng k = s.eng k :=
    ite_keeps (State.eng · k) ((mxRaised_eng ..).trans ((nfRecorded_eng ..).trans (eng_wr ..))) (eng_wr ..)
  exact ite_keeps (State.eng · k) ((mxRaised_eng ..).trans first) first

theorem drainReport_stat : (drainReport s e st lg nf sat i j).rd (mxReg Reg.MX_DRAIN_STAT e) = w st := by
  obtain ⟨first, time, evt, -⟩ := drainStat_apart e
  have raised (u : State) (ev : Nat) (k : EvInfo) :
      (mxRaised u e lg ev k).rd (mxReg Reg.MX_DRAIN_STAT e) = u.rd (mxReg Reg.MX_DRAIN_STAT e) :=
    (mxRaised_onEngine u e lg ev k).toFrame.rd _ evt
  have recorded (u : State) : (nfRecorded u e st).rd (mxReg Reg.MX_DRAIN_STAT e) = u.rd (mxReg Reg.MX_DRAIN_STAT e) :=
    (nfRecorded_onEngine u e st).toFrame.rd _ fun h => h.elim first time
  unfold drainReport
  dsimp only
  cases sat <;> cases nf <;> simp only [if_true, Bool.false_eq_true, if_false, raised, recorded, rd_wr_same]

theorem drainReport_nf : bit ((drainReport s e st lg true sat i j).rd (mxReg Reg.MX_EVT e)) 0 = true := by
  unfold drainReport
  dsimp only
  rw [if_pos rfl]
  split
  · rw [mxRaised_evt, bit_setBit_other _ (by decide) (by decide), mxRaised_evt, bit_setBit _ (by decide)]
  · rw [mxRaised_evt, bit_setBit _ (by decide)]

end Report

/-! ### The end of a drain -/

/-- The engine after a drain of a tile. -/
def cleared (g : Engine) (tile units : Nat) (keep : Bool) (am : Option (Nat × Word)) : Engine :=
  let um := unitMask tile units
  { g with
    acc := if keep then g.acc else Tbl.clear g.acc (tile * 4096) (units * 4096)
    live := bitsWithout g.live um
    sat := if keep then g.sat else bitsWithout g.sat um
    amax := am }

/-- What a drain saturates: now, or in the products it drains. -/
def drainSat (g : Engine) (tile units : Nat) (sat : Bool) : Bool := sat || g.sat.land (unitMask tile units) != 0

/-- The engine is set and the array's drain cycles are counted. -/
def drainCounted (u : State) (e : Nat) (g : Engine) (work : Nat) : State := (u.setEng e g).addB (mxReg Reg.MX_CNT_DRAIN e) 63 0 work

section Shows
variable (u : State) (e : Nat) {g : Engine} (len : g.ix.length = 16) (work st lg : Nat) (nf sat : Bool) (i j : EvInfo)
include len

theorem reported_onEngine : OnEngine (· ∈ drainRegs e) e u (drainReport (drainCounted u e g work) e st lg nf sat i j) :=
  (((OnEngine.refl u).setEng len).addB (List.mem_cons_self) 63 0 work).trans (drainReport_onEngine ..)

theorem reported_eng : (drainReport (drainCounted u e g work) e st lg nf sat i j).eng e = g :=
  (drainReport_eng ..).trans ((eng_addB ..).trans (eng_setEng_same len))

theorem reported_len : ((drainReport (drainCounted u e g work) e st lg nf sat i j).eng e).ix.length = 16 := by
  rw [reported_eng u e len]
  exact len

theorem reported_goes : Goes e (Claim.mxPc u e + 1) (drainRegs e) u
    ((drainReport (drainCounted u e g work) e st lg nf sat i j).mxNext e) :=
  (reported_onEngine u e len ..).next (reported_len u e len ..) (drainRegs_apart e).1 (drainRegs_apart e).2

theorem reported_next (a : Nat) (ha : ¬goReg e a) : ((drainReport (drainCounted u e g work) e st lg nf sat i j).mxNext e).rd a
    = (drainReport (drainCounted u e g work) e st lg nf sat i j).rd a := (mxNext_onEngine (reported_len u e len ..)).toFrame.rd a ha

end Shows

section End
variable (u : State) (e tile rows cols : Nat) (m : DrainMode) (o : OutputProf) (keep sat : Bool) (nf : Option (Nat × Nat × Nat))
  (am : Option (Nat × Word))

theorem drainEnd_eq : ∃ work lg i j, u.drainEnd e m o tile rows cols keep nf sat am =
    (drainReport (drainCounted u e (cleared (u.eng e) tile (tileUnits o rows cols) keep am) work) e
      (drainWord m tile nf (drainSat (u.eng e) tile (tileUnits o rows cols) sat)) lg nf.isSome
      (drainSat (u.eng e) tile (tileUnits o rows cols) sat) i j).mxNext e := by
  have counted : ∃ work, u.drainEnd e m o tile rows cols keep nf sat am =
      ((drainCounted u e (cleared (u.eng e) tile (tileUnits o rows cols) keep am) work).drainStat e m tile nf
        (drainSat (u.eng e) tile (tileUnits o rows cols) sat)).mxNext e := ⟨_, rfl⟩
  obtain ⟨work, eq⟩ := counted
  obtain ⟨lg, i, j, report⟩ := drainStat_eq (drainCounted u e (cleared (u.eng e) tile (tileUnits o rows cols) keep am) work) e m tile nf
    (drainSat (u.eng e) tile (tileUnits o rows cols) sat)
  exact ⟨work, lg, i, j, eq.trans (congrArg (State.mxNext · e) report)⟩

variable (len : (u.eng e).ix.length = 16)
include len

theorem drainEnd_goes : Goes e (Claim.mxPc u e + 1) (drainRegs e) u (u.drainEnd e m o tile rows cols keep nf sat am) := by
  obtain ⟨work, lg, i, j, eq⟩ := drainEnd_eq u e tile rows cols m o keep sat nf am
  rw [eq]
  exact reported_goes u e (g := cleared (u.eng e) tile (tileUnits o rows cols) keep am) len ..

theorem drainEnd_eng : (u.drainEnd e m o tile rows cols keep nf sat am).eng e
    = { cleared (u.eng e) tile (tileUnits o rows cols) keep am with wait := .none } := by
  obtain ⟨work, lg, i, j, eq⟩ := drainEnd_eq u e tile rows cols m o keep sat nf am
  rw [eq, mxNext_eng (reported_len u e (g := cleared (u.eng e) tile (tileUnits o rows cols) keep am) len ..),
    reported_eng u e (g := cleared (u.eng e) tile (tileUnits o rows cols) keep am) len]

/-- What the end of a drain reports (R166, R167). -/
theorem drainEnd_stat : (u.drainEnd e m o tile rows cols keep nf sat am).rd (mxReg Reg.MX_DRAIN_STAT e)
    = w (drainWord m tile nf (drainSat (u.eng e) tile (tileUnits o rows cols) sat)) := by
  obtain ⟨work, lg, i, j, eq⟩ := drainEnd_eq u e tile rows cols m o keep sat nf am
  rw [eq, reported_next u e (g := cleared (u.eng e) tile (tileUnits o rows cols) keep am) len _ _ _ _ _ _ _ _ (drainStat_apart e).2.2.2.1,
    drainReport_stat]

theorem drainEnd_event (flagged : nf.isSome = true) :
    bit ((u.drainEnd e m o tile rows cols keep nf sat am).rd (mxReg Reg.MX_EVT e)) 0 = true := by
  obtain ⟨work, lg, i, j, eq⟩ := drainEnd_eq u e tile rows cols m o keep sat nf am
  rw [eq, reported_next u e (g := cleared (u.eng e) tile (tileUnits o rows cols) keep am) len _ _ _ _ _ _ _ _ (drainStat_apart e).2.2.2.2,
    flagged, drainReport_nf]

end End

end Sys2Proof.Proofs
end

section
/-!
SUPPORT. What a drain writes: blocks of plain memory that are stored one after another (R151, R171, R304).
-/

namespace Sys2Proof.Proofs

open Sys2Proof Sys2Proof.Machine Sys2Proof.Laws

/-! ### One block -/

/-- A write of plain bytes within one granule is made, as one part (R294, R304). -/
theorem parts_within (s : State) {a n : Nat} (hn : 1 ≤ n) (ha : a + n ≤ lpddrBytes) (within : a % 2048 + n ≤ 2048) :
    s.parts a n = [(a, n)] := by
  have rest (k b : Nat) : s.granules k b 0 = [] := by
    cases k
    · rfl
    · exact if_pos rfl
  unfold State.parts State.granules
  rw [if_neg (by omega)]
  dsimp only
  rw [memKey_lpddr s (by omega), Nat.min_eq_left (by omega), Nat.sub_self, rest]
  rfl

section Block
variable {s : State} {a m : Nat} {bs : List Byte} (plain : Claim.plain s a bs.length) (hm : m < 0xD0)
  (within : a % 2048 + bs.length ≤ 2048)
include plain hm within

theorem store_eq_memWrite : s.store m a bs = s.memWrite a bs := by
  have admitted := memCheck_plain plain hm
  obtain ⟨hn, ha, -, -, sound⟩ := plain
  have room : fwBase < lpddrBytes := by decide
  have place : placeOf a = .lpddr a := if_pos (by omega)
  have parts := parts_within s hn (by omega) within
  obtain ⟨blocks, flits⟩ := sound
  have unpoisoned : s.partPoisoned (a, bs.length) = false := by
    unfold State.partPoisoned
    rw [List.any_eq_false]
    intro b hb
    rw [(blocks b hb).1]
    simp
  have merged : s.mergeRead a bs.length
      = (St.ok, countReads s ((blocksOf a bs.length).filter fun b => !wordAligned b a bs.length)) :=
    readBlocks_sound fun b hb => blocks b (List.mem_of_mem_filter hb)
  have whole : ((blocksOf a bs.length).any fun b =>
      s.par.get b 0 == 0xFFFF && !(decide (a ≤ b) && decide (b + 64 ≤ a + bs.length))) = false := unpoisoned
  unfold State.store State.memWrite
  simp only [admitted, place, parts, List.any_cons, List.any_nil, unpoisoned, whole, State.mergeParts, merged, State.writeParts,
    List.take_length, List.headD_cons, Bool.or_self, Bool.false_eq_true, if_false]
  rfl

theorem store_plain_block : ∃ u, s.store m a bs = (St.ok, u) ∧ Stored s u a bs := by
  have stored := memWrite_stored plain.2.2.2.2
  rw [store_eq_memWrite plain hm within, memWrite_sound plain.2.2.2.2] at *
  exact ⟨_, rfl, stored⟩

end Block

/-! ### A run of blocks -/

section Stores
variable {s t u : State} {a n : Nat}

theorem plain_part (h : Claim.plain s a n) {c m : Nat} (lo : a ≤ c) (hi : c + m ≤ a + n) (hm : 1 ≤ m) : Claim.plain s c m := by
  obtain ⟨-, ha, on, wf, sound⟩ := h
  exact ⟨hm, by omega, on, wf, sound_part sound lo hi⟩

theorem not_memReg_jobState : ¬memReg Reg.ID_JOB_STATE := by
  unfold memReg
  decide

theorem Stored.plain {bs : List Byte} {b : Nat} (h : Stored s t b bs) (plain : Claim.plain s a n) : Claim.plain t a n := by
  obtain ⟨hn, ha, on, clean⟩ := plain
  refine ⟨hn, ha, ?_, h.clean clean⟩
  unfold State.jobOn State.jobState at on ⊢
  rw [rdB_of_frame h.frame not_memReg_jobState]
  exact on

theorem Stored.append {xs ys : List Byte} (h : Stored s t a xs) (k : Stored t u (a + xs.length) ys) : Stored s u a (xs ++ ys) where
  only := k.only.trans (by rw [h.only])
  frame := h.frame.trans k.frame
  byte b := by
    have length : (xs ++ ys).length = xs.length + ys.length := List.length_append
    rw [k.byte, h.byte]
    by_cases first : a ≤ b ∧ b < a + xs.length
    · rw [dif_neg (by omega), dif_pos first, dif_pos (by omega), List.getElem_append_left]
    · by_cases second : a + xs.length ≤ b ∧ b < a + xs.length + ys.length
      · rw [dif_pos second, dif_pos (by omega), List.getElem_append_right (by omega)]
        congr 1
        omega
      · rw [dif_neg second, dif_neg first, dif_neg (by omega)]
  clean := k.clean ∘ h.clean

theorem blockPieces_last (hn : 1 ≤ n) (small : n ≤ 64) : blockPieces a n = [(a, n)] := by
  have one : ceilDiv n 64 = 1 := by
    unfold ceilDiv
    omega
  unfold blockPieces
  rw [one]
  simp [small]

theorem blockPieces_more (big : 64 < n) : blockPieces a n = (a, 64) :: blockPieces (a + 64) (n - 64) := by
  have count : ceilDiv n 64 = ceilDiv (n - 64) 64 + 1 := by
    unfold ceilDiv
    omega
  unfold blockPieces
  rw [count, List.range_succ_eq_map, List.map_cons, List.map_map]
  refine List.cons_eq_cons.2 ⟨Prod.ext rfl (by omega), List.map_congr_left fun i _ => Prod.ext ?_ ?_⟩
  · simp only [Function.comp_apply]
    omega
  · simp only [Function.comp_apply]
    omega

/-- Plain bytes from an aligned address are written block by block. -/
theorem mxWriteBlocks_plain {e : Nat} (he : e < 64) {bs : List Byte} (plain : Claim.plain s a bs.length) (aligned : a % 64 = 0) :
    ∃ u, s.mxWriteBlocks e (blockPieces a bs.length) bs = (St.ok, 0, u) ∧ Stored s u a bs := by
  have written {s : State} {l : List (Nat × Nat)} {xs : List Byte} {c k : Nat} {u : State}
      (stored : s.store (0x80 + e) c (xs.take k) = (St.ok, u)) :
      s.mxWriteBlocks e ((c, k) :: l) xs = u.mxWriteBlocks e l (xs.drop k) := by
    rw [State.mxWriteBlocks, stored]
    exact if_neg fun failed => failed rfl
  induction hn : bs.length using Nat.strongRecOn generalizing s a bs with
  | ind n ih =>
    subst hn
    by_cases small : bs.length ≤ 64
    · obtain ⟨u, stored, shows⟩ := store_plain_block (m := 0x80 + e) plain (by omega) (by omega)
      refine ⟨u, ?_, shows⟩
      rw [blockPieces_last plain.1 small, written (by rw [List.take_length]; exact stored)]
      rfl
    · have length : (bs.take 64).length = 64 := by
        rw [List.length_take]
        omega
      obtain ⟨u, stored, shows⟩ := store_plain_block (m := 0x80 + e) (bs := bs.take 64) (a := a) (s := s)
        (by rw [length]; exact plain_part plain le_rfl (by omega) (by decide)) (by omega) (by rw [length]; omega)
      have rest : Claim.plain u (a + 64) (bs.drop 64).length := by
        rw [List.length_drop]
        exact plain_part (shows.plain plain) (by omega) (by omega) (by omega)
      obtain ⟨v, more, tail⟩ := ih (bs.drop 64).length (by rw [List.length_drop]; omega) rest (by omega) rfl
      rw [List.length_drop] at more
      refine ⟨v, ?_, ?_⟩
      · rw [blockPieces_more (by omega), written stored, more]
      · rw [← List.take_append_drop 64 bs]
        exact shows.append (by rw [length]; exact tail)

theorem mxWrite_plain {e : Nat} (he : e < 64) {bs : List Byte} (plain : Claim.plain s a bs.length) (aligned : a % 64 = 0) :
    ∃ u, s.mxWrite e [(a, bs.length)] bs = (St.ok, 0, u) ∧ Stored s u a bs := by
  unfold State.mxWrite
  rw [List.map_singleton, List.flatten_singleton]
  exact mxWriteBlocks_plain he plain aligned

end Stores

end Sys2Proof.Proofs
end

section
/-!
SUPPORT. The drains by mode: what each computes, what it writes, and how it ends (R163 to R169, R184 to R188), and O38.
-/

namespace Sys2Proof.Proofs

open Sys2Proof Sys2Proof.Machine Sys2Proof.Laws

/-! ### What a drain computes -/

/-- A list with the images of its members. -/
theorem map_zip_self {α β : Type} (f : α → β) (l : List α) : (l.map f).zip l = l.map fun x => (f x, x) := by
  induction l with
  | nil => rfl
  | cons x l ih => rw [List.map_cons, List.zip_cons_cons, ih, List.map_cons]

section Values
variable (s : State) (e tile : Nat)

/-- The tile's values, as profile O reads the accumulator. -/
def drainVals : List (List XVal) :=
  (readTile (s.eng e).acc (s.mxProfO e) tile (s.mxProfA e).outer (s.mxProfB e).outer).map fun row => row.map (accVal (s.mxProfO e))

/-- The tile's blocks that share a scale (R184). -/
def drainBlocks : List (List XVal) :=
  blocksOfTile (s.mxProfO e).bsize (s.mxProfO e).bdir (s.mxProfA e).outer (s.mxProfB e).outer (drainVals s e tile)

/-- The scale of each block: its code and its divisor (R185). -/
def drainScales := (drainBlocks s e tile).map fun b => chooseScale ((fmtOf (s.mxProfO e).fmt).getD .fp32) (s.mxProfO e).e4m3 b

/-- The scale bytes that a drain writes. -/
def scaleBytes : List Byte := ((drainScales s e tile).zip (drainBlocks s e tile)).map fun b =>
  BitVec.ofNat 8 (writtenScale (s.mxProfO e).e4m3 b.1.1 b.2)

theorem drainScales_fst : (drainScales s e tile).map (·.1) = (drainBlocks s e tile).map fun b =>
    (chooseScale ((fmtOf (s.mxProfO e).fmt).getD .fp32) (s.mxProfO e).e4m3 b).1 := List.map_map

theorem drainScales_snd : (drainScales s e tile).map (·.2) = (drainBlocks s e tile).map fun b =>
    (chooseScale ((fmtOf (s.mxProfO e).fmt).getD .fp32) (s.mxProfO e).e4m3 b).2 := List.map_map

theorem scaleBytes_eq : scaleBytes s e tile = (drainBlocks s e tile).map fun b => BitVec.ofNat 8
    (writtenScale (s.mxProfO e).e4m3 (chooseScale ((fmtOf (s.mxProfO e).fmt).getD .fp32) (s.mxProfO e).e4m3 b).1 b) := by
  unfold scaleBytes drainScales
  rw [map_zip_self, List.map_map]
  rfl

/-- What an AMAX leaves for QUANT (R165). -/
def drainKey : Nat × Word := amaxKey tile (s.mxProfA e).outer (s.mxProfB e).outer
  (tileUnits (s.mxProfO e) (s.mxProfA e).outer (s.mxProfB e).outer) (s.rd (mxReg Reg.MX_PROF_O e))

/-- The position of a TOPK drain's first column (R168). -/
def drainBase (xs : Nat) : Nat := ((s.eng e).getIx xs).toNat % 65536

end Values

/-- Elements packed into bytes, row by row. -/
def packRows (o : OutputProf) (codes : List (List Nat)) : List Byte := (codes.map fun row => packElems (fmtWidth o.fmt) row).flatten

/-! ### Writing what a drain produced -/

section Write
variable {s v : State} {e a b : Nat} {ps : List (Nat × Nat)} {word : Word} {k : State → State}

theorem drainWrite_ok {parts : List (Nat × Nat × List Byte)} (plan : s.drainPlan e parts = (0, a, ps))
    (write : s.mxWrite e ps (parts.map fun p => p.2.2).flatten = (St.ok, b, v)) : s.drainWrite e parts word k = k v := by
  unfold State.drainWrite
  rw [plan]
  dsimp only
  rw [if_neg (fun h => h rfl), write]
  exact if_neg fun h => h rfl

theorem drainWrite_one {x off : Nat} {bs : List Byte} (plan : s.drainPlan e [(x, off, bs)] = (0, a, ps))
    (write : s.mxWrite e ps bs = (St.ok, b, v)) : s.drainWrite e [(x, off, bs)] word k = k v :=
  drainWrite_ok plan (by rw [List.map_singleton, List.flatten_singleton]; exact write)

theorem drainWrite_two {x off xs : Nat} {bs cs : List Byte} (plan : s.drainPlan e [(x, off, bs), (xs, 0, cs)] = (0, a, ps))
    (write : s.mxWrite e ps (bs ++ cs) = (St.ok, b, v)) : s.drainWrite e [(x, off, bs), (xs, 0, cs)] word k = k v :=
  drainWrite_ok plan (by rw [List.map_cons, List.map_singleton, List.flatten_cons, List.flatten_singleton]; exact write)

end Write

/-- The plan for bytes at a device address of plain memory. -/
theorem drainPlan_plain {s : State} {e a : Nat} {x : BitVec 4} {off : BitVec 32} {bs : List Byte} (holds : Claim.ixAt s e x off a)
    (plain : Claim.plain s a bs.length) {rest : List (Nat × Nat × List Byte)} (none : s.drainPlan e rest = (0, 0, [])) :
    s.drainPlan e ((x.toNat, off.toNat, bs) :: rest) = (0, 0, [(a, bs.length)]) := by
  have some : bs.isEmpty = false := by
    cases bs with
    | nil => exact absurd plain.1 (by decide)
    | cons => rfl
  unfold State.drainPlan
  rw [some, mxResolve_plain plain holds, none]
  rfl

/-! ### The drains by mode -/

section Modes
variable {s : State} {e tile x xs off : Nat} {keep : Bool}
  (fits : tileOk tile (tileUnits (s.mxProfO e) (s.mxProfA e).outer (s.mxProfB e).outer) = true)
include fits

theorem fxDrn_plain (ok : drainOk (s.mxProfO e) .plain (s.mxProfA e).outer (s.mxProfB e).outer = true) :
    let o := s.mxProfO e
    let p := drainCodes o (s.mxProfB e).outer (if o.bsize = 0 then [] else (drainScales s e tile).map (·.2)) (drainVals s e tile)
    ∃ word, fxDrn .plain e tile keep x xs off s
      = s.drainWrite e [(x, off, packRows o p.1), (xs, 0, if o.bsize = 0 then [] else scaleBytes s e tile)] word fun v =>
        v.drainEnd e .plain o tile (s.mxProfA e).outer (s.mxProfB e).outer keep p.2.1 p.2.2 none := by
  unfold fxDrn
  dsimp only
  rw [if_neg (by rw [ok]; decide), if_neg (by rw [fits]; decide)]
  by_cases plain : (s.mxProfO e).bsize = 0
  · simp only [if_pos plain, List.map_nil]
    exact ⟨_, rfl⟩
  · simp only [if_neg plain, List.map_map]
    rw [drainScales_snd, scaleBytes_eq]
    exact ⟨_, rfl⟩

theorem fxDrn_amax (ok : drainOk (s.mxProfO e) .amax (s.mxProfA e).outer (s.mxProfB e).outer = true)
    (room : scaleCount (s.mxProfO e).bsize (s.mxProfO e).bdir (s.mxProfA e).outer (s.mxProfB e).outer ≤ 2048) :
    let o := s.mxProfO e
    let q := drainCodes o (s.mxProfB e).outer ((drainScales s e tile).map (·.2)) (drainVals s e tile)
    ∃ word, fxDrn .amax e tile keep x xs off s = s.drainWrite e [(xs, 0, scaleBytes s e tile)] word fun v =>
      (v.setEng e { v.eng e with scales := (drainScales s e tile).map (·.1) }).drainEnd e .amax o tile (s.mxProfA e).outer
        (s.mxProfB e).outer true q.2.1 q.2.2 (some (drainKey s e tile)) := by
  unfold fxDrn
  dsimp only
  rw [if_neg (by rw [ok]; decide), if_neg (by rw [fits]; decide), if_neg (Nat.not_lt.2 room)]
  simp only [List.map_map]
  rw [drainScales_snd, drainScales_fst, scaleBytes_eq]
  exact ⟨_, rfl⟩

/-- QUANT under the scales of its AMAX (R165, R188). -/
theorem fxDrn_quant (ok : drainOk (s.mxProfO e) .quant (s.mxProfA e).outer (s.mxProfB e).outer = true)
    (matched : amaxMatches (s.eng e).amax (drainKey s e tile) = true) : let o := s.mxProfO e
    let z := drainCodes o (s.mxProfB e).outer ((s.eng e).scales.map fun k => scaleVal o.e4m3 k) (drainVals s e tile)
    ∃ word, fxDrn .quant e tile keep x xs off s = s.drainWrite e [(x, off, packRows o z.1)] word fun v =>
      v.drainEnd e .quant o tile (s.mxProfA e).outer (s.mxProfB e).outer keep z.2.1 z.2.2 none := by
  unfold fxDrn
  dsimp only
  rw [if_neg (by rw [ok]; decide), if_neg (by rw [fits]; decide), if_neg (by rw [← drainKey, matched]; decide)]
  exact ⟨_, rfl⟩

theorem fxDrn_order (ok : drainOk (s.mxProfO e) .quant (s.mxProfA e).outer (s.mxProfB e).outer = true)
    (other : amaxMatches (s.eng e).amax (drainKey s e tile) = false) :
    ∃ word, fxDrn .quant e tile keep x xs off s = s.mxFault e MxFault.order 0 0 word := by
  unfold fxDrn
  dsimp only
  rw [if_neg (by rw [ok]; decide), if_neg (by rw [fits]; decide), if_pos (by rw [← drainKey, other]; rfl)]
  exact ⟨_, rfl⟩

theorem fxDrn_topk (ok : drainOk (s.mxProfO e) .topk (s.mxProfA e).outer (s.mxProfB e).outer = true)
    (within : drainBase s e xs + ((s.mxProfB e).outer - 1) ≤ 65534) : let o := s.mxProfO e
    let top := s.topkMerge e o (s.mxProfA e).outer (s.mxProfB e).outer (drainBase s e xs) (drainVals s e tile)
    fxDrn .topk e tile keep x xs off s
      = (s.setEng e { s.eng e with cand := top.1, candKey := ((s.mxProfA e).outer, o.topk) }).drainEnd e .topk o tile (s.mxProfA e).outer
        (s.mxProfB e).outer keep top.2.1 top.2.2 none := by
  unfold drainBase at within
  unfold fxDrn
  dsimp only
  rw [if_neg (by rw [ok]; decide), if_neg (by rw [fits]; decide), if_neg (Nat.not_lt.2 within)]
  rfl

theorem fxDrn_topkEmit (ok : drainOk (s.mxProfO e) .topkEmit (s.mxProfA e).outer (s.mxProfB e).outer = true)
    (within : drainBase s e xs + ((s.mxProfB e).outer - 1) ≤ 65534) : let o := s.mxProfO e
    let top := s.topkMerge e o (s.mxProfA e).outer (s.mxProfB e).outer (drainBase s e xs) (drainVals s e tile)
    ∃ word, fxDrn .topkEmit e tile keep x xs off s
      = s.drainWrite e [(x, off, (top.1.map fun row => emitRow (o.acc == 1) o.topk row).flatten)] word fun v =>
        (v.setEng e { v.eng e with cand := [], candKey := (0, 0) }).drainEnd e .topkEmit o tile (s.mxProfA e).outer
          (s.mxProfB e).outer keep top.2.1 top.2.2 none := by
  unfold drainBase at within
  unfold fxDrn
  dsimp only
  rw [if_neg (by rw [ok]; decide), if_neg (by rw [fits]; decide), if_neg (Nat.not_lt.2 within)]
  exact ⟨_, rfl⟩

end Modes

/-! ### How a drain ends -/

theorem reached_of_write {s v : State} {e b : Nat} {ps : List (Nat × Nat)} {bs : List Byte}
    (write : s.mxWrite e ps bs = (St.ok, b, v)) : Reached (fun _ => True) s v := by
  have := mxWrite_reached s e ps bs
  rw [write] at this
  exact this

/-- Bit 0 of MX_DRAIN_STAT, wherever the first value that is not finite stood. -/
theorem drainWord_nf (m : DrainMode) (tile : Nat) (nf : Option (Nat × Nat × Nat)) (sat : Bool) :
    bit (w (drainWord m tile nf sat)) 0 = nf.isSome := by
  have flag := bb_lt nf.isSome
  have flagBit := bb_beq_one nf.isSome
  unfold drainWord
  generalize nf.getD (0, 0, 0) = p
  generalize bb nf.isSome = x at flag flagBit
  rw [← flagBit]
  simp only [bit, w, at_, BitVec.toNat_ofNat]
  congr 1
  omega

/-- A drain of an engine that was set after its accesses. -/
theorem drained_shows {s v : State} {e tile r c : Nat} {m : DrainMode} {o : OutputProf} {keep sat : Bool} {g : Engine}
    {nf : Option (Nat × Nat × Nat)} {am : Option (Nat × Word)} (hc : s.Canonical) (len : g.ix.length = 16)
    (reached : Reached (fun _ => True) s v) : let t := s.commit ((v.setEng e g).drainEnd e m o tile r c keep nf sat am)
    t.eng e = { cleared g tile (tileUnits o r c) keep am with wait := .none } ∧ t.mxState e = 1
      ∧ bit (t.rd (mxReg Reg.MX_DRAIN_STAT e)) 0 = nf.isSome ∧ ∀ a, t.byte a = v.byte a := by
  have set := (OnEngine.refl (R := fun _ => False) (e := e) v).setEng len
  have kept : (v.setEng e g).eng e = g := eng_setEng_same len
  have ready : ((v.setEng e g).eng e).ix.length = 16 := by
    rw [kept]
    exact len
  have goes := drainEnd_goes (v.setEng e g) e tile r c m o keep sat nf am ready
  have rd (a : Nat) := commit_rd_eq hc ((goes.regs.trans set.regs).trans reached.regs) a
  have mem := (goes.mem.trans set.mem).trans reached.mem
  refine ⟨?_, (congrArg (bits · 2 0) (rd _)).trans goes.state, ?_,
    fun a => (commit_byte_eq hc mem a).trans ((goes.byte_eq a).trans (set.byte_eq a))⟩
  · rw [eng_commit, drainEnd_eng _ _ _ _ _ _ _ _ _ _ _ ready, kept]
  · rw [rd, drainEnd_stat _ _ _ _ _ _ _ _ _ _ _ ready, drainWord_nf]

/-- A drain that stored its bytes (R163). -/
theorem stored_ends {s u : State} {e a tile r c : Nat} {m : DrainMode} {o : OutputProf} {keep sat : Bool} {bs : List Byte}
    {nf : Option (Nat × Nat × Nat)} {am : Option (Nat × Word)} (hc : s.Canonical) (he : e < 64) (len : (s.eng e).ix.length = 16)
    (stored : Stored s u a bs) : let t := s.commit (u.drainEnd e m o tile r c keep nf sat am)
    Claim.mxNextPc s t e ∧ (∀ i (h : i < bs.length), t.byte (a + i) = bs[i])
      ∧ ∀ k, k < a ∨ a + bs.length ≤ k → t.byte k = s.byte k := by
  have ready : (u.eng e).ix.length = 16 := by
    rw [stored.only]
    exact len
  have goes := drainEnd_goes u e tile r c m o keep sat nf am ready
  have rd (b : Nat) := commit_rd_eq hc (goes.regs.trans stored.frame.regs) b
  have byte (b : Nat) : (s.commit (u.drainEnd e m o tile r c keep nf sat am)).byte b = u.byte b :=
    (commit_byte_eq hc (goes.mem.trans stored.mem) b).trans (goes.byte_eq b)
  have low : mxReg Reg.MX_STATUS e < ctlBase 4 := by
    unfold mxReg Reg.MX_STATUS ctlBase
    omega
  have pc : Claim.mxPc u e = Claim.mxPc s e := rdB_of_frame stored.frame (fun h => not_accessReg_of_lt low (.inl h)) 28 16
  refine ⟨⟨(congrArg (bits · 2 0) (rd _)).trans goes.state, ?_⟩, fun i h => ?_, fun k hk => ?_⟩
  · rw [← pc]
    exact (congrArg (bits · 28 16) (rd _)).trans goes.pc
  · rw [byte, stored.byte, dif_pos (by omega)]
    congr 1
    omega
  · rw [byte, stored.byte_other hk]

/-! ### The drains as commands -/

section Drains
variable {e : BitVec 6} {tile : BitVec 5} {keep : Bool} {x xs : BitVec 4} {off : BitVec 32} {s : State} (hl : s.Live) (hc : s.Canonical)
  (up : Claim.mxUp s e.toNat)
  (fits : tileOk tile.toNat (tileUnits (s.mxProfO e.toNat) (s.mxProfA e.toNat).outer (s.mxProfB e.toNat).outer) = true)
include hl hc up fits

theorem exec_drnPlain_due (due : s.mxDue e.toNat (.drnPlain e tile keep x xs off) = true)
    (ok : drainOk (s.mxProfO e.toNat) .plain (s.mxProfA e.toNat).outer (s.mxProfB e.toNat).outer = true) : let n := e.toNat
    let o := s.mxProfO n
    let p := drainCodes o (s.mxProfB n).outer (if o.bsize = 0 then [] else (drainScales s n tile.toNat).map (·.2))
      (drainVals s n tile.toNat)
    let pb := if o.bsize = 0 then [] else scaleBytes s n tile.toNat
    (∀ a b ps v, s.drainPlan n [(x.toNat, off.toNat, packRows o p.1), (xs.toNat, 0, pb)] = (0, a, ps) →
      s.mxWrite n ps (packRows o p.1 ++ pb) = (St.ok, b, v) → exec (.drnPlain e tile keep x xs off) s
        = .next (s.commit (v.drainEnd n .plain o tile.toNat (s.mxProfA n).outer (s.mxProfB n).outer keep p.2.1 p.2.2 none)))
    ∧ ∀ a, o.bsize = 0 → Claim.ixAt s n x off a → Claim.plain s a (packRows o p.1).length →
      ∃ t, exec (.drnPlain e tile keep x xs off) s = .next t ∧ Claim.mxNextPc s t n
        ∧ (∀ i (h : i < (packRows o p.1).length), t.byte (a + i) = (packRows o p.1)[i])
        ∧ ∀ k, k < a ∨ a + (packRows o p.1).length ≤ k → t.byte k = s.byte k := by
  have ran := exec_due hl hc (exec_drnPlain e tile keep x xs off s) due
  obtain ⟨word, eq⟩ := fxDrn_plain (x := x.toNat) (xs := xs.toNat) (off := off.toNat) (keep := keep) fits ok
  rw [eq] at ran
  refine ⟨fun a b ps v plan write => by rw [ran, drainWrite_two plan write], fun a flat holds plain => ?_⟩
  obtain ⟨u, write, stored⟩ := mxWrite_plain e.isLt plain holds.2.2
  have unscaled : (if (s.mxProfO e.toNat).bsize = 0 then [] else scaleBytes s e.toNat tile.toNat) = [] := if_pos flat
  rw [unscaled, drainWrite_two (drainPlan_plain holds plain (rest := [(xs.toNat, 0, [])]) rfl) (by rw [List.append_nil]; exact write)]
    at ran
  exact ⟨_, ran, stored_ends hc e.isLt up.2.1 stored⟩

theorem exec_drnAmax_due (due : s.mxDue e.toNat (.drnAmax e tile keep x xs off) = true)
    (ok : drainOk (s.mxProfO e.toNat) .amax (s.mxProfA e.toNat).outer (s.mxProfB e.toNat).outer = true)
    (room : scaleCount (s.mxProfO e.toNat).bsize (s.mxProfO e.toNat).bdir (s.mxProfA e.toNat).outer (s.mxProfB e.toNat).outer ≤ 2048)
    (a b : Nat) (ps : List (Nat × Nat)) (v : State)
    (plan : s.drainPlan e.toNat [(xs.toNat, 0, scaleBytes s e.toNat tile.toNat)] = (0, a, ps))
    (write : s.mxWrite e.toNat ps (scaleBytes s e.toNat tile.toNat) = (St.ok, b, v)) : let n := e.toNat
    let q := drainCodes (s.mxProfO n) (s.mxProfB n).outer ((drainScales s n tile.toNat).map (·.2)) (drainVals s n tile.toNat)
    ∃ t, exec (.drnAmax e tile keep x xs off) s = .next t ∧ (t.eng n).scales = (drainScales s n tile.toNat).map (·.1)
      ∧ (t.eng n).amax = some (drainKey s n tile.toNat) ∧ (t.eng n).acc = (s.eng n).acc
      ∧ bit (t.rd (mxReg Reg.MX_DRAIN_STAT n)) 0 = q.2.1.isSome := by
  have ran := exec_due hl hc (exec_drnAmax e tile keep x xs off s) due
  obtain ⟨word, eq⟩ := fxDrn_amax (x := x.toNat) (xs := xs.toNat) (off := off.toNat) (keep := keep) fits ok room
  rw [eq, drainWrite_one plan write] at ran
  have reached := reached_of_write write
  obtain ⟨eng, -, flagged, -⟩ := drained_shows hc (e := e.toNat) (tile := tile.toNat) (r := (s.mxProfA e.toNat).outer)
    (c := (s.mxProfB e.toNat).outer) (m := .amax) (o := s.mxProfO e.toNat) (keep := true)
    (g := { v.eng e.toNat with scales := (drainScales s e.toNat tile.toNat).map (·.1) })
    (show (v.eng e.toNat).ix.length = 16 by rw [reached.eng]; exact up.2.1) reached
  refine ⟨_, ran, ?_, ?_, ?_, flagged⟩
  · rw [eng]
    rfl
  · rw [eng]
    rfl
  · rw [eng, reached.eng]
    rfl

theorem exec_drnQuant_due (due : s.mxDue e.toNat (.drnQuant e tile keep x xs off) = true)
    (ok : drainOk (s.mxProfO e.toNat) .quant (s.mxProfA e.toNat).outer (s.mxProfB e.toNat).outer = true) : let n := e.toNat
    let o := s.mxProfO n
    let z := drainCodes o (s.mxProfB n).outer ((s.eng n).scales.map fun k => scaleVal o.e4m3 k) (drainVals s n tile.toNat)
    (amaxMatches (s.eng n).amax (drainKey s n tile.toNat) = false →
      ∃ t, exec (.drnQuant e tile keep x xs off) s = .next t ∧ Claim.mxFaults s t n MxFault.order)
    ∧ (amaxMatches (s.eng n).amax (drainKey s n tile.toNat) = true →
      (∀ a b ps v, s.drainPlan n [(x.toNat, off.toNat, packRows o z.1)] = (0, a, ps) →
        s.mxWrite n ps (packRows o z.1) = (St.ok, b, v) → exec (.drnQuant e tile keep x xs off) s
          = .next (s.commit (v.drainEnd n .quant o tile.toNat (s.mxProfA n).outer (s.mxProfB n).outer keep z.2.1 z.2.2 none)))
      ∧ ∀ a, Claim.ixAt s n x off a → Claim.plain s a (packRows o z.1).length →
        ∃ t, exec (.drnQuant e tile keep x xs off) s = .next t ∧ Claim.mxNextPc s t n
          ∧ (∀ i (h : i < (packRows o z.1).length), t.byte (a + i) = (packRows o z.1)[i])
          ∧ ∀ k, k < a ∨ a + (packRows o z.1).length ≤ k → t.byte k = s.byte k) := by
  have source := exec_drnQuant e tile keep x xs off s
  refine ⟨fun other => ?_, fun matched => ?_⟩
  · obtain ⟨word, fault⟩ := fxDrn_order (x := x.toNat) (xs := xs.toNat) (off := off.toNat) (keep := keep) fits ok other
    exact exec_faults hl hc source due fault (by decide)
  have ran := exec_due hl hc source due
  obtain ⟨word, eq⟩ := fxDrn_quant (x := x.toNat) (xs := xs.toNat) (off := off.toNat) (keep := keep) fits ok matched
  rw [eq] at ran
  refine ⟨fun a b ps v plan write => by rw [ran, drainWrite_one plan write], fun a holds plain => ?_⟩
  obtain ⟨u, write, stored⟩ := mxWrite_plain e.isLt plain holds.2.2
  rw [drainWrite_one (drainPlan_plain holds plain rfl) write] at ran
  exact ⟨_, ran, stored_ends hc e.isLt up.2.1 stored⟩

theorem exec_drnTopk_due (due : s.mxDue e.toNat (.drnTopk e tile keep x xs off) = true)
    (ok : drainOk (s.mxProfO e.toNat) .topk (s.mxProfA e.toNat).outer (s.mxProfB e.toNat).outer = true)
    (within : drainBase s e.toNat xs.toNat + ((s.mxProfB e.toNat).outer - 1) ≤ 65534) : let n := e.toNat
    let o := s.mxProfO n
    let r := (s.mxProfA n).outer
    ∃ t, exec (.drnTopk e tile keep x xs off) s = .next t
      ∧ (t.eng n).cand
        = (s.topkMerge n o r (s.mxProfB n).outer (drainBase s n xs.toNat) (drainVals s n tile.toNat)).1
      ∧ (t.eng n).candKey = (r, o.topk) ∧ t.mxState n = 1 ∧ ∀ a, t.byte a = s.byte a := by
  have ran := exec_due hl hc (exec_drnTopk e tile keep x xs off s) due
  rw [fxDrn_topk fits ok within] at ran
  refine ⟨_, ran, ?_⟩
  obtain ⟨eng, state, -, bytes⟩ := drained_shows hc (e := e.toNat) (tile := tile.toNat) (r := (s.mxProfA e.toNat).outer)
    (c := (s.mxProfB e.toNat).outer) (m := .topk) (o := s.mxProfO e.toNat) (keep := keep)
    (g := { s.eng e.toNat with
      cand := (s.topkMerge e.toNat (s.mxProfO e.toNat) (s.mxProfA e.toNat).outer (s.mxProfB e.toNat).outer
        (drainBase s e.toNat xs.toNat) (drainVals s e.toNat tile.toNat)).1
      candKey := ((s.mxProfA e.toNat).outer, (s.mxProfO e.toNat).topk) }) up.2.1 (.refl s)
  refine ⟨?_, ?_, state, bytes⟩
  · rw [eng]
    rfl
  · rw [eng]
    rfl

theorem exec_drnTopkEmit_due (due : s.mxDue e.toNat (.drnTopkEmit e tile keep x xs off) = true)
    (ok : drainOk (s.mxProfO e.toNat) .topkEmit (s.mxProfA e.toNat).outer (s.mxProfB e.toNat).outer = true)
    (within : drainBase s e.toNat xs.toNat + ((s.mxProfB e.toNat).outer - 1) ≤ 65534) (a b : Nat) (ps : List (Nat × Nat)) (v : State) :
    let n := e.toNat
    let o := s.mxProfO n
    let top := s.topkMerge n o (s.mxProfA n).outer (s.mxProfB n).outer (drainBase s n xs.toNat) (drainVals s n tile.toNat)
    let out := (top.1.map fun row => emitRow (o.acc == 1) o.topk row).flatten
    s.drainPlan n [(x.toNat, off.toNat, out)] = (0, a, ps) → s.mxWrite n ps out = (St.ok, b, v) →
    ∃ t, exec (.drnTopkEmit e tile keep x xs off) s = .next t ∧ (t.eng n).cand = [] ∧ ∀ k, t.byte k = v.byte k := by
  intro n o top out plan write
  have ran := exec_due hl hc (exec_drnTopkEmit e tile keep x xs off s) due
  obtain ⟨word, eq⟩ := fxDrn_topkEmit (x := x.toNat) (off := off.toNat) (keep := keep) fits ok within
  rw [eq, drainWrite_one plan write] at ran
  have reached := reached_of_write write
  obtain ⟨eng, -, -, bytes⟩ := drained_shows hc (e := e.toNat) (tile := tile.toNat) (r := (s.mxProfA e.toNat).outer)
    (c := (s.mxProfB e.toNat).outer) (m := .topkEmit) (o := s.mxProfO e.toNat) (keep := keep)
    (g := { v.eng e.toNat with cand := [], candKey := (0, 0) })
    (show (v.eng e.toNat).ix.length = 16 by rw [reached.eng]; exact up.2.1) reached
  refine ⟨_, ran, ?_, bytes⟩
  rw [eng]
  rfl

end Drains

/-- Settles O38: a drain that is allowed computes its bytes, writes them block by block, and ends as `drainEnd` says; an access
leaves the engines and the engine's registers, so the tile and its report are those of the state that the drain began in. -/
theorem matrixDrains : Obligations.MatrixDrains := by
  unfold Obligations.MatrixDrains
  refine ⟨?_, ?_⟩
  · intro e tile keep x xs off s hl hc up n g o r c vals f pack blocks scales q sb key base top p pb z due put fits
    exact ⟨exec_drnPlain_due hl hc up fits, exec_drnAmax_due hl hc up fits, exec_drnQuant_due hl hc up fits,
      exec_drnTopk_due hl hc up fits, exec_drnTopkEmit_due hl hc up fits⟩
  · intro u e tile rows cols m o keep sat nf am he ht hn len
    have goes := drainEnd_goes u e tile rows cols m o keep sat nf am len
    obtain ⟨tileField, mode, flagged, saturated⟩ := drainWord_fields m (drainSat (u.eng e) tile (tileUnits o rows cols) sat) ht hn
    dsimp only
    rw [drainEnd_eng u e tile rows cols m o keep sat nf am len, drainEnd_stat u e tile rows cols m o keep sat nf am len]
    exact ⟨rfl, rfl, tileField, mode, flagged, saturated, drainEnd_event u e tile rows cols m o keep sat nf am len, goes.state, goes.pc,
      goes.byte_eq⟩

end Sys2Proof.Proofs
end
